-- ==== Sys2Proof/Word.lean ====
section
/-!
DEFINITION. Word types (spec 00 R2, R3).
-/

namespace Sys2Proof

/-- A byte of memory. -/
abbrev Byte := BitVec 8

/-- An instruction word, or one lane of a vector register (R123). -/
abbrev W32 := BitVec 32

/-- A scalar register, an address, a lane mask. -/
abbrev W64 := BitVec 64

/-- A record word of 128 bits (R71, R81). -/
abbrev W128 := BitVec 128

end Sys2Proof
end

