-- ==== Sys2Proof/Config.lean ====
section
/-!
DEFINITION. The free values: what the spec leaves open and the machine goes on with. Each is a constant without a body,
applied to a counter that State holds (assumption 7); no statement can rest on what it is.
-/

namespace Sys2Proof

/-- A word whose value the spec does not state. -/
opaque Config.freeWord : Nat → W64
/-- A choice that the spec leaves to the device, to be taken modulo the number of alternatives. -/
opaque Config.freeChoice : Nat → Nat
/-- The fraction of a BS24 NaN that a conversion of a value produces (R222). -/
opaque Config.bs24Fraction : Nat → Nat
/-- An element past the end of the source of a widening `vcvt` (R220): the group, the clock and the element's number. -/
opaque Config.noElement : Nat → Nat → Nat → Nat
/-- A byte of the salt of an attestation report's signature (R367), by report and position. -/
opaque Config.salt : Nat → Nat → Byte
/-- The modulus of the device key (R367). -/
opaque Config.deviceModulus : Nat
/-- The private exponent of the device key (R367). -/
opaque Config.deviceExponent : Nat
/-- The SHA-256 hash of the public key of the images, held in the device's fuses (R366). -/
opaque Config.keyHash : List Byte
/-- The rollback counter held in the device's fuses (R366, R367). -/
opaque Config.rollback : W64

end Sys2Proof
end

