-- ==== Sys2Proof/Machine/Bits.lean ====
section
/-!
DEFINITION. Bit fields, byte order and small list helpers, shared by every operation (spec 00 R2).
-/

namespace Sys2Proof.Machine

/-- Bits `[hi:lo]` of a number (R2). -/
def bitsOf (x hi lo : Nat) : Nat := (x >>> lo) % 2 ^ (hi + 1 - lo)

/-- Bits `[hi:lo]` of a 64-bit word. -/
def fld (x : W64) (hi lo : Nat) : Nat := bitsOf x.toNat hi lo

/-- One bit of a number. -/
def bitAt (x i : Nat) : Bool := x.testBit i

/-- The 64-bit word of a number, modulo 2^64. -/
def w64 (n : Nat) : W64 := BitVec.ofNat 64 n

/-- The 32-bit word of a number, modulo 2^32. -/
def w32 (n : Nat) : W32 := BitVec.ofNat 32 n

/-- The signed value of the low `w` bits of `x`. -/
def toSigned (w x : Nat) : Int :=
  let y := x % 2 ^ w
  if y < 2 ^ (w - 1) then (y : Int) else (y : Int) - ((2 ^ w : Nat) : Int)

/-- The low `w` bits of an integer, as a number. -/
def ofSigned (w : Nat) (x : Int) : Nat := (x % ((2 ^ w : Nat) : Int)).toNat

/-- `n` bytes of a number, low byte first (R2). -/
def toBytes : Nat → Nat → List Byte
  | 0, _ => []
  | n + 1, x => BitVec.ofNat 8 x :: toBytes n (x / 256)

/-- The number whose bytes are given, low byte first (R2). -/
def ofBytes : List Byte → Nat
  | [] => 0
  | b :: bs => b.toNat + 256 * ofBytes bs

/-- Lanes of a mask in ascending order, among the first `n`. -/
def lanesBelow (n : Nat) (m : W64) : List Nat := (List.range n).filter fun l => m.getLsbD l

/-- The lanes of a mask in ascending order. -/
def lanesOf (m : W64) : List Nat := lanesBelow 64 m

/-- The mask of one lane. -/
def laneBit (l : Nat) : W64 := w64 (2 ^ l)

/-- The mask of a list of lanes. -/
def maskOf : List Nat → W64
  | [] => 0
  | l :: ls => laneBit l ||| maskOf ls

/-- The number of lanes of a mask. -/
def popc (m : W64) : Nat := (lanesOf m).length

/-- The lowest lane of a mask. -/
def lowest (m : W64) : Option Nat := (lanesOf m).head?

/-- The number of leading zeros among the low `w` bits (R169). -/
def clzN : Nat → Nat → Nat
  | 0, _ => 0
  | w + 1, x => if x.testBit w then 0 else 1 + clzN w x

/-- The number of set bits among the low `w` bits (R169). -/
def popcN : Nat → Nat → Nat
  | 0, _ => 0
  | w + 1, x => (if x.testBit w then 1 else 0) + popcN w x

/-- Rounded-up division. -/
def ceilDiv (a b : Nat) : Nat := (a + b - 1) / b

/-- Replace the element at an index. -/
def setAt {α : Type} : List α → Nat → α → List α
  | [], _, _ => []
  | _ :: xs, 0, y => y :: xs
  | x :: xs, n + 1, y => x :: setAt xs n y

/-- Insert a number in an ascending list without repeats. -/
def insertNat (n : Nat) : List Nat → List Nat
  | [] => [n]
  | x :: xs => if n < x then n :: x :: xs else if n = x then x :: xs else x :: insertNat n xs

/-- The distinct members of a list, ascending. -/
def sortNat : List Nat → List Nat
  | [] => []
  | x :: xs => insertNat x (sortNat xs)

/-- A map from numbers, as a list of pairs with rising keys. -/
abbrev NMap (α : Type) := List (Nat × α)

/-- The entry of a key. -/
def getN {α : Type} : NMap α → Nat → Option α
  | [], _ => none
  | (k, v) :: m, i => if k = i then some v else getN m i

/-- Set the entry of a key, keeping the keys rising. -/
def putN {α : Type} : NMap α → Nat → α → NMap α
  | [], i, v => [(i, v)]
  | (k, w) :: m, i, v =>
    if i < k then (i, v) :: (k, w) :: m else if i = k then (i, v) :: m else (k, w) :: putN m i v

/-- Remove the entry of a key. -/
def delN {α : Type} : NMap α → Nat → NMap α
  | [], _ => []
  | (k, w) :: m, i => if k = i then delN m i else (k, w) :: delN m i

/-- A map from numbers to words in canonical form: keys rise and no entry is 0. -/
abbrev ZMap (w : Nat) := List (Nat × BitVec w)

/-- The word of a key; 0 where nothing is listed. -/
def getZ {w : Nat} : ZMap w → Nat → BitVec w
  | [], _ => 0
  | (k, v) :: m, i => if k = i then v else getZ m i

/-- Remove the entry of a key. -/
def delZ {w : Nat} : ZMap w → Nat → ZMap w
  | [], _ => []
  | (k, v) :: m, i => if k = i then delZ m i else (k, v) :: delZ m i

/-- Put an entry at a key, keeping the keys rising. -/
def insZ {w : Nat} : ZMap w → Nat → BitVec w → ZMap w
  | [], i, v => [(i, v)]
  | (k, x) :: m, i, v =>
    if i < k then (i, v) :: (k, x) :: m else if i = k then (i, v) :: m else (k, x) :: insZ m i v

/-- Set the word of a key; a zero removes the entry, so equal maps are equal lists. -/
def setZ {w : Nat} (m : ZMap w) (i : Nat) (v : BitVec w) : ZMap w :=
  if v = 0 then delZ m i else insZ m i v

/-- The canonical form: keys rise strictly above `lo` and no entry is 0. -/
def wfFrom {w : Nat} : Nat → ZMap w → Bool
  | _, [] => true
  | lo, (k, v) :: m => decide (lo ≤ k) && decide (v ≠ 0) && wfFrom (k + 1) m

end Sys2Proof.Machine
end

