-- ==== Sys2Proof/Syntax.lean ====
section
/-!
DEFINITION. The operations of spec/opcode_table.json: one constructor for each row. An instruction row carries the
fields of its words (spec 08 R143 to R147). An event row has no words: what the event brings with it (the value the host
wrote, the unit it happens at, the choice the spec leaves to the machine) is an Input, which State holds.
-/

namespace Sys2Proof

/-- Bits 17:10 of word 0, common to every form (R144). -/
structure Hdr where
  pneg : Bool
  psel : BitVec 4
  stall : BitVec 3
  deriving DecidableEq, Repr

/-- The fields of an extended form (R147). -/
structure Ext where
  type2 : BitVec 5
  pitch : BitVec 6
  bm : BitVec 2
  b : BitVec 10
  a : BitVec 10
  d : BitVec 10
  cols : BitVec 3
  rows : BitVec 3
  mod : BitVec 8
  typ : BitVec 5
  c : BitVec 10
  deriving DecidableEq, Repr

/-- The forms of more than one word (R143): single with literal, extended, extended with literal. -/
inductive Multi where
  | lit (d a : BitVec 7) (v : W64)
  | ext (x : Ext)
  | extLit (x : Ext) (v : W64)
  deriving DecidableEq, Repr

/-- What the boot ROM finds (R366): the digests of the three verified images, or the step that failed. -/
inductive BootResult where
  | verified (digests : List (List Byte))
  | failed (stepNo : Nat)
  deriving DecidableEq, Repr

/-- An image on the on-package flash (R366): its bytes, its header, and the public key that is to verify it, 384 bytes of modulus
and then its exponent, highest byte first. -/
structure FlashImage where
  body : List Byte
  digest : List Byte
  version : W64
  signature : List Byte
  key : List Byte
  deriving DecidableEq, Repr

/-- A host access through the BAR 4 window (R361). -/
inductive HostAccess where
  | read (off size : Nat)
  | write (off : Nat) (data : List Byte)
  deriving DecidableEq, Repr

/-- The completion of an ATS Translation Request (R365). -/
inductive AtsResult where
  | denied
  | found (pa : Nat)
  deriving DecidableEq, Repr

/-- What a request of a peer asks for (R335, R336, R353). -/
inductive RemoteKind where
  | read (va : W64) (n : Nat)
  | write (va : W64) (data : List (Option Byte))
  | atomic (va : W64) (size : Nat) (typ : BitVec 5) (op : BitVec 4) (v : W64)
  | cas (va : W64) (size : Nat) (cmp v : W128)
  | push (core slot off : Nat) (ctr : Option Nat) (data : List Byte)
  /-- A slice of a copy over an optical port: its pieces (R353). -/
  | slice (parts : List (W64 × List (Option Byte)))
  deriving DecidableEq, Repr

/-- A request that a destination station takes custody of (R329, R120). -/
structure RemoteRequest where
  podasid : Nat
  src : Nat
  tag : Nat
  kind : RemoteKind
  /-- Its traffic class, which its response shares (R330). -/
  tc : Nat := 1
  deriving DecidableEq, Repr

/-- A hoist: header fields, pennants and payload (R340). -/
structure Hoist where
  tenant : Nat
  satcnt : Nat
  count : Nat
  digest : Nat
  seq : Nat
  comm : Nat
  tc : Nat
  wtype : BitVec 5
  origin : Nat
  pens : List W64
  payload : List Byte
  deriving DecidableEq, Repr

/-- A message between fabric processors (R357). -/
structure Emsg where
  src : Nat
  tag : Nat
  p0 : W64
  p1 : W64
  deriving DecidableEq, Repr

/-- What an event brings with it. Each event's meaning says which fields it reads; the others are left alone. -/
structure Input where
  unit : Nat := 0
  idx : Nat := 0
  aux : Nat := 0
  word : W64 := 0
  victim : Option Nat := none
  flag : Bool := false
  data : List Byte := []
  boot : List FlashImage := []
  host : HostAccess := .read 0 0
  ats : AtsResult := .denied
  req : Option RemoteRequest := none
  hoist : Option Hoist := none
  msg : Option Emsg := none
  deriving DecidableEq, Repr

/-- The operations and events of the table, one constructor a row. -/
inductive Instr where
  /-- NOP (R169). -/
  | nop (h : Hdr)
  /-- SLI (R169). -/
  | sli (h : Hdr) (d a : BitVec 7)
  /-- SLI_EXT (R169). -/
  | sliExt (h : Hdr) (m : Multi)
  /-- SMOV (R169). -/
  | smov (h : Hdr) (d a : BitVec 7)
  /-- SMOV_EXT (R169). -/
  | smovExt (h : Hdr) (m : Multi)
  /-- SADD (R169). -/
  | sadd (h : Hdr) (d a : BitVec 7)
  /-- SADD_EXT (R169). -/
  | saddExt (h : Hdr) (m : Multi)
  /-- SSUB (R169). -/
  | ssub (h : Hdr) (d a : BitVec 7)
  /-- SSUB_EXT (R169). -/
  | ssubExt (h : Hdr) (m : Multi)
  /-- SMUL (R169). -/
  | smul (h : Hdr) (d a : BitVec 7)
  /-- SMUL_EXT (R169). -/
  | smulExt (h : Hdr) (m : Multi)
  /-- SMULH (R169). -/
  | smulh (h : Hdr) (d a : BitVec 7)
  /-- SMULH_EXT (R169). -/
  | smulhExt (h : Hdr) (m : Multi)
  /-- SDIV (R171). -/
  | sdiv (h : Hdr) (d a : BitVec 7)
  /-- SDIV_EXT (R171). -/
  | sdivExt (h : Hdr) (m : Multi)
  /-- SREM (R171). -/
  | srem (h : Hdr) (d a : BitVec 7)
  /-- SREM_EXT (R171). -/
  | sremExt (h : Hdr) (m : Multi)
  /-- SAND (R169). -/
  | sand (h : Hdr) (d a : BitVec 7)
  /-- SAND_EXT (R169). -/
  | sandExt (h : Hdr) (m : Multi)
  /-- SOR (R169). -/
  | sor (h : Hdr) (d a : BitVec 7)
  /-- SOR_EXT (R169). -/
  | sorExt (h : Hdr) (m : Multi)
  /-- SXOR (R169). -/
  | sxor (h : Hdr) (d a : BitVec 7)
  /-- SXOR_EXT (R169). -/
  | sxorExt (h : Hdr) (m : Multi)
  /-- SANDN (R169). -/
  | sandn (h : Hdr) (d a : BitVec 7)
  /-- SANDN_EXT (R169). -/
  | sandnExt (h : Hdr) (m : Multi)
  /-- SSHL (R170). -/
  | sshl (h : Hdr) (d a : BitVec 7)
  /-- SSHL_EXT (R170). -/
  | sshlExt (h : Hdr) (m : Multi)
  /-- SSHR (R170). -/
  | sshr (h : Hdr) (d a : BitVec 7)
  /-- SSHR_EXT (R170). -/
  | sshrExt (h : Hdr) (m : Multi)
  /-- SSRA (R170). -/
  | ssra (h : Hdr) (d a : BitVec 7)
  /-- SSRA_EXT (R170). -/
  | ssraExt (h : Hdr) (m : Multi)
  /-- SMIN (R169). -/
  | smin (h : Hdr) (d a : BitVec 7)
  /-- SMIN_EXT (R169). -/
  | sminExt (h : Hdr) (m : Multi)
  /-- SMAX (R169). -/
  | smax (h : Hdr) (d a : BitVec 7)
  /-- SMAX_EXT (R169). -/
  | smaxExt (h : Hdr) (m : Multi)
  /-- SCMP (R173). -/
  | scmp (h : Hdr) (d a : BitVec 7)
  /-- SCMP_EXT (R173). -/
  | scmpExt (h : Hdr) (m : Multi)
  /-- SSEL (R173). -/
  | ssel (h : Hdr) (m : Multi)
  /-- SCLZ (R169). -/
  | sclz (h : Hdr) (d a : BitVec 7)
  /-- SCLZ_EXT (R169). -/
  | sclzExt (h : Hdr) (m : Multi)
  /-- SPOPC (R169). -/
  | spopc (h : Hdr) (d a : BitVec 7)
  /-- SPOPC_EXT (R169). -/
  | spopcExt (h : Hdr) (m : Multi)
  /-- SBFX (R172). -/
  | sbfx (h : Hdr) (d a : BitVec 7)
  /-- SBFX_EXT (R172). -/
  | sbfxExt (h : Hdr) (m : Multi)
  /-- SBFI (R172). -/
  | sbfi (h : Hdr) (m : Multi)
  /-- SLD (R175). -/
  | sld (h : Hdr) (m : Multi)
  /-- SST (R175). -/
  | sst (h : Hdr) (m : Multi)
  /-- SREAD (R177). -/
  | sread (h : Hdr) (d a : BitVec 7)
  /-- SWRITE (R177). -/
  | swrite (h : Hdr) (d a : BitVec 7)
  /-- SFROMV (R179). -/
  | sfromv (h : Hdr) (m : Multi)
  /-- SATOM (R176). -/
  | satom (h : Hdr) (m : Multi)
  /-- BRA (R180). -/
  | bra (h : Hdr) (off : BitVec 14)
  /-- BRA_LIT (R180). -/
  | braLit (h : Hdr) (d a : BitVec 7) (v : W64)
  /-- SBRA (R181). -/
  | sbra (h : Hdr) (d a : BitVec 7) (v : W64)
  /-- BRX (R182). -/
  | brx (h : Hdr) (a : BitVec 7)
  /-- BRX_EXT (R182). -/
  | brxExt (h : Hdr) (m : Multi)
  /-- CALL (R183). -/
  | call (h : Hdr) (off : BitVec 14)
  /-- CALL_LIT (R183). -/
  | callLit (h : Hdr) (d a : BitVec 7) (v : W64)
  /-- CALLX (R182). -/
  | callx (h : Hdr) (a : BitVec 7)
  /-- CALLX_EXT (R182). -/
  | callxExt (h : Hdr) (m : Multi)
  /-- RET (R183). -/
  | ret (h : Hdr)
  /-- RSET (R26). -/
  | rset (h : Hdr) (d : BitVec 7)
  /-- RJOIN (R27). -/
  | rjoin (h : Hdr) (d : BitVec 7)
  /-- BAR (R186). -/
  | bar (h : Hdr) (a : BitVec 7)
  /-- EXIT (R187). -/
  | exit (h : Hdr)
  /-- MON (R188). -/
  | mon (h : Hdr) (m : Multi)
  /-- MWAIT (R189). -/
  | mwait (h : Hdr) (a : BitVec 7)
  /-- MWAIT_LIT (R189). -/
  | mwaitLit (h : Hdr) (d a : BitVec 7) (v : W64)
  /-- TRAP (R191). -/
  | trap (h : Hdr) (off : BitVec 14)
  /-- YIELD (R192). -/
  | yieldI (h : Hdr)
  /-- IFENCE (R194). -/
  | ifence (h : Hdr)
  /-- ICINV (R193). -/
  | icinv (h : Hdr) (m : Multi)
  /-- ELECT (R195). -/
  | elect (h : Hdr) (d : BitVec 7)
  /-- JMOV (R196). -/
  | jmov (h : Hdr) (m : Multi)
  /-- PLOG (R197). -/
  | plog (h : Hdr) (d a : BitVec 7)
  /-- PLOG_EXT (R197). -/
  | plogExt (h : Hdr) (m : Multi)
  /-- PMOV (R198). -/
  | pmov (h : Hdr) (d a : BitVec 7)
  /-- PMOV_EXT (R198). -/
  | pmovExt (h : Hdr) (m : Multi)
  /-- VADD (R209). -/
  | vadd (h : Hdr) (d a : BitVec 7)
  /-- VADD_EXT (R209). -/
  | vaddExt (h : Hdr) (m : Multi)
  /-- VSUB (R209). -/
  | vsub (h : Hdr) (d a : BitVec 7)
  /-- VSUB_EXT (R209). -/
  | vsubExt (h : Hdr) (m : Multi)
  /-- VMUL (R209). -/
  | vmul (h : Hdr) (d a : BitVec 7)
  /-- VMUL_EXT (R209). -/
  | vmulExt (h : Hdr) (m : Multi)
  /-- VMULH (R209). -/
  | vmulh (h : Hdr) (d a : BitVec 7)
  /-- VMULH_EXT (R209). -/
  | vmulhExt (h : Hdr) (m : Multi)
  /-- VMAD (R209). -/
  | vmad (h : Hdr) (m : Multi)
  /-- VABS (R209). -/
  | vabs (h : Hdr) (d a : BitVec 7)
  /-- VABS_EXT (R209). -/
  | vabsExt (h : Hdr) (m : Multi)
  /-- VNEG (R209). -/
  | vneg (h : Hdr) (d a : BitVec 7)
  /-- VNEG_EXT (R209). -/
  | vnegExt (h : Hdr) (m : Multi)
  /-- VMIN (R209). -/
  | vmin (h : Hdr) (d a : BitVec 7)
  /-- VMIN_EXT (R209). -/
  | vminExt (h : Hdr) (m : Multi)
  /-- VMAX (R209). -/
  | vmax (h : Hdr) (d a : BitVec 7)
  /-- VMAX_EXT (R209). -/
  | vmaxExt (h : Hdr) (m : Multi)
  /-- VAND (R209). -/
  | vand (h : Hdr) (d a : BitVec 7)
  /-- VAND_EXT (R209). -/
  | vandExt (h : Hdr) (m : Multi)
  /-- VOR (R209). -/
  | vor (h : Hdr) (d a : BitVec 7)
  /-- VOR_EXT (R209). -/
  | vorExt (h : Hdr) (m : Multi)
  /-- VXOR (R209). -/
  | vxor (h : Hdr) (d a : BitVec 7)
  /-- VXOR_EXT (R209). -/
  | vxorExt (h : Hdr) (m : Multi)
  /-- VANDN (R209). -/
  | vandn (h : Hdr) (d a : BitVec 7)
  /-- VANDN_EXT (R209). -/
  | vandnExt (h : Hdr) (m : Multi)
  /-- VSHL (R210). -/
  | vshl (h : Hdr) (d a : BitVec 7)
  /-- VSHL_EXT (R210). -/
  | vshlExt (h : Hdr) (m : Multi)
  /-- VSHR (R210). -/
  | vshr (h : Hdr) (d a : BitVec 7)
  /-- VSHR_EXT (R210). -/
  | vshrExt (h : Hdr) (m : Multi)
  /-- VSRA (R210). -/
  | vsra (h : Hdr) (d a : BitVec 7)
  /-- VSRA_EXT (R210). -/
  | vsraExt (h : Hdr) (m : Multi)
  /-- VCLZ (R209). -/
  | vclz (h : Hdr) (d a : BitVec 7)
  /-- VCLZ_EXT (R209). -/
  | vclzExt (h : Hdr) (m : Multi)
  /-- VPOPC (R209). -/
  | vpopc (h : Hdr) (d a : BitVec 7)
  /-- VPOPC_EXT (R209). -/
  | vpopcExt (h : Hdr) (m : Multi)
  /-- VBFX (R211). -/
  | vbfx (h : Hdr) (d a : BitVec 7)
  /-- VBFX_EXT (R211). -/
  | vbfxExt (h : Hdr) (m : Multi)
  /-- VBFI (R211). -/
  | vbfi (h : Hdr) (m : Multi)
  /-- VCMP (R212). -/
  | vcmp (h : Hdr) (m : Multi)
  /-- VSEL (R212). -/
  | vsel (h : Hdr) (m : Multi)
  /-- VADDSAT (R209). -/
  | vaddsat (h : Hdr) (d a : BitVec 7)
  /-- VADDSAT_EXT (R209). -/
  | vaddsatExt (h : Hdr) (m : Multi)
  /-- VSUBSAT (R209). -/
  | vsubsat (h : Hdr) (d a : BitVec 7)
  /-- VSUBSAT_EXT (R209). -/
  | vsubsatExt (h : Hdr) (m : Multi)
  /-- VMOV (R209). -/
  | vmov (h : Hdr) (d a : BitVec 7)
  /-- VMOV_EXT (R209). -/
  | vmovExt (h : Hdr) (m : Multi)
  /-- VLI (R213). -/
  | vli (h : Hdr) (d a : BitVec 7)
  /-- VLI_EXT (R213). -/
  | vliExt (h : Hdr) (m : Multi)
  /-- VFROMS (R213). -/
  | vfroms (h : Hdr) (d a : BitVec 7)
  /-- VFROMS_EXT (R213). -/
  | vfromsExt (h : Hdr) (m : Multi)
  /-- VLANE (R213). -/
  | vlane (h : Hdr) (d : BitVec 7)
  /-- VLANE_EXT (R213). -/
  | vlaneExt (h : Hdr) (m : Multi)
  /-- VFADD (R214). -/
  | vfadd (h : Hdr) (d a : BitVec 7)
  /-- VFADD_EXT (R214). -/
  | vfaddExt (h : Hdr) (m : Multi)
  /-- VFSUB (R214). -/
  | vfsub (h : Hdr) (d a : BitVec 7)
  /-- VFSUB_EXT (R214). -/
  | vfsubExt (h : Hdr) (m : Multi)
  /-- VFMUL (R214). -/
  | vfmul (h : Hdr) (d a : BitVec 7)
  /-- VFMUL_EXT (R214). -/
  | vfmulExt (h : Hdr) (m : Multi)
  /-- VFMA (R214). -/
  | vfma (h : Hdr) (m : Multi)
  /-- VFMIN (R215). -/
  | vfmin (h : Hdr) (d a : BitVec 7)
  /-- VFMIN_EXT (R215). -/
  | vfminExt (h : Hdr) (m : Multi)
  /-- VFMAX (R215). -/
  | vfmax (h : Hdr) (d a : BitVec 7)
  /-- VFMAX_EXT (R215). -/
  | vfmaxExt (h : Hdr) (m : Multi)
  /-- VFABS (R214). -/
  | vfabs (h : Hdr) (d a : BitVec 7)
  /-- VFABS_EXT (R214). -/
  | vfabsExt (h : Hdr) (m : Multi)
  /-- VFNEG (R214). -/
  | vfneg (h : Hdr) (d a : BitVec 7)
  /-- VFNEG_EXT (R214). -/
  | vfnegExt (h : Hdr) (m : Multi)
  /-- VFCMP (R216). -/
  | vfcmp (h : Hdr) (m : Multi)
  /-- VFDIV (R217). -/
  | vfdiv (h : Hdr) (d a : BitVec 7)
  /-- VFDIV_EXT (R217). -/
  | vfdivExt (h : Hdr) (m : Multi)
  /-- VFSQRT (R217). -/
  | vfsqrt (h : Hdr) (d a : BitVec 7)
  /-- VFSQRT_EXT (R217). -/
  | vfsqrtExt (h : Hdr) (m : Multi)
  /-- VRCPA (R219). -/
  | vrcpa (h : Hdr) (d a : BitVec 7)
  /-- VRCPA_EXT (R219). -/
  | vrcpaExt (h : Hdr) (m : Multi)
  /-- VRSQA (R219). -/
  | vrsqa (h : Hdr) (d a : BitVec 7)
  /-- VRSQA_EXT (R219). -/
  | vrsqaExt (h : Hdr) (m : Multi)
  /-- VFEXP2A (R219). -/
  | vfexp2a (h : Hdr) (d a : BitVec 7)
  /-- VFEXP2A_EXT (R219). -/
  | vfexp2aExt (h : Hdr) (m : Multi)
  /-- VFLOG2A (R219). -/
  | vflog2a (h : Hdr) (d a : BitVec 7)
  /-- VFLOG2A_EXT (R219). -/
  | vflog2aExt (h : Hdr) (m : Multi)
  /-- VFCLASS (R218). -/
  | vfclass (h : Hdr) (d a : BitVec 7)
  /-- VFCLASS_EXT (R218). -/
  | vfclassExt (h : Hdr) (m : Multi)
  /-- VFROUND (R218). -/
  | vfround (h : Hdr) (d a : BitVec 7)
  /-- VFROUND_EXT (R218). -/
  | vfroundExt (h : Hdr) (m : Multi)
  /-- VFLDEXP (R218). -/
  | vfldexp (h : Hdr) (d a : BitVec 7)
  /-- VFLDEXP_EXT (R218). -/
  | vfldexpExt (h : Hdr) (m : Multi)
  /-- VCVT (R220). -/
  | vcvt (h : Hdr) (m : Multi)
  /-- VQUANT (R223). -/
  | vquant (h : Hdr) (m : Multi)
  /-- VDEQUANT (R224). -/
  | vdequant (h : Hdr) (m : Multi)
  /-- VSHFL (R225). -/
  | vshfl (h : Hdr) (m : Multi)
  /-- VROT (R225). -/
  | vrot (h : Hdr) (m : Multi)
  /-- VBCAST (R225). -/
  | vbcast (h : Hdr) (m : Multi)
  /-- VRED (R226). -/
  | vred (h : Hdr) (m : Multi)
  /-- VSCAN (R227). -/
  | vscan (h : Hdr) (m : Multi)
  /-- VBALLOT (R228). -/
  | vballot (h : Hdr) (m : Multi)
  /-- VCOMPACT (R228). -/
  | vcompact (h : Hdr) (m : Multi)
  /-- LD (R235). -/
  | ld (h : Hdr) (m : Multi)
  /-- ST (R236). -/
  | st (h : Hdr) (m : Multi)
  /-- LDS (R237). -/
  | lds (h : Hdr) (m : Multi)
  /-- STS (R237). -/
  | sts (h : Hdr) (m : Multi)
  /-- ATOM (R238). -/
  | atom (h : Hdr) (m : Multi)
  /-- ACAS (R239). -/
  | acas (h : Hdr) (m : Multi)
  /-- ATOMS (R240). -/
  | atoms (h : Hdr) (m : Multi)
  /-- FENCE (R241). -/
  | fence (h : Hdr) (m : Multi)
  /-- STASH (R242). -/
  | stash (h : Hdr) (m : Multi)
  /-- PREF (R243). -/
  | pref (h : Hdr) (m : Multi)
  /-- CPY (R245). -/
  | cpy (h : Hdr) (m : Multi)
  /-- MFILL (R247). -/
  | mfill (h : Hdr) (m : Multi)
  /-- XPUSH (R248). -/
  | xpush (h : Hdr) (m : Multi)
  /-- XPULL (R249). -/
  | xpull (h : Hdr) (m : Multi)
  /-- CTRSET (R250). -/
  | ctrset (h : Hdr) (m : Multi)
  /-- CTRWAIT (R251). -/
  | ctrwait (h : Hdr) (m : Multi)
  /-- QCW (R252). -/
  | qcw (h : Hdr) (m : Multi)
  /-- SBIND (R253). -/
  | sbind (h : Hdr) (m : Multi)
  /-- SUNBIND (R253). -/
  | sunbind (h : Hdr) (m : Multi)
  /-- STAMP (R254). -/
  | stamp (h : Hdr) (m : Multi)
  /-- STAMPW (R255). -/
  | stampw (h : Hdr) (m : Multi)
  /-- MSEND (R256). -/
  | msend (h : Hdr) (m : Multi)
  /-- QPOST (R257). -/
  | qpost (h : Hdr) (m : Multi)
  /-- MSET (R258). -/
  | mset (h : Hdr) (m : Multi)
  /-- MMA (R292). -/
  | mma (h : Hdr) (m : Multi)
  /-- TCLR (R293). -/
  | tclr (h : Hdr) (m : Multi)
  /-- TRD (R294). -/
  | trd (h : Hdr) (m : Multi)
  /-- TWR (R294). -/
  | twr (h : Hdr) (m : Multi)
  /-- TST (R293). -/
  | tst (h : Hdr) (m : Multi)
  /-- TLD (R293). -/
  | tld (h : Hdr) (m : Multi)
  /-- TFREE (R296). -/
  | tfree (h : Hdr) (m : Multi)
  /-- QDUAL (R295). -/
  | qdual (h : Hdr) (m : Multi)
  /-- TWAIT (R297). -/
  | twait (h : Hdr) (m : Multi)
  /-- SPAWN (R277). -/
  | spawn (h : Hdr) (m : Multi)
  /-- KPUSH (R277). -/
  | kpush (h : Hdr) (m : Multi)
  /-- KPOP (R278). -/
  | kpop (h : Hdr) (m : Multi)
  /-- KDONE (R279). -/
  | kdone (h : Hdr) (m : Multi)
  /-- KCFG (R280). -/
  | kcfg (h : Hdr) (m : Multi)
  /-- KSTAT (R281). -/
  | kstat (h : Hdr) (m : Multi)
  /-- HLRD (R316). -/
  | hlrd (h : Hdr) (m : Multi)
  /-- HLWR (R316). -/
  | hlwr (h : Hdr) (m : Multi)
  /-- HPREF (R317). -/
  | hpref (h : Hdr) (m : Multi)
  /-- HRESP (R318). -/
  | hresp (h : Hdr) (m : Multi)
  /-- HMSG (R319). -/
  | hmsg (h : Hdr) (m : Multi)
  /-- HKPUSH (R320). -/
  | hkpush (h : Hdr) (m : Multi)
  /-- HEND (R321). -/
  | hend (h : Hdr) (m : Multi)
  /-- HBUDGET (R322). -/
  | hbudget (h : Hdr) (m : Multi)
  /-- CREQ (R357). -/
  | creq (h : Hdr) (m : Multi)
  /-- CAWAIT (R357). -/
  | cawait (h : Hdr) (m : Multi)
  /-- CAWAIT_MEM (R357). -/
  | cawaitMem (h : Hdr) (m : Multi)
  /-- CBAR (R357). -/
  | cbar (h : Hdr) (m : Multi)
  /-- CREL (R357). -/
  | crel (h : Hdr) (m : Multi)
  /-- CSTAT (R357). -/
  | cstat (h : Hdr) (m : Multi)
  /-- EMSG (R357). -/
  | emsg (h : Hdr) (m : Multi)
  /-- ERECV (R357). -/
  | erecv (h : Hdr) (m : Multi)
  /-- CTIME (R357). -/
  | ctime (h : Hdr) (m : Multi)
  /-- CSTAMP (R357). -/
  | cstamp (h : Hdr) (m : Multi)
  /-- RTRAP (R200). -/
  | rtrap (h : Hdr) (m : Multi)
  /-- PGMODE (R201). -/
  | pgmode (h : Hdr) (m : Multi)
  /-- TLBINV (R202). -/
  | tlbinv (h : Hdr) (m : Multi)
  /-- SLEEP (R203). -/
  | sleep (h : Hdr) (m : Multi)
  /-- DOORBELL (R40). -/
  | doorbell
  /-- QUEUE_ENABLE (R40). -/
  | queueEnable
  /-- REGISTER_WRITE (R362). -/
  | registerWrite
  /-- HANDLER_TABLE_LOAD (R310). -/
  | handlerTableLoad
  /-- HANDLER_TABLE_LOAD_DONE (R310). -/
  | handlerTableLoadDone
  /-- STATION_ENABLE (R327). -/
  | stationEnable
  /-- PREEMPT_SAVE (R62). -/
  | preemptSave
  /-- PREEMPT_RESTORE (R66). -/
  | preemptRestore
  /-- RESTORE_BLOCK_PLACE (R66). -/
  | restoreBlockPlace
  /-- TIME_SLICE_EXPIRY (R61). -/
  | timeSliceExpiry
  /-- ATTESTATION_GO (R367). -/
  | attestationGo
  /-- ATTESTATION_REPORT_DONE (R367). -/
  | attestationReportDone
  /-- FAULT_QUEUE_ENABLE (R385). -/
  | faultQueueEnable
  /-- DEMAND_REFUSE (R416). -/
  | demandRefuse
  /-- DIE_TAKES_REFUSAL (R417). -/
  | dieTakesRefusal
  /-- DEMAND_RECORD_POST (R387). -/
  | demandRecordPost
  /-- POWER_ON_RESET (R366). -/
  | powerOnReset
  /-- POWER_WINDOW_END (R369). -/
  | powerWindowEnd
  /-- THERMAL_STOP (R369). -/
  | thermalStop
  /-- THERMAL_RESUME (R369). -/
  | thermalResume
  /-- HOST_BAR4_ACCESS (R361). -/
  | hostBar4Access
  /-- ATS_COMPLETION (R365). -/
  | atsCompletion
  /-- PRI_RESPONSE (R365). -/
  | priResponse
  /-- ATS_INVALIDATION (R365). -/
  | atsInvalidation
  /-- NOP_PACKET (R43). -/
  | nopPacket
  /-- LAUNCH (R48). -/
  | launch
  /-- GANG (R49). -/
  | gang
  /-- WAIT (R45). -/
  | wait
  /-- WAIT_RECHECK (R45). -/
  | waitRecheck
  /-- SIGNAL (R46). -/
  | signal
  /-- FENCE_PACKET (R47). -/
  | fencePacket
  /-- FENCE_PACKET_START (R47). -/
  | fencePacketStart
  /-- COPY (R85). -/
  | copy
  /-- COLL (R339). -/
  | coll
  /-- COMM_CREATE (R337). -/
  | commCreate
  /-- COMM_DESTROY (R337). -/
  | commDestroy
  /-- CIRC (R356). -/
  | circ
  /-- KCQ_CFG (R275). -/
  | kcqCfg
  /-- PACKET_ILLEGAL (R44). -/
  | packetIllegal
  /-- PACKET_DEFERRED_START (R44). -/
  | packetDeferredStart
  /-- PACKET_COMPLETE (R44). -/
  | packetComplete
  /-- BLOCK_PLACE (R54). -/
  | blockPlace
  /-- GANG_CLAIM (R56). -/
  | gangClaim
  /-- BLOCK_COMPLETE (R37). -/
  | blockComplete
  /-- REGROUP (R23). -/
  | regroup
  /-- MWAIT_TIMEOUT (R189). -/
  | mwaitTimeout
  /-- SLEEP_EXPIRY (R203). -/
  | sleepExpiry
  /-- BLOCK_STALL (R393). -/
  | blockStall
  /-- STORE_COMMIT (R74). -/
  | storeCommit
  /-- L2_WRITE (R95). -/
  | l2Write
  /-- ATOMIC_PERFORM (R96). -/
  | atomicPerform
  /-- LOAD_RETURN (R235). -/
  | loadReturn
  /-- L2_MISS (R305). -/
  | l2Miss
  /-- L2_FILL_DATA (R305). -/
  | l2FillData
  /-- COMBINE_LINE_TIMEOUT (R88). -/
  | combineLineTimeout
  /-- RETURN_STACK_REFILL_LANDS (R17). -/
  | returnStackRefillLands
  /-- STASH_FILL_DONE (R79). -/
  | stashFillDone
  /-- PAGE_WALK_DONE (R113). -/
  | pageWalkDone
  /-- PGMODE_STEP_COMPLETE (R77). -/
  | pgmodeStepComplete
  /-- COPY_SLICE_PUSH (R84). -/
  | copySlicePush
  /-- COPY_SLICE_WRITTEN (R84). -/
  | copySliceWritten
  /-- MFILL_DELIVERY (R86). -/
  | mfillDelivery
  /-- PASS_END (R60). -/
  | passEnd
  /-- TILE_PORT_OP_DONE (R298). -/
  | tilePortOpDone
  /-- KCQ_PUSH_ARRIVAL (R268). -/
  | kcqPushArrival
  /-- KCQ_DISPATCH_CLAIM (R270). -/
  | kcqDispatchClaim
  /-- KCQ_END_TOKEN (R274). -/
  | kcqEndToken
  /-- HANDLER_DISPATCH (R307). -/
  | handlerDispatch
  /-- MSG_EVENT_ARRIVAL (R305). -/
  | msgEventArrival
  /-- HELD_LINE_WAIT_TIMEOUT (R431). -/
  | heldLineWaitTimeout
  /-- STATION_SEND (R331). -/
  | stationSend
  /-- LINK_ACK (R329). -/
  | linkAck
  /-- REMOTE_REQUEST_RECEIVE (R335). -/
  | remoteRequestReceive
  /-- REMOTE_RESPONSE (R332). -/
  | remoteResponse
  /-- ERROR_NOTICE (R435). -/
  | errorNotice
  /-- PEER_LOST (R436). -/
  | peerLost
  /-- WINDOW_STALL (R438). -/
  | windowStall
  /-- LINK_DOWN (R437). -/
  | linkDown
  /-- LINK_TRAINED (R437). -/
  | linkTrained
  /-- LINK_RETRAIN_TIMEOUT (R437). -/
  | linkRetrainTimeout
  /-- HOIST_ARRIVAL (R340). -/
  | hoistArrival
  /-- HOIST_STRIKE (R342). -/
  | hoistStrike
  /-- HOIST_SEND (R342). -/
  | hoistSend
  /-- HOIST_CIRCUIT_TIMEOUT (R446). -/
  | hoistCircuitTimeout
  /-- CIRCUIT_MADE (R351). -/
  | circuitMade
  /-- CIRCUIT_BROKEN (R350). -/
  | circuitBroken
  /-- PORT_TRAINED (R350). -/
  | portTrained
  /-- LOCK_TIMEOUT (R350). -/
  | lockTimeout
  /-- IDENTITY_HANDSHAKE (R350). -/
  | identityHandshake
  /-- LOSS_OF_LOCK (R350). -/
  | lossOfLock
  /-- PORT_DRAIN_DONE (R357). -/
  | portDrainDone
  /-- OPTICAL_SLICE_ACK (R353). -/
  | opticalSliceAck
  /-- BARRIER_COPY_TIMEOUT (R445). -/
  | barrierCopyTimeout
  /-- EMSG_RECEIVE (R357). -/
  | emsgReceive
  /-- SCRIPT_WAIT_TIMEOUT (R357). -/
  | scriptWaitTimeout
  /-- JUNCTION_THROTTLE (R369). -/
  | junctionThrottle
  /-- HARDWARE_PREFETCH (R122). -/
  | hardwarePrefetch
  deriving DecidableEq, Repr

end Sys2Proof
end

