-- ==== Sys2Proof/Machine/Form.lean ====
section
/-!
DEFINITION. The uniform view of an instruction: opcode, header and form (spec 08 R143 to R148, R159), and the
constructor that an opcode and a form name.
-/

namespace Sys2Proof.Machine

/-- The form of an instruction with its operand fields (R143, R146, R147). -/
inductive Form where
  | single (d a : BitVec 7)
  | multi (m : Multi)
  deriving DecidableEq, Repr

/-- Fields D and A of a 14-bit OFFSET or code in bits 31:18 (R146, R191). -/
def Form.ofOff (off : BitVec 14) : Form := .single (off.extractLsb' 0 7) (off.extractLsb' 7 7)

/-- The 14-bit field of bits 31:18. -/
def offOf (d a : BitVec 7) : BitVec 14 := a ++ d

/-- Opcode, header and form of an instruction row; events have none. -/
def view : Instr → Option (Nat × Hdr × Form)
  | .nop h => some (0x00, h, .single 0 0)
  | .sli h d a => some (0x01, h, .single d a)
  | .sliExt h m => some (0x01, h, .multi m)
  | .smov h d a => some (0x02, h, .single d a)
  | .smovExt h m => some (0x02, h, .multi m)
  | .sadd h d a => some (0x03, h, .single d a)
  | .saddExt h m => some (0x03, h, .multi m)
  | .ssub h d a => some (0x04, h, .single d a)
  | .ssubExt h m => some (0x04, h, .multi m)
  | .smul h d a => some (0x05, h, .single d a)
  | .smulExt h m => some (0x05, h, .multi m)
  | .smulh h d a => some (0x06, h, .single d a)
  | .smulhExt h m => some (0x06, h, .multi m)
  | .sdiv h d a => some (0x07, h, .single d a)
  | .sdivExt h m => some (0x07, h, .multi m)
  | .srem h d a => some (0x08, h, .single d a)
  | .sremExt h m => some (0x08, h, .multi m)
  | .sand h d a => some (0x09, h, .single d a)
  | .sandExt h m => some (0x09, h, .multi m)
  | .sor h d a => some (0x0a, h, .single d a)
  | .sorExt h m => some (0x0a, h, .multi m)
  | .sxor h d a => some (0x0b, h, .single d a)
  | .sxorExt h m => some (0x0b, h, .multi m)
  | .sandn h d a => some (0x0c, h, .single d a)
  | .sandnExt h m => some (0x0c, h, .multi m)
  | .sshl h d a => some (0x0d, h, .single d a)
  | .sshlExt h m => some (0x0d, h, .multi m)
  | .sshr h d a => some (0x0e, h, .single d a)
  | .sshrExt h m => some (0x0e, h, .multi m)
  | .ssra h d a => some (0x0f, h, .single d a)
  | .ssraExt h m => some (0x0f, h, .multi m)
  | .smin h d a => some (0x10, h, .single d a)
  | .sminExt h m => some (0x10, h, .multi m)
  | .smax h d a => some (0x11, h, .single d a)
  | .smaxExt h m => some (0x11, h, .multi m)
  | .scmp h d a => some (0x12, h, .single d a)
  | .scmpExt h m => some (0x12, h, .multi m)
  | .ssel h m => some (0x13, h, .multi m)
  | .sclz h d a => some (0x14, h, .single d a)
  | .sclzExt h m => some (0x14, h, .multi m)
  | .spopc h d a => some (0x15, h, .single d a)
  | .spopcExt h m => some (0x15, h, .multi m)
  | .sbfx h d a => some (0x16, h, .single d a)
  | .sbfxExt h m => some (0x16, h, .multi m)
  | .sbfi h m => some (0x17, h, .multi m)
  | .sld h m => some (0x18, h, .multi m)
  | .sst h m => some (0x19, h, .multi m)
  | .sread h d a => some (0x1a, h, .single d a)
  | .swrite h d a => some (0x1b, h, .single d a)
  | .sfromv h m => some (0x1c, h, .multi m)
  | .satom h m => some (0x1d, h, .multi m)
  | .bra h off => some (0x20, h, .ofOff off)
  | .braLit h d a v => some (0x20, h, .multi (.lit d a v))
  | .sbra h d a v => some (0x21, h, .multi (.lit d a v))
  | .brx h a => some (0x22, h, .single 0 a)
  | .brxExt h m => some (0x22, h, .multi m)
  | .call h off => some (0x23, h, .ofOff off)
  | .callLit h d a v => some (0x23, h, .multi (.lit d a v))
  | .callx h a => some (0x24, h, .single 0 a)
  | .callxExt h m => some (0x24, h, .multi m)
  | .ret h => some (0x25, h, .single 0 0)
  | .rset h d => some (0x26, h, .single d 0)
  | .rjoin h d => some (0x27, h, .single d 0)
  | .bar h a => some (0x28, h, .single 0 a)
  | .exit h => some (0x29, h, .single 0 0)
  | .mon h m => some (0x2a, h, .multi m)
  | .mwait h a => some (0x2b, h, .single 0 a)
  | .mwaitLit h d a v => some (0x2b, h, .multi (.lit d a v))
  | .trap h off => some (0x2c, h, .ofOff off)
  | .yieldI h => some (0x2d, h, .single 0 0)
  | .ifence h => some (0x2e, h, .single 0 0)
  | .icinv h m => some (0x2f, h, .multi m)
  | .elect h d => some (0x30, h, .single d 0)
  | .jmov h m => some (0x31, h, .multi m)
  | .plog h d a => some (0x32, h, .single d a)
  | .plogExt h m => some (0x32, h, .multi m)
  | .pmov h d a => some (0x33, h, .single d a)
  | .pmovExt h m => some (0x33, h, .multi m)
  | .vadd h d a => some (0x38, h, .single d a)
  | .vaddExt h m => some (0x38, h, .multi m)
  | .vsub h d a => some (0x39, h, .single d a)
  | .vsubExt h m => some (0x39, h, .multi m)
  | .vmul h d a => some (0x3a, h, .single d a)
  | .vmulExt h m => some (0x3a, h, .multi m)
  | .vmulh h d a => some (0x3b, h, .single d a)
  | .vmulhExt h m => some (0x3b, h, .multi m)
  | .vmad h m => some (0x3c, h, .multi m)
  | .vabs h d a => some (0x3d, h, .single d a)
  | .vabsExt h m => some (0x3d, h, .multi m)
  | .vneg h d a => some (0x3e, h, .single d a)
  | .vnegExt h m => some (0x3e, h, .multi m)
  | .vmin h d a => some (0x3f, h, .single d a)
  | .vminExt h m => some (0x3f, h, .multi m)
  | .vmax h d a => some (0x40, h, .single d a)
  | .vmaxExt h m => some (0x40, h, .multi m)
  | .vand h d a => some (0x41, h, .single d a)
  | .vandExt h m => some (0x41, h, .multi m)
  | .vor h d a => some (0x42, h, .single d a)
  | .vorExt h m => some (0x42, h, .multi m)
  | .vxor h d a => some (0x43, h, .single d a)
  | .vxorExt h m => some (0x43, h, .multi m)
  | .vandn h d a => some (0x44, h, .single d a)
  | .vandnExt h m => some (0x44, h, .multi m)
  | .vshl h d a => some (0x45, h, .single d a)
  | .vshlExt h m => some (0x45, h, .multi m)
  | .vshr h d a => some (0x46, h, .single d a)
  | .vshrExt h m => some (0x46, h, .multi m)
  | .vsra h d a => some (0x47, h, .single d a)
  | .vsraExt h m => some (0x47, h, .multi m)
  | .vclz h d a => some (0x48, h, .single d a)
  | .vclzExt h m => some (0x48, h, .multi m)
  | .vpopc h d a => some (0x49, h, .single d a)
  | .vpopcExt h m => some (0x49, h, .multi m)
  | .vbfx h d a => some (0x4a, h, .single d a)
  | .vbfxExt h m => some (0x4a, h, .multi m)
  | .vbfi h m => some (0x4b, h, .multi m)
  | .vcmp h m => some (0x4c, h, .multi m)
  | .vsel h m => some (0x4d, h, .multi m)
  | .vaddsat h d a => some (0x4e, h, .single d a)
  | .vaddsatExt h m => some (0x4e, h, .multi m)
  | .vsubsat h d a => some (0x4f, h, .single d a)
  | .vsubsatExt h m => some (0x4f, h, .multi m)
  | .vmov h d a => some (0x50, h, .single d a)
  | .vmovExt h m => some (0x50, h, .multi m)
  | .vli h d a => some (0x51, h, .single d a)
  | .vliExt h m => some (0x51, h, .multi m)
  | .vfroms h d a => some (0x52, h, .single d a)
  | .vfromsExt h m => some (0x52, h, .multi m)
  | .vlane h d => some (0x53, h, .single d 0)
  | .vlaneExt h m => some (0x53, h, .multi m)
  | .vfadd h d a => some (0x58, h, .single d a)
  | .vfaddExt h m => some (0x58, h, .multi m)
  | .vfsub h d a => some (0x59, h, .single d a)
  | .vfsubExt h m => some (0x59, h, .multi m)
  | .vfmul h d a => some (0x5a, h, .single d a)
  | .vfmulExt h m => some (0x5a, h, .multi m)
  | .vfma h m => some (0x5b, h, .multi m)
  | .vfmin h d a => some (0x5c, h, .single d a)
  | .vfminExt h m => some (0x5c, h, .multi m)
  | .vfmax h d a => some (0x5d, h, .single d a)
  | .vfmaxExt h m => some (0x5d, h, .multi m)
  | .vfabs h d a => some (0x5e, h, .single d a)
  | .vfabsExt h m => some (0x5e, h, .multi m)
  | .vfneg h d a => some (0x5f, h, .single d a)
  | .vfnegExt h m => some (0x5f, h, .multi m)
  | .vfcmp h m => some (0x60, h, .multi m)
  | .vfdiv h d a => some (0x61, h, .single d a)
  | .vfdivExt h m => some (0x61, h, .multi m)
  | .vfsqrt h d a => some (0x62, h, .single d a)
  | .vfsqrtExt h m => some (0x62, h, .multi m)
  | .vrcpa h d a => some (0x63, h, .single d a)
  | .vrcpaExt h m => some (0x63, h, .multi m)
  | .vrsqa h d a => some (0x64, h, .single d a)
  | .vrsqaExt h m => some (0x64, h, .multi m)
  | .vfexp2a h d a => some (0x65, h, .single d a)
  | .vfexp2aExt h m => some (0x65, h, .multi m)
  | .vflog2a h d a => some (0x66, h, .single d a)
  | .vflog2aExt h m => some (0x66, h, .multi m)
  | .vfclass h d a => some (0x67, h, .single d a)
  | .vfclassExt h m => some (0x67, h, .multi m)
  | .vfround h d a => some (0x68, h, .single d a)
  | .vfroundExt h m => some (0x68, h, .multi m)
  | .vfldexp h d a => some (0x69, h, .single d a)
  | .vfldexpExt h m => some (0x69, h, .multi m)
  | .vcvt h m => some (0x70, h, .multi m)
  | .vquant h m => some (0x71, h, .multi m)
  | .vdequant h m => some (0x72, h, .multi m)
  | .vshfl h m => some (0x73, h, .multi m)
  | .vrot h m => some (0x74, h, .multi m)
  | .vbcast h m => some (0x75, h, .multi m)
  | .vred h m => some (0x76, h, .multi m)
  | .vscan h m => some (0x77, h, .multi m)
  | .vballot h m => some (0x78, h, .multi m)
  | .vcompact h m => some (0x79, h, .multi m)
  | .ld h m => some (0x80, h, .multi m)
  | .st h m => some (0x81, h, .multi m)
  | .lds h m => some (0x82, h, .multi m)
  | .sts h m => some (0x83, h, .multi m)
  | .atom h m => some (0x84, h, .multi m)
  | .acas h m => some (0x85, h, .multi m)
  | .atoms h m => some (0x86, h, .multi m)
  | .fence h m => some (0x87, h, .multi m)
  | .stash h m => some (0x88, h, .multi m)
  | .pref h m => some (0x89, h, .multi m)
  | .cpy h m => some (0x8a, h, .multi m)
  | .mfill h m => some (0x8b, h, .multi m)
  | .xpush h m => some (0x8c, h, .multi m)
  | .xpull h m => some (0x8d, h, .multi m)
  | .ctrset h m => some (0x8e, h, .multi m)
  | .ctrwait h m => some (0x8f, h, .multi m)
  | .qcw h m => some (0x90, h, .multi m)
  | .sbind h m => some (0x91, h, .multi m)
  | .sunbind h m => some (0x92, h, .multi m)
  | .stamp h m => some (0x93, h, .multi m)
  | .stampw h m => some (0x94, h, .multi m)
  | .msend h m => some (0x95, h, .multi m)
  | .qpost h m => some (0x96, h, .multi m)
  | .mset h m => some (0x97, h, .multi m)
  | .mma h m => some (0xa0, h, .multi m)
  | .tclr h m => some (0xa1, h, .multi m)
  | .trd h m => some (0xa2, h, .multi m)
  | .twr h m => some (0xa3, h, .multi m)
  | .tst h m => some (0xa4, h, .multi m)
  | .tld h m => some (0xa5, h, .multi m)
  | .tfree h m => some (0xa6, h, .multi m)
  | .qdual h m => some (0xa7, h, .multi m)
  | .twait h m => some (0xa8, h, .multi m)
  | .spawn h m => some (0xb0, h, .multi m)
  | .kpush h m => some (0xb1, h, .multi m)
  | .kpop h m => some (0xb2, h, .multi m)
  | .kdone h m => some (0xb3, h, .multi m)
  | .kcfg h m => some (0xb4, h, .multi m)
  | .kstat h m => some (0xb5, h, .multi m)
  | .hlrd h m => some (0xc0, h, .multi m)
  | .hlwr h m => some (0xc1, h, .multi m)
  | .hpref h m => some (0xc2, h, .multi m)
  | .hresp h m => some (0xc3, h, .multi m)
  | .hmsg h m => some (0xc4, h, .multi m)
  | .hkpush h m => some (0xc5, h, .multi m)
  | .hend h m => some (0xc6, h, .multi m)
  | .hbudget h m => some (0xc7, h, .multi m)
  | .creq h m => some (0xd0, h, .multi m)
  | .cawait h m => some (0xd1, h, .multi m)
  | .cawaitMem h m => some (0xd1, h, .multi m)
  | .cbar h m => some (0xd2, h, .multi m)
  | .crel h m => some (0xd3, h, .multi m)
  | .cstat h m => some (0xd4, h, .multi m)
  | .emsg h m => some (0xd5, h, .multi m)
  | .erecv h m => some (0xd6, h, .multi m)
  | .ctime h m => some (0xd7, h, .multi m)
  | .cstamp h m => some (0xd8, h, .multi m)
  | .rtrap h m => some (0xe0, h, .multi m)
  | .pgmode h m => some (0xe1, h, .multi m)
  | .tlbinv h m => some (0xe2, h, .multi m)
  | .sleep h m => some (0xe3, h, .multi m)
  | .doorbell => none
  | .queueEnable => none
  | .registerWrite => none
  | .handlerTableLoad => none
  | .handlerTableLoadDone => none
  | .stationEnable => none
  | .preemptSave => none
  | .preemptRestore => none
  | .restoreBlockPlace => none
  | .timeSliceExpiry => none
  | .attestationGo => none
  | .attestationReportDone => none
  | .faultQueueEnable => none
  | .demandRefuse => none
  | .dieTakesRefusal => none
  | .demandRecordPost => none
  | .powerOnReset => none
  | .powerWindowEnd => none
  | .thermalStop => none
  | .thermalResume => none
  | .hostBar4Access => none
  | .atsCompletion => none
  | .priResponse => none
  | .atsInvalidation => none
  | .nopPacket => none
  | .launch => none
  | .gang => none
  | .wait => none
  | .waitRecheck => none
  | .signal => none
  | .fencePacket => none
  | .fencePacketStart => none
  | .copy => none
  | .coll => none
  | .commCreate => none
  | .commDestroy => none
  | .circ => none
  | .kcqCfg => none
  | .packetIllegal => none
  | .packetDeferredStart => none
  | .packetComplete => none
  | .blockPlace => none
  | .gangClaim => none
  | .blockComplete => none
  | .regroup => none
  | .mwaitTimeout => none
  | .sleepExpiry => none
  | .blockStall => none
  | .storeCommit => none
  | .l2Write => none
  | .atomicPerform => none
  | .loadReturn => none
  | .l2Miss => none
  | .l2FillData => none
  | .combineLineTimeout => none
  | .returnStackRefillLands => none
  | .stashFillDone => none
  | .pageWalkDone => none
  | .pgmodeStepComplete => none
  | .copySlicePush => none
  | .copySliceWritten => none
  | .mfillDelivery => none
  | .passEnd => none
  | .tilePortOpDone => none
  | .kcqPushArrival => none
  | .kcqDispatchClaim => none
  | .kcqEndToken => none
  | .handlerDispatch => none
  | .msgEventArrival => none
  | .heldLineWaitTimeout => none
  | .stationSend => none
  | .linkAck => none
  | .remoteRequestReceive => none
  | .remoteResponse => none
  | .errorNotice => none
  | .peerLost => none
  | .windowStall => none
  | .linkDown => none
  | .linkTrained => none
  | .linkRetrainTimeout => none
  | .hoistArrival => none
  | .hoistStrike => none
  | .hoistSend => none
  | .hoistCircuitTimeout => none
  | .circuitMade => none
  | .circuitBroken => none
  | .portTrained => none
  | .lockTimeout => none
  | .identityHandshake => none
  | .lossOfLock => none
  | .portDrainDone => none
  | .opticalSliceAck => none
  | .barrierCopyTimeout => none
  | .emsgReceive => none
  | .scriptWaitTimeout => none
  | .junctionThrottle => none
  | .hardwarePrefetch => none

/-- The constructor of a single form (LEN 00), where the table has one; fields the row fixes at 0 must be 0. -/
def buildSingle (opc : Nat) (h : Hdr) (d a : BitVec 7) : Option Instr :=
  match opc with
  | 0x00 => if d = 0 ∧ a = 0 then some (.nop h) else none
  | 0x01 => some (.sli h d a)
  | 0x02 => some (.smov h d a)
  | 0x03 => some (.sadd h d a)
  | 0x04 => some (.ssub h d a)
  | 0x05 => some (.smul h d a)
  | 0x06 => some (.smulh h d a)
  | 0x07 => some (.sdiv h d a)
  | 0x08 => some (.srem h d a)
  | 0x09 => some (.sand h d a)
  | 0x0a => some (.sor h d a)
  | 0x0b => some (.sxor h d a)
  | 0x0c => some (.sandn h d a)
  | 0x0d => some (.sshl h d a)
  | 0x0e => some (.sshr h d a)
  | 0x0f => some (.ssra h d a)
  | 0x10 => some (.smin h d a)
  | 0x11 => some (.smax h d a)
  | 0x12 => some (.scmp h d a)
  | 0x14 => some (.sclz h d a)
  | 0x15 => some (.spopc h d a)
  | 0x16 => some (.sbfx h d a)
  | 0x1a => some (.sread h d a)
  | 0x1b => some (.swrite h d a)
  | 0x20 => some (.bra h (offOf d a))
  | 0x22 => if d = 0 then some (.brx h a) else none
  | 0x23 => some (.call h (offOf d a))
  | 0x24 => if d = 0 then some (.callx h a) else none
  | 0x25 => if d = 0 ∧ a = 0 then some (.ret h) else none
  | 0x26 => if a = 0 then some (.rset h d) else none
  | 0x27 => if a = 0 then some (.rjoin h d) else none
  | 0x28 => if d = 0 then some (.bar h a) else none
  | 0x29 => if d = 0 ∧ a = 0 then some (.exit h) else none
  | 0x2b => if d = 0 then some (.mwait h a) else none
  | 0x2c => some (.trap h (offOf d a))
  | 0x2d => if d = 0 ∧ a = 0 then some (.yieldI h) else none
  | 0x2e => if d = 0 ∧ a = 0 then some (.ifence h) else none
  | 0x30 => if a = 0 then some (.elect h d) else none
  | 0x32 => some (.plog h d a)
  | 0x33 => some (.pmov h d a)
  | 0x38 => some (.vadd h d a)
  | 0x39 => some (.vsub h d a)
  | 0x3a => some (.vmul h d a)
  | 0x3b => some (.vmulh h d a)
  | 0x3d => some (.vabs h d a)
  | 0x3e => some (.vneg h d a)
  | 0x3f => some (.vmin h d a)
  | 0x40 => some (.vmax h d a)
  | 0x41 => some (.vand h d a)
  | 0x42 => some (.vor h d a)
  | 0x43 => some (.vxor h d a)
  | 0x44 => some (.vandn h d a)
  | 0x45 => some (.vshl h d a)
  | 0x46 => some (.vshr h d a)
  | 0x47 => some (.vsra h d a)
  | 0x48 => some (.vclz h d a)
  | 0x49 => some (.vpopc h d a)
  | 0x4a => some (.vbfx h d a)
  | 0x4e => some (.vaddsat h d a)
  | 0x4f => some (.vsubsat h d a)
  | 0x50 => some (.vmov h d a)
  | 0x51 => some (.vli h d a)
  | 0x52 => some (.vfroms h d a)
  | 0x53 => if a = 0 then some (.vlane h d) else none
  | 0x58 => some (.vfadd h d a)
  | 0x59 => some (.vfsub h d a)
  | 0x5a => some (.vfmul h d a)
  | 0x5c => some (.vfmin h d a)
  | 0x5d => some (.vfmax h d a)
  | 0x5e => some (.vfabs h d a)
  | 0x5f => some (.vfneg h d a)
  | 0x61 => some (.vfdiv h d a)
  | 0x62 => some (.vfsqrt h d a)
  | 0x63 => some (.vrcpa h d a)
  | 0x64 => some (.vrsqa h d a)
  | 0x65 => some (.vfexp2a h d a)
  | 0x66 => some (.vflog2a h d a)
  | 0x67 => some (.vfclass h d a)
  | 0x68 => some (.vfround h d a)
  | 0x69 => some (.vfldexp h d a)
  | _ => none

/-- The constructor of a form of several words, where the table has one. Opcode 0xD1 is split by OPT (R357). -/
def buildMulti (opc : Nat) (h : Hdr) (m : Multi) : Option Instr :=
  match opc with
  | 0x01 => some (.sliExt h m)
  | 0x02 => some (.smovExt h m)
  | 0x03 => some (.saddExt h m)
  | 0x04 => some (.ssubExt h m)
  | 0x05 => some (.smulExt h m)
  | 0x06 => some (.smulhExt h m)
  | 0x07 => some (.sdivExt h m)
  | 0x08 => some (.sremExt h m)
  | 0x09 => some (.sandExt h m)
  | 0x0a => some (.sorExt h m)
  | 0x0b => some (.sxorExt h m)
  | 0x0c => some (.sandnExt h m)
  | 0x0d => some (.sshlExt h m)
  | 0x0e => some (.sshrExt h m)
  | 0x0f => some (.ssraExt h m)
  | 0x10 => some (.sminExt h m)
  | 0x11 => some (.smaxExt h m)
  | 0x12 => some (.scmpExt h m)
  | 0x13 => some (.ssel h m)
  | 0x14 => some (.sclzExt h m)
  | 0x15 => some (.spopcExt h m)
  | 0x16 => some (.sbfxExt h m)
  | 0x17 => some (.sbfi h m)
  | 0x18 => some (.sld h m)
  | 0x19 => some (.sst h m)
  | 0x1c => some (.sfromv h m)
  | 0x1d => some (.satom h m)
  | 0x20 => match m with | .lit d a v => some (.braLit h d a v) | _ => none
  | 0x21 => match m with | .lit d a v => some (.sbra h d a v) | _ => none
  | 0x22 => some (.brxExt h m)
  | 0x23 => match m with | .lit d a v => some (.callLit h d a v) | _ => none
  | 0x24 => some (.callxExt h m)
  | 0x2a => some (.mon h m)
  | 0x2b => match m with | .lit d a v => some (.mwaitLit h d a v) | _ => none
  | 0x2f => some (.icinv h m)
  | 0x31 => some (.jmov h m)
  | 0x32 => some (.plogExt h m)
  | 0x33 => some (.pmovExt h m)
  | 0x38 => some (.vaddExt h m)
  | 0x39 => some (.vsubExt h m)
  | 0x3a => some (.vmulExt h m)
  | 0x3b => some (.vmulhExt h m)
  | 0x3c => some (.vmad h m)
  | 0x3d => some (.vabsExt h m)
  | 0x3e => some (.vnegExt h m)
  | 0x3f => some (.vminExt h m)
  | 0x40 => some (.vmaxExt h m)
  | 0x41 => some (.vandExt h m)
  | 0x42 => some (.vorExt h m)
  | 0x43 => some (.vxorExt h m)
  | 0x44 => some (.vandnExt h m)
  | 0x45 => some (.vshlExt h m)
  | 0x46 => some (.vshrExt h m)
  | 0x47 => some (.vsraExt h m)
  | 0x48 => some (.vclzExt h m)
  | 0x49 => some (.vpopcExt h m)
  | 0x4a => some (.vbfxExt h m)
  | 0x4b => some (.vbfi h m)
  | 0x4c => some (.vcmp h m)
  | 0x4d => some (.vsel h m)
  | 0x4e => some (.vaddsatExt h m)
  | 0x4f => some (.vsubsatExt h m)
  | 0x50 => some (.vmovExt h m)
  | 0x51 => some (.vliExt h m)
  | 0x52 => some (.vfromsExt h m)
  | 0x53 => some (.vlaneExt h m)
  | 0x58 => some (.vfaddExt h m)
  | 0x59 => some (.vfsubExt h m)
  | 0x5a => some (.vfmulExt h m)
  | 0x5b => some (.vfma h m)
  | 0x5c => some (.vfminExt h m)
  | 0x5d => some (.vfmaxExt h m)
  | 0x5e => some (.vfabsExt h m)
  | 0x5f => some (.vfnegExt h m)
  | 0x60 => some (.vfcmp h m)
  | 0x61 => some (.vfdivExt h m)
  | 0x62 => some (.vfsqrtExt h m)
  | 0x63 => some (.vrcpaExt h m)
  | 0x64 => some (.vrsqaExt h m)
  | 0x65 => some (.vfexp2aExt h m)
  | 0x66 => some (.vflog2aExt h m)
  | 0x67 => some (.vfclassExt h m)
  | 0x68 => some (.vfroundExt h m)
  | 0x69 => some (.vfldexpExt h m)
  | 0x70 => some (.vcvt h m)
  | 0x71 => some (.vquant h m)
  | 0x72 => some (.vdequant h m)
  | 0x73 => some (.vshfl h m)
  | 0x74 => some (.vrot h m)
  | 0x75 => some (.vbcast h m)
  | 0x76 => some (.vred h m)
  | 0x77 => some (.vscan h m)
  | 0x78 => some (.vballot h m)
  | 0x79 => some (.vcompact h m)
  | 0x80 => some (.ld h m)
  | 0x81 => some (.st h m)
  | 0x82 => some (.lds h m)
  | 0x83 => some (.sts h m)
  | 0x84 => some (.atom h m)
  | 0x85 => some (.acas h m)
  | 0x86 => some (.atoms h m)
  | 0x87 => some (.fence h m)
  | 0x88 => some (.stash h m)
  | 0x89 => some (.pref h m)
  | 0x8a => some (.cpy h m)
  | 0x8b => some (.mfill h m)
  | 0x8c => some (.xpush h m)
  | 0x8d => some (.xpull h m)
  | 0x8e => some (.ctrset h m)
  | 0x8f => some (.ctrwait h m)
  | 0x90 => some (.qcw h m)
  | 0x91 => some (.sbind h m)
  | 0x92 => some (.sunbind h m)
  | 0x93 => some (.stamp h m)
  | 0x94 => some (.stampw h m)
  | 0x95 => some (.msend h m)
  | 0x96 => some (.qpost h m)
  | 0x97 => some (.mset h m)
  | 0xa0 => some (.mma h m)
  | 0xa1 => some (.tclr h m)
  | 0xa2 => some (.trd h m)
  | 0xa3 => some (.twr h m)
  | 0xa4 => some (.tst h m)
  | 0xa5 => some (.tld h m)
  | 0xa6 => some (.tfree h m)
  | 0xa7 => some (.qdual h m)
  | 0xa8 => some (.twait h m)
  | 0xb0 => some (.spawn h m)
  | 0xb1 => some (.kpush h m)
  | 0xb2 => some (.kpop h m)
  | 0xb3 => some (.kdone h m)
  | 0xb4 => some (.kcfg h m)
  | 0xb5 => some (.kstat h m)
  | 0xc0 => some (.hlrd h m)
  | 0xc1 => some (.hlwr h m)
  | 0xc2 => some (.hpref h m)
  | 0xc3 => some (.hresp h m)
  | 0xc4 => some (.hmsg h m)
  | 0xc5 => some (.hkpush h m)
  | 0xc6 => some (.hend h m)
  | 0xc7 => some (.hbudget h m)
  | 0xd0 => some (.creq h m)
  | 0xd2 => some (.cbar h m)
  | 0xd3 => some (.crel h m)
  | 0xd4 => some (.cstat h m)
  | 0xd5 => some (.emsg h m)
  | 0xd6 => some (.erecv h m)
  | 0xd7 => some (.ctime h m)
  | 0xd8 => some (.cstamp h m)
  | 0xe0 => some (.rtrap h m)
  | 0xe1 => some (.pgmode h m)
  | 0xe2 => some (.tlbinv h m)
  | 0xe3 => some (.sleep h m)
  | 0xd1 => if cawaitIsMem m then some (.cawaitMem h m) else some (.cawait h m)
  | _ => none
where
  /-- OPT of `cawait` is 2, the `.mem` form. -/
  cawaitIsMem : Multi → Bool
    | .lit _ _ _ => false
    | .ext x => decide ((x.mod.toNat >>> 3) % 16 = 2)
    | .extLit x _ => decide ((x.mod.toNat >>> 3) % 16 = 2)

/-- An opcode that the map defines (R159). -/
def opcDefined (opc : Nat) : Bool :=
  opc < 0x1e || (0x20 ≤ opc && opc < 0x34) || (0x38 ≤ opc && opc < 0x54) || (0x58 ≤ opc && opc < 0x6a) ||
  (0x70 ≤ opc && opc < 0x7a) || (0x80 ≤ opc && opc < 0x98) || (0xa0 ≤ opc && opc < 0xa9) ||
  (0xb0 ≤ opc && opc < 0xb6) || (0xc0 ≤ opc && opc < 0xc8) || (0xd0 ≤ opc && opc < 0xd9) ||
  (0xe0 ≤ opc && opc < 0xe4)

/-- The constructor of an opcode, a header and a form. -/
def build (opc : Nat) (h : Hdr) : Form → Option Instr
  | .single d a => buildSingle opc h d a
  | .multi m => buildMulti opc h m

end Sys2Proof.Machine
end

