-- ==== Sys2Proof/Machine/Check.lean ====
section
/-!
DEFINITION. What each opcode permits: forms, operand fields and the files they name, B modes, TYPE, TYPE2, MOD and
shape (spec 09 R169 to R205, 10 R209 to R231, 11 R232 to R261, 12 R276, R277, 13 R291, 14 R315, 16 R357), and the
checks of steps 5 to 9 of R419, which look only at the instruction's words.
-/

namespace Sys2Proof.Machine

/-- The class of an opcode (R154). -/
inductive Class where
  | scalar | control | vint | vfp | lanes | memory | matrix | kcq | slice | circuit | supervisor
  deriving DecidableEq, Repr

/-- The class of an opcode (R154). -/
def classOf (opc : Nat) : Class :=
  if opc < 0x20 then .scalar else if opc < 0x38 then .control else if opc < 0x58 then .vint
  else if opc < 0x70 then .vfp else if opc < 0x80 then .lanes else if opc < 0xa0 then .memory
  else if opc < 0xb0 then .matrix else if opc < 0xc0 then .kcq else if opc < 0xd0 then .slice
  else if opc < 0xe0 then .circuit else .supervisor

/-- The file that an operand field names (R147), with the length of a run of scalar registers. -/
inductive File where
  | none | v | s (run : Nat) | p | j | m | q | t | val
  deriving DecidableEq, Repr

/-- What an opcode permits. An operand field with file `none` is unused and must be 0 (R147). -/
structure OpSpec where
  s : Bool := false
  sl : Bool := false
  e : Bool := false
  el : Bool := false
  d : File := .none
  a : File := .none
  b : File := .none
  c : File := .none
  /-- D is read as a source. -/
  dIn : Bool := false
  /-- D is written. -/
  dOut : Bool := true
  bms : List Nat := [0]
  /-- The instruction's description names the BM values, though it uses no B. -/
  bmRule : Bool := false
  typs : List Nat := [0]
  typ2s : List Nat := [0]
  rm : Bool := false
  opts : List Nat := [0]
  /-- Register blocks are permitted (R149). -/
  block : Bool := false
  deriving DecidableEq, Repr

/-- The integer TYPE codes (R152). -/
def tInt : List Nat := [0, 1, 2, 3, 4, 5, 6, 7]
/-- i32, i64, n32, n64. -/
def tInt3264 : List Nat := [2, 3, 6, 7]
/-- The binary8 TYPE codes (R132). -/
def tB8 : List Nat := [0x10, 0x11, 0x12, 0x13, 0x14, 0x15, 0x16, 0x18, 0x19, 0x1a, 0x1b, 0x1c, 0x1d, 0x1e]
/-- Every defined TYPE code (R152). -/
def tAll : List Nat := tInt ++ [8, 9, 10, 11, 12] ++ tB8
/-- f16, bf16, f32, f64. -/
def tFp : List Nat := [8, 9, 10, 11]
/-- The TYPE codes of 32 or 64 bits. -/
def tWide : List Nat := [2, 3, 6, 7, 10, 11, 12]

/-- A TYPE code is binary8 (R132). -/
def isB8 (t : Nat) : Bool := tB8.contains t
/-- A TYPE code is a signed integer (R152). -/
def isI (t : Nat) : Bool := t < 4
/-- A TYPE code is an integer (R152). -/
def isInt (t : Nat) : Bool := t < 8
/-- A TYPE code is f16, bf16, f32 or f64 (R152). -/
def isFp (t : Nat) : Bool := tFp.contains t

/-- The width in bits of a TYPE's element; bs24 lies in 32 bits (R152, R206). -/
def widthOf (t : Nat) : Nat :=
  if t = 0 || t = 4 then 8 else if t = 1 || t = 5 || t = 8 || t = 9 then 16
  else if t = 3 || t = 7 || t = 11 then 64 else if isB8 t then 8 else 32

/-- The default TYPE of a class's single forms (R154). -/
def defaultType (opc : Nat) : Nat :=
  match classOf opc with | .scalar => 3 | .vint => 2 | .vfp => 10 | _ => 0

/-- Two-source scalar instructions (R169). -/
def scalar2 : OpSpec :=
  { s := true, sl := true, e := true, el := true, d := .s 1, a := .s 1, b := .s 1, bms := [0, 1, 2, 3], typs := tInt }
/-- One-source scalar instructions (R169). -/
def scalar1 : OpSpec := { s := true, e := true, d := .s 1, a := .s 1, typs := tInt }
/-- Two-source vector integer instructions (R209). -/
def vint2 : OpSpec :=
  { s := true, sl := true, e := true, el := true, d := .v, a := .v, b := .v, bms := [0, 1, 2, 3], typs := tInt, block := true }
/-- One-source vector integer instructions (R209). -/
def vint1 : OpSpec := { s := true, e := true, d := .v, a := .v, typs := tInt, block := true }
/-- Three-source vector instructions: C is a register, so BM 10 is refused (R207). -/
def vec3 : OpSpec :=
  { e := true, el := true, d := .v, a := .v, b := .v, c := .v, bms := [0, 1, 3], typs := tInt, block := true }
/-- Two-source floating-point instructions (R214). -/
def vfp2 : OpSpec := { vint2 with typs := tFp }
/-- One-source floating-point instructions (R214). -/
def vfp1 : OpSpec := { vint1 with typs := tFp }
/-- Instructions of the memory class: extended forms, BM 10 refused (R232). -/
def memB : OpSpec := { e := true, el := true, b := .s 1, bms := [0, 1, 3], c := .val }
/-- Engine commands and other instructions that use no offset (R244). -/
def memN : OpSpec := { e := true, el := true, c := .val, dOut := false }
/-- KCQ and matrix instructions (R276, R291). -/
def eel : OpSpec := { e := true, el := true }
/-- Slice and circuit instructions with the full B position (R315, R357). -/
def eelB : OpSpec := { e := true, el := true, b := .s 1, bms := [0, 1, 2, 3] }

/-- The TYPE codes that a global or scratchpad access may name (R233). -/
def tMem : List Nat := tAll

/-- What each opcode permits. -/
def opSpec (opc : Nat) : OpSpec :=
  match opc with
  | 0x00 => { s := true, dOut := false }
  | 0x01 => { s := true, sl := true, e := true, el := true, d := .s 1, b := .s 1, bms := [2, 3], typs := tInt }
  | 0x02 => scalar1
  | 0x03 => scalar2 | 0x04 => scalar2 | 0x05 => scalar2 | 0x06 => scalar2 | 0x07 => scalar2 | 0x08 => scalar2
  | 0x09 => scalar2 | 0x0a => scalar2 | 0x0b => scalar2 | 0x0c => scalar2 | 0x0d => scalar2 | 0x0e => scalar2
  | 0x0f => scalar2 | 0x10 => scalar2 | 0x11 => scalar2
  | 0x12 => { scalar2 with opts := [0, 1, 2, 3, 4, 5] }
  | 0x13 => { scalar2 with s := false, sl := false, c := .s 1, bms := [0, 1, 3] }
  | 0x14 => scalar1 | 0x15 => scalar1
  | 0x16 => scalar2
  | 0x17 => { scalar2 with s := false, sl := false, c := .s 1, bms := [0, 1, 3] }
  | 0x18 => { scalar2 with s := false, sl := false, c := .m, bms := [0, 1, 3] }
  | 0x19 => { scalar2 with s := false, sl := false, c := .m, bms := [0, 1, 3], dIn := true, dOut := false }
  | 0x1a => { s := true, d := .s 1, a := .val }
  | 0x1b => { s := true, d := .val, a := .s 1, dOut := false }
  | 0x1c => { e := true, el := true, d := .s 1, a := .v, b := .s 1, bms := [0, 1, 2, 3], typs := tInt3264 }
  | 0x1d => { scalar2 with s := false, sl := false, c := .m, bms := [0, 1, 3], dIn := true, typs := tInt3264, opts := [0, 1, 2, 3, 4, 5, 6, 7] }
  | 0x20 => { s := true, sl := true, dOut := false }
  | 0x21 => { sl := true, d := .val, a := .s 1, dOut := false }
  | 0x22 => { s := true, e := true, a := .s 1, dOut := false, typs := [0, 7], opts := [0, 1] }
  | 0x23 => { s := true, sl := true, dOut := false }
  | 0x24 => { s := true, e := true, a := .s 1, dOut := false, typs := [0, 7], opts := [0, 1] }
  | 0x25 => { s := true, dOut := false }
  | 0x26 => { s := true, d := .j, dOut := false }
  | 0x27 => { s := true, d := .j, dOut := false }
  | 0x28 => { s := true, a := .val, dOut := false }
  | 0x29 => { s := true, dOut := false }
  | 0x2a => { e := true, el := true, a := .s 1, b := .s 1, c := .m, bms := [0, 1, 3], dOut := false }
  | 0x2b => { s := true, sl := true, a := .s 1, dOut := false }
  | 0x2c => { s := true, d := .val, a := .val, dOut := false }
  | 0x2d => { s := true, dOut := false }
  | 0x2e => { s := true, dOut := false }
  | 0x2f => { e := true, el := true, a := .s 1, b := .s 1, bms := [0, 1, 2, 3], opts := [1, 2, 3, 4], dOut := false }
  | 0x30 => { s := true, d := .p }
  | 0x31 => { e := true, d := .s 1, a := .j, opts := [0, 1, 2] }
  | 0x32 => { s := true, e := true, d := .p, a := .p, b := .p, bmRule := true, opts := [0, 1, 2, 3, 4, 5] }
  | 0x33 => { s := true, e := true, d := .p, a := .s 1, opts := [0, 1] }
  | 0x38 => vint2 | 0x39 => vint2 | 0x3a => vint2 | 0x3b => vint2
  | 0x3c => vec3
  | 0x3d => vint1 | 0x3e => vint1
  | 0x3f => vint2 | 0x40 => vint2 | 0x41 => vint2 | 0x42 => vint2 | 0x43 => vint2 | 0x44 => vint2
  | 0x45 => vint2 | 0x46 => vint2 | 0x47 => vint2
  | 0x48 => vint1 | 0x49 => vint1
  | 0x4a => { vint2 with typs := [1, 2, 3, 5, 6, 7] }
  | 0x4b => { vec3 with typs := [1, 2, 3, 5, 6, 7] }
  | 0x4c => { vint2 with s := false, sl := false, d := .p, typs := tInt3264, opts := [0, 1, 2, 3, 4, 5], block := false }
  | 0x4d => { vec3 with c := .p, typs := tAll }
  | 0x4e => vint2 | 0x4f => vint2
  | 0x50 => { vint1 with typs := tAll }
  | 0x51 => { vint2 with a := .none, bms := [2, 3], typs := tAll }
  | 0x52 => { vint1 with a := .s 1, typs := tAll }
  | 0x53 => { vint2 with a := .none, bms := [1, 2, 3] }
  | 0x58 => { vfp2 with rm := true } | 0x59 => { vfp2 with rm := true } | 0x5a => { vfp2 with rm := true }
  | 0x5b => { vec3 with typs := tFp, rm := true }
  | 0x5c => vfp2 | 0x5d => vfp2
  | 0x5e => vfp1 | 0x5f => vfp1
  | 0x60 => { vfp2 with s := false, sl := false, d := .p, typs := [10, 11], opts := [0, 1, 2, 3, 4, 5, 6, 7], block := false }
  | 0x61 => { vfp2 with rm := true }
  | 0x62 => { vfp1 with rm := true }
  | 0x63 => { vfp1 with typs := [10, 11] } | 0x64 => { vfp1 with typs := [10, 11] }
  | 0x65 => { vfp1 with typs := [10, 11] } | 0x66 => { vfp1 with typs := [10, 11] }
  | 0x67 => vfp1
  | 0x68 => { vfp1 with rm := true, opts := [0, 1] }
  | 0x69 => { vfp2 with rm := true }
  | 0x70 => { e := true, el := true, d := .v, a := .v, bmRule := true, typs := tAll, typ2s := tAll, rm := true, opts := List.range 16, block := true }
  | 0x71 => { e := true, d := .v, a := .v, c := .v, bmRule := true, typs := tB8, typ2s := [8, 9, 10], opts := List.range 8 }
  | 0x72 => { e := true, el := true, d := .v, a := .v, c := .v, typs := [8, 9, 10], typ2s := tB8, rm := true, opts := List.range 8 }
  | 0x73 => { e := true, el := true, d := .v, a := .v, b := .v, bms := [0, 1, 2, 3], typs := tWide, opts := [0, 1, 2, 3], block := true }
  | 0x74 => { e := true, el := true, d := .v, a := .v, b := .v, bms := [1, 2, 3], typs := tAll, block := true }
  | 0x75 => { e := true, el := true, d := .v, a := .v, b := .v, bms := [1, 2, 3], typs := tWide, block := true }
  | 0x76 => { e := true, el := true, d := .v, a := .v, bmRule := true, typs := [2, 3, 6, 7, 10, 11], rm := true, opts := List.range 6, block := true }
  | 0x77 => { e := true, el := true, d := .v, a := .v, bmRule := true, typs := [2, 3, 6, 7, 10, 11], rm := true, opts := List.range 6 ++ [8, 9, 10, 11, 12, 13], block := true }
  | 0x78 => { e := true, el := true, d := .s 1, a := .v, bmRule := true, typs := tInt3264 }
  | 0x79 => { e := true, el := true, d := .v, a := .v, c := .p, bmRule := true, typs := tWide, block := true }
  | 0x80 => { memB with d := .v, a := .v, typs := tMem, block := true }
  | 0x81 => { memB with d := .v, a := .v, typs := tMem, block := true, dIn := true, dOut := false }
  | 0x82 => { memB with d := .v, a := .v, typs := tMem, block := true }
  | 0x83 => { memB with d := .v, a := .v, typs := tMem, block := true, dIn := true, dOut := false }
  | 0x84 => { e := true, el := true, d := .v, a := .v, b := .v, c := .val, bmRule := true, typs := [2, 3, 6, 7, 10, 11], opts := List.range 10, block := true }
  | 0x85 => { e := true, el := true, d := .v, a := .v, b := .v, c := .val, bmRule := true, typs := [7], block := true, dIn := true }
  | 0x86 => { memB with d := .v, a := .v, typs := [2, 3, 6, 7, 10, 11], opts := List.range 10, block := true, dIn := true }
  | 0x87 => memN
  | 0x88 => { memN with d := .val, a := .s 3, opts := [0, 1, 2, 3] }
  | 0x89 => { memB with a := .v, typs := tMem, opts := [0, 1], block := true, dOut := false }
  | 0x8a => { memN with a := .s 8, b := .m, bmRule := true, opts := [0, 1, 2] }
  | 0x8b => { memN with a := .s 3 }
  | 0x8c => { memN with a := .s 4, opts := [0, 1] }
  | 0x8d => { memN with a := .s 4 }
  | 0x8e => { memB with d := .val, a := .s 1, bms := [1, 3], opts := [0, 1, 2], dOut := false }
  | 0x8f => { memN with d := .val, a := .s 1, opts := [0, 1] }
  | 0x90 => { memN with d := .q, a := .s 2, opts := [0, 1] }
  | 0x91 => { memN with d := .v, a := .q, opts := [0, 1] }
  | 0x92 => { memN with d := .v }
  | 0x93 => { memB with d := .s 1, a := .s 1, dIn := true, dOut := false, opts := [0, 1] }
  | 0x94 => { memB with d := .s 1, a := .s 1 }
  | 0x95 => { memB with d := .s 2, a := .s 1, dIn := true, dOut := false }
  | 0x96 => { memB with d := .s 1, a := .s 8 }
  | 0x97 => { memN with d := .m, a := .s 4 }
  | 0xa0 => { eel with d := .t, a := .s 1, opts := [0, 1] }
  | 0xa1 => { eel with d := .t, typs := [10, 11] }
  | 0xa2 => { eel with d := .v, a := .t, b := .s 1, bms := [1, 2, 3], typs := [10, 11], block := true }
  | 0xa3 => { eel with d := .t, a := .v, b := .s 1, bms := [1, 2, 3], typs := [10, 11], block := true }
  | 0xa4 => { eel with d := .t, a := .s 2, typs := [8, 9, 10, 11], rm := true }
  | 0xa5 => { eel with d := .t, a := .s 1, typs := [8, 9, 10, 11] }
  | 0xa6 => { eel with d := .t }
  | 0xa7 => { eel with d := .t, a := .s 3, typs := tB8, opts := [0, 1, 2, 3] }
  | 0xa8 => { eel with d := .t }
  | 0xb0 => { eel with d := .val, a := .s 3, c := .val, dOut := false }
  | 0xb1 => { eel with a := .s 3, c := .val, dOut := false, opts := List.range 16 }
  | 0xb2 => { eel with d := .s 8, c := .val, opts := List.range 16 }
  | 0xb3 => { eel with a := .s 8, dOut := false }
  | 0xb4 => { eel with a := .s 1, dOut := false, opts := [0, 1] }
  | 0xb5 => { eel with d := .s 1, a := .s 1, opts := List.range 8 }
  | 0xc0 => { eelB with d := .s 1, a := .s 1, typs := tInt }
  | 0xc1 => { eelB with d := .s 1, a := .s 1, typs := tInt, dIn := true, dOut := false }
  | 0xc2 => { eelB with a := .s 1, dOut := false }
  | 0xc3 => { eelB with d := .s 1, a := .s 1, bms := [1] }
  | 0xc4 => { eelB with d := .s 1, a := .s 1, c := .s 2, bms := [0, 1, 3] }
  | 0xc5 => { eel with d := .s 1, a := .s 3, c := .val }
  | 0xc6 => { eel with dOut := false }
  | 0xc7 => { eel with d := .s 1, a := .s 1, opts := [0, 1] }
  | 0xd0 => { eel with d := .s 1, a := .s 1 }
  | 0xd1 => { eelB with d := .s 1, a := .s 1, opts := [0, 1, 2] }
  | 0xd2 => { eel with d := .s 1, a := .s 2 }
  | 0xd3 => { eel with d := .s 1, a := .s 1 }
  | 0xd4 => { eel with d := .s 1, a := .s 1 }
  | 0xd5 => { eel with d := .s 1, a := .s 1, c := .s 2, bmRule := true }
  | 0xd6 => { eelB with d := .s 3 }
  | 0xd7 => { eel with d := .s 1 }
  | 0xd8 => { eelB with d := .s 1, a := .s 1, dIn := true, dOut := false, opts := [0, 1] }
  | 0xe0 => { eel with dOut := false }
  | 0xe1 => { eel with d := .s 1, a := .s 1, opts := [1, 2, 3] }
  | 0xe2 => { eel with d := .s 1, a := .s 1, opts := [0, 1, 2] }
  | 0xe3 => { eel with b := .s 1, bms := [0, 1, 2, 3], dOut := false }
  | _ => {}

/-- How B takes its value (R148). -/
inductive BMode where
  | reg | bcast | imm | lit
  deriving DecidableEq, Repr

/-- The operands of an instruction, one shape for every form (R146). -/
structure Opnd where
  opc : Nat
  typ : Nat
  typ2 : Nat
  inf : Bool
  opt : Nat
  rm : Nat
  rows : Nat
  cols : Nat
  pitch : Nat
  bm : BMode
  d : Nat
  a : Nat
  b : Nat
  c : Nat
  lit : W64
  /-- The instruction was written in a single form, LEN 00. -/
  single : Bool
  /-- The instruction was written in the single form with literal, LEN 10. -/
  sl : Bool
  /-- Elements of 16 bytes: the buffer record's ESIZE is 4 (R233). -/
  quad : Bool := false
  deriving DecidableEq, Repr

/-- An opcode whose single form takes D as its first source, A as its second (R146). -/
def twoSource (opc : Nat) : Bool :=
  let p := opSpec opc
  (p.a ≠ .none && p.b ≠ .none && decide (p.b ≠ .m) && p.s) || opc = 0x32

/-- The operands of a form (R146 to R148). -/
def opndOf (opc : Nat) : Form → Opnd
  | .single d a =>
    let two := twoSource opc
    { opc, typ := defaultType opc, typ2 := 0, inf := false, opt := 0, rm := 0, rows := 1, cols := 1, pitch := 1,
      bm := .reg, d := d.toNat, a := if two then d.toNat else a.toNat, b := if two then a.toNat else 0, c := 0,
      lit := 0, single := true, sl := false }
  | .multi (.lit d a v) =>
    { opc, typ := defaultType opc, typ2 := 0, inf := false, opt := 0, rm := 0, rows := 1, cols := 1, pitch := 1,
      bm := .lit, d := d.toNat, a := a.toNat, b := 0, c := 0, lit := v, single := false, sl := true }
  | .multi (.ext x) => extOpnd opc x 0
  | .multi (.extLit x v) => extOpnd opc x v
where
  /-- The operands of the extended forms (R147). `vdequant` names its registers by number, so its shape fields say nothing:
  DESIGN CHOICE, assumption 12. -/
  extOpnd (opc : Nat) (x : Ext) (v : W64) : Opnd :=
    { opc, typ := x.typ.toNat, typ2 := x.type2.toNat, inf := x.mod.getLsbD 7, opt := bitsOf x.mod.toNat 6 3,
      rm := x.mod.toNat % 8, rows := if opc = 0x72 then 1 else x.rows.toNat + 1,
      cols := if opc = 0x72 then 1 else x.cols.toNat + 1, pitch := if opc = 0x72 then 1 else x.pitch.toNat + 1,
      bm := match x.bm.toNat with | 0 => .reg | 1 => .bcast | 2 => .imm | _ => .lit,
      d := x.d.toNat, a := x.a.toNat, b := x.b.toNat, c := x.c.toNat, lit := v, single := false, sl := false }

/-- The code of a B mode (R147). -/
def BMode.code : BMode → Nat
  | .reg => 0 | .bcast => 1 | .imm => 2 | .lit => 3

/-- Step 5: the form is permitted (R419). -/
def formOk (opc : Nat) (f : Form) : Bool :=
  let p := opSpec opc
  match f with
  | .single _ _ => p.s
  | .multi (.lit _ _ _) => p.sl
  | .multi (.ext _) => p.e
  | .multi (.extLit _ _) => p.el

/-- Fields of the C word of the memory class that must be 0 (R232, R250, R276 to R278, R428). -/
def cWordBad (o : Opnd) : Bool :=
  let ord := bitsOf o.c 8 7
  let scope := bitsOf o.c 6 4
  let mrec := o.c % 16
  let noOrd := decide (bitsOf o.c 9 4 ≠ 0)
  let ordBad := bitAt o.c 9 || scope = 7 || (ord = 0 && scope ≠ 0)
  match o.opc with
  | 0x80 => ordBad | 0x81 => ordBad | 0x84 => ordBad | 0x85 => ordBad
  | 0x82 => ordBad || mrec ≠ 0 | 0x83 => ordBad || mrec ≠ 0 | 0x86 => ordBad || mrec ≠ 0
  | 0x87 => ordBad || mrec ≠ 0
  | 0x88 => noOrd | 0x89 => noOrd | 0x8a => noOrd | 0x8b => noOrd
  | 0x8c => noOrd || (o.opt = 0 && mrec ≠ 0)
  | 0x8d => o.c ≠ 0
  | 0x8e => decide (8 ≤ o.c) || (!bitAt o.c 2 && o.c % 4 ≠ 0)
  | 0x8f => decide (8 ≤ o.c) || (!bitAt o.c 2 && o.c % 4 ≠ 0)
  | 0x90 => o.c ≠ 0 | 0x91 => o.c ≠ 0 | 0x92 => o.c ≠ 0
  | 0x93 => ordBad
  | 0x94 => noOrd | 0x95 => noOrd
  | 0x96 => o.c ≠ 0 | 0x97 => o.c ≠ 0
  | 0xb1 => decide (o.opt < 8 && o.opt % 8 ≠ 0)
  | 0xb2 => decide (2 ≤ o.c) || decide (o.opt < 8 && o.opt % 8 ≠ 0)
  | _ => false

/-- ORD values, OP, PTYPE and DEST codes that the instruction reserves: step 8 of R419 (R428, R453). -/
def selBad (o : Opnd) : Bool :=
  let ord := bitsOf o.c 8 7
  let kc := decide (10 < o.c % 32) || decide (4 < bitsOf o.c 7 5) || decide (bitsOf o.c 9 8 = 3)
  match o.opc with
  | 0x80 => ord ≥ 2 | 0x82 => ord ≥ 2
  | 0x81 => ord = 1 || ord = 3 | 0x83 => ord = 1 || ord = 3
  | 0x87 => ord = 0
  | 0x93 => ord ≠ 2
  | 0xb0 => kc
  | 0xb1 => kc || decide (o.opt ≥ 8 && o.opt % 8 = 7)
  | 0xb2 => decide (o.opt ≥ 8 && o.opt % 8 = 7)
  | 0xc5 => kc || decide (bitsOf o.c 9 8 = 0)
  | _ => false

/-- The payload types that a KCQ operator accepts (R266). -/
def kcqPair (op ptype : Nat) : Bool :=
  match op with
  | 0 => ptype ≤ 1 | 1 => ptype ≤ 1 | 2 => ptype = 2 | 3 => ptype = 3
  | 4 => ptype ≤ 2 | 5 => ptype ≤ 2 | 6 => ptype = 4 | 7 => ptype = 4 | 8 => ptype = 4
  | _ => ptype ≤ 4

/-- Step 7 for the selected operation: a defined TYPE that it does not accept (R453). -/
def typeForOp (o : Opnd) : Bool :=
  match o.opc with
  | 0x22 => (o.opt = 1 && o.typ ≠ 7) || (o.opt = 0 && o.typ ≠ 0)
  | 0x24 => (o.opt = 1 && o.typ ≠ 7) || (o.opt = 0 && o.typ ≠ 0)
  | 0x70 => o.typ = o.typ2 || (o.typ = 12 && o.typ2 ≠ 10) || (o.typ2 = 12 && o.typ ≠ 10)
  | 0x76 => decide (3 ≤ o.opt && o.opt ≤ 5) && isFp o.typ
  | 0x77 => decide (3 ≤ o.opt % 8 && o.opt % 8 ≤ 5) && isFp o.typ
  | 0x84 => (decide (o.opt ≤ 5) && isFp o.typ) || (decide (7 ≤ o.opt && o.opt ≤ 9) && isInt o.typ)
  | 0x86 => (decide (o.opt ≤ 5) && isFp o.typ) || (decide (7 ≤ o.opt && o.opt ≤ 9) && isInt o.typ)
  | 0xb0 => !selBad o && !kcqPair (o.c % 32) (bitsOf o.c 7 5)
  | 0xb1 => !selBad o && !kcqPair (o.c % 32) (bitsOf o.c 7 5)
  | 0xc5 => !selBad o && !kcqPair (o.c % 32) (bitsOf o.c 7 5)
  | _ => false

/-- Step 6: every unused or must-be-zero field is 0 (R419, R423). BM counts as an unused field (0x04) in an instruction that
uses no B, but where its description names the BM values (`bmRule`), which step 9 judges: DESIGN CHOICE, assumption 13. -/
def zeroBad (o : Opnd) (f : Form) : Bool :=
  let p := opSpec o.opc
  match f with
  | .single d a =>
    match o.opc with
    | 0x01 => false | 0x51 => false
    | 0x20 => false | 0x23 => false | 0x2c => false
    | _ => (p.d = .none && d ≠ 0) || (p.a = .none && a ≠ 0)
  | .multi (.lit d a _) =>
    match o.opc with
    | 0x21 => decide (1 < d.toNat)
    | 0x2b => decide (d ≠ 0 ∨ a ≠ 0)
    | _ => (p.d = .none && d ≠ 0) || (p.a = .none && a ≠ 0)
  | .multi _ =>
    let noB := p.b = .none
    let b0 := o.bm = .reg && o.b ≠ 0
    (p.d = .none && o.d ≠ 0) || (p.a = .none && o.a ≠ 0) ||
    (noB && (o.b ≠ 0 || (!p.bmRule && o.bm ≠ .reg))) ||
    (classOf o.opc = .memory && p.b = .s 1 && b0) ||
    ((classOf o.opc = .slice || classOf o.opc = .circuit) && p.b = .s 1 && b0) ||
    (o.opc = 0x8a && o.opt ≠ 1 && o.b ≠ 0) ||
    (o.opc = 0x32 && (o.opt = 4 || o.opt = 5) && o.b ≠ 0) ||
    (o.opc = 0xc7 && ((o.opt = 0 && o.a ≠ 0) || (o.opt = 1 && o.d ≠ 0))) ||
    (p.c = .none && !(o.bm = .imm && p.bms.contains 2) && o.c ≠ 0) || cWordBad o

/-- The classes of which no description requires RM to be 0: their instructions do not round and ignore it (R127). DEDUCED,
assumption 51. -/
def rmIgnored (opc : Nat) : Bool :=
  match classOf opc with | .scalar => true | .control => true | .supervisor => true | _ => false

/-- Step 8, first part: RM and INF (R419). RM 5 and 6 are reserved even where RM is ignored (R423). The memory class requires
INF to be 0 whatever its TYPE (R232, R261). -/
def rmBad (o : Opnd) : Bool :=
  let p := opSpec o.opc
  let logic := (o.opc = 0x76 || o.opc = 0x77) && !(o.opt % 8 = 0 && isFp o.typ)
  o.rm = 5 || o.rm = 6 || (((!p.rm && !rmIgnored o.opc) || logic || (o.opc = 0x70 && o.typ2 = 12)) && o.rm ≠ 0) ||
  (o.inf && (classOf o.opc = .memory || !(isB8 o.typ || isB8 o.typ2)))

/-- The larger width over the smaller of a conversion (R220). -/
def cvtRatio (o : Opnd) : Nat :=
  let w1 := widthOf o.typ
  let w2 := widthOf o.typ2
  if w1 ≥ w2 then w1 / w2 else w2 / w1

/-- Step 8, second part: OPT and the other operator fields (R419, R453). -/
def optBad (o : Opnd) : Bool :=
  !(opSpec o.opc).opts.contains o.opt || selBad o ||
  (o.opc = 0x70 && (decide (cvtRatio o ≤ o.opt % 8) ||
    (decide (8 ≤ o.opt) && (isFp o.typ || o.typ2 = 12))))

/-- Step 9: BM in an extended form (R419, R146, R148). -/
def bmBad (o : Opnd) (f : Form) : Bool :=
  match f with
  | .single _ _ => false
  | .multi (.lit _ _ _) => false
  | .multi (.ext _) => !(opSpec o.opc).bms.contains o.bm.code || o.bm = .lit
  | .multi (.extLit _ _) => !(opSpec o.opc).bms.contains o.bm.code

/-- Steps 5 to 9 of R419: the SUB of the first check that the words fail. -/
def staticSub (opc : Nat) (f : Form) : Option Nat :=
  let o := opndOf opc f
  let p := opSpec opc
  if !formOk opc f then some 0x03
  else if zeroBad o f then some 0x04
  else if !p.typs.contains o.typ && !o.single && !o.sl then some 0x05
  else if !p.typ2s.contains o.typ2 || typeForOp o then some 0x05
  else if rmBad o then some 0x06
  else if optBad o then some 0x07
  else if bmBad o f then some 0x08
  else none

end Sys2Proof.Machine
end

