-- ==== Sys2Proof/Machine/Flags.lean ====
section
/-!
DEFINITION. Number formats, exact arithmetic, rounding and the sticky flags they raise (spec 07 R123 to R137, R141; the
element operations of spec 10 R208 to R222). Everything is computed exactly on integers and rounded once.
-/

namespace Sys2Proof.Machine

/-! ## Flags (R130) -/

/-- NV, DZ, OF, UF and NX, as the bits of FPSTAT (R130). -/
def fNV : Nat := 16
def fDZ : Nat := 8
def fOF : Nat := 4
def fUF : Nat := 2
def fNX : Nat := 1

/-- An element result: its code and the flags raised. -/
abbrev ElRes := Nat × Nat

/-! ## Formats (R125, R132) -/

/-- The parameters that rounding needs: significant bits, least exponent of a normal, bias, whether the format is
binary8, unsigned, with infinities. -/
structure Fmt where
  typ : Nat
  p : Nat
  emin : Int
  bias : Int
  b8 : Bool := false
  uns : Bool := false
  hasInf : Bool := true
  deriving DecidableEq, Repr

/-- The format of a TYPE code and INF (R125, R132, R133). -/
def fmtOf (t : Nat) (inf : Bool) : Fmt :=
  match t with
  | 8 => { typ := 8, p := 11, emin := -14, bias := 15 }
  | 9 => { typ := 9, p := 8, emin := -126, bias := 127 }
  | 10 => { typ := 10, p := 24, emin := -126, bias := 127 }
  | 11 => { typ := 11, p := 53, emin := -1022, bias := 1023 }
  | _ =>
    if t < 0x18 then
      let p := t - 0x0f
      let b : Int := ((2 ^ (7 - p) : Nat) : Int)
      { typ := t, p, emin := 1 - b, bias := b, b8 := true, hasInf := inf }
    else
      let p := t - 0x17
      let b : Int := ((2 ^ (8 - p) : Nat) : Int)
      { typ := t, p, emin := 1 - b, bias := b, b8 := true, uns := true, hasInf := inf }

/-- An exact value: NaN (signalling or not), infinity, or ±m × 2^e. -/
inductive FVal where
  | nan (sig : Bool)
  | inf (neg : Bool)
  | fin (neg : Bool) (m : Nat) (e : Int)
  deriving DecidableEq, Repr

/-- 2^n for an exponent that is not negative. -/
def pow2 (n : Int) : Nat := 2 ^ n.toNat

/-- The exponent and fraction field widths of an IEEE format (R125). -/
def ieeeBits (t : Nat) : Nat × Nat :=
  match t with | 8 => (5, 10) | 9 => (8, 7) | 10 => (8, 23) | _ => (11, 52)

/-- The value of an IEEE code (R125, R126). -/
def ieeeVal (t x : Nat) : FVal :=
  let (eb, fb) := ieeeBits t
  let f := fmtOf t false
  let neg := x.testBit (eb + fb)
  let e := (x >>> fb) % 2 ^ eb
  let fr := x % 2 ^ fb
  if e = 2 ^ eb - 1 then (if fr = 0 then .inf neg else .nan (!fr.testBit (fb - 1)))
  else if e = 0 then .fin neg fr (f.emin - fb)
  else .fin neg (2 ^ fb + fr) ((e : Int) - f.bias - fb)

/-- The value of a binary8 code (R132, R133). -/
def b8Val (t : Nat) (inf : Bool) (x : Nat) : FVal :=
  let f := fmtOf t inf
  let x := x % 256
  let plain (neg : Bool) (y : Nat) : FVal :=
    let e := y >>> (f.p - 1)
    let fr := y % 2 ^ (f.p - 1)
    if e = 0 then .fin neg fr (f.emin - (f.p - 1 : Nat))
    else .fin neg (2 ^ (f.p - 1) + fr) ((e : Int) - f.bias - (f.p - 1 : Nat))
  if f.uns then
    if x = 0xff then .nan false else if x = 0xfe && inf then .inf false else plain false x
  else
    if x = 0x80 then .nan false
    else if x = 0x7f && inf then .inf false
    else if x = 0xff && inf then .inf true
    else plain (decide (128 ≤ x)) (x % 128)

/-- The value of a BS24 scale (R136): NaN for E = 255. -/
def bs24Val (x : Nat) : FVal :=
  let e := bitsOf x 23 16
  if e = 255 then .nan false else .fin false (2 ^ 16 + x % 2 ^ 16) ((e : Int) - 127 - 16)

/-- The exact value of a code of any TYPE (R124, R125, R132, R136). -/
def valOf (t : Nat) (inf : Bool) (x : Nat) : FVal :=
  if isInt t then
    let v : Int := if isI t then toSigned (widthOf t) x else ((x % 2 ^ widthOf t : Nat) : Int)
    .fin (decide (v < 0)) v.natAbs 0
  else if t = 12 then bs24Val x
  else if isB8 t then b8Val t inf x
  else ieeeVal t x

/-- The canonical NaN (R125, R133). -/
def nanCode (t : Nat) : Nat :=
  match t with
  | 8 => 0x7e00 | 9 => 0x7fc0 | 10 => 0x7fc00000 | 11 => 0x7ff8000000000000
  | 12 => 0xff0000
  | _ => if t < 0x18 then 0x80 else 0xff

/-- The number of bits of a number. -/
def bitLen (m : Nat) : Nat := if m = 0 then 0 else m.log2 + 1

/-- The exponent of the leading bit of m × 2^e. -/
def leadExp (m : Nat) (e : Int) : Int := e + bitLen m - 1

/-- The code of a value that the format holds exactly (R125, R132, R133). -/
def codeOf (f : Fmt) : FVal → Nat
  | .nan _ => nanCode f.typ
  | .inf neg =>
    if f.b8 then (if f.uns then 0xfe else if neg then 0xff else 0x7f)
    else
      let (eb, fb) := ieeeBits f.typ
      (2 ^ eb - 1) * 2 ^ fb + (if neg then 2 ^ (eb + fb) else 0)
  | .fin neg m e =>
    let fb := f.p - 1
    let sign := if !neg then 0 else if f.b8 then 0x80 else (let (eb, b) := ieeeBits f.typ; 2 ^ (eb + b))
    if m = 0 then (if f.b8 then 0 else sign)
    else
      let le := leadExp m e
      let q : Int := if le < f.emin then f.emin - fb else le - fb
      let n := if q ≤ e then m * pow2 (e - q) else m / pow2 (q - e)
      if le < f.emin then sign + n else sign + (le + f.bias).toNat * 2 ^ fb + (n - 2 ^ fb)

/-- The largest finite value (R134 for binary8). -/
def maxFinite (f : Fmt) : Nat × Int :=
  let v := if f.b8 then
      b8Val f.typ f.hasInf ((if f.uns then 0xfe else 0x7f) - (if f.hasInf then 1 else 0))
    else .fin false (2 ^ f.p - 1) (f.bias - (f.p - 1 : Nat))
  match v with | .fin _ m e => (m, e) | _ => (0, 0)

/-- Compare m1 × 2^e1 with m2 × 2^e2: less. -/
def magLt (m1 : Nat) (e1 : Int) (m2 : Nat) (e2 : Int) : Bool :=
  let e := min e1 e2
  decide (m1 * pow2 (e1 - e) < m2 * pow2 (e2 - e))

/-- The mode of MOD with DYN resolved (R127, R129). -/
def rmOf (rm : Nat) (fpctl : W64) : Nat := if rm = 7 then fpctl.toNat % 8 else rm

/-- Round m × 2^e (plus less than one unit of its last place when `st`) to a multiple of 2^q: the multiple and whether it
is inexact (R127, R128). `lowOdd` tells whether bit 0 of the lower candidate's encoding is set. -/
def roundTo (neg : Bool) (m : Nat) (e : Int) (st : Bool) (q : Int) (mode : Nat) (lowOdd : Nat → Bool) : Nat × Bool :=
  if q ≤ e then (m * pow2 (e - q), st)
  else
    let k := (q - e).toNat
    let n := m >>> k
    let r := m % 2 ^ k
    let half := 2 ^ (k - 1)
    let inexact := decide (r ≠ 0) || st
    let above := decide (half < r) || (decide (r = half) && st)
    let tie := decide (r = half) && !st
    let up := match mode with
      | 0 => above || (tie && lowOdd n)
      | 1 => false
      | 2 => neg && inexact
      | 3 => !neg && inexact
      | _ => above || tie
    (if up then n + 1 else n, inexact)

/-- The result of a rounding: the value, the flags, whether it overflowed. -/
structure Rounded where
  val : FVal
  flags : Nat
  ovf : Bool := false
  deriving DecidableEq, Repr

/-- `round` of R128 on an exact value; `st` marks an exact value slightly above m × 2^e in magnitude. -/
def roundF (f : Fmt) (mode : Nat) (st : Bool) : FVal → Rounded
  | .nan s => ⟨.nan false, if s then fNV else 0, false⟩
  | .inf n => ⟨.inf n, 0, false⟩
  | .fin neg m e =>
    if m = 0 then ⟨.fin neg 0 0, 0, false⟩
    else
      let le := leadExp m e
      let fb : Int := (f.p - 1 : Nat)
      let qU := le - fb
      let q := max qU (f.emin - fb)
      let odd (q : Int) (n : Nat) : Bool :=
        if f.p = 1 && n = 1 then decide ((q + f.bias) % 2 ≠ 0) else n % 2 = 1
      let (n, ix) := roundTo neg m e st q mode (odd q)
      let (nU, _) := roundTo neg m e st qU mode (odd qU)
      let tiny := magLt nU qU 1 f.emin
      let uf := if ix && tiny then fUF else 0
      let nx := if ix then fNX else 0
      let (mm, me) := maxFinite f
      if magLt mm me n q then
        let toInf := mode = 0 || mode = 4 || (mode = 2 && neg) || (mode = 3 && !neg)
        ⟨if toInf then .inf neg else .fin neg mm me, fOF ||| fNX, true⟩
      else ⟨.fin neg n (if n = 0 then 0 else q), uf ||| nx, false⟩

/-- Round to an IEEE TYPE and encode (R128). -/
def roundCode (t mode : Nat) (st : Bool) (v : FVal) : ElRes :=
  let f := fmtOf t false
  let r := roundF f mode st v
  (codeOf f r.val, r.flags)

/-- Conversion to binary8 (R135). -/
def toB8 (t : Nat) (inf : Bool) (mode : Nat) (satur : Bool) (v : FVal) : ElRes :=
  let f := fmtOf t inf
  let (mm, me) := maxFinite f
  let maxCode (neg : Bool) : Nat := codeOf f (.fin neg mm me)
  match v with
  | .nan s => (nanCode t, if s then fNV else 0)
  | .inf neg =>
    if satur && f.uns && neg then (0, fNX)
    else if satur then (maxCode neg, fOF ||| fNX)
    else if inf && (!neg || !f.uns) then (codeOf f (.inf neg), 0)
    else (nanCode t, fNV)
  | .fin _ _ _ =>
    let r := roundF f mode false v
    let negNonzero := match r.val with
      | .fin n m _ => n && decide (m ≠ 0)
      | .inf n => n
      | .nan _ => false
    if negNonzero && f.uns then
      if satur then (0, r.flags ||| fNX) else (nanCode t, r.flags ||| fNV)
    else if r.ovf then
      let neg := match r.val with | .fin n _ _ => n | .inf n => n | .nan _ => false
      if satur then (maxCode neg, r.flags)
      else match r.val with
        | .inf n => if inf then (codeOf f (.inf n), r.flags) else (nanCode t, r.flags)
        | w => (codeOf f w, r.flags)
    else (codeOf f r.val, r.flags)

/-! ## Exact arithmetic -/

/-- The signed integer of a sign and magnitude. -/
def signed (neg : Bool) (m : Nat) : Int := if neg then -(m : Int) else m

/-- NV where an operand is a signalling NaN (R126). -/
def sigFlag (vs : List FVal) : Nat := if vs.any (fun v => v = .nan true) then fNV else 0

/-- A NaN among operands. -/
def FVal.isNan : FVal → Bool
  | .nan _ => true
  | _ => false

/-- The sign of a value. -/
def FVal.neg : FVal → Bool
  | .nan _ => false
  | .inf n => n
  | .fin n _ _ => n

/-- A zero. -/
def FVal.isZero : FVal → Bool
  | .fin _ 0 _ => true
  | _ => false

/-- The value with its sign flipped. -/
def FVal.flip : FVal → FVal
  | .nan s => .nan s
  | .inf n => .inf (!n)
  | .fin n m e => .fin (!n) m e

/-- The exact sum; an exact zero takes the sign rules of IEEE 754 under the mode (R214). -/
def addV (mode : Nat) : FVal → FVal → FVal × Nat
  | .nan s, b => (.nan false, sigFlag [.nan s, b])
  | a, .nan s => (.nan false, sigFlag [a, .nan s])
  | .inf n, .inf m => if n = m then (.inf n, 0) else (.nan false, fNV)
  | .inf n, .fin _ _ _ => (.inf n, 0)
  | .fin _ _ _, .inf n => (.inf n, 0)
  | .fin n1 m1 e1, .fin n2 m2 e2 =>
    if m1 = 0 && m2 = 0 then (.fin (if n1 = n2 then n1 else decide (mode = 2)) 0 0, 0)
    else if m1 = 0 then (.fin n2 m2 e2, 0)
    else if m2 = 0 then (.fin n1 m1 e1, 0)
    else
      let e := min e1 e2
      let x := signed n1 (m1 * pow2 (e1 - e)) + signed n2 (m2 * pow2 (e2 - e))
      if x = 0 then (.fin (decide (mode = 2)) 0 0, 0) else (.fin (decide (x < 0)) x.natAbs e, 0)

/-- The exact product (R214). -/
def mulV : FVal → FVal → FVal × Nat
  | .nan s, b => (.nan false, sigFlag [.nan s, b])
  | a, .nan s => (.nan false, sigFlag [a, .nan s])
  | .inf n, .inf m => (.inf (n != m), 0)
  | .inf n, .fin m k _ => if k = 0 then (.nan false, fNV) else (.inf (n != m), 0)
  | .fin m k _, .inf n => if k = 0 then (.nan false, fNV) else (.inf (n != m), 0)
  | .fin n1 m1 e1, .fin n2 m2 e2 => (.fin (n1 != n2) (m1 * m2) (e1 + e2), 0)

/-- Finish an exact computation: round and gather the flags (R208). -/
def finish (t mode : Nat) (st : Bool) (r : FVal × Nat) : ElRes :=
  let (c, f) := roundCode t mode st r.1
  (c, f ||| r.2)

/-- `vfadd` (R214). -/
def fAdd (t mode a b : Nat) : ElRes := finish t mode false (addV mode (ieeeVal t a) (ieeeVal t b))

/-- `vfsub` (R214). -/
def fSub (t mode a b : Nat) : ElRes := finish t mode false (addV mode (ieeeVal t a) (ieeeVal t b).flip)

/-- `vfmul` (R214). -/
def fMul (t mode a b : Nat) : ElRes := finish t mode false (mulV (ieeeVal t a) (ieeeVal t b))

/-- `vfma` (R214): one rounding, and NV for 0 × ∞ whatever the addend is. -/
def fMa (t mode a b c : Nat) : ElRes :=
  let (p, f1) := mulV (ieeeVal t a) (ieeeVal t b)
  let (s, f2) := addV mode p (ieeeVal t c)
  finish t mode false (s, f1 ||| f2)

/-- Order on values that are not NaN, with −0 below +0 (R215). -/
def ltV : FVal → FVal → Bool
  | .inf n, .inf m => n && !m
  | .inf n, _ => n
  | _, .inf m => !m
  | .fin n1 m1 e1, .fin n2 m2 e2 =>
    if n1 != n2 then n1 else if n1 then magLt m2 e2 m1 e1 else magLt m1 e1 m2 e2
  | _, _ => false

/-- Equality of values that are not NaN, with −0 equal to +0 (R216). -/
def eqV (a b : FVal) : Bool := (a.isZero && b.isZero) || (!ltV a b && !ltV b a)

/-- `vfmin` and `vfmax` (R215). -/
def fMinMax (mx : Bool) (t a b : Nat) : ElRes :=
  let va := ieeeVal t a
  let vb := ieeeVal t b
  let fl := sigFlag [va, vb]
  if va.isNan && vb.isNan then (nanCode t, fl)
  else if va.isNan then (b, fl)
  else if vb.isNan then (a, fl)
  else (if ltV va vb != mx then a else b, fl)

/-- `vfabs` (R214). -/
def fAbs (t a : Nat) : ElRes :=
  if (ieeeVal t a).isNan then (nanCode t, 0) else (a % 2 ^ (widthOf t - 1), 0)

/-- `vfneg` (R214). -/
def fNeg (t a : Nat) : ElRes :=
  if (ieeeVal t a).isNan then (nanCode t, 0) else (a ^^^ 2 ^ (widthOf t - 1), 0)

/-- `vfcmp` (R216). -/
def fCmp (t opt a b : Nat) : Bool :=
  let va := ieeeVal t a
  let vb := ieeeVal t b
  let un := va.isNan || vb.isNan
  let eq := eqV va vb
  let lt := ltV va vb && !eq
  match opt with
  | 0 => !un && eq
  | 1 => un || !eq
  | 2 => !un && lt
  | 3 => !un && (lt || eq)
  | 4 => !un && !lt && !eq
  | 5 => !un && !lt
  | 6 => un
  | _ => !un

/-- The quotient of two magnitudes with at least 64 significant bits, and whether it is inexact. -/
def divMag (m1 m2 : Nat) : Nat × Int × Bool :=
  let s := bitLen m2 + 66 - bitLen m1
  let n := m1 <<< s
  (n / m2, -(s : Int), decide (n % m2 ≠ 0))

/-- `vfdiv` (R217). -/
def fDiv (t mode a b : Nat) : ElRes :=
  match ieeeVal t a, ieeeVal t b with
  | .nan s, vb => (nanCode t, sigFlag [.nan s, vb])
  | va, .nan s => (nanCode t, sigFlag [va, .nan s])
  | .inf _, .inf _ => (nanCode t, fNV)
  | .inf n, .fin m _ _ => finish t mode false (.inf (n != m), 0)
  | .fin n _ _, .inf m => finish t mode false (.fin (n != m) 0 0, 0)
  | .fin n1 m1 e1, .fin n2 m2 e2 =>
    if m1 = 0 && m2 = 0 then (nanCode t, fNV)
    else if m2 = 0 then finish t mode false (.inf (n1 != n2), fDZ)
    else if m1 = 0 then finish t mode false (.fin (n1 != n2) 0 0, 0)
    else
      let (q, e, st) := divMag m1 m2
      finish t mode st (.fin (n1 != n2) q (e1 - e2 + e), 0)

/-- The integer square root, bit by bit from bit `k` down. -/
def isqrtGo (n : Nat) : Nat → Nat → Nat
  | 0, r => r
  | k + 1, r =>
    let r' := r + 2 ^ k
    isqrtGo n k (if r' * r' ≤ n then r' else r)

/-- The integer square root. -/
def isqrt (n : Nat) : Nat := isqrtGo n (bitLen n / 2 + 1) 0

/-- The square root of m × 2^e with at least 66 significant bits, and whether it is inexact. -/
def sqrtMag (m : Nat) (e : Int) : Nat × Int × Bool :=
  let s0 := 140 - bitLen m
  let s := if (e - s0) % 2 = 0 then s0 else s0 + 1
  let n := m <<< s
  let r := isqrt n
  (r, (e - s) / 2, decide (r * r ≠ n))

/-- `vfsqrt` (R217). -/
def fSqrt (t mode a : Nat) : ElRes :=
  match ieeeVal t a with
  | .nan s => (nanCode t, sigFlag [.nan s])
  | .inf n => if n then (nanCode t, fNV) else finish t mode false (.inf false, 0)
  | .fin n m e =>
    if m = 0 then finish t mode false (.fin n 0 0, 0)
    else if n then (nanCode t, fNV)
    else
      let (r, e', st) := sqrtMag m e
      finish t mode st (.fin false r e', 0)

/-- `vfclass` (R218). -/
def fClass (t a : Nat) : ElRes :=
  let bit : Nat := match ieeeVal t a with
    | .nan s => if s then 8 else 9
    | .inf n => if n then 0 else 7
    | .fin n m e =>
      if m = 0 then (if n then 3 else 4)
      else if leadExp m e < (fmtOf t false).emin then (if n then 2 else 5)
      else (if n then 1 else 6)
  (2 ^ bit, 0)

/-- Round a magnitude to an integer (R218, R221). -/
def roundInt (neg : Bool) (m : Nat) (e : Int) (mode : Nat) : Nat × Bool :=
  if m = 0 then (0, false)
  else if leadExp m e < -2 then
    (match mode with | 2 => if neg then 1 else 0 | 3 => if neg then 0 else 1 | _ => 0, true)
  else roundTo neg m e false 0 mode fun n => n % 2 = 1

/-- `vfround` (R218): `nx` reports an inexact result. -/
def fRound (t mode : Nat) (nx : Bool) (a : Nat) : ElRes :=
  match ieeeVal t a with
  | .nan s => (nanCode t, sigFlag [.nan s])
  | .inf _ => (a, 0)
  | .fin n m e =>
    if 0 ≤ e then (a, 0)
    else
      let (r, ix) := roundInt n m e mode
      (codeOf (fmtOf t false) (.fin n r 0), if ix && nx then fNX else 0)

/-- `vfldexp` (R218): `b` is the element taken as a signed integer. -/
def fLdexp (t mode a b : Nat) : ElRes :=
  match ieeeVal t a with
  | .nan s => (nanCode t, sigFlag [.nan s])
  | .inf _ => (a, 0)
  | .fin n m e =>
    let k := max (-20000) (min 20000 (toSigned (widthOf t) b))
    if m = 0 then (a, 0) else finish t mode false (.fin n m (e + k), 0)

/-! ## Approximate functions (R219) -/

/-- `trunc12` of R219 on a magnitude (slightly above m × 2^e when inexact; truncation drops that). -/
def trunc12 (t : Nat) (neg : Bool) (m : Nat) (e : Int) : Nat :=
  let f := fmtOf t false
  let k := bitLen m - 12
  let m' := m >>> k
  let e' := e + k
  (roundF f 1 false (.fin neg m' e')).val |> codeOf f

/-- `vrcpa` (R219). -/
def fRcpa (t a : Nat) : ElRes :=
  match ieeeVal t a with
  | .nan s => (nanCode t, sigFlag [.nan s])
  | .inf n => (codeOf (fmtOf t false) (.fin n 0 0), 0)
  | .fin n m e =>
    if m = 0 then (codeOf (fmtOf t false) (.inf n), fDZ)
    else
      let (q, qe, _) := divMag 1 m
      let (mm, me) := maxFinite (fmtOf t false)
      if magLt mm me q (qe - e) then
        (codeOf (fmtOf t false) (.fin n mm me), 0)
      else (trunc12 t n q (qe - e), 0)

/-- `vrsqa` (R219): the reciprocal square root as √(1/x), computed from 1/x with enough bits. -/
def fRsqa (t a : Nat) : ElRes :=
  match ieeeVal t a with
  | .nan s => (nanCode t, sigFlag [.nan s])
  | .inf n => if n then (nanCode t, fNV) else (0, 0)
  | .fin n m e =>
    if m = 0 then (codeOf (fmtOf t false) (.inf n), fDZ)
    else if n then (nanCode t, fNV)
    else
      -- the largest r with r² × m ≤ 2^(2k), where 2k + e is even
      let s := 2 * (bitLen m + 70) + (if e % 2 = 0 then 0 else 1)
      let q := 2 ^ s / m
      (trunc12 t false (isqrt q) (-((s : Int) + e) / 2), 0)

/-- The table of 2^(2^-i) for i = 1, 2, …: lower bounds with `pr` fraction bits, by repeated square roots. -/
def roots (pr : Nat) : Nat → Nat → List Nat
  | 0, _ => []
  | n + 1, c => let r := isqrt (c <<< pr); r :: roots pr n r

/-- Multiply the roots selected by the fraction bits, from bit `n` down; the lower bound of the product. -/
def expLo (pr : Nat) (frac : Nat) : Nat → List Nat → Nat → Nat
  | 0, _, acc => acc
  | _, [], acc => acc
  | n + 1, r :: rs, acc => expLo pr frac n rs (if frac.testBit n then (acc * r) >>> pr else acc)

/-- The same with every bound rounded up. -/
def expHi (pr : Nat) (frac : Nat) : Nat → List Nat → Nat → Nat
  | 0, _, acc => acc
  | _, [], acc => acc
  | n + 1, r :: rs, acc => expHi pr frac n rs (if frac.testBit n then (acc * (r + 2)) / 2 ^ pr + 1 else acc)

/-- The top 12 bits of 2^(frac / 2^n), 0 < frac < 2^n, by bounds of growing precision (R219). -/
def exp12 (frac n : Nat) : Nat → Nat → Nat
  | 0, _ => 2 ^ 11
  | fuel + 1, pr =>
    let rs := roots pr n (2 * 2 ^ pr)
    let lo := expLo pr frac n rs (2 ^ pr)
    let hi := expHi pr frac n rs (2 ^ pr)
    if lo >>> (pr - 11) = hi >>> (pr - 11) then lo >>> (pr - 11) else exp12 frac n fuel (2 * pr)

/-- `vfexp2a` (R219). -/
def fExp2a (t a : Nat) : ElRes :=
  let f := fmtOf t false
  match ieeeVal t a with
  | .nan s => (nanCode t, sigFlag [.nan s])
  | .inf n => (if n then 0 else codeOf f (.inf false), 0)
  | .fin neg m e =>
    if m = 0 then (codeOf f (.fin false 1 0), 0)
    else if !neg && !magLt m e 1 (if t = 10 then 7 else 10) then (codeOf f (.inf false), 0)
    else if neg && !magLt m e 1 12 then (0, 0)
    else if 0 ≤ e then
      let x := signed neg (m * pow2 e)
      (trunc12 t false (2 ^ 11) (x - 11), 0)
    else
      let w := (-e).toNat
      let x := signed neg m
      let ip := x / ((2 ^ w : Nat) : Int)
      let fr := (x % ((2 ^ w : Nat) : Int)).toNat
      let top :=
        if fr = 0 then 2 ^ 11
        else if fr < 2 ^ (w - 14) && 14 ≤ w then 2 ^ 11
        else if 2 ^ w - fr < 2 ^ (w - 14) && 14 ≤ w then 2 ^ 12 - 1
        else exp12 fr w 4 128
      (trunc12 t false top (ip - 11), 0)

/-- Bits of log2 of a value in [1, 2), held between `lo` and `hi` with `pr` fraction bits: `n` bits, or none where the
bounds do not decide. -/
def logBits (pr : Nat) : Nat → Nat → Nat → Nat → Option Nat
  | 0, _, _, acc => some acc
  | n + 1, lo, hi, acc =>
    let l2 := (lo * lo) >>> pr
    let h2 := (hi * hi) / 2 ^ pr + 1
    if 2 * 2 ^ pr ≤ l2 then logBits pr n (l2 / 2) (h2 / 2 + 1) (2 * acc + 1)
    else if h2 < 2 * 2 ^ pr then logBits pr n l2 h2 (2 * acc)
    else none

/-- ⌊2^n × log2(m / 2^k)⌋ for 2^k < m < 2^(k+1), by bounds of growing precision. -/
def logFloor (m k n : Nat) : Nat → Nat → Nat
  | 0, _ => 0
  | fuel + 1, pr =>
    let x := (m <<< pr) >>> k
    match logBits pr n x (x + 1) 0 with
    | some r => r
    | none => logFloor m k n fuel (2 * pr)

/-- `vflog2a` (R219). -/
def fLog2a (t a : Nat) : ElRes :=
  let f := fmtOf t false
  match ieeeVal t a with
  | .nan s => (nanCode t, sigFlag [.nan s])
  | .inf n => if n then (nanCode t, fNV) else (codeOf f (.inf false), 0)
  | .fin neg m e =>
    if m = 0 then (codeOf f (.inf true), fDZ)
    else if neg then (nanCode t, fNV)
    else
      let k := bitLen m - 1
      let ex := e + k
      if m = 2 ^ k then
        if ex = 0 then (0, 0) else (trunc12 t (decide (ex < 0)) (ex.natAbs <<< 12) (-12), 0)
      else
        let n := 160
        let fr := logFloor m k n 4 512
        if 0 ≤ ex then (trunc12 t false (ex.toNat * 2 ^ n + fr) (-(n : Int)), 0)
        else (trunc12 t true (ex.natAbs * 2 ^ n - fr - 1) (-(n : Int)), 0)

/-! ## Integers -/

/-- An element as the integer of its TYPE. -/
def intOf (t x : Nat) : Int := if isI t then toSigned (widthOf t) x else ((x % 2 ^ widthOf t : Nat) : Int)

/-- The range of an integer TYPE. -/
def intMin (t : Nat) : Int := if isI t then -((2 ^ (widthOf t - 1) : Nat) : Int) else 0
def intMax (t : Nat) : Int := ((2 ^ (if isI t then widthOf t - 1 else widthOf t) : Nat) : Int) - 1

/-- Clamp to the range of an integer TYPE (R209, R221). -/
def clampInt (t : Nat) (x : Int) : Int := max (intMin t) (min (intMax t) x)

/-- Comparison of R173 on integers. -/
def cmpInt (opt : Nat) (a b : Int) : Bool :=
  match opt with
  | 0 => decide (a = b) | 1 => decide (a ≠ b) | 2 => decide (a < b) | 3 => decide (a ≤ b)
  | 4 => decide (b < a) | _ => decide (b ≤ a)

/-- Left shift of R170 on the low `w` bits. -/
def shlW (w a k : Nat) : Nat := if w ≤ k then 0 else (a % 2 ^ w) <<< k % 2 ^ w
/-- Logical right shift of R170. -/
def shrW (w a k : Nat) : Nat := if w ≤ k then 0 else (a % 2 ^ w) >>> k
/-- Arithmetic right shift of R170. -/
def sraW (w a k : Nat) : Nat := ofSigned w (toSigned w a / ((2 ^ (min k w) : Nat) : Int))

/-- `pos` and the effective length of a bit field (R172). -/
def bitField (w b : Nat) : Nat × Nat :=
  let pos := b % 64
  let len := bitsOf b 12 6
  (pos, if w ≤ pos then 0 else min len (w - pos))

/-- `sbfx` and `vbfx` (R172): the field, extended by the signedness of TYPE, as an integer. -/
def bfx (t a b : Nat) : Int :=
  let (pos, len) := bitField (widthOf t) b
  let f := (a >>> pos) % 2 ^ len
  if len = 0 then 0 else if isI t then toSigned len f else (f : Int)

/-- `sbfi` and `vbfi` (R172). -/
def bfi (t a b c : Nat) : Nat :=
  let (pos, len) := bitField (widthOf t) b
  let msk := (2 ^ len - 1) <<< pos
  (a &&& (a ^^^ msk)) ||| ((c <<< pos) &&& msk)

/-- `sdiv` (R171). -/
def divInt (t : Nat) (a b : Int) : Int :=
  if b = 0 then (if isI t then -1 else intMax t) else a.tdiv b

/-- `srem` (R171). -/
def remInt (a b : Int) : Int := if b = 0 then a else a - b * a.tdiv b

/-! ## Conversion (R221, R222) -/

/-- Conversion of f32 to BS24 (R222). -/
def toBs24 (mode frac : Nat) (v : FVal) : ElRes :=
  let nan := 0xff0000 + frac % 2 ^ 16
  match v with
  | .nan s => (nan, if s then fNV else 0)
  | .inf _ => (nan, fNV)
  | .fin neg m e =>
    if neg || m = 0 then (nan, fNV)
    else
      let q := leadExp m e - 16
      let (n, ix) := roundTo false m e false q mode fun n => n % 2 = 1
      if magLt n q 1 (-127) then (0, fUF ||| fNX)
      else if magLt (2 ^ 17 - 1) (127 - 16) n q then (0xfeffff, fOF ||| fNX)
      else
        let le := leadExp n q
        let fr := if le = q + 17 then 0 else n - 2 ^ 16
        ((le + 127).toNat * 2 ^ 16 + fr, if ix then fNX else 0)

/-- `cvt` of R221. -/
def cvtEl (td ts : Nat) (inf satur : Bool) (mode x : Nat) : ElRes :=
  let v := valOf ts inf x
  if isInt td then
    if isInt ts then
      let i := intOf ts x
      (ofSigned (widthOf td) (if satur then clampInt td i else i), 0)
    else match v with
      | .nan _ => (0, fNV)
      | .inf n => (ofSigned (widthOf td) (if n then intMin td else intMax td), fNV)
      | .fin n m e =>
        let (r, ix) := roundInt n m e mode
        let i := signed n r
        if intMin td ≤ i && i ≤ intMax td then (ofSigned (widthOf td) i, if ix then fNX else 0)
        else (ofSigned (widthOf td) (clampInt td i), fNV)
  else if td = 12 then toBs24 mode (Config.bs24Fraction x) v
  else if isB8 td then toB8 td inf mode satur v
  else roundCode td mode false v

/-! ## Quantisation (R137) -/

/-- The emax of a binary8 variant (R134). -/
def emaxB8 (t : Nat) (inf : Bool) : Int :=
  let (m, e) := maxFinite (fmtOf t inf)
  leadExp m e

/-- The largest exponent ⌊log2 |v|⌋ of the nonzero members of a list. -/
def maxExp : List FVal → Option Int
  | [] => none
  | v :: vs =>
    let r := maxExp vs
    match v with
    | .fin _ m e =>
      if m = 0 then r else match r with | some x => some (max x (leadExp m e)) | none => some (leadExp m e)
    | _ => r

/-- Divide a value by a power of two, exactly. -/
def FVal.scale (k : Int) : FVal → FVal
  | .fin n m e => .fin n m (e + k)
  | v => v

/-- Quantise a block: the scale and the codes, with flags (R137). -/
def quantise (t : Nat) (inf : Bool) (vs : List FVal) : Nat × List ElRes :=
  let nv := sigFlag vs
  if vs.any FVal.isNan then (0xff0000, vs.map fun _ => (nanCode t, nv))
  else if vs.any (fun v => match v with | .inf _ => true | _ => false) then
    (0xfe0000, vs.map fun v => toB8 t inf 0 true (v.scale (-127)))
  else match maxExp vs with
    | none => (0, vs.map fun _ => (0, 0))
    | some k =>
      let e := max 0 (min 254 (k - emaxB8 t inf + 127))
      (e.toNat * 2 ^ 16, vs.map fun v => toB8 t inf 0 true (v.scale (127 - e)))

/-- Dequantise an element (R137, R224). -/
def dequantEl (td ts : Nat) (inf : Bool) (mode x scale : Nat) : ElRes :=
  let (v, f) := mulV (b8Val ts inf x) (bs24Val scale)
  finish td mode false (v, f)

/-! ## Reductions (R226) -/

/-- The operation of `vred` and `vscan` (R226). -/
def redOp (t op mode x y : Nat) : ElRes :=
  let w := widthOf t
  if isFp t then
    match op with
    | 0 => fAdd t mode x y
    | 1 => fMinMax false t x y
    | _ => fMinMax true t x y
  else match op with
    | 0 => ((x + y) % 2 ^ w, 0)
    | 1 => (if intOf t x ≤ intOf t y then x else y, 0)
    | 2 => (if intOf t x ≤ intOf t y then y else x, 0)
    | 3 => (x &&& y, 0)
    | 4 => (x ||| y, 0)
    | _ => (x ^^^ y, 0)

/-- The identity of a reduction (R226). -/
def redId (t op : Nat) : Nat :=
  let f := fmtOf t false
  if isFp t then
    match op with
    | 0 => codeOf f (.fin true 0 0)
    | 1 => codeOf f (.inf false)
    | _ => codeOf f (.inf true)
  else match op with
    | 1 => ofSigned (widthOf t) (intMax t)
    | 2 => ofSigned (widthOf t) (intMin t)
    | 3 => 2 ^ widthOf t - 1
    | _ => 0

/-- One level of the pairwise tree of R141: neighbours are combined, flags gathered. -/
def redLevel (t op mode : Nat) : List Nat → List Nat × Nat
  | a :: b :: xs =>
    let (r, f) := redOp t op mode a b
    let (rs, g) := redLevel t op mode xs
    (r :: rs, f ||| g)
  | xs => (xs, 0)

/-- The tree of R141: `n` levels over 2^n elements. -/
def redTree (t op mode : Nat) : Nat → List Nat → ElRes
  | 0, xs => (xs.headD 0, 0)
  | n + 1, xs =>
    let (ys, f) := redLevel t op mode xs
    let (r, g) := redTree t op mode n ys
    (r, f ||| g)

/-- One step of the scan of R227. -/
def scanStep (t op mode step : Nat) (u : List Nat) : List Nat × Nat :=
  let rs := (List.range u.length).map fun l =>
    if l < step then (u.getD l 0, 0) else redOp t op mode (u.getD (l - step) 0) (u.getD l 0)
  (rs.map Prod.fst, rs.foldl (fun f r => f ||| r.2) 0)

/-- The prefix results of R227. -/
def scanAll (t op mode : Nat) : List Nat → List Nat → List Nat × Nat
  | [], u => (u, 0)
  | s :: ss, u =>
    let (v, f) := scanStep t op mode s u
    let (w, g) := scanAll t op mode ss v
    (w, f ||| g)

end Sys2Proof.Machine
end

