-- ==== Sys2Proof/Machine/State.lean ====
section
/-!
DEFINITION. The state of the machine, as plain data: every piece of state that spec 01 to 25 names, each record citing the
rule that gives it. Defaults are the values after reset (spec 17 R366 and the reset columns); where the spec states none
the value is the model's (assumptions 1 and 2). Fields marked MODEL are the model's own (assumption 3).
-/

namespace Sys2Proof.Machine

/-- Why the machine stops. No operation or event of the D9 stops the machine: every fault of the spec is a next state. -/
inductive Fault where
  /-- Raised by `step` alone, when MODEL field `turn` names a unit that the D9 does not have (R7). Safe: no agent of the
  hardware takes such a turn. -/
  | noSuchUnit
  /-- Raised by `step` when a PTE sends an access to a physical address that its tier does not have (R69). Safe: the
  spec gives such an access no effect. -/
  | noSuchAddress
  deriving DecidableEq, Repr

/-- Why an instruction has no meaning in the model. -/
inductive Refusal where
  /-- Raised by an arm of `exec` whose meaning is not written. Safe. -/
  | notModelled (mnemonic : String)
  deriving DecidableEq, Repr

/-! ## Threads and groups -/

/-- Why a thread is parked, with what it waits for (R31, R79). -/
inductive Park where
  | rejoin (j : Nat)
  | barrier (b : Nat)
  | monitor
  | counter (c : Nat)
  | kpop
  | translate (acc : Nat)
  | stream (q : Nat)
  | refill
  /-- A scratchpad access to an INVALID stash entry (R79). -/
  | stash (acc : Nat)
  deriving DecidableEq, Repr

/-- A thread of a group (R16, R17, R380). -/
structure Lane where
  pc : W64 := 0
  /-- On-chip return stack, newest first, at most 8 entries. -/
  stack : List W64 := []
  spilled : Nat := 0
  park : Option Park := none
  trap : Bool := false
  trapPc : W64 := 0
  trapCause : W64 := 0
  trapInfo0 : W64 := 0
  trapInfo1 : W64 := 0
  /-- A spill or refill of this lane's return stack is in flight (R17). -/
  stackBusy : Bool := false
  deriving DecidableEq, Repr

/-- What holds a bundle apart (R23, R203, R277, R297). -/
inductive Hold where
  /-- `sleep`, and its own address (R203, R204). -/
  | sleep (till : Nat) (pc : W64)
  /-- `twait`: the last operation on the tile that it waits for (R297). -/
  | tile (op : Nat)
  /-- The operation that makes the bundle wait is not complete: a push or a hold change, whose queue has not decided (R277,
  R280), `icinv` (R193), `ctrset` (R259). -/
  | op (id : Nat)
  deriving DecidableEq, Repr

/-- A bundle (R22 to R24, R34, R57). -/
structure Bundle where
  mask : W64 := 0
  /-- The first clock at which the stall count is 0. -/
  readyAt : Nat := 0
  age : Nat := 0
  hold : Option Hold := none
  /-- The instruction-buffer line that the bundle holds a reference to (R24, R193, R414). -/
  line : Option Nat := none
  /-- The buffer line of the second half of an instruction that crosses into it (R143, R193). -/
  line2 : Option Nat := none
  /-- Restored and not yet regrouped: it is no candidate (R38). -/
  restored : Bool := false
  deriving DecidableEq, Repr

/-- A register file with readiness (R155, R156). -/
inductive RFile where
  | v | s | p | j | t
  deriving DecidableEq, Repr

/-- A fixed-latency write that is not ready yet (R151, R157): the value before it, for the lanes it wrote. For a file of
whole registers `lanes` is all ones and `olds` has one entry; for predicates and masks the entry is the whole register. -/
structure Pend where
  file : RFile
  reg : Nat
  lanes : W64
  olds : List W64
  ready : Nat
  /-- The result is scoreboarded: its readers wait and never trap (R155). -/
  soft : Bool := false
  deriving DecidableEq, Repr

/-- Scoreboarded destinations of an operation in flight (R155, R447). -/
structure Score where
  owner : Nat
  file : RFile
  reg : Nat
  lanes : W64
  /-- A latency that passes by itself: the clock from which the destination is ready (R217). -/
  till : Option Nat := none
  deriving DecidableEq, Repr

/-- A monitor (R188). -/
inductive Monitor where
  | disarmed
  /-- Armed on a virtual line, with its physical line once translated. -/
  | armed (line : Nat)
  | triggered (line : Nat)
  deriving DecidableEq, Repr

/-- A stream port bound to a vector register (R82, R253). -/
structure Bind where
  reg : Nat
  q : Nat
  push : Bool
  /-- The element of which this port moved an image last (R253, R398). -/
  last : Option Nat := none
  /-- Images popped for lanes that parked on the ring, and not yet read by them: lanes and image, oldest first. -/
  images : List (W64 × List Nat) := []
  deriving DecidableEq, Repr

/-- A leaf PTE in a TLB (R115, R116). -/
structure Xlat where
  tenant : Nat
  vpage : Nat
  large : Bool
  pte : W64
  pteAt : Nat
  /-- Host tier: the host page of 4 KiB that ATS gave (R365). -/
  hostPage : Option Nat := none
  deriving DecidableEq, Repr

/-- How far a request has come in translation (R113 to R117). -/
inductive TrState where
  | todo
  | found (x : Xlat)
  /-- The walk faulted, or R114 refused the access. -/
  | bad (cause : Nat)
  /-- A translation wait (R117). -/
  | wait
  /-- A leaf of the host tier: waiting for the ATS completion (R365). -/
  | ats (x : Xlat)
  /-- A PRI Page Request for this host page is outstanding (R365). -/
  | pri (page : Nat)
  | remote
  /-- A scratchpad request has no translation. -/
  | scratch
  deriving DecidableEq, Repr

/-- A release or acquire scope, as R89 numbers it. -/
abbrev Scope := Nat

/-- What is done when a marker of a store queue has been performed. -/
inductive Mark where
  /-- A fence, an ordered atomic: the access of this id is released (R97). -/
  | access (acc : Nat)
  /-- The release that an engine operation, a push, a counter write or a post makes first (R101, R104, R250, R257). -/
  | fork (op : Nat)
  /-- Lanes arrive at a barrier (R103, R186). -/
  | barrier (b : Nat) (lanes : W64)
  /-- `icinv` of a range (R193). -/
  | icinv (lo hi scope op : Nat)
  /-- The writes of a completed block of a launch (R43). -/
  | drained (launch : Nat)
  /-- A push port has written the last image of an element: block, ring, element number (R105). -/
  | pushed (blk q elem : Nat)
  deriving DecidableEq, Repr

/-- Where a store goes (R67, R68): a virtual line or a line of an allocation's scratchpad, both in units of 128 bytes. -/
inductive Dest where
  | virt (line : Nat)
  | scratch (core : Nat) (line : Nat)
  | none
  deriving DecidableEq, Repr

/-- What one lane stores in a line: lane, position, address, bytes (R236). -/
structure Part where
  lane : Nat
  pos : Nat
  va : Nat
  bytes : List Byte
  deriving DecidableEq, Repr

/-- An entry of a store queue or of a core's commit order (R74): one line and what its lanes store in it, or a marker.
Entries of one instruction share `id`. -/
structure Store where
  id : Nat
  slot : Nat := 0
  tenant : Nat := 0
  /-- The block whose scratchpad is addressed. -/
  blk : Nat := 0
  dest : Dest := .none
  parts : List Part := []
  tr : TrState := .todo
  lanes : W64 := 0
  pc : W64 := 0
  /-- Release scope of `st.rel` or of a marker. -/
  rel : Option Scope := none
  mark : Option Mark := none
  nt : Bool := false
  /-- Engine operations that a `stamp.all` waits for (R254). -/
  forks : List Nat := []
  /-- A scalar instruction's: it stands for every lane of its bundle (R174). -/
  scalar : Bool := false
  /-- The lanes of suppressed positions, one for each, that OOBCOUNT gains when they do not fault (R407). -/
  oob : List Nat := []
  /-- Every lane with bytes in the entry has a decided fate (R408). -/
  fate : Bool := false
  /-- In the commit order: the physical line and the masked bytes sent to L2. -/
  pline : Nat := 0
  bytes : List (Option Byte) := []
  host : Bool := false
  /-- Write-back of dirty bytes (R75). -/
  writeBack : Bool := false
  /-- In the commit order: the number that it took there, after the work of its own release (R97). -/
  seq : Nat := 0
  deriving DecidableEq, Repr

/-- A blocking `kpop` that waits (R271, R278): its order, lanes, first result register and acquire scope. -/
structure KWait where
  id : Nat
  lanes : W64
  d : Nat
  acq : Option Nat
  pc : W64
  /-- The clock at which it parked. -/
  since : Nat := 0
  deriving DecidableEq, Repr

/-- A group (R19, R12, R13, R157, R178). Absent until placed. -/
structure Group where
  block : Nat := 0
  groupIdx : Nat := 0
  stage : Nat := 0
  first : Nat := 0
  rolen : Nat := 1
  prio : Nat := 0
  persist : Bool := false
  supervisor : Bool := false
  tenant : Nat := 0
  nv : Nat := 16
  ns : Nat := 16
  nt : Nat := 0
  trapEntry : W64 := 0
  tlsBase : W64 := 0
  tlsStride : W64 := 32
  lanes : List Lane := List.replicate 64 {}
  exited : W64 := 0
  bundles : List Bundle := []
  /-- Vector elements, keyed 64 × register + lane. -/
  vregs : ZMap 32 := []
  sregs : ZMap 64 := []
  /-- p1 to p15; p0 is hard-wired. -/
  pregs : ZMap 64 := []
  jexp : ZMap 64 := []
  jarr : ZMap 64 := []
  mrecs : ZMap 128 := []
  /-- Bound tile names: physical tiles, format (13 R288). -/
  tiles : NMap (List Nat × Nat) := []
  fpstat : W64 := 0
  fpctl : W64 := 0
  mode : W64 := 0
  /-- Fixed-latency writes that are not ready (R151, R157). -/
  pend : List Pend := []
  /-- Destinations of operations in flight (R155). -/
  score : List Score := []
  storeQ : List Store := []
  /-- Accesses that every later memory access of the group waits for (R97). -/
  memHold : List Nat := []
  monitor : Monitor := .disarmed
  mwaitTill : Option Nat := none
  binds : List Bind := []
  /-- Loads performed before older loads of the group: access and physical line (R92, R94). -/
  ahead : List (Nat × Nat) := []
  forks : List Nat := []
  kwaits : List KWait := []
  /-- What remains of each `sleep` that a save interrupted, for the lanes that issue it again (R204). -/
  naps : List (W64 × Nat) := []
  endSeen : Bool := false
  lastIssue : Nat := 0
  yieldUntil : Nat := 0
  /-- Registers holding an uncorrectable error: file, number, lane (R379, R390). -/
  badRegs : List (RFile × Nat × Nat) := []
  deriving DecidableEq, Repr

/-! ## Accesses in flight -/

/-- What an access does (R74, R96, R175, R235 to R243). -/
inductive AccKind where
  | load
  | store
  | atom (op : Nat)
  | cas
  /-- A return-stack refill (R17). -/
  | refill
  | stashFill (blk win entry : Nat)
  | pref (l1 : Bool)
  /-- `mon`: arms the monitor once the address is translated (R188). -/
  | mon
  /-- A fence that waits for earlier accesses (R97, R241). -/
  | fence
  /-- `stampw`: repeats until the value is reached (R255). With the lanes that issued it, and whether they were in trap mode. -/
  | stampw (value : W64) (act : W64) (trap : Bool)
  /-- An instruction fetch in a translation wait (R414). -/
  | fetch
  deriving DecidableEq, Repr

/-- One lane's part of an access (R72): lane, position, address, bytes, destination register, operands. -/
structure Req where
  lane : Nat
  pos : Nat
  va : Nat
  size : Nat
  dst : Nat
  val : W128 := 0
  cmp : W128 := 0
  /-- The core whose scratchpad is addressed, for a scratchpad access. -/
  core : Nat := 0
  tr : TrState := .todo
  /-- What it read; the lane's destinations are written when all its lines have been read (R379). -/
  got : Option Nat := none
  /-- Remote: the piece has been handed to a station, and the bytes of the core's own earlier stores (R88). -/
  sent : Bool := false
  fwd : List (Option Byte) := []
  deriving DecidableEq, Repr

/-- An access in flight (R91, R116, R117). -/
structure Access where
  id : Nat
  /-- The id that owns the destinations; a replay keeps it. -/
  owner : Nat
  core : Nat
  slot : Nat
  tenant : Nat
  kind : AccKind
  pc : W64
  lanes : W64
  typ : Nat
  reqs : List Req
  /-- Suppressed elements that are still to receive 0: register and lane (R72, R235). -/
  zeros : List (Nat × Nat) := []
  /-- The lanes of suppressed positions, one for each, that OOBCOUNT gains when they do not fault (R407). -/
  oob : List Nat := []
  acq : Option Scope := none
  rel : Option Scope := none
  nt : Bool := false
  /-- The destination is a scalar register (R174). -/
  scalar : Bool := false
  /-- Lanes are parked in a translation wait (R117) or on a stash entry (R79). -/
  parked : Bool := false
  /-- A release that precedes the access has been performed (R97). -/
  released : Bool := true
  /-- Engine operations that a `stamp.all` waits for (R254). -/
  forks : List Nat := []
  deriving DecidableEq, Repr

/-! ## Blocks and launches -/

/-- State of a stash entry (R79). -/
inductive StashState where
  | invalid | clean | dirty
  deriving DecidableEq, Repr

/-- A stash entry; its bytes are in the scratchpad (R79). -/
structure StashEntry where
  st : StashState := .invalid
  mask : List Bool := []
  tr : Option Xlat := none
  filling : Bool := false
  /-- The cores whose stores made it DIRTY; the release of any of them writes it back (R79, R97). -/
  writers : List Nat := []
  deriving DecidableEq, Repr

/-- A stash window (R79, R242). -/
structure Window where
  off : Nat
  base : Nat
  len : Nat
  /-- The record that mapped the window permits writing (R242). -/
  wr : Bool := false
  entries : List StashEntry
  deriving DecidableEq, Repr

/-- A block's share of one core (R52, R53, R78, R79, R64). -/
structure Share where
  core : Nat
  low : Nat
  slots : List Nat
  scratch : ZMap 8 := []
  ctrVal : ZMap 64 := []
  ctrTgt : ZMap 64 := []
  windows : NMap Window := []
  sealed : Bool := false
  /-- The restore of the scratchpad image has not finished (R66). -/
  loading : Bool := false
  deriving DecidableEq, Repr

/-- A bundle that waits at a ring (R31, R82): its group, lanes and port register; a push carries its image. -/
structure RingWait where
  key : Nat
  lanes : W64
  reg : Nat
  image : List Nat := []
  deriving DecidableEq, Repr

/-- The stall detector of a block (R393). -/
structure StallWatch where
  since : Option Nat := none
  reported : Bool := false
  /-- The block's groups when it was reported: key, parked lanes, last issue. A thread has unparked since where one of them
  differs (R394). -/
  seen : List (Nat × W64 × Nat) := []
  deriving DecidableEq, Repr

/-- A block (R32, R37, R52, R81). -/
structure Block where
  launch : Nat
  index : Nat
  tenant : Nat
  cluster : Nat
  n : Nat
  live : List Nat
  shares : List Share
  bars : NMap Nat := []
  qcws : ZMap 128 := []
  /-- Images of the element at HEAD that have been popped, and of the element at TAIL that have been pushed (R82). -/
  popped : NMap Nat := []
  pushed : NMap Nat := []
  /-- Elements whose images are all written and at which TAIL does not stand yet: number, and whether the release of the
  pushing group has been performed (R105). -/
  unreleased : NMap (List (Nat × Bool)) := []
  /-- Who waits at each ring to pop and to push, in the order they reached it (R82). -/
  popQ : NMap (List RingWait) := []
  pushQ : NMap (List RingWait) := []
  stall : StallWatch := {}
  /-- A saved block: its groups, and the tiles that they hold or that operations name (R62, R64, R298). -/
  image : Option (NMap Group) := none
  tileImage : NMap (ZMap 32) := []
  accsImage : List Access := []
  /-- The save area that holds the image (R63), and the bytes of the image there: first and length. -/
  area : Nat := 0
  span : Nat × Nat := (0, 0)
  deriving DecidableEq, Repr

/-- A role of a launch (R48, R49). -/
structure Role where
  entry : W64
  ng : Nat
  vg : Nat
  sg : Nat
  nt : Nat
  persist : Bool
  deriving DecidableEq, Repr

/-- A started LAUNCH or GANG packet (R48 to R50, R55, R56). -/
structure Launch where
  queue : Nat
  pos : Nat
  tenant : Nat
  gang : Bool
  prio : Nat
  gx : Nat
  gy : Nat
  gz : Nat
  roles : List Role
  trapEntry : W64
  tileKb : Nat
  ringKb : Nat
  stashKb : Nat
  nctr : Nat
  tlsStride : Nat
  tlsBase : W64
  args : W64
  supervisor : Bool
  next : Nat := 0
  done : Nat := 0
  /-- Cores of completed blocks whose writes are not all performed at scope sys (R43). -/
  pending : Nat := 0
  /-- The gang ticket of the next block (R56). -/
  ticket : Option Nat := none
  deriving DecidableEq, Repr

/-- A placement reservation (R56): the launch whose next block holds it, and the cores of its target arrangement. -/
structure Reserve where
  launch : Nat
  cores : List Nat
  deriving DecidableEq, Repr

/-- A pre-emption in progress (R61, R364): a save or a restore of tenants, and its area. -/
structure Preempt where
  restore : Bool
  tenants : List Nat
  area : Nat
  /-- The bytes of the save area that images have taken (R62). -/
  used : Nat := 0
  /-- A save asked for during a restore: tenants, area, and what was written to PREEMPT. -/
  next : Option (List Nat × Nat × W64) := none
  deriving DecidableEq, Repr

/-! ## Cores -/

/-- An L1 line (R74 to R76): physical line, data, dirty bytes, page mode. -/
structure L1Line where
  pline : Nat
  /-- The virtual address of the line at which it was loaded. -/
  va : Nat := 0
  mode : Nat
  tenant : Nat
  data : List Byte
  dirty : List Bool
  deriving DecidableEq, Repr

/-- An instruction-buffer line (R193). -/
structure IbLine where
  tenant : Nat
  vline : Nat
  data : List Byte
  /-- Marked for refetch (R193). -/
  stale : Bool := false
  deriving DecidableEq, Repr

/-- A core (R7, R178). -/
structure Core where
  cycle : Nat := 0
  /-- MODEL: the partition that acts next in the current clock. -/
  phase : Nat := 0
  oob : W64 := 0
  dropped : W64 := 0
  tlb : List Xlat := []
  l1 : List L1Line := []
  ibuf : NMap IbLine := []
  /-- The clock to which each partition's vector datapath is occupied (R151). -/
  vbusy : NMap Nat := []
  commitQ : List Store := []
  /-- The clock of the last commit: one entry leaves a core's store queues per clock (R74). -/
  lastCommit : Option Nat := none
  deriving DecidableEq, Repr

/-! ## Host registers and records -/

/-- A host fault record, without NODE, which is the device's, and SEQ (R386). -/
structure FaultRec where
  cause : Nat
  demand : Bool := false
  trapped : Bool := false
  write : Bool := false
  nested : Bool := false
  defer : Bool := false
  src : Nat := 0
  unit : Nat := 0
  laneMask : W64 := 0
  pc : W64 := 0
  addr : W64 := 0
  info1 : W64 := 0
  tenant : Nat := 0
  devWide : Bool := false
  deriving DecidableEq, Repr

/-- The host register space (R362, R385), but for queues and stations. -/
structure HostRegs where
  fqBase : W64 := 0
  fqCtl : W64 := 0
  fqWrite : W64 := 0
  fqRead : W64 := 0
  fqDrop : W64 := 0
  /-- Records since EN was set (R385, R386). -/
  fqSeq : Nat := 0
  ceCnt : W64 := 0
  ueCnt : W64 := 0
  nodeId : Nat := 0
  /-- ASCTX of each tenant (R110). -/
  asctx : ZMap 64 := []
  qsup : W64 := 0
  ocsNode : Nat := 0
  cluown : ZMap 64 := []
  winBase : Nat := 0
  /-- PWRCAP, PWRSTAT and THERMSTAT (R368, R369). -/
  pwrCap : Nat := 3000
  pwrStat : W64 := 0
  thermStat : W64 := 0
  /-- The boot ROM has run, with BOOTSTAT (R366). -/
  booted : Bool := false
  bootStat : Nat := 0
  digests : List (List Byte) := []
  /-- The Revision ID register of PCIe configuration space (R1, R360); nothing writes it. -/
  revision : Byte := 0xb0
  /-- The host's PRI allocation: the page requests that may be outstanding (R365), set through configuration space. -/
  priAlloc : Nat := 0
  /-- Addresses of the host completions with an error that AER has logged, oldest first (R360, R415). -/
  aer : List Nat := []
  /-- The nonce, the report's address, and GO and DONE (R367). -/
  nonce : ZMap 64 := []
  repAddr : W64 := 0
  repBusy : Bool := false
  repDone : Bool := false
  preempt : W64 := 0
  drefAddr : W64 := 0
  drefCtl : W64 := 0
  deriving DecidableEq, Repr

/-! ## Translation at the dies -/

/-- A walk request at a die (R116, R117): one entry for a tenant and 64 KiB page, whoever asks. -/
structure WalkReq where
  tenant : Nat
  vpage : Nat
  /-- In a translation wait: the physical line of the deciding PTE. -/
  wait : Option Nat := none
  /-- A store to the monitored line has restarted the walk: it begins at level 1 (R117). -/
  top : Bool := false
  /-- The last wait was decided by an entry with V = 0, whose demand has been posted (R117). -/
  posted : Bool := false
  /-- The demand records of the agents without lanes that wait here too (R45, R120, R246). -/
  agents : List FaultRec := []
  deriving DecidableEq, Repr

/-- A die (R10, R116). -/
structure Die where
  tlb : List Xlat := []
  walks : List WalkReq := []
  /-- Cached non-leaf entries: tenant, level, index prefix, next table. -/
  cache : List (Nat × Nat × Nat × Nat) := []
  refusal : Option Nat := none
  deriving DecidableEq, Repr

/-! ## Sequencers without lanes -/

/-- The registers of a Folbel context or a script context (R301, R313, R355): program counter as a byte offset in its
region, s0 to s31, return stack newest first, and the clock from which it may issue. -/
structure Proc where
  pc : Nat := 0
  sregs : ZMap 64 := []
  stack : List W64 := []
  readyAt : Nat := 0
  deriving DecidableEq, Repr

/-- A Folbel invocation's context (R301, R302, R311). -/
structure FolbelCtx where
  busy : Bool := false
  proc : Proc := {}
  tenant : Nat := 0
  /-- 0 MISS, 1 FILL, 2 EVICT, 3 MSG. -/
  kind : Nat := 0
  /-- Virtual and physical line of the event. -/
  line : Nat := 0
  pline : Nat := 0
  /-- The tenant's region of the handler store: first byte and size. -/
  base : Nat := 0
  size : Nat := 0
  budget : Nat := 0
  hprefs : Nat := 0
  msgs : Nat := 0
  /-- A MSG from a group: CORE and slot of its block (R302). -/
  origin : Option (Nat × Nat) := none
  /-- EVICT: the snapshot (R305), and its granules that were in error (R390, R432). -/
  snap : List Byte := []
  snapBad : List Nat := []
  /-- The clock from which the invocation waits for a line that another holds, and the address (R431). -/
  waitSince : Option (Nat × W64) := none
  deriving DecidableEq, Repr

/-- An event of a slice (R303 to R307). -/
structure SliceEvent where
  kind : Nat
  tenant : Nat
  line : Nat
  pline : Nat
  pay : W64 × W64 := (0, 0)
  origin : Option (Nat × Nat) := none
  snap : List Byte := []
  /-- The granules of the snapshot that were in error (R390, R432). -/
  snapBad : List Nat := []
  /-- Its record in the queue is in uncorrectable error (R388, R432). -/
  bad : Bool := false
  /-- It was posted while its tenant's table was loading (R310). -/
  loading : Bool := false
  deriving DecidableEq, Repr

/-- An L2 slice's Folbel core (R301, R307, R310). -/
structure Slice where
  clock : Nat := 0
  ctxs : List FolbelCtx := List.replicate 4 {}
  queue : List SliceEvent := []
  /-- Events of loading tenants (R310). -/
  holdBuf : List SliceEvent := []
  /-- FILL events that wait for a place in the queue (R307). -/
  lateFills : List SliceEvent := []
  store : ZMap 8 := []
  next : Nat := 0
  deriving DecidableEq, Repr

/-- A script context of the fabric processor (R355, R356). -/
structure ScriptCtx where
  busy : Bool := false
  proc : Proc := {}
  tenant : Nat := 0
  queue : Nat := 0
  pos : Nat := 0
  /-- The clock from which an instruction waits, its limit, and whether it is an `erecv` (R357). -/
  waitSince : Option (Nat × Nat × Bool) := none
  /-- The limit of a wait has passed (R357). -/
  timedOut : Bool := false
  /-- MODEL: in which order contexts began to wait. -/
  order : Nat := 0
  deriving DecidableEq, Repr

/-- An optical port (R347, R348, R350). -/
structure Port where
  /-- 0 DARK, 1 LOCKING, 2 TRAINED, 3 LIVE. -/
  st : Nat := 0
  pend : Bool := false
  handle : Nat := 0
  peerNode : Nat := 0
  peerPort : Nat := 0
  cause : Nat := 0
  ctx : Nat := 0
  since : Nat := 0
  draining : Bool := false
  optown : W64 := 0
  deriving DecidableEq, Repr

/-- A circuit-live barrier (R352). -/
structure CircBar where
  tenant : Nat
  peerNode : Nat
  mask : Nat
  deriving DecidableEq, Repr

/-- The fabric processor and the optics (R348 to R357). -/
structure Fabric where
  clock : Nat := 0
  ctxs : List ScriptCtx := List.replicate 4 {}
  mem : ZMap 8 := []
  ports : NMap Port := []
  bars : NMap CircBar := []
  /-- Received messages with their tenant, oldest first (R357). -/
  recvq : List (Nat × Emsg) := []
  /-- Positions of the receive queue in uncorrectable error (R388). -/
  recvBad : List Nat := []
  next : Nat := 0
  deriving DecidableEq, Repr

/-- A line of an L2 slice (R70, R76, R303, R306); its data are in `mem` (assumption 5). -/
structure L2Line where
  /-- Tenant and virtual line of the request that installed it (R303). -/
  tag : Option (Nat × Nat) := none
  /-- The fill has not arrived. -/
  filling : Bool := false
  /-- The line waits for `hend` of its FILL event, or is held for an MSG event (R305, R306). -/
  held : Bool := false
  /-- When it was last used; 0 is the least-recently-used way, in which non-temporal lines enter (R71). -/
  used : Nat := 0
  deriving DecidableEq, Repr

/-- A range entry of a handler table (R309): entries for MISS, FILL, EVICT and MSG as word offsets. -/
structure HRange where
  vbase : Nat
  vlen : Nat
  ents : List Nat
  budget : Nat
  deriving DecidableEq, Repr

/-- A tenant's loaded handlers (R308 to R310). -/
structure HandlerTab where
  ranges : List HRange := []
  base : Nat := 0
  size : Nat := 0
  /-- HNDCTL.TABLE and BUSY. -/
  table : Nat := 0
  busy : Bool := false
  /-- The table that a load has checked and not yet installed: ranges, region and image address (R310). -/
  checked : Option (List HRange × Nat × Nat × Nat) := none
  deriving DecidableEq, Repr

/-! ## The electrical plane (R326 to R343, R434 to R438) -/

/-- What a packet of a station carries and whom its answer concerns (R335, R336, R340, R348, R435). -/
inductive Cargo where
  /-- A piece of a lane access: the requests, by lane and position. -/
  | piece (acc : Nat) (parts : List (Nat × Nat)) (va : Nat)
  /-- A combining-buffer line of a core. -/
  | line (core : Nat) (line : Nat) (bytes : List (Option Byte))
  /-- A store with a wide release of a core, which is sent by itself (R75, R97). -/
  | store (core : Nat) (e : Store)
  /-- Part of an engine operation: its offset and length. -/
  | part (op : Nat) (off len : Nat)
  /-- A packet of a hoist send (R340): the copy it belongs to, its number in the send, its segment and how many there are, the
  receiver's slot. A message has no offset and is header, pennants and segment word; a write packet has an offset in the payload.
`h.payload` has their bytes; `step` is the queue and the address of the COLL (R440). -/
  | hoist (tenant comm copy part seg nseg slot : Nat) (off : Option Nat) (h : Hoist) (step : Nat × Nat)
  /-- The response to a peer's request, or the error notice (R329, R330, R434). -/
  | response (tag : Nat) (data : List Byte)
  | notice (tag ncode : Nat)
  /-- A circuit message: kind 0 CIRCUIT_REQUEST, 1 RELEASE (R348). -/
  | circ (kind ctx port : Nat) (word : W64)
  /-- `emsg` (R357). -/
  | emsg (ctx : Nat) (m : Emsg)
  deriving DecidableEq, Repr

/-- How far a packet has come (R329, R331). -/
inductive PktState where
  | queued | replay | custody
  deriving DecidableEq, Repr

/-- A request of a station (R328 to R331). -/
structure Packet where
  id : Nat
  node : Nat
  tc : Nat
  count : Nat
  podasid : Nat
  tenant : Nat
  kind : Option RemoteKind := none
  cargo : Cargo
  st : PktState := .queued
  sentAt : Nat := 0
  /-- Its place in the commit order of its core, against the numbers of releases (R97). -/
  seq : Nat := 0
  /-- It reached its station while its node was lost or the link was dead: the cause with which it ends (R436, R437). -/
  doom : Option Nat := none
  /-- The clocks of its station for which its window has held it (R438). -/
  waited : Nat := 0
  deriving DecidableEq, Repr

/-- A window towards a node (R331, R332, R438). -/
structure Win where
  w : Nat := 65536
  acked : Nat := 0
  lastDec : Nat := 0
  /-- A WINDOW_STALL record has been posted and W has not risen since. -/
  posted : Bool := false
  deriving DecidableEq, Repr

/-- A line of a combining buffer (R88). -/
structure CombLine where
  core : Nat
  tenant : Nat
  line : Nat
  bytes : List (Option Byte)
  since : Nat
  deriving DecidableEq, Repr

/-- A request of a peer in this device's custody that waits for translation (R120, R329). -/
structure Incoming where
  req : RemoteRequest
  tenant : Nat
  /-- It came over this optical port, and is answered over it (R346, R353). -/
  port : Option Nat := none
  deriving DecidableEq, Repr

/-- A station (R326 to R333, R437). STNCTL resets with RTTTGT = 3,000. -/
structure Station where
  ctl : W64 := 0x0bb80000
  up : Bool := false
  /-- EN has been written from 0 to 1 since a node was marked lost (R436). -/
  renewed : Bool := false
  /-- Deficits of TC1 to TC3 and the class whose turn it is (R330). -/
  deficit : List Nat := [0, 0, 0]
  drr : Nat := 0
  clock : Nat := 0
  /-- The clock at which the link left training. -/
  downAt : Option Nat := none
  /-- The retrain limit has passed: requests end as NCODE 9 until the link trains. -/
  dead : Bool := false
  pkts : List Packet := []
  wins : NMap Win := []
  comb : List CombLine := []
  incoming : List Incoming := []
  deriving DecidableEq, Repr

/-! ## Communicators (R337 to R343) -/

/-- A COLL that has started and not completed (R339, R343). -/
structure Coll where
  seq : Nat
  queue : Nat
  pos : Nat
  addr : Nat
  orig : Bool
  rop : Nat
  wtype : Nat
  nvisit : Nat
  count : Nat
  stype : Nat
  src : Nat
  dst : Nat
  recAddr : Nat
  digest : Nat
  visits : Nat := 0
  satcnt : Nat := 0
  /-- At the origin: the first send has been taken into custody (R343). -/
  first : Bool := true
  deriving DecidableEq, Repr

/-- How far a copy of a hoist has come (R342). -/
inductive HState where
  /-- The origin's hoist, to be built from a route entry. -/
  | origin (rt : Nat)
  | strike
  /-- It waits to be sent: node, slot, via a circuit, and the clock from which it has found no live port. -/
  | send (node slot : Nat) (circ : Bool) (since : Nat)
  /-- The segments not yet in custody. -/
  | sent (segs : List Nat)
  /-- On its way over an optical port to a node's slot (R354). -/
  | flying (port node slot : Nat)
  deriving DecidableEq, Repr

/-- A copy of a hoist at a member (R342): header and remaining pennants, values (of WTYPE, or of the type it is sent in), the
arrival it came from. -/
structure HCopy where
  id : Nat
  h : Hoist
  x : List Nat
  arr : Option Nat := none
  orig : Bool := false
  /-- The queue and the address of its COLL (R440). -/
  step : Nat × Nat := (0, 0)
  st : HState
  deriving DecidableEq, Repr

/-- An arrival in a staging buffer (R340, R342): slot, who sent it, what of it has come, and whether it has been compared and
answered. -/
structure Arrival where
  id : Nat
  slot : Nat
  src : Nat
  /-- It came over a circuit. -/
  circ : Bool := false
  /-- The request numbers of its messages, which are answered when it is struck. -/
  tags : List Nat
  /-- How many segments it has, those whose message has come, and the units of 256 bytes that its write packets have placed. -/
  nseg : Nat := 1
  msgs : List Nat
  got : List Nat := []
  h : Hoist
  struck : Bool := false
  deriving DecidableEq, Repr

/-- A communicator (R337, R441). -/
structure Comm where
  tenant : Nat
  id : Nat
  nroute : Nat
  stage : Nat
  rt : Nat
  rtlen : Nat
  seq : Nat := 0
  failed : Bool := false
  colls : List Coll := []
  copies : List HCopy := []
  arrivals : List Arrival := []
  /-- The queue and position of its DESTROY. -/
  destroy : Option (Nat × Nat) := none
  deriving DecidableEq, Repr

/-! ## Engine operations -/

/-- Where a copy goes (R245): a core's scratchpad of the block, this node, or a peer. -/
inductive CopyTo where
  | sp (core off : Nat)
  | gl (va : Nat)
  | peer (va : Nat)
  deriving DecidableEq, Repr

/-- What a slice writes in one destination line, at once (R83): the line's first byte in memory, in the scratchpad or as a
peer's address, the virtual address of the first byte written, whether its page is HC, and the masked bytes. -/
structure Piece where
  place : Nat
  va : Nat
  hc : Bool
  bytes : List (Option Byte)
  deriving DecidableEq, Repr

/-- A slice that has been pushed (R83, R84): what remains to be written. -/
structure Slice4K where
  idx : Nat
  len : Nat
  pieces : List Piece
  /-- The destination bytes by virtual address. -/
  va : Nat := 0
  /-- Over an optical port (R353), and whether it is on its way. -/
  port : Option Nat := none
  flying : Bool := true
  deriving DecidableEq, Repr

/-- A copy command (R83 to R85, R245). -/
structure Copy where
  unit : Nat
  src : Nat
  dst : CopyTo
  rows : Nat
  rowBytes : Nat
  sstride : Nat
  dstride : Nat
  nt : Bool := false
  ctr : Option Nat := none
  stamp : Option (Nat × W64) := none
  bar : Option Nat := none
  /-- A COPY packet's queue and position. -/
  pkt : Option (Nat × Nat) := none
  /-- The next slice to push. -/
  next : Nat := 0
  out : List Slice4K := []
  /-- A fault has stopped the command (R411). -/
  stopped : Bool := false
  /-- Clock of the fabric processor from which the barrier's count runs (R445). -/
  since : Nat := 0
  deriving DecidableEq, Repr

/-- A multicast fill (R86, R87, R247): source, length, offset, counters, cores not yet resolved, and its lines once read. -/
structure Fill where
  /-- The issuing launch, which outlives the issuing block. -/
  launch : Nat := 0
  va : Nat
  len : Nat
  doff : Nat
  ictr : Nat
  tctr : Nat
  cores : List Nat
  lines : Option (List (Option (List Byte))) := none
  deriving DecidableEq, Repr

/-- A bulk transfer (R248, R249). For a push the source is a scratchpad of the block or global bytes; for a pull `core`
and `off` are the destination. -/
structure Xfer where
  pull : Bool
  /-- The scratchpad, `none` for a push from global bytes at `va`. -/
  core : Option Nat
  off : Nat
  va : Nat
  len : Nat
  tc : Nat
  node : Nat
  /-- The local counter: of the issuing core for a push, of the destination core for a pull. -/
  ctr : Option Nat
  /-- A push's destination: core, slot, offset, counter. -/
  dcore : Nat := 0
  dslot : Nat := 0
  doff : Nat := 0
  dctr : Option Nat := none
  /-- For each station, the offset from which its packets have not been sent. -/
  next : List Nat := [0, 0, 0, 0]
  /-- Bytes whose packets have not been answered. -/
  left : Nat
  stopped : Bool := false
  deriving DecidableEq, Repr

/-- A record of a keyed combining queue (R263). -/
structure KRec where
  key : W64
  pay : W128
  parent : W32 := 0
  count : Nat := 1
  spilled : Bool := false
  homed : Bool := false
  sat : Bool := false
  shut : Bool := false
  ptype : Nat
  op : Nat
  deriving DecidableEq, Repr

/-- A keyed combining queue (R262, R268 to R275). -/
structure Kcq where
  /-- The waiting records of each set with their entry numbers, at most 8 a set. -/
  sets : NMap (List (Nat × KRec)) := []
  entry : Nat := 0
  disp : Nat := 0
  /-- Outstanding tickets: index and the block that popped (R392). -/
  tickets : List (Nat × Nat) := []
  hold : Nat := 0
  bypass : Nat := 0
  /-- The spill ring: SPILLBASE, SPILLLOG2, records taken and records entered. -/
  ringBase : Nat := 0
  ringLog : Nat := 0
  ringHead : Nat := 0
  ringTail : Nat := 0
  folds : Nat := 0
  seals : Nat := 0
  spills : Nat := 0
  /-- A save has taken the queue (R65). -/
  saved : Bool := false
  deriving DecidableEq, Repr

/-- The parameters of an `mma` (R286): for operands and scales the core, offset and row stride; depth; `.inf`; types; and
the passes still to run (R59). -/
structure Mma where
  a : Nat × Nat × Nat
  b : Nat × Nat × Nat
  sa : Option (Nat × Nat × Nat)
  sb : Option (Nat × Nat × Nat)
  k : Nat
  inf : Bool
  atype : Nat
  btype : Nat
  prio : Nat
  passes : Nat
  ran : Nat := 0
  deriving DecidableEq, Repr

/-- What a matrix operation does (R289, R292 to R295). -/
inductive MatCmd where
  | mma (m : Mma)
  | clear
  /-- `tld`: core, offset, pitch, TYPE. -/
  | load (core off pitch typ : Nat)
  /-- `tst`: core, offset, pitch, TYPE, rounding mode, counter. -/
  | store (core off pitch typ rm : Nat) (ctr : Option Nat)
  /-- `twr`: elements by 128 × row + column. -/
  | write (cells : List (Nat × Nat))
  /-- `qdual`: TYPE, INF, and for each half the places of its codes and scales; the counter. -/
  | quant (typ : Nat) (inf : Bool) (row col : Option ((Nat × Nat) × (Nat × Nat))) (ctr : Option Nat)
  /-- A `trd` that waits (R289): destination registers by position, row, lanes. -/
  | read (regs : List Nat) (row : Nat)
  deriving DecidableEq, Repr

/-- What an engine operation does. -/
inductive OpKind where
  /-- A matrix operation: physical tiles, two for an F64 tile (R288). -/
  | mat (tiles : List Nat) (cmd : MatCmd)
  /-- `ctrset` (R250): core, counter, operation, value, target. -/
  | ctr (core idx opt : Nat) (val tgt : W64)
  /-- `pgmode` (R77, R201): step, address, page size, leaf, result register. -/
  | pgmode (step va : Nat) (large : Bool) (leaf : W64) (d : Nat)
  | copy (c : Copy)
  | fill (f : Fill)
  | xfer (x : Xfer)
  /-- `msend` (R256): element address, payload, and the lowest slot of the sender's block (R302). -/
  | msg (va : Nat) (pay : W64 × W64) (low : Nat)
  /-- `qpost` (R257): queue, packet, result register. -/
  | post (q : Nat) (words : List W64) (d : Nat)
  /-- `kpush` and `spawn` (R277): queue, record, word 0 of the instruction. -/
  | push (q : Nat) (r : KRec) (word0 : W32)
  /-- `kcfg` (R280): queue, `.unhold` or `.hold`, word 0 of the instruction. -/
  | khold (q : Nat) (un : Bool) (word0 : W32)
  /-- `kdone` (R279): queue, ticket index, record bits 127:64. -/
  | kdone (q t : Nat) (word : W64)
  deriving DecidableEq, Repr

/-- An engine operation (R101, R259): who issued it, whether its fork has been performed, and what it does. `core` 128
stands for a packet of a command queue. -/
structure Op where
  id : Nat
  core : Nat
  slot : Nat
  lane : Nat := 0
  tenant : Nat
  blk : Nat := 0
  pc : W64 := 0
  lanes : W64 := 0
  /-- The release of the fork has been performed (R101). -/
  ready : Bool := false
  /-- Its lanes were in trap mode (R383). -/
  trap : Bool := false
  kind : OpKind
  deriving DecidableEq, Repr

/-- A cluster's matrix engine (R284, R288, R298): the contents of its 64 physical tiles, element (i, j) under 128 × i + j; the
pass and the tile-port operation that run, with the clock of the issuing core at which each may end. -/
structure Matrix where
  tiles : NMap (ZMap 32) := []
  pass : Option (Nat × Nat) := none
  port : Option (Nat × Nat) := none
  deriving DecidableEq, Repr

/-! ## Command queues (R39 to R44) -/

/-- A packet that has started (R43, R44): the model's id, position, kind, where its stamp goes, its own address, and whether
it is complete. Elsewhere a packet is named by its queue and this id. -/
structure Run where
  id : Nat
  pos : Nat
  kind : Nat
  stamp : Option Nat
  addr : Nat
  done : Bool := false
  deriving DecidableEq, Repr

/-- A command queue (R39, R40). `read` is the 64-bit position count, whose low 32 bits are READ. -/
structure Queue where
  base : W64 := 0
  ctl : W64 := 0
  write : Nat := 0
  read : Nat := 0
  runs : List Run := []
  /-- The packet at the head has been met and waits: for ORDERED, a condition, translation or a context. -/
  waiting : Bool := false
  /-- The set that a FENCE at the head waits for: queue and position (R47). -/
  fence : Option (List (Nat × Nat)) := none
  deriving DecidableEq, Repr

/-- What the device hands to the outside (R329, R348, R434): responses to peers and error notices. -/
inductive NetMsg where
  | response (src tag : Nat) (data : List Byte)
  | notice (src tag : Nat) (ncode : Nat)
  | request (station : Nat) (p : Packet)
  /-- A slice of a copy over an optical port (R353): the operation, the slice's number and its pieces, each at an address of
  the peer. -/
  | slice (port podasid op idx : Nat) (parts : List (Nat × List (Option Byte)))
  /-- A whole hoist over an optical port (R340, R354). -/
  | hoist (port slot : Nat) (h : Hoist)
  /-- What a host read through BAR 4 returns (R361). -/
  | hostData (data : List Byte)
  /-- An ATS Invalidation Completion (R365). -/
  | atsDone (page : Nat)
  deriving DecidableEq, Repr

/-! ## MODEL: who acts -/

/-- Whose clock advances when the schedule names no event. -/
inductive Turn where
  | core (c : Nat)
  | folbel (slice : Nat)
  | fabric
  | station (d : Nat)
  deriving DecidableEq, Repr

/-- A granule of guarded storage other than memory that is in uncorrectable error (R388, R390). -/
inductive Spot where
  /-- A block's scratchpad on a core: 8-byte granule. -/
  | scratch (blk core granule : Nat)
  /-- A core's L1 line: granule of the line. -/
  | l1 (core pline granule : Nat)
  /-- Two elements of a physical tile: the lower one's number by 2. -/
  | tile (cluster tile pair : Nat)
  /-- A waiting record of a keyed combining queue: granule of its 32 bytes. -/
  | krec (queue entry granule : Nat)
  /-- A slice's handler store, and the script memory. -/
  | store (slice granule : Nat)
  | script (granule : Nat)
  deriving DecidableEq, Repr

/-- What goes wrong in guarded storage (R388 to R391). -/
inductive Upset where
  /-- A correctable error, met and corrected (R389). -/
  | corrected
  | memory (granule : Nat)
  /-- A register of a group: file, number, lane. -/
  | register (key : Nat) (f : RFile) (r lane : Nat)
  /-- The tag or the presence vector of an L2 line, by its physical line number. -/
  | l2Tag (pline : Nat)
  | spot (x : Spot)
  /-- An event of a slice's queue, a message of the receive queue: position. -/
  | event (slice idx : Nat)
  | message (idx : Nat)
  /-- Parity: the entry of a TLB or of the walker's cache counts as a miss. -/
  | coreTlb (core idx : Nat)
  | dieTlb (die idx : Nat)
  | walkCache (die idx : Nat)
  /-- Parity in an instruction-buffer line (R391). -/
  | ibuf (core id : Nat)
  deriving DecidableEq, Repr

/-- One entry of the schedule: an event with what it brings, a change of turn, or an upset. -/
inductive Act where
  | event (i : Instr) (x : Input)
  | turn (t : Turn)
  | upset (u : Upset)
  deriving DecidableEq, Repr

/-- The kind of sequencer that issues. -/
inductive Seq where
  | group | folbel | fabric
  deriving DecidableEq, Repr

/-- The issue in progress: sequencer, unit (core, slice), sub-unit (slot, context), lanes, address, words and clock. -/
structure Cursor where
  seq : Seq := .group
  unit : Nat := 0
  sub : Nat := 0
  lanes : W64 := 0
  pc : W64 := 0
  nwords : Nat := 1
  word0 : W32 := 0
  clock : Nat := 0
  /-- R58 holds the bundle: the instruction did not issue. -/
  held : Bool := false
  /-- Lanes that do not return to a bundle before the next regroup (R200). -/
  away : W64 := 0
  /-- What holds the bundle after this issue (R203, R297). -/
  hold : Option Hold := none
  /-- The bundle gives up its instruction-buffer line (R194). -/
  dropLine : Bool := false
  deriving DecidableEq, Repr

/-- The machine. -/
structure State where
  /-- Bytes by physical address (R69); host physical address a stands at 2^64 + a. -/
  mem : ZMap 8 := []
  cores : NMap Core := []
  groups : NMap Group := []
  blocks : NMap Block := []
  launches : NMap Launch := []
  /-- Placement reservations, by tenant (R56). -/
  reserves : NMap Reserve := []
  /-- The save or restore in progress (R61, R364). -/
  job : Option Preempt := none
  /-- Tenants that have been saved and not restored (R61, R62). -/
  saved : List Nat := []
  dies : NMap Die := []
  accs : NMap Access := []
  /-- Lines present or filling, by physical line. -/
  l2 : NMap L2Line := []
  slices : NMap Slice := []
  fabric : Fabric := {}
  regs : HostRegs := {}
  /-- Demand records that the walker holds until the queue has room (R387). -/
  demandHeld : List FaultRec := []
  /-- The on-package flash from which the boot ROM loads (R366). -/
  flash : List FlashImage := []
  /-- Host accesses that wait for a line that a handler holds, oldest first (R108, R306). -/
  hostWait : List HostAccess := []
  /-- Pages whose PRI Page Request waits for the host's allocation, oldest first (R365). -/
  priLate : List Nat := []
  /-- The command queue whose turn is next (R41). -/
  qturn : Nat := 0
  /-- MSI-X vectors signalled to the host, oldest first (R360). -/
  msix : List Nat := []
  /-- 8-byte granules of memory in uncorrectable error (R390). -/
  ecc : List Nat := []
  /-- Granules of other storage in uncorrectable error (R388). -/
  errs : List Spot := []
  handlers : NMap HandlerTab := []
  /-- Engine operations in flight (R101). -/
  ops : NMap Op := []
  queues : NMap Queue := []
  kcqs : NMap Kcq := []
  /-- Spawns of each PARENT whose records no `kdone` has released (R392). -/
  spawned : ZMap 64 := []
  /-- The matrix engines by cluster. -/
  mats : NMap Matrix := []
  /-- HOMEMAP of each tenant (R267, R275); one not listed is the identity. -/
  homeMaps : NMap (List Nat) := []
  stations : NMap Station := []
  /-- Communicators, by 2^16 × tenant + id. -/
  comms : NMap Comm := []
  /-- Copies on their way over a port whose communicator a DESTROY has deleted, with its key (R441). -/
  adrift : List (Nat × HCopy) := []
  /-- Nodes marked lost (R436). -/
  lost : List Nat := []
  /-- Hoist packets and messages that the stations have taken into custody and that wait behind their receive queues, oldest
  first (R329). -/
  custody : List Input := []
  /-- Packets handed to the outside, newest last (output). -/
  net : List NetMsg := []
  /-- Host translations held on die 0 (R365): page of 4 KiB to host page, newest first; outstanding page requests. -/
  ats : List (Nat × Nat) := []
  pri : List Nat := []
  /-- Pages whose ATS request is outstanding (R365). -/
  atsAsk : List Nat := []
  /-- Agents without lanes that wait for a page request, by page (R365, R418). -/
  priWait : List (Nat × FaultRec) := []
  /-- ATS Invalidations that have not completed: page and host page (R365). -/
  atsInv : List (Nat × Nat) := []
  /-- MODEL: an access went to a physical address that does not exist (assumption 10). -/
  hole : Bool := false
  /-- MODEL: how often L2 lines have been used, which orders their uses (R71). -/
  l2Tick : Nat := 0
  /-- MODEL. -/
  nextId : Nat := 0
  /-- MODEL: events to come, and whose clock advances otherwise. -/
  schedule : List Act := []
  turn : Turn := .core 0
  cur : Cursor := {}
  input : Input := {}
  /-- MODEL: free values drawn so far. -/
  freeCtr : Nat := 0
  deriving DecidableEq, Repr

/-- The machine after power-on reset (R366): every field at its default. -/
def State.reset : State := {}

end Sys2Proof.Machine
end

