-- ==== Sys2Proof/Machine/Ops.lean ====
section
/-!
DEFINITION. Named operations over the state: memory bytes, units, host fault records, registers with readiness, bundles,
parking, exit, and taking a trap and returning from it (spec 02, 03, 08, 21).
-/

namespace Sys2Proof.Machine

/-! ## Memory bytes -/

/-- `n` bytes from an address (R2). -/
def readBytes (m : ZMap 8) (a : Nat) : Nat → List Byte
  | 0 => []
  | n + 1 => getZ m a :: readBytes m (a + 1) n

/-- Write bytes upward from an address. -/
def writeBytes (m : ZMap 8) (a : Nat) : List Byte → ZMap 8
  | [] => m
  | b :: bs => writeBytes (setZ m a b) (a + 1) bs

/-- Write the present bytes of a masked list upward from an address. -/
def writeMasked (m : ZMap 8) (a : Nat) : List (Option Byte) → ZMap 8
  | [] => m
  | none :: bs => writeMasked m (a + 1) bs
  | some b :: bs => writeMasked (setZ m a b) (a + 1) bs

/-- The little-endian number of `n` bytes at an address. -/
def readNat (m : ZMap 8) (a n : Nat) : Nat := ofBytes (readBytes m a n)

/-- A line of bytes with some bytes laid over it at an offset. -/
def overlay (n off : Nat) (bs : List Byte) : List (Option Byte) :=
  (List.range n).map fun i => if off ≤ i && i < off + bs.length then bs[i - off]? else none

/-- Newer masked bytes over older ones. -/
def mergeBytes : List (Option Byte) → List (Option Byte) → List (Option Byte)
  | [], bs => bs
  | as, [] => as
  | a :: as, b :: bs => (if b.isSome then b else a) :: mergeBytes as bs

/-- Masked bytes over data. -/
def applyBytes : List Byte → List (Option Byte) → List Byte
  | a :: as, b :: bs => b.getD a :: applyBytes as bs
  | as, _ => as

/-! ## Units -/

/-- A core; one that nothing has touched is as after reset. -/
def State.core (s : State) (c : Nat) : Core := (getN s.cores c).getD {}
/-- Replace a core. -/
def State.setCore (s : State) (c : Nat) (x : Core) : State := { s with cores := putN s.cores c x }
/-- Change a core. -/
def State.updCore (s : State) (c : Nat) (f : Core → Core) : State := s.setCore c (f (s.core c))
/-- A die. -/
def State.die (s : State) (d : Nat) : Die := (getN s.dies d).getD {}
/-- Change a die. -/
def State.updDie (s : State) (d : Nat) (f : Die → Die) : State := { s with dies := putN s.dies d (f (s.die d)) }
/-- The key of a group: core and slot. -/
def gkey (core slot : Nat) : Nat := 128 * core + slot
/-- A group; an empty slot reads as a group of no lanes that nothing changes. -/
def State.group (s : State) (k : Nat) : Option Group := getN s.groups k
/-- Replace a group. -/
def State.setGroup (s : State) (k : Nat) (g : Group) : State := { s with groups := putN s.groups k g }
/-- Change a group that is resident. -/
def State.updGroup (s : State) (k : Nat) (f : Group → Group) : State :=
  match s.group k with | some g => s.setGroup k (f g) | none => s
/-- Change a block that exists. -/
def State.updBlock (s : State) (b : Nat) (f : Block → Block) : State :=
  match getN s.blocks b with | some x => { s with blocks := putN s.blocks b (f x) } | none => s
/-- A fresh id of the model's own. -/
def State.fresh (s : State) : Nat × State := (s.nextId, { s with nextId := s.nextId + 1 })
/-- A free word (assumption 7). -/
def State.freeWord (s : State) : W64 × State := (Config.freeWord s.freeCtr, { s with freeCtr := s.freeCtr + 1 })
/-- A free choice among `n` alternatives (assumption 7). -/
def State.freeChoice (s : State) (n : Nat) : Nat × State :=
  (Config.freeChoice s.freeCtr % n, { s with freeCtr := s.freeCtr + 1 })
/-- Change the current issue. -/
def State.setHeld (s : State) : State := { s with cur := { s.cur with held := true } }

/-- The die, cluster and row of a core (R8). -/
def dieOf (core : Nat) : Nat := core / 32
/-- Row of a core on its die: bits 4:3 of CORE (R8). -/
def rowOf (core : Nat) : Nat := (core / 8) % 4
/-- Column of a core on its die: bits 2:0 of CORE (R8). -/
def colOf (core : Nat) : Nat := core % 8
/-- The cluster of a core (R9). -/
def clusterOf (core : Nat) : Nat := 8 * dieOf core + 4 * (rowOf core / 2) + colOf core / 2
/-- The index of a core within its cluster (R9). -/
def inCluster (core : Nat) : Nat := 2 * (rowOf core % 2) + colOf core % 2
/-- The core of a cluster with an index (R9). -/
def coreOfCluster (cl k : Nat) : Nat :=
  32 * (cl / 8) + 8 * (2 * (cl % 8 / 4) + k / 2) + 2 * (cl % 4) + k % 2

/-! ## Host fault queue (R385 to R387) -/

/-- The 64 bytes of a record (R386). -/
def FaultRec.bytes (r : FaultRec) (node seq : Nat) : List Byte :=
  let b (x : Bool) (i : Nat) : Nat := if x then 2 ^ i else 0
  toBytes 2 r.cause ++
  toBytes 1 (b r.demand 0 + b r.trapped 1 + b r.write 2 + b r.nested 3 + b r.defer 4) ++
  toBytes 1 r.src ++ toBytes 2 node ++ toBytes 2 r.unit ++ toBytes 8 r.laneMask.toNat ++ toBytes 8 r.pc.toNat ++
  toBytes 8 r.addr.toNat ++ toBytes 8 r.info1.toNat ++ toBytes 8 0 ++
  toBytes 1 ((if r.devWide then 0 else r.tenant % 16) + b r.devWide 7) ++ toBytes 7 0 ++ toBytes 8 seq

/-- The ring has no room, or the queue is disabled (R387). -/
def HostRegs.fqBlocked (h : HostRegs) : Bool :=
  !h.fqCtl.getLsbD 0 ||
    decide ((h.fqWrite.toNat + 2 ^ 32 - h.fqRead.toNat % 2 ^ 32) % 2 ^ 32 = 2 ^ fld h.fqCtl 7 4)

/-- Write a record at the next position and signal its vector (R385, R387). -/
def writeRec (r : FaultRec) (s : State) : State :=
  let h := s.regs
  let a := fld h.fqBase 63 12 * 4096 + 64 * (h.fqSeq % 2 ^ fld h.fqCtl 7 4)
  { s with
    mem := writeBytes s.mem (2 ^ 64 + a) (r.bytes h.nodeId (h.fqSeq + 1))
    regs := { h with fqSeq := h.fqSeq + 1, fqWrite := w64 ((h.fqWrite.toNat + 1) % 2 ^ 32) }
    msix := s.msix ++ [fld h.fqCtl 21 16] }

/-- Post a record: dropped and counted where it cannot be written, but for a demand, which the walker holds (R387). -/
def postRec (r : FaultRec) (s : State) : State :=
  if s.regs.fqBlocked then
    if r.demand then { s with demandHeld := s.demandHeld ++ [r] }
    else { s with regs := { s.regs with fqDrop := s.regs.fqDrop + 1 } }
  else writeRec r s

/-! ## Registers with readiness (R155 to R157) -/

/-- The value of an element as a read at clock `now` sees it: entries are newest first, `cur` is the newest value. -/
def staleVal (now : Nat) (sel : Pend → Option W64) : List Pend → W64 → W64
  | [], cur => cur
  | e :: es, cur =>
    match sel e with
    | none => staleVal now sel es cur
    | some old => if e.ready ≤ now then cur else staleVal now sel es old

/-- The old value that an entry keeps for an element. -/
def Pend.old (f : RFile) (r lane : Nat) (e : Pend) : Option W64 :=
  if e.file = f && e.reg = r && e.lanes.getLsbD lane then
    (match f with | .v => e.olds[lane]? | _ => e.olds.head?)
  else none

/-- The newest fixed-latency write of an element is not ready (R156). -/
def Group.early (g : Group) (now : Nat) (f : RFile) (r lane : Nat) : Bool :=
  match g.pend.find? (fun e => (e.old f r lane).isSome) with
  | some e => !e.soft && decide (now < e.ready)
  | none => false

/-- An element waits in the scoreboard (R155, R447). -/
def Group.scored (g : Group) (now : Nat) (f : RFile) (r lane : Nat) : Bool :=
  g.score.any fun e => e.file = f && e.reg = r && e.lanes.getLsbD lane &&
    (match e.till with | some t => decide (now < t) | none => true)

/-- A vector element (R123, R157). -/
def Group.readV (g : Group) (now r lane : Nat) : Nat :=
  (staleVal now (Pend.old .v r lane) g.pend ((getZ g.vregs (64 * r + lane)).setWidth 64)).toNat % 2 ^ 32

/-- The 64 lanes of a vector register. -/
def Group.readVReg (g : Group) (now r : Nat) : List Nat := (List.range 64).map (g.readV now r)

/-- A scalar register (R157). -/
def Group.readS (g : Group) (now r : Nat) : W64 := staleVal now (Pend.old .s r 0) g.pend (getZ g.sregs r)

/-- A predicate register: p0 reads all ones (R19). -/
def Group.readP (g : Group) (now r : Nat) : W64 :=
  if r = 0 then BitVec.allOnes 64
  else maskOf ((List.range 64).filter fun l => (staleVal now (Pend.old .p r l) g.pend (getZ g.pregs r)).getLsbD l)

/-- The expected mask of a rejoin register (R157, R196). -/
def Group.readJ (g : Group) (now r : Nat) : W64 := staleVal now (Pend.old .j r 0) g.pend (getZ g.jexp r)

/-- Drop the oldest entries that are ready. -/
def trimPend (now : Nat) (ps : List Pend) : List Pend :=
  (ps.reverse.dropWhile fun e => decide (e.ready ≤ now)).reverse

/-- A later write takes its elements out of the scoreboard (R155). -/
def unscore (f : RFile) (r : Nat) (lanes : W64) (es : List Score) : List Score :=
  (es.map fun e => if e.file = f && e.reg = r then { e with lanes := e.lanes &&& ~~~lanes } else e).filter
    fun e => e.lanes ≠ 0

/-- A value that is there at once stands over every earlier write of its elements (R155, R156). -/
def unpend (f : RFile) (r : Nat) (lanes : W64) (ps : List Pend) : List Pend :=
  (ps.map fun e => if e.file = f && e.reg = r then { e with lanes := e.lanes &&& ~~~lanes } else e).filter fun e => e.lanes ≠ 0

/-- The first lane of the granule of 32 bits in which a register holds a lane: one lane of a vector register, 32 of a predicate
register; the two granules of a scalar register or mask are read and written together (R388). -/
def granule (f : RFile) (l : Nat) : Nat := match f with | .v => l | .p => l / 32 * 32 | _ => 0

/-- A write of lanes of a register clears the errors of the 32-bit granules that it covers (R388, R390). -/
def healed (f : RFile) (r : Nat) (lanes : W64) (bad : List (RFile × Nat × Nat)) : List (RFile × Nat × Nat) :=
  bad.filter fun b => !(b.1 = f && b.2.1 = r && (match f with
    | .v => lanes.getLsbD b.2.2
    | .p => (List.range 32).all fun i => lanes.getLsbD (b.2.2 / 32 * 32 + i)
    | _ => true))

/-- The value of a lane of a vector register without the scoreboarded results that are pending on it. -/
def unsoft (now r l : Nat) : List Pend → W64 → W64
  | [], cur => cur
  | e :: es, cur => match e.old .v r l with
    | some old => if e.soft && decide (now < e.ready) then unsoft now r l es old else cur
    | none => unsoft now r l es cur

/-- A later-issued write of lanes of a vector register: a scoreboarded result that is pending there is never written (R155). -/
def Group.supersede (g : Group) (now r : Nat) (m : W64) : Group :=
  { g with
    vregs := (lanesOf m).foldl (fun v l => setZ v (64 * r + l) (w32 (unsoft now r l g.pend ((getZ g.vregs (64 * r + l)).setWidth 64)).toNat)) g.vregs
    pend := (g.pend.map fun e =>
      if e.soft && decide (now < e.ready) && e.file = .v && e.reg = r then { e with lanes := e.lanes &&& ~~~m } else e).filter
        fun e => e.lanes ≠ 0 }

/-- Record a fixed-latency write, ready at `ready`, and release the scoreboard. -/
def Group.notePend (g : Group) (now : Nat) (f : RFile) (r : Nat) (lanes : W64) (olds : List W64) (ready : Nat)
    (soft : Bool := false) : Group :=
  { g with
    pend := if now < ready then { file := f, reg := r, lanes, olds, ready, soft } :: trimPend now g.pend
            else unpend f r lanes (trimPend now g.pend)
    score := unscore f r lanes g.score
    badRegs := healed f r lanes g.badRegs }

/-- Put lane words into a vector register, nothing else. -/
def putLanes (m : ZMap 32) (r : Nat) : List (Nat × Nat) → ZMap 32
  | [] => m
  | (l, x) :: ls => putLanes (setZ m (64 * r + l) (w32 x)) r ls

/-- Write lanes of a vector register with a fixed latency (R21, R151); a scoreboarded result pending there is superseded
(R155). -/
def Group.writeV (g : Group) (now r : Nat) (ls : List (Nat × Nat)) (ready : Nat)
    (soft : Bool := false) : Group :=
  let h := g.supersede now r (maskOf (ls.map Prod.fst))
  let olds := (List.range 64).map fun l => (getZ h.vregs (64 * r + l)).setWidth 64
  { h.notePend now .v r (maskOf (ls.map Prod.fst)) olds ready soft with vregs := putLanes g.vregs r ls }

/-- Write a scalar register with a fixed latency. -/
def Group.writeS (g : Group) (now r : Nat) (x : W64) (ready : Nat) : Group :=
  { g.notePend now .s r (BitVec.allOnes 64) [getZ g.sregs r] ready with sregs := setZ g.sregs r x }

/-- Write lanes of a predicate register; p0 ignores writes (R19, R21). -/
def Group.writeP (g : Group) (now r : Nat) (lanes x : W64) (ready : Nat) : Group :=
  if r = 0 then g
  else
    let old := getZ g.pregs r
    { g.notePend now .p r lanes [old] ready with pregs := setZ g.pregs r ((old &&& ~~~lanes) ||| (x &&& lanes)) }

/-- Write the expected mask of a rejoin register. -/
def Group.writeJ (g : Group) (now r : Nat) (x : W64) (ready : Nat) : Group :=
  { g.notePend now .j r (BitVec.allOnes 64) [getZ g.jexp r] ready with jexp := setZ g.jexp r x }

/-- Mark a destination of an operation in flight (R155). -/
def Group.mark (g : Group) (owner : Nat) (f : RFile) (r : Nat) (lanes : W64) (till : Option Nat := none) : Group :=
  { g with score := unscore f r lanes g.score ++ [{ owner, file := f, reg := r, lanes, till }] }

/-- Mark lanes of a vector register as the destination of an operation in flight: it stands over every earlier write (R155). -/
def Group.markV (g : Group) (now owner r : Nat) (lanes : W64) : Group := (g.supersede now r lanes).mark owner .v r lanes

/-- The lanes of a destination that an operation still owns (R155). -/
def Group.owned (g : Group) (owner : Nat) (f : RFile) (r : Nat) : W64 :=
  (g.score.filter fun e => e.owner = owner && e.file = f && e.reg = r).foldl (fun m e => m ||| e.lanes) 0

/-- The result of an operation in flight arrives in lanes of a vector register (R155, R447). -/
def Group.landV (g : Group) (owner r : Nat) (ls : List (Nat × Nat)) : Group :=
  let own := g.owned owner .v r
  let here := ls.filter fun x => own.getLsbD x.1
  { g with
    vregs := putLanes g.vregs r here
    pend := unpend .v r (maskOf (here.map Prod.fst)) g.pend
    badRegs := healed .v r (maskOf (here.map Prod.fst)) g.badRegs
    score := (g.score.map fun e =>
      if e.owner = owner && e.file = .v && e.reg = r then { e with lanes := e.lanes &&& ~~~maskOf (ls.map Prod.fst) }
      else e).filter fun e => e.lanes ≠ 0 }

/-- The result of an operation in flight arrives in a scalar register (R155). -/
def Group.landS (g : Group) (owner r : Nat) (x : W64) : Group :=
  let own := g.owned owner .s r
  { g with
    sregs := if own = 0 then g.sregs else setZ g.sregs r x
    pend := if own = 0 then g.pend else unpend .s r (BitVec.allOnes 64) g.pend
    badRegs := if own = 0 then g.badRegs else healed .s r (BitVec.allOnes 64) g.badRegs
    score := g.score.filter fun e => !(e.owner = owner && e.file = .s && e.reg = r) }

/-- An operation in flight gives up its destinations in some lanes. -/
def Group.dropScore (g : Group) (owner : Nat) (lanes : W64) : Group :=
  { g with
    score := (g.score.map fun e => if e.owner = owner then { e with lanes := e.lanes &&& ~~~lanes } else e).filter
      fun e => e.lanes ≠ 0 }

/-- OR flags into FPSTAT (R131). -/
def Group.orFlags (g : Group) (f : Nat) : Group := { g with fpstat := g.fpstat ||| w64 (f % 32) }

/-! ## Lanes and bundles (R22, R23, R31) -/

/-- A lane of a group. -/
def Group.lane (g : Group) (l : Nat) : Lane := g.lanes.getD l {}
/-- Change one lane. -/
def Group.updLane (g : Group) (l : Nat) (f : Lane → Lane) : Group := { g with lanes := setAt g.lanes l (f (g.lane l)) }
/-- Change the lanes of a mask. -/
def Group.updLanes (g : Group) (m : W64) (f : Nat → Lane → Lane) : Group :=
  { g with lanes := (g.lanes.zipIdx).map fun (x, l) => if m.getLsbD l then f l x else x }

/-- Take lanes out of every bundle. -/
def Group.unbundle (g : Group) (m : W64) : Group :=
  { g with bundles := (g.bundles.map fun b => { b with mask := b.mask &&& ~~~m }).filter fun b => b.mask ≠ 0 }

/-- Park lanes with a cause, to resume at an address (R31). -/
def Group.park (g : Group) (m : W64) (why : Nat → Park) (pc : Nat → W64) : Group :=
  (g.updLanes m fun l x => { x with park := some (why l), pc := pc l }).unbundle m

/-- The lanes parked with a cause. -/
def Group.parkedOn (g : Group) (p : Park → Bool) : W64 :=
  maskOf ((List.range 64).filter fun l => match (g.lane l).park with | some c => p c | none => false)

/-- Unpark lanes: they join bundles at the next regroup (R23). -/
def Group.unpark (g : Group) (m : W64) : Group := g.updLanes m fun _ x => { x with park := none }

/-- Lanes grouped by program counter and trap-mode flag, in ascending order of their lowest lane (R22). -/
def classes (g : Group) : List Nat → List ((W64 × Bool) × W64)
  | [] => []
  | l :: ls =>
    let key := ((g.lane l).pc, (g.lane l).trap)
    let rest := classes g ls
    match rest.find? (fun c => c.1 = key) with
    | some _ => rest.map fun c => if c.1 = key then (c.1, c.2 ||| laneBit l) else c
    | none => (key, laneBit l) :: rest

/-! ## Rejoin, barriers and exit (R26 to R28, R32, R37) -/

/-- The release test of R27 on one rejoin mask, with the expected mask that its reader sees. -/
def Group.rejoinWith (g : Group) (expected : W64) (j : Nat) : Group :=
  let exp := expected &&& ~~~g.exited
  let parked := g.parkedOn fun c => c = .rejoin j
  if exp &&& ~~~getZ g.jarr j = 0 && (parked ≠ 0 || getZ g.jarr j ≠ 0) then
    { g.unpark parked with jarr := setZ g.jarr j 0 }
  else g

/-- The release test of R27 on one rejoin mask. -/
def Group.rejoinTest (g : Group) (j : Nat) : Group := g.rejoinWith (getZ g.jexp j) j

/-- The release test on all sixteen masks (R28); it looks at the newest expected masks: DESIGN CHOICE, assumption 15. -/
def Group.rejoinAll (g : Group) : Group := (List.range 16).foldl Group.rejoinTest g

/-- The number of non-exited threads of a block (R32). -/
def liveThreads (s : State) (b : Block) : Nat :=
  b.live.foldl (fun n k => match s.group k with | some g => n + (64 - popc g.exited) | none => n) 0

/-- The mode code of a cached stash entry's page (R112). -/
def Xlat.mode (x : Xlat) : Nat := fld x.pte 6 5

/-- A clean SC entry becomes INVALID (R76, R106), and so does one over bytes of a peer, whose page has no mode here: DESIGN CHOICE,
assumption 27. -/
def StashEntry.acquire (e : StashEntry) : StashEntry :=
  match e.tr with
  | some x => if e.st = .clean && x.mode = 1 then { e with st := .invalid } else e
  | none => if e.st = .clean then { e with st := .invalid } else e

/-- The work of an acquire of a scope on a core (R76, R97): from clu, clean SC lines of L1 and of every stash go. -/
def acquireAt (core : Nat) (scope : Scope) (s : State) : State :=
  if scope < 2 then s
  else
    let s := s.updCore core fun c => { c with l1 := c.l1.filter fun l => !(l.mode = 1 && !l.dirty.contains true) }
    let share (sh : Share) : Share :=
      if sh.core ≠ core then sh
      else { sh with windows := sh.windows.map fun (w, win) => (w, { win with entries := win.entries.map StashEntry.acquire }) }
    { s with blocks := s.blocks.map fun (b, blk) => (b, { blk with shares := blk.shares.map share }) }

/-- Re-evaluate a barrier of a block: release when its arrivals equal the non-exited threads (R32); the release is an
acquire of scope clu (R103). -/
def barrierTest (blk j : Nat) (s : State) : State :=
  match getN s.blocks blk with
  | none => s
  | some b =>
    if (getN b.bars j).getD 0 ≠ 0 && (getN b.bars j).getD 0 = liveThreads s b then
      let s := b.live.foldl (fun s k => acquireAt (k / 128) 2
        (s.updGroup k fun g => g.unpark (g.parkedOn fun c => c = .barrier j))) s
      s.updBlock blk fun b => { b with bars := delN b.bars j }
    else s

/-- Re-evaluate every barrier of a block. -/
def barrierAll (blk : Nat) (s : State) : State := (List.range 16).foldl (fun s j => barrierTest blk j s) s

/-- Lanes leave the lines at a block's rings. -/
def Block.leaveLines (b : Block) (key : Nat) (m : W64) : Block :=
  let leave (w : RingWait) : RingWait := if w.key = key then { w with lanes := w.lanes &&& ~~~m } else w
  { b with popQ := b.popQ.map fun x => (x.1, (x.2.map leave).filter fun w => w.lanes ≠ 0) }

/-- Lanes exit (R28, R37): stacks are discarded, rejoin masks and barriers are re-evaluated; they leave the lines at rings. -/
def exitLanes (k : Nat) (m : W64) (s : State) : State :=
  match s.group k with
  | none => s
  | some g =>
    let g := (g.updLanes m fun _ x => { x with stack := [], spilled := 0, park := none }).unbundle m
    let g := { g with exited := g.exited ||| m }.rejoinAll
    barrierAll g.block ((s.setGroup k g).updBlock g.block fun b => b.leaveLines k m)

/-- The slot that names a group in its accesses: the slot of a resident group, or the number under which what a retired group
has left in flight goes on. -/
def slotOf (k : Nat) : Nat := k % 128 + 16384 * (k / 16384)
/-- The core of a group. -/
def coreOf (k : Nat) : Nat := k / 128 % 128

/-- A store of a group with a wide release is in a station (R97, R335). -/
def Packet.storeOf (k : Nat) (p : Packet) : Bool :=
  match p.cargo with | .store core e => core = coreOf k && e.slot = slotOf k | _ => false

/-- Some such store of a group has not been answered. -/
def storesOut (s : State) (k : Nat) : Bool := s.stations.any fun (_, x) => x.pkts.any (Packet.storeOf k)

/-- Something of a group is still in flight: stores, accesses, engine operations. -/
def inFlight (s : State) (k : Nat) (g : Group) : Bool :=
  storesOut s k ||
  !g.storeQ.isEmpty || (s.accs.any fun a => gkey a.2.core a.2.slot = k) || (s.ops.any fun o => gkey o.2.core o.2.slot = k) ||
    (s.core (coreOf k)).commitQ.any fun e => e.slot = slotOf k

/-- What a group that retires has left in flight goes on under a number that is no slot; it holds no register, tile or
slot. -/
def leaveBehind (k : Nat) (g : Group) (s : State) : State :=
  let (id, s) := s.fresh
  let k' := k % 16384 + 16384 * (id + 1)
  let mine (core slot : Nat) : Bool := gkey core slot = k
  let store (e : Store) : Store := { e with slot := slotOf k' }
  let s := s.updCore (coreOf k) fun c => { c with commitQ := c.commitQ.map fun e => if e.slot = slotOf k then store e else e }
  let pkt (p : Packet) : Packet := if p.storeOf k then
    { p with cargo := match p.cargo with | .store core e => .store core (store e) | x => x } else p
  let s : State := { s with stations := s.stations.map fun (d, x) => (d, { x with pkts := x.pkts.map pkt }) }
  { s with
    groups := putN (delN s.groups k) k' { g with storeQ := g.storeQ.map store, bundles := [], tiles := [], binds := [] }
    accs := s.accs.map fun (i, a) => (i, if mine a.core a.slot then { a with slot := slotOf k' } else a)
    ops := s.ops.map fun (i, o) => (i, if mine o.core o.slot then { o with slot := slotOf k' } else o) }

/-- A group whose exited mask is all ones retires (R37): its registers, tile names and slot are free at once. Stores, accesses
and operations that it has issued go on; a `stampw` that still watches has nobody to tell and ends (R255). -/
def retireGroup (k : Nat) (s : State) : State :=
  match s.group k with
  | none => s
  | some g =>
    if g.exited ≠ BitVec.allOnes 64 then s
    else if 16384 ≤ k then (if inFlight s k g then s else { s with groups := delN s.groups k })
    else
      let watch (a : Access) : Bool := gkey a.core a.slot = k && (match a.kind with | .stampw _ _ _ => true | _ => false)
      let s := { s with accs := s.accs.filter fun a => !watch a.2 }.updBlock g.block fun b => { b with live := b.live.filter (· ≠ k) }
      if inFlight s k g then leaveBehind k g s else { s with groups := delN s.groups k }

/-- What retired groups have left behind and is over goes. -/
def sweep (s : State) : State :=
  { s with groups := s.groups.filter fun (k, g) => decide (k < 16384) || inFlight s k g }

/-! ## Traps (R378 to R382) -/

/-- Lanes of one bundle are in trap mode (R22). -/
def Group.trappedIn (g : Group) (m : W64) : Bool := match lowest m with | some l => (g.lane l).trap | none => false

/-- Cause codes (R384). -/
def cILLEGAL : Nat := 0x01
def cPRIV : Nat := 0x02
def cSTALL : Nat := 0x03
def cBOUNDS : Nat := 0x04
def cPERM : Nat := 0x05
def cALIGN : Nat := 0x06
def cTRANSLATE : Nat := 0x07
def cMODE : Nat := 0x08
def cSCRATCH : Nat := 0x09
def cSTREAM : Nat := 0x0a
def cSPILLFULL : Nat := 0x0b
def cBADKEY : Nat := 0x0c
def cECC : Nat := 0x0d
def cSWTRAP : Nat := 0x0e
def cCUSTODY : Nat := 0x30
def cPEERLOST : Nat := 0x35

/-- An uncorrectable error that an access meets is counted (R390). -/
def countError (cause : Nat) (s : State) : State :=
  if cause = cECC then { s with regs := { s.regs with ueCnt := s.regs.ueCnt + 1 } } else s

/-- An uncorrectable error at a physical address is counted; one of a host completion is logged by AER instead (R390, R415). -/
def errorAt (pa : Nat) (s : State) : State :=
  if 2 ^ 64 ≤ pa then { s with regs := { s.regs with aer := s.regs.aer ++ [pa - 2 ^ 64] } } else countError cECC s

/-- One lane's fault: cause, SUB and POS for TRAPINFO1, TRAPINFO0 (R380). -/
structure LaneFault where
  lane : Nat
  cause : Nat
  sub : Nat := 0
  pos : Nat := 0
  info : W64 := 0
  deriving DecidableEq, Repr

/-- How a trap is taken: word 0 and address of the instruction, deferred or not, whether it wrote, and the first clock at
which the handler's bundle may issue (R378 to R380). -/
structure TrapCtx where
  word0 : W32 := 0
  pc : W64 := 0
  defer : Bool := false
  write : Bool := false
  readyAt : Nat := 0
  deriving DecidableEq, Repr

/-- TRAPINFO1 (R380). -/
def trapInfo1 (c : TrapCtx) (f : LaneFault) : W64 :=
  if c.defer then w64 (2 ^ 63 + c.pc.toNat % 2 ^ 63)
  else w64 (f.sub * 2 ^ 40 + f.pos * 2 ^ 32 + c.word0.toNat)

/-- The record of one cause of a faulting instruction (R386, R387). -/
def faultRecord (k : Nat) (g : Group) (c : TrapCtx) (nested : Bool) (fs : List LaneFault) : FaultRec :=
  let lo := fs.foldl (fun m f => if f.lane < m.lane then f else m) (fs.headD { lane := 0, cause := 0 })
  { cause := lo.cause, trapped := !nested, write := c.write, nested, defer := c.defer, src := 0,
    unit := (k % 128) * 128 + coreOf k, laneMask := maskOf (fs.map LaneFault.lane), pc := c.pc, addr := lo.info,
    info1 := trapInfo1 c lo, tenant := g.tenant }

/-- The values a lane takes on entry (R378 to R380). -/
def enterLane (g : Group) (c : TrapCtx) (f : LaneFault) (x : Lane) : Lane :=
  { x with trapPc := (if c.defer then x.pc else c.pc), trapCause := w64 f.cause, trapInfo0 := f.info,
           trapInfo1 := trapInfo1 c f, trap := true, pc := g.trapEntry, park := none }

/-- Faults of the distinct causes, each with its lanes. -/
def byCause : List LaneFault → List (List LaneFault)
  | [] => []
  | f :: fs =>
    let rest := byCause fs
    match rest.find? (fun c => c.any fun x => x.cause = f.cause) with
    | some _ => rest.map fun c => if c.any (fun x => x.cause = f.cause) then f :: c else c
    | none => [f] :: rest

/-- The first fault of each lane: a lane that fails at several positions has one fault, at the lowest (R407). -/
def firstFaults : List LaneFault → List LaneFault
  | [] => []
  | f :: fs => f :: (firstFaults fs).filter fun x => x.lane ≠ f.lane

/-- Lanes enter trap mode and form a bundle of their own at TRAPENTRY (R378). -/
def Group.enterTrap (g : Group) (c : TrapCtx) (fs : List LaneFault) : Group :=
  let m := maskOf (fs.map LaneFault.lane)
  let g := (fs.foldl (fun g f => g.updLane f.lane (enterLane g c f)) g).unbundle m
  if m = 0 then g else { g with bundles := g.bundles ++ [{ mask := m, readyAt := c.readyAt }] }

/-- TAKING A TRAP (R378 to R381): lanes outside trap mode enter it, lanes already in it exit with NESTED = 1; one record
is posted for each cause, but for SWTRAP (R387). -/
def takeTrap (k : Nat) (c : TrapCtx) (fs : List LaneFault) (s : State) : State :=
  match s.group k with
  | none => s
  | some g =>
    let fs := firstFaults fs
    let live := fs.filter fun f => !g.exited.getLsbD f.lane
    let gone := fs.filter fun f => g.exited.getLsbD f.lane
    let inTrap := live.filter fun f => (g.lane f.lane).trap
    let fresh := live.filter fun f => !(g.lane f.lane).trap
    let s := s.setGroup k (g.enterTrap c fresh)
    let s := (byCause fresh).foldl (fun s fs =>
      if fs.any (fun f => f.cause = cSWTRAP) then s else postRec (faultRecord k g c false fs) s) s
    let s := (byCause gone).foldl (fun s fs => postRec { faultRecord k g c false fs with trapped := false } s) s
    if inTrap.isEmpty then s
    else
      let s := (byCause inTrap).foldl (fun s fs => postRec (faultRecord k g c true fs) s) s
      retireGroup k (exitLanes k (maskOf (inTrap.map LaneFault.lane)) s)

/-- RETURN FROM A TRAP (R382, R200): lanes leave trap mode and take their TRAPPC; they join bundles at the next
regroup. -/
def returnTrap (k : Nat) (m : W64) (s : State) : State :=
  s.updGroup k fun g => (g.updLanes m fun _ x => { x with trap := false, pc := x.trapPc }).unbundle m

end Sys2Proof.Machine
end

