-- ==== Sys2Proof/Machine/Operands.lean ====
section
/-!
DEFINITION. Operands: register blocks, B modes, readiness of the registers an instruction reads, stream ports, and the
checks of step 10 (spec 08 R147 to R150, R156; 24 R419 to R424; 04 R81, R82).
-/

namespace Sys2Proof.Machine

/-- Which operand field. -/
inductive Field where
  | d | a | b | c
  deriving DecidableEq, Repr

/-- The register number in a field. -/
def Opnd.num (o : Opnd) : Field → Nat
  | .d => o.d | .a => o.a | .b => o.b | .c => o.c

/-- The file that a field of this instruction names, with B by BM (R147, R148). -/
def Opnd.file (o : Opnd) (f : Field) : File :=
  let p := opSpec o.opc
  match f with
  | .d =>
    match o.opc with
    | 0x31 => if o.opt = 2 then .j else .s 1
    | 0x33 => if o.opt = 1 then .s 1 else .p
    | 0xc7 => if o.opt = 0 then .s 1 else .none
    | _ => p.d
  | .a =>
    match o.opc with
    | 0x22 => if o.opt = 1 then .v else .s 1
    | 0x24 => if o.opt = 1 then .v else .s 1
    | 0x31 => if o.opt = 2 then .s 1 else .j
    | 0x33 => if o.opt = 1 then .p else .s 1
    | 0xc7 => if o.opt = 1 then .s 1 else .none
    | 0x01 => .none
    | 0x51 => .none
    | 0x2b => if o.sl then .none else .s 1
    | 0x88 => if o.opt = 0 then .s 3 else .none
    | 0x8e => if o.opt = 1 then .none else .s 1
    | 0x8f => if o.opt = 1 then .s 1 else .none
    | 0xe2 => if o.opt = 2 then .none else .s 1
    | _ => if o.single && (o.opc = 0x53) then .none else p.a
  | .b =>
    match p.b with
    | .s n =>
      match o.bm with
      | .reg => if classOf o.opc = .scalar || classOf o.opc = .control || o.opc = 0xe3 then .s n else .none
      | .bcast => .s n
      | _ => .none
    | .v => if o.opc = 0x84 || o.opc = 0x85 then (match o.bm with | .reg => .v | .bcast => .s 1 | _ => .none)
      else match o.bm with
        | .reg => if o.single && (o.opc = 0x53 || o.opc = 0x51) then .none else .v
        | .bcast => .s 1
        | _ => .none
    | .m => if o.opc = 0x8a && o.opt ≠ 1 then .none else .m
    | x => if o.opc = 0x32 && (o.opt = 4 || o.opt = 5) then .none else x
  | .c => match p.c with | .val => .none | x => x

/-- A TYPE whose element is a register pair (R123). -/
def pairType (t : Nat) : Bool := widthOf t = 64

/-- The TYPE that sets the element size of a vector operand. -/
def Opnd.typeOf (o : Opnd) (f : Field) : Nat :=
  match o.opc, f with
  | 0x70, .a => o.typ2
  | 0x71, _ => 2
  | 0x72, _ => 2
  | 0x80, .a => 2 | 0x81, .a => 2 | 0x82, .a => 2 | 0x83, .a => 2 | 0x84, .a => 2 | 0x85, .a => 2 | 0x86, .a => 2
  | 0x89, .a => 2
  | 0x91, _ => 2 | 0x92, _ => 2
  | _, _ => o.typ

/-- The number of consecutive registers of a position, in single positions that need several (R223, R224). -/
def Opnd.span (o : Opnd) (f : Field) : Nat :=
  match o.opc, f with
  | 0x71, .a => if o.typ2 = 10 then 4 else 2
  | 0x72, .d => if o.typ = 10 then 4 else 2
  | 0x80, .d => if o.quad then 4 else if pairType o.typ then 2 else 1
  | 0x81, .d => if o.quad then 4 else if pairType o.typ then 2 else 1
  | 0x85, .a => 1
  | 0x85, _ => if o.quad then 4 else 2
  | _, _ => if pairType (o.typeOf f) then 2 else 1

/-- The first register of position `k` (R150). -/
def Opnd.regAt (o : Opnd) (f : Field) (k : Nat) : Nat :=
  o.num f + o.span f * ((k / o.cols) * o.pitch + k % o.cols)

/-- The number of positions (R150). -/
def Opnd.n (o : Opnd) : Nat := o.rows * o.cols

/-- The registers of every position of a vector operand, in order (R150). -/
def Opnd.regs (o : Opnd) (f : Field) : List (Nat × Nat) :=
  (List.range o.n).flatMap fun k => (List.range (o.span f)).map fun i => (k, o.regAt f k + i)

/-- A buffer record of a group. -/
def Group.mrec (g : Group) (m : Nat) : Nat := (getZ g.mrecs (m % 16)).toNat
/-- ESIZE of a buffer record (R71). -/
def recEsize (r : Nat) : Nat := bitsOf r 115 112

/-- Elements of 16 bytes take four registers (R233, R239). -/
def fixQuad (g : Group) (o : Opnd) : Opnd :=
  if (o.opc = 0x80 || o.opc = 0x81 || o.opc = 0x85) && o.typ = 7 && recEsize (g.mrec o.c) = 4 then { o with quad := true }
  else o

/-- The highest register of a vector operand lies in the allocation, and a pair has an even base (R149). -/
def vecOk (g : Group) (o : Opnd) (f : Field) : Bool :=
  decide (o.num f + o.span f * ((o.rows - 1) * o.pitch + o.cols - 1) + o.span f ≤ g.nv) &&
    (!pairType (o.typeOf f) || o.num f % 2 = 0)

/-- A register number lies within its file (R147, R423). -/
def regOk (g : Group) (o : Opnd) (f : Field) : Bool :=
  match o.file f with
  | .none => true
  | .v => vecOk g o f
  | .s n => decide (o.num f + n ≤ g.ns)
  | .p => decide (o.num f < 16)
  | .j => decide (o.num f < 16)
  | .m => decide (o.num f < 16)
  | .q => decide (o.num f < 32)
  | .t => decide (o.num f < g.nt)
  | .val => true

/-- Instructions that require ROWS, COLS and PITCH to be 1 (R167, R223, R276, R291, R315, R357). Elsewhere PITCHM1 is ignored
when ROWS = 1 (R423). -/
def pitchFixed (opc : Nat) : Bool :=
  match classOf opc with
  | .scalar => true | .control => true | .supervisor => true | .slice => true | .circuit => true | .kcq => true
  | .matrix => !(opSpec opc).block
  | _ => opc = 0x71

/-- A number in a field that names no register lies in its range: barriers 0 to 15 (R186, R205), windows 0 to 7 (R242, R261).
DESIGN CHOICE, assumption 6. -/
def numberOk (o : Opnd) : Bool :=
  match o.opc with | 0x28 => decide (o.a < 16) | 0x88 => decide (o.d < 8) | _ => true

/-- Step 10 of R419: register numbers, then shape. -/
def step10 (g : Group) (o : Opnd) : Option Nat :=
  if !(regOk g o .d && regOk g o .a && regOk g o .b && regOk g o .c && numberOk o) then some 0x09
  else if pitchFixed o.opc && (o.rows ≠ 1 || o.cols ≠ 1 || o.pitch ≠ 1) then some 0x0a
  else if !(opSpec o.opc).block && (o.rows ≠ 1 || o.cols ≠ 1) then some 0x0a
  else if (o.opc = 0xa2 || o.opc = 0xa3) && decide (64 < o.n) then some 0x0a
  else none

/-! ## Values -/

/-- Lane value of an operand at a position: 32 bits, or 64 for a pair (R123). -/
def laneVal (imgs : List (List Nat)) (l : Nat) : Nat :=
  imgs.foldr (fun img acc => img.getD l 0 + 2 ^ 32 * acc) 0

/-- A small immediate as an element (R148). -/
def immEl (o : Opnd) (asInt : Bool) : Nat :=
  let x := toSigned 10 o.c
  let t := o.typ
  if asInt || isInt t then ofSigned (widthOf t) x
  else if isFp t then (roundCode t 0 false (.fin (decide (x < 0)) x.natAbs 0)).1
  else if t = 12 then ofSigned 24 x
  else ofSigned 8 x

/-- The element that B gives for BM other than 00 (R148). -/
def bElem (o : Opnd) (asInt : Bool) (sval : W64) : Nat :=
  match o.bm with
  | .reg => 0
  | .bcast => sval.toNat % 2 ^ widthOf o.typ
  | .imm => immEl o asInt
  | .lit => o.lit.toNat % 2 ^ widthOf o.typ

/-- The scalar register that B reads, where it reads one. -/
def bScalar (g : Group) (now : Nat) (o : Opnd) : W64 :=
  match o.file .b with | .s _ => g.readS now o.b | _ => 0

/-- The whole 64-bit B operand of a scalar instruction (R148, R170). -/
def bWhole (o : Opnd) (sval : W64) : W64 :=
  match o.bm with
  | .reg => sval
  | .bcast => sval
  | .imm => w64 (ofSigned 64 (toSigned 10 o.c))
  | .lit => o.lit

/-! ## Registers read (step 11) -/

/-- The lanes of a register that an instruction reads: those of its bundle, every lane, or one (R156). -/
inductive Reach where
  | active | every | one (lane : Nat)
  deriving DecidableEq, Repr

/-- One register that an instruction reads. -/
structure Rd where
  file : RFile
  reg : Nat
  pos : Nat
  reach : Reach
  deriving DecidableEq, Repr

/-- The lanes of a vector operand that an instruction reads: every lane for the vector classes (R206, R225), lane b of
`sfromv` (R169), otherwise the active lanes (R156). -/
def vecReach (g : Group) (now : Nat) (o : Opnd) : Reach :=
  if o.opc = 0x1c then .one ((bWhole o (bScalar g now o)).toNat % 64)
  else match classOf o.opc with | .vint => .every | .vfp => .every | .lanes => .every | _ => .active

/-- The lanes of a predicate operand that an instruction reads: every lane in `vsel` (R206), `vcompact` (R228) and the `pmov`
that copies the register (R198). -/
def predReach (o : Opnd) : Reach :=
  if o.opc = 0x4d || o.opc = 0x79 || (o.opc = 0x33 && o.opt = 1) then .every else .active

/-- The registers that an operand field reads. -/
def readsOf (g : Group) (now : Nat) (o : Opnd) (f : Field) : List Rd :=
  match o.file f with
  | .v =>
    if o.opc = 0x71 && f = .c then []
    else (o.regs f).map fun (k, r) => { file := .v, reg := r, pos := k, reach := vecReach g now o }
  | .s n => (List.range n).map fun i => { file := .s, reg := o.num f + i, pos := 0, reach := .every }
  | .p => [{ file := .p, reg := o.num f, pos := 0, reach := predReach o }]
  | .j => [{ file := .j, reg := o.num f, pos := 0, reach := .every }]
  | _ => []

/-- D is read as a source. -/
def readsD (o : Opnd) : Bool :=
  let p := opSpec o.opc
  match o.opc with
  | 0x1d => o.opt = 7
  | 0x27 => true
  | 0x86 => true
  | _ => p.dIn

/-- A is a source: `qcw.get` and `ctrwait.test` write the registers that A names (R251, R252). -/
def readsA (o : Opnd) : Bool := !(o.opc = 0x8f || (o.opc = 0x90 && o.opt = 1))

/-- The sources of an instruction in the order A, B, C, D (R424). -/
def sources (g : Group) (now : Nat) (o : Opnd) : List Rd :=
  (if readsA o then readsOf g now o .a else []) ++ readsOf g now o .b ++ readsOf g now o .c ++ (if readsD o then readsOf g now o .d else [])

/-- The lanes of a source. -/
def Rd.lanes (r : Rd) (act : W64) : List Nat :=
  match r.file with
  | .s => [0] | .j => [0] | .t => [0]
  | _ => match r.reach with | .active => lanesOf act | .every => List.range 64 | .one l => [l]

/-- A register bound as a pop port gives images, not its elements (R82). -/
def Group.popBound (g : Group) (r : Nat) : Bool := g.binds.any fun b => b.reg = r && !b.push

/-- A source waits in the scoreboard: only the bundle's lanes wait (R447). -/
def srcScored (g : Group) (now : Nat) (lanes : W64) (r : Rd) : Bool :=
  if r.file = .v && g.popBound r.reg then false
  else match r.file with
    | .v => (lanesOf lanes).any fun l =>
        (match r.reach with | .one k => decide (k = l) | _ => true) && g.scored now .v r.reg l
    | f => g.scored now f r.reg 0

/-- A source is read early (R156, R424). -/
def srcEarly (g : Group) (now : Nat) (act : W64) (r : Rd) : Bool :=
  if r.file = .v && g.popBound r.reg then false
  else (r.lanes act).any fun l => g.early now r.file r.reg l

/-- TRAPINFO0 of an early read (R424). -/
def rdInfo (f : RFile) (r : Nat) : W64 :=
  w64 (r + match f with | .s => 2 ^ 63 | .p => 2 ^ 61 | .j => 2 ^ 60 | _ => 0)

/-- A source holds an uncorrectable error in a granule that the instruction reads (R379, R388, R390). -/
def srcBad (g : Group) (act : W64) (r : Rd) : Bool :=
  g.badRegs.any fun b => b.1 = r.file && b.2.1 = r.reg && (r.lanes act).any fun l => granule r.file l = granule r.file b.2.2

/-! ## Lane values -/

/-- Repeat an element of `w` bits over a lane value. -/
def spread (w x : Nat) : Nat :=
  if w = 8 then x * 0x01010101 else if w = 16 then x * 0x00010001 else x

/-! ## Streams (R81, R82) -/

/-- A block that a group belongs to. -/
def blockOf (s : State) (g : Group) : Option Block := getN s.blocks g.block

/-- The share of a block on a core. -/
def Block.share (b : Block) (core : Nat) : Option Share := b.shares.find? fun x => x.core = core

/-- Change a block's share of a core. -/
def Block.updShare (b : Block) (core : Nat) (f : Share → Share) : Block :=
  { b with shares := b.shares.map fun x => if x.core = core then f x else x }

/-- Fields of a queue control word (R81). -/
structure Ring where
  tail : Nat
  head : Nat
  esz : Nat
  depth : Nat
  base : Nat
  core : Nat
  deriving DecidableEq, Repr

/-- The fields of a queue control word; BASE is in bytes and `esz` in images (R81). -/
def ringOf (w : W128) : Ring :=
  let x := w.toNat
  { tail := bitsOf x 127 112, head := bitsOf x 111 96, esz := bitsOf x 66 64 + 1, depth := bitsOf x 63 48,
    base := bitsOf x 20 8 * 256, core := x % 4 }

/-- Elements in a ring (R81). -/
def Ring.count (r : Ring) : Nat := (r.tail + 2 ^ 16 - r.head) % 2 ^ 16

/-- HEAD or TAIL moved on by one (R82). -/
def advHead (w : W128) : W128 :=
  let h := (bitsOf w.toNat 111 96 + 1) % 2 ^ 16
  (w &&& ~~~(BitVec.ofNat 128 (0xffff * 2 ^ 96))) ||| BitVec.ofNat 128 (h * 2 ^ 96)
def advTail (w : W128) : W128 :=
  let t := (bitsOf w.toNat 127 112 + 1) % 2 ^ 16
  (w &&& ~~~(BitVec.ofNat 128 (0xffff * 2 ^ 112))) ||| BitVec.ofNat 128 (t * 2 ^ 112)

/-- The scratchpad offset of image `i` of element `e` (R81). -/
def Ring.at (r : Ring) (e i : Nat) : Nat := r.base + (e % r.depth) * r.esz * 256 + 256 * i

/-- Words of an image in a scratchpad. -/
def imageAt (m : ZMap 8) (off : Nat) : List Nat := (List.range 64).map fun l => readNat m (off + 4 * l) 4

/-- Elements that are written but that TAIL does not count yet (R105). -/
def Block.unrel (b : Block) (q : Nat) : List (Nat × Bool) := (getN b.unreleased q).getD []
/-- Bundles that wait to pop a ring. -/
def Block.pops (b : Block) (q : Nat) : List RingWait := (getN b.popQ q).getD []
/-- Images that wait to be pushed to a ring. -/
def Block.pushes (b : Block) (q : Nat) : List RingWait := (getN b.pushQ q).getD []

/-- The number of the element that a push to ring `q` writes. -/
def pushElem (b : Block) (q : Nat) : Nat := ((ringOf (getZ b.qcws q)).tail + (b.unrel q).length) % 2 ^ 16

/-- Where the next image popped from a ring stands: core and scratchpad offset (R81, R82). -/
def popAt (b : Block) (q : Nat) : Nat × Nat :=
  let r := ringOf (getZ b.qcws q)
  (coreOfCluster b.cluster r.core, r.at r.head ((getN b.popped q).getD 0))

/-- Where the next image pushed to a ring will stand. -/
def pushAt (b : Block) (q : Nat) : Nat × Nat :=
  let r := ringOf (getZ b.qcws q)
  (coreOfCluster b.cluster r.core, r.at (pushElem b q) ((getN b.pushed q).getD 0))

/-- An error stands in an image of a block's scratchpads (R388). -/
def imageErr (blk : Nat) (at_ : Nat × Nat) (x : Spot) : Bool :=
  match x with
  | .scratch b c g => b = blk && c = at_.1 && decide (at_.2 ≤ 8 * g) && decide (8 * g < at_.2 + 256)
  | _ => false

/-- The bundle may pop a ring: nobody waits there before it (R82). -/
def mayPop (b : Block) (q key : Nat) (lanes : W64) : Bool :=
  match b.pops q with | [] => true | w :: _ => w.key = key && w.lanes &&& lanes ≠ 0

/-- Pop one image of ring `q` for a port (R82): the image, its element, whether it is the element's first; none where the
element is not complete. -/
def popImage (b : Block) (q : Nat) : Option (List Nat × Nat × Bool × Block) :=
  let w := getZ b.qcws q
  let r := ringOf w
  if r.count = 0 then none
  else
    let i := (getN b.popped q).getD 0
    match b.share (coreOfCluster b.cluster r.core) with
    | none => none
    | some sh =>
      let img := imageAt sh.scratch (r.at r.head i)
      if i + 1 < r.esz then some (img, r.head, i = 0, { b with popped := putN b.popped q (i + 1) })
      else some (img, r.head, i = 0, { b with popped := delN b.popped q, qcws := setZ b.qcws q (advHead w) })

/-- An image can be pushed to ring `q` (R82): an element is in the making, or a place is free. -/
def canPush (b : Block) (q : Nat) : Bool :=
  let r := ringOf (getZ b.qcws q)
  (getN b.pushed q).isSome || decide (r.count + (b.unrel q).length < r.depth)

/-- Push one image to ring `q` (R82): the element, and whether this was its last image. TAIL follows when the release that
this makes has been performed (R105). -/
def pushImage (b : Block) (q : Nat) (img : List Nat) : Nat × Bool × Block :=
  let r := ringOf (getZ b.qcws q)
  let e := pushElem b q
  let i := (getN b.pushed q).getD 0
  let b := b.updShare (coreOfCluster b.cluster r.core) fun sh =>
    { sh with scratch := writeBytes sh.scratch (r.at e i) (img.flatMap fun x => toBytes 4 x) }
  if i + 1 < r.esz then (e, false, { b with pushed := putN b.pushed q (i + 1) })
  else (e, true, { b with pushed := delN b.pushed q, unreleased := putN b.unreleased q (b.unrel q ++ [(e, false)]) })

/-- TAIL advances over the elements whose release has been performed, in their order. -/
def advTails : Nat → W128 → List (Nat × Bool) → W128 × List (Nat × Bool)
  | n + 1, w, (_, true) :: es => advTails n (advTail w) es
  | _, w, es => (w, es)

/-- The release that completed an element has been performed (R105). -/
def releaseElem (q e : Nat) (b : Block) : Block :=
  let es := (b.unrel q).map fun x => if x.1 = e then (e, true) else x
  let (w, es) := advTails es.length (getZ b.qcws q) es
  { b with qcws := setZ b.qcws q w, unreleased := if es.isEmpty then delN b.unreleased q else putN b.unreleased q es }

/-- This group has moved part of the element that a port's ring is at (R253, R398). -/
def partStream (blk : Block) (b : Bind) : Bool :=
  if b.push then (getN blk.pushed b.q).isSome && b.last = some (pushElem blk b.q)
  else (getN blk.popped b.q).isSome && b.last = some (ringOf (getZ blk.qcws b.q)).head

/-- Progress through the operands of an instruction: the issuing group with its key and the bundle's lanes, its block as ports
change it, the images read so far newest first, the ring that a pop waits for, whether a pop has acquired, the elements that
pushes have completed (ring, element), the rings that pushes wait for, the errors of the scratchpads, and the first register that
has popped an image with one. -/
structure Gather where
  g : Group
  blk : Option Block
  key : Nat := 0
  lanes : W64 := 0
  imgs : List (List Nat) := []
  wait : Option Nat := none
  acq : Bool := false
  done : List (Nat × Nat) := []
  stuck : List Nat := []
  errs : List Spot := []
  bad : Option Nat := none
  deriving DecidableEq, Repr

/-- Change the port of a register. -/
def Group.updBind (g : Group) (r : Nat) (f : Bind → Bind) : Group :=
  { g with binds := g.binds.map fun x => if x.reg = r then f x else x }

/-- Read one occurrence of a vector register, through its port if it has one (R82): an image that was popped for lanes of
this bundle while they waited, else the ring's next, unless another bundle came first. -/
def gatherReg (now : Nat) (a : Gather) (r : Nat) : Gather :=
  if a.wait.isSome then a
  else match a.g.binds.find? (fun b => b.reg = r && !b.push) with
    | none => { a with imgs := a.g.readVReg now r :: a.imgs }
    | some b =>
      match b.images.find? fun x => x.1 &&& a.lanes ≠ 0 with
      | some x => { a with g := a.g.updBind r fun y => { y with images := y.images.erase x }, imgs := x.2 :: a.imgs }
      | none =>
        match a.blk.bind fun blk => if mayPop blk b.q a.key a.lanes then popImage blk b.q else none with
        | none => { a with wait := some b.q }
        | some (img, e, first, blk) =>
          let hit := match a.blk with | some old => a.errs.any (imageErr a.g.block (popAt old b.q)) | none => false
          { a with g := a.g.updBind r fun y => { y with last := some e }, imgs := img :: a.imgs, acq := a.acq || first,
                   blk := some { blk with popQ := if (blk.pops b.q).isEmpty then blk.popQ else putN blk.popQ b.q (blk.pops b.q).tail }
                   bad := if hit then a.bad.orElse fun _ => some r else a.bad }

/-- Read a vector operand: its images in the order of its registers. -/
def gather (now : Nat) (a : Gather) (regs : List Nat) : Gather := regs.foldl (gatherReg now) a

/-- A bundle parks in the middle of its operands: the images that it has popped stay with its lanes, and it waits in line at
the ring of the register that was not ready. -/
def keepImages (regs : List Nat) (a : Gather) : Gather :=
  let read := regs.zip a.imgs.reverse
  let g := { a.g with binds := a.g.binds.map fun b =>
    if b.push then b
    else { b with images := (read.filter fun x => x.1 = b.reg).map (fun x => (a.lanes, x.2)) ++ b.images } }
  { a with
    g
    blk := a.blk.map fun b => match a.wait, regs[a.imgs.length]? with
      | some q, some r => { b with popQ := putN b.popQ q (b.pops q ++ [{ key := a.key, lanes := a.lanes, reg := r }]) }
      | _, _ => b }

/-- Cut a list into pieces of `n`, at most `fuel` of them. -/
def chunks (n : Nat) : Nat → List (List Nat) → List (List (List Nat))
  | 0, _ => []
  | fuel + 1, xs => if xs.isEmpty then [] else xs.take n :: chunks n fuel (xs.drop n)

/-- Lane values of every position of an operand. -/
def laneVals (o : Opnd) (f : Field) (imgs : List (List Nat)) : List (List Nat) :=
  (chunks (o.span f) (imgs.length) imgs).map fun c => (List.range 64).map (laneVal c)

/-- Write one register of a result: lanes given, through a push port if it has one (R82, R151). An image that finds no place
waits at the ring. -/
def putReg (now r : Nat) (ls : List (Nat × Nat)) (ready : Nat) (soft : Bool) (a : Gather) : Gather :=
  match a.g.binds.find? (fun b => b.reg = r && b.push) with
  | none => { a with g := a.g.writeV now r ls ready soft }
  | some b =>
    let cur := a.g.readVReg now r
    let img := cur.zipIdx.map fun (x, l) => match ls.find? (fun y => y.1 = l) with | some y => y.2 % 2 ^ 32 | none => x
    match a.blk with
    | none => a
    | some blk =>
      if (blk.pushes b.q).isEmpty && canPush blk b.q then
        let (e, last, blk') := pushImage blk b.q img
        { a with errs := a.errs.filter fun x => !imageErr a.g.block (pushAt blk b.q) x
                 g := a.g.updBind r fun x => { x with last := some e }, blk := some blk'
                 done := if last then a.done ++ [(b.q, e)] else a.done }
      else
        let line := blk.pushes b.q ++ [{ key := a.key, lanes := a.lanes, reg := r, image := img }]
        { a with blk := some { blk with pushQ := putN blk.pushQ b.q line }, stuck := a.stuck ++ [b.q] }

end Sys2Proof.Machine
end

