-- ==== Sys2Proof/Machine/Issue.lean ====
section
/-!
DEFINITION. One issue of a bundle: predicate, the order of checks of R419, readiness, the effect, then the program
counters, stall count, splits and ages (spec 02 R22, R23, R34; 03 R57; 08 R145, R155 to R157; 24 R419 to R424).
-/

namespace Sys2Proof.Machine

/-- What an instruction's effect is given: the group's key, clock, operands, active lanes, *next* and class latency. -/
structure Iss where
  k : Nat
  now : Nat
  o : Opnd
  act : W64
  next : W64
  deriving DecidableEq, Repr

/-- The fixed latency of an opcode's results (R155); `none` is scoreboarded. -/
def latency (opc t : Nat) : Option Nat :=
  if opc = 0x05 || opc = 0x06 then some 4
  else if opc = 0x07 || opc = 0x08 || opc = 0x18 || opc = 0x1a || opc = 0x1b || opc = 0x1d then none
  else if opc = 0x1c then some 6
  else if opc < 0x38 then some 2
  else if opc = 0x61 || opc = 0x62 then none
  else if opc = 0x52 || opc = 0x53 then some 6
  else if 0x63 ≤ opc && opc ≤ 0x66 then some 6
  else if opc = 0x76 || opc = 0x77 then some 7
  else if 0x70 ≤ opc && opc < 0x7a then some 6
  else if opc < 0x70 then some (if widthOf t = 64 then 6 else 4)
  else none

/-- Active lanes: the bundle's lanes whose predicate is true (R145). -/
def activeMask (g : Group) (now : Nat) (h : Hdr) (lanes : W64) : W64 :=
  let p := g.readP now h.psel.toNat
  lanes &&& (if h.pneg then ~~~p else p)

/-- The issuing bundle. -/
def Group.bundle (g : Group) (lanes : W64) : Bundle := (g.bundles.find? fun b => b.mask = lanes).getD { mask := lanes }

/-- The issue itself (R34, R57): the bundle leaves the list, the others age, its lanes stand at *next*. -/
def Group.begin (g : Group) (now : Nat) (lanes next : W64) : Group :=
  let g := g.updLanes lanes fun _ x => { x with pc := next }
  { g with bundles := (g.bundles.filter fun b => b.mask ≠ lanes).map fun b => { b with age := b.age + 1 }
           lastIssue := now }

/-- The lanes of the issue that remain, as bundles: one for each program counter (R23, R57, R378). -/
def Group.settle (g : Group) (cur : Cursor) (b : Bundle) (stall : Nat) : Group :=
  let others := g.bundles.foldl (fun m b => m ||| b.mask) 0
  let gone := g.exited ||| others ||| cur.away ||| g.parkedOn fun _ => true
  let rest := cur.lanes &&& ~~~gone
  { g with bundles := g.bundles ++ (classes g (lanesOf rest)).map fun c =>
      { b with mask := c.2, readyAt := cur.clock + stall + 1, age := 0, hold := cur.hold,
               line := if cur.dropLine then none else b.line
               line2 := if cur.dropLine then none else b.line2 } }

/-- Address of the following instruction. -/
def nextPc (c : Cursor) : W64 := c.pc + w64 (4 * c.nwords)

/-- How the current instruction's precise faults are taken (R378, R379). -/
def preciseCtx (s : State) : TrapCtx :=
  { word0 := s.cur.word0, pc := s.cur.pc, readyAt := s.cur.clock + 1 }

/-- Precise faults of the current instruction (R378, R379). -/
def precise (k : Nat) (fs : List LaneFault) (s : State) : State :=
  if fs.isEmpty then s else takeTrap k (preciseCtx s) fs s

/-- The same fault on every lane of a mask. -/
def sameFault (m : W64) (cause sub pos : Nat) (info : W64) : List LaneFault :=
  (lanesOf m).map fun l => { lane := l, cause, sub, pos, info }

/-- ILLEGAL with a SUB on every lane of a mask (R422). -/
def illegal (i : Iss) (m : W64) (sub : Nat) (s : State) : State := precise i.k (sameFault m cILLEGAL sub 0 0) s

/-- Classes whose every fault is raised on the issuing lane only (R283, R300, R420). -/
def oneLane (opc : Nat) : Bool := classOf opc = .kcq || classOf opc = .matrix

/-- The lanes on which a fault of steps 1 to 11 is raised (R420). -/
def faultLanes (opc : Nat) (act : W64) : W64 :=
  if oneLane opc then (match lowest act with | some l => laneBit l | none => 0) else act

/-- The opcodes that a group executes (R154, R423). -/
def groupClass (opc : Nat) : Bool :=
  match classOf opc with | .slice => false | .circuit => false | _ => true

/-- Steps 3 to 10 of R419: the cause and SUB of the first check that fails. -/
def staticCheck (g : Group) (trap : Bool) (opc : Nat) (h : Hdr) (f : Form) : Option (Nat × Nat) :=
  if !groupClass opc then some (cILLEGAL, 0x02)
  else if classOf opc = .supervisor && !(trap || g.supervisor) then some (cPRIV, 0)
  else if opc = 0x21 && (h.psel ≠ 0 || h.pneg) && staticSub opc f ≠ some 0x03 then some (cILLEGAL, 0x04)
  else match staticSub opc f with
    | some n => some (cILLEGAL, n)
    | none => (step10 g (fixQuad g (opndOf opc f))).map fun n => (cILLEGAL, n)

/-- Step 11 (R424): the first early read, with its TRAPINFO0 and position, and whether it is the predicate. -/
def step11 (g : Group) (now : Nat) (act lanes : W64) (h : Hdr) (o : Opnd) : Option (W64 × Nat × Bool) :=
  if !g.mode.getLsbD 0 then none
  else match (sources g now o).find? (srcEarly g now act) with
    | some r => some (rdInfo r.file r.reg, r.pos, false)
    | none => if earlyPred g now lanes h then some (rdInfo .p h.psel.toNat, 0, true) else none
where
  /-- The predicate register is read early in a lane of the bundle (R424). -/
  earlyPred (g : Group) (now : Nat) (lanes : W64) (h : Hdr) : Bool :=
    h.psel ≠ 0 && (lanesOf lanes).any fun l => g.early now .p h.psel.toNat l

/-- The first source that pops an image in error from its ring (R82, R388). -/
def portError (s : State) (k : Nat) (g : Group) (now : Nat) (lanes : W64) (o : Opnd) : Option Rd :=
  if s.errs.isEmpty || g.binds.isEmpty then none
  else
    let rs := (sources g now o).filter fun r => r.file = .v && g.popBound r.reg
    let a := gather now { g, blk := blockOf s g, key := k, lanes, errs := s.errs } (rs.map Rd.reg)
    a.bad.bind fun r => rs.find? fun x => x.reg = r

/-- The first register in error that step 11 reads, with its TRAPINFO0 and position, and whether it is the predicate (R379,
R390): the sources, then what they pop, then PSEL. -/
def errorRead (s : State) (k : Nat) (g : Group) (now : Nat) (act lanes : W64) (h : Hdr) (o : Opnd) : Option (W64 × Nat × Bool) :=
  match ((sources g now o).find? (srcBad g act)).orElse fun _ => portError s k g now lanes o with
  | some r => some (w64 (r.reg + 2 ^ 62), r.pos, false)
  | none => if badPred g lanes h then some (w64 (h.psel.toNat + 2 ^ 62), 0, true) else none
where
  /-- A granule of the predicate register that holds a lane of the bundle is in error; p0 is no storage (R19, R388). -/
  badPred (g : Group) (lanes : W64) (h : Hdr) : Bool :=
    h.psel ≠ 0 && srcBad g lanes { file := .p, reg := h.psel.toNat, pos := 0, reach := .active }

/-- Step 11 for PSEL where no lane is active: STALL_UNDERRUN or ECC_UNCORR on every lane of the bundle (R379, R424).
DESIGN CHOICE, assumption 14. -/
def predFault (g : Group) (now : Nat) (lanes : W64) (h : Hdr) : Option Nat :=
  if g.mode.getLsbD 0 && step11.earlyPred g now lanes h then some cSTALL
  else if errorRead.badPred g lanes h then some cECC
  else none

/-- TRAPINFO0 of such a fault. -/
def predInfo (cause : Nat) (h : Hdr) : W64 := if cause = cSTALL then rdInfo .p h.psel.toNat else w64 (h.psel.toNat + 2 ^ 62)

/-- The classes that occupy the vector datapath (R151). -/
def vectorClass (opc : Nat) : Bool :=
  match classOf opc with | .vint => true | .vfp => true | .lanes => true | _ => false

/-- The clocks for which an instruction occupies the datapath (R151): *w* is that of its widest vector operand. -/
def Opnd.clocks (o : Opnd) : Nat := max (o.span .d) (max (o.span .a) 1) * o.n

/-- The vector datapath of the group's partition is occupied (R151). -/
def datapathBusy (s : State) (opc : Nat) : Bool :=
  vectorClass opc && decide (s.cur.clock < (getN (s.core s.cur.unit).vbusy (s.cur.sub % 8)).getD 0)

/-- Occupy the vector datapath for `n` clocks from the issue (R151). -/
def holdDatapath (n : Nat) (s : State) : State :=
  s.updCore s.cur.unit fun c => { c with vbusy := putN c.vbusy (s.cur.sub % 8) (s.cur.clock + n) }

/-- An instruction of the vector classes that issues occupies the datapath, whatever becomes of it (R151). -/
def occupy (opc : Nat) (o : Opnd) (s : State) : State := if vectorClass opc then holdDatapath o.clocks s else s

/-! ## Sequencers without lanes -/

/-- A slice; one that nothing has touched is as after reset. -/
def State.slice (s : State) (n : Nat) : Slice := (getN s.slices n).getD {}
/-- Change a slice. -/
def State.updSlice (s : State) (n : Nat) (f : Slice → Slice) : State := { s with slices := putN s.slices n (f (s.slice n)) }
/-- A handler context. -/
def Slice.ctx (x : Slice) (k : Nat) : FolbelCtx := x.ctxs.getD k {}
/-- Change a handler context. -/
def State.updCtx (s : State) (n k : Nat) (f : FolbelCtx → FolbelCtx) : State :=
  s.updSlice n fun x => { x with ctxs := setAt x.ctxs k (f (x.ctx k)) }
/-- A script context. -/
def State.script (s : State) (k : Nat) : ScriptCtx := s.fabric.ctxs.getD k {}
/-- Change a script context. -/
def State.updScript (s : State) (k : Nat) (f : ScriptCtx → ScriptCtx) : State :=
  { s with fabric := { s.fabric with ctxs := setAt s.fabric.ctxs k (f (s.script k)) } }
/-- Change an L2 line that is listed. -/
def State.updL2 (s : State) (pline : Nat) (f : L2Line → L2Line) : State :=
  match getN s.l2 pline with | some x => { s with l2 := putN s.l2 pline (f x) } | none => s

/-- Causes that only host records carry (R384). -/
def cBUDGET : Nat := 0x22
def cACCESS : Nat := 0x23

/-- A handler invocation ends, by `hend` or by a fault (R321, R325, R430): the context is freed; a FILL line is
installed, an MSG line is released. -/
def endHandler (n k : Nat) (s : State) : State :=
  let c := (s.slice n).ctx k
  let s := if c.kind = 1 || c.kind = 3 then s.updL2 c.pline fun x => { x with held := false } else s
  s.updCtx n k fun _ => {}

/-- A fault ends an invocation, with one record (R325, R425). -/
def handlerFault (n k cause sub : Nat) (addr : W64) (s : State) : State :=
  let c := (s.slice n).ctx k
  let s := countError cause s
  endHandler n k (postRec { cause, src := 1, unit := n, pc := s.cur.pc, addr, info1 := w64 (sub * 2 ^ 40 + s.cur.word0.toNat), tenant := c.tenant } s)

/-- A fault ends a script, with one record; its packet never completes (R356, R425). -/
def scriptFault (k cause sub : Nat) (addr : W64) (s : State) : State :=
  let c := s.script k
  let s := countError cause s
  (postRec { cause, src := 2, unit := k, pc := s.cur.pc, addr, info1 := w64 (sub * 2 ^ 40 + s.cur.word0.toNat), tenant := c.tenant } s).updScript k
    fun _ => {}

/-- A fault of the current sequencer (R425). -/
def procFault (cause sub : Nat) (addr : W64) (s : State) : State :=
  match s.cur.seq with
  | .folbel => handlerFault s.cur.unit s.cur.sub cause sub addr s
  | _ => scriptFault s.cur.sub cause sub addr s

/-- The current context is running. -/
def curBusy (s : State) : Bool :=
  match s.cur.seq with
  | .folbel => ((s.slice s.cur.unit).ctx s.cur.sub).busy
  | _ => (s.script s.cur.sub).busy

/-- Complete an issue: the group's bundles settle and the bundle's next issue is set (R23, R57). -/
def complete (k : Nat) (b : Bundle) (h : Hdr) (s : State) : State :=
  s.updGroup k fun g => g.settle s.cur b h.stall.toNat

/-- ONE ISSUE OF A GROUP. `eff` is the instruction's effect after every check of steps 2 to 11; `none` means that R58
holds the bundle, and nothing has happened. With no active lane none of steps 2 to 13 runs (R420); the vector datapath is
waited for and occupied all the same (R151), and PSEL itself is still judged (R424): DESIGN CHOICE, assumption 14. R424 traps
every active lane for an early read in any lane, though R157 lets the lanes that made none proceed: DESIGN CHOICE, assumption 14.
On a sequencer without lanes the opcode is of a class that it does not execute (R423, R425). -/
def groupIssue (opc : Nat) (h : Hdr) (f : Form) (eff : Iss → Group → State → Option State) (s : State) : State :=
  if s.cur.seq ≠ .group then (if curBusy s then procFault cILLEGAL 0x02 0 s else s)
  else
  let k := gkey s.cur.unit s.cur.sub
  match s.group k with
  | none => s
  | some g =>
    let now := s.cur.clock
    let lanes := s.cur.lanes
    let o := fixQuad g (opndOf opc f)
    let b := g.bundle lanes
    let next := nextPc s.cur
    let s1 := s.setGroup k (g.begin now lanes next)
    let act := activeMask g now h lanes
    let trap := match lowest lanes with | some l => (g.lane l).trap | none => false
    if act = 0 then
      if datapathBusy s opc then s.setHeld
      else match predFault g now lanes h with
        | some c => complete k b h (precise k (sameFault lanes c 0 0 (predInfo c h)) (countError c (occupy opc o s1)))
        | none => complete k b h (occupy opc o s1)
    else match staticCheck g trap opc h f with
      | some (c, sub) => complete k b h (precise k (sameFault (faultLanes opc act) c sub 0 0) s1)
      | none =>
        if (sources g now o).any (srcScored g now lanes) || datapathBusy s opc then s.setHeld
        else match step11 g now act lanes h o with
          | some (info, pos, p) =>
            complete k b h (precise k (sameFault (if p then lanes else faultLanes opc act) cSTALL 0 pos info) (occupy opc o s1))
          | none =>
            match errorRead s k g now act lanes h o with
            | some (info, pos, p) =>
              complete k b h (precise k (sameFault (if p then lanes else faultLanes opc act) cECC 0 pos info)
                (countError cECC (occupy opc o (s1.updBlock g.block fun b => b.leaveLines k lanes))))
            | none =>
              match eff { k, now, o, act, next } g s1 with
              | none => s.setHeld
              | some s2 => complete k b h s2

/-- The clock at which a result at position `k` is ready (R151, R229). -/
def readyClock (now lat w k : Nat) : Nat := now + lat + 1 + w * k

/-- A scalar result of fixed latency, or one that is scoreboarded and written at once (R155). -/
def scalarResult (i : Iss) (d : Nat) (x : W64) (s : State) : State :=
  s.updGroup i.k fun g =>
    g.writeS i.now d x (match latency i.o.opc i.o.typ with | some l => readyClock i.now l 1 0 | none => i.now)

/-! ## Vector instructions (R150, R206) -/

/-- The source lane values of every position, by operand; B is one lane value for BM other than 00. -/
structure Srcs where
  a : List (List Nat)
  b : List (List Nat)
  bEl : Nat
  c : List (List Nat)
  deriving DecidableEq, Repr

/-- Lane value of B at a position: the block's, or the element repeated over the lane (R148). -/
def Srcs.bLane (x : Srcs) (o : Opnd) (k l : Nat) : Nat :=
  match o.file .b with
  | .v => (x.b.getD k []).getD l 0
  | _ => spread (widthOf o.typ) x.bEl

/-- A result: for each position the lanes written with their values, and the flags raised. -/
abbrev VRes := List (List (Nat × Nat)) × Nat

/-- The registers of a vector operand that is read. -/
def readRegs (o : Opnd) (f : Field) : List Nat :=
  match o.file f with | .v => (if o.opc = 0x71 && f = .c then [] else (o.regs f).map Prod.snd) | _ => []

/-- Split the lane values of a position over its registers. -/
def splitRegs (span : Nat) (ls : List (Nat × Nat)) : List (List (Nat × Nat)) :=
  (List.range span).map fun i => ls.map fun (l, x) => (l, (x >>> (32 * i)) % 2 ^ 32)

/-- A marker of a group's own at the end of its store queue, with a release scope (R97). -/
def markGroup (k : Nat) (scope : Scope) (m : Mark) (s : State) : State :=
  let (id, s) := s.fresh
  s.updGroup k fun g => { g with
    storeQ := g.storeQ ++ [{ id, slot := k % 128, tenant := g.tenant, rel := some scope, mark := some m, fate := true }] }

/-- The lanes of a group parked on a ring. -/
def Group.onRing (g : Group) (q : Nat) (m : W64) : W64 := m &&& g.parkedOn fun c => c = .stream q

/-- A ring of a block at which an image of a waiting bundle has found no place. -/
def Block.pushingAt (b : Block) (w : RingWait) : Option Nat :=
  (b.pushQ.find? fun x => x.2.any fun y => y.key = w.key && y.lanes &&& w.lanes ≠ 0).map Prod.fst

/-- A bundle that waits with images goes on when every one of them has a place; until then it is parked on a ring where one waits
(R31, R82). -/
def Group.pushOn (g : Group) (b : Block) (w : RingWait) : Group :=
  let m := w.lanes &&& g.parkedOn fun c => match c with | .stream _ => true | _ => false
  match b.pushingAt w with
  | none => g.unpark m
  | some q => g.updLanes m fun _ x => { x with park := some (.stream q) }

/-- One image moves at a ring where somebody waits (R31, R82): to the first popper if an element is complete, else from the
first pusher if a place is free. A popper whose image is in error issues again, and meets it there (R390). -/
def ringMove (blk q : Nat) (s : State) : Option State :=
  match getN s.blocks blk with
  | none => none
  | some b =>
    let put (b : Block) (s : State) : State := { s with blocks := putN s.blocks blk b }
    match b.pops q, popImage b q with
    | w :: rest, some (img, e, first, b') =>
      if s.errs.any (imageErr blk (popAt b q)) then
        let m := match s.group w.key with | some g => g.onRing q w.lanes | none => 0
        if m = 0 then none else some (s.updGroup w.key fun g => g.unpark m)
      else
        let s := put { b' with popQ := putN b'.popQ q rest } s
        let s := if first then acquireAt (w.key / 128 % 128) 2 s else s
        some (s.updGroup w.key fun g => (g.updBind w.reg fun x =>
          { x with images := x.images ++ [(w.lanes, img)], last := some e }).unpark (g.onRing q w.lanes))
    | _, _ =>
      match b.pushes q with
      | [] => none
      | w :: rest =>
        if !canPush b q then none
        else
          let (e, last, b') := pushImage b q w.image
          let b' := { b' with pushQ := putN b'.pushQ q rest }
          let s := put b' { s with errs := s.errs.filter fun x => !imageErr blk (pushAt b q) x }
          let s := if last then markGroup w.key 2 (.pushed blk q e) s else s
          some (s.updGroup w.key fun g => (g.updBind w.reg fun x => { x with last := some e }).pushOn b' w)

/-- Images move at a ring while any can. -/
def ringMoves (blk q : Nat) : Nat → State → State
  | 0, s => s
  | n + 1, s => match ringMove blk q s with | some t => ringMoves blk q n t | none => s

/-- Serve those who wait at a block's rings (R31, R82). -/
def wakeStreams (blk : Nat) (s : State) : State :=
  (List.range 32).foldl (fun s q =>
    match getN s.blocks blk with
    | none => s
    | some b => ringMoves blk q ((b.pops q).length + (b.pushes q).length) s) s

/-- The operands of the issuing bundle. -/
def gatherFor (i : Iss) (g : Group) (s : State) : Gather :=
  { g := (s.group i.k).getD g, blk := blockOf s g, key := i.k, lanes := s.cur.lanes, errs := s.errs }

/-- Put back a gathered group and block. A pop of an element's first image acquires and a push of its last image releases
at scope clu (R105); the rings that have changed serve those who wait; a bundle with an image that found no place parks, to go
on at *next* when it has one (R31). -/
def ungather (i : Iss) (a : Gather) (s : State) : State :=
  let s := s.setGroup i.k a.g
  match a.blk with
  | none => s
  | some blk =>
    if a.g.binds.isEmpty then s
    else
      let s := { s with blocks := putN s.blocks a.g.block blk, errs := a.errs }
      let s := if a.acq then acquireAt (i.k / 128) 2 s else s
      let s := a.done.foldl (fun s x => markGroup i.k 2 (.pushed a.g.block x.1 x.2) s) s
      let s := match a.stuck with
        | [] => s
        | q :: _ =>
          { s.updGroup i.k fun g => g.park a.lanes (fun _ => .stream q) fun _ => i.next with
            cur := { s.cur with away := s.cur.away ||| a.lanes } }
      wakeStreams a.g.block s

/-- Park the bundle on the ring that it waits to pop: the instruction issues again on wake (R31, R82). Having issued, it occupies
the datapath (R151). -/
def parkStream (i : Iss) (q : Nat) (regs : List Nat) (a : Gather) (s : State) : State :=
  let a := keepImages regs a
  let g := a.g.park a.lanes (fun _ => .stream q) fun _ => s.cur.pc
  occupy i.o.opc i.o (ungather i { a with g } { s with cur := { s.cur with away := s.cur.away ||| a.lanes } })

/-- A VECTOR INSTRUCTION over a block: sources in the order A, B, C, the result, then the destination in ascending
position (R150, R151). `fn` computes from the source lane values; the destination is a block of the vector file. -/
def vectorEff (asInt : Bool) (fn : Iss → Group → Srcs → VRes) (i : Iss) (g : Group) (s : State) : Option State :=
  let o := i.o
  let regs := readRegs o .a ++ readRegs o .b ++ readRegs o .c
  let a := gather i.now (gatherFor i g s) regs
  match a.wait with
  | some q => some (parkStream i q regs a s)
  | none =>
    let dregs := (o.regs .d).map Prod.snd
    let imgs := a.imgs.reverse
    let na := (readRegs o .a).length
    let nb := (readRegs o .b).length
    let src : Srcs :=
      { a := laneVals o .a (imgs.take na), b := laneVals o .b ((imgs.drop na).take nb),
        bEl := bElem o asInt (bScalar g i.now o), c := laneVals o .c (imgs.drop (na + nb)) }
    let (res, fl) := fn i g src
    let w := max (o.span .d) (max (o.span .a) 1)
    let late := i.now + max o.clocks (if o.typ = 11 then 24 else 12) + 1
    let ready (k : Nat) : Nat := match latency o.opc o.typ with
      | some l => readyClock i.now l w k
      | none => late
    let soft := (latency o.opc o.typ).isNone
    let put (a : Gather) (k : Nat) : Gather :=
      ((splitRegs (o.span .d) (res.getD k [])).zipIdx).foldl
        (fun a (ls, j) => putReg i.now (o.regAt .d k + j) ls (ready k) soft a) a
    let a4 := (List.range o.n).foldl put a
    let g4 := if soft then dregs.foldl (fun g r => g.mark 0 .v r i.act (some late)) a4.g else a4.g
    some (holdDatapath o.clocks (ungather i { a4 with g := g4.orFlags fl } s))

/-- The elements of one lane value, low first. -/
def elemsOf (w x : Nat) : Nat → List Nat
  | 0 => []
  | n + 1 => x % 2 ^ w :: elemsOf w (x >>> w) n

/-- Elements of a lane value put together, low first. -/
def joinEls (w : Nat) : List Nat → Nat
  | [] => 0
  | x :: xs => x % 2 ^ w + 2 ^ w * joinEls w xs

/-- Elements in a lane value of a TYPE. -/
def perLane (t : Nat) : Nat := if widthOf t = 64 then 1 else 32 / widthOf t

/-- The element-wise loop of R206: `fn` gets TYPE, the rounding mode, the lane, the element's number in its position and
the elements of A, B and C. -/
def elementwise (fn : Iss → Group → Nat → Nat → Nat → Nat → Nat → Nat → ElRes) (i : Iss) (g : Group) (x : Srcs) : VRes :=
  let o := i.o
  let t := o.typ
  let w := widthOf t
  let n := perLane t
  let one (k l : Nat) : Nat × Nat :=
    let as := elemsOf w ((x.a.getD k []).getD l 0) n
    let bs := elemsOf w (x.bLane o k l) n
    let cs := elemsOf w ((x.c.getD k []).getD l 0) n
    let rs := (List.range n).map fun j => fn i g k l (l * n + j) (as.getD j 0) (bs.getD j 0) (cs.getD j 0)
    (joinEls w (rs.map Prod.fst), rs.foldl (fun f r => f ||| r.2) 0)
  let pos (k : Nat) : List (Nat × (Nat × Nat)) := (lanesOf i.act).map fun l => (l, one k l)
  let all := (List.range o.n).map pos
  (all.map fun ls => ls.map fun r => (r.1, r.2.1), all.foldl (fun f ls => ls.foldl (fun f r => f ||| r.2.2) f) 0)

/-- An element-wise integer or move instruction: no flags. -/
def vecInt (fn : Nat → Nat → Nat → Nat → Nat) (opc : Nat) (h : Hdr) (f : Form) (s : State) : State :=
  groupIssue opc h f (vectorEff false (elementwise fun i _ _ _ _ a b c => (fn i.o.typ a b c, 0))) s

/-- An element-wise floating-point instruction: TYPE and the resolved rounding mode. -/
def vecFp (asInt : Bool) (fn : Nat → Nat → Nat → Nat → Nat → ElRes) (opc : Nat) (h : Hdr) (f : Form) (s : State) : State :=
  groupIssue opc h f
    (vectorEff asInt (elementwise fun i g _ _ _ a b c => fn i.o.typ (rmOf i.o.rm g.fpctl) a b c)) s

end Sys2Proof.Machine
end

