-- ==== Sys2Proof/Machine/VecInt.lean ====
section
/-!
DEFINITION. Vector integer and move instructions, 0x38 to 0x53 (spec 10 R209 to R213).
-/

namespace Sys2Proof.Machine

/-- The outcome of an operation or event. -/
abbrev Out := Host.Outcome State Fault Refusal

/-- The element result of `vadd` (R209). -/
def elVadd : Nat → Nat → Nat → Nat → Nat := fun t a b _ => (a + b) % 2 ^ widthOf t
/-- `vadd` (R209). -/
def opVadd : Hdr → Form → State → State := vecInt elVadd 0x38

/-- VADD (R209). -/
def execVadd (h : Hdr) (d a : BitVec 7) (s : State) : Out := .next (opVadd h (.single d a) s)

/-- VADD_EXT (R209). -/
def execVaddExt (h : Hdr) (m : Multi) (s : State) : Out := .next (opVadd h (.multi m) s)

/-- The element result of `vsub` (R209). -/
def elVsub : Nat → Nat → Nat → Nat → Nat := fun t a b _ => ofSigned (widthOf t) ((a : Int) - b)
/-- `vsub` (R209). -/
def opVsub : Hdr → Form → State → State := vecInt elVsub 0x39

/-- VSUB (R209). -/
def execVsub (h : Hdr) (d a : BitVec 7) (s : State) : Out := .next (opVsub h (.single d a) s)

/-- VSUB_EXT (R209). -/
def execVsubExt (h : Hdr) (m : Multi) (s : State) : Out := .next (opVsub h (.multi m) s)

/-- The element result of `vmul` (R209). -/
def elVmul : Nat → Nat → Nat → Nat → Nat := fun t a b _ => a * b % 2 ^ widthOf t
/-- `vmul` (R209). -/
def opVmul : Hdr → Form → State → State := vecInt elVmul 0x3a

/-- VMUL (R209). -/
def execVmul (h : Hdr) (d a : BitVec 7) (s : State) : Out := .next (opVmul h (.single d a) s)

/-- VMUL_EXT (R209). -/
def execVmulExt (h : Hdr) (m : Multi) (s : State) : Out := .next (opVmul h (.multi m) s)

/-- The element result of `vmulh` (R209). -/
def elVmulh : Nat → Nat → Nat → Nat → Nat := fun t a b _ => ofSigned (widthOf t) (intOf t a * intOf t b / ((2 ^ widthOf t : Nat) : Int))
/-- `vmulh` (R209). -/
def opVmulh : Hdr → Form → State → State := vecInt elVmulh 0x3b

/-- VMULH (R209). -/
def execVmulh (h : Hdr) (d a : BitVec 7) (s : State) : Out := .next (opVmulh h (.single d a) s)

/-- VMULH_EXT (R209). -/
def execVmulhExt (h : Hdr) (m : Multi) (s : State) : Out := .next (opVmulh h (.multi m) s)

/-- The element result of `vmad` (R209). -/
def elVmad : Nat → Nat → Nat → Nat → Nat := fun t a b c => (a * b + c) % 2 ^ widthOf t
/-- `vmad` (R209). -/
def opVmad : Hdr → Form → State → State := vecInt elVmad 0x3c

/-- VMAD (R209). -/
def execVmad (h : Hdr) (m : Multi) (s : State) : Out := .next (opVmad h (.multi m) s)

/-- The element result of `vabs` (R209). -/
def elVabs : Nat → Nat → Nat → Nat → Nat := fun t a _ _ => if isI t then ofSigned (widthOf t) (intOf t a).natAbs else a
/-- `vabs` (R209). -/
def opVabs : Hdr → Form → State → State := vecInt elVabs 0x3d

/-- VABS (R209). -/
def execVabs (h : Hdr) (d a : BitVec 7) (s : State) : Out := .next (opVabs h (.single d a) s)

/-- VABS_EXT (R209). -/
def execVabsExt (h : Hdr) (m : Multi) (s : State) : Out := .next (opVabs h (.multi m) s)

/-- The element result of `vneg` (R209). -/
def elVneg : Nat → Nat → Nat → Nat → Nat := fun t a _ _ => ofSigned (widthOf t) (-(a : Int))
/-- `vneg` (R209). -/
def opVneg : Hdr → Form → State → State := vecInt elVneg 0x3e

/-- VNEG (R209). -/
def execVneg (h : Hdr) (d a : BitVec 7) (s : State) : Out := .next (opVneg h (.single d a) s)

/-- VNEG_EXT (R209). -/
def execVnegExt (h : Hdr) (m : Multi) (s : State) : Out := .next (opVneg h (.multi m) s)

/-- The element result of `vmin` (R209). -/
def elVmin : Nat → Nat → Nat → Nat → Nat := fun t a b _ => if intOf t b < intOf t a then b else a
/-- `vmin` (R209). -/
def opVmin : Hdr → Form → State → State := vecInt elVmin 0x3f

/-- VMIN (R209). -/
def execVmin (h : Hdr) (d a : BitVec 7) (s : State) : Out := .next (opVmin h (.single d a) s)

/-- VMIN_EXT (R209). -/
def execVminExt (h : Hdr) (m : Multi) (s : State) : Out := .next (opVmin h (.multi m) s)

/-- The element result of `vmax` (R209). -/
def elVmax : Nat → Nat → Nat → Nat → Nat := fun t a b _ => if intOf t a < intOf t b then b else a
/-- `vmax` (R209). -/
def opVmax : Hdr → Form → State → State := vecInt elVmax 0x40

/-- VMAX (R209). -/
def execVmax (h : Hdr) (d a : BitVec 7) (s : State) : Out := .next (opVmax h (.single d a) s)

/-- VMAX_EXT (R209). -/
def execVmaxExt (h : Hdr) (m : Multi) (s : State) : Out := .next (opVmax h (.multi m) s)

/-- The element result of `vand` (R209). -/
def elVand : Nat → Nat → Nat → Nat → Nat := fun _ a b _ => a &&& b
/-- `vand` (R209). -/
def opVand : Hdr → Form → State → State := vecInt elVand 0x41

/-- VAND (R209). -/
def execVand (h : Hdr) (d a : BitVec 7) (s : State) : Out := .next (opVand h (.single d a) s)

/-- VAND_EXT (R209). -/
def execVandExt (h : Hdr) (m : Multi) (s : State) : Out := .next (opVand h (.multi m) s)

/-- The element result of `vor` (R209). -/
def elVor : Nat → Nat → Nat → Nat → Nat := fun _ a b _ => a ||| b
/-- `vor` (R209). -/
def opVor : Hdr → Form → State → State := vecInt elVor 0x42

/-- VOR (R209). -/
def execVor (h : Hdr) (d a : BitVec 7) (s : State) : Out := .next (opVor h (.single d a) s)

/-- VOR_EXT (R209). -/
def execVorExt (h : Hdr) (m : Multi) (s : State) : Out := .next (opVor h (.multi m) s)

/-- The element result of `vxor` (R209). -/
def elVxor : Nat → Nat → Nat → Nat → Nat := fun _ a b _ => a ^^^ b
/-- `vxor` (R209). -/
def opVxor : Hdr → Form → State → State := vecInt elVxor 0x43

/-- VXOR (R209). -/
def execVxor (h : Hdr) (d a : BitVec 7) (s : State) : Out := .next (opVxor h (.single d a) s)

/-- VXOR_EXT (R209). -/
def execVxorExt (h : Hdr) (m : Multi) (s : State) : Out := .next (opVxor h (.multi m) s)

/-- The element result of `vandn` (R209). -/
def elVandn : Nat → Nat → Nat → Nat → Nat := fun t a b _ => a &&& (b ^^^ (2 ^ widthOf t - 1))
/-- `vandn` (R209). -/
def opVandn : Hdr → Form → State → State := vecInt elVandn 0x44

/-- VANDN (R209). -/
def execVandn (h : Hdr) (d a : BitVec 7) (s : State) : Out := .next (opVandn h (.single d a) s)

/-- VANDN_EXT (R209). -/
def execVandnExt (h : Hdr) (m : Multi) (s : State) : Out := .next (opVandn h (.multi m) s)

/-- The element result of `vshl` (R210). -/
def elVshl : Nat → Nat → Nat → Nat → Nat := fun t a b _ => shlW (widthOf t) a b
/-- `vshl` (R210). -/
def opVshl : Hdr → Form → State → State := vecInt elVshl 0x45

/-- VSHL (R210). -/
def execVshl (h : Hdr) (d a : BitVec 7) (s : State) : Out := .next (opVshl h (.single d a) s)

/-- VSHL_EXT (R210). -/
def execVshlExt (h : Hdr) (m : Multi) (s : State) : Out := .next (opVshl h (.multi m) s)

/-- The element result of `vshr` (R210). -/
def elVshr : Nat → Nat → Nat → Nat → Nat := fun t a b _ => shrW (widthOf t) a b
/-- `vshr` (R210). -/
def opVshr : Hdr → Form → State → State := vecInt elVshr 0x46

/-- VSHR (R210). -/
def execVshr (h : Hdr) (d a : BitVec 7) (s : State) : Out := .next (opVshr h (.single d a) s)

/-- VSHR_EXT (R210). -/
def execVshrExt (h : Hdr) (m : Multi) (s : State) : Out := .next (opVshr h (.multi m) s)

/-- The element result of `vsra` (R210). -/
def elVsra : Nat → Nat → Nat → Nat → Nat := fun t a b _ => sraW (widthOf t) a b
/-- `vsra` (R210). -/
def opVsra : Hdr → Form → State → State := vecInt elVsra 0x47

/-- VSRA (R210). -/
def execVsra (h : Hdr) (d a : BitVec 7) (s : State) : Out := .next (opVsra h (.single d a) s)

/-- VSRA_EXT (R210). -/
def execVsraExt (h : Hdr) (m : Multi) (s : State) : Out := .next (opVsra h (.multi m) s)

/-- The element result of `vclz` (R209). -/
def elVclz : Nat → Nat → Nat → Nat → Nat := fun t a _ _ => clzN (widthOf t) a
/-- `vclz` (R209). -/
def opVclz : Hdr → Form → State → State := vecInt elVclz 0x48

/-- VCLZ (R209). -/
def execVclz (h : Hdr) (d a : BitVec 7) (s : State) : Out := .next (opVclz h (.single d a) s)

/-- VCLZ_EXT (R209). -/
def execVclzExt (h : Hdr) (m : Multi) (s : State) : Out := .next (opVclz h (.multi m) s)

/-- The element result of `vpopc` (R209). -/
def elVpopc : Nat → Nat → Nat → Nat → Nat := fun t a _ _ => popcN (widthOf t) a
/-- `vpopc` (R209). -/
def opVpopc : Hdr → Form → State → State := vecInt elVpopc 0x49

/-- VPOPC (R209). -/
def execVpopc (h : Hdr) (d a : BitVec 7) (s : State) : Out := .next (opVpopc h (.single d a) s)

/-- VPOPC_EXT (R209). -/
def execVpopcExt (h : Hdr) (m : Multi) (s : State) : Out := .next (opVpopc h (.multi m) s)

/-- The element result of `vbfx` (R211). -/
def elVbfx : Nat → Nat → Nat → Nat → Nat := fun t a b _ => ofSigned (widthOf t) (bfx t a b)
/-- `vbfx` (R211). -/
def opVbfx : Hdr → Form → State → State := vecInt elVbfx 0x4a

/-- VBFX (R211). -/
def execVbfx (h : Hdr) (d a : BitVec 7) (s : State) : Out := .next (opVbfx h (.single d a) s)

/-- VBFX_EXT (R211). -/
def execVbfxExt (h : Hdr) (m : Multi) (s : State) : Out := .next (opVbfx h (.multi m) s)

/-- The element result of `vbfi` (R211). -/
def elVbfi : Nat → Nat → Nat → Nat → Nat := fun t a b c => bfi t a b c % 2 ^ widthOf t
/-- `vbfi` (R211). -/
def opVbfi : Hdr → Form → State → State := vecInt elVbfi 0x4b

/-- VBFI (R211). -/
def execVbfi (h : Hdr) (m : Multi) (s : State) : Out := .next (opVbfi h (.multi m) s)

/-- The element result of `vaddsat` (R209). -/
def elVaddsat : Nat → Nat → Nat → Nat → Nat := fun t a b _ => ofSigned (widthOf t) (clampInt t (intOf t a + intOf t b))
/-- `vaddsat` (R209). -/
def opVaddsat : Hdr → Form → State → State := vecInt elVaddsat 0x4e

/-- VADDSAT (R209). -/
def execVaddsat (h : Hdr) (d a : BitVec 7) (s : State) : Out := .next (opVaddsat h (.single d a) s)

/-- VADDSAT_EXT (R209). -/
def execVaddsatExt (h : Hdr) (m : Multi) (s : State) : Out := .next (opVaddsat h (.multi m) s)

/-- The element result of `vsubsat` (R209). -/
def elVsubsat : Nat → Nat → Nat → Nat → Nat := fun t a b _ => ofSigned (widthOf t) (clampInt t (intOf t a - intOf t b))
/-- `vsubsat` (R209). -/
def opVsubsat : Hdr → Form → State → State := vecInt elVsubsat 0x4f

/-- VSUBSAT (R209). -/
def execVsubsat (h : Hdr) (d a : BitVec 7) (s : State) : Out := .next (opVsubsat h (.single d a) s)

/-- VSUBSAT_EXT (R209). -/
def execVsubsatExt (h : Hdr) (m : Multi) (s : State) : Out := .next (opVsubsat h (.multi m) s)

/-- The element result of `vmov` (R209). -/
def elVmov : Nat → Nat → Nat → Nat → Nat := fun _ a _ _ => a
/-- `vmov` (R209). -/
def opVmov : Hdr → Form → State → State := vecInt elVmov 0x50

/-- VMOV (R209). -/
def execVmov (h : Hdr) (d a : BitVec 7) (s : State) : Out := .next (opVmov h (.single d a) s)

/-- VMOV_EXT (R209). -/
def execVmovExt (h : Hdr) (m : Multi) (s : State) : Out := .next (opVmov h (.multi m) s)

/-- The immediate of `vli` (R213): field A in the single form, else B by R148. -/
def vliEl (o : Opnd) : Nat :=
  if o.single then ofSigned (widthOf o.typ) (toSigned 7 o.a) else bElem o false 0

/-- `vli` (R213). -/
def opVli (h : Hdr) (f : Form) (s : State) : State :=
  groupIssue 0x51 h f (vectorEff false (elementwise fun i _ _ _ _ _ _ _ => (vliEl i.o, 0))) s

/-- VLI (R213). -/
def execVli (h : Hdr) (d a : BitVec 7) (s : State) : Out := .next (opVli h (.single d a) s)

/-- VLI_EXT (R213). -/
def execVliExt (h : Hdr) (m : Multi) (s : State) : Out := .next (opVli h (.multi m) s)

/-- `vfroms` (R213): bits w−1:0 of the scalar register, never advanced. -/
def opVfroms (h : Hdr) (f : Form) (s : State) : State :=
  groupIssue 0x52 h f
    (vectorEff false (elementwise fun i g _ _ _ _ _ _ => ((g.readS i.now i.o.a).toNat % 2 ^ widthOf i.o.typ, 0))) s

/-- VFROMS (R213). -/
def execVfroms (h : Hdr) (d a : BitVec 7) (s : State) : Out := .next (opVfroms h (.single d a) s)

/-- VFROMS_EXT (R213). -/
def execVfromsExt (h : Hdr) (m : Multi) (s : State) : Out := .next (opVfroms h (.multi m) s)

/-- `vlane` (R213): b + k × E(TYPE) + j, with b = 0 in the single form. -/
def opVlane (h : Hdr) (f : Form) (s : State) : State :=
  groupIssue 0x53 h f
    (vectorEff false (elementwise fun i _ k _ j _ b _ =>
      (((if i.o.single then 0 else b) + k * (64 * perLane i.o.typ) + j) % 2 ^ widthOf i.o.typ, 0))) s

/-- VLANE (R213). -/
def execVlane (h : Hdr) (d : BitVec 7) (s : State) : Out := .next (opVlane h (.single d 0) s)

/-- VLANE_EXT (R213). -/
def execVlaneExt (h : Hdr) (m : Multi) (s : State) : Out := .next (opVlane h (.multi m) s)

/-- `vsel` (R212): C is a predicate register. -/
def opVsel (h : Hdr) (f : Form) (s : State) : State :=
  groupIssue 0x4d h f
    (vectorEff false (elementwise fun i g _ l _ a b _ => (if (g.readP i.now i.o.c).getLsbD l then a else b, 0))) s

/-- VSEL (R212). -/
def execVsel (h : Hdr) (m : Multi) (s : State) : Out := .next (opVsel h (.multi m) s)

/-- A comparison that writes a predicate (R212, R216): `rel` on the elements of each active lane. -/
def compareEff (rel : Opnd → Nat → Nat → Bool) (i : Iss) (g : Group) (s : State) : Option State :=
  let o := i.o
  let regs := readRegs o .a ++ readRegs o .b
  let a2 := gather i.now (gatherFor i g s) regs
  match a2.wait with
  | some q => some (parkStream i q regs a2 s)
  | none =>
    let imgs := a2.imgs.reverse
    let na := (readRegs o .a).length
    let av := (laneVals o .a (imgs.take na)).headD []
    let bv := (laneVals o .b (imgs.drop na)).headD []
    let bEl := bElem o false (bScalar g i.now o)
    let bits := maskOf ((lanesOf i.act).filter fun l =>
      rel o (av.getD l 0) (match o.file .b with | .v => bv.getD l 0 | _ => bEl))
    let w := o.span .a
    let g' := a2.g.writeP i.now o.d i.act bits
      (readyClock i.now ((latency o.opc o.typ).getD 0) w 0)
    some (holdDatapath o.clocks (ungather i { a2 with g := g' } s))

/-- `vcmp` (R212). -/
def opVcmp (h : Hdr) (f : Form) (s : State) : State :=
  groupIssue 0x4c h f (compareEff fun o a b => cmpInt o.opt (intOf o.typ a) (intOf o.typ b)) s

/-- VCMP (R212). -/
def execVcmp (h : Hdr) (m : Multi) (s : State) : Out := .next (opVcmp h (.multi m) s)

end Sys2Proof.Machine
end

