-- ==== Sys2Proof/Machine/VecFp.lean ====
section
/-!
DEFINITION. Vector floating-point instructions, 0x58 to 0x69 (spec 10 R214 to R219).
-/

namespace Sys2Proof.Machine

/-- The element result of `vfadd` (R214): TYPE, rounding mode, elements. -/
def elVfadd : Nat → Nat → Nat → Nat → Nat → ElRes := fun t m a b _ => fAdd t m a b
/-- `vfadd` (R214). -/
def opVfadd : Hdr → Form → State → State := vecFp false elVfadd 0x58

/-- VFADD (R214). -/
def execVfadd (h : Hdr) (d a : BitVec 7) (s : State) : Out := .next (opVfadd h (.single d a) s)

/-- VFADD_EXT (R214). -/
def execVfaddExt (h : Hdr) (m : Multi) (s : State) : Out := .next (opVfadd h (.multi m) s)

/-- The element result of `vfsub` (R214): TYPE, rounding mode, elements. -/
def elVfsub : Nat → Nat → Nat → Nat → Nat → ElRes := fun t m a b _ => fSub t m a b
/-- `vfsub` (R214). -/
def opVfsub : Hdr → Form → State → State := vecFp false elVfsub 0x59

/-- VFSUB (R214). -/
def execVfsub (h : Hdr) (d a : BitVec 7) (s : State) : Out := .next (opVfsub h (.single d a) s)

/-- VFSUB_EXT (R214). -/
def execVfsubExt (h : Hdr) (m : Multi) (s : State) : Out := .next (opVfsub h (.multi m) s)

/-- The element result of `vfmul` (R214): TYPE, rounding mode, elements. -/
def elVfmul : Nat → Nat → Nat → Nat → Nat → ElRes := fun t m a b _ => fMul t m a b
/-- `vfmul` (R214). -/
def opVfmul : Hdr → Form → State → State := vecFp false elVfmul 0x5a

/-- VFMUL (R214). -/
def execVfmul (h : Hdr) (d a : BitVec 7) (s : State) : Out := .next (opVfmul h (.single d a) s)

/-- VFMUL_EXT (R214). -/
def execVfmulExt (h : Hdr) (m : Multi) (s : State) : Out := .next (opVfmul h (.multi m) s)

/-- The element result of `vfma` (R214): TYPE, rounding mode, elements. -/
def elVfma : Nat → Nat → Nat → Nat → Nat → ElRes := fMa
/-- `vfma` (R214). -/
def opVfma : Hdr → Form → State → State := vecFp false elVfma 0x5b

/-- VFMA (R214). -/
def execVfma (h : Hdr) (m : Multi) (s : State) : Out := .next (opVfma h (.multi m) s)

/-- The element result of `vfmin` (R215): TYPE, rounding mode, elements. -/
def elVfmin : Nat → Nat → Nat → Nat → Nat → ElRes := fun t _ a b _ => fMinMax false t a b
/-- `vfmin` (R215). -/
def opVfmin : Hdr → Form → State → State := vecFp false elVfmin 0x5c

/-- VFMIN (R215). -/
def execVfmin (h : Hdr) (d a : BitVec 7) (s : State) : Out := .next (opVfmin h (.single d a) s)

/-- VFMIN_EXT (R215). -/
def execVfminExt (h : Hdr) (m : Multi) (s : State) : Out := .next (opVfmin h (.multi m) s)

/-- The element result of `vfmax` (R215): TYPE, rounding mode, elements. -/
def elVfmax : Nat → Nat → Nat → Nat → Nat → ElRes := fun t _ a b _ => fMinMax true t a b
/-- `vfmax` (R215). -/
def opVfmax : Hdr → Form → State → State := vecFp false elVfmax 0x5d

/-- VFMAX (R215). -/
def execVfmax (h : Hdr) (d a : BitVec 7) (s : State) : Out := .next (opVfmax h (.single d a) s)

/-- VFMAX_EXT (R215). -/
def execVfmaxExt (h : Hdr) (m : Multi) (s : State) : Out := .next (opVfmax h (.multi m) s)

/-- The element result of `vfabs` (R214): TYPE, rounding mode, elements. -/
def elVfabs : Nat → Nat → Nat → Nat → Nat → ElRes := fun t _ a _ _ => fAbs t a
/-- `vfabs` (R214). -/
def opVfabs : Hdr → Form → State → State := vecFp false elVfabs 0x5e

/-- VFABS (R214). -/
def execVfabs (h : Hdr) (d a : BitVec 7) (s : State) : Out := .next (opVfabs h (.single d a) s)

/-- VFABS_EXT (R214). -/
def execVfabsExt (h : Hdr) (m : Multi) (s : State) : Out := .next (opVfabs h (.multi m) s)

/-- The element result of `vfneg` (R214): TYPE, rounding mode, elements. -/
def elVfneg : Nat → Nat → Nat → Nat → Nat → ElRes := fun t _ a _ _ => fNeg t a
/-- `vfneg` (R214). -/
def opVfneg : Hdr → Form → State → State := vecFp false elVfneg 0x5f

/-- VFNEG (R214). -/
def execVfneg (h : Hdr) (d a : BitVec 7) (s : State) : Out := .next (opVfneg h (.single d a) s)

/-- VFNEG_EXT (R214). -/
def execVfnegExt (h : Hdr) (m : Multi) (s : State) : Out := .next (opVfneg h (.multi m) s)

/-- The element result of `vfdiv` (R217): TYPE, rounding mode, elements. -/
def elVfdiv : Nat → Nat → Nat → Nat → Nat → ElRes := fun t m a b _ => fDiv t m a b
/-- `vfdiv` (R217). -/
def opVfdiv : Hdr → Form → State → State := vecFp false elVfdiv 0x61

/-- VFDIV (R217). -/
def execVfdiv (h : Hdr) (d a : BitVec 7) (s : State) : Out := .next (opVfdiv h (.single d a) s)

/-- VFDIV_EXT (R217). -/
def execVfdivExt (h : Hdr) (m : Multi) (s : State) : Out := .next (opVfdiv h (.multi m) s)

/-- The element result of `vfsqrt` (R217): TYPE, rounding mode, elements. -/
def elVfsqrt : Nat → Nat → Nat → Nat → Nat → ElRes := fun t m a _ _ => fSqrt t m a
/-- `vfsqrt` (R217). -/
def opVfsqrt : Hdr → Form → State → State := vecFp false elVfsqrt 0x62

/-- VFSQRT (R217). -/
def execVfsqrt (h : Hdr) (d a : BitVec 7) (s : State) : Out := .next (opVfsqrt h (.single d a) s)

/-- VFSQRT_EXT (R217). -/
def execVfsqrtExt (h : Hdr) (m : Multi) (s : State) : Out := .next (opVfsqrt h (.multi m) s)

/-- The element result of `vrcpa` (R219): TYPE, rounding mode, elements. -/
def elVrcpa : Nat → Nat → Nat → Nat → Nat → ElRes := fun t _ a _ _ => fRcpa t a
/-- `vrcpa` (R219). -/
def opVrcpa : Hdr → Form → State → State := vecFp false elVrcpa 0x63

/-- VRCPA (R219). -/
def execVrcpa (h : Hdr) (d a : BitVec 7) (s : State) : Out := .next (opVrcpa h (.single d a) s)

/-- VRCPA_EXT (R219). -/
def execVrcpaExt (h : Hdr) (m : Multi) (s : State) : Out := .next (opVrcpa h (.multi m) s)

/-- The element result of `vrsqa` (R219): TYPE, rounding mode, elements. -/
def elVrsqa : Nat → Nat → Nat → Nat → Nat → ElRes := fun t _ a _ _ => fRsqa t a
/-- `vrsqa` (R219). -/
def opVrsqa : Hdr → Form → State → State := vecFp false elVrsqa 0x64

/-- VRSQA (R219). -/
def execVrsqa (h : Hdr) (d a : BitVec 7) (s : State) : Out := .next (opVrsqa h (.single d a) s)

/-- VRSQA_EXT (R219). -/
def execVrsqaExt (h : Hdr) (m : Multi) (s : State) : Out := .next (opVrsqa h (.multi m) s)

/-- The element result of `vfexp2a` (R219): TYPE, rounding mode, elements. -/
def elVfexp2a : Nat → Nat → Nat → Nat → Nat → ElRes := fun t _ a _ _ => fExp2a t a
/-- `vfexp2a` (R219). -/
def opVfexp2a : Hdr → Form → State → State := vecFp false elVfexp2a 0x65

/-- VFEXP2A (R219). -/
def execVfexp2a (h : Hdr) (d a : BitVec 7) (s : State) : Out := .next (opVfexp2a h (.single d a) s)

/-- VFEXP2A_EXT (R219). -/
def execVfexp2aExt (h : Hdr) (m : Multi) (s : State) : Out := .next (opVfexp2a h (.multi m) s)

/-- The element result of `vflog2a` (R219): TYPE, rounding mode, elements. -/
def elVflog2a : Nat → Nat → Nat → Nat → Nat → ElRes := fun t _ a _ _ => fLog2a t a
/-- `vflog2a` (R219). -/
def opVflog2a : Hdr → Form → State → State := vecFp false elVflog2a 0x66

/-- VFLOG2A (R219). -/
def execVflog2a (h : Hdr) (d a : BitVec 7) (s : State) : Out := .next (opVflog2a h (.single d a) s)

/-- VFLOG2A_EXT (R219). -/
def execVflog2aExt (h : Hdr) (m : Multi) (s : State) : Out := .next (opVflog2a h (.multi m) s)

/-- The element result of `vfclass` (R218): TYPE, rounding mode, elements. -/
def elVfclass : Nat → Nat → Nat → Nat → Nat → ElRes := fun t _ a _ _ => fClass t a
/-- `vfclass` (R218). -/
def opVfclass : Hdr → Form → State → State := vecFp false elVfclass 0x67

/-- VFCLASS (R218). -/
def execVfclass (h : Hdr) (d a : BitVec 7) (s : State) : Out := .next (opVfclass h (.single d a) s)

/-- VFCLASS_EXT (R218). -/
def execVfclassExt (h : Hdr) (m : Multi) (s : State) : Out := .next (opVfclass h (.multi m) s)

/-- The element result of `vfldexp` (R218): TYPE, rounding mode, elements. -/
def elVfldexp : Nat → Nat → Nat → Nat → Nat → ElRes := fun t m a b _ => fLdexp t m a b
/-- `vfldexp` (R218). -/
def opVfldexp : Hdr → Form → State → State := vecFp true elVfldexp 0x69

/-- VFLDEXP (R218). -/
def execVfldexp (h : Hdr) (d a : BitVec 7) (s : State) : Out := .next (opVfldexp h (.single d a) s)

/-- VFLDEXP_EXT (R218). -/
def execVfldexpExt (h : Hdr) (m : Multi) (s : State) : Out := .next (opVfldexp h (.multi m) s)

/-- `vfround` (R218): OPT bit 0 is `.nx`. -/
def opVfround (h : Hdr) (f : Form) (s : State) : State :=
  groupIssue 0x68 h f (vectorEff false (elementwise fun i g _ _ _ a _ _ =>
    fRound i.o.typ (rmOf i.o.rm g.fpctl) (i.o.opt % 2 = 1) a)) s

/-- VFROUND (R218). -/
def execVfround (h : Hdr) (d a : BitVec 7) (s : State) : Out := .next (opVfround h (.single d a) s)

/-- VFROUND_EXT (R218). -/
def execVfroundExt (h : Hdr) (m : Multi) (s : State) : Out := .next (opVfround h (.multi m) s)

/-- `vfcmp` (R216). -/
def opVfcmp (h : Hdr) (f : Form) (s : State) : State :=
  groupIssue 0x60 h f (compareEff fun o a b => fCmp o.typ o.opt a b) s

/-- VFCMP (R216). -/
def execVfcmp (h : Hdr) (m : Multi) (s : State) : Out := .next (opVfcmp h (.multi m) s)

end Sys2Proof.Machine
end

