-- ==== Sys2Proof/Machine/VecLanes.lean ====
section
/-!
DEFINITION. Conversion and lane instructions, 0x70 to 0x79 (spec 10 R220 to R228).
-/

namespace Sys2Proof.Machine

/-- The bits of element `j` of the lane values of a position, for an element of `w` bits (R123). -/
def elemAt (w : Nat) (vals : List Nat) (j : Nat) : Nat :=
  if 32 ≤ w then vals.getD j 0 % 2 ^ w
  else let n := 32 / w; (vals.getD (j / n) 0 >>> (w * (j % n))) % 2 ^ w

/-- Elements of a position of a TYPE, E of R206. -/
def elemsIn (t : Nat) : Nat := 64 * perLane t

/-- `vcvt` of one position (R220, R221): the wider type's elements in order, the part of the narrower. A part that lies past the
source's elements has free values (assumption 7). -/
def cvtPos (i : Iss) (g : Group) (src : List Nat) : List (Nat × Nat) × Nat :=
  let o := i.o
  let wd := widthOf o.typ
  let ws := widthOf o.typ2
  let wide := if ws ≤ wd then o.typ else o.typ2
  let part := (o.opt % 8) * elemsIn wide
  let mode := rmOf o.rm g.fpctl
  let nd := perLane o.typ
  let el (j : Nat) : Nat :=
    if elemsIn o.typ2 ≤ j then Config.noElement i.k i.now j % 2 ^ ws else elemAt ws src j
  let lane (l : Nat) : Option (Nat × (Nat × Nat)) :=
    let els := (List.range nd).map fun e =>
      let jd := l * nd + e
      let idx := if ws ≤ wd then some jd
        else if part ≤ jd && jd < part + elemsIn wide then some (jd - part) else none
      idx.map fun j => cvtEl o.typ o.typ2 o.inf (decide (8 ≤ o.opt)) mode
        (el (if ws ≤ wd then (if ws = wd then j else j + part) else j))
    if els.all Option.isSome then
      let rs := els.map fun x => x.getD (0, 0)
      some (l, (joinEls wd (rs.map Prod.fst), rs.foldl (fun f r => f ||| r.2) 0))
    else none
  let out := (lanesOf i.act).filterMap lane
  (out.map fun r => (r.1, r.2.1), out.foldl (fun f r => f ||| r.2.2) 0)

/-- Apply a function to each position of A. -/
def eachPos (fn : Iss → Group → List Nat → List (Nat × Nat) × Nat) (i : Iss) (g : Group) (x : Srcs) : VRes :=
  let rs := x.a.map (fn i g)
  (rs.map Prod.fst, rs.foldl (fun f r => f ||| r.2) 0)

/-- `vcvt` (R220 to R222). -/
def opVcvt (h : Hdr) (f : Form) (s : State) : State := groupIssue 0x70 h f (vectorEff false (eachPos cvtPos)) s

/-- VCVT (R220). -/
def execVcvt (h : Hdr) (m : Multi) (s : State) : Out := .next (opVcvt h (.multi m) s)

/-- Register images of an operand of several registers, gathered in one position: element `e` of TYPE `t` (R223). -/
def spanEl (t : Nat) (regs : List (List Nat)) (e : Nat) : Nat :=
  let n := elemsIn t
  elemAt (widthOf t) (regs.getD (e / n) []) (e % n)

/-- `vquant` (R223): D and C must differ; whole blocks of eight lanes. -/
def quantEff (i : Iss) (g : Group) (s : State) : Option State :=
  let o := i.o
  if o.d = o.c then some (illegal i i.act 0x0b (occupy o.opc o s))
  else
    let regs := (o.regs .a).map Prod.snd
    let a := gather i.now (gatherFor i g s) regs
    match a.wait with
    | some q => some (parkStream i q regs a s)
    | none =>
      let imgs := a.imgs.reverse
      let blocks := (List.range 8).filter fun b => (List.range 8).any fun l => i.act.getLsbD (8 * b + l)
      let qs := blocks.map fun b =>
        (b, quantise o.typ o.inf ((List.range 32).map fun e => ieeeVal o.typ2 (spanEl o.typ2 imgs (32 * b + e))))
      let data := qs.flatMap fun (b, _, els) => (List.range 8).map fun l =>
        (8 * b + l, joinEls 8 ((List.range 4).map fun e => (els.getD (4 * l + e) (0, 0)).1))
      let scales := qs.map fun (b, sc, _) => (8 * (o.opt % 8) + b, sc)
      let fl := qs.foldl (fun f (b, _, els) =>
        if i.act.getLsbD (8 * b) then els.foldl (fun f r => f ||| r.2) f else f) 0
      let ready := readyClock i.now 6 (o.span .a) 0
      let a2 := putReg i.now o.c scales ready false (putReg i.now o.d data ready false a)
      some (holdDatapath o.clocks (ungather i { a2 with g := a2.g.orFlags fl } s))

/-- `vquant` (R223). -/
def opVquant (h : Hdr) (f : Form) (s : State) : State := groupIssue 0x71 h f quantEff s

/-- VQUANT (R223). -/
def execVquant (h : Hdr) (m : Multi) (s : State) : Out := .next (opVquant h (.multi m) s)

/-- `vdequant` (R224): several destination registers from one source register and one scale register. -/
def dequantEff (i : Iss) (g : Group) (s : State) : Option State :=
  let o := i.o
  let a1 := gather i.now (gatherFor i g s) [o.a, o.c]
  let dregs := (o.regs .d).map Prod.snd
  match a1.wait with
  | some q => some (parkStream i q [o.a, o.c] a1 s)
  | none =>
    let src := a1.imgs.reverse.getD 0 []
    let scl := a1.imgs.reverse.getD 1 []
    let n := elemsIn o.typ
    let nl := perLane o.typ
    let one (r l : Nat) : Nat × Nat :=
      let els := (List.range nl).map fun j =>
        let e := r * n + l * nl + j
        dequantEl o.typ o.typ2 o.inf (rmOf o.rm g.fpctl) (elemAt 8 src e) (scl.getD (8 * (o.opt % 8) + e / 32) 0)
      (joinEls (widthOf o.typ) (els.map Prod.fst), els.foldl (fun f x => f ||| x.2) 0)
    let ready := readyClock i.now 6 (o.span .d) 0
    let res := dregs.zipIdx.map fun (r, j) => (r, (lanesOf i.act).map fun l => (l, one j l))
    let a2 := res.foldl (fun a (r, ls) => putReg i.now r (ls.map fun x => (x.1, x.2.1)) ready false a) a1
    let fl := res.foldl (fun f (_, ls) => ls.foldl (fun f x => f ||| x.2.2) f) 0
    some (holdDatapath o.clocks (ungather i { a2 with g := a2.g.orFlags fl } s))

/-- `vdequant` (R224). -/
def opVdequant (h : Hdr) (f : Form) (s : State) : State := groupIssue 0x72 h f dequantEff s

/-- VDEQUANT (R224). -/
def execVdequant (h : Hdr) (m : Multi) (s : State) : Out := .next (opVdequant h (.multi m) s)

/-- The source lane of `vshfl` (R225). -/
def shflLane (opt l b : Nat) : Nat :=
  match opt with
  | 0 => b % 64
  | 1 => l ^^^ (b % 64)
  | 2 => if l < b then l else l - b
  | _ => if 63 < l + b then l else l + b

/-- `vshfl` (R225). -/
def shflFn (i : Iss) (_ : Group) (x : Srcs) : VRes :=
  let o := i.o
  (x.a.zipIdx.map fun (vals, k) => (lanesOf i.act).map fun l =>
    (l, vals.getD (shflLane o.opt l (x.bLane o k l)) 0), 0)

/-- `vshfl` (R225). -/
def opVshfl (h : Hdr) (f : Form) (s : State) : State := groupIssue 0x73 h f (vectorEff true shflFn) s

/-- VSHFL (R225). -/
def execVshfl (h : Hdr) (m : Multi) (s : State) : Out := .next (opVshfl h (.multi m) s)

/-- `vrot` (R225). -/
def rotFn (i : Iss) (_ : Group) (x : Srcs) : VRes :=
  let t := i.o.typ
  let n := perLane t
  (x.a.map fun vals => (lanesOf i.act).map fun l =>
    (l, joinEls (widthOf t)
      ((List.range n).map fun j => elemAt (widthOf t) vals ((l * n + j + x.bEl) % elemsIn t))), 0)

/-- `vrot` (R225). -/
def opVrot (h : Hdr) (f : Form) (s : State) : State := groupIssue 0x74 h f (vectorEff true rotFn) s

/-- VROT (R225). -/
def execVrot (h : Hdr) (m : Multi) (s : State) : Out := .next (opVrot h (.multi m) s)

/-- `vbcast` (R225). -/
def bcastFn (i : Iss) (_ : Group) (x : Srcs) : VRes :=
  (x.a.map fun vals => (lanesOf i.act).map fun l => (l, vals.getD (x.bEl % 64) 0), 0)

/-- `vbcast` (R225). -/
def opVbcast (h : Hdr) (f : Form) (s : State) : State := groupIssue 0x75 h f (vectorEff true bcastFn) s

/-- VBCAST (R225). -/
def execVbcast (h : Hdr) (m : Multi) (s : State) : Out := .next (opVbcast h (.multi m) s)

/-- Lanes of A that take part, the others the identity (R141, R227). -/
def masked (i : Iss) (vals : List Nat) : List Nat :=
  (List.range 64).map fun l => if i.act.getLsbD l then vals.getD l 0 else redId i.o.typ (i.o.opt % 8)

/-- `vred` of one position (R141, R226). -/
def redPos (i : Iss) (g : Group) (vals : List Nat) : List (Nat × Nat) × Nat :=
  let (r, f) := redTree i.o.typ (i.o.opt % 8) (rmOf i.o.rm g.fpctl) 6 (masked i vals)
  ((lanesOf i.act).map fun l => (l, r), f)

/-- `vred` (R226). -/
def opVred (h : Hdr) (f : Form) (s : State) : State := groupIssue 0x76 h f (vectorEff false (eachPos redPos)) s

/-- VRED (R226). -/
def execVred (h : Hdr) (m : Multi) (s : State) : Out := .next (opVred h (.multi m) s)

/-- `vscan` of one position (R227). -/
def scanPos (i : Iss) (g : Group) (vals : List Nat) : List (Nat × Nat) × Nat :=
  let op := i.o.opt % 8
  let (t, f) := scanAll i.o.typ op (rmOf i.o.rm g.fpctl) [1, 2, 4, 8, 16, 32] (masked i vals)
  let res (l : Nat) : Nat :=
    if 8 ≤ i.o.opt then (if l = 0 then redId i.o.typ op else t.getD (l - 1) 0) else t.getD l 0
  ((lanesOf i.act).map fun l => (l, res l), f)

/-- `vscan` (R227). -/
def opVscan (h : Hdr) (f : Form) (s : State) : State := groupIssue 0x77 h f (vectorEff false (eachPos scanPos)) s

/-- VSCAN (R227). -/
def execVscan (h : Hdr) (m : Multi) (s : State) : Out := .next (opVscan h (.multi m) s)

/-- `vballot` (R228): one scalar register from the lanes of A. -/
def ballotEff (i : Iss) (g : Group) (s : State) : Option State :=
  let o := i.o
  let a := gather i.now (gatherFor i g s) (readRegs o .a)
  match a.wait with
  | some q => some (parkStream i q (readRegs o .a) a s)
  | none =>
    let vals := (laneVals o .a a.imgs.reverse).headD []
    let m := maskOf ((lanesOf i.act).filter fun l => vals.getD l 0 ≠ 0)
    some (holdDatapath o.clocks (ungather i { a with g := a.g.writeS i.now o.d m (readyClock i.now 6 1 0) } s))

/-- `vballot` (R228). -/
def opVballot (h : Hdr) (f : Form) (s : State) : State := groupIssue 0x78 h f ballotEff s

/-- VBALLOT (R228). -/
def execVballot (h : Hdr) (m : Multi) (s : State) : Out := .next (opVballot h (.multi m) s)

/-- `vcompact` (R228): the i-th active lane receives the i-th selected lane. -/
def compactFn (i : Iss) (g : Group) (x : Srcs) : VRes :=
  let sel := lanesOf (g.readP i.now i.o.c)
  (x.a.map fun vals => ((lanesOf i.act).zip sel).map fun (l, sl) => (l, vals.getD sl 0), 0)

/-- `vcompact` (R228). -/
def opVcompact (h : Hdr) (f : Form) (s : State) : State := groupIssue 0x79 h f (vectorEff false compactFn) s

/-- VCOMPACT (R228). -/
def execVcompact (h : Hdr) (m : Multi) (s : State) : Out := .next (opVcompact h (.multi m) s)

end Sys2Proof.Machine
end

