-- ==== Sys2Proof/Machine/Proc.lean ====
section
/-!
DEFINITION. One issue of a Folbel core or of the fabric processor: the checks of R419 that concern them, the end of an
invocation or script, and stall (spec 14 R301, R311, R325; 16 R355, R359; 24 R423, R425).
-/

namespace Sys2Proof.Machine

/-- What an instruction's effect on a sequencer without lanes answers. -/
inductive PRes where
  /-- The instruction retires with these registers. -/
  | done (p : Proc) (s : State)
  /-- The context waits: the instruction issues again. -/
  | wait (s : State)
  | fault (cause sub : Nat) (addr : W64)
  /-- The invocation or script has ended. -/
  | over (s : State)
  deriving DecidableEq, Repr

/-- The registers of the current context. -/
def curProc (s : State) : Proc :=
  match s.cur.seq with
  | .folbel => ((s.slice s.cur.unit).ctx s.cur.sub).proc
  | _ => (s.script s.cur.sub).proc

/-- The tenant of the current context. -/
def curTenant (s : State) : Nat :=
  match s.cur.seq with
  | .folbel => ((s.slice s.cur.unit).ctx s.cur.sub).tenant
  | _ => (s.script s.cur.sub).tenant

/-- The opcodes that a Folbel core or the fabric processor executes (R154, R423). -/
def procClass (q : Seq) (opc : Nat) : Bool :=
  match classOf opc with
  | .scalar => opc ≠ 0x1c
  | .control => opc = 0x20 || opc = 0x21 || opc = 0x22 || opc = 0x23 || opc = 0x25
  | .slice => q = .folbel
  | .circuit => q = .fabric
  | _ => false

/-- A register number of s0 to s31, or a number that is no register (R167, R315, R357). -/
def procReg (o : Opnd) (f : Field) : Bool :=
  match o.file f with | .s n => decide (o.num f + n ≤ 32) | .v => false | _ => true

/-- Steps 3 to 10 on a sequencer without lanes (R419, R423, R425): the SUB of the first check that fails. -/
def procCheck (q : Seq) (opc : Nat) (h : Hdr) (f : Form) : Option Nat :=
  let o := opndOf opc f
  let mem := opc = 0x18 || opc = 0x19 || opc = 0x1d
  if !procClass q opc then some 0x02
  else if !formOk opc f then some 0x03
  else if h.psel ≠ 0 || h.pneg || (mem && o.c ≠ 0) then some 0x04
  else match staticSub opc f with
    | some n => some n
    | none =>
      if opc = 0x22 && o.opt = 1 then some 0x07
      else if !(procReg o .d && procReg o .a && procReg o .b && procReg o .c) then some 0x09
      else if o.rows ≠ 1 || o.cols ≠ 1 || o.pitch ≠ 1 then some 0x0a
      else none

/-- Retire: registers, stall and budget (R158, R311). -/
def procRetire (p : Proc) (h : Hdr) (s : State) : State :=
  let p := { p with readyAt := s.cur.clock + h.stall.toNat + 1 }
  match s.cur.seq with
  | .folbel => s.updCtx s.cur.unit s.cur.sub fun c => { c with proc := p, budget := c.budget - 1, waitSince := none }
  | _ => s.updScript s.cur.sub fun c => { c with proc := p, waitSince := none, timedOut := false }

/-- ONE ISSUE OF A SEQUENCER WITHOUT LANES; on a group the opcode is of a class that groups do not execute. The program counter stands at *next* when the effect is computed. -/
def procIssue (opc : Nat) (h : Hdr) (f : Form) (eff : Opnd → Proc → State → PRes) (s : State) : State :=
  if s.cur.seq = .group then groupIssue opc h f (fun _ _ s => some s) s
  else if !curBusy s then s
  else
    let fc := (s.slice s.cur.unit).ctx s.cur.sub
    match procCheck s.cur.seq opc h f with
    | some sub => procFault cILLEGAL sub 0 s
    | none =>
      if s.cur.seq = .folbel && fc.budget = 0 then procFault cBUDGET 0 (w64 (128 * fc.line)) s
      else
        let p := curProc s
        match eff (opndOf opc f) { p with pc := (nextPc s.cur).toNat } s with
        | .done p s => procRetire p h s
        | .wait s => s.setHeld
        | .fault c sub a => procFault c sub a s
        | .over s => s

/-- Write a scalar register of a context. -/
def Proc.put (p : Proc) (r : Nat) (x : W64) : Proc := { p with sregs := setZ p.sregs r x }
/-- A scalar register of a context. -/
def Proc.get (p : Proc) (r : Nat) : W64 := getZ p.sregs r

/-- The B operand of a context's instruction as 64 bits (R148, R315, R357). -/
def procB (o : Opnd) (p : Proc) : W64 :=
  match classOf o.opc, o.bm with
  | .slice, .reg => 0
  | .circuit, .reg => 0
  | _, _ => bWhole o (p.get o.b)

end Sys2Proof.Machine
end

