-- ==== Sys2Proof/Machine/Scalar.lean ====
section
/-!
DEFINITION. Scalar arithmetic and logic, system registers, predicates (spec 09 R167 to R173, R177 to R179, R195 to R198).
The arithmetic runs on groups, Folbel cores and the fabric processor alike.
-/

namespace Sys2Proof.Machine

/-- `ext` of R167: the low bits of TYPE's width, extended by its signedness. -/
def extW (t x : Nat) : W64 := w64 (ofSigned 64 (intOf t x))

/-- A scalar instruction that computes D from A, B (whole), C and D (R167, R168). -/
def scalarOp (fn : Opnd → W64 → W64 → W64 → W64) (opc : Nat) (h : Hdr) (f : Form) (s : State) : State :=
  match s.cur.seq with
  | .group =>
    groupIssue opc h f (fun i g s =>
      let o := i.o
      some (scalarResult i o.d (fn o (g.readS i.now o.a) (bWhole o (bScalar g i.now o)) (g.readS i.now o.c)) s)) s
  | _ => procIssue opc h f (fun o p s => .done (p.put o.d (fn o (p.get o.a) (bWhole o (p.get o.b)) (p.get o.c))) s) s

/-- A two-source result on `ext` of both operands, passed through `ext` (R168). -/
def ext2 (fn : Nat → Int → Int → Int) (o : Opnd) (a b _ : W64) : W64 :=
  extW o.typ (ofSigned 64 (fn o.typ (intOf o.typ a.toNat) (intOf o.typ b.toNat)))

/-- A bitwise result (R168, R169). -/
def bit2 (fn : W64 → W64 → W64) (o : Opnd) (a b _ : W64) : W64 :=
  extW o.typ (fn (extW o.typ a.toNat) (extW o.typ b.toNat)).toNat

/-- A one-source result on the low bits of A (R169). -/
def low1 (fn : Nat → Nat → Nat) (o : Opnd) (a _ _ : W64) : W64 :=
  extW o.typ (fn o.typ (a.toNat % 2 ^ widthOf o.typ))

/-- A shift: the count is the whole 64-bit B (R170). -/
def shift2 (fn : Nat → Nat → Nat → Nat) (o : Opnd) (a b _ : W64) : W64 :=
  extW o.typ (fn (widthOf o.typ) a.toNat b.toNat)

/-- The result of `sli` (R169): operands, A, B whole, C. -/
def fnSli : Opnd → W64 → W64 → W64 → W64 := fun o _ b _ => extW o.typ (if o.single then ofSigned 64 (toSigned 7 o.a) else b.toNat)
/-- `sli` (R169). -/
def opSli : Hdr → Form → State → State := scalarOp fnSli 0x1

/-- SLI (R169). -/
def execSli (h : Hdr) (d a : BitVec 7) (s : State) : Out := .next (opSli h (.single d a) s)

/-- SLI_EXT (R169). -/
def execSliExt (h : Hdr) (m : Multi) (s : State) : Out := .next (opSli h (.multi m) s)

/-- The result of `smov` (R169): operands, A, B whole, C. -/
def fnSmov : Opnd → W64 → W64 → W64 → W64 := low1 fun _ a => a
/-- `smov` (R169). -/
def opSmov : Hdr → Form → State → State := scalarOp fnSmov 0x2

/-- SMOV (R169). -/
def execSmov (h : Hdr) (d a : BitVec 7) (s : State) : Out := .next (opSmov h (.single d a) s)

/-- SMOV_EXT (R169). -/
def execSmovExt (h : Hdr) (m : Multi) (s : State) : Out := .next (opSmov h (.multi m) s)

/-- The result of `sadd` (R169): operands, A, B whole, C. -/
def fnSadd : Opnd → W64 → W64 → W64 → W64 := ext2 fun _ a b => a + b
/-- `sadd` (R169). -/
def opSadd : Hdr → Form → State → State := scalarOp fnSadd 0x3

/-- SADD (R169). -/
def execSadd (h : Hdr) (d a : BitVec 7) (s : State) : Out := .next (opSadd h (.single d a) s)

/-- SADD_EXT (R169). -/
def execSaddExt (h : Hdr) (m : Multi) (s : State) : Out := .next (opSadd h (.multi m) s)

/-- The result of `ssub` (R169): operands, A, B whole, C. -/
def fnSsub : Opnd → W64 → W64 → W64 → W64 := ext2 fun _ a b => a - b
/-- `ssub` (R169). -/
def opSsub : Hdr → Form → State → State := scalarOp fnSsub 0x4

/-- SSUB (R169). -/
def execSsub (h : Hdr) (d a : BitVec 7) (s : State) : Out := .next (opSsub h (.single d a) s)

/-- SSUB_EXT (R169). -/
def execSsubExt (h : Hdr) (m : Multi) (s : State) : Out := .next (opSsub h (.multi m) s)

/-- The result of `smul` (R169): operands, A, B whole, C. -/
def fnSmul : Opnd → W64 → W64 → W64 → W64 := ext2 fun _ a b => a * b
/-- `smul` (R169). -/
def opSmul : Hdr → Form → State → State := scalarOp fnSmul 0x5

/-- SMUL (R169). -/
def execSmul (h : Hdr) (d a : BitVec 7) (s : State) : Out := .next (opSmul h (.single d a) s)

/-- SMUL_EXT (R169). -/
def execSmulExt (h : Hdr) (m : Multi) (s : State) : Out := .next (opSmul h (.multi m) s)

/-- The result of `smulh` (R169): operands, A, B whole, C. -/
def fnSmulh : Opnd → W64 → W64 → W64 → W64 := ext2 fun t a b => a * b / ((2 ^ widthOf t : Nat) : Int)
/-- `smulh` (R169). -/
def opSmulh : Hdr → Form → State → State := scalarOp fnSmulh 0x6

/-- SMULH (R169). -/
def execSmulh (h : Hdr) (d a : BitVec 7) (s : State) : Out := .next (opSmulh h (.single d a) s)

/-- SMULH_EXT (R169). -/
def execSmulhExt (h : Hdr) (m : Multi) (s : State) : Out := .next (opSmulh h (.multi m) s)

/-- The result of `sdiv` (R171): operands, A, B whole, C. -/
def fnSdiv : Opnd → W64 → W64 → W64 → W64 := ext2 divInt
/-- `sdiv` (R171). -/
def opSdiv : Hdr → Form → State → State := scalarOp fnSdiv 0x7

/-- SDIV (R171). -/
def execSdiv (h : Hdr) (d a : BitVec 7) (s : State) : Out := .next (opSdiv h (.single d a) s)

/-- SDIV_EXT (R171). -/
def execSdivExt (h : Hdr) (m : Multi) (s : State) : Out := .next (opSdiv h (.multi m) s)

/-- The result of `srem` (R171): operands, A, B whole, C. -/
def fnSrem : Opnd → W64 → W64 → W64 → W64 := ext2 fun _ => remInt
/-- `srem` (R171). -/
def opSrem : Hdr → Form → State → State := scalarOp fnSrem 0x8

/-- SREM (R171). -/
def execSrem (h : Hdr) (d a : BitVec 7) (s : State) : Out := .next (opSrem h (.single d a) s)

/-- SREM_EXT (R171). -/
def execSremExt (h : Hdr) (m : Multi) (s : State) : Out := .next (opSrem h (.multi m) s)

/-- The result of `sand` (R169): operands, A, B whole, C. -/
def fnSand : Opnd → W64 → W64 → W64 → W64 := bit2 fun a b => a &&& b
/-- `sand` (R169). -/
def opSand : Hdr → Form → State → State := scalarOp fnSand 0x9

/-- SAND (R169). -/
def execSand (h : Hdr) (d a : BitVec 7) (s : State) : Out := .next (opSand h (.single d a) s)

/-- SAND_EXT (R169). -/
def execSandExt (h : Hdr) (m : Multi) (s : State) : Out := .next (opSand h (.multi m) s)

/-- The result of `sor` (R169): operands, A, B whole, C. -/
def fnSor : Opnd → W64 → W64 → W64 → W64 := bit2 fun a b => a ||| b
/-- `sor` (R169). -/
def opSor : Hdr → Form → State → State := scalarOp fnSor 0xa

/-- SOR (R169). -/
def execSor (h : Hdr) (d a : BitVec 7) (s : State) : Out := .next (opSor h (.single d a) s)

/-- SOR_EXT (R169). -/
def execSorExt (h : Hdr) (m : Multi) (s : State) : Out := .next (opSor h (.multi m) s)

/-- The result of `sxor` (R169): operands, A, B whole, C. -/
def fnSxor : Opnd → W64 → W64 → W64 → W64 := bit2 fun a b => a ^^^ b
/-- `sxor` (R169). -/
def opSxor : Hdr → Form → State → State := scalarOp fnSxor 0xb

/-- SXOR (R169). -/
def execSxor (h : Hdr) (d a : BitVec 7) (s : State) : Out := .next (opSxor h (.single d a) s)

/-- SXOR_EXT (R169). -/
def execSxorExt (h : Hdr) (m : Multi) (s : State) : Out := .next (opSxor h (.multi m) s)

/-- The result of `sandn` (R169): operands, A, B whole, C. -/
def fnSandn : Opnd → W64 → W64 → W64 → W64 := bit2 fun a b => a &&& ~~~b
/-- `sandn` (R169). -/
def opSandn : Hdr → Form → State → State := scalarOp fnSandn 0xc

/-- SANDN (R169). -/
def execSandn (h : Hdr) (d a : BitVec 7) (s : State) : Out := .next (opSandn h (.single d a) s)

/-- SANDN_EXT (R169). -/
def execSandnExt (h : Hdr) (m : Multi) (s : State) : Out := .next (opSandn h (.multi m) s)

/-- The result of `sshl` (R170): operands, A, B whole, C. -/
def fnSshl : Opnd → W64 → W64 → W64 → W64 := shift2 shlW
/-- `sshl` (R170). -/
def opSshl : Hdr → Form → State → State := scalarOp fnSshl 0xd

/-- SSHL (R170). -/
def execSshl (h : Hdr) (d a : BitVec 7) (s : State) : Out := .next (opSshl h (.single d a) s)

/-- SSHL_EXT (R170). -/
def execSshlExt (h : Hdr) (m : Multi) (s : State) : Out := .next (opSshl h (.multi m) s)

/-- The result of `sshr` (R170): operands, A, B whole, C. -/
def fnSshr : Opnd → W64 → W64 → W64 → W64 := shift2 shrW
/-- `sshr` (R170). -/
def opSshr : Hdr → Form → State → State := scalarOp fnSshr 0xe

/-- SSHR (R170). -/
def execSshr (h : Hdr) (d a : BitVec 7) (s : State) : Out := .next (opSshr h (.single d a) s)

/-- SSHR_EXT (R170). -/
def execSshrExt (h : Hdr) (m : Multi) (s : State) : Out := .next (opSshr h (.multi m) s)

/-- The result of `ssra` (R170): operands, A, B whole, C. -/
def fnSsra : Opnd → W64 → W64 → W64 → W64 := shift2 sraW
/-- `ssra` (R170). -/
def opSsra : Hdr → Form → State → State := scalarOp fnSsra 0xf

/-- SSRA (R170). -/
def execSsra (h : Hdr) (d a : BitVec 7) (s : State) : Out := .next (opSsra h (.single d a) s)

/-- SSRA_EXT (R170). -/
def execSsraExt (h : Hdr) (m : Multi) (s : State) : Out := .next (opSsra h (.multi m) s)

/-- The result of `smin` (R169): operands, A, B whole, C. -/
def fnSmin : Opnd → W64 → W64 → W64 → W64 := ext2 fun _ a b => min a b
/-- `smin` (R169). -/
def opSmin : Hdr → Form → State → State := scalarOp fnSmin 0x10

/-- SMIN (R169). -/
def execSmin (h : Hdr) (d a : BitVec 7) (s : State) : Out := .next (opSmin h (.single d a) s)

/-- SMIN_EXT (R169). -/
def execSminExt (h : Hdr) (m : Multi) (s : State) : Out := .next (opSmin h (.multi m) s)

/-- The result of `smax` (R169): operands, A, B whole, C. -/
def fnSmax : Opnd → W64 → W64 → W64 → W64 := ext2 fun _ a b => max a b
/-- `smax` (R169). -/
def opSmax : Hdr → Form → State → State := scalarOp fnSmax 0x11

/-- SMAX (R169). -/
def execSmax (h : Hdr) (d a : BitVec 7) (s : State) : Out := .next (opSmax h (.single d a) s)

/-- SMAX_EXT (R169). -/
def execSmaxExt (h : Hdr) (m : Multi) (s : State) : Out := .next (opSmax h (.multi m) s)

/-- The result of `scmp` (R173): operands, A, B whole, C. -/
def fnScmp : Opnd → W64 → W64 → W64 → W64 := fun o a b _ =>
  if cmpInt o.opt (intOf o.typ a.toNat) (intOf o.typ b.toNat) then 1 else 0
/-- `scmp` (R173). -/
def opScmp : Hdr → Form → State → State := scalarOp fnScmp 0x12

/-- SCMP (R173). -/
def execScmp (h : Hdr) (d a : BitVec 7) (s : State) : Out := .next (opScmp h (.single d a) s)

/-- SCMP_EXT (R173). -/
def execScmpExt (h : Hdr) (m : Multi) (s : State) : Out := .next (opScmp h (.multi m) s)

/-- The result of `ssel` (R173): operands, A, B whole, C. -/
def fnSsel : Opnd → W64 → W64 → W64 → W64 := fun o a b c => extW o.typ (if c ≠ 0 then a.toNat else b.toNat)
/-- `ssel` (R173). -/
def opSsel : Hdr → Form → State → State := scalarOp fnSsel 0x13

/-- SSEL (R173). -/
def execSsel (h : Hdr) (m : Multi) (s : State) : Out := .next (opSsel h (.multi m) s)

/-- The result of `sclz` (R169): operands, A, B whole, C. -/
def fnSclz : Opnd → W64 → W64 → W64 → W64 := low1 fun t a => clzN (widthOf t) a
/-- `sclz` (R169). -/
def opSclz : Hdr → Form → State → State := scalarOp fnSclz 0x14

/-- SCLZ (R169). -/
def execSclz (h : Hdr) (d a : BitVec 7) (s : State) : Out := .next (opSclz h (.single d a) s)

/-- SCLZ_EXT (R169). -/
def execSclzExt (h : Hdr) (m : Multi) (s : State) : Out := .next (opSclz h (.multi m) s)

/-- The result of `spopc` (R169): operands, A, B whole, C. -/
def fnSpopc : Opnd → W64 → W64 → W64 → W64 := low1 fun t a => popcN (widthOf t) a
/-- `spopc` (R169). -/
def opSpopc : Hdr → Form → State → State := scalarOp fnSpopc 0x15

/-- SPOPC (R169). -/
def execSpopc (h : Hdr) (d a : BitVec 7) (s : State) : Out := .next (opSpopc h (.single d a) s)

/-- SPOPC_EXT (R169). -/
def execSpopcExt (h : Hdr) (m : Multi) (s : State) : Out := .next (opSpopc h (.multi m) s)

/-- The result of `sbfx` (R172): operands, A, B whole, C. -/
def fnSbfx : Opnd → W64 → W64 → W64 → W64 := fun o a b _ => extW o.typ (ofSigned 64 (bfx o.typ a.toNat b.toNat))
/-- `sbfx` (R172). -/
def opSbfx : Hdr → Form → State → State := scalarOp fnSbfx 0x16

/-- SBFX (R172). -/
def execSbfx (h : Hdr) (d a : BitVec 7) (s : State) : Out := .next (opSbfx h (.single d a) s)

/-- SBFX_EXT (R172). -/
def execSbfxExt (h : Hdr) (m : Multi) (s : State) : Out := .next (opSbfx h (.multi m) s)

/-- The result of `sbfi` (R172): operands, A, B whole, C. -/
def fnSbfi : Opnd → W64 → W64 → W64 → W64 := fun o a b c => extW o.typ (bfi o.typ a.toNat b.toNat c.toNat)
/-- `sbfi` (R172). -/
def opSbfi : Hdr → Form → State → State := scalarOp fnSbfi 0x17

/-- SBFI (R172). -/
def execSbfi (h : Hdr) (m : Multi) (s : State) : Out := .next (opSbfi h (.multi m) s)

/-- `nop` (R169). -/
def opNop (h : Hdr) (f : Form) (s : State) : State :=
  match s.cur.seq with
  | .group => groupIssue 0x00 h f (fun _ _ s => some s) s
  | _ => procIssue 0x00 h f (fun _ p s => .done p s) s

/-- NOP (R169). -/
def execNop (h : Hdr) (s : State) : Out := .next (opNop h (.single 0 0) s)

/-- `sfromv` (R179): lane b[5:0] of A, whether or not it is in the bundle. -/
def opSfromv (h : Hdr) (f : Form) (s : State) : State :=
  match s.cur.seq with
  | .group => groupIssue 0x1c h f (fun i g s =>
      let o := i.o
      let l := (bWhole o (bScalar g i.now o)).toNat % 64
      let a1 := gather i.now (gatherFor i g s) (readRegs o .a)
      match a1.wait with
      | some q => some (parkStream i q (readRegs o .a) a1 s)
      | none =>
        let x := ((laneVals o .a a1.imgs.reverse).headD []).getD l 0
        some (ungather i { a1 with g := a1.g.writeS i.now o.d (extW o.typ x) (readyClock i.now 6 1 0) } s)) s
  | _ => procIssue 0x1c h f (fun _ p s => .done p s) s

/-- SFROMV (R179). -/
def execSfromv (h : Hdr) (m : Multi) (s : State) : Out := .next (opSfromv h (.multi m) s)

/-! ## System registers (R177, R178) -/

/-- The launch of a block. -/
def launchOf (s : State) (b : Block) : Option Launch := getN s.launches b.launch

/-- BLOCK and GDIM (R12). -/
def blockReg (s : State) (g : Group) : Nat × Nat :=
  match blockOf s g with
  | none => (0, 0)
  | some b => match launchOf s b with
    | none => (0, 0)
    | some l =>
      let x := b.index % (l.gx + 1)
      let y := (b.index / (l.gx + 1)) % (l.gy + 1)
      let z := b.index / (l.gx + 1) / (l.gy + 1)
      (x + 2 ^ 16 * y + 2 ^ 32 * z, l.gx + 2 ^ 16 * l.gy + 2 ^ 32 * l.gz)

/-- The groups of a block, all roles. -/
def blockN (s : State) (g : Group) : Nat := match blockOf s g with | some b => b.n | none => 0

/-- The value of a system register on a group, read in a lane; none for a reserved code (R177, R178). -/
def sysRead (s : State) (k : Nat) (g : Group) (lane : Nat) (code : Nat) : Option W64 :=
  let core := k / 128
  let x := g.lane lane
  match code with
  | 0x00 => some (w64 lane)
  | 0x01 => some (w64 g.groupIdx)
  | 0x02 => some (w64 (blockReg s g).1)
  | 0x03 => some (w64 (blockN s g + 2 ^ 16 * g.rolen + 2 ^ 32 * g.first))
  | 0x04 => some (w64 (blockReg s g).2)
  | 0x05 => some (w64 g.stage)
  | 0x06 => some (w64 core)
  | 0x07 => some (w64 (clusterOf core))
  | 0x08 => some (w64 (dieOf core))
  | 0x09 => some (w64 s.regs.nodeId)
  | 0x0a => some (w64 g.tenant)
  | 0x0b => some (w64 g.prio)
  | 0x0c => some g.tlsBase
  | 0x0d => some g.tlsStride
  | 0x10 => some g.fpstat
  | 0x11 => some g.fpctl
  | 0x12 => some g.mode
  | 0x13 => some (w64 s.cur.clock)
  | 0x14 => some (s.core core).oob
  | 0x15 => some (s.core core).dropped
  | 0x18 => some x.trapPc
  | 0x19 => some x.trapCause
  | 0x1a => some x.trapInfo0
  | 0x1b => some x.trapInfo1
  | _ => none

/-- A system register on a Folbel core or the fabric processor (R314, R355). -/
def procSysRead (s : State) (code : Nat) : Option W64 :=
  match s.cur.seq, code with
  | .folbel, 0x00 => some (w64 s.cur.unit)
  | .folbel, 0x08 => some (w64 (s.cur.unit / 16))
  | .fabric, 0x09 => some (w64 s.regs.nodeId)
  | _, 0x0a => some (w64 (curTenant s))
  | _, 0x13 => some (w64 s.cur.clock)
  | _, _ => none

/-- `sread` (R177, R178). -/
def opSread (h : Hdr) (f : Form) (s : State) : State :=
  match s.cur.seq with
  | .group => groupIssue 0x1a h f (fun i g s =>
      match sysRead s i.k g ((lowest i.act).getD 0) i.o.a with
      | some x => some (scalarResult i i.o.d x s)
      | none => some (illegal i i.act 0x11 s)) s
  | _ => procIssue 0x1a h f (fun o p s =>
      match procSysRead s o.a with
      | some x => .done (p.put o.d x) s
      | none => .fault cILLEGAL 0x11 0) s

/-- SREAD (R177). -/
def execSread (h : Hdr) (d a : BitVec 7) (s : State) : Out := .next (opSread h (.single d a) s)

/-- `swrite` of a writable register: reserved bits are written as 0, RM 5 to 7 leave RM as it is (R129, R426). -/
def sysWrite (s : State) (i : Iss) (trap : Bool) (code : Nat) (x : W64) : Option State :=
  match code with
  | 0x10 => some (s.updGroup i.k fun g => { g with fpstat := x &&& 31 })
  | 0x11 => some (s.updGroup i.k fun g => if x.toNat % 8 ≤ 4 then { g with fpctl := x &&& 7 } else g)
  | 0x12 => some (s.updGroup i.k fun g => { g with mode := x &&& 1 })
  | 0x14 => some (s.updCore (i.k / 128) fun c => { c with oob := x })
  | 0x15 => some (s.updCore (i.k / 128) fun c => { c with dropped := x })
  | 0x18 => if trap then some (s.updGroup i.k fun g => g.updLanes i.act fun _ l => { l with trapPc := x }) else none
  | _ => none

/-- `swrite` (R177, R178). -/
def opSwrite (h : Hdr) (f : Form) (s : State) : State :=
  match s.cur.seq with
  | .group => groupIssue 0x1b h f (fun i g s =>
      let trap := (g.lane ((lowest i.act).getD 0)).trap
      match sysWrite s i trap i.o.d (g.readS i.now i.o.a) with
      | some s => some s
      | none => some (illegal i i.act 0x11 s)) s
  | _ => procIssue 0x1b h f (fun _ _ _ => .fault cILLEGAL 0x11 0) s

/-- SWRITE (R177). -/
def execSwrite (h : Hdr) (d a : BitVec 7) (s : State) : Out := .next (opSwrite h (.single d a) s)

/-! ## Predicates and masks (R195 to R198) -/

/-- `elect` (R195). -/
def opElect (h : Hdr) (f : Form) (s : State) : State :=
  groupIssue 0x30 h f (fun i _ s =>
    let bit := match lowest i.act with | some l => laneBit l | none => 0
    some (s.updGroup i.k fun g => g.writeP i.now i.o.d i.act bit (readyClock i.now 2 1 0))) s

/-- ELECT (R195). -/
def execElect (h : Hdr) (d : BitVec 7) (s : State) : Out := .next (opElect h (.single d 0) s)

/-- `jmov` (R196). OPT 2 applies the release test of R27. -/
def opJmov (h : Hdr) (f : Form) (s : State) : State :=
  groupIssue 0x31 h f (fun i g s =>
    let o := i.o
    let ready := readyClock i.now 2 1 0
    match o.opt with
    | 0 => some (s.updGroup i.k fun g' => g'.writeS i.now o.d (g.readJ i.now o.a) ready)
    | 1 => some (s.updGroup i.k fun g' => g'.writeS i.now o.d (getZ g.jarr o.a) ready)
    | _ => some (s.updGroup i.k fun g' => (g'.writeJ i.now o.d (g.readS i.now o.a) ready).rejoinTest o.d)) s

/-- JMOV (R196). -/
def execJmov (h : Hdr) (m : Multi) (s : State) : Out := .next (opJmov h (.multi m) s)

/-- The result of `plog` (R197); the single form is pD AND pA. -/
def plogVal (opt : Nat) (a b : W64) : W64 :=
  match opt with
  | 0 => a &&& b | 1 => a ||| b | 2 => a ^^^ b | 3 => a &&& ~~~b | 4 => ~~~a | _ => a

/-- `plog` (R197). -/
def opPlog (h : Hdr) (f : Form) (s : State) : State :=
  groupIssue 0x32 h f (fun i g s =>
    let o := i.o
    let x := plogVal o.opt (g.readP i.now o.a) (g.readP i.now o.b)
    some (s.updGroup i.k fun g => g.writeP i.now o.d i.act x (readyClock i.now 2 1 0))) s

/-- PLOG (R197). -/
def execPlog (h : Hdr) (d a : BitVec 7) (s : State) : Out := .next (opPlog h (.single d a) s)

/-- PLOG_EXT (R197). -/
def execPlogExt (h : Hdr) (m : Multi) (s : State) : Out := .next (opPlog h (.multi m) s)

/-- `pmov` (R198). -/
def opPmov (h : Hdr) (f : Form) (s : State) : State :=
  groupIssue 0x33 h f (fun i g s =>
    let o := i.o
    let ready := readyClock i.now 2 1 0
    if o.opt = 0 then some (s.updGroup i.k fun g' => g'.writeP i.now o.d i.act (g.readS i.now o.a) ready)
    else some (s.updGroup i.k fun g' => g'.writeS i.now o.d (g.readP i.now o.a) ready)) s

/-- PMOV (R198). -/
def execPmov (h : Hdr) (d a : BitVec 7) (s : State) : Out := .next (opPmov h (.single d a) s)

/-- PMOV_EXT (R198). -/
def execPmovExt (h : Hdr) (m : Multi) (s : State) : Out := .next (opPmov h (.multi m) s)

end Sys2Proof.Machine
end

