-- ==== Sys2Proof/Machine/Control.lean ====
section
/-!
DEFINITION. Branches, rejoin, exit, software traps, yielding and the supervisor instructions that touch no memory
(spec 09 R180 to R182, R185, R187, R191, R192, R194, R200, R203).
-/

namespace Sys2Proof.Machine

/-- The displacement of a branch in bytes: OFFSET in words, or the literal (R146, R180). -/
def branchDisp (o : Opnd) (f : Form) : W64 :=
  match f with
  | .single d a => w64 (ofSigned 64 (4 * toSigned 14 (offOf d a).toNat))
  | .multi _ => o.lit

/-- A literal displacement that is not a multiple of 4 (R180, R426). -/
def dispBad (o : Opnd) : Bool := o.sl && o.lit.toNat % 4 ≠ 0

/-- Send lanes to a target. -/
def sendLanes (i : Iss) (m : W64) (pc : Nat → W64) (s : State) : State :=
  s.updGroup i.k fun g => g.updLanes m fun l x => { x with pc := pc l }

/-- A byte offset in a region, from a 64-bit displacement (R313, R355). -/
def procTarget (s : State) (d : W64) : Nat := (s.cur.pc + d).toNat

/-- `bra` (R180). -/
def opBra (h : Hdr) (f : Form) (s : State) : State :=
  match s.cur.seq with
  | .group => groupIssue 0x20 h f (fun i _ s =>
      if dispBad i.o then some (illegal i i.act 0x0b s)
      else some (sendLanes i i.act (fun _ => s.cur.pc + branchDisp i.o f) s)) s
  | _ => procIssue 0x20 h f (fun o p s =>
      if dispBad o then .fault cILLEGAL 0x0b 0 else .done { p with pc := procTarget s (branchDisp o f) } s) s

/-- BRA (R180). -/
def execBra (h : Hdr) (off : BitVec 14) (s : State) : Out := .next (opBra h (Form.ofOff off) s)

/-- BRA_LIT (R180). -/
def execBraLit (h : Hdr) (d a : BitVec 7) (v : W64) (s : State) : Out := .next (opBra h (.multi (.lit d a v)) s)

/-- `sbra` (R181): D bit 0 is the sense; every lane of the bundle goes to one address. -/
def sbraTaken (o : Opnd) (a : W64) : Bool := if o.d % 2 = 0 then a ≠ 0 else a = 0

/-- `sbra` (R181). -/
def opSbra (h : Hdr) (f : Form) (s : State) : State :=
  match s.cur.seq with
  | .group => groupIssue 0x21 h f (fun i g s =>
      if dispBad i.o then some (illegal i i.act 0x0b s)
      else if sbraTaken i.o (g.readS i.now i.o.a) then
        some (sendLanes i s.cur.lanes (fun _ => s.cur.pc + i.o.lit) s)
      else some s) s
  | _ => procIssue 0x21 h f (fun o p s =>
      if dispBad o then .fault cILLEGAL 0x0b 0
      else if sbraTaken o (p.get o.a) then .done { p with pc := procTarget s o.lit } s else .done p s) s

/-- SBRA (R181). -/
def execSbra (h : Hdr) (d a : BitVec 7) (v : W64) (s : State) : Out := .next (opSbra h (.multi (.lit d a v)) s)

/-- The target of each lane of an indirect branch (R182). -/
def brxTarget (i : Iss) (g : Group) (l : Nat) : W64 :=
  if i.o.opt = 1 then w64 (g.readV i.now i.o.a l + 2 ^ 32 * g.readV i.now (i.o.a + 1) l) else g.readS i.now i.o.a

/-- The lanes whose target is misaligned (R182). -/
def brxBad (i : Iss) (g : Group) : List LaneFault :=
  ((lanesOf i.act).filter fun l => (brxTarget i g l).toNat % 4 ≠ 0).map fun l =>
    { lane := l, cause := cALIGN, info := brxTarget i g l }

/-- `brx` (R182). -/
def opBrx (h : Hdr) (f : Form) (s : State) : State :=
  match s.cur.seq with
  | .group => groupIssue 0x22 h f (fun i g s =>
      let bad := brxBad i g
      let good := i.act &&& ~~~maskOf (bad.map LaneFault.lane)
      some (precise i.k bad (sendLanes i good (brxTarget i g) s))) s
  | _ => procIssue 0x22 h f (fun o p s =>
      let t := p.get o.a
      if t.toNat % 4 ≠ 0 then .fault cALIGN 0 t else .done { p with pc := t.toNat } s) s

/-- BRX (R182). -/
def execBrx (h : Hdr) (a : BitVec 7) (s : State) : Out := .next (opBrx h (.single 0 a) s)

/-- BRX_EXT (R182). -/
def execBrxExt (h : Hdr) (m : Multi) (s : State) : Out := .next (opBrx h (.multi m) s)

/-- `rset` (R26, R185). -/
def opRset (h : Hdr) (f : Form) (s : State) : State :=
  groupIssue 0x26 h f (fun i _ s => some (s.updGroup i.k fun g =>
    { g.writeJ i.now i.o.d i.act i.now with jarr := setZ g.jarr i.o.d 0 })) s

/-- RSET (R26). -/
def execRset (h : Hdr) (d : BitVec 7) (s : State) : Out := .next (opRset h (.single d 0) s)

/-- `rjoin` (R27, R185): the lanes that arrive leave the bundle, and those that it releases join bundles at the next regroup
(R23). An expected mask that is read early is the old one throughout (R157). -/
def opRjoin (h : Hdr) (f : Form) (s : State) : State :=
  groupIssue 0x27 h f (fun i g s =>
    let expected := g.readJ i.now i.o.d
    let arriving := i.act &&& expected &&& ~~~g.exited
    let s := s.updGroup i.k fun g =>
      let g := g.park arriving (fun _ => .rejoin i.o.d) fun _ => i.next
      { g with jarr := setZ g.jarr i.o.d (getZ g.jarr i.o.d ||| arriving) }.rejoinWith expected i.o.d
    some { s with cur := { s.cur with away := s.cur.away ||| arriving } }) s

/-- RJOIN (R27). -/
def execRjoin (h : Hdr) (d : BitVec 7) (s : State) : Out := .next (opRjoin h (.single d 0) s)

/-- The port whose element an exit that retires the group would leave incomplete (R398). -/
def exitStream (s : State) (g : Group) (act : W64) : Option Bind :=
  if g.exited ||| act = BitVec.allOnes 64 then
    (blockOf s g).bind fun b => g.binds.find? (partStream b)
  else none

/-- `exit` (R28, R36, R37, R187). -/
def opExit (h : Hdr) (f : Form) (s : State) : State :=
  (if s.cur.seq = .group then retireGroup (gkey s.cur.unit s.cur.sub) else id) <| groupIssue 0x29 h f (fun i g s =>
    let trap := (g.lane ((lowest i.act).getD 0)).trap
    if g.persist && !g.endSeen && !trap then some (illegal i i.act 0x0e s)
    else match exitStream s g i.act with
      | some b => some (precise i.k (sameFault i.act cSTREAM 0x06 0 (w64 (b.q + 2 ^ 16 * b.reg))) s)
      | none => some (exitLanes i.k i.act s)) s

/-- EXIT (R187). -/
def execExit (h : Hdr) (s : State) : Out := .next (opExit h (.single 0 0) s)

/-- `trap` (R191): TRAPPC is *next* and no record is posted; in trap mode it is refused. -/
def opTrap (h : Hdr) (f : Form) (s : State) : State :=
  groupIssue 0x2c h f (fun i g s =>
    let code := match f with | .single d a => (offOf d a).toNat | .multi _ => 0
    if (g.lane ((lowest i.act).getD 0)).trap then some (illegal i i.act 0x0f s)
    else some (takeTrap i.k { pc := i.next, readyAt := i.now + 1 } (sameFault i.act cSWTRAP 0 0 (w64 code)) s)) s

/-- TRAP (R191). -/
def execTrap (h : Hdr) (off : BitVec 14) (s : State) : Out := .next (opTrap h (Form.ofOff off) s)

/-- `yield` (R192). -/
def opYield (h : Hdr) (f : Form) (s : State) : State :=
  groupIssue 0x2d h f (fun i g s =>
    if (g.lane ((lowest i.act).getD 0)).trap then some s
    else some (s.updGroup i.k fun g => { g with yieldUntil := i.now + 2 })) s

/-- YIELD (R192). -/
def execYieldI (h : Hdr) (s : State) : Out := .next (opYield h (.single 0 0) s)

/-- `ifence` (R194): the bundle gives up its instruction-buffer line. -/
def opIfence (h : Hdr) (f : Form) (s : State) : State :=
  groupIssue 0x2e h f (fun _ _ s => some { s with cur := { s.cur with dropLine := true } }) s

/-- IFENCE (R194). -/
def execIfence (h : Hdr) (s : State) : Out := .next (opIfence h (.single 0 0) s)

/-- `rtrap` (R200, R382): outside trap mode it raises PRIV. -/
def opRtrap (h : Hdr) (f : Form) (s : State) : State :=
  groupIssue 0xe0 h f (fun i g s =>
    if (g.lane ((lowest i.act).getD 0)).trap then
      some { returnTrap i.k i.act s with cur := { s.cur with away := i.act } }
    else some (precise i.k (sameFault i.act cPRIV 0 0 0) s)) s

/-- RTRAP (R200). -/
def execRtrap (h : Hdr) (m : Multi) (s : State) : Out := .next (opRtrap h (.multi m) s)

/-- `sleep` (R203): the bundle is held for b core clocks, or, issued again after a save, for what remained (R204). -/
def opSleep (h : Hdr) (f : Form) (s : State) : State :=
  groupIssue 0xe3 h f (fun i g s =>
    let b := (bWhole i.o (bScalar g i.now i.o)).toNat
    let left := g.naps.find? fun x => x.1 &&& s.cur.lanes ≠ 0
    let b := match left with | some x => x.2 | none => b
    let s := if left.isSome then s.updGroup i.k fun g => { g with naps := g.naps.filter fun x => x.1 &&& s.cur.lanes = 0 } else s
    if b = 0 then some s else some { s with cur := { s.cur with hold := some (.sleep (i.now + b + 1) s.cur.pc) } }) s

/-- SLEEP (R203). -/
def execSleep (h : Hdr) (m : Multi) (s : State) : Out := .next (opSleep h (.multi m) s)

end Sys2Proof.Machine
end

