-- ==== Sys2Proof/Machine/L2.lean ====
section
/-!
DEFINITION. Places by tier, lines in the L2 slices with their replacement, and the events they raise for Folbel handlers
(spec 04 R67, R69 to R71; 14 R303 to R307, R310).
-/

namespace Sys2Proof.Machine

/-! ## Places (R67, R69, R70) -/

/-- The node of a pod-global address (R67). -/
def nodeOf (va : Nat) : Nat := bitsOf va 62 53
/-- A physical address of the near tier (R69). -/
def nearPA (pa : Nat) : Bool := decide (pa < 2 ^ 37) && decide (pa % 2 ^ 35 < 30 * 2 ^ 30)
/-- A physical address of the far tier (R69). -/
def farPA (pa : Nat) : Bool := decide (2 ^ 40 ≤ pa) && decide (pa < 2 ^ 41)
/-- The home die of a physical address by tier (R69). -/
def homeDie (tier pa : Nat) : Nat :=
  match tier with | 0 => bitsOf pa 36 35 | 1 => bitsOf pa 9 8 ^^^ bitsOf pa 17 16 | _ => 0
/-- The L2 slice of a physical address (R70). -/
def sliceOf (tier pa : Nat) : Nat :=
  16 * homeDie tier pa + (bitsOf pa 10 7 ^^^ bitsOf pa 14 11 ^^^ bitsOf pa 18 15 ^^^ bitsOf pa 22 19)
/-- The tier of a place in `mem`. -/
def tierOf (pa : Nat) : Nat := if 2 ^ 64 ≤ pa then 2 else if pa < 2 ^ 37 then 0 else 1
/-- The home slice of a place in `mem` (R70). -/
def sliceAt (pa : Nat) : Nat := sliceOf (tierOf pa) pa

/-! ## Events (R304, R307, R310) -/

/-- A tenant's handlers. -/
def State.handler (s : State) (t : Nat) : HandlerTab := (getN s.handlers t).getD {}

/-- The index and range entry that hold an address (R304). -/
def HandlerTab.rangeAt (h : HandlerTab) (va : Nat) : Option (Nat × HRange) :=
  (h.ranges.zipIdx.find? fun (r, _) => decide (r.vbase ≤ va) && decide (va < r.vbase + r.vlen)).map fun (r, i) => (i, r)

/-- The entry of an event: index, range entry and word offset (R304). -/
def matchEvent (s : State) (e : SliceEvent) : Option (Nat × HRange × Nat) :=
  match (s.handler e.tenant).rangeAt (128 * e.line) with
  | some (i, r) => let w := r.ents.getD e.kind 0xffff; if w = 0xffff then none else some (i, r, w)
  | none => none

/-- The fate of an event that is posted (R304, R307, R310). -/
inductive Posted where
  | taken | full | unmatched
  deriving DecidableEq, Repr

/-- A granule of a line's bytes in memory is in error: its number in the line (R388). -/
def lineErrors (s : State) (pline : Nat) : List Nat := s.ecc.filterMap fun g => if g / 16 = pline then some (g % 16) else none

/-- Post an event to a slice's queue, or to its hold buffer while the tenant's table is loading (R304, R307, R310). -/
def postEvent (n : Nat) (e : SliceEvent) (s : State) : Posted × State :=
  let x := s.slice n
  if (s.handler e.tenant).busy then
    if x.holdBuf.length < 64 then (.taken, s.updSlice n fun x => { x with holdBuf := x.holdBuf ++ [e] }) else (.full, s)
  else if (matchEvent s e).isNone then (.unmatched, s)
  else if x.queue.length < 64 then (.taken, s.updSlice n fun x => { x with queue := x.queue ++ [e] })
  else (.full, s)

/-! ## Lines (R9, R71, R303, R305) -/

/-- The slice of a line. -/
def sliceOfLine (pline : Nat) : Nat := sliceAt (128 * pline)

/-- A line is in its slice and no handler holds it (R305, R306). -/
def l2Ready (s : State) (pline : Nat) : Bool :=
  match getN s.l2 pline with | some l => !l.filling && !l.held | none => false

/-- A line that is not on its way and that no handler holds: an untagged request may use it, filling it if absent. -/
def l2Free (s : State) (pline : Nat) : Bool :=
  match getN s.l2 pline with | some l => !l.filling && !l.held | none => true

/-- A line leaves its slice: a tagged one that matches posts an EVICT event with its snapshot (R303, R305). -/
def evictL2 (pline : Nat) (s : State) : State :=
  match getN s.l2 pline with
  | none => s
  | some x =>
    if x.filling || x.held then s
    else
      let s1 := { s with l2 := delN s.l2 pline }
      match x.tag with
      | none => s1
      | some (t, line) =>
        (postEvent (sliceOfLine pline)
          { kind := 2, tenant := t, line, pline, snap := readBytes s.mem (128 * pline) 128, snapBad := lineErrors s pline } s1).2

/-- The lines that a slice of 4 MiB holds (R9). -/
def l2Lines : Nat := 32768

/-- The least recently used line of a slice that may leave (R71). -/
def l2Victim (s : State) (n : Nat) : Option Nat :=
  ((s.l2.filter fun (p, x) => sliceOfLine p = n && !x.filling && !x.held).foldl (fun (b : Option (Nat × L2Line)) y => match b with
    | some x => if y.2.used < x.2.used then some y else b
    | none => some y) none).map Prod.fst

/-- The slice of a line holds as many lines as it can (R9). -/
def l2Full (s : State) (pline : Nat) : Bool :=
  decide (l2Lines ≤ s.l2.length) && decide (l2Lines ≤ (s.l2.filter fun (p, _) => sliceOfLine p = sliceOfLine pline).length)

/-- No line may enter a slice: it is full, and each of its lines is on its way or held (R9, R306). -/
def l2Shut (s : State) (pline : Nat) : Bool := l2Full s pline && (l2Victim s (sliceOfLine pline)).isNone

/-- Room for one more line in a full slice: the least recently used line leaves. -/
def l2Room (pline : Nat) (s : State) : State :=
  if l2Full s pline then (match l2Victim s (sliceOfLine pline) with | some p => evictL2 p s | none => s) else s

/-- A request uses a line that is there; one of a non-temporal record or command leaves its age as it is (R71). -/
def useL2 (pline : Nat) (nt : Bool) (s : State) : State :=
  if nt then s
  else match getN s.l2 pline with
    | some x => { s with l2 := putN s.l2 pline { x with used := s.l2Tick + 1 }, l2Tick := s.l2Tick + 1 }
    | none => s

/-- A line is installed, non-temporal ones in the least-recently-used way (R71, R303). -/
def installL2 (pline : Nat) (tag : Option (Nat × Nat)) (filling nt : Bool) (s : State) : State :=
  let s := l2Room pline s
  useL2 pline nt { s with l2 := putN s.l2 pline { filling, tag } }

/-- The line that an event's choice evicts. -/
def evictChoice (v : Option Nat) (pline : Nat) (s : State) : State :=
  match v with | some p => if p = pline then s else evictL2 p s | none => s

/-- A request misses: the fill is sent and a MISS event may be posted (R303 to R305). It waits while no line may enter the
slice. -/
def startFill (pline : Nat) (tag : Option (Nat × Nat)) (v : Option Nat) (s : State) (nt : Bool := false) : State :=
  if (getN s.l2 pline).isSome then s
  else
    let s := evictChoice v pline s
    if l2Shut s pline then s
    else
      let s := installL2 pline tag true nt s
      match tag with
      | none => s
      | some (t, line) => (postEvent (sliceOfLine pline) { kind := 0, tenant := t, line, pline } s).2

/-- The data of a fill arrive (R305, R307): the line is installed, or waits for its FILL handler. -/
def fillArrives (pline : Nat) (s : State) : State :=
  match getN s.l2 pline with
  | none => s
  | some x =>
    if !x.filling then s
    else match x.tag with
      | none => s.updL2 pline fun x => { x with filling := false }
      | some (t, line) =>
        let e : SliceEvent := { kind := 1, tenant := t, line, pline }
        match postEvent (sliceOfLine pline) e s with
        | (.taken, s) => s.updL2 pline fun x => { x with filling := false, held := true }
        | (.unmatched, s) => s.updL2 pline fun x => { x with filling := false }
        | (.full, s) =>
          (s.updL2 pline fun x => { x with filling := false, held := true }).updSlice (sliceOfLine pline)
            fun y => { y with lateFills := y.lateFills ++ [{ e with loading := (s.handler t).busy }] }

/-- An untagged request uses a line: it is installed untagged if absent (R71, R303). Where no line may enter the slice it
leaves no line there: DESIGN CHOICE, assumption 26. -/
def touchL2 (pline : Nat) (s : State) (nt : Bool := false) : State :=
  if (getN s.l2 pline).isSome then useL2 pline nt s
  else if l2Shut s pline then s else installL2 pline none false nt s

/-- L2_FILL_DATA (R305): `idx` is the line. -/
def execL2FillData (s : State) : Out := .next (fillArrives s.input.idx s)

end Sys2Proof.Machine
end

