-- ==== Sys2Proof/Machine/Trans.lean ====
section
/-!
DEFINITION. Translation: PTEs and the walk, permission checks, TLBs, walk requests, and the point at which a write is
performed at L2 (spec 06 R110 to R118; 04 R69, R70, R76; 09 R189; 21 R390).
-/

namespace Sys2Proof.Machine

/-! ## PTEs (R112, R113) -/

/-- Fields of a leaf (R112). -/
def Xlat.tier (x : Xlat) : Nat := fld x.pte 8 7
def Xlat.owner (x : Xlat) : Nat := fld x.pte 57 56 * 32 + fld x.pte 15 11
def Xlat.canW (x : Xlat) : Bool := x.pte.getLsbD 1
def Xlat.canX (x : Xlat) : Bool := x.pte.getLsbD 2
def Xlat.isA (x : Xlat) : Bool := x.pte.getLsbD 3
def Xlat.isD (x : Xlat) : Bool := x.pte.getLsbD 4
/-- The address that a leaf gives a virtual address: physical, or untranslated PCIe for the host tier (R112, R113). -/
def Xlat.addr (x : Xlat) (va : Nat) : Nat :=
  if x.large then fld x.pte 55 28 * 2 ^ 28 + va % 2 ^ 28 else fld x.pte 55 16 * 2 ^ 16 + va % 2 ^ 16
/-- Where host physical addresses stand in `mem`. -/
def hostAt (a : Nat) : Nat := 2 ^ 64 + a
/-- The place of a virtual address in `mem`: by the host page that ATS gave, for the host tier (R113, R365). -/
def Xlat.pa (x : Xlat) (va : Nat) : Nat :=
  match x.hostPage with | some p => hostAt (p * 4096 + va % 4096) | none => x.addr va
/-- The address, without its node, that a leaf takes to a physical address. -/
def Xlat.vaOf (x : Xlat) (pa : Nat) : Nat :=
  if x.large then x.vpage * 2 ^ 28 + pa % 2 ^ 28 else x.vpage * 2 ^ 16 + pa % 2 ^ 16
/-- The entry covers a tenant's address. -/
def Xlat.covers (x : Xlat) (tenant va : Nat) : Bool :=
  x.tenant = tenant && x.vpage = (va % 2 ^ 53) / (if x.large then 2 ^ 28 else 2 ^ 16)

/-- The outcome of a walk (R113). -/
inductive Walk where
  | fault (cause : Nat)
  /-- A translation wait: the physical line of the deciding entry, and whether it has V = 0. -/
  | wait (pline : Nat) (v0 : Bool)
  | found (x : Xlat)
  deriving DecidableEq, Repr

/-- A valid entry at a level that raises TRANSLATE (R112, R113). -/
def pteBad (level : Nat) (p : W64) : Bool :=
  let owner := fld p 57 56 ≠ 0 || fld p 15 11 ≠ 0
  if p.getLsbD 10 then
    level = 1 || fld p 6 5 = 3 || fld p 8 7 = 3 || (fld p 6 5 ≠ 2 && owner) || (level = 2 && fld p 27 16 ≠ 0)
  else
    level = 3 || owner || fld p 9 1 ≠ 0 || !nearPA (fld p 55 16 * 2 ^ 16)

/-- The walk from a level's table (R111, R113). -/
def walkFrom (s : State) (tenant va : Nat) : Nat → Nat → Nat → Walk
  | 0, _, _ => .fault cTRANSLATE
  | fuel + 1, level, table =>
    let idx := match level with | 1 => bitsOf va 52 40 | 2 => bitsOf va 39 28 | _ => bitsOf va 27 16
    let at_ := table + 8 * idx
    let p := w64 (readNat s.mem at_ 8)
    if s.ecc.contains (at_ / 8) then .fault cECC
    else if !p.getLsbD 0 then .wait (at_ / 128) true
    else if pteBad level p then .fault cTRANSLATE
    else if !p.getLsbD 10 then walkFrom s tenant va fuel (level + 1) (fld p 55 16 * 2 ^ 16)
    else if p.getLsbD 9 then .wait (at_ / 128) false
    else
      let large := level = 2
      .found { tenant, vpage := (va % 2 ^ 53) / (if large then 2 ^ 28 else 2 ^ 16), large, pte := p, pteAt := at_ }

/-- The index of the non-leaf entries that lead to a level, by address (R111). -/
def walkPrefix (level va : Nat) : Nat := if level = 2 then bitsOf va 52 40 else bitsOf va 52 28

/-- The table of a level that a die's walker holds in its cache (R115). -/
def Die.cached (d : Die) (tenant level va : Nat) : Option Nat :=
  (d.cache.find? fun c => c.1 = tenant && c.2.1 = level && c.2.2.1 = walkPrefix level va).map fun c => c.2.2.2

/-- The level-1 table of a tenant (R110). -/
def rootOf (s : State) (tenant : Nat) : Nat := fld (getZ s.regs.asctx tenant) 36 16 * 2 ^ 16

/-- Where a walk at a die begins: the deepest table that the walker's cache gives, else level 1 (R111, R115). -/
def walkStart (s : State) (d tenant va : Nat) : Nat × Nat :=
  match (s.die d).cached tenant 3 va, (s.die d).cached tenant 2 va with
  | some t, _ => (3, t)
  | none, some t => (2, t)
  | none, none => (1, rootOf s tenant)

/-- A tenant may translate: EN is set and the level-1 table lies in the near tier (R110, R113). -/
def rootGood (s : State) (tenant : Nat) : Bool :=
  let ctx := getZ s.regs.asctx tenant
  ctx.getLsbD 0 && nearPA (rootOf s tenant)

/-- Where a walk begins: at level 1 where it has been restarted (R117), else as `walkStart` says. -/
def walkBegin (s : State) (d tenant va : Nat) (top : Bool) : Nat × Nat :=
  if top then (1, rootOf s tenant) else walkStart s d tenant va

/-- The walk of a tenant's address at a die (R110, R113, R115, R117). -/
def walk (s : State) (d tenant va : Nat) (top : Bool := false) : Walk :=
  if !rootGood s tenant then .fault cTRANSLATE
  else walkFrom s tenant va 3 (walkBegin s d tenant va top).1 (walkBegin s d tenant va top).2

/-- The tables that a walk reads from a level on: level and address. -/
def walkTables (s : State) (va : Nat) : Nat → Nat → Nat → List (Nat × Nat)
  | 0, _, _ => []
  | fuel + 1, level, table =>
    let idx := match level with | 1 => bitsOf va 52 40 | 2 => bitsOf va 39 28 | _ => bitsOf va 27 16
    let at_ := table + 8 * idx
    let p := w64 (readNat s.mem at_ 8)
    (level, table) ::
      (if s.ecc.contains (at_ / 8) || !p.getLsbD 0 || pteBad level p || p.getLsbD 10 then []
       else walkTables s va fuel (level + 1) (fld p 55 16 * 2 ^ 16))

/-- The tables that the walk of an address at a die reads. -/
def walkPath (s : State) (d tenant va : Nat) (top : Bool := false) : List (Nat × Nat) :=
  if rootGood s tenant then walkTables s va 3 (walkBegin s d tenant va top).1 (walkBegin s d tenant va top).2 else []

/-- The lines of the entries that a walk reads. -/
def walkLines (s : State) (d tenant va : Nat) (top : Bool := false) : List Nat :=
  (walkPath s d tenant va top).map fun (level, table) =>
    (table + 8 * (match level with | 1 => bitsOf va 52 40 | 2 => bitsOf va 39 28 | _ => bitsOf va 27 16)) / 128

/-- No handler holds a line that a walk reads and none is on its way (R306). -/
def walkOpen (s : State) (d tenant va : Nat) (top : Bool := false) : Bool := (walkLines s d tenant va top).all (l2Free s)

/-- A walk has read its entries: their lines are installed untagged, and the walker keeps the non-leaf ones, at most 64,
the oldest leaving (R115, R303). -/
def noteWalk (d tenant va : Nat) (s : State) (top : Bool := false) : State :=
  let new := ((walkPath s d tenant va top).filter fun x => x.1 ≠ 1).map fun (level, table) => (tenant, level, walkPrefix level va, table)
  let s := (walkLines s d tenant va top).foldl (fun s p => touchL2 p s) s
  s.updDie d fun x => { x with cache := (new ++ x.cache.filter fun c => !new.contains c).take 64 }

/-- What an access needs (R114). -/
inductive Want where
  | read | write | fetch
  deriving DecidableEq, Repr

/-- The checks of R114: the requesting core, where there is one. -/
def permit (x : Xlat) (core : Option Nat) (want : Want) : Option Nat :=
  if x.mode = 2 && core ≠ some x.owner then some cMODE
  else if want = .write && !x.canW then some cPERM
  else if want = .fetch && !x.canX then some cPERM
  else none

/-! ## A write performed at L2 -/

/-- A store or atomic to a monitored line (R189): ARMED becomes TRIGGERED and the lanes in `mwait` wake. -/
def wakeMonitors (pline : Nat) (gs : NMap Group) : NMap Group :=
  gs.map fun (k, g) => match g.monitor with
    | .armed l =>
      if l = pline then
        let m := g.parkedOn fun c => c = .monitor
        (k, { g.unpark m with monitor := if m = 0 then .triggered l else .disarmed, mwaitTill := none })
      else (k, g)
    | _ => (k, g)

/-- A store to a line that a walk waits on restarts it (R117). -/
def restartWalks (pline : Nat) (ds : NMap Die) : NMap Die :=
  ds.map fun (d, x) =>
    (d, { x with walks := x.walks.map fun w => if w.wait = some pline then { w with wait := none, top := true } else w })

/-- A full write of a granule clears its error (R390). -/
def clearEcc (ecc : List Nat) (a : Nat) (bs : List (Option Byte)) : List Nat :=
  ecc.filter fun g => !((List.range 8).all fun i =>
    decide (a ≤ 8 * g + i) && ((bs.getD (8 * g + i - a) none).isSome))

/-- A stash entry holds a copy of a physical line (R76, R79). -/
def StashEntry.holds (e : StashEntry) (va pline : Nat) : Bool :=
  match e.tr with | some x => e.st ≠ .invalid && x.pa va / 128 = pline | none => false

/-- A window with its copies of a physical line dropped. -/
def Window.drop (w : Window) (pline : Nat) : Window :=
  { w with entries := w.entries.zipIdx.map fun (e, i) =>
      if e.holds (w.base + 128 * i) pline then { e with st := .invalid } else e }

/-- Drop every core's copy of a line, L1 and stash, but for one core (R76). -/
def dropCopies (pline : Nat) (but : Option Nat) (s : State) : State :=
  let core (c : Nat) (x : Core) : Core :=
    if some c = but then x else { x with l1 := x.l1.filter fun l => l.pline ≠ pline }
  let share (sh : Share) : Share :=
    if some sh.core = but then sh else { sh with windows := sh.windows.map fun (w, win) => (w, win.drop pline) }
  { s with
    cores := s.cores.map fun (c, x) => (c, core c x)
    blocks := s.blocks.map fun (b, blk) => (b, { blk with shares := blk.shares.map share }) }

/-- Bytes are performed at the L2 slice of their line (R76, R95, R99, R117, R189). `core` is the writer's, whose own copy
stays; `hc` drops the other copies first. -/
def performWrite (pa : Nat) (bs : List (Option Byte)) (core : Option Nat) (hc : Bool) (s : State) : State :=
  if bs.all Option.isNone then s
  else
    let s := if hc then dropCopies (pa / 128) core s else s
    { s with
      mem := writeMasked s.mem pa bs
      ecc := clearEcc s.ecc pa bs
      groups := wakeMonitors (pa / 128) s.groups
      dies := restartWalks (pa / 128) s.dies }

/-- The same for whole bytes. -/
def performBytes (pa : Nat) (bs : List Byte) (core : Option Nat) (hc : Bool) (s : State) : State :=
  performWrite pa (bs.map some) core hc s

/-- The dirty bytes that a core's L1 holds of a line. -/
def dirtyOf (l : L1Line) : List (Option Byte) := (l.data.zip l.dirty).map fun (b, d) => if d then some b else none

/-- An L1 line of a core. -/
def Core.line (c : Core) (pline : Nat) : Option L1Line := c.l1.find? fun l => l.pline = pline

/-! ## TLBs (R115, R116, R118) -/

/-- The entry of a core's L1 TLB or its die's L2 TLB. -/
def tlbFind (s : State) (core tenant va : Nat) : Option Xlat :=
  match (s.core core).tlb.find? (fun x => x.covers tenant va) with
  | some x => some x
  | none => (s.die (dieOf core)).tlb.find? fun x => x.covers tenant va

/-- A TLB filled with an entry, the oldest leaving when it is full (R116). -/
def fillTlb (n : Nat) (x : Xlat) (t : List Xlat) : List Xlat :=
  (x :: t.filter fun y => !(y.tenant = x.tenant && y.vpage = x.vpage && y.large = x.large)).take n

/-- Fill the TLBs of a core and its die (R116). -/
def fillTlbs (core : Nat) (x : Xlat) (s : State) : State :=
  (s.updCore core fun c => { c with tlb := fillTlb 256 x c.tlb }).updDie (dieOf core) fun d =>
    { d with tlb := fillTlb 16384 x d.tlb }

/-- The walker sets A, and D for a store, by a compare-and-swap on the leaf (R115, R303): the entry as it then stands. -/
def setAD (x : Xlat) (write : Bool) (s : State) : Xlat × State :=
  let p := x.pte ||| 8 ||| (if write then 16 else 0)
  if p = x.pte then (x, s)
  else ({ x with pte := p }, touchL2 (x.pteAt / 128) (performBytes x.pteAt (toBytes 8 p.toNat) none true s))

/-- A found leaf as a request sees it: the host tier needs ATS (R365), and a physical address must exist (R69); cause 0
marks one that does not. -/
def resolve (s : State) (x : Xlat) (va : Nat) : TrState :=
  let a := x.addr va
  match x.tier with
  | 0 => if nearPA a then .found x else .bad 0
  | 1 => if farPA a then .found x else .bad 0
  | _ =>
    match s.ats.find? (fun e => e.1 = a / 4096) with
    | some e => .found { x with hostPage := some e.2 }
    | none => if s.pri.contains (a / 4096) || s.priLate.contains (a / 4096) then .pri (a / 4096) else .ats x

/-- The state of a request from a TLB (R114 to R116): `todo` asks for a walk. -/
def lookup (s : State) (core tenant va : Nat) (want : Want) : TrState :=
  if nodeOf va ≠ s.regs.nodeId then .remote
  else match tlbFind s core tenant va with
    | none => .todo
    | some x =>
      match permit x (some core) want with
      | some c => .bad c
      | none => if want = .write && !x.isD then .todo else resolve s x va

/-- Ask the die for a walk of a page, merged with one that is pending (R116). While the pending queue is full the request
waits outside it. -/
def askWalk (core tenant va : Nat) (s : State) : State :=
  let page := (va % 2 ^ 53) / 2 ^ 16
  s.updDie (dieOf core) fun d =>
    if (d.walks.any fun w => w.tenant = tenant && w.vpage = page) || decide (1024 ≤ d.walks.length) then d
    else { d with walks := d.walks ++ [{ tenant, vpage := page }] }

/-- The page is in a translation wait at the die (R117). -/
def pageWaits (s : State) (core tenant va : Nat) : Bool :=
  (s.die (dieOf core)).walks.any fun w =>
    w.tenant = tenant && w.vpage = (va % 2 ^ 53) / 2 ^ 16 && w.wait.isSome

/-- The die's pending queue is full (R116). -/
def walksFull (s : State) (core : Nat) : Bool := 
  decide (1024 ≤ (s.die (dieOf core)).walks.length + (if dieOf core = 0 then s.priLate.length else 0))

/-- Begin the translation of one address: its state, and the walk it may need. -/
def beginTr (core tenant va : Nat) (want : Want) (s : State) : TrState × State :=
  match lookup s core tenant va want with
  | .todo => if pageWaits s core tenant va then (.wait, s) else (.todo, askWalk core tenant va s)
  | t => (t, s)

/-- A walk made at once for an agent that parks no lanes: an engine, the command processor, a peer's request (R120, R246).
A and D are set when the access may proceed. `todo`: a line of its entries is held, and the agent asks again (R306). An
agent without a core uses the walker of die 0 (assumption 28). -/
def walkNow (s : State) (tenant va : Nat) (core : Option Nat) (want : Want) : TrState × State :=
  let d := match core with | some c => dieOf c | none => 0
  if nodeOf va ≠ s.regs.nodeId || decide (2 ^ 63 ≤ va) then (.bad cTRANSLATE, s)
  else if !walkOpen s d tenant va then (.todo, s)
  else
  match walk s d tenant va with
  | .fault c => (.bad c, countError c (noteWalk d tenant va s))
  | .wait _ _ => (.wait, noteWalk d tenant va s)
  | .found x =>
    let s := noteWalk d tenant va s
    match permit x core want with
    | some c => (.bad c, s)
    | none =>
      match resolve s x va with
      | .found y => let (x, s) := setAD x (want = .write) s; (.found { y with pte := x.pte }, s)
      | .bad c => (.bad c, { s with hole := true })
      | .ats y => (.ats y, { s with atsAsk := insertNat (y.addr va / 4096) s.atsAsk })
      | t => (t, s)

/-- An agent without lanes meets a translation wait (R45, R117, R120, R246): the request waits at a die, and its demand
record is posted where the deciding entry has V = 0 and no request for the page waits there yet. One that waits for a page
request of the host tier is noted with it (R365). -/
def agentWait (d tenant va : Nat) (r : FaultRec) (s : State) : State :=
  match walk s d tenant va with
  | .wait pline v0 =>
    let page := (va % 2 ^ 53) / 2 ^ 16
    let mine (w : WalkReq) : Bool := w.tenant = tenant && w.vpage = page
    if (s.die d).walks.any mine then
      let upd (w : WalkReq) : WalkReq := if mine w && !w.agents.contains r then { w with agents := w.agents ++ [r] } else w
      s.updDie d fun x => { x with walks := x.walks.map upd }
    else if 1024 ≤ (s.die d).walks.length then s
    else
      let s := if v0 then postRec { r with cause := cTRANSLATE, demand := true } s else s
      s.updDie d fun x => { x with walks := x.walks ++ [{ tenant, vpage := page, wait := some pline, posted := v0, agents := [r] }] }
  | .found x => (match resolve s x va with
    | .pri p => if s.priWait.contains (p, r) then s else { s with priWait := s.priWait ++ [(p, r)] }
    | _ => s)
  | _ => s

end Sys2Proof.Machine
end

