-- ==== Sys2Proof/Machine/Access.lean ====
section
/-!
DEFINITION. Accesses in flight: addressing through buffer records and scratchpad words, translation outcomes lane by lane,
parking and replay, store queues, the commit order, and the work of releases (spec 04 R68, R71 to R79, R88; 05 R91 to R97;
06 R116, R117; 23 R407, R408, R415).
-/

namespace Sys2Proof.Machine

/-! ## Buffer records (R71, R72) -/

/-- The element stride of a record in bytes (R72). -/
def recStride (r : Nat) : Nat := if bitsOf r 111 96 = 0 then 2 ^ recEsize r else bitsOf r 111 96
/-- EXTENT of a record (R71). -/
def recExtent (r : Nat) : Nat := bitsOf r 95 64
/-- BASE of a record (R71). -/
def recBase (r : Nat) : Nat := r % 2 ^ 64
/-- The bytes that a record covers for engine commands (R246). -/
def recBytes (r : Nat) : Nat := recExtent r * 2 ^ recEsize r

/-- Where one lane's access at one position goes. -/
inductive Place where
  /-- An address: virtual, or core and offset for a scratchpad. -/
  | here (core va : Nat)
  /-- Out of bounds with STRICT = 0. -/
  | out
  | bad (cause sub : Nat) (info : W64)
  deriving DecidableEq, Repr

/-- SWZ applied to an address (R71, R72). -/
def swizzle (m a : Nat) : Nat := if m = 0 then a else a ^^^ (bitsOf a (m + 11) (m + 9) * 16)

/-- The steps of R72 for an element index; `align` is the access width where it is not the element size (R174). -/
def placeElem (r i align : Nat) (reads writes : Bool) : Place :=
  let outside := if bitAt r 122 then Place.bad cBOUNDS 0 (w64 i) else .out
  let a0 := (recBase r + i * recStride r) % 2 ^ 64
  let a := swizzle (bitsOf r 119 116) a0
  if recExtent r ≤ i || bitsOf a0 63 53 ≠ bitsOf (recBase r) 63 53 then outside
  else if a % align ≠ 0 then .bad cALIGN 0 (w64 a)
  else if (reads && !bitAt r 120) || (writes && !bitAt r 121) then .bad cPERM 0 (w64 a)
  else .here 0 a

/-! ## Scratchpad addresses (R68, R78) -/

/-- KiB rounded up to a multiple of 4 KiB, in bytes (R53). -/
def area (kib : Nat) : Nat := ceilDiv kib 4 * 4096

/-- The areas of an allocation: starts of the ring, stash and counter areas, and its end (R53, R78). -/
structure Layout where
  ring : Nat
  stash : Nat
  ctr : Nat
  fin : Nat
  nctr : Nat
  deriving DecidableEq, Repr

/-- The layout of a launch's blocks (R53, R78). -/
def Launch.layout (l : Launch) : Layout :=
  let r := area l.tileKb
  let t := r + area l.ringKb
  let c := t + area l.stashKb
  { ring := r, stash := t, ctr := c, fin := c + area (ceilDiv (16 * l.nctr) 1024), nctr := l.nctr }

/-- The layout of a block. -/
def layoutOf (s : State) (b : Block) : Layout :=
  match getN s.launches b.launch with | some l => l.layout | none => { ring := 0, stash := 0, ctr := 0, fin := 0, nctr := 0 }

/-- The core that XCORE and SEL name (R68). -/
def scratchCore (b : Block) (core w : Nat) : Nat := if bitAt w 24 then coreOfCluster b.cluster (bitsOf w 23 22) else core

/-- The checks of R68 and R78 on a scratchpad address word and a size. -/
def placeScratch (s : State) (b : Block) (core w size : Nat) : Place :=
  let l := layoutOf s b
  let c := scratchCore b core w
  let off := w % 2 ^ 21
  if 2 ^ 25 ≤ w || bitAt w 21 || (!bitAt w 24 && bitsOf w 23 22 ≠ 0) || (b.share c).isNone || l.fin < off + size then
    .bad cSCRATCH 0 (w64 w)
  else if l.ctr < off + size then .bad cSCRATCH 1 (w64 w)
  else .here c off

/-- A scratchpad access with its natural alignment (R237). -/
def placeScratchElem (s : State) (b : Block) (core w size : Nat) : Place :=
  match placeScratch s b core w size with
  | .here c off => if off % size ≠ 0 then .bad cALIGN 0 (w64 w) else .here c off
  | p => p

/-- The stash window and entry that hold an offset of an allocation (R79). -/
def Share.stashAt (sh : Share) (off : Nat) : Option (Nat × Nat × Window × StashEntry) :=
  sh.windows.findSome? fun (w, win) =>
    if decide (win.off ≤ off) && decide (off < win.off + win.len) then
      (win.entries[(off - win.off) / 128]?).map fun e => (w, (off - win.off) / 128, win, e)
    else none

/-- The stash entry that an offset of a block's allocation on a core lies in. -/
def stashOf (s : State) (blk core off : Nat) : Option (Nat × Nat × Window × StashEntry) :=
  (getN s.blocks blk).bind fun b => (b.share core).bind (Share.stashAt · off)

/-- The peer's line over which a line of an allocation is mapped by a stash window (R79). -/
def peerLine (s : State) (blk core line : Nat) : Option Nat :=
  match stashOf s blk core (128 * line) with
  | some (_, k, win, _) => if nodeOf win.base ≠ s.regs.nodeId then some (win.base / 128 + k) else none
  | none => none

/-- Change a stash entry. -/
def updEntry (blk core win e : Nat) (f : StashEntry → StashEntry) (s : State) : State :=
  s.updBlock blk fun b => b.updShare core fun sh =>
    match getN sh.windows win with
    | some w => { sh with windows := putN sh.windows win { w with entries := setAt w.entries e (f (w.entries.getD e {})) } }
    | none => sh

/-- Bytes of a block's scratchpad on a core. -/
def scratchBytes (s : State) (blk core off n : Nat) : List Byte :=
  match (getN s.blocks blk).bind (·.share core) with
  | some sh => readBytes sh.scratch off n
  | none => List.replicate n 0

/-- Errors that a condition picks are gone (R390). -/
def clearErrs (p : Spot → Bool) (s : State) : State := if s.errs.isEmpty then s else { s with errs := s.errs.filter fun x => !p x }

/-- Granule `g` meets the bytes from an address. -/
def granuleMeets (g at_ size : Nat) : Bool := decide (at_ / 8 ≤ g) && decide (g ≤ (at_ + size - 1) / 8)

/-- Masked bytes from an address cover a granule whole. -/
def coversGranule (at_ : Nat) (bs : List (Option Byte)) (g : Nat) : Bool :=
  (List.range 8).all fun i => decide (at_ ≤ 8 * g + i) && (bs.getD (8 * g + i - at_) none).isSome

/-- Write masked bytes to a block's scratchpad; a full write of a granule clears its error (R390). -/
def writeScratch (blk core off : Nat) (bs : List (Option Byte)) (s : State) : State :=
  clearErrs (fun x => match x with | .scratch b c g => b = blk && c = core && coversGranule off bs g | _ => false)
    (s.updBlock blk fun b => b.updShare core fun sh => { sh with scratch := writeMasked sh.scratch off bs })

/-- Granules of a block's scratchpad that are in error and that masked bytes from an offset cover in part (R415). -/
def scratchPart (s : State) (blk core off : Nat) (bs : List (Option Byte)) : List Nat :=
  s.errs.filterMap fun x => match x with
    | .scratch b c g =>
      if b = blk && c = core && !coversGranule off bs g &&
        (List.range 8).any (fun i => decide (off ≤ 8 * g + i) && (bs.getD (8 * g + i - off) none).isSome) then some g else none
    | _ => none

/-! ## The copies of one core (R75, R76, R79, R106) -/

/-- Mask bits that newer bytes clear. -/
def clearMask (m : List Bool) (bs : List (Option Byte)) : List Bool := (m.zip bs).map fun (d, b) => d && b.isNone

/-- The entries of a core's stashes that hold a line: block, window, entry, offset in the allocation. -/
def stashCopies (s : State) (core pline : Nat) : List (Nat × Nat × Nat × Nat) :=
  s.blocks.flatMap fun (b, blk) =>
    match blk.share core with
    | none => []
    | some sh => sh.windows.flatMap fun (w, win) => (win.entries.zipIdx.filter fun (e, k) => e.holds (win.base + 128 * k) pline).map
        fun (_, k) => (b, w, k, win.off + 128 * k)

/-- Newer bytes of a line reach the stash copies of a core; those bytes are no longer dirty there. -/
def putStash (core pline : Nat) (bs : List (Option Byte)) (s : State) : State :=
  (stashCopies s core pline).foldl (fun s (b, w, k, off) =>
    updEntry b core w k (fun e =>
      let mask := clearMask e.mask bs
      if mask.contains true then { e with mask } else { e with mask := [], st := .clean, writers := [] })
      (writeScratch b core off bs s)) s

/-- What a core reads of a line reaches its stash copies, but for their dirty bytes. -/
def putStashClean (core pline : Nat) (data : List Byte) (s : State) : State :=
  (stashCopies s core pline).foldl (fun s (b, w, k, off) =>
    match ((getN s.blocks b).bind (·.share core)).bind fun sh => getN sh.windows w with
    | some win =>
      writeScratch b core off (data.zipIdx.map fun (x, i) => if (win.entries.getD k {}).mask.getD i false then none else some x) s
    | none => s) s

/-- A full write of granules of a core's L1 copy clears their errors (R390). -/
def clearL1 (core pline : Nat) (bs : List (Option Byte)) (s : State) : State :=
  clearErrs (fun x => match x with | .l1 c p g => c = core && p = pline && coversGranule 0 bs g | _ => false) s

/-- Newer bytes of a line reach a core's L1 copy; those bytes are no longer dirty there. -/
def putL1 (core pline : Nat) (bs : List (Option Byte)) (s : State) : State :=
  clearL1 core pline bs (s.updCore core fun c => { c with l1 := c.l1.map fun l =>
    if l.pline = pline then { l with data := applyBytes l.data bs, dirty := clearMask l.dirty bs } else l })

/-- The dirty bytes of a stash entry. -/
def StashEntry.dirtyBytes (e : StashEntry) (bs : List Byte) : List (Option Byte) :=
  if e.st = .dirty then (bs.zip e.mask).map fun (b, d) => if d then some b else none else List.replicate 128 none

/-- The DIRTY entries of a line in a core's stashes, and those of other cores that its stores made DIRTY: block, core, window,
entry, offset in the allocation, dirty bytes. -/
def dirtyCopies (s : State) (core pline : Nat) : List (Nat × Nat × Nat × Nat × Nat × List (Option Byte)) :=
  s.blocks.flatMap fun (b, blk) => blk.shares.flatMap fun sh => sh.windows.flatMap fun (w, win) =>
    win.entries.zipIdx.filterMap fun (e, k) =>
      if e.st = .dirty && (sh.core = core || e.writers.contains core) && e.holds (win.base + 128 * k) pline then
        some (b, sh.core, w, k, win.off + 128 * k, e.dirtyBytes (readBytes sh.scratch (win.off + 128 * k) 128))
      else none

/-- The bytes of a line that a core's stores, or stores to its stashes, have made dirty in stashes. -/
def stashDirty (s : State) (core pline : Nat) : List (Option Byte) :=
  (dirtyCopies s core pline).foldl (fun bs x => mergeBytes bs x.2.2.2.2.2) (List.replicate 128 none)

/-- The bytes of a line that are dirty in a core's L1. -/
def l1Dirty (s : State) (core pline : Nat) : List (Option Byte) :=
  match (s.core core).line pline with | some l => dirtyOf l | none => List.replicate 128 none

/-- Bytes that a mask picks are left out. -/
def exceptMask (bs : List Byte) (m : List (Option Byte)) : List (Option Byte) :=
  (bs.zip m).map fun (b, x) => if x.isSome then none else some b

/-! ## Parts of an access -/

/-- The key by which the requests of one access are coalesced: the virtual line, or the scratchpad line of a core (R73). -/
def Req.key (r : Req) : Nat := match r.tr with | .scratch => 2 ^ 62 + r.core * 2 ^ 14 + r.va / 128 | _ => r.va / 128

/-- A request whose translation has not been decided. -/
def TrState.open? : TrState → Bool
  | .todo => true | .ats _ => true | _ => false
/-- A request that waits for a PTE write or a PRI response. -/
def TrState.waits : TrState → Bool
  | .wait => true | .pri _ => true | _ => false
/-- The cause of a refused request. -/
def TrState.cause : TrState → Option Nat
  | .bad c => some c | _ => none
/-- The leaf of a found request. -/
def TrState.leaf : TrState → Option Xlat
  | .found x => some x | _ => none

/-- What an access needs of a page (R114). -/
def AccKind.want : AccKind → Want
  | .store => .write | .atom _ => .write | .cas => .write | .fetch => .fetch | _ => .read

/-- An access that reads data for the group and that later accesses of the group follow (R92). -/
def AccKind.loads : AccKind → Bool
  | .load => true | .atom _ => true | .cas => true | .refill => true | _ => false

/-- The key of the group of an access; slot 128 stands for no group. -/
def Access.gk (a : Access) : Nat := gkey a.core a.slot

/-- The group that issued an access. -/
def accGroup (s : State) (a : Access) : Option Group := if a.slot ≠ 128 then s.group a.gk else none
/-- Change the group that issued an access. -/
def updAccGroup (a : Access) (f : Group → Group) (s : State) : State := if a.slot ≠ 128 then s.updGroup a.gk f else s
/-- Replace an access. -/
def putAcc (a : Access) (s : State) : State := { s with accs := putN s.accs a.id a }

/-- The accesses of a group that are in flight, in issue order. -/
def accsOf (s : State) (core slot : Nat) : List Access :=
  (s.accs.map Prod.snd).filter fun a => a.core = core && a.slot = slot

/-- Loads of a group older than an id that have not been performed (R92). -/
def olderLoads (s : State) (core slot id : Nat) : List Access :=
  (accsOf s core slot).filter fun a => a.kind.loads && !a.parked && decide (a.id < id) && a.reqs.any fun r => r.got.isNone

/-- A save of a tenant is going on (R61). -/
def saving (s : State) (tenant : Nat) : Bool :=
  match s.job with | some j => !j.restore && j.tenants.contains tenant | none => false

/-- A `stampw` that a group issued before an id has not read its value: later accesses come after its acquire (R101, R255).
A save cancels it. -/
def stampwOpen (s : State) (core slot tenant id : Nat) : Bool :=
  !saving s tenant && (accsOf s core slot).any fun a => decide (a.id < id) && (match a.kind with | .stampw _ _ _ => true | _ => false)

/-- How a deferred fault of an access is taken (R379). -/
def deferCtx (s : State) (core : Nat) (pc : W64) (write : Bool) : TrapCtx :=
  { pc, defer := true, write, readyAt := (s.core core).cycle }

/-- The lanes that the lane field of a request stands for: all of a scalar access (R174). -/
def Access.lanesFor (a : Access) (l : Nat) : W64 := if a.scalar then a.lanes else laneBit l

/-- Deferred faults of an access, each with every lane it stands for: one record for each cause and page (R387). -/
def Access.fault (a : Access) (fs : List (Nat × Nat × W64)) (s : State) : State :=
  if a.slot = 128 then s
  else (sortNat (fs.map fun f => f.2.2.toNat / 2 ^ 16)).foldl (fun s page =>
    let here := fs.filter fun f => f.2.2.toNat / 2 ^ 16 = page
    takeTrap a.gk (deferCtx s a.core a.pc (a.kind.want = .write))
      (here.flatMap fun (l, c, info) => (lanesOf (a.lanesFor l)).map fun l => { lane := l, cause := c, info : LaneFault }) s) s

/-! ## Results -/

/-- Write lanes of a vector register that an operation owns; it goes on owning them (R235). -/
def Group.fillV (g : Group) (owner r : Nat) (ls : List (Nat × Nat)) : Group :=
  let own := g.owned owner .v r
  let here := ls.filter fun x => own.getLsbD x.1
  { g with
    vregs := putLanes g.vregs r here
    pend := unpend .v r (maskOf (here.map Prod.fst)) g.pend
    badRegs := healed .v r (maskOf (here.map Prod.fst)) g.badRegs }

/-- Write a scalar register that an operation owns. -/
def Group.fillS (g : Group) (owner r : Nat) (x : W64) : Group :=
  if g.owned owner .s r = 0 then g
  else { g with
    sregs := setZ g.sregs r x
    pend := unpend .s r (BitVec.allOnes 64) g.pend
    badRegs := healed .s r (BitVec.allOnes 64) g.badRegs }

/-- The registers that an element of `size` bytes takes (R233). -/
def regsFor (size : Nat) : Nat := ceilDiv size 4

/-- An element as a load places it: sign-extended for i8 and i16, else zero-extended (R233). -/
def loadedWord (typ size x : Nat) : Nat := if size < 4 && isI typ then ofSigned 32 (toSigned (8 * size) x) else x

/-- Give a request's destination its value. -/
def deliver (a : Access) (r : Req) (x : Nat) (s : State) : State :=
  updAccGroup a (fun g =>
    if a.scalar then g.fillS a.owner r.dst (w64 (ofSigned 64 (intOf a.typ x)))
    else
      let y := loadedWord a.typ r.size x
      (List.range (regsFor r.size)).foldl (fun g j => g.fillV a.owner (r.dst + j) [(r.lane, (y >>> (32 * j)) % 2 ^ 32)]) g) s

/-! ## Ends -/

/-- Older loads of the group still hold an early one back (R92). -/
def pruneAhead (core slot : Nat) (s : State) : State :=
  s.updGroup (gkey core slot) fun g => { g with ahead := g.ahead.filter fun (i, _) => !(olderLoads s core slot i).isEmpty }

/-- The access is complete (R235, R97): destinations are ready, an acquire takes effect, later accesses go on. -/
def dropAccess (a : Access) (s : State) : State :=
  let s := { s with accs := delN s.accs a.id }
  let s := updAccGroup a (fun g =>
    { g.dropScore a.owner (if a.scalar && a.lanes ≠ 0 then BitVec.allOnes 64 else a.lanes) with memHold := g.memHold.filter (· ≠ a.id) }) s
  let s := match a.acq with | some sc => acquireAt a.core sc s | none => s
  if a.slot ≠ 128 then retireGroup a.gk (pruneAhead a.core a.slot s) else s

/-- Lanes whose lines have all been read receive their elements, and their suppressed elements 0 (R235, R379, R408). Pieces
for a peer answer by themselves (R409). The registers of a lane that has received everything are ready (R155, R447). -/
def landLanes (id : Nat) (s : State) : State :=
  match getN s.accs id with
  | none => s
  | some a =>
    let ready (l : Nat) : Bool := !(a.reqs.any fun r => r.lane = l && r.got.isNone && r.tr ≠ .remote)
    let rs := a.reqs.filter fun r => r.got.isSome && ready r.lane
    let zs := a.zeros.filter fun z => ready z.2
    if a.parked then s
    else
      let reqs := a.reqs.filter fun r => !rs.contains r
      let zeros := a.zeros.filter fun z => !zs.contains z
      let s := rs.foldl (fun s r => deliver a r (r.got.getD 0) s) s
      let done := a.lanes &&& ~~~maskOf (reqs.map Req.lane) &&& ~~~maskOf (zeros.map Prod.snd)
      let land (g : Group) : Group :=
        let g := zs.foldl (fun g z => g.fillV a.owner z.1 [(z.2, 0)]) g
        if a.scalar then g else g.dropScore a.owner done
      putAcc { a with reqs, zeros } (updAccGroup a land s)

/-- Fences whose release has been performed and whose earlier loads have returned complete (R97, R241). -/
def pumpFences (core slot : Nat) (s : State) : State :=
  ((accsOf s core slot).filter fun a => a.kind = .fence && a.released).foldl
    (fun s a => if (olderLoads s core slot a.id).isEmpty then dropAccess a s else s) s

/-- Complete an access that has nothing left to do. -/
def finishIfDone (id : Nat) (s0 : State) : State :=
  let s := landLanes id s0
  match getN s.accs id with
  | none => s
  | some a => if a.reqs.isEmpty && !a.parked && a.kind ≠ .fence then pumpFences a.core a.slot (dropAccess a s) else s

/-! ## Translation of requests -/

/-- The block of the group that issued an access. -/
def accBlock (s : State) (a : Access) : Nat := match accGroup s a with | some g => g.block | none => 0

/-- The TLB entries of a page are gone from a core and its die, so that its next use walks. -/
def forgetPage (core tenant va : Nat) (s : State) : State :=
  (s.updCore core fun c => { c with tlb := c.tlb.filter fun x => !x.covers tenant va }).updDie (dieOf core) fun d =>
    { d with tlb := d.tlb.filter fun x => !x.covers tenant va }

/-- A store through a stash entry (R79, R242): PERM where the page forbids writing, and D is set in its leaf by a
compare-and-swap. A leaf in which only A or D has been set since gives the same translation again; where software has changed
it, or a handler holds its line (R306), the walk starts again with the fill of the entry, which is CLEAN (R115). -/
def stashWrite (blk : Nat) (r : Req) (s : State) : Req × State :=
  match stashOf s blk r.core r.va with
  | none => (r, s)
  | some (w, k, win, e) =>
    match e.tr with
    | none => (r, s)
    | some x =>
      if e.st = .invalid then (r, s)
      else if !x.canW then ({ r with tr := .bad cPERM, va := win.base + 128 * k + r.va % 128 }, s)
      else if x.isD then (r, s)
      else
        let now := w64 (readNat s.mem x.pteAt 8)
        if now ||| 24 = x.pte ||| 24 && l2Free s (x.pteAt / 128) then
          let (y, s) := setAD { x with pte := now } true s
          (r, updEntry blk r.core w k (fun e => { e with tr := some y }) s)
        else
          (r, updEntry blk r.core w k (fun e => { e with st := .invalid }) (forgetPage r.core x.tenant (win.base + 128 * k) s))

/-- Note that a request of ATS is outstanding (R365). -/
def noteAts (t : TrState) (va : Nat) (s : State) : State :=
  match t with | .ats x => { s with atsAsk := insertNat (x.addr va / 4096) s.atsAsk } | _ => s

/-- Begin the translation of requests, one walk for each page (R116). -/
def trReqs (a : Access) : List Req → State → List Req × State
  | [], s => ([], s)
  | r :: rs, s =>
    match r.tr with
    | .scratch =>
      let (r, s) := if a.kind.want = .write then stashWrite (accBlock s a) r s else (r, s)
      let (rs, s) := trReqs a rs s
      (r :: rs, s)
    | _ =>
      let (t, s) := beginTr a.core a.tenant r.va a.kind.want s
      let (rs, s) := trReqs a rs (noteAts t r.va s)
      ({ r with tr := t } :: rs, s)

/-- The die's pending queue is full: the core takes no new memory request, and R58 holds the bundle (R116). -/
def walkHeld (s : State) (core : Nat) (vas : List Nat) : Bool := walksFull s core && !vas.isEmpty

/-- The fate of a lane of an access (R408). -/
inductive Fate where
  | undecided | go | fault (pos cause : Nat) (va : Nat) | wait
  deriving DecidableEq, Repr

/-- The fate that the requests of one lane give it (R408): the lowest faulting position decides. -/
def fateOf (rs : List Req) : Fate :=
  if rs.any fun r => r.tr.open? then .undecided
  else
    match (rs.filter fun r => r.tr.cause.isSome).foldl (fun (b : Option Req) r =>
      match b with | some x => if r.pos < x.pos then some r else some x | none => some r) none with
    | some r => .fault r.pos (r.tr.cause.getD 0) r.va
    | none => if rs.any fun r => r.tr.waits then .wait else .go

/-- The lanes of a list of requests. -/
def reqLanes (rs : List Req) : List Nat := sortNat (rs.map Req.lane)

/-- Park lanes of an access for a replay (R117): lanes that have exited, or that wait for something else, do not change
their cause. -/
def parkAccess (a : Access) (rs : List Req) (m : W64) (stash : Bool) (s : State) : State :=
  let (id, s) := s.fresh
  let b : Access := { a with
    id, reqs := rs, lanes := m, parked := true
    zeros := a.zeros.filter fun z => m.getLsbD z.2
    oob := a.oob.filter m.getLsbD }
  let s := putAcc b s
  updAccGroup a (fun g =>
    let free := m &&& ~~~g.exited &&& ~~~(g.parkedOn fun _ => true)
    g.park free (fun _ => if stash then .stash id else .translate id) fun l => (g.lane l).pc) s

/-- The mask that requests stand for. -/
def Access.maskFor (a : Access) (rs : List Req) : W64 := if a.scalar then (if rs.isEmpty then 0 else a.lanes) else maskOf (reqLanes rs)

/-! ## Stash fills (R79) -/

/-- Start the fill of a stash entry, unless it is on its way. -/
def startStashFill (blk core tenant win e : Nat) (pc : W64) (s : State) : State :=
  match (getN s.blocks blk).bind fun b => (b.share core).bind fun sh => getN sh.windows win with
  | none => s
  | some w =>
    if (w.entries.getD e {}).filling then s
    else
      let s := updEntry blk core win e (fun x => { x with filling := true }) s
      let (id, s) := s.fresh
      let va := w.base + 128 * e
      let a : Access := { id, owner := id, core, slot := 128, tenant, kind := .stashFill blk win e, pc, lanes := 0, typ := 0, reqs := [] }
      let (rs, s) := trReqs a [{ lane := 0, pos := 0, va, size := 128, dst := 0, core }] s
      putAcc { a with reqs := rs } s

/-- The entry of a scratchpad request that is INVALID (R79). -/
def staleEntry (s : State) (blk : Nat) (r : Req) : Option (Nat × Nat) :=
  match r.tr with
  | .scratch =>
    match stashOf s blk r.core r.va with
    | some (w, e, _, x) => if x.st = .invalid then some (w, e) else none
    | none => none
  | _ => none

/-- Start the fills of every INVALID entry that requests touch. -/
def fillEntries (a : Access) (rs : List Req) (s : State) : State :=
  let blk := accBlock s a
  rs.foldl (fun s r => match staleEntry s blk r with
    | some (w, e) => startStashFill blk r.core a.tenant w e a.pc s
    | none => s) s

/-- Drop a prefetch request (R122). -/
def countDropped (core n : Nat) (s : State) : State := s.updCore core fun c => { c with dropped := c.dropped + w64 n }

/-- The accesses whose lanes are parked on a stash entry. -/
def entryWaiters (s : State) (blk core win e : Nat) : List Access :=
  (s.accs.map Prod.snd).filter fun a => a.parked && decide (a.slot ≠ 128) && decide (accBlock s a = blk) && a.reqs.any fun r =>
    r.core = core && r.tr = .scratch && (match stashOf s blk core r.va with | some (w, k, _, _) => w = win && k = e | none => false)

/-- Lanes of a mask that are parked on an access go on, unless another parked access names them (R31, R117). -/
def wakeLanes (a : Access) (m : W64) (s : State) : State :=
  let rest := (accsOf s a.core a.slot).filter fun b => b.parked && b.id ≠ a.id
  updAccGroup a (fun g =>
    let mine := (g.parkedOn fun c => c = .translate a.id || c = .stash a.id) &&& m
    (g.unpark mine).updLanes mine fun l x =>
      match rest.find? (fun b => b.lanes.getLsbD l) with
      | some b => { x with park := some (.translate b.id) }
      | none => x) s

/-- Every lane parked on an access goes on. -/
def wakeAccess (a : Access) (s : State) : State := wakeLanes a (BitVec.allOnes 64) s

/-- Lanes that wait for room in the store queue go on (R17, R31). -/
def wakeSpills (k : Nat) (s : State) : State :=
  s.updGroup k fun g =>
    let m := maskOf ((lanesOf (g.parkedOn fun c => c = .refill)).filter fun l => !(g.lane l).stackBusy)
    g.unpark m

/-- OOBCOUNT gains a count (R72, R407). -/
def countOob (core n : Nat) (s : State) : State := s.updCore core fun c => { c with oob := c.oob + w64 n }

/-- A refill that will not land (R399). -/
def stopRefill (a : Access) (m : W64) (s : State) : State :=
  if a.kind = .refill then updAccGroup a (fun g => g.updLanes m fun _ x => { x with stackBusy := false }) s else s

/-- Lanes of a parked access take a fault instead of their replay: those with a request that `bad` picks. The others stay
parked (R408, R417). -/
def failParked (a : Access) (cause : Nat) (bad : Req → Bool) (info : Req → W64) (s : State) : State :=
  let hit := a.reqs.filter bad
  let out := reqLanes hit
  let keep := a.reqs.filter fun r => !out.contains r.lane
  let m := a.maskFor hit
  let fs := out.filterMap fun l => (hit.find? fun r => r.lane = l).map fun r => (l, cause, info r)
  let s := stopRefill a m (wakeLanes a m s)
  if keep.isEmpty then
    let s := a.fault fs s
    pumpFences a.core a.slot (dropAccess { a with acq := none } s)
  else
    let zeros := a.zeros.filter fun z => !out.contains z.2
    let oob := a.oob.filter fun l => !out.contains l
    let s := updAccGroup a (fun g => g.dropScore a.owner m) (putAcc { a with reqs := keep, zeros, oob, lanes := a.lanes &&& ~~~m } s)
    a.fault fs s

/-- A stash fill is refused: the lanes parked on the entry take its fault, the entry stays INVALID (R79, R415). -/
def failFill (a : Access) (blk win e cause : Nat) (s : State) : State :=
  let va := (a.reqs.headD { lane := 0, pos := 0, va := 0, size := 0, dst := 0 }).va
  let s := { s with accs := delN s.accs a.id }
  let s := updEntry blk a.core win e (fun x => { x with filling := false }) s
  let on (b : Access) (r : Req) : Bool := r.core = a.core && r.tr = .scratch &&
    (match stashOf s (accBlock s b) a.core r.va with | some (w, k, _, _) => w = win && k = e | none => false)
  (entryWaiters s blk a.core win e).foldl (fun s b => failParked b cause (on b) (fun r => w64 (va + r.va % 128)) s) s

/-- Decide what can be decided of an access (R408): lanes that fault, lanes that park, and the rest, which go on. -/
def settleAccess (id : Nat) (s : State) : State :=
  match getN s.accs id with
  | none => s
  | some a =>
    if a.parked then s
    else
      let s := if a.reqs.any (fun r => r.tr = .bad 0) then { s with hole := true } else s
      match a.kind with
      | .pref _ =>
        let out (r : Req) : Bool := r.tr.cause.isSome || r.tr.waits || r.tr = .remote
        let gone := a.reqs.filter out
        let keep := a.reqs.filter fun r => !out r
        finishIfDone id (putAcc { a with reqs := keep } (countDropped a.core (sortNat (gone.map Req.key)).length s))
      | .stashFill blk win e =>
        match fateOf a.reqs with
        | .fault _ c _ => failFill a blk win e c s
        | .wait => putAcc { a with parked := true } s
        | _ => s
      | _ =>
        let fates := (reqLanes a.reqs).map fun l => (l, fateOf (a.reqs.filter fun r => r.lane = l))
        let faulted := fates.filterMap fun (l, f) => match f with | .fault _ c va => some (l, c, w64 va) | _ => none
        let waiting := (fates.filter fun (_, f) => f = .wait).map Prod.fst
        let blk := accBlock s a
        let dry := (fates.filter fun (l, f) => f = .go &&
          a.reqs.any fun r => r.lane = l && (staleEntry s blk r).isSome).map Prod.fst
        let wreqs := a.reqs.filter fun r => waiting.contains r.lane
        let dreqs := a.reqs.filter fun r => dry.contains r.lane
        let gone := faulted.map Prod.fst ++ waiting ++ dry
        let later := (fates.filter fun (_, f) => f = .undecided).map Prod.fst
        let keep := a.reqs.filter fun r => !gone.contains r.lane
        let s := countOob a.core (a.oob.filter fun l => !gone.contains l && !later.contains l).length s
        let fm := maskOf (faulted.map Prod.fst)
        let left := if a.scalar then (if keep.isEmpty then 0 else a.lanes)
          else a.lanes &&& ~~~(fm ||| maskOf waiting ||| maskOf dry)
        let s := updAccGroup a (fun g => g.dropScore a.owner (if a.scalar then (if faulted.isEmpty then 0 else BitVec.allOnes 64) else fm)) s
        let s := putAcc { a with
          reqs := keep
          lanes := left
          oob := a.oob.filter later.contains
          acq := if keep.isEmpty && left = 0 then none else a.acq
          zeros := a.zeros.filter fun z => !gone.contains z.2 } s
        let s := a.fault faulted (stopRefill a fm s)
        let s := if wreqs.isEmpty then s else parkAccess a wreqs (a.maskFor wreqs) false s
        let s := if dreqs.isEmpty then s else fillEntries a dreqs (parkAccess a dreqs (a.maskFor dreqs) true s)
        match a.kind with
        | .mon =>
          match (keep.headD { lane := 0, pos := 0, va := 0, size := 0, dst := 0 }).tr with
          | .found x =>
            let va := (keep.headD { lane := 0, pos := 0, va := 0, size := 0, dst := 0 }).va
            finishIfDone id (putAcc { a with reqs := [] }
              (updAccGroup a (fun g => { g with monitor := .armed (x.pa va / 128) }) s))
          | _ => finishIfDone id s
        | .fetch =>
          if keep.all fun r => r.tr.leaf.isSome then finishIfDone id (putAcc { a with reqs := [] } s) else finishIfDone id s
        | _ => finishIfDone id s

/-! ## Store queues (R74, R236, R408) -/

/-- The distinct scratchpad or virtual lines of a store's requests, ascending, as entries of a store queue: within a line
a later part wins, so parts stand by lane and then by position (R73, R236). A lane's suppressed positions go with the first of
its lines. -/
def storeEntries (a : Access) (rs : List Req) : List Store :=
  (sortNat (rs.map Req.key)).map fun key =>
    let here := rs.filter fun r => r.key = key
    let r0 := here.headD { lane := 0, pos := 0, va := 0, size := 0, dst := 0 }
    { id := a.id, slot := a.slot, tenant := a.tenant,
      dest := (match r0.tr with | .scratch => .scratch r0.core (r0.va / 128) | _ => .virt (r0.va / 128)),
      parts := (reqLanes here).flatMap fun l => (here.filter fun r => r.lane = l).map fun r =>
        { lane := l, pos := r.pos, va := r.va, bytes := toBytes r.size r.val.toNat },
      tr := r0.tr, lanes := a.maskFor here, pc := a.pc, rel := a.rel, nt := a.nt, forks := a.forks, scalar := a.scalar,
      oob := a.oob.filter fun l => here.any (fun r => r.lane = l) && !(rs.any fun r => r.lane = l && decide (r.key < key)) }

/-- The masked bytes of an entry's line. -/
def Store.line (e : Store) : List (Option Byte) :=
  e.parts.foldl (fun acc p => mergeBytes acc (overlay 128 (p.va % 128) p.bytes)) (List.replicate 128 none)

/-- A part of an entry as a request. -/
def Store.req (e : Store) (p : Part) : Req :=
  { lane := p.lane, pos := p.pos, va := p.va, size := p.bytes.length, dst := 0, val := BitVec.ofNat 128 (ofBytes p.bytes),
    core := (match e.dest with | .scratch c _ => c | _ => 0), tr := e.tr }

/-- The access that an entry's instruction is, for its faults and its replay. -/
def Store.access (core : Nat) (lanes : W64) (e : Store) : Access :=
  { id := e.id, owner := e.id, core, slot := e.slot, tenant := e.tenant, kind := .store, pc := e.pc, lanes, typ := 0,
    reqs := [], rel := e.rel, nt := e.nt, scalar := e.scalar }

/-- Decide the lanes of one instruction's stores whose requests are all translated (R408): a lane that faults or parks does
so at once, and an entry may commit when every lane with bytes in it is decided. Room that it leaves in the queue is room for
spills (R31). -/
def decideStore (core slot id : Nat) (s : State) : State :=
  match s.group (gkey core slot) with
  | none => s
  | some g =>
    let es := g.storeQ.filter fun e => e.id = id && !e.fate
    if es.isEmpty then s
    else
      let s := if es.any (fun e => e.tr = .bad 0) then { s with hole := true } else s
      let rs := es.flatMap fun e => e.parts.map e.req
      let all := es.foldl (fun m e => m ||| e.lanes) 0
      let a := (es.headD { id := id }).access core all
      let fates := (reqLanes rs).map fun l => (l, fateOf (rs.filter fun r => r.lane = l))
      let faulted := fates.filterMap fun (l, f) => match f with | .fault _ c va => some (l, c, w64 va) | _ => none
      let waiting := (fates.filter fun (_, f) => f = .wait).map Prod.fst
      let dry := (fates.filter fun (l, f) => f = .go &&
        rs.any fun r => r.lane = l && (staleEntry s g.block r).isSome).map Prod.fst
      let gone := faulted.map Prod.fst ++ waiting ++ dry
      let later := (fates.filter fun (_, f) => f = .undecided).map Prod.fst
      let clean (e : Store) : Store :=
        let parts := e.parts.filter fun p => !gone.contains p.lane
        { e with
          fate := !(parts.any fun p => later.contains p.lane), parts
          lanes := if e.scalar then e.lanes else maskOf (parts.map Part.lane)
          oob := e.oob.filter later.contains }
      let forks := es.flatMap Store.forks
      let oob := es.flatMap Store.oob
      let s := countOob core (oob.filter fun l => !gone.contains l && !later.contains l).length s
      let s := s.updGroup (gkey core slot) fun g => { g with
        storeQ := (g.storeQ.map fun e => if e.id = id && !e.fate then clean e else e).filter
          fun e => e.mark.isSome || !e.parts.isEmpty }
      let s := a.fault faulted s
      let wreqs := rs.filter fun r => waiting.contains r.lane
      let dreqs := rs.filter fun r => dry.contains r.lane
      let a := { a with forks, oob }
      let s := if wreqs.isEmpty then s else parkAccess a wreqs (a.maskFor wreqs) false s
      let s := if dreqs.isEmpty then s else fillEntries a dreqs (parkAccess a dreqs (a.maskFor dreqs) true s)
      retireGroup (gkey core slot) (if gone.isEmpty then s else wakeSpills (gkey core slot) s)

/-- A store's requests enter the store queue (R74, R91, R236). -/
def enqueueStore (a : Access) (rs : List Req) (s : State) : State :=
  let (rs, s) := trReqs a rs s
  let s := updAccGroup a (fun g => { g with storeQ := g.storeQ ++ storeEntries a rs }) s
  decideStore a.core a.slot a.id s

/-- A marker enters the store queue: what it stands for happens when the release before it has been performed. -/
def enqueueMark (core slot : Nat) (scope : Scope) (m : Mark) (s : State) : State :=
  let (id, s) := s.fresh
  s.updGroup (gkey core slot) fun g => { g with
    storeQ := g.storeQ ++ [{ id, slot, tenant := g.tenant, rel := some scope, mark := some m, fate := true }] }

/-- A parked access replays (R91, R117): it takes its place in the issue order now, with the values read at issue. -/
def replay (id : Nat) (s : State) : State :=
  match getN s.accs id with
  | none => s
  | some a =>
    if !a.parked then s
    else
      let s := wakeAccess a { s with accs := delN s.accs id }
      let (nid, s) := s.fresh
      let b : Access := { a with id := nid, parked := false, reqs := [] }
      let fresh := a.reqs.map fun r => { r with tr := (match r.tr with | .scratch => .scratch | _ => .todo) }
      match a.kind with
      | .fetch => s
      | .store =>
        let s := updAccGroup a (fun g => { g with memHold := g.memHold.filter (· ≠ id) }) s
        enqueueStore b fresh s
      | _ =>
        let (rs, s) := trReqs b fresh s
        let s := updAccGroup a (fun g => { g with
          memHold := g.memHold.filter (· ≠ id) ++ (if a.acq.isSome then [nid] else []) }) s
        settleAccess nid (putAcc { b with reqs := rs } s)

/-! ## The combining buffer (R88) -/

/-- A station. -/
def State.station (s : State) (d : Nat) : Station := (getN s.stations d).getD {}
/-- Change a station. -/
def State.updStation (s : State) (d : Nat) (f : Station → Station) : State :=
  { s with stations := putN s.stations d (f (s.station d)) }
/-- The station of a request to a peer (R328). -/
def stationOf (va : Nat) : Nat := bitsOf va 9 8 ^^^ (nodeOf va % 4)
/-- The pod address-space id of a tenant (R110). -/
def podasid (s : State) (tenant : Nat) : Nat := fld (getZ s.regs.asctx tenant) 63 48

/-- A node is marked lost (R436), or a station's link is dead (R437): the cause with which a request that reaches the station
ends. -/
def refusedAt (s : State) (d node : Nat) : Option Nat :=
  if s.lost.contains node then some cPEERLOST else if (s.station d).dead then some cCUSTODY else none

/-- A packet answers a peer's request (R330). -/
def Packet.reply (p : Packet) : Bool := match p.cargo with | .response _ _ => true | .notice _ _ => true | _ => false

/-- A packet joins its station's queue (R328, R330); the end of a request that the station refuses is decided now (R436,
R437). -/
def enqueuePkt (d : Nat) (p : Packet) (s : State) : State :=
  let (id, s) := s.fresh
  let doom := if p.reply then none else refusedAt s d p.node
  s.updStation d fun x => { x with pkts := x.pkts ++ [{ p with id, doom, seq := if p.seq = 0 then id else p.seq }] }

/-- The bytes that a write of masked bytes counts (R331). -/
def maskCount (bytes : List (Option Byte)) : Nat := max 64 (bytes.filter Option.isSome).length

/-- A write of masked bytes of a line to a peer (R88, R335). -/
def writePkt (s : State) (tenant line : Nat) (bytes : List (Option Byte)) (cargo : Cargo) : Packet :=
  { id := 0, node := nodeOf (128 * line), tc := 1, count := maskCount bytes, podasid := podasid s tenant, tenant,
    kind := some (.write (w64 (128 * line)) bytes), cargo }

/-- One write of a combining-buffer line of a core to a peer (R88, R335). -/
def sendLine (core tenant line : Nat) (bytes : List (Option Byte)) (s : State) : State :=
  enqueuePkt (stationOf (128 * line)) (writePkt s tenant line bytes (.line core line bytes)) s

/-- The write of a store with a wide release to a peer (R75, R97, R335). -/
def sendStore (core line : Nat) (e : Store) (s : State) : State :=
  enqueuePkt (stationOf (128 * line)) { writePkt s e.tenant line e.bytes (.store core e) with seq := e.seq } s

/-- The lines of a combining buffer that a condition picks are to be sent (R88). -/
def flushComb (d : Nat) (p : CombLine → Bool) (s : State) : State :=
  let out := (s.station d).comb.filter p
  let s := s.updStation d fun x => { x with comb := x.comb.filter fun l => !p l }
  out.foldl (fun s l => sendLine l.core l.tenant l.line l.bytes s) s

/-- Send every buffered line of a core. -/
def flushCore (core : Nat) (s : State) : State :=
  (List.range 4).foldl (fun s d => flushComb d (fun l => l.core = core) s) s

/-- The line of a combining buffer that leaves for a new allocation: that of the oldest first store (R88). Lines stand in the
order of their first stores; no core's clock is compared with another's (R10). -/
def combOldest (ls : List CombLine) : Option CombLine := ls.head?

/-- A packet that is to be sent and that its window still holds: a combining-buffer line is then still in the buffer (R88,
R332). -/
def Packet.heldLine (p : Packet) (core line : Nat) : Bool :=
  p.st = .queued && (match p.cargo with | .line c l _ => c = core && l = line | _ => false)

/-- Lines of a station's combining buffer in use: those that combine, and the stores that their window still holds (R88,
R332). -/
def linesHeld (x : Station) : Nat :=
  x.comb.length + (x.pkts.filter fun p => p.st = .queued &&
    (match p.cargo with | .line _ _ _ => true | .store _ _ => true | _ => false)).length

/-- A station's combining buffer has a line of a core. -/
def combHas (x : Station) (core line : Nat) : Bool :=
  (x.comb.any fun l => l.core = core && l.line = line) || x.pkts.any fun p => p.heldLine core line

/-- More bytes of a line that is to be sent. -/
def Packet.merge (bytes : List (Option Byte)) (p : Packet) : Packet :=
  match p.cargo with
  | .line c l bs =>
    let bs := mergeBytes bs bytes
    { p with count := maskCount bs, kind := some (.write (w64 (128 * l)) bs), cargo := .line c l bs }
  | _ => p

/-- A plain store to a peer merges into the combining buffer (R88), where a line that its window holds still stands (R332). -/
def combine (core tenant line : Nat) (bytes : List (Option Byte)) (s : State) : State :=
  let d := stationOf (128 * line)
  if combHas (s.station d) core line then
    let upd (l : CombLine) : CombLine :=
      if l.core = core && l.line = line then { l with bytes := mergeBytes l.bytes bytes } else l
    s.updStation d fun x => { x with
      comb := x.comb.map upd
      pkts := x.pkts.map fun p => if p.heldLine core line then p.merge bytes else p }
  else
    s.updStation d fun x => { x with comb := x.comb ++ [{ core, tenant, line, bytes, since := (s.core core).cycle }] }

/-! ## Releases and write-backs (R75, R76, R97) -/

/-- Who has dirty bytes written back: a fence's or `stash`'s lanes, or nobody, for an eviction (R415). -/
structure Who where
  slot : Nat := 128
  tenant : Nat := 0
  lanes : W64 := 0
  pc : W64 := 0
  deriving DecidableEq, Repr

/-- A write-back meets an uncorrectable error (R390, R415): on the lanes that asked for it, else as a record. -/
def wbFault (core : Nat) (w : Who) (va : Nat) (s : State) : State :=
  let s := countError cECC s
  if w.lanes = 0 then
    postRec { cause := cECC, write := true, unit := core, addr := w64 va, tenant := w.tenant } s
  else takeTrap (gkey core w.slot) (deferCtx s core w.pc true)
    ((lanesOf w.lanes).map fun l => { lane := l, cause := cECC, info := w64 va }) s

/-- Masked bytes of a line without those of some granules of it. -/
def withoutGranules (bs : List (Option Byte)) (bad : Nat → Bool) : List (Option Byte) :=
  bs.zipIdx.map fun (b, i) => if bad (i / 8) then none else b

/-- The first granule of a line that is bad and has bytes. -/
def badGranule (bs : List (Option Byte)) (bad : Nat → Bool) : Option Nat :=
  (List.range 16).find? fun g => bad g && ((bs.drop (8 * g)).take 8).any Option.isSome

/-- Granules in error that a line's bytes cover in part (R415). -/
def badGranules (s : State) (pline : Nat) (bs : List (Option Byte)) : List Nat :=
  s.ecc.filter fun g => g / 16 = pline &&
    (let here := (bs.drop (8 * (g % 16))).take 8
     here.any Option.isSome && here.any Option.isNone)

/-- Dirty bytes of a copy are performed at L2; granules in error, in the copy or partly covered in memory, keep their bytes
there: their addresses (R410, R415). -/
def wbNow (core pline va : Nat) (bs : List (Option Byte)) (bad : Nat → Bool) (s : State) : List Nat × State :=
  let dirty (g : Nat) : Bool := ((bs.drop (8 * g)).take 8).any Option.isSome
  let stay (g : Nat) : Bool := dirty g && (bad g || (badGranules s pline bs).contains (16 * pline + g))
  (((List.range 16).filter stay).map fun g => va + 8 * g, performWrite (128 * pline) (withoutGranules bs stay) (some core) false s)

/-- A write-back of masked bytes of a line at an address, in the commit order; granules that are in error in the copy stay
behind, and `drop` drops the copy (R75, R415). -/
def pushWriteBack (core : Nat) (w : Who) (pline va : Nat) (bytes : List (Option Byte)) (bad : Nat → Bool) (drop : State → State)
    (s : State) : State :=
  if bytes.all Option.isNone then s
  else
    let s := match badGranule bytes bad with
      | some g => wbFault core w (va + 8 * g) (drop s)
      | none => s
    let e : Store := { id := 0, slot := w.slot, tenant := w.tenant, pline, bytes := withoutGranules bytes bad, lanes := w.lanes, pc := w.pc,
                       parts := [{ lane := 0, pos := 0, va, bytes := [] }], writeBack := true, fate := true }
    s.updCore core fun c => { c with commitQ := c.commitQ ++ [e] }

/-- A granule of a core's L1 copy is in error (R388). -/
def l1BadAt (s : State) (core pline g : Nat) : Bool := s.errs.contains (.l1 core pline g)
/-- A granule of a stash entry, by its offset in the allocation, is in error (R388). -/
def stashBadAt (s : State) (blk core off g : Nat) : Bool := s.errs.contains (.scratch blk core (off / 8 + g))

/-- A core's dirty bytes of a line reach memory before an atomic on it: the L1 copy is dropped, the stash copies are clean
(R96). Granules in error stay behind, as at an eviction (R390, R415): DESIGN CHOICE, assumption 27. -/
def flushLine (core tenant pline va : Nat) (s : State) : State :=
  let put (at_ : Nat) (bs : List (Option Byte)) (bad : Nat → Bool) (s : State) : State :=
    let (as, s) := wbNow core pline at_ bs bad s
    match as.head? with | some a => wbFault core { tenant } a s | none => s
  let ds := dirtyCopies s core pline
  let s := ds.foldl (fun s (b, c, _, _, off, bs) => put va bs (stashBadAt s b c off) s) s
  let s := put va (l1Dirty s core pline) (l1BadAt s core pline) s
  let now := (readBytes s.mem (128 * pline) 128).map some
  let s := ds.foldl (fun s (b, c, w, k, off, _) =>
    updEntry b c w k (fun e => { e with st := .clean, mask := [], writers := [] }) (writeScratch b c off now s)) s
  putStash core pline now (s.updCore core fun c => { c with l1 := c.l1.filter fun x => x.pline ≠ pline })

/-- Stash entries that a write-back takes: block, core, window, entry, physical line, bytes. -/
abbrev DirtyEntry := Nat × Nat × Nat × Nat × Nat × List (Option Byte)

/-- The dirty stash entries of a core, and those of other cores that its stores made dirty, that a condition on block,
window and page mode picks. -/
def dirtyEntries (s : State) (core : Nat) (p : Nat → Nat → Nat → Bool) : List DirtyEntry :=
  s.blocks.flatMap fun (b, blk) => blk.shares.flatMap fun sh => sh.windows.flatMap fun (w, win) =>
    win.entries.zipIdx.filterMap fun (e, k) =>
      match e.tr with
      | some x =>
        if e.st = .dirty && (sh.core = core || e.writers.contains core) && p b w x.mode then
          some (b, sh.core, w, k, x.pa (win.base + 128 * k) / 128, e.dirtyBytes (readBytes sh.scratch (win.off + 128 * k) 128))
        else none
      | none => none

/-- The offset in its allocation of a stash entry. -/
def entryOff (s : State) (blk core win e : Nat) : Nat :=
  match ((getN s.blocks blk).bind (·.share core)).bind fun sh => getN sh.windows win with | some w => w.off + 128 * e | none => 0

/-- The global address of a stash entry. -/
def entryVa (s : State) (blk core win e : Nat) : Nat :=
  match ((getN s.blocks blk).bind (·.share core)).bind fun sh => getN sh.windows win with | some w => w.base + 128 * e | none => 0

/-- Write back dirty stash entries of a core; they become CLEAN (R79, R97). -/
def flushStash (core : Nat) (w : Who) (p : Nat → Nat → Nat → Bool) (s : State) : State :=
  (dirtyEntries s core p).foldl (fun s (b, c, win, k, pline, bs) =>
    pushWriteBack core w pline (entryVa s b c win k) bs (stashBadAt s b c (entryOff s b c win k))
      (updEntry b c win k fun e => { e with st := .invalid })
      (updEntry b c win k (fun e => { e with st := .clean, mask := [], writers := [] }) s)) s

/-- A core's L1 copy of a line goes. -/
def dropL1 (core pline : Nat) (s : State) : State :=
  s.updCore core fun c => { c with l1 := c.l1.filter fun l => l.pline ≠ pline }

/-- Write back the dirty bytes of a core's L1 lines that a condition picks; they become clean (R75). -/
def flushL1 (core : Nat) (w : Who) (p : L1Line → Bool) (s : State) : State :=
  let out := (s.core core).l1.filter fun l => p l && l.dirty.contains true
  let cleaned (l : L1Line) : L1Line := if p l && l.dirty.contains true then { l with dirty := l.dirty.map fun _ => false } else l
  let s := s.updCore core fun c => { c with l1 := c.l1.map cleaned }
  out.foldl (fun s l => pushWriteBack core w l.pline l.va (dirtyOf l) (l1BadAt s core l.pline) (dropL1 core l.pline) s) s

/-- The work of a release of a scope on a core: dirty CP bytes, from clu dirty SC bytes too, from the stash and then from
L1; from die the combining-buffer lines (R75, R76, R97). -/
def releaseAt (core : Nat) (w : Who) (scope : Scope) (s : State) : State :=
  let mode (m : Nat) : Bool := m = 2 || (m = 1 && decide (2 ≤ scope))
  let s := flushL1 core w (fun l => mode l.mode) (flushStash core w (fun _ _ m => mode m) s)
  if 3 ≤ scope then flushCore core s else s

/-- Whom a release stands for: the lanes of its fence, or nobody (R415). -/
def releaser (s : State) (e : Store) : Who :=
  match e.mark with
  | some (.access id) => (match getN s.accs id with
    | some a => { slot := a.slot, tenant := a.tenant, lanes := a.lanes, pc := a.pc }
    | none => { slot := e.slot, tenant := e.tenant })
  | some _ => { slot := e.slot, tenant := e.tenant }
  | none => { slot := e.slot, tenant := e.tenant, lanes := e.lanes, pc := e.pc }

/-- An L1 line is evicted: its dirty bytes go to L2 in commit order (R75). -/
def evictL1 (core : Nat) (v : Option Nat) (s : State) : State :=
  match v with
  | none => s
  | some p =>
    let t := match (s.core core).line p with | some l => l.tenant | none => 0
    dropL1 core p (flushL1 core { tenant := t } (fun l => l.pline = p) s)

/-! ## Commit (R74, R75) -/

/-- A release scope that writes SC bytes to L2 too (R76, R97). -/
def Store.wide (e : Store) : Bool := match e.rel with | some sc => decide (2 ≤ sc) | none => false

/-- A part of a store, whose line has an address in memory or in a scratchpad, has bytes in one of some granules. -/
def Part.badIn (p : Part) (bad : List Nat) (line : Nat) : Bool :=
  bad.any fun g => g / 16 = line && decide (p.va % 128 / 8 ≤ g % 16) && decide (g % 16 ≤ (p.va % 128 + p.bytes.length - 1) / 8)

/-- The granules in error that an entry covers in part, with the number of their line: in the L1 copy that takes the store,
else in memory, or in a scratchpad (R390, R415). -/
def Store.partGranules (e : Store) (s : State) (core blk : Nat) : Nat × List Nat :=
  match e.dest, e.tr with
  | .scratch c line, _ => (line, scratchPart s blk c (128 * line) e.line)
  | .virt _, .found x =>
    let pline := x.pa (e.parts.headD { lane := 0, pos := 0, va := 0, bytes := [] }).va / 128
    let l1 := ((s.core core).line pline).isSome
    let inL1 (g : Nat) : Bool := s.errs.contains (.l1 core pline g) && !coversGranule 0 e.line g
    (pline, (if l1 then ((List.range 16).filter inL1).map (16 * pline + ·) else []) ++
      (if x.mode ≠ 0 && !e.wide && l1 then [] else badGranules s pline e.line))
  | _, _ => (0, [])

/-- Lanes of a store's entries that cover part of a granule in error, with the first such address (R390, R415). -/
def badStoreLanes (s : State) (core blk : Nat) (es : List Store) : List (Nat × W64) :=
  let hits := es.flatMap fun e =>
    let (line, bad) := e.partGranules s core blk
    if bad.isEmpty then [] else (e.parts.filter fun p => p.badIn bad line).map fun p => (p.lane, w64 p.va)
  (sortNat (hits.map Prod.fst)).filterMap fun l => hits.find? fun h => h.1 = l

/-- The first entry of a store is to commit: its lanes that cover part of a granule in error anywhere take ECC_UNCORR and
store no byte (R379, R390, R415). -/
def dropBadLanes (core slot id : Nat) (s : State) : State :=
  match s.group (gkey core slot) with
  | none => s
  | some g =>
    let es := g.storeQ.filter fun e => e.id = id && e.mark.isNone
    let bad := badStoreLanes s core g.block es
    if bad.isEmpty then s
    else
      let a := (es.headD { id := id }).access core (es.foldl (fun m e => m ||| e.lanes) 0)
      let cut (e : Store) : Store :=
        let parts := e.parts.filter fun p => !(bad.any fun b => b.1 = p.lane)
        { e with parts, lanes := if e.scalar then e.lanes else maskOf (parts.map Part.lane) }
      let keep (e : Store) : Store := if e.id = id && e.mark.isNone then cut e else e
      let s := s.updGroup (gkey core slot) fun g => { g with storeQ := (g.storeQ.map keep).filter fun e => e.mark.isSome || !e.parts.isEmpty }
      let at_ := es.findSome? fun e => match e.tr with | .found x => some (128 * (x.pa (e.parts.headD { lane := 0, pos := 0, va := 0, bytes := [] }).va / 128)) | _ => none
      a.fault (bad.map fun (l, va) => (l, cECC, va)) (errorAt (at_.getD 0) s)

/-- A store with a found page enters the commit order (R75): the core's copies and, by the page's mode, the way to L2. -/
def commitVirt (core : Nat) (e : Store) (x : Xlat) (s : State) : State :=
  let bs := e.line
  let pline := x.pa (e.parts.headD { lane := 0, pos := 0, va := 0, bytes := [] }).va / 128
  let hit := ((s.core core).line pline).isSome
  let upd (l : L1Line) : L1Line :=
    if l.pline ≠ pline then l
    else { l with
      data := applyBytes l.data bs
      dirty := (l.dirty.zip bs).map fun (d, b) => if b.isNone then d else x.mode ≠ 0 && !e.wide }
  let s := putStash core pline bs (clearL1 core pline bs (s.updCore core fun c => { c with l1 := c.l1.map upd }))
  if x.mode = 0 || !hit || e.wide then
    s.updCore core fun c => { c with commitQ := c.commitQ ++ [{ e with pline, bytes := bs }] }
  else s

/-- A core has a committed remote store to a line that has not been handed on. -/
def remoteBusy (s : State) (core tenant line : Nat) : Bool :=
  (s.core core).commitQ.any fun e => e.mark.isNone && e.tr = .remote && e.tenant = tenant && e.dest = .virt line

/-- The peer's line to which a store of a block goes, if it goes to a peer. -/
def Store.toPeer (e : Store) (s : State) (blk : Nat) : Option Nat :=
  match e.dest, e.tr with
  | .virt line, .remote => some line
  | .scratch c line, _ => peerLine s blk c line
  | _, _ => none

/-- A plain store to a peer waits for a line of a full buffer (R88, R332), and behind a store with a wide release of its line,
which is to reach the station first (R95). -/
def combShut (s : State) (core blk : Nat) (e : Store) : Bool :=
  e.mark.isNone && !e.wide &&
    (match e.toPeer s blk with
     | some line =>
       let x := s.station (stationOf (128 * line))
       remoteBusy s core e.tenant line || (!combHas x core line && decide (64 ≤ linesHeld x))
     | none => false)

/-- The oldest line of a full buffer is to be sent for a new allocation (R88), if none is on its way. -/
def combYield (blk : Nat) (e : Store) (s : State) : State :=
  match e.toPeer s blk with
  | some line =>
    let d := stationOf (128 * line)
    let x := s.station d
    if linesHeld x < 64 || x.comb.length < linesHeld x then s
    else match combOldest x.comb with
      | some o => flushComb d (fun l => l.core = o.core && l.line = o.line) s
      | none => s
  | none => s

/-- The commit of a store to a peer's line: a plain one combines; one with a wide release follows the buffered bytes of its own
line (R88, R95, R97). -/
def commitPeer (core : Nat) (e : Store) (line : Nat) (s : State) : State :=
  if e.wide then
    let s := flushComb (stationOf (128 * line)) (fun l => l.core = core && l.line = line) s
    s.updCore core fun c => { c with commitQ := c.commitQ ++ [{ e with bytes := e.line, dest := .virt line, tr := .remote }] }
  else combine core e.tenant line e.line s

/-- The scratchpad part of a commit: plain bytes, or bytes of a stash entry, which are bytes of its global address (R79, R106).
Bytes of an HC page go to L2 in commit order and reach the copies of the issuing core only: another core's entry goes when they
are performed (R76). Bytes of other pages stay in the entry, which becomes DIRTY, and reach the other copies of both cores. Bytes over a peer's line go there as a store to its address. -/
def commitScratch (core blk : Nat) (e : Store) (c line : Nat) (s : State) : State :=
  let bs := e.line
  match stashOf s blk c (128 * line) with
  | none =>
    if c = core && !e.wide then writeScratch blk c (128 * line) bs s
    else s.updCore core fun k => { k with commitQ := k.commitQ ++ [{ e with bytes := bs, blk }] }
  | some (w, k, win, en) =>
    match en.tr with
    | none => commitPeer core e (win.base / 128 + k) (writeScratch blk c (128 * line) bs s)
    | some x =>
      let pline := x.pa (win.base + 128 * k) / 128
      let global : Store := { e with
        dest := .virt ((win.base + 128 * k) / 128), tr := .found x, pline, bytes := bs }
      let send (s : State) : State := s.updCore core fun q => { q with commitQ := q.commitQ ++ [global] }
      let own (s : State) : State := putL1 core pline bs (putStash core pline bs s)
      if x.mode = 0 then send (own s)
      else
        let s := own (putL1 c pline bs (putStash c pline bs (writeScratch blk c (128 * line) bs s)))
        if en.st = .invalid || e.wide then send s
        else updEntry blk c w k (fun y => { y with
          st := .dirty
          mask := (bs.zipIdx).map fun (b, i) => b.isSome || y.mask.getD i false
          writers := insertNat core y.writers }) s

/-- An entry leaves its store queue for the commit order (R74, R75, R97): after the work of its release it takes its
number. -/
def commitEntry (core blk : Nat) (e0 : Store) (s : State) : State :=
  let s := match e0.rel with | some sc => releaseAt core (releaser s e0) sc s | none => s
  let (n, s) := s.fresh
  let e := { e0 with seq := n }
  match e.mark with
  | some _ => s.updCore core fun c => { c with commitQ := c.commitQ ++ [{ e with id := n }] }
  | none =>
    match e.dest, e.tr with
    | .scratch c line, _ => commitScratch core blk e c line s
    | .virt _, .found x => commitVirt core e x s
    | .virt line, .remote => commitPeer core e line s
    | _, _ => s

end Sys2Proof.Machine
end

