-- ==== Sys2Proof/Machine/Memory.lean ====
section
/-!
DEFINITION. Loads, stores, atomics, fences, stash windows and prefetches, and the events that perform them (spec 09 R174 to
R176; 11 R232 to R243; 04 R74 to R79; 05 R91 to R97).
-/

namespace Sys2Proof.Machine

/-! ## Addressing a bundle -/

/-- Offset b of an instruction of the memory class (R232). -/
def memOffset (i : Iss) (g : Group) : Nat :=
  match i.o.bm with | .bcast => (g.readS i.now i.o.b).toNat | .lit => i.o.lit.toNat | _ => 0

/-- Elements of a bundle: for each active lane the first fault, if it has one, or its addresses. -/
structure Plan where
  faults : List LaneFault := []
  /-- Position, lane, core, address. -/
  go : List (Nat × Nat × Nat × Nat) := []
  /-- Position and lane of suppressed accesses. -/
  zeros : List (Nat × Nat) := []
  good : W64 := 0
  deriving DecidableEq, Repr

/-- The first fault of a lane over its positions (R407). -/
def laneFault (l : Nat) : List (Nat × Place) → Option LaneFault
  | [] => none
  | (k, .bad c sub info) :: _ => some { lane := l, cause := c, sub, pos := k, info }
  | _ :: ps => laneFault l ps

/-- The addresses of a bundle, lane by lane (R234, R407): a lane that fails anywhere accesses nothing. -/
def planLanes (act : W64) (n : Nat) (place : Nat → Nat → Place) : Plan :=
  let lanes := (lanesOf act).map fun l => (l, (List.range n).map fun k => (k, place k l))
  let faults := lanes.filterMap fun (l, ps) => laneFault l ps
  let ok := lanes.filter fun (l, ps) => (laneFault l ps).isNone
  let pick (k : Nat) : List (Nat × Nat × Nat × Nat) := ok.filterMap fun (l, ps) =>
    match ps[k]? with | some (_, .here c a) => some (k, l, c, a) | _ => none
  let zero (k : Nat) : List (Nat × Nat) := ok.filterMap fun (l, ps) =>
    match ps[k]? with | some (_, .out) => some (k, l) | _ => none
  { faults, go := (List.range n).flatMap pick, zeros := (List.range n).flatMap zero, good := maskOf (ok.map Prod.fst) }

/-- Bytes of an element by ESIZE, where TYPE matches it (R233). -/
def typeFits (r typ : Nat) : Bool :=
  let e := recEsize r
  if e = 4 then typ = 7 else e < 4 && widthOf typ = 8 * 2 ^ e

/-- The place of a global element (R234). -/
def placeGlobal (i : Iss) (g : Group) (r : Nat) (reads writes : Bool) (k l : Nat) : Place :=
  let idx := (g.readV i.now (i.o.regAt .a k) l + memOffset i g) % 2 ^ 64
  placeElem r idx (2 ^ recEsize r) reads writes

/-- The scratchpad address word of an element (R237). -/
def scratchWord (i : Iss) (g : Group) (k l : Nat) : Nat := (g.readV i.now (i.o.regAt .a k) l + memOffset i g) % 2 ^ 32

/-- The place of a scratchpad element (R237); a store through a stash entry needs the page's and the record's permission
(R242). -/
def placeLocal (i : Iss) (g : Group) (s : State) (writes : Bool) (k l : Nat) : Place :=
  match blockOf s g with
  | none => .bad cSCRATCH 0 (w64 (scratchWord i g k l))
  | some b =>
    match placeScratchElem s b (i.k / 128) (scratchWord i g k l) (widthOf i.o.typ / 8) with
    | .here c off =>
      match if writes then stashOf s g.block c off else none with
      | some (_, e, win, _) => if win.wr then .here c off else .bad cPERM 0 (w64 (win.base + 128 * e + off % 128))
      | none => .here c off
    | p => p

/-- A vector operand bound to a stream port (R232): the first, with its position. -/
def boundOperand (i : Iss) (g : Group) : Option (Bind × Nat) :=
  let at? (f : Field) : Option (Bind × Nat) :=
    match i.o.file f with
    | .v => (i.o.regs f).findSome? fun (k, r) => (g.binds.find? fun b => b.reg = r).map fun b => (b, k)
    | _ => none
  (at? .a).orElse fun _ => (at? .b).orElse fun _ => at? .d

/-- TRAPINFO0 of STREAM_MISUSE (R384). -/
def streamInfo (q r : Nat) : W64 := w64 (q % 32 + 2 ^ 16 * r)

/-- The effect of an instruction that accesses memory: it waits for fences and acquires before it (R97, R241), and refuses
stream ports as operands (R232). -/
def memEff (body : Iss → Group → State → Option State) (i : Iss) (g : Group) (s : State) : Option State :=
  if !g.memHold.isEmpty then none
  else match boundOperand i g with
    | some (b, k) => some (precise i.k (sameFault i.act cSTREAM 7 k (streamInfo b.q b.reg)) s)
    | none => body i g s

/-- The buffer record that C names (R232). -/
def Iss.brec (i : Iss) (g : Group) : Nat := g.mrec i.o.c

/-- The orders that C asks for (R232): acquire and release scopes. -/
def Iss.acq (i : Iss) : Option Scope := if bitAt i.o.c 7 then some (bitsOf i.o.c 6 4) else none
def Iss.rel (i : Iss) : Option Scope := if bitAt i.o.c 8 then some (bitsOf i.o.c 6 4) else none

/-- A fresh access of the issuing bundle. -/
def newAccess (i : Iss) (g : Group) (id : Nat) (kind : AccKind) (lanes : W64) (s : State) : Access :=
  { id, owner := id, core := i.k / 128, slot := i.k % 128, tenant := g.tenant, kind, pc := s.cur.pc, lanes, typ := i.o.typ, reqs := [] }

/-- The core's memory request queue takes no request, so R58 holds the bundle (R116). -/
def noWalkRoom (i : Iss) (s : State) (p : Plan) : Bool := walkHeld s (i.k / 128) (p.go.map fun x => x.2.2.2)

/-- The data of an element in registers (R233, R236). -/
def elemData (i : Iss) (g : Group) (f : Field) (size k l : Nat) : Nat :=
  ((List.range (regsFor size)).foldl (fun x j => x + g.readV i.now (i.o.regAt f k + j) l * 2 ^ (32 * j)) 0) % 2 ^ (8 * size)

/-- Mark the destination registers of an operation in flight, in the lanes that take part (R155). -/
def markDest (i : Iss) (id : Nat) (good : W64) (g : Group) : Group :=
  if good = 0 then g else (i.o.regs .d).foldl (fun g (_, r) => g.markV i.now id r good) g

/-- The register elements that suppressed accesses make 0 (R72, R235): register and lane. -/
def zeroElems (i : Iss) (zs : List (Nat × Nat)) : List (Nat × Nat) :=
  zs.flatMap fun (k, l) => (List.range (i.o.span .d)).map fun j => (i.o.regAt .d k + j, l)

/-- Start an access that returns data: take the precise faults, mark its destinations, send its requests, decide what can be
decided. -/
def startLoad (i : Iss) (g : Group) (kind : AccKind) (p : Plan) (scratch : Bool) (size : Nat)
    (val cmp : Nat → Nat → Nat) (s : State) : State :=
  let (id, s) := s.fresh
  let s := precise i.k p.faults (s.updGroup i.k (markDest i id p.good))
  let a := { newAccess i g id kind p.good s with
    acq := i.acq, rel := i.rel, released := i.rel.isNone, nt := !scratch && bitAt (i.brec g) 123, zeros := zeroElems i p.zeros
    oob := p.zeros.map Prod.snd }
  let s := match i.rel with | some sc => enqueueMark a.core a.slot sc (.access id) s | none => s
  let s := s.updGroup i.k fun g => { g with memHold := g.memHold ++ (if a.acq.isSome then [id] else []) }
  let rs := p.go.map fun (k, l, c, va) =>
    { lane := l, pos := k, va, size, dst := i.o.regAt .d k, val := BitVec.ofNat 128 (val k l), cmp := BitVec.ofNat 128 (cmp k l),
      core := c, tr := if scratch then .scratch else .todo : Req }
  let (rs, s) := trReqs a rs s
  settleAccess id (putAcc { a with reqs := rs } s)

/-- Start a store (R236): its requests enter the store queue. A lane all of whose positions are suppressed counts them now
(R407). -/
def startStore (i : Iss) (g : Group) (p : Plan) (scratch : Bool) (size : Nat) (s : State) : State :=
  let (id, s) := s.fresh
  let bare := p.zeros.filter fun z => !(p.go.any fun x => x.2.1 = z.2)
  let s := countOob (i.k / 128) bare.length s
  let a := { newAccess i g id .store p.good s with
    rel := i.rel, nt := !scratch && bitAt (i.brec g) 123, oob := p.zeros.map Prod.snd }
  let rs := p.go.map fun (k, l, c, va) =>
    { lane := l, pos := k, va, size, dst := 0, val := BitVec.ofNat 128 (elemData i g .d size k l), core := c,
      tr := if scratch then .scratch else .todo : Req }
  let s := precise i.k p.faults s
  if rs.isEmpty then s else enqueueStore a rs s

/-- The store queue is full (R58, R74): a store enters whole while fewer than 32 entries stand, whatever its lines, and markers count
as entries: DESIGN CHOICE, assumption 47. -/
def storeFull (g : Group) : Bool := decide (32 ≤ g.storeQ.length)

/-! ## Loads and stores (R235 to R237) -/

/-- `ld` (R235). -/
def opLd (h : Hdr) (f : Form) (s : State) : State :=
  groupIssue 0x80 h f (memEff fun i g s =>
    let r := i.brec g
    if !typeFits r i.o.typ then some (illegal i i.act 0x05 s)
    else
      let p := planLanes i.act i.o.n (placeGlobal i g r true false)
      if noWalkRoom i s p then none
      else some (startLoad i g .load p false (2 ^ recEsize r) (fun _ _ => 0) (fun _ _ => 0) s)) s

/-- `st` (R236). -/
def opSt (h : Hdr) (f : Form) (s : State) : State :=
  groupIssue 0x81 h f (memEff fun i g s =>
    let r := i.brec g
    if !typeFits r i.o.typ then some (illegal i i.act 0x05 s)
    else if storeFull g then none
    else
      let p := planLanes i.act i.o.n (placeGlobal i g r false true)
      if noWalkRoom i s p then none else some (startStore i g p false (2 ^ recEsize r) s)) s

/-- `lds` (R237). -/
def opLds (h : Hdr) (f : Form) (s : State) : State :=
  groupIssue 0x82 h f (memEff fun i g s =>
    let p := planLanes i.act i.o.n (placeLocal i g s false)
    if noWalkRoom i s p then none
    else some (startLoad i g .load p true (widthOf i.o.typ / 8) (fun _ _ => 0) (fun _ _ => 0) s)) s

/-- `sts` (R237). -/
def opSts (h : Hdr) (f : Form) (s : State) : State :=
  groupIssue 0x83 h f (memEff fun i g s =>
    let p := planLanes i.act i.o.n (placeLocal i g s true)
    if storeFull g || noWalkRoom i s p then none else some (startStore i g p true (widthOf i.o.typ / 8) s)) s

/-- `atom` (R238). -/
def opAtom (h : Hdr) (f : Form) (s : State) : State :=
  groupIssue 0x84 h f (memEff fun i g s =>
    let r := i.brec g
    if !typeFits r i.o.typ then some (illegal i i.act 0x05 s)
    else
      let size := 2 ^ recEsize r
      let p := planLanes i.act i.o.n (placeGlobal i g r true true)
      if noWalkRoom i s p then none
      else some (startLoad i g (.atom i.o.opt) p false size (elemData i g .b size) (fun _ _ => 0) s)) s

/-- `acas` (R239). -/
def opAcas (h : Hdr) (f : Form) (s : State) : State :=
  groupIssue 0x85 h f (memEff fun i g s =>
    let r := i.brec g
    if !(recEsize r = 3 || recEsize r = 4) then some (illegal i i.act 0x05 s)
    else
      let size := 2 ^ recEsize r
      let p := planLanes i.act i.o.n (placeGlobal i g r true true)
      if noWalkRoom i s p then none
      else some (startLoad i g .cas p false size (elemData i g .b size) (elemData i g .d size) s)) s

/-- `atoms` (R240). -/
def opAtoms (h : Hdr) (f : Form) (s : State) : State :=
  groupIssue 0x86 h f (memEff fun i g s =>
    let size := widthOf i.o.typ / 8
    let p := planLanes i.act i.o.n (placeLocal i g s true)
    if noWalkRoom i s p then none
    else some (startLoad i g (.atom i.o.opt) p true size (elemData i g .d size) (fun _ _ => 0) s)) s

/-- `fence` (R241): later memory instructions of the group wait until its effects are complete. -/
def opFence (h : Hdr) (f : Form) (s : State) : State :=
  groupIssue 0x87 h f (memEff fun i g s =>
    let (id, s) := s.fresh
    let a := { newAccess i g id .fence i.act s with acq := i.acq, rel := i.rel, released := i.rel.isNone }
    let s := match i.rel with | some sc => enqueueMark a.core a.slot sc (.access id) s | none => s
    let s := s.updGroup i.k fun g => { g with memHold := g.memHold ++ [id] }
    some (pumpFences a.core a.slot (putAcc a s))) s

/-- `pref` (R243): lanes that R72 refuses are dropped; TYPE must match ESIZE. -/
def opPref (h : Hdr) (f : Form) (s : State) : State :=
  groupIssue 0x89 h f (memEff fun i g s =>
    let r := i.brec g
    if !typeFits r i.o.typ then some (illegal i i.act 0x05 s)
    else
      let places := (List.range i.o.n).flatMap fun k => (lanesOf i.act).filterMap fun l =>
        match placeGlobal i g r true false k l with | .here _ va => some (k, l, va) | _ => none
      let lines := sortNat (places.map fun x => x.2.2 / 128)
      if walkHeld s (i.k / 128) (lines.map (128 * ·)) then none
      else
        let (id, s) := s.fresh
        let a := { newAccess i g id (.pref (i.o.opt = 1)) 0 s with nt := bitAt r 123, slot := 128 }
        let rs := lines.map fun l => ({ lane := 0, pos := 0, va := 128 * l, size := 128, dst := 0 } : Req)
        let (rs, s) := trReqs a rs s
        some (settleAccess id (putAcc { a with reqs := rs } s))) s

/-! ## Scalar accesses (R174 to R176) -/

/-- The place of a scalar access; the alignment is the TYPE width (R174). -/
def placeScalar (i : Iss) (g : Group) (off : Nat) (reads writes : Bool) : Place :=
  placeElem (i.brec g) (((g.readS i.now i.o.a).toNat + off) % 2 ^ 64) (widthOf i.o.typ / 8) reads writes

/-- The fault of a scalar access on every active lane. -/
def scalarFault (i : Iss) (c sub : Nat) (info : W64) (s : State) : State := precise i.k (sameFault i.act c sub 0 info) s

/-- The request of a scalar access. -/
def scalarReq (i : Iss) (va : Nat) (val cmp : W64) : Req :=
  { lane := (lowest i.act).getD 0, pos := 0, va, size := widthOf i.o.typ / 8, dst := i.o.d, val := val.setWidth 128, cmp := cmp.setWidth 128 }

/-- Start a scalar access that returns a value (R174 to R176). -/
def startScalar (i : Iss) (g : Group) (kind : AccKind) (va : Nat) (val cmp : W64) (s : State) : State :=
  let (id, s) := s.fresh
  let s := s.updGroup i.k fun g => g.mark id .s i.o.d (BitVec.allOnes 64)
  let a := { newAccess i g id kind i.act s with scalar := true, nt := bitAt (i.brec g) 123 }
  let (rs, s) := trReqs a [scalarReq i va val cmp] s
  settleAccess id (putAcc { a with reqs := rs } s)

/-- A scalar access that returns data, on a group. -/
def scalarLoad (kind : Iss → AccKind) (reads writes : Bool) (off val cmp : Iss → Group → W64) (i : Iss) (g : Group) (s : State) :
    Option State :=
  match placeScalar i g (off i g).toNat reads writes with
  | .bad c sub info => some (scalarFault i c sub info s)
  | .out => some (scalarResult i i.o.d 0 (countOob (i.k / 128) 1 s))
  | .here _ va =>
    if walkHeld s (i.k / 128) [va] then none
    else some (startScalar i g (kind i) va (val i g) (cmp i g) s)

/-- The B operand of a scalar instruction on a group. -/
def issB (i : Iss) (g : Group) : W64 := bWhole i.o (bScalar g i.now i.o)

/-- A context's region (R313, R355): first byte in its store and size. -/
def procRegion (s : State) : Nat × Nat :=
  match s.cur.seq with
  | .folbel => let c := (s.slice s.cur.unit).ctx s.cur.sub; (c.base, c.size)
  | _ => (65536 * s.cur.sub, 65536)
/-- The store of the current context. -/
def procStore (s : State) : ZMap 8 :=
  match s.cur.seq with | .folbel => (s.slice s.cur.unit).store | _ => s.fabric.mem
/-- Replace the store of the current context. -/
def setProcStore (m : ZMap 8) (s : State) : State :=
  match s.cur.seq with
  | .folbel => s.updSlice s.cur.unit fun x => { x with store := m }
  | _ => { s with fabric := { s.fabric with mem := m } }

/-- Bytes of the current context's store have an error (R388). -/
def procBad (s : State) (at_ n : Nat) : Bool :=
  s.errs.any fun x => match x with
    | .store u g => s.cur.seq = .folbel && u = s.cur.unit && granuleMeets g at_ n
    | .script g => s.cur.seq = .fabric && granuleMeets g at_ n
    | _ => false

/-- A full write of a granule of the current context's store clears its error (R390). -/
def procClear (at_ n : Nat) (s : State) : State :=
  if n < 8 then s
  else clearErrs (fun x => match x with
    | .store u g => s.cur.seq = .folbel && u = s.cur.unit && g = at_ / 8
    | .script g => s.cur.seq = .fabric && g = at_ / 8
    | _ => false) s

/-- TRAPINFO0 or ADDR of an error in a context's store: the region offset with bit 62 set (R432). -/
def storeInfo (off : W64) : W64 := off ||| w64 (2 ^ 62)

/-- An access of a context to its own region (R313, R355, R432); `full` where it writes the granule whole. -/
def procMem (o : Opnd) (off : W64) (s : State) (full : Bool) (go : Nat → PRes) : PRes :=
  let w := widthOf o.typ / 8
  let (base, size) := procRegion s
  if s.cur.seq = .folbel && decide (size ≤ off.toNat) then .fault cACCESS 0 off
  else if off.toNat % w ≠ 0 then .fault cALIGN 0 off
  else if size < off.toNat + w then .fault cBOUNDS 0 off
  else if !full && procBad s (base + off.toNat) w then .fault cECC 0 (storeInfo off)
  else go (base + off.toNat)

/-- `sld` (R175). -/
def opSld (h : Hdr) (f : Form) (s : State) : State :=
  match s.cur.seq with
  | .group => groupIssue 0x18 h f (memEff (scalarLoad (fun _ => .load) true false issB (fun _ _ => 0) (fun _ _ => 0))) s
  | _ => procIssue 0x18 h f (fun o p s => procMem o (p.get o.a + procB o p) s false fun a =>
      .done (p.put o.d (extW o.typ (readNat (procStore s) a (widthOf o.typ / 8)))) s) s

/-- `sst` (R175). -/
def opSst (h : Hdr) (f : Form) (s : State) : State :=
  match s.cur.seq with
  | .group => groupIssue 0x19 h f (memEff fun i g s =>
      if storeFull g then none
      else match placeScalar i g (issB i g).toNat false true with
        | .bad c sub info => some (scalarFault i c sub info s)
        | .out => some (countOob (i.k / 128) 1 s)
        | .here _ va =>
          if walkHeld s (i.k / 128) [va] then none
          else
            let (id, s) := s.fresh
            let a := { newAccess i g id .store i.act s with scalar := true, nt := bitAt (i.brec g) 123 }
            some (enqueueStore a [scalarReq i va (g.readS i.now i.o.d) 0] s)) s
  | _ => procIssue 0x19 h f (fun o p s => procMem o (p.get o.a + procB o p) s (widthOf o.typ = 64) fun a =>
      .done p (procClear a (widthOf o.typ / 8)
        (setProcStore (writeBytes (procStore s) a (toBytes (widthOf o.typ / 8) (p.get o.d).toNat)) s))) s

/-- The new value of an integer atomic; operation 7 is handled apart (R176, R238). -/
def atomInt (op typ old v : Nat) : Nat :=
  let w := widthOf typ
  match op with
  | 0 => (old + v) % 2 ^ w
  | 1 => old &&& v
  | 2 => old ||| v
  | 3 => old ^^^ v
  | 4 => if intOf typ v < intOf typ old then v else old
  | 5 => if intOf typ old < intOf typ v then v else old
  | _ => v

/-- The new value of an atomic (R238): round to nearest even, no flags. -/
def atomNew (op typ old v : Nat) : Nat :=
  match op with
  | 7 => (fAdd typ 0 old v).1
  | 8 => (fMinMax false typ old v).1
  | 9 => (fMinMax true typ old v).1
  | _ => atomInt op typ old (v % 2 ^ widthOf typ)

/-- `satom` (R176). -/
def opSatom (h : Hdr) (f : Form) (s : State) : State :=
  match s.cur.seq with
  | .group => groupIssue 0x1d h f (memEff (scalarLoad (fun i => if i.o.opt = 7 then .cas else .atom i.o.opt) true true (fun _ _ => 0)
      issB (fun i g => w64 ((g.readS i.now i.o.d).toNat % 2 ^ widthOf i.o.typ)))) s
  | _ => procIssue 0x1d h f (fun o p s => procMem o (p.get o.a) s false fun a =>
      let n := widthOf o.typ / 8
      let old := readNat (procStore s) a n
      let v := (bWhole o (p.get o.b)).toNat % 2 ^ widthOf o.typ
      let new := if o.opt = 7 then (if extW o.typ old = extW o.typ (p.get o.d).toNat then v else old) else atomInt o.opt o.typ old v
      .done (p.put o.d (extW o.typ old)) (setProcStore (writeBytes (procStore s) a (toBytes n new)) s)) s

/-! ## Stash windows (R242) -/

/-- The conditions of R242 on a mapping: offset in the allocation, global base, length. -/
def stashMap (s : State) (i : Iss) (g : Group) : Option (Nat × Nat × Nat) :=
  match blockOf s g with
  | none => none
  | some b =>
    let r := i.brec g
    let l := layoutOf s b
    let off := (g.readS i.now i.o.a).toNat
    let byte := (g.readS i.now (i.o.a + 1)).toNat
    let len := (g.readS i.now (i.o.a + 2)).toNat
    let va := recBase r + byte
    let other := match b.share (i.k / 128) with
      | some sh => sh.windows.any fun (w, win) =>
          w ≠ i.o.d && decide (win.off < l.stash + off + len) && decide (l.stash + off < win.off + win.len)
      | none => true
    if off % 128 ≠ 0 || va % 128 ≠ 0 || len % 128 ≠ 0 || len < 128 || l.ctr < l.stash + off + len || other ||
        recBytes r < byte + len || !bitAt r 120 || 2 ^ 63 < va + len then none
    else some (l.stash + off, va, len)

/-- A fill of a window's entries is on its way. -/
def windowBusy (s : State) (blk core w : Nat) : Bool :=
  match (getN s.blocks blk).bind (·.share core) with
  | some sh => match getN sh.windows w with | some win => win.entries.any fun e => e.filling | none => false
  | none => false

/-- Replace a window of a block on a core. -/
def setWindow (blk core w : Nat) (x : Option Window) (s : State) : State :=
  s.updBlock blk fun b => b.updShare core fun sh =>
    { sh with windows := match x with | some win => putN sh.windows w win | none => delN sh.windows w }

/-- What a `stash` does to its window after the write-backs (R242). -/
def stashEffect (i : Iss) (g : Group) (m : Option (Nat × Nat × Nat)) (s : State) : State :=
  let core := i.k / 128
  let old := (((getN s.blocks g.block).bind (·.share core)).bind fun sh => getN sh.windows i.o.d)
  let cleared (w : Window) : Window := { w with entries := w.entries.map fun _ => {} }
  match i.o.opt with
  | 0 =>
    match m with
    | some (off, base, len) =>
      setWindow g.block core i.o.d (some { off, base, len, wr := bitAt (i.brec g) 121, entries := List.replicate (len / 128) {} }) s
    | none => s
  | 1 => s
  | 2 => match old with | some w => setWindow g.block core i.o.d (some (cleared w)) s | none => s
  | _ => setWindow g.block core i.o.d none s

/-- `stash` (R242): it issues when the group's stores before it have left the store queue (R92); the write-backs join the commit
order, and later memory instructions wait until they are performed. -/
def opStash (h : Hdr) (f : Form) (s : State) : State :=
  groupIssue 0x88 h f (memEff fun i g s =>
    let core := i.k / 128
    let m := if i.o.opt = 0 then stashMap s i g else none
    if i.o.opt = 0 && m.isNone then some (illegal i i.act 0x0b s)
    else if windowBusy s g.block core i.o.d || g.storeQ.any (fun e => e.mark.isNone) then none
    else
      let w : Who := { slot := i.k % 128, tenant := g.tenant, lanes := i.act, pc := s.cur.pc }
      let s := flushStash core w (fun b w _ => b = g.block && w = i.o.d) s
      let s := stashEffect i g m s
      let (id, s) := s.fresh
      let a := { newAccess i g id .fence i.act s with released := false }
      let s := s.updGroup i.k fun g => { g with memHold := g.memHold ++ [id] }
      let mark : Store := { id, slot := i.k % 128, tenant := g.tenant, rel := some 0, mark := some (.access id), fate := true }
      some (putAcc a (s.updCore core fun c => { c with commitQ := c.commitQ ++ [mark] }))) s

/-! ## Walks that end (R113 to R117) -/

/-- The 64 KiB page of an address, without its node. -/
def pageOf (va : Nat) : Nat := (va % 2 ^ 53) / 2 ^ 16

/-- A die's access that a walk's outcome concerns. -/
def onPage (d tenant page : Nat) (a : Access) (r : Req) : Bool :=
  dieOf a.core = d && a.tenant = tenant && (r.tr ≠ .scratch) && pageOf r.va = page

/-- A request whose lane may not be parked yet and that a walk of its page answers, for the first time or again (R408). -/
def TrState.asks : TrState → Bool
  | .todo => true | .wait => true | _ => false

/-- Give the requests for a page of lanes that are not parked their outcome. -/
def answerReqs (d tenant page : Nat) (f : Access → Req → TrState) (s : State) : State :=
  { s with accs := s.accs.map fun (k, a) =>
      (k, if a.parked then a
          else { a with reqs := a.reqs.map fun r =>
            if r.tr.asks && onPage d tenant page a r then { r with tr := f a r } else r }) }

/-- The address of a store-queue entry's line, for translation. -/
def Store.va (e : Store) : Nat := match e.dest with | .virt l => 128 * l | _ => 0

/-- The same for entries of store queues. -/
def answerStores (d tenant page : Nat) (f : Nat → Nat → TrState) (s : State) : State :=
  { s with groups := s.groups.map fun (k, g) =>
      (k, if dieOf (coreOf k) = d && g.tenant = tenant then
            { g with storeQ := g.storeQ.map fun e =>
                match e.dest with
                | .virt _ => if e.tr.asks && pageOf e.va = page then { e with tr := f (coreOf k) e.va } else e
                | _ => e }
          else g) }

/-- Requests waiting for the walk of a page: core, want, address, prefetch or not; parked ones among them. -/
def walkers (s : State) (d tenant page : Nat) : List (Nat × Want × Nat × Bool) :=
  (s.accs.flatMap fun (_, a) => (a.reqs.filter fun r =>
    onPage d tenant page a r && (if a.parked then r.tr = .wait else r.tr.asks)).map fun r =>
      (a.core, a.kind.want, r.va, (match a.kind with | .pref _ => true | _ => false))) ++
  (s.groups.flatMap fun (k, g) =>
    if dieOf (coreOf k) = d && g.tenant = tenant then
      (g.storeQ.filter fun e => e.tr.asks && (match e.dest with | .virt _ => pageOf e.va = page | _ => false)).map fun e =>
        (coreOf k, Want.write, e.va, false)
    else [])

/-- Decide every access and store of a die's cores. -/
def settleDie (d : Nat) (s : State) : State :=
  let s := (s.accs.map Prod.fst).foldl (fun s id =>
    match getN s.accs id with | some a => if dieOf a.core = d then settleAccess id s else s | none => s) s
  (s.groups.filter fun (k, _) => dieOf (coreOf k) = d).foldl (fun s (k, g) =>
    (sortNat ((g.storeQ.filter fun e => !e.fate).map Store.id)).foldl (fun s id => decideStore (coreOf k) (slotOf k) id s) s) s

/-- The parked accesses that wait for a page at a die. -/
def parkedOnPage (s : State) (d tenant page : Nat) : List Access :=
  (s.accs.map Prod.snd).filter fun a => a.parked && a.reqs.any fun r => r.tr = .wait && onPage d tenant page a r

/-- The demand record of a wait (R117): the first access whose lanes park. -/
def demandRec (a : Access) (va : Nat) : FaultRec :=
  { cause := cTRANSLATE, demand := true, write := a.kind.want = .write, src := 0, unit := (a.slot % 128) * 128 + a.core,
    laneMask := a.lanes, pc := a.pc, addr := w64 va, tenant := a.tenant }

/-- The first request, in the order of positions, of the lowest lane among some (R386). -/
def lowestReq (rs : List Req) : Option Req := rs.find? fun r => some r.lane = (reqLanes rs).head?

/-- What a request names in a demand record: the access with the lanes of some of its requests, and the address of the lowest
one (R386). A stash fill stands for the first access that waits at its entry (R79), with its lanes there. -/
def demandFor (s : State) (a : Access) (rs : List Req) : Option (Access × Nat) :=
  match a.kind with
  | .pref _ => none
  | .stashFill blk win e =>
    (match entryWaiters s blk a.core win e with
     | w :: _ =>
       let here := w.reqs.filter fun r => r.core = a.core && r.tr = .scratch &&
         (match stashOf s blk a.core r.va with | some (x, k, _, _) => x = win && k = e | none => false)
       (rs.head?).bind fun r => (lowestReq here).map fun q =>
         ({ a with core := w.core, slot := w.slot, lanes := w.maskFor here, pc := w.pc }, r.va + q.va % 128)
     | [] => (rs.head?).map fun r => (a, r.va))
  | _ => (lowestReq rs).map fun r => ({ a with lanes := a.maskFor rs }, r.va)

/-- An access or store that a demand record can name: what it is, with its lanes on the page, and the address of the lowest. -/
def demandOf (s : State) (d tenant page : Nat) : Option (Access × Nat) :=
  let fromAcc := s.accs.findSome? fun (_, a) =>
    demandFor s a (a.reqs.filter fun r => onPage d tenant page a r && r.tr.asks)
  fromAcc.orElse fun _ => s.groups.findSome? fun (k, g) =>
    if dieOf (coreOf k) = d && g.tenant = tenant then
      let on (e : Store) : Bool := e.tr.asks && (match e.dest with | .virt _ => pageOf e.va = page | _ => false)
      (g.storeQ.find? on).bind fun e =>
        let es := g.storeQ.filter fun f => on f && f.id = e.id
        let lanes := es.foldl (fun m f => m ||| f.lanes) 0
        (lowestReq (es.flatMap fun f => f.parts.map f.req)).map fun r => (e.access (coreOf k) lanes, r.va)
    else none

/-- Replace a walk request of a die. -/
def setWalk (d k : Nat) (w : WalkReq) (s : State) : State := s.updDie d fun x => { x with walks := setAt x.walks k w }
/-- Remove a walk request of a die. -/
def dropWalk (d tenant page : Nat) (s : State) : State :=
  s.updDie d fun x => { x with walks := x.walks.filter fun w => !(w.tenant = tenant && w.vpage = page) }

/-- Ask for a page again whose demand has been posted: a saved wait, or one that found the queue full (R116, R119). -/
def askAgain (d tenant page : Nat) (s : State) : State :=
  s.updDie d fun x =>
    if (x.walks.any fun w => w.tenant = tenant && w.vpage = page) || decide (1024 ≤ x.walks.length) then x
    else { x with walks := x.walks ++ [{ tenant, vpage := page, posted := true }] }

/-- Requests that the full queue kept outside enter it (R116). -/
def admitWalks (d : Nat) (s : State) : State :=
  let accs := s.accs.flatMap fun (_, a) => if dieOf a.core = d && !a.parked then
    (a.reqs.filter fun r => r.tr = .todo).map fun r => (a.core, a.tenant, r.va) else []
  let stores := s.groups.flatMap fun (k, g) => if dieOf (coreOf k) = d then
    (g.storeQ.filter fun e => e.mark.isNone && e.tr = .todo).map fun e => (coreOf k, g.tenant, e.va) else []
  let parked := s.accs.flatMap fun (_, a) => if dieOf a.core = d && a.parked then
    (a.reqs.filter fun r => r.tr = .wait).map fun r => (a.tenant, pageOf r.va) else []
  parked.foldl (fun s (t, page) => askAgain d t page s) ((accs ++ stores).foldl (fun s (c, t, va) => askWalk c t va s) s)

/-- A walk faults: every request for the page takes the cause, parked ones too (R113, R410). -/
def walkFaults (d : Nat) (w : WalkReq) (cause : Nat) (s : State) : State :=
  let s := countError cause s
  let parked := parkedOnPage s d w.tenant w.vpage
  let s := answerReqs d w.tenant w.vpage (fun _ _ => .bad cause) s
  let s := dropWalk d w.tenant w.vpage (answerStores d w.tenant w.vpage (fun _ _ => .bad cause) s)
  let s := parked.foldl (fun s a => match a.kind with
    | .stashFill blk win e => failFill a blk win e cause s
    | .fetch => replay a.id s
    | _ => failParked a cause (fun r => r.tr = .wait && onPage d w.tenant w.vpage a r) (fun r => w64 r.va) s) s
  settleDie d (admitWalks d s)

/-- A walk ends in a translation wait (R117): lanes park, the PTE's line is monitored, a demand may be posted. A wait of
prefetches alone is none (R122). -/
def walkWaits (d k : Nat) (w : WalkReq) (pline : Nat) (v0 : Bool) (s : State) : State :=
  let record := (demandOf s d w.tenant w.vpage).map fun (a, va) => demandRec a va
  let answer (s : State) : State :=
    answerStores d w.tenant w.vpage (fun _ _ => .wait) (answerReqs d w.tenant w.vpage (fun _ _ => .wait) s)
  match record.orElse fun _ => w.agents.head? with
  | none => settleDie d (admitWalks d (dropWalk d w.tenant w.vpage (answer s)))
  | some r =>
    let s := if v0 && !w.posted then postRec { r with cause := cTRANSLATE, demand := true } s else s
    settleDie d (answer (setWalk d k { w with wait := some pline, posted := v0, top := false } s))

/-- The outcome of a found leaf for one request (R114, R122). -/
def foundFor (s : State) (x : Xlat) (core : Nat) (want : Want) (va : Nat) (pref : Bool) : TrState :=
  match permit x (some core) want with
  | some c => .bad c
  | none => if pref && !x.isA then .bad cTRANSLATE else resolve s x va

/-- A walk finds a leaf (R114 to R117): A and D are set for the accesses that proceed, TLBs are filled, parked lanes
replay. -/
def walkFinds (d : Nat) (w : WalkReq) (x : Xlat) (s : State) : State :=
  let going := (walkers s d w.tenant w.vpage).filter fun (c, want, va, pref) =>
    match foundFor s x c want va pref with | .bad _ => false | _ => true
  let touch := going.filter fun q => !q.2.2.2
  let parked := parkedOnPage s d w.tenant w.vpage
  let (y, s) := if touch.isEmpty then (x, s) else setAD x (touch.any fun q => q.2.1 = .write) s
  let s := if y.isA then (sortNat (going.map Prod.fst)).foldl (fun s c => fillTlbs c y s) s else s
  let s := (going.foldl (fun s q => noteAts (resolve s y q.2.2.1) q.2.2.1 s) s)
  let s0 := s
  let s := answerReqs d w.tenant w.vpage (fun a r => foundFor s0 y a.core a.kind.want r.va
    (match a.kind with | .pref _ => true | _ => false)) s
  let s := dropWalk d w.tenant w.vpage (answerStores d w.tenant w.vpage (fun c va => foundFor s0 y c .write va false) s)
  settleDie d (admitWalks d (parked.foldl (fun s a => replay a.id s) s))

/-- PAGE_WALK_DONE (R113 to R117): `unit` is the die, `idx` the walk in its queue. The walk waits while a handler holds a
line of its entries (R306). -/
def walkDone (d k : Nat) (s : State) : State :=
  match (s.die d).walks[k]? with
  | none => s
  | some w =>
    let va := w.vpage * 2 ^ 16
    if w.wait.isSome || !walkOpen s d w.tenant va w.top then s
    else
      let t := noteWalk d w.tenant va s w.top
      match walk s d w.tenant va w.top with
      | .fault c => walkFaults d w c t
      | .wait pline v0 => walkWaits d k w pline v0 t
      | .found x => walkFinds d w x t

/-- The bytes of a stash fill stand in its entry, and what waited for it goes on (R79). An entry over a peer has no leaf. -/
def landFill (a : Access) (blk win e : Nat) (data : List Byte) (tr : Option Xlat) (s : State) : State :=
  let s := { s with accs := delN s.accs a.id }
  let off := match (getN s.blocks blk).bind (·.share a.core) with
    | some sh => match getN sh.windows win with | some w => w.off + 128 * e | none => 0
    | none => 0
  let s := updEntry blk a.core win e (fun _ => { st := .clean, tr }) (writeScratch blk a.core off (data.map some) s)
  (entryWaiters s blk a.core win e).foldl (fun s b => replay b.id s) s

/-! ## Loads that return (R93, R235) -/

/-- Stores of a core that are committed and not yet performed at a line (R93). -/
def commitBusy (s : State) (core pline : Nat) : Bool :=
  (s.core core).commitQ.any fun e => e.mark.isNone && e.tr ≠ .remote && e.pline = pline &&
    (match e.dest with | .scratch _ _ => false | _ => true)

/-- Scratchpad stores of a core that are committed and not performed at a line. -/
def scratchBusy (s : State) (core blk c line : Nat) : Bool :=
  (s.core core).commitQ.any fun e => e.mark.isNone && e.blk = blk && e.dest = .scratch c line

/-- The group's own earlier stores that are still queued. -/
def ownStores (s : State) (a : Access) : List Store :=
  match accGroup s a with | some g => g.storeQ.filter fun e => e.mark.isNone && decide (e.id < a.id) | none => []

/-- A peer's line where order is kept (R92, R95). -/
def remoteLoc (line : Nat) : Nat := 2 ^ 80 + line

/-- What a place in the scratchpad or a global line is called where order is kept: a stash entry is its global line (R106). -/
def scratchLoc (s : State) (blk c line : Nat) : Nat :=
  match stashOf s blk c (128 * line) with
  | some (_, k, win, e) =>
    match e.tr with
    | some x => x.pa (win.base + 128 * k) / 128
    | none => match peerLine s blk c line with
      | some n => remoteLoc n
      | none => 2 ^ 63 + (128 * blk + c) * 2 ^ 14 + line
  | none => 2 ^ 63 + (128 * blk + c) * 2 ^ 14 + line

/-- The place of a request of a block's group. -/
def Req.loc (r : Req) (s : State) (blk : Nat) : Option Nat :=
  match r.tr with
  | .scratch => some (scratchLoc s blk r.core (r.va / 128))
  | .found x => some (x.pa r.va / 128)
  | .remote => some (remoteLoc (r.va / 128))
  | _ => none

/-- The place of a store of a block's group. -/
def Store.loc (e : Store) (s : State) (blk : Nat) : Option Nat :=
  match e.dest, e.tr with
  | .scratch c line, _ => some (scratchLoc s blk c line)
  | .virt _, .found x => some (x.pa e.va / 128)
  | .virt line, .remote => some (remoteLoc line)
  | _, _ => none

/-- The group's own queued stores over the bytes of a place (R74, R92). -/
def forwarded (s : State) (a : Access) (loc : Nat) (bs : List Byte) : List Byte :=
  (ownStores s a).foldl (fun bs e => if e.loc s (accBlock s a) = some loc then applyBytes bs e.line else bs) bs

/-- A core's view of a line: its L1 copy, or L2 with what is dirty in its stashes over it (R75, R106). -/
def coreLine (s : State) (core pline : Nat) : List Byte :=
  match (s.core core).line pline with
  | some l => l.data
  | none => applyBytes (readBytes s.mem (128 * pline) 128) (stashDirty s core pline)

/-- A line as a load of a group sees it. -/
def lineSeen (s : State) (a : Access) (pline : Nat) : List Byte := forwarded s a pline (coreLine s a.core pline)

/-- A scratchpad line as a load of a group sees it. -/
def scratchSeen (s : State) (a : Access) (c line : Nat) : List Byte :=
  forwarded s a (scratchLoc s (accBlock s a) c line) (scratchBytes s (accBlock s a) c (128 * line) 128)

/-- A lane's element out of its line. -/
def partOf (bs : List Byte) (va size : Nat) : Nat := ofBytes ((bs.drop (va % 128)).take size)

/-- A core's L1 copy of a line has an error among some bytes (R388). -/
def l1Bad (s : State) (core pline at_ size : Nat) : Bool :=
  s.errs.any fun x => match x with | .l1 c p g => c = core && p = pline && granuleMeets (16 * pline + g) at_ size | _ => false

/-- Bytes of a block's scratchpad on a core have an error (R388). -/
def scratchBad (s : State) (blk core off n : Nat) : Bool :=
  s.errs.any fun x => match x with | .scratch b c g => b = blk && c = core && granuleMeets g off n | _ => false

/-- An access that acts at the line's L2 slice whatever its core holds (R96, R255). -/
def AccKind.atSlice : AccKind → Bool
  | .atom _ => true | .cas => true | .stampw _ _ _ => true | _ => false

/-- A request meets an uncorrectable error: in the L1 copy, in memory where the access reads it, or in a scratchpad (R390,
R415). -/
def reqBad (s : State) (a : Access) (r : Req) : Bool :=
  match r.tr with
  | .found x =>
    let pline := x.pa r.va / 128
    let copy := ((s.core a.core).line pline).isSome
    (copy && l1Bad s a.core pline (x.pa r.va) r.size) ||
      ((!copy || a.kind.atSlice) && s.ecc.any fun g => granuleMeets g (x.pa r.va) r.size)
  | .scratch => scratchBad s (accBlock s a) r.core r.va r.size
  | _ => false

/-- Lanes of an access that meet an uncorrectable error (R390, R415): nothing is written for them. -/
def failLanes (a : Access) (bad : List Req) (s : State) : State :=
  if bad.isEmpty then s
  else
    let m := a.maskFor bad
    let s := errorAt ((bad.findSome? fun r => match r.tr with | .found x => some (x.pa r.va) | _ => none).getD 0) s
    let s := updAccGroup a (fun g => g.dropScore a.owner (if a.scalar then BitVec.allOnes 64 else m)) s
    let s := stopRefill a m s
    let s := match getN s.accs a.id with
      | some a => putAcc { a with reqs := a.reqs.filter fun r => !(bad.any fun b => b.lane = r.lane), lanes := a.lanes &&& ~~~m } s
      | none => s
    a.fault ((reqLanes bad).filterMap fun l => (bad.find? fun r => r.lane = l).map fun r => (l, cECC, w64 r.va)) s

/-- The lines that an L1 of 256 KiB holds (R9). -/
def l1Lines : Nat := 2048

/-- Room for one more line in a full L1: which one leaves is free (assumption 7). -/
def l1Room (core : Nat) (s : State) : State :=
  if (s.core core).l1.length < l1Lines then s
  else
    let (n, s) := s.freeChoice l1Lines
    evictL1 core (((s.core core).l1[n]?).map L1Line.pline) s

/-- A returned line enters L1 (R74, R76): not for non-temporal records, nor where a granule is in error. The core's stash
copies take its bytes, but for the dirty ones, which it takes from them (R106). -/
def allocL1 (a : Access) (x : Xlat) (pline : Nat) (s : State) : State :=
  if a.nt || ((s.core a.core).line pline).isSome || s.ecc.any (fun g => g / 16 = pline) then s
  else
    let s := l1Room a.core s
    let data := coreLine s a.core pline
    let s := putStashClean a.core pline data (clearL1 a.core pline (List.replicate 128 (some 0)) s)
    s.updCore a.core fun c => { c with
      l1 := c.l1 ++ [{ pline, va := x.vaOf (128 * pline), mode := x.mode, tenant := a.tenant, data, dirty := List.replicate 128 false }] }

/-- Requests of an access that are performed and leave it. -/
def removeReqs (id : Nat) (rs : List Req) (s : State) : State :=
  match getN s.accs id with
  | some a => putAcc { a with reqs := a.reqs.filter fun r => !rs.contains r } s
  | none => s

/-- The requests of an access with a key whose lanes' fates are decided. -/
def readyReqs (a : Access) (key : Nat) : List Req :=
  a.reqs.filter fun r => r.key = key && r.got.isNone && fateOf (a.reqs.filter fun q => q.lane = r.lane) = .go

/-- A load may be performed at a place now: its own undecided stores and older loads of the same place do not stand before it
(R74, R92). -/
def orderFree (s : State) (a : Access) (loc : Nat) : Bool :=
  !((ownStores s a).any fun e => !e.fate) &&
    !((olderLoads s a.core a.slot a.id).any fun o => o.reqs.any fun r => r.got.isNone && r.loc s (accBlock s o) = some loc)

/-- A load of a global line may be performed now: nor do committed stores of the core (R93). -/
def loadFree (s : State) (a : Access) (pline : Nat) : Bool := orderFree s a pline && !commitBusy s a.core pline

/-- Note a load performed before older ones of its group (R92, R94). -/
def noteAhead (a : Access) (loc : Nat) (s : State) : State :=
  if (olderLoads s a.core a.slot a.id).isEmpty then s
  else updAccGroup a (fun g => { g with ahead := g.ahead ++ [(a.id, loc)] }) s

/-- `stampw` re-reads its element at the slice (R255): it ends when the value is reached. -/
def stampwReads (a : Access) (r : Req) (x want : Nat) (s : State) : State :=
  if x < want then s
  else finishIfDone a.id (removeReqs a.id [r] (deliver a r x s))

/-- Requests of an access have read their elements. -/
def gotReqs (id : Nat) (rs : List Req) (x : Req → Nat) (s : State) : State :=
  match getN s.accs id with
  | some a => putAcc { a with reqs := a.reqs.map fun r => if rs.contains r then { r with got := some (x r) } else r } s
  | none => s

/-- A prefetched line arrives; one in error is dropped and counted in UECNT only (R243, R415). -/
def prefReturn (a : Access) (rs : List Req) (l1 : Bool) (x : Xlat) (pline : Nat) (s : State) : State :=
  let s := if s.ecc.any (fun g => g / 16 = pline) then countError cECC s
    else if l1 then allocL1 a x pline s else s
  finishIfDone a.id (removeReqs a.id rs s)

/-- LOAD_RETURN of a global line. -/
def returnGlobal (a : Access) (rs : List Req) (x : Xlat) (pline : Nat) (v : Option Nat) (s : State) : State :=
  if !loadFree s a pline || !((((s.core a.core).line pline).isSome && !a.kind.atSlice) || l2Ready s pline) then s
  else
    let s := evictL1 a.core (if v = some pline then none else v) s
    let s := if ((s.core a.core).line pline).isSome then s else useL2 pline a.nt s
    let bad := rs.filter (reqBad s a)
    let good := rs.filter fun r => !(bad.any fun b => b.lane = r.lane)
    let bs := lineSeen s a pline
    match a.kind with
    | .pref l1 => prefReturn a rs l1 x pline s
    | .stampw want _ _ =>
      if !bad.isEmpty then finishIfDone a.id (failLanes a bad s)
      else
        let l2 := applyBytes (applyBytes (readBytes s.mem (128 * pline) 128) (stashDirty s a.core pline)) (l1Dirty s a.core pline)
        match rs with | r :: _ => stampwReads a r (partOf l2 r.va r.size) want.toNat s | [] => s
    | _ =>
      let s := gotReqs a.id good (fun r => partOf bs r.va r.size) s
      finishIfDone a.id (failLanes a bad (noteAhead a pline (allocL1 a x pline s)))

/-- LOAD_RETURN of a scratchpad line: of a stash entry, as a load of its global line (R93, R106). -/
def returnScratch (a : Access) (rs : List Req) (c line : Nat) (s : State) : State :=
  let loc := scratchLoc s (accBlock s a) c line
  if !orderFree s a loc || scratchBusy s a.core (accBlock s a) c line || commitBusy s a.core loc then s
  else
    let bad := rs.filter (reqBad s a)
    let good := rs.filter fun r => !(bad.any fun b => b.lane = r.lane)
    let bs := scratchSeen s a c line
    finishIfDone a.id (failLanes a bad (noteAhead a loc (gotReqs a.id good (fun r => partOf bs r.va r.size) s)))

/-- LOAD_RETURN (R235): `idx` is the access, `aux` the line's key, `victim` an L1 line to evict. -/
def loadReturn (id key : Nat) (v : Option Nat) (s0 : State) : State :=
  let s := settleAccess id s0
  match getN s.accs id with
  | none => s
  | some a =>
    let ok := match a.kind with | .load => true | .pref _ => true | .stampw _ _ _ => true | _ => false
    if a.parked || !ok || !a.released || stampwOpen s a.core a.slot a.tenant a.id then s
    else
      let rs := readyReqs a key
      match rs with
      | [] => s
      | r :: _ =>
        match r.tr with
        | .scratch => returnScratch a rs r.core (r.va / 128) s
        | .found x => returnGlobal a rs x (x.pa (128 * key) / 128) v s
        | _ => s

/-! ## Atomics (R96, R238 to R240) -/

/-- One read-modify-write on an old value: the new value, or nothing written. -/
def atomStep (a : Access) (r : Req) (old : Nat) : Option Nat :=
  match a.kind with
  | .atom op => some (atomNew op a.typ old r.val.toNat)
  | .cas => if old = r.cmp.toNat then some r.val.toNat else none
  | _ => none

/-- An atomic on a global element (R96). -/
def atomGlobal (a : Access) (x : Xlat) (s : State) (r : Req) : State :=
  let pa := x.pa r.va
  let old := readNat s.mem pa r.size
  let s := match atomStep a r old with
    | some n =>
      let bs := toBytes r.size n
      putStash a.core (pa / 128) (overlay 128 (pa % 128) bs) (performBytes pa bs none (x.mode = 0) s)
    | none => s
  gotReqs a.id [r] (fun _ => old) s

/-- An atomic on a scratchpad element (R96), through the stash where a window maps it (R79). -/
def atomScratch (a : Access) (blk : Nat) (s : State) (r : Req) : State :=
  let old := ofBytes (scratchBytes s blk r.core r.va r.size)
  let s := match atomStep a r old with
    | none => s
    | some n =>
      let bs := (toBytes r.size n).map some
      let s := writeScratch blk r.core r.va bs s
      match stashOf s blk r.core r.va with
      | none => s
      | some (w, k, win, e) =>
        match e.tr with
        | none => combine a.core a.tenant (win.base / 128 + k) (overlay 128 (r.va % 128) (toBytes r.size n)) s
        | some x =>
          let pline := x.pa (win.base + 128 * k) / 128
          let here := overlay 128 (r.va % 128) (toBytes r.size n)
          let s := putL1 r.core pline here (putL1 a.core pline here (putStash r.core pline here s))
          if x.mode = 0 then performWrite (128 * pline + r.va % 128) bs (some r.core) true s
          else updEntry blk r.core w k (fun e => { e with
            st := .dirty
            mask := here.zipIdx.map fun (b, i) => b.isSome || e.mask.getD i false
            writers := insertNat a.core e.writers }) s
  gotReqs a.id [r] (fun _ => old) s

/-- A load of the core was performed early at a place, before older loads of its group (R92). -/
def aheadAt (s : State) (core loc : Nat) : Bool :=
  s.groups.any fun (k, g) => coreOf k = core && g.ahead.any fun (_, p) => p = loc

/-- Requests of an atomic without those that come after another lane's access to the same element that is not decided yet (R238):
requests stand by position and then by lane. -/
def inLaneOrder (a : Access) (rs : List Req) : List Req :=
  let before (r : Req) : List Req := (a.reqs.takeWhile fun q => q ≠ r).filter fun q =>
    q.va = r.va && q.core = r.core && q.got.isNone && fateOf (a.reqs.filter fun p => p.lane = q.lane) = .undecided
  rs.filter fun r => (before r).isEmpty

/-- Lanes of some requests that meet an error at any of their lines: they perform nothing (R379, R415). -/
def badLanes (s : State) (a : Access) (rs : List Req) : List Req :=
  a.reqs.filter fun r => rs.any (fun q => q.lane = r.lane) && r.got.isNone && reqBad s a r

/-- ATOMIC_PERFORM (R96): `idx` is the access, `aux` the line's key. -/
def atomicPerform (id key : Nat) (s0 : State) : State :=
  let s := settleAccess id s0
  match getN s.accs id with
  | none => s
  | some a =>
    let ok := match a.kind with | .atom _ => true | .cas => true | _ => false
    if a.parked || !ok || !a.released || !(ownStores s a).isEmpty || !(olderLoads s a.core a.slot a.id).isEmpty ||
        stampwOpen s a.core a.slot a.tenant a.id then s
    else
      let rs := inLaneOrder a (readyReqs a key)
      let bad := badLanes s a rs
      let good := rs.filter fun r => !(bad.any fun b => b.lane = r.lane)
      match rs with
      | [] => s
      | r :: _ =>
        match r.tr with
        | .scratch =>
          let loc := scratchLoc s (accBlock s a) r.core (r.va / 128)
          let out : Store := { id, tenant := a.tenant, dest := .scratch r.core (r.va / 128) }
          if scratchBusy s a.core (accBlock s a) r.core (r.va / 128) || commitBusy s a.core loc || aheadAt s a.core loc then s
          else if combShut s a.core (accBlock s a) out then combYield (accBlock s a) out s
          else finishIfDone id (failLanes a bad (good.foldl (atomScratch a (accBlock s a)) s))
        | .found x =>
          let pline := x.pa (128 * key) / 128
          if commitBusy s a.core pline || aheadAt s a.core pline || !l2Ready s pline then s
          else finishIfDone id (failLanes a bad (good.foldl (atomGlobal a x) (useL2 pline a.nt (flushLine a.core a.tenant pline (128 * key) s))))
        | _ => s

/-! ## Commit and performance (R74, R75, R95, R97) -/

/-- The loads older than this id come before an entry's commit: a marker stands where its access was issued (R92, R97). -/
def Store.order (e : Store) : Nat := match e.mark with | some (.access a) => a | _ => e.id

/-- A store queue's head may leave now: its lanes are decided, a `stamp.all` has its forks, one entry leaves a core's queues
per clock, and what comes before it in the issue order has been performed (R74, R92, R101, R254). -/
def mayCommit (s : State) (core slot : Nat) (g : Group) (e : Store) : Bool :=
  e.fate && !(e.forks.any fun o => (getN s.ops o).isSome) && decide ((s.core core).lastCommit ≠ some (s.core core).cycle) &&
    (olderLoads s core slot e.order).isEmpty && !stampwOpen s core slot g.tenant e.order &&
    (match e.loc s g.block with | some l => !aheadAt s core l | none => true)

/-- An entry's bytes lie in a stash entry that has lost its translation since the lanes were decided: they park on it again
(R79). -/
def lostEntry (s : State) (blk : Nat) (e : Store) : Bool :=
  match e.dest with
  | .scratch c line => (match stashOf s blk c (128 * line) with
    | some (_, _, _, x) => x.tr.isNone && x.st = .invalid
    | none => false)
  | _ => false

/-- The lanes of a store are decided anew where they meet a lost stash entry. -/
def decideAnew (core slot : Nat) (g : Group) (id : Nat) (s : State) : State :=
  let anew (e : Store) : Store := if e.id = id && lostEntry s g.block e then { e with fate := false } else e
  decideStore core slot id (s.updGroup (gkey core slot) fun g => { g with storeQ := g.storeQ.map anew })

/-- STORE_COMMIT (R74): `unit` is the core, `idx` the slot, `victim` an L1 line to evict. One entry per core clock. -/
def storeCommit (core slot : Nat) (v : Option Nat) (s0 : State) : State :=
  let k := gkey core slot
  match s0.group k with
  | none => s0
  | some g0 =>
    match g0.storeQ with
    | [] => s0
    | e0 :: _ =>
      if !mayCommit s0 core slot g0 e0 then s0
      else if lostEntry s0 g0.block e0 then decideAnew core slot g0 e0.id s0
      else
        let s := if e0.mark.isNone then dropBadLanes core slot e0.id s0 else s0
        match (s.group k).bind fun g => (g.storeQ.head?).map fun e => (g, e) with
        | none => retireGroup k (wakeSpills k s)
        | some (g, e) =>
          if e.id ≠ e0.id || !mayCommit s core slot g e then retireGroup k (wakeSpills k s)
          else if combShut s core g.block e then retireGroup k (wakeSpills k (combYield g.block e s))
          else
            let s := s.setGroup k { g with storeQ := g.storeQ.tail }
            let s := s.updCore core fun c => { c with lastCommit := some c.cycle }
            retireGroup k (wakeSpills k (commitEntry core g.block e (evictL1 core v s)))

/-- Two entries of a commit order write the same line. -/
def sameLine (e f : Store) : Bool :=
  e.mark.isNone && f.mark.isNone &&
    (match e.dest, f.dest with
     | .scratch c l, .scratch d m => e.blk = f.blk && c = d && l = m
     | .scratch _ _, _ => false
     | _, .scratch _ _ => false
     | _, _ => if e.tr = .remote || f.tr = .remote then e.tr = f.tr && e.dest = f.dest else e.pline = f.pline)

/-- The outstanding remote writes and atomics of a core that precede a number of its commit order (R97). -/
def remoteOut (s : State) (core n : Nat) : Bool :=
  (s.stations.any fun (_, x) => x.pkts.any fun p => decide (p.seq < n) &&
    (match p.cargo, p.kind with
     | .line c _ _, _ => c = core
     | .store c _, _ => c = core
     | .piece _ _ _, some (.read _ _) => false
     | .piece acc _ _, _ => (match getN s.accs acc with | some a => a.core = core | none => false)
     | _, _ => false))

/-- An entry of the commit order is the release of a `ctrset` of a group: what the group issued after it comes after it (R250,
R259). -/
def ctrFork (s : State) (slot : Nat) (e : Store) : Bool :=
  e.slot = slot && (match e.mark with
    | some (.fork id) => (match getN s.ops id with
      | some o => (match o.kind with | .ctr _ _ _ _ _ => true | _ => false)
      | none => false)
    | _ => false)

/-- An entry of the commit order may be performed now (R75, R95, R97); a store to a peer needs a line of the combining buffer while
its window may hold it (R332). -/
def mayPerform (s : State) (core : Nat) (before : List Store) (e : Store) : Bool :=
  let pod := match e.rel with | some sc => decide (5 ≤ sc) | none => false
  !(before.any fun b => sameLine b e) && (!e.wide || before.all fun b => b.mark.isSome) &&
    (e.mark.isNone || !(before.any Store.writeBack)) && (e.mark.isNone || !(before.any (ctrFork s e.slot))) && (!pod || !remoteOut s core e.seq) &&
    (match e.mark, e.dest, e.tr with
     | some _, _, _ => true
     | none, .scratch _ _, _ => true
     | none, .none, _ => l2Free s e.pline
     | none, .virt line, .remote => decide (linesHeld (s.station (stationOf (128 * line))) < 64)
     | none, _, _ => l2Ready s e.pline)

/-- The buffers that an `icinv` reaches (R193). -/
def inScope (scope core c : Nat) : Bool :=
  match scope with
  | 1 => c = core
  | 2 => clusterOf c = clusterOf core
  | 3 => dieOf c = dieOf core
  | _ => true

/-- A bundle of a core holds a reference to an instruction-buffer line (R193). -/
def lineInUse (s : State) (c id : Nat) : Bool :=
  s.groups.any fun (k, g) => coreOf k = c && g.bundles.any fun b => b.line = some id || b.line2 = some id

/-- An instruction-buffer line of a tenant that a range meets goes, or becomes stale while it is in use (R193, R414). -/
def dropIbuf (s : State) (tenant lo hi c : Nat) (x : Core) : Core :=
  let hit (l : IbLine) : Bool := l.tenant = tenant && decide (128 * l.vline < hi) && decide (lo < 128 * l.vline + 128)
  { x with ibuf := (x.ibuf.filter fun (id, l) => !hit l || lineInUse s c id).map fun (id, l) =>
      (id, if hit l then { l with stale := true } else l) }

/-- Invalidate a tenant's instruction-buffer lines in every buffer of a scope (R193). -/
def invalidateIbuf (s : State) (core tenant lo hi scope : Nat) : State :=
  if hi ≤ lo then s
  else { s with cores := s.cores.map fun (c, x) => (c, if inScope scope core c then dropIbuf s tenant lo hi c x else x) }

/-- Bundles that wait for an operation go on. -/
def releaseHold (k op : Nat) (s : State) : State :=
  s.updGroup k fun g => { g with bundles := g.bundles.map fun b => if b.hold = some (.op op) then { b with hold := none } else b }

/-- A block's barrier gains arrivals (R32). -/
def arrive (blk b : Nat) (lanes : W64) (s : State) : State :=
  barrierTest blk b (s.updBlock blk fun x => { x with bars := putN x.bars b ((getN x.bars b).getD 0 + popc lanes) })

/-- LD (R235). -/
def execLd (h : Hdr) (m : Multi) (s : State) : Out := .next (opLd h (.multi m) s)

/-- ST (R236). -/
def execSt (h : Hdr) (m : Multi) (s : State) : Out := .next (opSt h (.multi m) s)

/-- LDS (R237). -/
def execLds (h : Hdr) (m : Multi) (s : State) : Out := .next (opLds h (.multi m) s)

/-- STS (R237). -/
def execSts (h : Hdr) (m : Multi) (s : State) : Out := .next (opSts h (.multi m) s)

/-- ATOM (R238). -/
def execAtom (h : Hdr) (m : Multi) (s : State) : Out := .next (opAtom h (.multi m) s)

/-- ACAS (R239). -/
def execAcas (h : Hdr) (m : Multi) (s : State) : Out := .next (opAcas h (.multi m) s)

/-- ATOMS (R240). -/
def execAtoms (h : Hdr) (m : Multi) (s : State) : Out := .next (opAtoms h (.multi m) s)

/-- FENCE (R241). -/
def execFence (h : Hdr) (m : Multi) (s : State) : Out := .next (opFence h (.multi m) s)

/-- STASH (R242). -/
def execStash (h : Hdr) (m : Multi) (s : State) : Out := .next (opStash h (.multi m) s)

/-- PREF (R243). -/
def execPref (h : Hdr) (m : Multi) (s : State) : Out := .next (opPref h (.multi m) s)

/-- SLD (R175). -/
def execSld (h : Hdr) (m : Multi) (s : State) : Out := .next (opSld h (.multi m) s)

/-- SST (R175). -/
def execSst (h : Hdr) (m : Multi) (s : State) : Out := .next (opSst h (.multi m) s)

/-- SATOM (R176). -/
def execSatom (h : Hdr) (m : Multi) (s : State) : Out := .next (opSatom h (.multi m) s)

/-! ## Events -/

/-- STORE_COMMIT (R74). -/
def execStoreCommit (s : State) : Out := .next (storeCommit s.input.unit s.input.idx s.input.victim s)
/-- LOAD_RETURN (R235). -/
def execLoadReturn (s : State) : Out := .next (loadReturn s.input.idx s.input.aux s.input.victim s)
/-- ATOMIC_PERFORM (R96). -/
def execAtomicPerform (s : State) : Out := .next (atomicPerform s.input.idx s.input.aux s)
/-- PAGE_WALK_DONE (R113). -/
def execPageWalkDone (s : State) : Out := .next (walkDone s.input.unit s.input.idx s)

end Sys2Proof.Machine
end

