-- ==== Sys2Proof/Machine/Sync.lean ====
section
/-!
DEFINITION. Return stacks, barriers, monitors, instruction-buffer and TLB invalidation, counters, rings and
buffer records, with their events (spec 02 R17, R18; 04 R78, R81; 09 R183, R184, R186, R188, R189, R193, R202;
11 R250 to R253, R258).
-/

namespace Sys2Proof.Machine

/-! ## The return stack (R17, R18, R183, R184) -/

/-- The stack top of a thread (R15, R17). -/
def stackTop (k : Nat) (g : Group) (l : Nat) : Nat := g.tlsBase.toNat + (64 * k + l) * g.tlsStride.toNat
/-- The address of spilled block `n` of a thread (R17). -/
def spillAddr (k : Nat) (g : Group) (l n : Nat) : Nat := (stackTop k g l + 2 ^ 64 - 32 * n) % 2 ^ 64

/-- A range of bytes cut at every line boundary and at 16 bytes: offset and size. -/
def pieces (va : Nat) : Nat → Nat → Nat → List (Nat × Nat)
  | 0, _, _ => []
  | fuel + 1, off, n =>
    if n = 0 then []
    else
      let m := min n (min 16 (128 - (va + off) % 128))
      (off, m) :: pieces va fuel (off + m) (n - m)

/-- The pieces of a 32-byte block. -/
def blockPieces (va : Nat) : List (Nat × Nat) := pieces va 32 0 32

/-- What a push finds for one lane (R17, R18). -/
inductive Push where
  | busy | plain | spill | full
  deriving DecidableEq, Repr

/-- What a push finds for one lane (R17, R18). -/
def pushFinds (g : Group) (l : Nat) : Push :=
  let x := g.lane l
  if x.stackBusy then .busy
  else if x.stack.length < 8 then .plain
  else if g.tlsStride.toNat < 32 * (x.spilled + 1) then .full
  else .spill

/-- The spill of a lane's oldest four entries as store requests (R17). -/
def spillReqs (k : Nat) (g : Group) (l : Nat) : List Req :=
  let x := g.lane l
  let va := spillAddr k g l (x.spilled + 1)
  let bytes := (x.stack.drop 4).reverse.flatMap fun w => toBytes 8 w.toNat
  (blockPieces va).map fun (off, n) =>
    { lane := l, pos := off, va := va + off, size := n, dst := 0, val := BitVec.ofNat 128 (ofBytes ((bytes.drop off).take n)) }

/-- Push *next* on lanes and send them to their targets (R17, R183). -/
def callLanes (i : Iss) (g : Group) (m : W64) (target : Nat → W64) (s : State) : Option State :=
  let pick (p : Push) : W64 := maskOf ((lanesOf m).filter fun l => pushFinds g l = p)
  let spills := pick .spill
  let wait := pick .busy ||| (if storeFull g then spills else 0)
  let go := m &&& ~~~wait &&& ~~~pick .full
  let now := go &&& spills
  let rs := (lanesOf now).flatMap (spillReqs i.k g)
  if !rs.isEmpty && (!g.memHold.isEmpty || walkHeld s (i.k / 128) (rs.map Req.va)) then none
  else
    let (id, s) := s.fresh
    let a := newAccess i g id .store now s
    let s := s.updGroup i.k fun g => g.updLanes go fun l x =>
      let x := if now.getLsbD l then { x with stack := x.stack.take 4, spilled := x.spilled + 1 } else x
      { x with stack := i.next :: x.stack, pc := target l }
    let s := s.updGroup i.k fun g => g.park wait (fun _ => .refill) fun _ => s.cur.pc
    let s := precise i.k ((lanesOf (pick .full)).map fun l =>
      { lane := l, cause := cBOUNDS, sub := 0x01, info := w64 (spillAddr i.k g l ((g.lane l).spilled + 1)) }) s
    some (if rs.isEmpty then s else enqueueStore a rs s)

/-- A push of a sequencer without lanes (R184): a ninth is refused. -/
def procCall (p : Proc) (target : Nat) (s : State) : PRes :=
  if 8 ≤ p.stack.length then .fault cILLEGAL 0x0d 0
  else .done { p with stack := w64 p.pc :: p.stack, pc := target } s

/-- `call` (R183). -/
def opCall (h : Hdr) (f : Form) (s : State) : State :=
  match s.cur.seq with
  | .group => groupIssue 0x23 h f (fun i g s =>
      if dispBad i.o then some (illegal i i.act 0x0b s)
      else callLanes i g i.act (fun _ => s.cur.pc + branchDisp i.o f) s) s
  | _ => procIssue 0x23 h f (fun o p s =>
      if dispBad o then .fault cILLEGAL 0x0b 0 else procCall p (procTarget s (branchDisp o f)) s) s

/-- `callx` (R182, R183). -/
def opCallx (h : Hdr) (f : Form) (s : State) : State :=
  groupIssue 0x24 h f (fun i g s =>
    let bad := brxBad i g
    (callLanes i g (i.act &&& ~~~maskOf (bad.map LaneFault.lane)) (brxTarget i g) s).map (precise i.k bad)) s

/-- Start a refill of a lane's stack (R17): an access of its own. -/
def startRefill (i : Iss) (g : Group) (l : Nat) (s : State) : State :=
  let (id, s) := s.fresh
  let va := spillAddr i.k g l (g.lane l).spilled
  let a := newAccess i g id .refill (laneBit l) s
  let s := s.updGroup i.k fun g => g.updLane l fun x => { x with stackBusy := true }
  let (rs, s) := trReqs a ((blockPieces va).map fun (off, n) => { lane := l, pos := off, va := va + off, size := n, dst := 0 }) s
  settleAccess id (putAcc { a with reqs := rs } s)

/-- `ret` (R17, R18, R183). -/
def opRet (h : Hdr) (f : Form) (s : State) : State :=
  match s.cur.seq with
  | .group => groupIssue 0x25 h f (fun i g s =>
      let lanes := lanesOf i.act
      let busy := lanes.filter fun l => (g.lane l).stackBusy
      let free := lanes.filter fun l => !(g.lane l).stackBusy
      let bare := free.filter fun l => (g.lane l).stack.isEmpty
      let bad := bare.filter fun l => (g.lane l).spilled = 0
      let dry := bare.filter fun l => (g.lane l).spilled ≠ 0
      let pop := free.filter fun l => !(g.lane l).stack.isEmpty
      let last := pop.filter fun l => (g.lane l).stack.length = 1 && (g.lane l).spilled ≠ 0
      let need := dry ++ last
      if !need.isEmpty && (!g.memHold.isEmpty ||
          walkHeld s (i.k / 128) (need.map fun l => spillAddr i.k g l (g.lane l).spilled)) then none
      else
        let s := s.updGroup i.k fun g => g.updLanes (maskOf pop) fun _ x =>
          { x with pc := x.stack.headD 0, stack := x.stack.tail }
        let s := s.updGroup i.k fun g => g.park (maskOf (busy ++ dry)) (fun _ => .refill) fun _ => s.cur.pc
        let s := precise i.k (sameFault (maskOf bad) cILLEGAL 0x0c 0 0) s
        some (need.foldl (fun s l => startRefill i g l s) s)) s
  | _ => procIssue 0x25 h f (fun _ p s =>
      match p.stack with
      | [] => .fault cILLEGAL 0x0c 0
      | t :: st => .done { p with stack := st, pc := t.toNat } s) s

/-- RETURN_STACK_REFILL_LANDS (R17, R399): `idx` is the refill's access. -/
def refillLands (id : Nat) (s0 : State) : State :=
  let s := settleAccess id s0
  match getN s.accs id with
  | none => s
  | some a =>
    let place (r : Req) : Option (Nat × Xlat) := r.tr.leaf.map fun x => (x.pa r.va / 128, x)
    let here (r : Req) : Bool := r.tr = .remote && r.fwd.length = r.size
    let ready := a.reqs.all fun r => match place r with
      | some (p, _) => loadFree s a p && (((s.core a.core).line p).isSome || l2Ready s p)
      | none => here r
    if a.kind ≠ .refill || a.parked || !ready || a.reqs.isEmpty || stampwOpen s a.core a.slot a.tenant a.id then s
    else
      let bad := a.reqs.filter (reqBad s a)
      if !bad.isEmpty then finishIfDone id (failLanes a bad s)
      else
        let bytes := a.reqs.flatMap fun r => match place r with
          | some (p, _) => ((lineSeen s a p).drop (r.va % 128)).take r.size
          | none => r.fwd.map fun b => b.getD 0
        let words := (List.range 4).map fun n => w64 (ofBytes ((bytes.drop (8 * n)).take 8))
        let s := updAccGroup a (fun g => g.updLanes (a.lanes &&& ~~~g.exited) fun _ x =>
          { x with stack := words.reverse, spilled := x.spilled - 1, stackBusy := false,
                   park := if x.park = some .refill then none else x.park }) s
        finishIfDone id (removeReqs id a.reqs s)

/-- STASH_FILL_DONE (R79, R415): `idx` is the fill's access. -/
def stashFillDone (id : Nat) (s : State) : State :=
  match getN s.accs id with
  | none => s
  | some a =>
    match a.kind, a.reqs with
    | .stashFill blk win e, [r] =>
      match r.tr with
      | .found x =>
        let pline := x.pa r.va / 128
        if commitBusy s a.core pline || !(((s.core a.core).line pline).isSome || l2Ready s pline) then s
        else if reqBad s a r then
          failFill a blk win e cECC (countError cECC s)
        else
          landFill a blk win e (coreLine s a.core pline) (some x) (useL2 pline false s)
      | _ => s
    | _, _ => s

/-! ## Barriers and monitors -/

/-- `bar` (R32, R103, R186): lanes park, and arrive when the release of scope clu has been performed. -/
def opBar (h : Hdr) (f : Form) (s : State) : State :=
  groupIssue 0x28 h f (fun i _ s =>
    let s := s.updGroup i.k fun g => g.park i.act (fun _ => .barrier i.o.a) fun _ => i.next
    some (enqueueMark (i.k / 128) (i.k % 128) 2 (.barrier i.o.a i.act) s)) s

/-- `mon` (R188). -/
def opMon (h : Hdr) (f : Form) (s : State) : State :=
  groupIssue 0x2a h f (memEff fun i g s =>
    match placeElem (i.brec g) (((g.readS i.now i.o.a).toNat + (issB i g).toNat) % 2 ^ 64) 1 true false with
    | .bad c sub info => some (scalarFault i c sub info s)
    | .out => some (countOob (i.k / 128) 1 s)
    | .here _ va =>
      if nodeOf va ≠ s.regs.nodeId then some (illegal i i.act 0x10 s)
      else if walkHeld s (i.k / 128) [va] then none
      else
        let (id, s) := s.fresh
        let a := { newAccess i g id .mon i.act s with scalar := true }
        let (rs, s) := trReqs a [{ lane := (lowest i.act).getD 0, pos := 0, va, size := 1, dst := 0 }] s
        some (settleAccess id (putAcc { a with reqs := rs } s))) s

/-- Wake every lane that waits on the group's monitor (R189). -/
def wakeMwait (k : Nat) (s : State) : State :=
  s.updGroup k fun g =>
    { g.unpark (g.parkedOn fun c => c = .monitor) with monitor := .disarmed, mwaitTill := none }

/-- `mwait` (R189): it waits for a `mon` that is still being translated. -/
def opMwait (h : Hdr) (f : Form) (s : State) : State :=
  groupIssue 0x2b h f (fun i g s =>
    let n := if i.o.sl then i.o.lit.toNat else (g.readS i.now i.o.a).toNat
    if (accsOf s (i.k / 128) (i.k % 128)).any fun a => a.kind = .mon && !a.parked then none
    else
      let parks := match g.monitor with | .armed _ => true | _ => false
      if !parks then some (s.updGroup i.k fun g => { g with monitor := .disarmed })
      else some (s.updGroup i.k fun g =>
        { g.park i.act (fun _ => .monitor) (fun _ => i.next) with
          mwaitTill := if n = 0 then g.mwaitTill
            else some (match g.mwaitTill with | some t => min t (i.now + n) | none => i.now + n) })) s

/-- MWAIT_TIMEOUT (R189): `unit` is the core, `idx` the slot. -/
def mwaitTimeout (core slot : Nat) (s : State) : State :=
  match s.group (gkey core slot) with
  | some g => match g.mwaitTill with
    | some t => if t ≤ (s.core core).cycle then wakeMwait (gkey core slot) s else s
    | none => s
  | none => s

/-- SLEEP_EXPIRY (R203): `unit` is the core, `idx` the slot. -/
def sleepExpiry (core slot : Nat) (s : State) : State :=
  let upd (b : Bundle) : Bundle := match b.hold with
    | some (.sleep t _) => if t ≤ (s.core core).cycle then { b with hold := none } else b
    | _ => b
  s.updGroup (gkey core slot) fun g => { g with bundles := g.bundles.map upd }

/-! ## Invalidation -/

/-- `icinv` (R193): the release of its scope, then the invalidation; the bundle does not issue until both are done. -/
def opIcinv (h : Hdr) (f : Form) (s : State) : State :=
  groupIssue 0x2f h f (fun i g s =>
    let lo := (g.readS i.now i.o.a).toNat
    let hi := lo + (issB i g).toNat
    if 2 ^ 64 < hi then some (illegal i i.act 0x0b s)
    else
      let (id, s) := s.fresh
      let s := enqueueMark (i.k / 128) (i.k % 128) i.o.opt (.icinv lo hi i.o.opt id) s
      some { s with cur := { s.cur with hold := some (.op id) } }) s

/-- `tlbinv` (R118, R202): entries of the target go from the TLBs and the walker's cache. -/
def opTlbinv (h : Hdr) (f : Form) (s : State) : State :=
  groupIssue 0xe2 h f (fun i g s =>
    let va := (g.readS i.now i.o.a).toNat
    let hit (x : Xlat) : Bool := if i.o.opt = 2 then x.tenant = g.tenant else x.covers g.tenant va
    let die (d : Nat) : Bool := i.o.opt ≠ 0 || d = dieOf (i.k / 128)
    let s := { s with
      cores := s.cores.map fun (c, x) => (c, if die (dieOf c) then { x with tlb := x.tlb.filter fun x => !hit x } else x)
      dies := s.dies.map fun (d, x) => (d, if die d then
        { x with
          tlb := x.tlb.filter fun x => !hit x
          cache := x.cache.filter fun c => !(c.1 = g.tenant && (i.o.opt = 2 || c.2.2.1 = walkPrefix c.2.1 va)) } else x) }
    some (scalarResult i i.o.d 0 s)) s

/-! ## Arrival counters (R78, R250, R251) -/

/-- The key of a counter in a park cause. -/
def ctrKey (core c : Nat) : Nat := 256 * core + c

/-- Test a counter (R78): the threads of the block parked on it go on, with the acquire of R101. -/
def counterTest (blk core c : Nat) (s : State) : State :=
  match getN s.blocks blk with
  | none => s
  | some b => match b.share core with
    | none => s
    | some sh =>
      if (getZ sh.ctrVal c).toNat < (getZ sh.ctrTgt c).toNat then s
      else b.live.foldl (fun s k => match s.group k with
        | none => s
        | some g =>
          let m := g.parkedOn fun p => p = .counter (ctrKey core c)
          if m = 0 then s else acquireAt (k / 128) 6 (s.setGroup k (g.unpark m))) s

/-- Change a counter and test it: `ctrset`, engine arrivals and `kdone` in one order (R250). -/
def changeCounter (blk core c : Nat) (val tgt : W64 → W64) (s : State) : State :=
  counterTest blk core c (s.updBlock blk fun b => b.updShare core fun sh =>
    { sh with ctrVal := setZ sh.ctrVal c (val (getZ sh.ctrVal c)), ctrTgt := setZ sh.ctrTgt c (tgt (getZ sh.ctrTgt c)) })

/-- An engine arrival (R250). -/
def arriveCounter (blk core c n : Nat) (s : State) : State := changeCounter blk core c (· + w64 n) id s

/-- The counter that an instruction names: its core, or the SUB of the refusal (R250, R78). -/
def counterOf (s : State) (i : Iss) (g : Group) : Except Nat Nat :=
  match blockOf s g with
  | none => .error 0
  | some b =>
    let core := if bitAt i.o.c 2 then coreOfCluster b.cluster (i.o.c % 4) else i.k / 128
    if (b.share core).isNone then .error 0
    else if (layoutOf s b).nctr ≤ i.o.d then .error 1
    else .ok core

/-- The issuing lane of a single action (R244). -/
def issuing (i : Iss) : W64 := match lowest i.act with | some l => laneBit l | none => 0

/-- `ctrset` (R250, R259): after a release of scope clu; the bundle goes on when it has been performed. -/
def opCtrset (h : Hdr) (f : Form) (s : State) : State :=
  groupIssue 0x8e h f (memEff fun i g s =>
    match counterOf s i g with
    | .error sub => some (precise i.k (sameFault (issuing i) cSCRATCH sub 0 (w64 i.o.d)) s)
    | .ok core =>
      let (id, s) := s.fresh
      let o : Op := { id, core := i.k / 128, slot := i.k % 128, lane := (lowest i.act).getD 0, tenant := g.tenant, blk := g.block,
                      pc := s.cur.pc, kind := .ctr core i.o.d i.o.opt (g.readS i.now i.o.a) (w64 (memOffset i g)) }
      let s := enqueueMark (i.k / 128) (i.k % 128) 2 (.fork id) { s with ops := putN s.ops id o }
      some { s with cur := { s.cur with hold := some (.op id) } }) s

/-- What a performed `ctrset` does (R250). -/
def applyCtr (blk core c opt : Nat) (val tgt : W64) (s : State) : State :=
  match opt with
  | 0 => changeCounter blk core c (fun _ => val) (fun _ => tgt) s
  | 1 => changeCounter blk core c id (fun _ => tgt) s
  | _ => changeCounter blk core c (· + val) id s

/-- A counter holds its condition (R78). -/
def counterMet (s : State) (blk core c : Nat) : Bool :=
  match (getN s.blocks blk).bind (·.share core) with
  | some sh => decide ((getZ sh.ctrTgt c).toNat ≤ (getZ sh.ctrVal c).toNat)
  | none => false

/-- A `ctrset` of the same group on this counter has been issued and not yet applied: program order on one counter (R250). -/
def ctrPending (s : State) (i : Iss) (core c : Nat) : Bool :=
  s.ops.any fun (_, o) => gkey o.core o.slot = i.k && (match o.kind with | .ctr x n _ _ _ => x = core && n = c | _ => false)

/-- `ctrwait` (R251). -/
def opCtrwait (h : Hdr) (f : Form) (s : State) : State :=
  groupIssue 0x8f h f (memEff fun i g s =>
    match counterOf s i g with
    | .error sub => some (precise i.k (sameFault i.act cSCRATCH sub 0 (w64 i.o.d)) s)
    | .ok core =>
      if ctrPending s i core i.o.d then none else
      let met := counterMet s g.block core i.o.d
      let s := if met then acquireAt (i.k / 128) 6 s else s
      if i.o.opt = 1 then some (scalarResult i i.o.a (if met then 1 else 0) s)
      else if met then some s
      else some (s.updGroup i.k fun g => g.park i.act (fun _ => .counter (ctrKey core i.o.d)) fun _ => i.next)) s

/-! ## Rings and streams (R252, R253) -/

/-- A queue control word is refused under R81 (R252). -/
def ringBad (s : State) (b : Block) (w : W128) : Bool :=
  let r := ringOf w
  let l := layoutOf s b
  bitsOf w.toNat 95 67 ≠ 0 || bitsOf w.toNat 47 21 ≠ 0 || bitsOf w.toNat 7 2 ≠ 0 ||
    r.depth = 0 || 2 ^ 15 < r.depth || (b.share (coreOfCluster b.cluster r.core)).isNone ||
    r.base < l.ring || l.stash < r.base + r.depth * r.esz * 256

/-- A release of an element of a ring that has been set anew: it moves no TAIL any more. -/
def Store.forgetPush (blk q : Nat) (e : Store) : Store :=
  match e.mark with
  | some (.pushed b r _) => if b = blk && r = q then { e with mark := some (.pushed b r (2 ^ 16)) } else e
  | _ => e

/-- A queue control word is set (R252): what was in the making or not yet released in the old ring is nothing in the new one. -/
def setRing (blk q : Nat) (w : W128) (s : State) : State :=
  let group (g : Group) : Group := { g with storeQ := g.storeQ.map (Store.forgetPush blk q) }
  let core (c : Core) : Core := { c with commitQ := c.commitQ.map (Store.forgetPush blk q) }
  let s : State := { s with groups := s.groups.map fun (k, g) => (k, group g), cores := s.cores.map fun (c, x) => (c, core x) }
  s.updBlock blk fun b =>
      { b with qcws := setZ b.qcws q w, popped := delN b.popped q, pushed := delN b.pushed q, unreleased := delN b.unreleased q }

/-- `qcw` (R252). -/
def opQcw (h : Hdr) (f : Form) (s : State) : State :=
  groupIssue 0x90 h f (fun i g s =>
    match blockOf s g with
    | none => some s
    | some b =>
      let q := i.o.d
      if i.o.opt = 1 then
        let w := (getZ b.qcws q).toNat
        some (scalarResult i (i.o.a + 1) (w64 (w / 2 ^ 64)) (scalarResult i i.o.a (w64 w) s))
      else
        let w : W128 := BitVec.ofNat 128 ((g.readS i.now i.o.a).toNat + 2 ^ 64 * (g.readS i.now (i.o.a + 1)).toNat)
        let bound := b.live.any fun k => match s.group k with | some g => g.binds.any fun x => x.q = q | none => false
        let r := ringOf w
        if bound then some (precise i.k (sameFault (issuing i) cSTREAM 0x01 0 (w64 q)) s)
        else if r.depth < r.count then some (precise i.k (sameFault (issuing i) cSTREAM 0x02 0 (w64 q)) s)
        else if ringBad s b w then some (precise i.k (sameFault (issuing i) cSCRATCH 0x03 0 (w64 r.base)) s)
        else some (wakeStreams g.block (setRing g.block q w s))) s

/-- `sbind` (R253). -/
def opSbind (h : Hdr) (f : Form) (s : State) : State :=
  groupIssue 0x91 h f (fun i g s =>
    let no (sub : Nat) : Option State := some (precise i.k (sameFault (issuing i) cSTREAM sub 0 (streamInfo i.o.a i.o.d)) s)
    if g.binds.any fun b => b.reg = i.o.d then no 0x03
    else if 16 ≤ g.binds.length then no 0x04
    else some (s.updGroup i.k fun g => { g with binds := g.binds ++ [{ reg := i.o.d, q := i.o.a, push := i.o.opt = 1 }] })) s

/-- `sunbind` (R253). -/
def opSunbind (h : Hdr) (f : Form) (s : State) : State :=
  groupIssue 0x92 h f (fun i g s =>
    let no (sub q : Nat) : Option State := some (precise i.k (sameFault (issuing i) cSTREAM sub 0 (streamInfo q i.o.d)) s)
    match g.binds.find? fun b => b.reg = i.o.d with
    | none => no 0x05 0
    | some b =>
      if ((blockOf s g).map (partStream · b)).getD false then no 0x06 b.q
      else some (s.updGroup i.k fun g => { g with binds := g.binds.filter fun b => b.reg ≠ i.o.d })) s

/-! ## Buffer records (R258) -/

/-- The record that four scalar registers give (R258). -/
def msetRec (i : Iss) (g : Group) : Nat :=
  (List.range 4).foldl (fun x j => x + ((g.readS i.now (i.o.a + j)).toNat % 2 ^ 32) * 2 ^ (32 * j)) 0

/-- A record that `mset` refuses (R258). -/
def recRefused (r : Nat) : Bool :=
  5 ≤ recEsize r || 8 ≤ bitsOf r 119 116 || bitsOf r 127 124 ≠ 0 || bitAt r 63

/-- `mset` (R258). -/
def opMset (h : Hdr) (f : Form) (s : State) : State :=
  groupIssue 0x97 h f (fun i g s =>
    let r := msetRec i g
    if recRefused r then some (illegal i (issuing i) 0x16 s)
    else some (s.updGroup i.k fun g => { g with mrecs := setZ g.mrecs i.o.d (BitVec.ofNat 128 r) })) s

/-! ## Misses and prefetches -/

/-- The physical line, tag and non-temporal mark of a miss (R71, R303): `word` 0 names an access and the key of its line, 1 an
entry of a core's commit order, 2 a peer's request at a station. -/
def missOf (s : State) (x : Input) : Option (Nat × Option (Nat × Nat) × Bool) :=
  match x.word.toNat with
  | 0 => (getN s.accs x.idx).bind fun a =>
      (a.reqs.find? fun r => r.key = x.aux && r.tr.leaf.isSome).bind fun r => r.tr.leaf.bind fun y =>
        let pline := y.pa r.va / 128
        if a.parked || (((s.core a.core).line pline).isSome && a.kind.want = .read && !a.kind.atSlice) then none
        else some (pline, (match a.kind with | .pref _ => none | _ => some (a.tenant, r.va / 128)), a.nt)
  | 1 => ((s.core x.unit).commitQ[x.idx]?).bind fun e =>
      match e.dest, e.tr with
      | .virt l, .found _ => some (e.pline, some (e.tenant, l), e.nt)
      | .none, _ => if e.mark.isSome then none else some (e.pline, none, false)
      | _, _ => none
  | _ => ((s.station x.unit).incoming[x.idx]?).bind fun r =>
      match r.req.kind with
      | .push _ _ _ _ _ => none
      | .read va n => missing s r va.toNat n
      | .write va bs => missing s r va.toNat bs.length
      | .slice ps => ps.findSome? fun (va, bs) => missing s r va.toNat bs.length
      | .atomic va _ _ _ _ => at_ s r va.toNat
      | .cas va _ _ _ => at_ s r va.toNat
where
  /-- The first line of a span that the L2 does not hold. -/
  missing (s : State) (r : Incoming) (va n : Nat) : Option (Nat × Option (Nat × Nat) × Bool) :=
    (List.range ((va + n + 127) / 128 - va / 128)).findSome? fun j =>
      (at_ s r (128 * (va / 128 + j))).bind fun m => if (getN s.l2 m.1).isNone then some m else none
  /-- A line of a peer's request, where its page is mapped. -/
  at_ (s : State) (r : Incoming) (va : Nat) : Option (Nat × Option (Nat × Nat) × Bool) :=
    match walk s 0 r.tenant va with
    | .found y => match resolve s y va with
      | .found z => some (z.pa va / 128, some (r.tenant, va / 128), false)
      | _ => none
    | _ => none

/-- L2_MISS (R303 to R305). -/
def l2Miss (s : State) : State :=
  match missOf s s.input with
  | some (pline, tag, nt) => startFill pline tag s.input.victim s nt
  | none => s

/-- HARDWARE_PREFETCH (R122): one line of a tenant into a core's L1; `idx` is the tenant, `word` the address. The device has 128
cores and 16 tenants (R7). -/
def hardwarePrefetch (core tenant va : Nat) (s : State) : State :=
  if nodeOf va ≠ s.regs.nodeId || decide (128 ≤ core) || decide (16 ≤ tenant) then s
  else
    let (id, s) := s.fresh
    let line := va / 128
    let a : Access := { id, owner := id, core, slot := 128, tenant, kind := .pref true, pc := 0, lanes := 0, typ := 0, reqs := [] }
    let (rs, s) := trReqs a [{ lane := 0, pos := 0, va := 128 * line, size := 128, dst := 0 }] s
    settleAccess id (putAcc { a with reqs := rs } s)

/-- CALL (R183). -/
def execCall (h : Hdr) (off : BitVec 14) (s : State) : Out := .next (opCall h (Form.ofOff off) s)

/-- CALL_LIT (R183). -/
def execCallLit (h : Hdr) (d a : BitVec 7) (v : W64) (s : State) : Out := .next (opCall h (.multi (.lit d a v)) s)

/-- CALLX (R182). -/
def execCallx (h : Hdr) (a : BitVec 7) (s : State) : Out := .next (opCallx h (.single 0 a) s)

/-- CALLX_EXT (R182). -/
def execCallxExt (h : Hdr) (m : Multi) (s : State) : Out := .next (opCallx h (.multi m) s)

/-- RET (R183). -/
def execRet (h : Hdr) (s : State) : Out := .next (opRet h (.single 0 0) s)

/-- BAR (R186). -/
def execBar (h : Hdr) (a : BitVec 7) (s : State) : Out := .next (opBar h (.single 0 a) s)

/-- MON (R188). -/
def execMon (h : Hdr) (m : Multi) (s : State) : Out := .next (opMon h (.multi m) s)

/-- MWAIT (R189). -/
def execMwait (h : Hdr) (a : BitVec 7) (s : State) : Out := .next (opMwait h (.single 0 a) s)

/-- MWAIT_LIT (R189). -/
def execMwaitLit (h : Hdr) (d a : BitVec 7) (v : W64) (s : State) : Out := .next (opMwait h (.multi (.lit d a v)) s)

/-- ICINV (R193). -/
def execIcinv (h : Hdr) (m : Multi) (s : State) : Out := .next (opIcinv h (.multi m) s)

/-- TLBINV (R202). -/
def execTlbinv (h : Hdr) (m : Multi) (s : State) : Out := .next (opTlbinv h (.multi m) s)

/-- CTRSET (R250). -/
def execCtrset (h : Hdr) (m : Multi) (s : State) : Out := .next (opCtrset h (.multi m) s)

/-- CTRWAIT (R251). -/
def execCtrwait (h : Hdr) (m : Multi) (s : State) : Out := .next (opCtrwait h (.multi m) s)

/-- QCW (R252). -/
def execQcw (h : Hdr) (m : Multi) (s : State) : Out := .next (opQcw h (.multi m) s)

/-- SBIND (R253). -/
def execSbind (h : Hdr) (m : Multi) (s : State) : Out := .next (opSbind h (.multi m) s)

/-- SUNBIND (R253). -/
def execSunbind (h : Hdr) (m : Multi) (s : State) : Out := .next (opSunbind h (.multi m) s)

/-- MSET (R258). -/
def execMset (h : Hdr) (m : Multi) (s : State) : Out := .next (opMset h (.multi m) s)

/-! ## Events -/

/-- L2_MISS (R305). -/
def execL2Miss (s : State) : Out := .next (l2Miss s)
/-- RETURN_STACK_REFILL_LANDS (R17). -/
def execReturnStackRefillLands (s : State) : Out := .next (refillLands s.input.idx s)
/-- STASH_FILL_DONE (R79). -/
def execStashFillDone (s : State) : Out := .next (stashFillDone s.input.idx s)
/-- MWAIT_TIMEOUT (R189). -/
def execMwaitTimeout (s : State) : Out := .next (mwaitTimeout s.input.unit s.input.idx s)
/-- SLEEP_EXPIRY (R203). -/
def execSleepExpiry (s : State) : Out := .next (sleepExpiry s.input.unit s.input.idx s)
/-- HARDWARE_PREFETCH (R122). -/
def execHardwarePrefetch (s : State) : Out := .next (hardwarePrefetch s.input.unit s.input.idx s.input.word.toNat s)

end Sys2Proof.Machine
end

