-- ==== Sys2Proof/Machine/Keyed.lean ====
section
/-!
DEFINITION. The keyed combining queue: records, hash, fold, push, claim, end condition and the join counters (spec 12 R262 to
R275; 22 R402 to R404).
-/

namespace Sys2Proof.Machine

/-- A queue. -/
def State.kcq (s : State) (q : Nat) : Kcq := (getN s.kcqs q).getD {}
/-- Change a queue. -/
def State.updKcq (s : State) (q : Nat) (f : Kcq → Kcq) : State := { s with kcqs := putN s.kcqs q (f (s.kcq q)) }

/-- The tenant that owns a cluster (R365). -/
def clusterTenant (s : State) (cl : Nat) : Option Nat :=
  let x := getZ s.regs.cluown cl
  if cl < 32 && x.getLsbD 4 then some (fld x 3 0) else none

/-! ## Records (R263, R264) -/

/-- The end-token key (R263). -/
def endKey : W64 := BitVec.allOnes 64

/-- Bits 127:64 of a record (R263). -/
def KRec.word1 (r : KRec) : W64 :=
  let b (x : Bool) (i : Nat) : Nat := if x then 2 ^ i else 0
  w64 (r.op + r.ptype * 2 ^ 5 + b r.shut 8 + b r.sat 9 + b r.homed 10 + b r.spilled 11 + r.count * 2 ^ 16 + r.parent.toNat * 2 ^ 32)

/-- The 32 bytes of a record (R263). -/
def KRec.bytes (r : KRec) : List Byte := toBytes 8 r.key.toNat ++ toBytes 8 r.word1.toNat ++ toBytes 16 r.pay.toNat

/-- A record from its bytes. -/
def KRec.ofBytes (bs : List Byte) : KRec :=
  let w := Machine.ofBytes ((bs.drop 8).take 8)
  { key := w64 (Machine.ofBytes (bs.take 8)), pay := BitVec.ofNat 128 (Machine.ofBytes (bs.drop 16)), parent := w32 (w / 2 ^ 32), count := bitsOf w 31 16,
    spilled := bitAt w 11, homed := bitAt w 10, sat := bitAt w 9, shut := bitAt w 8, ptype := bitsOf w 7 5, op := w % 32 }

/-- `khash` and `kset` (R265). -/
def khash (key : W64) : Nat :=
  let f := key.toNat % 2 ^ 32 ^^^ key.toNat / 2 ^ 32
  f ^^^ (f >>> 13) ^^^ (f >>> 26)
def kset (key : W64) : Nat := let h := khash key; bitsOf h 9 0 ^^^ bitsOf h 14 5

/-- A tenant's HOMEMAP (R267). -/
def homeAt (s : State) (tenant i : Nat) : Nat := (((getN s.homeMaps tenant).getD []).getD i i) % 32

/-- The queue that a push goes to (R267): DEST 0 local, 1 homed by die, 2 homed by device. -/
def pushTo (s : State) (tenant core dest : Nat) (key : W64) : Nat :=
  match dest with
  | 0 => clusterOf core
  | 1 => homeAt s tenant (8 * dieOf core + khash key % 8)
  | _ => homeAt s tenant (khash key % 32)

/-! ## Fold (R266) -/

/-- The fold of one 32-bit word and whether it clamped (R266). -/
def foldWord (op ptype w n : Nat) : Nat × Bool :=
  let t := if ptype = 0 then 2 else if ptype = 2 then 10 else 6
  let pick (mx : Bool) : Nat :=
    if ptype = 2 then
      (if (ieeeVal 10 w).isNan || (ieeeVal 10 n).isNan then nanCode 10 else (fMinMax mx 10 w n).1)
    else if decide (intOf t n < intOf t w) != mx then n else w
  match op with
  | 0 => ((w + n) % 2 ^ 32, false)
  | 1 =>
    let x : Int := intOf t w + intOf t n
    let lo : Int := if ptype = 0 then -(2 ^ 31) else 0
    let hi : Int := if ptype = 0 then 2 ^ 31 - 1 else 2 ^ 32 - 1
    if x < lo then (ofSigned 32 lo, true) else if hi < x then (ofSigned 32 hi, true) else (ofSigned 32 x, false)
  | 2 => ((fAdd 10 0 w n).1, false)
  | 4 => (pick false, false)
  | 5 => (pick true, false)
  | 6 => (w &&& n, false)
  | 7 => (w ||| n, false)
  | 8 => (w ^^^ n, false)
  | 10 => (n, false)
  | _ => (w, false)

/-- A push folds into a waiting record (R266, R268). -/
def KRec.fold (w n : KRec) : KRec :=
  if w.op = 3 then
    let ws := elemsOf 64 w.pay.toNat 2
    let ns := elemsOf 64 n.pay.toNat 2
    { w with pay := BitVec.ofNat 128 (joinEls 64 ((ws.zip ns).map fun (a, b) => (fAdd 11 0 a b).1)), count := w.count + 1 }
  else
    let rs := ((elemsOf 32 w.pay.toNat 4).zip (elemsOf 32 n.pay.toNat 4)).map fun (a, b) => foldWord w.op w.ptype a b
    { w with pay := BitVec.ofNat 128 (joinEls 32 (rs.map Prod.fst)), count := w.count + 1, sat := w.sat || rs.any Prod.snd }

/-- The condition on a way that a push folds into (R268). -/
def KRec.meets (w n : KRec) : Bool :=
  !w.shut && w.key = n.key && n.key ≠ 0 && w.op = n.op && w.ptype = n.ptype && w.parent = n.parent

/-! ## The spill ring (R268, R275, R402) -/

/-- Records in the ring, and room in it. -/
def Kcq.spilled (x : Kcq) : Nat := x.ringTail - x.ringHead
def Kcq.room (x : Kcq) : Bool := x.ringLog ≠ 0 && decide (x.spilled < 2 ^ x.ringLog)
/-- The virtual address of a ring position. -/
def Kcq.slotAt (x : Kcq) (n : Nat) : Nat := x.ringBase + 32 * (n % 2 ^ x.ringLog)

/-- Append a record to the ring by a translated store: nothing where the ring is full, or its page waits or is refused. -/
def spill (q tenant : Nat) (r : KRec) (s : State) : Option State :=
  let x := s.kcq q
  if !x.room then none
  else match walkNow s tenant (x.slotAt x.ringTail) none .write with
    | (.found y, s) =>
      let s := performBytes (y.pa (x.slotAt x.ringTail)) { r with spilled := true }.bytes none (y.mode = 0) s
      some (s.updKcq q fun k => { k with
        ringTail := k.ringTail + 1, spills := k.spills + 1, bypass := if x.spilled = 0 then 0 else k.bypass })
    | _ => none

/-! ## Push and claim (R268, R270) -/

/-- A waiting record is in error (R388, R404). -/
def krecBad (s : State) (q e : Nat) : Bool := s.errs.any fun x => match x with | .krec p f _ => p = q && f = e | _ => false

/-- Spawns of a PARENT whose records no `kdone` has released (R392). -/
def countSpawn (p : W32) (f : W64 → W64) (s : State) : State :=
  if p.getLsbD 31 then { s with spawned := setZ s.spawned p.toNat (f (getZ s.spawned p.toNat)) } else s

/-- A record is lost: no `kdone` will release the spawns that it stands for (R401, R404). -/
def loseRecord (r : KRec) (s : State) : State := countSpawn r.parent (· - w64 r.count) s

/-- A push at its set's ordering point needs the spill ring (R268). -/
def kqSpills (q : Nat) (r : KRec) (s : State) : Bool :=
  let set := (getN (s.kcq q).sets (kset r.key)).getD []
  (s.kcq q).saved || (decide (8 ≤ set.length) && !(set.any fun w => w.2.meets r && !krecBad s q w.1 && w.2.count ≠ 65535))

/-- The ring line that a queue is to use is held by a handler, or its page waits for the host's answer: the queue waits (R306,
R365). -/
def ringBusy (q tenant n : Nat) (want : Want) (s : State) : Option State :=
  match walkNow s tenant ((s.kcq q).slotAt n) none want with
  | (.found y, _) => if l2Free s (y.pa ((s.kcq q).slotAt n) / 128) then none else some s
  | (.ats _, t) => some t
  | (.todo, _) => some s
  | _ => none

/-- A push that needs the ring waits for its line. -/
def pushWaits (q tenant : Nat) (r : KRec) (s : State) : Option State :=
  if kqSpills q r s && (s.kcq q).room then ringBusy q tenant (s.kcq q).ringTail .write s else none

/-- A push at its set's ordering point (R268): nothing where it is refused. A record in error is as if SEALED (R404). -/
def kqPush (q tenant : Nat) (r : KRec) (s : State) : Option State :=
  let x := s.kcq q
  let n := kset r.key
  let set := (getN x.sets n).getD []
  if x.saved then spill q tenant r s
  else
    let enter (set : List (Nat × KRec)) (s : State) : Option State :=
      if set.length < 8 then
        some (s.updKcq q fun k => { k with sets := putN k.sets n (set ++ [(k.entry, r)]), entry := k.entry + 1 })
      else spill q tenant r (s.updKcq q fun k => { k with sets := putN k.sets n set })
    match set.find? fun w => w.2.meets r && !krecBad s q w.1 with
    | none => enter set s
    | some (e, w) =>
      let put (w' : KRec) : List (Nat × KRec) := set.map fun y => if y.1 = e then (e, w') else y
      if w.count = 65535 then enter (put { w with shut := true }) (s.updKcq q fun k => { k with seals := k.seals + 1 })
      else some (s.updKcq q fun k => { k with sets := putN k.sets n (put (w.fold r)), folds := k.folds + 1 })

/-- Records on chip. -/
def Kcq.waiting (x : Kcq) : List (Nat × KRec) := x.sets.flatMap Prod.snd

/-- What a claim finds (R270, R402, R404). -/
inductive Claimed where
  | nothing
  /-- The line of the oldest spilled record is not to be had yet. -/
  | wait (s : State)
  | record (r : KRec) (s : State)
  /-- A record in uncorrectable error: it is gone (R404). -/
  | bad (r : KRec) (s : State)

/-- Take the record that R270 names out of the queue. -/
def claim (q tenant : Nat) (s : State) : Claimed :=
  let x := s.kcq q
  let chip := x.waiting
  if x.spilled ≠ 0 && (chip.isEmpty || x.bypass = 4096) then
    match ringBusy q tenant x.ringHead .read s with
    | some s => .wait s
    | none => match walkNow s tenant (x.slotAt x.ringHead) none .read with
    | (.found y, s) =>
      let pa := y.pa (x.slotAt x.ringHead)
      let r := KRec.ofBytes (readBytes s.mem pa 32)
      let s := s.updKcq q fun k => { k with ringHead := k.ringHead + 1, bypass := 0 }
      if s.ecc.any fun g => decide (pa / 8 ≤ g) && decide (g ≤ (pa + 31) / 8) then
        .bad r (loseRecord r (countError cECC s))
      else .record r s
    | _ => .nothing
  else
    match chip.foldl (fun (b : Option (Nat × KRec)) y => match b with | some z => if y.1 < z.1 then some y else b | none => some y) none with
    | none => .nothing
    | some (e, r) =>
      let t := s.updKcq q fun k => { k with
        sets := (k.sets.map fun (n, ws) => (n, ws.filter fun w => w.1 ≠ e)).filter fun y => !y.2.isEmpty
        bypass := if x.spilled ≠ 0 then k.bypass + 1 else k.bypass }
      if krecBad s q e then
        .bad r (loseRecord r (countError cECC (clearErrs (fun x => match x with | .krec p f _ => p = q && f = e | _ => false) t)))
      else .record r t

/-- A free ticket, chosen by the device (R271). -/
def takeTicket (q blk : Nat) (s : State) : Option (Nat × State) :=
  let used := (s.kcq q).tickets.map Prod.fst
  let free := (List.range 4096).filter fun t => !used.contains t
  if free.isEmpty then none
  else
    let (n, s) := s.freeChoice free.length
    let t := free.getD n 0
    some (t, s.updKcq q fun k => { k with tickets := k.tickets ++ [(t, blk)], disp := k.disp + 1 })

/-! ## End token and results (R272, R274) -/

/-- An operation that is a push to a queue. -/
def Op.pushes (o : Op) (q : Nat) : Bool := match o.kind with | .push p _ _ => p = q | _ => false

/-- The condition of R274. -/
def kqEnded (s : State) (q : Nat) : Bool :=
  let x := s.kcq q
  x.waiting.isEmpty && x.spilled = 0 && x.tickets.isEmpty && x.hold = 0 && !(s.ops.any fun (_, o) => o.pushes q)

/-- The eight registers of a `kpop` (R272). -/
def popWords (q disp t : Nat) (r : KRec) : List W64 :=
  [r.key, r.word1, r.pay.setWidth 64, (r.pay >>> 64).setWidth 64, 0, 0, w64 (q * 2 ^ 16 + t), w64 disp]
def endWords (q disp : Nat) : List W64 := [endKey, 0, 0, 0, 0, 0, w64 (2 ^ 62 + q * 2 ^ 16), w64 disp]
def emptyWords (disp : Nat) : List W64 := [0, 0, 0, 0, 0, 0, w64 (2 ^ 63), w64 disp]

/-- Deliver eight registers to a parked `kpop`, which goes on (R271, R278). -/
def wakePop (k : Nat) (w : KWait) (ws : List W64) (s : State) : State :=
  s.updGroup k fun g =>
    let g := (ws.zipIdx).foldl (fun g (x, j) => g.landS w.id (w.d + j) x) g
    { g.unpark (w.lanes &&& g.parkedOn fun c => c = .kpop) with kwaits := g.kwaits.filter fun y => y.id ≠ w.id }

/-- The `kpop`s that wait on a queue, by the clock at which they parked, then the core, then the slot (R271). Counts of different
cores are not compared (R10): a clock of a core stands where the first `kpop` of it came. -/
def popWaiters (s : State) (q : Nat) : List (Nat × KWait) :=
  let ws := s.groups.flatMap fun (k, g) => if k < 16384 && clusterOf (k / 128) = q then g.kwaits.map fun w => (k, w) else []
  let came (y : Nat × KWait) : Nat :=
    ws.foldl (fun n z => if z.1 / 128 = y.1 / 128 && z.2.since = y.2.since then min n z.2.id else n) y.2.id
  let place (y : Nat × KWait) : Nat := 16384 * came y + y.1
  (sortNat (ws.map place)).flatMap fun n => ws.filter fun y => place y = n

/-- KCQ_DISPATCH_CLAIM (R270, R271, R404): `unit` is the queue. -/
def dispatchClaim (q : Nat) (s : State) : State :=
  match popWaiters s q with
  | [] => s
  | (k, w) :: _ =>
    match s.group k with
    | none => s
    | some g =>
      if (s.kcq q).saved || 4096 ≤ (s.kcq q).tickets.length then s
      else match claim q g.tenant s with
        | .nothing => s
        | .wait s => s
        | .bad r s =>
          let s := s.updGroup k fun g =>
            { (g.unpark (w.lanes &&& g.parkedOn fun c => c = .kpop)).dropScore w.id (BitVec.allOnes 64) with
              kwaits := g.kwaits.filter fun y => y.id ≠ w.id }
          takeTrap k (deferCtx s (k / 128) w.pc false) (sameFault w.lanes cECC 0 0 r.key) s
        | .record r s =>
          match takeTicket q g.block s with
          | none => s
          | some (t, s) =>
            let s := wakePop k w (popWords q (s.kcq q).disp t r) s
            match w.acq with | some sc => acquireAt (k / 128) sc s | none => s

/-- KCQ_END_TOKEN (R274): `unit` is the queue. -/
def endToken (q : Nat) (s : State) : State :=
  if kqEnded s q && !(s.kcq q).saved then
    (popWaiters s q).foldl (fun s (k, w) =>
      (wakePop k w (endWords q (s.kcq q).disp) s).updGroup k fun g => { g with endSeen := true }) s
  else s

/-! ## Join counters (R264, R273, R279) -/

/-- A block holds a slot of a core: as its lowest there, or by a group that has not retired (R37). -/
def Block.holds (b : Block) (core slot : Nat) : Bool :=
  (match b.share core with | some sh => sh.low = slot | none => false) || b.live.contains (gkey core slot)

/-- The block that holds a slot of a core (R264): a resident one, else a saved one. -/
def parentBlock (s : State) (core slot : Nat) : Option Nat :=
  ((s.blocks.find? fun (_, b) => b.image.isNone && b.holds core slot).orElse fun _ =>
    s.blocks.find? fun (_, b) => b.holds core slot).map Prod.fst

/-- Change the counter that PARENT names (R264, R273). -/
def parentAdd (p : W32) (f : W64 → W64) (s : State) : State :=
  let core := bitsOf p.toNat 23 17
  let c := p.toNat % 256
  if !p.getLsbD 31 then s
  else
    let s := countSpawn p f s
    match parentBlock s core (bitsOf p.toNat 30 24) with
    | none => s
    | some b =>
      match getN s.blocks b with
      | some blk => if c < (layoutOf s blk).nctr then changeCounter b core c f id s else s
      | none => s

/-- What a performed `kdone` does (R279). -/
def applyDone (q t : Nat) (word : W64) (s : State) : State :=
  let s := parentAdd (w32 (word.toNat / 2 ^ 32)) (· - w64 (bitsOf word.toNat 31 16)) s
  s.updKcq q fun k => { k with tickets := k.tickets.filter fun y => y.1 ≠ t }

end Sys2Proof.Machine
end

