-- ==== Sys2Proof/Machine/Tiles.lean ====
section
/-!
DEFINITION. The matrix engine at work: tiles, eligibility, passes, the tile port, and completion (spec 03 R59, R60; 07 R139,
R140; 13 R284 to R290, R293 to R298).
-/

namespace Sys2Proof.Machine

/-! ## Operations in flight -/

/-- Replace an operation. -/
def putOp (o : Op) (s : State) : State := { s with ops := putN s.ops o.id o }
/-- Remove an operation. -/
def dropOp (id : Nat) (s : State) : State := { s with ops := delN s.ops id }

/-- A tenant's packets do not start, its blocks are not placed and its packets' copies stop: a save or restore of it is in
progress, or it has been saved and not restored (R61, R62). -/
def stopped (s : State) (t : Nat) : Bool :=
  s.saved.contains t || (match s.job with | some j => j.tenants.contains t | none => false)

/-- The block of an operation is resident: a saved block's commands are in its image (R62, R353). -/
def opActive (s : State) (o : Op) : Bool :=
  if 128 ≤ o.core then !stopped s o.tenant else (match getN s.blocks o.blk with | some b => b.image.isNone | none => true)

/-- A cluster's matrix engine. -/
def State.mat (s : State) (cl : Nat) : Matrix := (getN s.mats cl).getD {}
/-- Change a cluster's matrix engine. -/
def State.updMat (s : State) (cl : Nat) (f : Matrix → Matrix) : State := { s with mats := putN s.mats cl (f (s.mat cl)) }

/-- The tiles and command of a matrix operation of a cluster whose block is resident. -/
def Op.matOn (s : State) (cl : Nat) (o : Op) : Option (List Nat × MatCmd) :=
  match o.kind with
  | .mat ts c => if o.core < 128 && clusterOf o.core = cl && opActive s o then some (ts, c) else none
  | _ => none

/-- A cluster's matrix operations, in post order (R289). -/
def matOps (s : State) (cl : Nat) : List (Op × List Nat × MatCmd) :=
  (s.ops.map Prod.snd).filterMap fun o => (o.matOn s cl).map fun x => (o, x)

/-- A `trd` only reads: nothing waits for it (R289). -/
def MatCmd.reads : MatCmd → Bool | .read _ _ => true | _ => false
/-- An entry of the reservation table (R59). -/
def MatCmd.isMma : MatCmd → Bool | .mma _ => true | _ => false

/-- Two lists of tiles meet. -/
def tilesMeet (a b : List Nat) : Bool := a.any b.contains

/-- An operation posted earlier on the same tiles is incomplete (R289). -/
def tileBusy (s : State) (cl id : Nat) (ts : List Nat) : Bool :=
  (matOps s cl).any fun (o, us, c) => decide (o.id < id) && !c.reads && tilesMeet ts us

/-- The last operation that a group has posted on tiles, if one is incomplete (R297). -/
def lastOn (s : State) (k : Nat) (ts : List Nat) : Option Nat :=
  (((matOps s (clusterOf (k / 128))).filter fun (o, us, c) =>
    gkey o.core o.slot = k && !c.reads && tilesMeet ts us).map fun x => x.1.id).getLast?

/-- The physical tiles of a cluster that are not FREE (R288): bound by a resident group, or named by an operation. -/
def usedTiles (s : State) (cl : Nat) : List Nat :=
  (s.groups.flatMap fun (k, g) => if clusterOf (k / 128) = cl then g.tiles.flatMap fun t => t.2.1 else []) ++
  (matOps s cl).flatMap fun x => x.2.1

/-- Free tiles of a cluster, as many as asked for, if there are so many (R288). -/
def freeTiles (s : State) (cl n : Nat) : Option (List Nat) :=
  let used := usedTiles s cl
  let free := ((List.range 64).filter fun t => !used.contains t).take n
  if free.length = n then some free else none

/-! ## Tile elements -/

/-- The key of element (i, j) of a tile. -/
def cellKey (i j : Nat) : Nat := 128 * i + j

/-- An element of a tile: the second tile holds the high half of an F64 element (R288). -/
def readCell (m : Matrix) (ts : List Nat) (key : Nat) : Nat :=
  let one (t : Nat) : Nat := (getZ ((getN m.tiles t).getD []) key).toNat
  match ts with
  | [t] => one t
  | t :: u :: _ => one t + 2 ^ 32 * one u
  | [] => 0

/-- Write an element of a tile. -/
def writeCell (ts : List Nat) (m : Matrix) (x : Nat × Nat) : Matrix :=
  let put (m : Matrix) (t v : Nat) : Matrix := { m with tiles := putN m.tiles t (setZ ((getN m.tiles t).getD []) x.1 (w32 v)) }
  match ts with
  | [t] => put m t x.2
  | t :: u :: _ => put (put m t x.2) u (x.2 / 2 ^ 32)
  | [] => m

/-! ## Errors in tiles and operands (R388, R390) -/

/-- The granule of an element of a tile is in error. -/
def cellBad (s : State) (cl : Nat) (ts : List Nat) (key : Nat) : Bool :=
  s.errs.any fun x => match x with | .tile c t p => c = cl && ts.contains t && p = key / 2 | _ => false

/-- A granule of some tiles is in error. -/
def tilesBad (s : State) (cl : Nat) (ts : List Nat) : Bool :=
  s.errs.any fun x => match x with | .tile c t _ => c = cl && ts.contains t | _ => false

/-- A full write of some tiles clears their errors. -/
def healTiles (cl : Nat) (ts : List Nat) : State → State :=
  clearErrs fun x => match x with | .tile c t _ => c = cl && ts.contains t | _ => false

/-- A write of some elements clears the errors of the granules that it covers. -/
def healCells (cl : Nat) (ts keys : List Nat) : State → State :=
  clearErrs fun x => match x with
    | .tile c t p => c = cl && ts.contains t && keys.contains (2 * p) && keys.contains (2 * p + 1)
    | _ => false

/-- An operation of the matrix engine meets an error (R390): it is counted and posted as an engine's record, and the operation goes
on with the bits that are stored. Its SRC and ADDR: DESIGN CHOICE, assumption 32. -/
def matError (o : Op) (bad : Bool) (s : State) : State :=
  if bad then
    postRec { cause := cECC, src := 0, unit := o.slot * 128 + o.core, laneMask := o.lanes, pc := o.pc, tenant := o.tenant } (countError cECC s)
  else s

/-- Rows of bytes of a block's scratchpad have an error. -/
def rowsErr (s : State) (blk core off ld rows n : Nat) : Bool :=
  s.errs.any fun x => match x with
    | .scratch b c g => b = blk && c = core && (List.range rows).any fun i => granuleMeets g (off + ld * i) n
    | _ => false

/-- The TYPE of a tile's elements. -/
def tileType (ts : List Nat) : Nat := if ts.length = 2 then 11 else 10

/-! ## Passes (R139, R140, R284, R287) -/

/-- K elements of a pass and of a sum-order block (R284). -/
def chunkOf (t : Nat) : Nat := match t with | 8 => 128 | 9 => 128 | 10 => 32 | 11 => 8 | _ => 256
/-- The K elements of a sum-order block (R139, R284). -/
def blockLen (t : Nat) : Nat := match t with | 8 => 16 | 9 => 16 | 10 => 4 | 11 => 1 | _ => 32

/-- A product in R139 is a negative zero. -/
def negZero : FVal → Bool | .fin true 0 _ => true | _ => false

/-- The exact sum of finite products. -/
def exactSum : List FVal → Int × Int → Int × Int
  | .fin n m e :: vs, (x, k) => let q := min e k; exactSum vs (x * pow2 (k - q) + signed n (m * pow2 (e - q)), q)
  | _ :: vs, a => exactSum vs a
  | [], a => a

/-- S before scaling (R139, R140). -/
def sumProducts (ps : List FVal) : FVal :=
  let inf (n : Bool) : Bool := ps.any fun p => p = .inf n
  if ps.any FVal.isNan || (inf true && inf false) then .nan false
  else if inf true then .inf true
  else if inf false then .inf false
  else
    let (x, e) := exactSum ps (0, 0)
    if x = 0 then .fin (!ps.isEmpty && ps.all negZero) 0 0 else .fin (decide (x < 0)) x.natAbs e

/-- A scratchpad element of an operand (R287). -/
def operandAt (s : State) (blk core off n : Nat) : Nat := ofBytes (scratchBytes s blk core off n)

/-- One operand element: an exact zero from K on (R287). -/
def Mma.elem (m : Mma) (s : State) (blk : Nat) (p : Nat × Nat × Nat) (t row k : Nat) : FVal :=
  let n := widthOf t / 8
  if m.k ≤ k then .fin false 0 0 else valOf t m.inf (operandAt s blk p.1 (p.2.1 + p.2.2 * row + n * k) n)

/-- The scale of a block, 1 where the operands have none (R287). -/
def scaleAt (s : State) (blk : Nat) (p : Option (Nat × Nat × Nat)) (row b : Nat) : FVal :=
  match p with
  | some (c, off, ld) => bs24Val (operandAt s blk c (off + ld * row + 4 * b) 4)
  | none => .fin false 1 0

/-- S of sum-order block `b` for output (i, j) (R139, R140, R287). -/
def Mma.blockSum (m : Mma) (s : State) (blk i j b : Nat) : FVal :=
  let n := blockLen m.atype
  if m.k ≤ n * b then .fin false 0 0
  else
    let ps := (List.range n).map fun t =>
      (mulV (m.elem s blk m.a m.atype i (n * b + t)) (m.elem s blk m.b m.btype j (n * b + t))).1
    (mulV (mulV (sumProducts ps) (scaleAt s blk m.sa i b)).1 (scaleAt s blk m.sb j b)).1

/-- One output over one pass (R139). -/
def Mma.output (m : Mma) (s : State) (blk i j acc : Nat) : Nat :=
  let t := if m.atype = 11 then 11 else 10
  (List.range 8).foldl (fun acc b =>
    (finish t 0 false (addV 0 (ieeeVal t acc) (m.blockSum s blk i j (8 * m.ran + b)))).1) acc

/-- What the next pass of an `mma` reads has an error (R284, R287). -/
def Mma.passBad (m : Mma) (s : State) (blk : Nat) : Bool :=
  let n := chunkOf m.atype
  let es := widthOf m.atype / 8
  let k := min n (m.k - n * m.ran)
  let side (p : Nat × Nat × Nat) : Bool := rowsErr s blk p.1 (p.2.1 + es * n * m.ran) p.2.2 128 (es * k)
  let scales (p : Option (Nat × Nat × Nat)) : Bool := match p with
    | some (c, off, ld) => rowsErr s blk c (off + 32 * m.ran) ld 128 (4 * ceilDiv k 32)
    | none => false
  side m.a || side m.b || scales m.sa || scales m.sb

/-- Run a pass: all 128 × 128 outputs (R284). -/
def runPass (o : Op) (ts : List Nat) (m : Mma) (s : State) : State :=
  let s := healTiles (clusterOf o.core) ts (matError o (m.passBad s o.blk || tilesBad s (clusterOf o.core) ts) s)
  let mat := s.mat (clusterOf o.core)
  let outs := (List.range 16384).map fun key => (key, m.output s o.blk (key / 128) (key % 128) (readCell mat ts key))
  s.updMat (clusterOf o.core) fun x => outs.foldl (writeCell ts) x

/-! ## Grants (R60, R289, R298) -/

/-- The eligible entry that R60 grants: highest priority, then lowest sequence. -/
def bestEntry (s : State) (cl : Nat) : Option Op :=
  ((matOps s cl).filterMap fun (o, ts, c) => match c with
    | .mma m => if o.ready && !saving s o.tenant && !tileBusy s cl o.id ts then some (o, m.prio) else none
    | _ => none).foldl (fun (b : Option (Op × Nat)) x =>
      match b with | some y => if y.2 < x.2 then some x else some y | none => some x) none |>.map Prod.fst

/-- The throttle depth as PWRSTAT reads it (R369). -/
def HostRegs.depth (h : HostRegs) : Nat := fld h.pwrStat 19 16

/-- How long the throttle delays a pass start (R369): any number of clocks from the first step on. -/
def passDelay (s : State) : Nat × State :=
  if s.regs.depth = 0 then (0, s) else let (w, s) := s.freeWord; (w.toNat, s)

/-- Start a pass on an idle engine (R60): it ends 32 clocks after its start, which the throttle may delay (R369). -/
def startPass (cl : Nat) (s : State) : State :=
  match (s.mat cl).pass, bestEntry s cl with
  | none, some o =>
    let (n, s) := passDelay s
    s.updMat cl fun m => { m with pass := some (o.id, (s.core o.core).cycle + n + 32) }
  | _, _ => s

/-- The port clocks of an operation that the table of R298 gives; 0 where it gives none. -/
def MatCmd.portClocks (n : Nat) : MatCmd → Nat
  | .clear => 16 * n
  | .load _ _ _ _ => 64 * n
  | .store _ _ _ _ _ _ => 64 * n
  | .write cells => if cells.length = 16384 then 64 * n else 0
  | .quant _ _ (some _) (some _) _ => 128 * n
  | _ => 0

/-- A pass that the throttle delays has not begun (R62, R369). -/
def passDelayed (s : State) (cl core : Nat) : Bool :=
  match (s.mat cl).pass with | some (_, till) => decide ((s.core core).cycle + 32 < till) | none => false

/-- Start the first tile-port operation in post order, if its tile is free of earlier ones (R289, R298). -/
def startPort (cl : Nat) (s : State) : State :=
  match (s.mat cl).port, (matOps s cl).find? (fun x => !x.2.2.isMma && !x.2.2.reads) with
  | none, some (o, ts, c) =>
    if o.ready && !saving s o.tenant && !tileBusy s cl o.id ts then
      s.updMat cl fun m => { m with port := some (o.id, (s.core o.core).cycle + c.portClocks ts.length) }
    else s
  | _, _ => s

/-- The lanes of a `trd` that meet an error in their tile. -/
def rowLanesBad (s : State) (cl : Nat) (ts : List Nat) (n row : Nat) (lanes : W64) : W64 :=
  if s.errs.isEmpty then 0
  else maskOf ((lanesOf lanes).filter fun l => (List.range n).any fun j => cellBad s cl ts (cellKey (row + j / 2) (64 * (j % 2) + l)))

/-- Lanes of a `trd` take ECC_UNCORR, deferred (R379, R390); the spec gives TRAPINFO0 no value here. -/
def rowError (k : Nat) (x : TrapCtx) (m : W64) (s : State) : State :=
  let (w, s) := s.freeWord
  takeTrap k x (sameFault m cECC 0 0 w) (countError cECC s)

/-- The vector registers of a `trd` get their rows (R294). -/
def deliverRows (o : Op) (ts : List Nat) (regs : List Nat) (row : Nat) (s : State) : State :=
  let m := s.mat (clusterOf o.core)
  let k := gkey o.core o.slot
  let lost := rowLanesBad s (clusterOf o.core) ts regs.length row o.lanes
  let one (s : State) (x : Nat × Nat) : State :=
    let vals := (lanesOf (o.lanes &&& ~~~lost)).map fun l => (l, readCell m ts (cellKey (row + x.2 / 2) (64 * (x.2 % 2) + l)))
    (List.range ts.length).foldl (fun s j =>
      s.updGroup k fun g => g.landV o.id (x.1 + j) (vals.map fun (l, v) => (l, (v >>> (32 * j)) % 2 ^ 32))) s
  let s := (regs.zipIdx).foldl one s
  dropOp o.id (if lost = 0 then s else rowError k (deferCtx s o.core o.pc false) lost (s.updGroup k fun g => g.dropScore o.id lost))

/-- Every `trd` whose tile is ready is served (R289). -/
def serveReads (cl : Nat) (s : State) : State :=
  (matOps s cl).foldl (fun s (o, ts, c) => match c with
    | .read regs row => if tileBusy s cl o.id ts then s else deliverRows o ts regs row s
    | _ => s) s

/-- An idle engine starts what may start. -/
def pumpMatrix (cl : Nat) (s : State) : State := startPort cl (startPass cl (serveReads cl s))

/-- A matrix operation is complete (R289, R297): a `twait` for it ends with an acquire of scope sys. -/
def matDone (o : Op) (s : State) : State :=
  let k := gkey o.core o.slot
  let s := dropOp o.id s
  let waits : Bool := match s.group k with | some g => g.bundles.any fun b => b.hold = some (.tile o.id) | none => false
  let upd (b : Bundle) : Bundle := if b.hold = some (.tile o.id) then { b with hold := none } else b
  let s := s.updGroup k fun g => { g with bundles := g.bundles.map upd }
  if waits then acquireAt o.core 6 s else s

/-- PASS_END (R60): `cl` is the cluster. The engine grants the next pass. -/
def passEnd (cl : Nat) (s : State) : State :=
  match (s.mat cl).pass with
  | none => s
  | some (id, till) =>
    match getN s.ops id with
    | none => pumpMatrix cl (s.updMat cl fun m => { m with pass := none })
    | some o =>
      match o.kind with
      | .mat ts (.mma m) =>
        if (s.core o.core).cycle < till then s
        else
          let s := runPass o ts m (s.updMat cl fun m => { m with pass := none })
          let m := { m with ran := m.ran + 1 }
          pumpMatrix cl (if m.passes ≤ m.ran then matDone o s else putOp { o with kind := .mat ts (.mma m) } s)
      | _ => s

/-! ## The tile port (R293 to R295) -/

/-- A `tld` element: its value widened exactly (R293). -/
def widened (td ts x : Nat) : Nat := if td = ts then x else (roundCode td 0 false (ieeeVal ts x)).1

/-- What a `tld` writes. -/
def loadCells (s : State) (o : Op) (td core off pitch typ : Nat) : List (Nat × Nat) :=
  let n := widthOf typ / 8
  (List.range 16384).map fun key =>
    (key, widened td typ (operandAt s o.blk core (off + pitch * (key / 128) + n * (key % 128)) n))

/-- What a `tst` does (R293). -/
def storeTile (o : Op) (ts : List Nat) (core off pitch typ rm : Nat) (ctr : Option Nat) (s : State) : State :=
  let m := s.mat (clusterOf o.core)
  let n := widthOf typ / 8
  let row (i : Nat) : List Byte := (List.range 128).flatMap fun j =>
    toBytes n (roundCode typ rm false (ieeeVal (tileType ts) (readCell m ts (cellKey i j)))).1
  let s := (List.range 128).foldl (fun s i => writeScratch o.blk core (off + pitch * i) ((row i).map some) s) s
  match ctr with | some c => arriveCounter o.blk core c (16384 * n) s | none => s

/-- One half of a `qdual` (R295): `at_` gives the cell of element n of line x. -/
def quantHalf (o : Op) (ts : List Nat) (typ : Nat) (inf : Bool) (at_ : Nat → Nat → Nat)
    (half : Option ((Nat × Nat) × (Nat × Nat))) (ctr : Option Nat) (s : State) : State :=
  match half with
  | none => s
  | some ((cc, coff), (sc, soff)) =>
    let m := s.mat (clusterOf o.core)
    let block (x b : Nat) : Nat × List Nat :=
      let r := quantise typ inf ((List.range 32).map fun n => ieeeVal 10 (readCell m ts (at_ x (32 * b + n))))
      (r.1, r.2.map Prod.fst)
    let one (s : State) (x : Nat) : State :=
      let rs := (List.range 4).map (block x)
      writeScratch o.blk sc (soff + 16 * x) ((rs.flatMap fun r => toBytes 4 r.1).map some)
        (writeScratch o.blk cc (coff + 128 * x) ((rs.flatMap fun r => r.2.flatMap (toBytes 1)).map some) s)
    let s := (List.range 128).foldl one s
    match ctr with | some c => arriveCounter o.blk cc c 18432 s | none => s

/-- The effect of a tile-port operation (R293 to R295). -/
def portEffect (o : Op) (ts : List Nat) (c : MatCmd) (s : State) : State :=
  let cl := clusterOf o.core
  match c with
  | .clear => (healTiles cl ts s).updMat cl fun m => { m with tiles := ts.foldl (fun l t => putN l t []) m.tiles }
  | .load core off pitch typ =>
    let cells := loadCells s o (tileType ts) core off pitch typ
    (healTiles cl ts (matError o (rowsErr s o.blk core off pitch 128 (16 * widthOf typ)) s)).updMat cl fun m => cells.foldl (writeCell ts) m
  | .store core off pitch typ rm ctr => storeTile o ts core off pitch typ rm ctr (matError o (tilesBad s cl ts) s)
  | .write cells =>
    let keys := cells.map Prod.fst
    let s := healCells cl ts keys s
    (matError o (keys.any (cellBad s cl ts)) s).updMat cl fun m => cells.foldl (writeCell ts) m
  | .quant typ inf row col ctr =>
    quantHalf o ts typ inf (fun x n => cellKey n x) col ctr (quantHalf o ts typ inf cellKey row ctr (matError o (tilesBad s cl ts) s))
  | _ => s

/-- TILE_PORT_OP_DONE (R298): `cl` is the cluster. -/
def portDone (cl : Nat) (s : State) : State :=
  match (s.mat cl).port with
  | none => s
  | some (id, till) =>
    match getN s.ops id with
    | none => pumpMatrix cl (s.updMat cl fun m => { m with port := none })
    | some o =>
      match o.kind with
      | .mat ts c =>
        if (s.core o.core).cycle < till then s
        else pumpMatrix cl (matDone o (portEffect o ts c (s.updMat cl fun m => { m with port := none })))
      | _ => s

end Sys2Proof.Machine
end

