-- ==== Sys2Proof/Machine/Engine.lean ====
section
/-!
DEFINITION. Engine operations: posting and checking `cpy`, `mfill`, `xpush`, `xpull`, `stamp`, `stampw`, `msend` and
`qpost`, the copy units, multicast fills, and the performance of the commit order at L2 (spec 11 R244 to R259; 04 R83 to
R87; 05 R95, R97, R101; 16 R352, R353; 23 R411 to R413; 25 R445).
-/

namespace Sys2Proof.Machine

/-! ## Operations -/

/-- The station that an offset of a push goes through (R248). -/
def pushStation (off node : Nat) : Nat := bitsOf off 9 8 ^^^ (node % 4)

/-- A transfer has packets for a station (R73, R248). -/
def Xfer.uses (x : Xfer) (d : Nat) : Bool :=
  let first := if x.pull then x.va else x.doff
  (List.range 5).any fun j =>
    let off := (first / 256 + j) * 256
    decide (off < first + x.len) && pushStation off x.node = d

/-- A core's commands that an engine holds: 0 the copy units, 1 the mesh, 2 to 5 the stations that have packets of the command
to send (R244). -/
def Op.engine (o : Op) : List Nat :=
  match o.kind with
  | .copy _ => [0]
  | .fill _ => [1]
  | .xfer x => (List.range 4).filterMap fun d => if x.uses d && decide (x.next.getD d 0 < x.len) then some (2 + d) else none
  | _ => []

/-- The stations that a transfer will use, as engines. -/
def Xfer.engines (x : Xfer) : List Nat := ((List.range 4).filter x.uses).map (2 + ·)

/-- An engine of the set has 64 commands of the core (R244). -/
def engineFull (s : State) (core : Nat) (es : List Nat) : Bool :=
  es.any fun e => decide (64 ≤ ((s.ops.map Prod.snd).filter fun o => o.core = core && o.engine.contains e).length)

/-- Post an operation whose fork is a release of a scope (R101, R244). -/
def postOp (i : Iss) (g : Group) (scope : Scope) (kind : OpKind) (s : State) : State :=
  let (id, s) := s.fresh
  let o : Op := { id, core := i.k / 128, slot := i.k % 128, lane := (lowest i.act).getD 0, tenant := g.tenant, blk := g.block,
                  pc := s.cur.pc, lanes := issuing i, kind }
  let s := s.updGroup i.k fun g => { g with forks := g.forks ++ [id] }
  enqueueMark (i.k / 128) (i.k % 128) scope (.fork id) (putOp o s)

/-- A fault of a single action on its issuing lane (R244). -/
def engineFault (i : Iss) (c sub : Nat) (info : W64) (s : State) : Option State :=
  some (precise i.k (sameFault (issuing i) c sub 0 info) s)

/-- A check that fails: cause, SUB, TRAPINFO0. -/
abbrev Refused := Nat × Nat × W64

/-- The parameter registers of a command (R244). -/
def param (i : Iss) (g : Group) (j : Nat) : Nat := (g.readS i.now (i.o.a + j)).toNat

/-- A range of bytes of a record for a command (R246): the refusal, if it is refused. An address with bit 63 set is out of
bounds (R67). -/
def spanBad (r off span : Nat) (wr : Bool) : Option Refused :=
  if recBytes r < off + span || decide (2 ^ 63 < recBase r + off + span) then
    some (cBOUNDS, 2, w64 ((off + span - 1) / 2 ^ recEsize r))
  else if !bitAt r (if wr then 121 else 120) then some (cPERM, 0, w64 (recBase r + off))
  else none

/-- An address that must lie on this node (R261, R422). -/
def peerBad (s : State) (va : Nat) : Option Refused := if nodeOf va ≠ s.regs.nodeId then some (cILLEGAL, 0x10, 0) else none

/-- A range of addresses that must lie on this node, to its last byte (R67, R261, R422). -/
def peerSpan (s : State) (va span : Nat) : Option Refused := (peerBad s va).orElse fun _ => peerBad s (va + span - 1)

/-- A scratchpad range of the block for a command (R246): its core and offset, or the refusal. -/
def areaOf (s : State) (g : Group) (core word span : Nat) : Except Refused (Nat × Nat) :=
  match blockOf s g with
  | none => .error (cSCRATCH, 2, w64 word)
  | some b =>
    match placeScratch s b core word span with
    | .here c off => .ok (c, off)
    | _ => .error (cSCRATCH, 2, w64 word)

/-- A counter index of a block (R78). -/
def ctrBad (s : State) (g : Group) (c : Nat) : Option Refused :=
  match blockOf s g with
  | some b => if (layoutOf s b).nctr ≤ c then some (cSCRATCH, 1, w64 c) else none
  | none => some (cSCRATCH, 1, w64 c)

/-- A value that a command's rules refuse (R453). -/
def valueBad : Refused := (cILLEGAL, 0x0b, 0)

/-- The first refusal of a list of checks. -/
def firstBad (cs : List (Option Refused)) : Option Refused := cs.findSome? id

/-! ## `cpy` (R245, R246, R353) -/

/-- The copy unit beside the near source byte of a command, else another (R83). A source whose page is not found when the
command is issued counts as far: DESIGN CHOICE, assumption 28. -/
def unitBeside (s : State) (d tenant va other : Nat) : Nat :=
  match walk s d tenant va with
  | .found x => if x.tier = 0 && nearPA (x.addr va) then 8 * (sliceAt (x.addr va) / 16) + sliceAt (x.addr va) % 16 / 2 else other
  | _ => other

/-- The copy unit of a `cpy` (R83). -/
def copyUnit (s : State) (tenant core va : Nat) : Nat := unitBeside s (dieOf core) tenant va (8 * dieOf core + core % 8)

/-- A circuit-live barrier: bound when its mask is not 0 (R352). -/
def barrierOf (s : State) (b : Nat) : CircBar := (getN s.fabric.bars b).getD { tenant := 0, peerNode := 0, mask := 0 }
/-- A port. -/
def portOf (s : State) (p : Nat) : Port := (getN s.fabric.ports p).getD {}
/-- The ports of a mask, ascending. -/
def portsOf (m : Nat) : List Nat := (List.range 32).filter fun p => bitAt m p
/-- A barrier is live (R352). -/
def barLive (s : State) (b : Nat) : Bool :=
  let x := barrierOf s b
  x.mask ≠ 0 && (portsOf x.mask).all fun p => (portOf s p).st = 3 && (portOf s p).peerNode = x.peerNode

/-- The stamp's address, or the refusal (R246). -/
def stampOf (s : State) (r idx : Nat) : Except Refused Nat :=
  if recEsize r ≠ 3 then .error valueBad
  else match placeElem r idx 8 false true with
    | .here _ va => (match peerBad s va with | some e => .error e | none => .ok va)
    | .out => .error (cBOUNDS, 2, w64 idx)
    | .bad c _ info => .error (c, if c = cBOUNDS then 2 else 0, info)

/-- Where a `cpy` goes, or its refusal (R246, R353). -/
def copyDst (i : Iss) (g : Group) (s : State) (span : Nat) : Except Refused CopyTo :=
  let dst := param i g 3
  let f := param i g 7
  match i.o.opt with
  | 0 => (areaOf s g (i.k / 128) dst span).map fun (c, off) => .sp c off
  | 1 =>
    let r := g.mrec i.o.b
    match spanBad r dst span true with
    | some e => .error e
    | none => .ok (.gl (recBase r + dst))
  | _ =>
    let b := barrierOf s (bitsOf f 22 17)
    if nodeOf dst = s.regs.nodeId then .error (cILLEGAL, 0x10, 0)
    else if 2 ^ 63 < dst + span || nodeOf (dst + span - 1) ≠ nodeOf dst then .error valueBad
    else if !bitAt f 23 || bitAt f 8 || b.mask = 0 || b.tenant ≠ g.tenant || b.peerNode ≠ nodeOf dst then .error valueBad
    else .ok (.peer dst)

/-- The command that a `cpy`'s parameters give, or its refusal (R245, R246). -/
def copyCmd (i : Iss) (g : Group) (s : State) : Except Refused Copy :=
  let p1 := param i g 1
  let f := param i g 7
  let r := i.brec g
  let rows := bitsOf p1 47 32 + 1
  let rb := p1 % 2 ^ 32
  let src := param i g 0
  if bitsOf p1 63 48 ≠ 0 || bitsOf f 63 25 ≠ 0 || bitsOf f 11 9 ≠ 0 || rb = 0 || 2 ^ 24 < rb then .error valueBad
  else match spanBad r src ((rows - 1) * param i g 2 + rb) false with
    | some e => .error e
    | none =>
      match copyDst i g s ((rows - 1) * param i g 4 + rb) with
      | .error e => .error e
      | .ok dst =>
        let cen := bitAt f 8
        let ctr := f % 256
        match firstBad [if cen && i.o.opt ≠ 0 then some valueBad else none, if cen then ctrBad s g ctr else none] with
        | some e => .error e
        | none =>
          let c : Copy :=
            { unit := copyUnit s g.tenant (i.k / 128) (recBase r + src), src := recBase r + src, dst, rows, rowBytes := rb,
              sstride := param i g 2, dstride := param i g 4, nt := bitAt f 24, ctr := if cen then some ctr else none,
              bar := if bitAt f 23 then some (bitsOf f 22 17) else none, since := s.fabric.clock }
          let stamp : Except Refused (Option (Nat × W64)) :=
            if bitAt f 16 then (stampOf s (g.mrec (bitsOf f 15 12)) (param i g 5)).map fun va => some (va, w64 (param i g 6))
            else .ok none
          match stamp, firstBad [peerSpan s (recBase r + src) ((rows - 1) * param i g 2 + rb),
              match dst with | .gl va => peerSpan s va ((rows - 1) * param i g 4 + rb) | _ => none] with
          | .error e, _ => .error e
          | _, some e => .error e
          | .ok stamp, none => .ok { c with stamp }

/-- `cpy` (R245): forks at scope dev, or pod for a peer (R101). -/
def opCpy (h : Hdr) (f : Form) (s : State) : State :=
  groupIssue 0x8a h f (memEff fun i g s =>
    match copyCmd i g s with
      | .error (c, sub, info) => engineFault i c sub info s
      | .ok c =>
        if engineFull s (i.k / 128) [0] then none
        else some (postOp i g (if i.o.opt = 2 then 5 else 4) (.copy c) s)) s

/-! ## The copy units (R83 to R85, R411) -/

/-- Bytes and slices of a copy (R83). -/
def Copy.total (c : Copy) : Nat := c.rows * c.rowBytes
def Copy.slices (c : Copy) : Nat := ceilDiv c.total 4096
/-- Source and destination of byte `n` of a copy, as displacements (R83). -/
def Copy.srcAt (c : Copy) (n : Nat) : Nat := (n / c.rowBytes) * c.sstride + n % c.rowBytes
def Copy.dstAt (c : Copy) (n : Nat) : Nat := (n / c.rowBytes) * c.dstride + n % c.rowBytes
/-- The destination's first address or offset. -/
def Copy.base (c : Copy) : Nat := match c.dst with | .sp _ off => off | .gl va => va | .peer va => va

/-- Cut bytes `n` to `stop` of a copy where a row, a source line or a destination line ends. -/
def Copy.cut (c : Copy) (stop : Nat) : Nat → Nat → List (Nat × Nat)
  | 0, _ => []
  | fuel + 1, n =>
    if stop ≤ n then []
    else
      let m := min (min (stop - n) (c.rowBytes - n % c.rowBytes))
        (min (128 - (c.src + c.srcAt n) % 128) (128 - (c.base + c.dstAt n) % 128))
      (n, m) :: c.cut stop fuel (n + m)

/-- What preparing a slice finds. -/
inductive Prep where
  | ok (ps : List Piece)
  /-- A translation wait or a line held elsewhere: address, and whether on the destination side. -/
  | wait (va : Nat) (write : Bool)
  | bad (cause va : Nat) (write : Bool)
  deriving DecidableEq, Repr

/-- A granule in error lies in a range. -/
def eccIn (s : State) (pa n : Nat) : Bool := s.ecc.any fun g => decide (pa / 8 ≤ g) && decide (g ≤ (pa + n - 1) / 8)

/-- Read bytes for an engine that lie in one line, under a tenant's translation (R246, R411). -/
def engineRead (tenant : Nat) (core : Option Nat) (va n : Nat) (s : State) : Except Prep (List Byte) × State :=
  match walkNow s tenant va core .read with
  | (.found x, s) =>
    let pa := x.pa va
    if !l2Free s (pa / 128) then (.error (.wait va false), s)
    else if eccIn s pa n then (.error (.bad cECC va false), (errorAt pa s))
    else (.ok (readBytes s.mem pa n), touchL2 (pa / 128) s)
  | (.bad c, s) => (.error (.bad c va false), s)
  | (_, s) => (.error (.wait va false), s)

/-- The place of bytes that an engine will write, with whether the page is HC. -/
def engineDst (tenant : Nat) (core : Option Nat) (va : Nat) (s : State) : Except Prep (Nat × Bool) × State :=
  match walkNow s tenant va core .write with
  | (.found x, s) => (.ok (x.pa va, x.mode = 0), s)
  | (.bad c, s) => (.error (.bad c va true), s)
  | (_, s) => (.error (.wait va true), s)

/-- The core whose page modes an operation is checked against (R76). -/
def Op.issuer (o : Op) : Option Nat := if o.core < 128 then some o.core else none

/-- Bytes join what a slice writes in their destination line (R83). -/
def addPiece (p : Piece) : List Piece → List Piece
  | [] => [p]
  | q :: qs => if q.place = p.place then { q with bytes := mergeBytes q.bytes p.bytes } :: qs else q :: addPiece p qs

/-- Prepare what a slice writes (R83, R246). -/
def prepSlice (o : Op) (c : Copy) : List (Nat × Nat) → List Piece → State → Prep × State
  | [], acc, s => (.ok acc, s)
  | (n, m) :: rest, acc, s =>
    match engineRead o.tenant o.issuer (c.src + c.srcAt n) m s with
    | (.error e, s) => (e, s)
    | (.ok bs, s) =>
      let d := c.base + c.dstAt n
      match c.dst with
      | .gl _ =>
        match engineDst o.tenant o.issuer d s with
        | (.error e, s) => (e, s)
        | (.ok (pa, hc), s) =>
          prepSlice o c rest (addPiece { place := pa - pa % 128, va := d, hc, bytes := overlay 128 (pa % 128) bs } acc) s
      | _ => prepSlice o c rest (addPiece { place := d - d % 128, va := d, hc := false, bytes := overlay 128 (d % 128) bs } acc) s

/-- The demand record of a held command (R246): the engine's, without lanes. -/
def Op.demand (o : Op) (va : Nat) (write : Bool) : FaultRec :=
  match o.kind with
  | .copy c => { cause := cTRANSLATE, write, src := 5, unit := c.unit, pc := o.pc, addr := w64 va, tenant := o.tenant }
  | .xfer x => { cause := cTRANSLATE, write, src := 4, unit := pushStation x.doff x.node, pc := o.pc, addr := w64 va, tenant := o.tenant }
  | _ => { cause := cTRANSLATE, write, src := 0, unit := o.slot * 128 + o.core, laneMask := o.lanes, pc := o.pc, addr := w64 va, tenant := o.tenant }

/-- The die at which an operation's walks wait. -/
def Op.die (o : Op) : Nat :=
  match o.kind with | .copy c => c.unit / 8 | _ => dieOf o.core % 4

/-- A copy has nothing left in flight. -/
def Copy.idle (c : Copy) : Bool := c.out.isEmpty && (c.stopped || decide (c.slices ≤ c.next))

/-- Release a held bundle or a packet: a copy's end (R84, R85). -/
def endCopy (o : Op) (c : Copy) (s : State) : State :=
  let s := dropOp o.id s
  match c.pkt with
  | some (q, pos) =>
    if c.stopped then s
    else
      let upd (r : Run) : Run := if r.id = pos then { r with done := true } else r
      match getN s.queues q with
      | some x => { s with queues := putN s.queues q { x with runs := x.runs.map upd } }
      | none => s
  | none => s

/-- Stop a copy (R411, R445): one record, no later slice, no stamp. -/
def stopCopy (o : Op) (c : Copy) (cause va : Nat) (write : Bool) (s : State) (info : Nat := 0) : State :=
  let s := if c.stopped then s
    else postRec { cause, write, src := 5, unit := c.unit, pc := o.pc, addr := w64 va, info1 := w64 info, tenant := o.tenant } s
  let c := { c with stopped := true, stamp := none }
  if c.idle then endCopy o c s else putOp { o with kind := .copy c } s

/-- The stamp of a finished copy (R84): performed at L2 with nothing of the copy left to perform. -/
def stampCopy (o : Op) (c : Copy) (s : State) : State :=
  match c.stamp with
  | none => endCopy o c s
  | some (va, val) =>
    match engineDst o.tenant o.issuer va s with
    | (.ok (pa, hc), s) =>
      if l2Free s (pa / 128) then endCopy o c (touchL2 (pa / 128) (performBytes pa (toBytes 8 val.toNat) none hc s)) else s
    | (.error (.bad cause va _), s) => stopCopy o c cause va true s
    | (.error _, s) => agentWait o.die o.tenant va (o.demand va true) s

/-- Permits that a core has granted to a copy unit (R84). -/
def permitsOut (s : State) (core unit : Nat) : Nat :=
  ((s.ops.map Prod.snd).map fun o => match o.kind with
    | .copy c => (match c.dst with | .sp k _ => if k = core && c.unit = unit then c.out.length else 0 | _ => 0)
    | _ => 0).foldl (· + ·) 0

/-- A landing permit is free and the destination block grants it (R64, R84). -/
def permitFree (s : State) (o : Op) (c : Copy) : Bool :=
  match c.dst with
  | .sp core _ => decide (permitsOut s core c.unit < 16) &&
      (match (getN s.blocks o.blk).bind (·.share core) with | some sh => !sh.sealed | none => true)
  | _ => true

/-- The port of a slice over a barrier (R353). -/
def slicePort (s : State) (c : Copy) (n : Nat) : Option Nat :=
  match c.dst, c.bar with
  | .peer _, some b => let ps := portsOf (barrierOf s b).mask; ps[n % ps.length]?
  | _, _ => none

/-- Hand a slice to its port (R353). -/
def sendSlice (o : Op) (_c : Copy) (x : Slice4K) (s : State) : State :=
  match x.port with
  | some p => { s with net := s.net ++ [.slice p (podasid s o.tenant) o.id x.idx (x.pieces.map fun y => (y.place, y.bytes))] }
  | none => s

/-- COPY_SLICE_PUSH (R84): `idx` is the operation. A slice that lost its port is sent again first (R353). -/
def copyPush (id : Nat) (s : State) : State :=
  match getN s.ops id with
  | none => s
  | some o => match o.kind with
    | .copy c =>
      let live := match c.bar with | some b => barLive s b | none => true
      let drained (p : Option Nat) : Bool := match p with | some p => (portOf s p).draining | none => false
      if !o.ready || !opActive s o || saving s o.tenant || !live || c.stopped then s
      else match c.out.find? fun x => !x.flying with
        | some x =>
          let upd (y : Slice4K) : Slice4K := if y.idx = x.idx then { y with flying := true } else y
          if drained x.port then s
          else putOp { o with kind := .copy { c with out := c.out.map upd } } (sendSlice o c x s)
        | none =>
          if c.slices ≤ c.next then (if c.out.isEmpty then stampCopy o c s else s)
          else if !permitFree s o c || drained (slicePort s c c.next) then s
          else
            let n := 4096 * c.next
            let stop := min c.total (n + 4096)
            match prepSlice o c (c.cut stop 4096 n) [] s with
            | (.ok ps, s) =>
              let x : Slice4K := { idx := c.next, len := stop - n, pieces := ps, va := c.base + c.dstAt n, port := slicePort s c c.next }
              sendSlice o c x (putOp { o with kind := .copy { c with next := c.next + 1, out := c.out ++ [x] } } s)
            | (.wait va write, s) => agentWait o.die o.tenant va (o.demand va write) s
            | (.bad cause va write, s) => stopCopy o c cause va write s
    | _ => s

/-- A slice is complete: its counter gains its bytes and its place is free (R84). -/
def sliceDone (o : Op) (c : Copy) (x : Slice4K) (s : State) : State :=
  let c := { c with out := c.out.filter fun y => y.idx ≠ x.idx }
  let s := putOp { o with kind := .copy c } s
  let s := match c.dst, c.ctr with
    | .sp core _, some n => arriveCounter o.blk core n x.len s
    | _, _ => s
  if c.idle then (if c.stopped then endCopy o c s else stampCopy o c s) else s

/-- The scratchpad of a block's share takes engine writes (R66): not while its image is loading. What arrives for a block
that has completed is dropped. -/
def shareOpen (s : State) (blk core : Nat) : Bool :=
  match (getN s.blocks blk).bind (·.share core) with | some sh => !sh.loading | none => true

/-- Part of a granule in error stands where a slice would write (R390, R411). -/
def pieceBad (s : State) (o : Op) (c : Copy) (p : Piece) : Bool :=
  match c.dst with
  | .sp core _ => !(scratchPart s o.blk core p.place p.bytes).isEmpty
  | .gl _ => !(badGranules s (p.place / 128) p.bytes).isEmpty
  | .peer _ => false

/-- COPY_SLICE_WRITTEN (R83, R84): `idx` the operation, `aux` the slice, `word` which of its lines is written now. -/
def copyWritten (id n k : Nat) (s : State) : State :=
  match getN s.ops id with
  | none => s
  | some o => match o.kind with
    | .copy c =>
      match c.out.find? fun x => x.idx = n with
      | none => s
      | some x =>
        match x.pieces[k]? with
        | none => s
        | some p =>
          let free := match c.dst with
            | .sp core _ => shareOpen s o.blk core | .gl _ => l2Free s (p.place / 128) | .peer _ => false
          if !free then s
          else if pieceBad s o c p then
            stopCopy o { c with out := c.out.filter fun y => y.idx ≠ n } cECC p.va true
              (errorAt (match c.dst with | .gl _ => p.place | _ => 0) s)
          else
            let s := match c.dst with
              | .sp core _ => writeScratch o.blk core p.place p.bytes s
              | _ => touchL2 (p.place / 128) (performWrite p.place p.bytes none p.hc s) c.nt
            let x := { x with pieces := x.pieces.eraseIdx k }
            if x.pieces.isEmpty then sliceDone o c x s
            else
              let upd (y : Slice4K) : Slice4K := if y.idx = n then x else y
              putOp { o with kind := .copy { c with out := c.out.map upd } } s
    | _ => s

/-- A slice that its peer refuses stops the command, with the peer's cause (R411, R434): notice code `word` bits 3:0, the
number of the piece from bit 4. -/
def sliceRefused (o : Op) (c : Copy) (x : Slice4K) (word : Nat) (s : State) : State :=
  let va := ((x.pieces[word / 16]?).map Piece.va).getD x.va
  let n := if word % 16 = 0 || 10 < word % 16 then 9 else word % 16
  let cause := match n with | 1 => cTRANSLATE | 2 => cPERM | 3 => cMODE | 4 => cECC | _ => cCUSTODY
  stopCopy o { c with out := c.out.filter fun y => y.idx ≠ x.idx } cause va true s (if cause = cCUSTODY then n else 0)

/-- OPTICAL_SLICE_ACK (R353): `idx` the operation, `aux` the slice; with `flag` a notice answers it. -/
def sliceAck (x : Input) (s : State) : State :=
  match getN s.ops x.idx with
  | none => s
  | some o => match o.kind with
    | .copy c =>
      match c.dst, c.out.find? fun y => y.idx = x.aux with
      | .peer _, some y =>
        if !y.flying then s
        else if x.flag then sliceRefused o c y x.word.toNat s
        else sliceDone o c y s
      | _, _ => s
    | _ => s

/-- 4 ms of the fabric processor's clock (R445, R446). -/
def fourMs : Nat := 4000000

/-- BARRIER_COPY_TIMEOUT (R445): `idx` the operation. -/
def copyTimeout (id : Nat) (s : State) : State :=
  match getN s.ops id with
  | none => s
  | some o => match o.kind with
    | .copy c =>
      match c.bar with
      | some b =>
        if !o.ready || !opActive s o || c.stopped || barLive s b || s.fabric.clock < c.since + fourMs then s
        else
          let first := match c.out with | x :: _ => x.idx | [] => c.next
          stopCopy o { c with out := if (match c.dst with | .peer _ => true | _ => false) then [] else c.out } 0x34
            (c.base + c.dstAt (4096 * first)) true s
      | none => s
    | _ => s

/-! ## Multicast fill (R86, R87, R247, R413) -/

/-- The cores that row and column masks name on a die (R86). -/
def meshCores (die rows cols : Nat) : List Nat :=
  ((List.range 32).map (32 * die + ·)).filter fun c => bitAt rows (rowOf c) && bitAt cols (colOf c)

/-- The resident or saved blocks of a launch that hold a share of a core (R86, R64). -/
def launchBlocks (s : State) (l core : Nat) : List Nat :=
  (s.blocks.filter fun (_, b) => b.launch = l && (b.share core).isSome).map Prod.fst

/-- The command of an `mfill`, or its refusal (R247). -/
def fillCmd (i : Iss) (g : Group) (s : State) : Except Refused Fill :=
  let p0 := param i g 0
  let p1 := param i g 1
  let p2 := param i g 2
  let r := i.brec g
  let len := bitsOf p1 44 32
  let doff := bitsOf p1 20 0
  let cores := meshCores (dieOf (i.k / 128)) (bitsOf p2 3 0) (bitsOf p2 15 8)
  match blockOf s g with
  | none => .error valueBad
  | some b =>
    if p0 % 128 ≠ 0 || bitsOf p1 63 45 ≠ 0 || bitsOf p1 31 21 ≠ 0 || bitsOf p2 63 32 ≠ 0 || bitsOf p2 7 4 ≠ 0 ||
        len < 128 || 4096 < len || len % 128 ≠ 0 || doff % 128 ≠ 0 then .error valueBad
    else
      let reach := decide ((layoutOf s b).ctr < doff + len) && cores.any fun c => !(launchBlocks s b.launch c).isEmpty
      match firstBad [spanBad r p0 len false, if reach then some (cSCRATCH, 2, w64 doff) else none,
          ctrBad s g (bitsOf p2 31 24), ctrBad s g (bitsOf p2 23 16), peerSpan s (recBase r + p0) len] with
      | some e => .error e
      | none => .ok { launch := b.launch, va := recBase r + p0, len, doff, ictr := bitsOf p2 31 24, tctr := bitsOf p2 23 16, cores }

/-- `mfill` (R247): forks at scope die. -/
def opMfill (h : Hdr) (f : Form) (s : State) : State :=
  groupIssue 0x8b h f (memEff fun i g s =>
    match fillCmd i g s with
    | .error (c, sub, info) => engineFault i c sub info s
    | .ok c => if engineFull s (i.k / 128) [1] then none else some (postOp i g 3 (.fill c) s)) s

/-- Read the lines of a fill, each once (R247): a line in error is `none` (R413). -/
def fillLines (o : Op) : List Nat → List (Option (List Byte)) → State → Except Prep (List (Option (List Byte))) × State
  | [], acc, s => (.ok acc.reverse, s)
  | va :: rest, acc, s =>
    match engineRead o.tenant o.issuer va 128 s with
    | (.ok bs, s) => fillLines o rest (some bs :: acc) s
    | (.error (.bad c v w), s) => if c = cECC then fillLines o rest (none :: acc) s else (.error (.bad c v w), s)
    | (.error e, s) => (.error e, s)

/-- Deliver a fill to one block on a core (R86, R413). -/
def fillBlock (f : Fill) (lines : List (Option (List Byte))) (core : Nat) (s : State) (blk : Nat) : State :=
  let s := (lines.zipIdx).foldl (fun s (l, n) => match l with
    | some bs => writeScratch blk core (f.doff + 128 * n) (bs.map some) s
    | none => s) s
  arriveCounter blk core f.tctr (128 * (lines.filter Option.isSome).length) s

/-- Resolve one target core of a fill (R86, R87, R413). -/
def fillCore (o : Op) (f : Fill) (lines : List (Option (List Byte))) (core : Nat) (s : State) : State :=
  let fits (b : Nat) : Bool := match getN s.blocks b with | some x => decide (f.doff + f.len ≤ (layoutOf s x).ctr) | none => false
  let blks := (launchBlocks s f.launch core).filter fits
  let s := blks.foldl (fillBlock f lines core) s
  let gain := if blks.isEmpty || lines.any Option.isNone then 2 ^ 32 + 1 else 1
  let s := arriveCounter o.blk o.core f.ictr gain s
  let rest := f.cores.filter (· ≠ core)
  if rest.isEmpty then dropOp o.id s else putOp { o with kind := .fill { f with cores := rest, lines := some lines } } s

/-- The record of a fill that meets a fault (R413). -/
def fillRec (o : Op) (cause va : Nat) : FaultRec :=
  { cause, src := 0, unit := o.slot * 128 + o.core, laneMask := o.lanes, pc := o.pc, addr := w64 va, tenant := o.tenant }

/-- MFILL_DELIVERY (R86, R413): `idx` the operation, `aux` the core. -/
def fillDelivery (id core : Nat) (s : State) : State :=
  match getN s.ops id with
  | none => s
  | some o => match o.kind with
    | .fill f =>
      if !o.ready then s
      else if f.cores.isEmpty then dropOp id s
      else if !f.cores.contains core || !(launchBlocks s f.launch core).all (fun b => shareOpen s b core) then s
      else match f.lines with
        | some ls => fillCore o f ls core s
        | none =>
          match fillLines o ((List.range (f.len / 128)).map fun n => f.va + 128 * n) [] s with
          | (.ok ls, s) =>
            let s := match ls.findIdx? Option.isNone with
              | some n => postRec (fillRec o cECC (f.va + 128 * n)) s
              | none => s
            fillCore o f ls core s
          | (.error (.bad c va _), s) => dropOp id (postRec (fillRec o c va) s)
          | (.error (.wait va _), s) => agentWait o.die o.tenant va (o.demand va false) s
          | (.error _, s) => s
    | _ => s

/-! ## Bulk transfer (R248, R249) -/

/-- The command of an `xpush`, or its refusal (R248, R412). -/
def pushCmd (i : Iss) (g : Group) (s : State) : Except Refused Xfer :=
  let p0 := param i g 0
  let p1 := param i g 1
  let p2 := param i g 2
  let p3 := param i g 3
  let len := p1 % 2 ^ 25
  let core := i.k / 128
  let x : Xfer :=
    { pull := false, core := none, off := 0, va := 0, len, tc := bitsOf p3 17 16, node := bitsOf p2 9 0,
      ctr := if bitAt p3 8 then some (p3 % 256) else none, dcore := bitsOf p2 16 10, dslot := bitsOf p2 23 17,
      doff := bitsOf p2 52 32, dctr := if bitAt p2 53 then some (bitsOf p2 31 24) else none, left := len }
  if bitsOf p1 63 25 ≠ 0 || bitsOf p2 63 54 ≠ 0 || bitsOf p3 63 18 ≠ 0 || bitsOf p3 15 9 ≠ 0 || len = 0 || 2 ^ 24 < len then
    .error valueBad
  else
    let src : Except Refused Xfer :=
      if i.o.opt = 0 then (areaOf s g core p0 len).map fun (c, off) => { x with core := some c, off }
      else
        let r := i.brec g
        match spanBad r p0 len false with
        | some e => .error e
        | none => .ok { x with va := recBase r + p0 }
    match src with
    | .error e => .error e
    | .ok x =>
      match firstBad [if x.node = s.regs.nodeId then some (cILLEGAL, 0x10, 0) else none, x.ctr.bind (ctrBad s g),
          if x.core.isNone then peerSpan s x.va len else none] with
      | some e => .error e
      | none => .ok x

/-- The command of an `xpull`, or its refusal (R249, R412). -/
def pullCmd (i : Iss) (g : Group) (s : State) : Except Refused Xfer :=
  let p1 := param i g 1
  let p2 := param i g 2
  let p3 := param i g 3
  let len := p1 % 2 ^ 25
  let ctr := if bitAt p3 8 then some (p3 % 256) else none
  if bitsOf p1 63 25 ≠ 0 || bitsOf p3 63 18 ≠ 0 || bitsOf p3 15 9 ≠ 0 || len = 0 || 2 ^ 24 < len || 2 ^ 63 < p2 + len || nodeOf (p2 + len - 1) ≠ nodeOf p2 then
    .error valueBad
  else match areaOf s g (i.k / 128) (param i g 0) len with
    | .error e => .error e
    | .ok (c, off) =>
      match firstBad [if nodeOf p2 = s.regs.nodeId then some (cILLEGAL, 0x10, 0) else none, ctr.bind (ctrBad s g)] with
      | some e => .error e
      | none => .ok { pull := true, core := some c, off, va := p2, len, tc := bitsOf p3 17 16, node := nodeOf p2, ctr, left := len }

/-- `xpush` (R248): forks at scope pod. -/
def opXpush (h : Hdr) (f : Form) (s : State) : State :=
  groupIssue 0x8c h f (memEff fun i g s =>
    match pushCmd i g s with
    | .error (c, sub, info) => engineFault i c sub info s
    | .ok x => if engineFull s (i.k / 128) x.engines then none else some (postOp i g 5 (.xfer x) s)) s

/-- `xpull` (R249): forks at scope pod. -/
def opXpull (h : Hdr) (f : Form) (s : State) : State :=
  groupIssue 0x8d h f (memEff fun i g s =>
    match pullCmd i g s with
    | .error (c, sub, info) => engineFault i c sub info s
    | .ok x => if engineFull s (i.k / 128) x.engines then none else some (postOp i g 5 (.xfer x) s)) s

/-! ## Stamps and messages (R254 to R256) -/

/-- The element of `stamp`, `stampw` and `msend` (R254 to R256): its address, nothing where it is suppressed, or the
refusal. -/
def elemOf (i : Iss) (g : Group) (off : Nat) (reads writes strict : Bool) : Except Refused (Option Nat) :=
  let r := i.brec g
  let idx := ((g.readS i.now i.o.a).toNat + off) % 2 ^ 64
  if strict && recEsize r ≠ 3 then .error valueBad
  else match placeElem r idx (2 ^ recEsize r) reads writes with
    | .here _ va => .ok (some va)
    | .out => if strict then .error (cBOUNDS, 0, w64 idx) else .ok none
    | .bad c sub info => .error (c, sub, info)

/-- The engine operations that a group forked and that have not completed (R254). -/
def openForks (s : State) (g : Group) : List Nat := g.forks.filter fun id => (getN s.ops id).isSome

/-- `stamp` (R254): a store with release, which waits in the store queue for the group's forks where `.all` is given. -/
def opStamp (h : Hdr) (f : Form) (s : State) : State :=
  groupIssue 0x93 h f (memEff fun i g s =>
    match elemOf i g (memOffset i g) false true true with
    | .error (c, sub, info) => engineFault i c sub info s
    | .ok none => some s
    | .ok (some va) =>
      if storeFull g || walkHeld s (i.k / 128) [va] then none
      else
        let (id, s) := s.fresh
        let a := { newAccess i g id .store (issuing i) s with rel := i.rel, forks := if i.o.opt = 1 then openForks s g else [] }
        let r : Req := { lane := (lowest i.act).getD 0, pos := 0, va, size := 8, dst := 0, val := (g.readS i.now i.o.d).setWidth 128 }
        let s := enqueueStore a [r] s
        some (s.updGroup i.k fun g => { g with forks := openForks s g })) s

/-- `stampw` (R255): an acquire of scope sys when the element reaches the value. -/
def opStampw (h : Hdr) (f : Form) (s : State) : State :=
  groupIssue 0x94 h f (memEff fun i g s =>
    match elemOf i g 0 true false true with
    | .error (c, sub, info) => engineFault i c sub info s
    | .ok none => some s
    | .ok (some va) =>
      match peerBad s va with
      | some (c, sub, info) => engineFault i c sub info s
      | none =>
        if walkHeld s (i.k / 128) [va] then none
        else
          let (id, s) := s.fresh
          let s := s.updGroup i.k fun g => g.mark id .s i.o.d (BitVec.allOnes 64)
          let a := { newAccess i g id (.stampw (w64 (memOffset i g)) i.act (g.trappedIn i.act)) (issuing i) s with scalar := true, acq := some 6, typ := 7 }
          let (rs, s) := trReqs a [{ lane := (lowest i.act).getD 0, pos := 0, va, size := 8, dst := i.o.d }] s
          some (settleAccess id (putAcc { a with reqs := rs } s))) s

/-- `msend` (R256): forks at scope dev. -/
def opMsend (h : Hdr) (f : Form) (s : State) : State :=
  groupIssue 0x95 h f (memEff fun i g s =>
    match elemOf i g (memOffset i g) false true false with
    | .error (c, sub, info) => engineFault i c sub info s
    | .ok none => some (countOob (i.k / 128) 1 s)
    | .ok (some va) =>
      match peerBad s va with
      | some (c, sub, info) => engineFault i c sub info s
      | none =>
        let low := match (blockOf s g).bind (·.share (i.k / 128)) with | some sh => sh.low | none => i.k % 128
        some (postOp i g 4 (.msg va (g.readS i.now i.o.d, g.readS i.now (i.o.d + 1)) low) s)) s

/-! ## `qpost` (R257) -/

/-- A command queue. -/
def State.queue (s : State) (q : Nat) : Queue := (getN s.queues q).getD {}
/-- Change a command queue. -/
def State.updQueue (s : State) (q : Nat) (f : Queue → Queue) : State := { s with queues := putN s.queues q (f (s.queue q)) }
/-- Fields of QCTL (R39). -/
def Queue.enabled (x : Queue) : Bool := x.ctl.getLsbD 0
def Queue.halted (x : Queue) : Bool := x.ctl.getLsbD 1
def Queue.tenant (x : Queue) : Nat := fld x.ctl 19 16
def Queue.size (x : Queue) : Nat := 2 ^ fld x.ctl 7 4
/-- Packets in a ring (R40). -/
def Queue.count (x : Queue) : Nat := (x.write + 2 ^ 32 - x.read % 2 ^ 32) % 2 ^ 32
/-- The address of a position, virtual or host (R40). -/
def Queue.at (x : Queue) (pos : Nat) : Nat := fld x.base 63 6 * 64 + 64 * (pos % x.size)

/-- `qpost` (R257): acts once the release of scope sys before it has been performed. -/
def opQpost (h : Hdr) (f : Form) (s : State) : State :=
  groupIssue 0x96 h f (memEff fun i g s =>
    let q := memOffset i g
    if 64 ≤ q then engineFault i cILLEGAL 0x0b 0 s
    else if (s.queue q).tenant ≠ g.tenant then engineFault i cPERM 0 (w64 ((s.queue q).at (s.queue q).write)) s
    else
      let words := (List.range 8).map fun j => g.readS i.now (i.o.a + j)
      let id := s.nextId
      some ((postOp i g 6 (.post q words i.o.d) s).updGroup i.k fun g => g.mark id .s i.o.d (BitVec.allOnes 64))) s

/-- A status reaches the register of a `qpost`. -/
def postStatus (o : Op) (d : Nat) (x : W64) (s : State) : State :=
  dropOp o.id (s.updGroup (gkey o.core o.slot) fun g => g.landS o.id d x)

/-- A `qpost` takes its position, writes its packet and rings the doorbell (R40, R257). -/
def doPost (o : Op) (q : Nat) (words : List W64) (d : Nat) (s : State) : State :=
  let x := s.queue q
  if !opActive s o then s
  else if !x.enabled || x.halted then postStatus o d (w64 (2 ^ 63 + 2)) s
  else if x.count = x.size then postStatus o d (w64 (2 ^ 63 + 1)) s
  else
    let bytes := words.flatMap fun w => toBytes 8 w.toNat
    let a := x.at x.write
    let bump (s : State) : State :=
      postStatus o d (w64 x.write) (s.updQueue q fun x => { x with write := (x.write + 1) % 2 ^ 32 })
    if x.base.getLsbD 0 then bump (performBytes (hostAt a) bytes none true s)
    else match engineDst o.tenant none a s with
      | (.ok (pa, hc), s) => if l2Free s (pa / 128) then bump (touchL2 (pa / 128) (performBytes pa bytes none hc s)) else s
      | (.error (.bad c va _), s) =>
        let s := s.updGroup (gkey o.core o.slot) fun g => g.dropScore o.id (BitVec.allOnes 64)
        takeTrap (gkey o.core o.slot) (deferCtx s o.core o.pc true) (sameFault o.lanes c 0 0 (w64 va)) (dropOp o.id s)
      | (.error _, s) => agentWait o.die o.tenant a (o.demand a true) s

/-- An operation that acts as soon as its fork has been performed, and then ends. -/
def runOp (id : Nat) (s : State) : State :=
  match getN s.ops id with
  | none => s
  | some o =>
    if !o.ready then s
    else match o.kind with
      | .ctr core idx opt val tgt => releaseHold (gkey o.core o.slot) id (applyCtr o.blk core idx opt val tgt (dropOp id s))
      | .post q words d => doPost o q words d s
      | .kdone q t word => applyDone q t word (dropOp id s)
      | _ => s

/-- The fork of an operation has been performed (R101). -/
def opReady (id : Nat) (s : State) : State :=
  match getN s.ops id with
  | none => s
  | some o =>
    let s := match o.kind with
      | .push _ r _ => parentAdd r.parent (· + 1) s
      | _ => s
    let s := putOp { o with ready := true } s
    match o.kind with
    | .mat _ _ => pumpMatrix (clusterOf o.core) s
    | _ => runOp id s

/-! ## The commit order at L2 (R75, R95, R97) -/

/-- What a marker stands for is done. -/
def markDone (core : Nat) (e : Store) (m : Mark) (s : State) : State :=
  match m with
  | .access id =>
    match getN s.accs id with
    | some a => pumpFences a.core a.slot (putAcc { a with released := true } s)
    | none => s
  | .fork id => opReady id s
  | .pushed b q elem => wakeStreams b (s.updBlock b (releaseElem q elem))
  | .drained l =>
    match getN s.launches l with
    | some x => { s with launches := putN s.launches l { x with pending := x.pending - 1 } }
    | none => s
  | .barrier b lanes => match s.group (gkey core e.slot) with | some g => arrive g.block b lanes s | none => s
  | .icinv lo hi scope op => releaseHold (gkey core e.slot) op (invalidateIbuf s core e.tenant lo hi scope)

/-- The masked bytes of an entry without those of granules in error in memory that it covers in part: they stay behind, the
entry's lanes or nobody have the report, and the core's copy of a write-back is dropped (R390, R415). -/
def Store.goodBytes (e : Store) (core : Nat) (s : State) : List (Option Byte) × State :=
  match badGranules s e.pline e.bytes with
  | [] => (e.bytes, s)
  | g :: gs =>
    let bad (n : Nat) : Bool := (g :: gs).contains (16 * e.pline + n)
    let va := (e.parts.headD { lane := 0, pos := 0, va := 0, bytes := [] }).va
    let s := if e.writeBack then
        (stashCopies s core e.pline).foldl (fun s (b, w, k, _) => updEntry b core w k (fun e => { e with st := .invalid }) s) (dropL1 core e.pline s)
      else s
    (withoutGranules e.bytes bad,
      wbFault core { slot := e.slot, tenant := e.tenant, lanes := e.lanes, pc := e.pc } (va - va % 128 + 8 * (g % 16)) s)

/-- An entry of a commit order is performed. -/
def performEntry (core : Nat) (e : Store) (s : State) : State :=
  match e.mark with
  | some m => markDone core e m s
  | none =>
    match e.dest, e.tr with
    | .scratch c line, _ => writeScratch e.blk c (128 * line) e.bytes s
    | .virt line, .remote => sendStore core line e s
    | .virt _, .found x =>
      let (bs, s) := e.goodBytes core s
      performWrite (128 * e.pline) bs (some core) (x.mode = 0) (useL2 e.pline e.nt s)
    | .none, _ =>
      let (bs, s) := e.goodBytes core s
      touchL2 e.pline (performWrite (128 * e.pline) bs (some core) false s)
    | _, _ => s

/-- L2_WRITE (R95): `unit` is the core and `idx` a position in its commit order; with `flag` an operation `idx` that waits
to act (R257). -/
def l2Write (x : Input) (s : State) : State :=
  if x.flag then runOp x.idx s
  else
    let q := (s.core x.unit).commitQ
    match q[x.idx]? with
    | none => s
    | some e =>
      if !mayPerform s x.unit (q.take x.idx) e then (if e.tr = .remote then combYield 0 e s else s)
      else performEntry x.unit e (s.updCore x.unit fun c => { c with commitQ := c.commitQ.eraseIdx x.idx })

/-- CPY (R245). -/
def execCpy (h : Hdr) (m : Multi) (s : State) : Out := .next (opCpy h (.multi m) s)

/-- MFILL (R247). -/
def execMfill (h : Hdr) (m : Multi) (s : State) : Out := .next (opMfill h (.multi m) s)

/-- XPUSH (R248). -/
def execXpush (h : Hdr) (m : Multi) (s : State) : Out := .next (opXpush h (.multi m) s)

/-- XPULL (R249). -/
def execXpull (h : Hdr) (m : Multi) (s : State) : Out := .next (opXpull h (.multi m) s)

/-- STAMP (R254). -/
def execStamp (h : Hdr) (m : Multi) (s : State) : Out := .next (opStamp h (.multi m) s)

/-- STAMPW (R255). -/
def execStampw (h : Hdr) (m : Multi) (s : State) : Out := .next (opStampw h (.multi m) s)

/-- MSEND (R256). -/
def execMsend (h : Hdr) (m : Multi) (s : State) : Out := .next (opMsend h (.multi m) s)

/-- QPOST (R257). -/
def execQpost (h : Hdr) (m : Multi) (s : State) : Out := .next (opQpost h (.multi m) s)

/-! ## Events -/

/-- L2_WRITE (R95). -/
def execL2Write (s : State) : Out := .next (l2Write s.input s)
/-- COPY_SLICE_PUSH (R84). -/
def execCopySlicePush (s : State) : Out := .next (copyPush s.input.idx s)
/-- COPY_SLICE_WRITTEN (R84). -/
def execCopySliceWritten (s : State) : Out := .next (copyWritten s.input.idx s.input.aux s.input.word.toNat s)
/-- MFILL_DELIVERY (R86). -/
def execMfillDelivery (s : State) : Out := .next (fillDelivery s.input.idx s.input.aux s)
/-- OPTICAL_SLICE_ACK (R353). -/
def execOpticalSliceAck (s : State) : Out := .next (sliceAck s.input s)
/-- BARRIER_COPY_TIMEOUT (R445). -/
def execBarrierCopyTimeout (s : State) : Out := .next (copyTimeout s.input.idx s)

end Sys2Proof.Machine
end

