-- ==== Sys2Proof/Machine/Page.lean ====
section
/-!
DEFINITION. The steps by which a page changes its mode (spec 04 R77; 09 R201; 23 R410).
-/

namespace Sys2Proof.Machine

/-- The leaf of a page whether or not it is migrating (R112, R201). -/
def leafFrom (s : State) (va : Nat) : Nat → Nat → Nat → Option (Bool × W64)
  | 0, _, _ => none
  | fuel + 1, level, table =>
    let idx := match level with | 1 => bitsOf va 52 40 | 2 => bitsOf va 39 28 | _ => bitsOf va 27 16
    let p := w64 (readNat s.mem (table + 8 * idx) 8)
    if !p.getLsbD 0 || pteBad level p then none
    else if p.getLsbD 10 then some (level = 2, p)
    else leafFrom s va fuel (level + 1) (fld p 55 16 * 2 ^ 16)

/-- The leaf that holds a tenant's address. -/
def leafAt (s : State) (tenant va : Nat) : Option (Bool × W64) :=
  let ctx := getZ s.regs.asctx tenant
  let root := fld ctx 36 16 * 2 ^ 16
  if !ctx.getLsbD 0 || !nearPA root then none else leafFrom s va 3 1 root

/-- The base and size of the page of an address (R111). -/
def pageSpan (large : Bool) (va : Nat) : Nat × Nat :=
  let n := if large then 2 ^ 28 else 2 ^ 16
  (va - va % n, n)

/-- A physical line holds bytes of a page given by its leaf (R113, R365). -/
def lineOfPage (s : State) (large : Bool) (p : W64) (va pline : Nat) : Bool :=
  let (base, n) := pageSpan large va
  let x : Xlat := { tenant := 0, vpage := 0, large, pte := p, pteAt := 0 }
  let lo := x.addr base
  let within (a : Nat) : Bool := decide (lo ≤ a) && decide (a < lo + n)
  if x.tier = 2 then s.ats.any fun e => within (e.1 * 4096) && 128 * pline / 4096 = hostAt (e.2 * 4096) / 4096
  else within (128 * pline)

/-- The walk to an address's leaf meets an entry in error (R390, R415). -/
def leafError (s : State) (d tenant va : Nat) : Bool := walk s d tenant va true = .fault cECC

/-- Post a `pgmode`; a leaf of 0 stands for one that could not be read. -/
def postPgmode (i : Iss) (g : Group) (va : Nat) (large : Bool) (leaf : W64) (s : State) : State :=
  let (id, s) := s.fresh
  let s := s.updGroup i.k fun g => g.mark id .s i.o.d (BitVec.allOnes 64)
  let o : Op := { id, core := i.k / 128, slot := i.k % 128, lane := (lowest i.act).getD 0, lanes := i.act, tenant := g.tenant,
                  pc := s.cur.pc, ready := true, trap := g.trappedIn i.act, kind := .pgmode i.o.opt va large leaf i.o.d }
  { s with ops := putN s.ops id o }

/-- `pgmode` (R77, R201): an operation that PGMODE_STEP_COMPLETE ends. It reads the leaf when no handler holds a line of the
walk (R306). -/
def opPgmode (h : Hdr) (f : Form) (s : State) : State :=
  groupIssue 0xe1 h f (fun i g s =>
    let va := (g.readS i.now i.o.a).toNat
    let d := dieOf (i.k / 128)
    if !walkOpen s d g.tenant va true then none
    else if leafError s d g.tenant va then some (postPgmode i g va false 0 s)
    else match leafAt s g.tenant va with
    | some (large, p) => if !p.getLsbD 9 then some (illegal i i.act 0x12 s) else some (postPgmode i g va large p s)
    | none => some (illegal i i.act 0x12 s)) s

/-- Rows of a copy from byte `n` on, for `m` bytes, reach a range that `hit` tells by first byte and length. -/
def rowsHit (hit : Nat → Nat → Bool) (first stride rowBytes n m : Nat) : Bool :=
  m ≠ 0 && (List.range ((n + m - 1) / rowBytes + 1 - n / rowBytes)).any fun j => hit (first + (n / rowBytes + j) * stride) rowBytes

/-- Bytes of a copy that are of a page: at its source, or at a destination on this node. -/
def Copy.hits (c : Copy) (hit : Nat → Nat → Bool) (n m : Nat) : Bool :=
  rowsHit hit c.src c.sstride c.rowBytes n m || (match c.dst with | .gl va => rowsHit hit va c.dstride c.rowBytes n m | _ => false)

/-- A slice or packet of an operation of a tenant that touches a page stands to be performed (R77): slices that are on their way
and a copy that is held at a barrier (R410), a fill that has been read, packets that stations hold. A command that has translated
nothing meets the translation wait of step 2 and is not waited for. -/
def Op.touches (s : State) (hit : Nat → Nat → Bool) (o : Op) : Bool :=
  match o.kind with
  | .copy c =>
    let barred := match c.bar with | some b => !barLive s b && !c.stopped | none => false
    (c.out.any fun x => c.hits hit (4096 * x.idx) x.len) || (barred && c.hits hit (4096 * c.next) (c.total - 4096 * c.next))
  | .fill f => f.lines.isSome && hit f.va f.len
  | .xfer x => x.core.isNone && s.stations.any fun (_, y) => y.pkts.any fun p =>
      (match p.cargo with | .part i off n => i = o.id && hit (x.va + off) n | _ => false)
  | _ => false

/-- An access that has been translated is still to be performed at a page (R77): `p` picks its physical lines. -/
def touchesPage (s : State) (tenant base n : Nat) (p : Nat → Bool) : Bool :=
  let inPage (va : Nat) : Bool := decide (base % 2 ^ 53 ≤ va % 2 ^ 53) && decide (va % 2 ^ 53 < base % 2 ^ 53 + n)
  let hit (va m : Nat) : Bool := decide (va % 2 ^ 53 < base % 2 ^ 53 + n) && decide (base % 2 ^ 53 < va % 2 ^ 53 + m)
  let leaf (t va : Nat) (tr : TrState) : Bool := t = tenant && tr.leaf.isSome && inPage va
  (s.accs.any fun (_, a) => a.reqs.any fun r => leaf a.tenant r.va r.tr || ((r.loc s (accBlock s a)).map p).getD false) ||
  (s.groups.any fun (_, g) => g.storeQ.any fun e => leaf g.tenant e.va e.tr || ((e.loc s g.block).map p).getD false) ||
  (s.cores.any fun (_, c) => c.commitQ.any fun e => leaf e.tenant e.va e.tr ||
    (e.mark.isNone && (match e.dest with | .scratch _ _ => false | _ => e.tr ≠ .remote && p e.pline))) ||
  s.ops.any fun (_, o) => (o.tenant = tenant && o.touches s hit) || (match o.kind with
    | .copy c => (match c.dst with | .gl _ => c.out.any fun x => x.pieces.any fun q => p (q.place / 128) | _ => false)
    | _ => false)

/-- Every core that state names. -/
def knownCores (s : State) : List Nat := s.cores.map Prod.fst

/-- WBACK on every core (R77): dirty bytes of the page's lines are performed at L2, stash first; the addresses of the
granules that could not be. -/
def pageWriteBack (p : Nat → Bool) (s : State) : List Nat × State :=
  let r := (List.range 128).foldl (fun r c =>
    (dirtyEntries r.2 c fun _ _ _ => true).foldl (fun (r : List Nat × State) (b, c, w, k, pline, bs) =>
      if p pline then
        let (as, s) := wbNow c pline (entryVa r.2 b c w k) bs (stashBadAt r.2 b c (entryOff r.2 b c w k)) r.2
        (r.1 ++ as, updEntry b c w k (fun e => { e with st := .clean, mask := [], writers := [] }) s)
      else r) r) (([] : List Nat), s)
  let clean (l : L1Line) : L1Line := if p l.pline then { l with dirty := List.replicate 128 false } else l
  (knownCores s).foldl (fun r c =>
    let out := (r.2.core c).l1.filter fun l => p l.pline && l.dirty.contains true
    let s := r.2.updCore c fun x => { x with l1 := x.l1.map clean }
    out.foldl (fun (r : List Nat × State) l =>
      let (as, s) := wbNow c l.pline l.va (dirtyOf l) (l1BadAt r.2 c l.pline) r.2
      (r.1 ++ as, s)) (r.1, s)) r

/-- WBACK is to wait (R77, R306): a handler holds a line that it would write, or is still to write in the commit order an earlier
write-back of the page. -/
def writeBackWaits (p : Nat → Bool) (s : State) : Bool :=
  let held (pline : Nat) : Bool := p pline && !l2Free s pline
  (s.cores.any fun (_, c) => c.commitQ.any (fun e => e.mark.isNone && e.writeBack && p e.pline) ||
    c.l1.any fun l => l.dirty.contains true && held l.pline) ||
  (List.range 128).any fun c => (dirtyEntries s c fun _ _ _ => true).any fun (_, _, _, _, pline, _) => held pline

/-- A stash entry's physical line. -/
def StashEntry.pline (e : StashEntry) (va : Nat) : Option Nat :=
  match e.tr with | some x => if e.st = .invalid then none else some (x.pa va / 128) | none => none

/-- INVAL on every core (R77): no copy of the page's lines remains. -/
def pageInvalidate (p : Nat → Bool) (s : State) : State :=
  let entry (win : Window) (q : StashEntry × Nat) : StashEntry :=
    match q.1.pline (win.base + 128 * q.2) with | some l => if p l then { q.1 with st := .invalid } else q.1 | none => q.1
  let share (sh : Share) : Share := { sh with windows := sh.windows.map fun (w, win) =>
    (w, { win with entries := win.entries.zipIdx.map (entry win) }) }
  { s with
    cores := s.cores.map fun (c, x) => (c, { x with l1 := x.l1.filter fun l => !p l.pline })
    blocks := s.blocks.map fun (b, blk) => (b, { blk with shares := blk.shares.map share }) }

/-- PGMODE_STEP_COMPLETE (R77): `idx` is the operation. -/
def pgmodeDone (id : Nat) (s : State) : State :=
  match getN s.ops id with
  | none => s
  | some o =>
    match o.kind with
    | .pgmode step va large p d =>
      let (base, n) := pageSpan large va
      let mine := lineOfPage s large p va
      let fin (s : State) : State :=
        { s with ops := delN s.ops id }.updGroup (gkey o.core o.slot) fun g => g.landS id d 0
      let fails (a : Nat) (s : State) : State :=
        let s := { s with ops := delN s.ops id, regs := { s.regs with ueCnt := s.regs.ueCnt + 1 } }
        let s := s.updGroup (gkey o.core o.slot) fun g => g.dropScore id (BitVec.allOnes 64)
        takeTrap (gkey o.core o.slot) (deferCtx s o.core o.pc (step = 2))
          ((lanesOf o.lanes).map fun l => { lane := l, cause := cECC, info := w64 a }) s
      if !opActive s o then s
      else if p = 0 then fails va s
      else match step with
      | 1 => if touchesPage s o.tenant base n mine then s else fin s
      | 2 =>
        if writeBackWaits mine s then s
        else (match pageWriteBack mine s with
          | ([], s) => fin s
          | (a :: _, s) => fails a s)
      | _ => fin (pageInvalidate mine s)
    | _ => s

/-- PGMODE (R201). -/
def execPgmode (h : Hdr) (m : Multi) (s : State) : Out := .next (opPgmode h (.multi m) s)

/-! ## Events -/

/-- PGMODE_STEP_COMPLETE (R77). -/
def execPgmodeStepComplete (s : State) : Out := .next (pgmodeDone s.input.idx s)

end Sys2Proof.Machine
end

