-- ==== Sys2Proof/Machine/Kcq.lean ====
section
/-!
DEFINITION. The KCQ instructions and the events of the queues (spec 12 R267 to R283; 22 R402 to R406).
-/

namespace Sys2Proof.Machine

/-- Pushes of a core to a queue that are in flight (R274). -/
def pushesOut (s : State) (core q : Nat) : Nat := ((s.ops.map Prod.snd).filter fun o => o.core = core && o.pushes q).length

/-- The record that a push's registers give (R267, R277). -/
def pushRec (i : Iss) (g : Group) (parent : W32) : KRec :=
  { key := g.readS i.now i.o.a,
    pay := (g.readS i.now (i.o.a + 1)).setWidth 128 + ((g.readS i.now (i.o.a + 2)).setWidth 128 <<< 64), parent,
    homed := bitsOf i.o.c 9 8 ≠ 0, ptype := bitsOf i.o.c 7 5, op := i.o.c % 32 }

/-- The bundle waits for an operation (R277, R280). -/
def holdOn (id : Nat) (s : State) : State := { s with cur := { s.cur with hold := some (.op id) } }

/-- Post a push or a hold change, with the release it makes (R277, R280). -/
def postQueued (i : Iss) (g : Group) (rel : Option Scope) (kind : OpKind) (s : State) : State :=
  let id := s.nextId
  match rel with
  | some sc => holdOn id (postOp i g sc kind s)
  | none =>
    let (id, s) := s.fresh
    holdOn id (putOp { id, core := i.k / 128, slot := i.k % 128, lane := (lowest i.act).getD 0, tenant := g.tenant, blk := g.block,
                       pc := s.cur.pc, lanes := issuing i, ready := true, kind } s)

/-- A push instruction (R277, R283, R406). -/
def pushEff (parent : W32) (rel : Option Scope) (i : Iss) (g : Group) (s : State) : Option State :=
  let r := pushRec i g parent
  let q := pushTo s g.tenant (i.k / 128) (bitsOf i.o.c 9 8) r.key
  if r.key = endKey then engineFault i cBADKEY 0 (w64 q) s
  else if 32 ≤ pushesOut s (i.k / 128) q then none
  else some (postQueued i g rel (.push q r s.cur.word0) s)

/-- A scope in OPT: bit 3 says that it applies (R276). -/
def optScope (o : Opnd) : Option Scope := if 8 ≤ o.opt then some (o.opt % 8) else none

/-- `kpush` (R277). -/
def opKpush (h : Hdr) (f : Form) (s : State) : State :=
  groupIssue 0xb1 h f (memEff fun i g s => pushEff 0 (optScope i.o) i g s) s

/-- The lowest slot that a group's block holds on a core (R37). -/
def lowSlot (s : State) (g : Group) (core : Nat) : Nat :=
  match (blockOf s g).bind (·.share core) with | some sh => sh.low | none => 0

/-- `spawn` (R273, R277): release of scope dev, the parent's increment, then the push. -/
def opSpawn (h : Hdr) (f : Form) (s : State) : State :=
  groupIssue 0xb0 h f (memEff fun i g s =>
    match ctrBad s g i.o.d with
    | some (c, sub, info) => engineFault i c sub info s
    | none =>
      let parent := w32 (2 ^ 31 + lowSlot s g (i.k / 128) * 2 ^ 24 + (i.k / 128) * 2 ^ 17 + i.o.d)
      pushEff parent (some 4) i g s) s

/-- Write eight scalar results (R272). -/
def popResult (i : Iss) (ws : List W64) (s : State) : State :=
  (ws.zipIdx).foldl (fun s (x, j) => scalarResult i (i.o.d + j) x s) s

/-- A polling `kpop` (R271, R278). It claims nothing where the ring's page waits for the host, and waits itself where the ring's line
is held (R306). -/
def pollPop (i : Iss) (g : Group) (q : Nat) (s : State) : Option State :=
  let none_ (s : State) : State := popResult i (emptyWords (s.kcq q).disp) s
  if 4096 ≤ (s.kcq q).tickets.length then some (none_ s)
  else match claim q g.tenant s with
    | .nothing => some (none_ s)
    | .wait t => if t.atsAsk = s.atsAsk then none else some (none_ t)
    | .bad r s => some (takeTrap i.k (deferCtx s (i.k / 128) s.cur.pc false) (sameFault i.act cECC 0 0 r.key) s)
    | .record r s =>
      match takeTicket q g.block s with
      | none => some (none_ s)
      | some (t, s) =>
        let s := popResult i (popWords q (s.kcq q).disp t r) s
        some (match optScope i.o with | some sc => acquireAt (i.k / 128) sc s | none => s)

/-- `kpop` (R272, R274, R278). -/
def opKpop (h : Hdr) (f : Form) (s : State) : State :=
  groupIssue 0xb2 h f (memEff fun i g s =>
    let q := clusterOf (i.k / 128)
    if kqEnded s q then
      some ((popResult i (endWords q (s.kcq q).disp) s).updGroup i.k fun g => { g with endSeen := true })
    else if bitAt i.o.c 0 then pollPop i g q s
    else
      let (id, s) := s.fresh
      some (s.updGroup i.k fun g =>
        let g := (List.range 8).foldl (fun g j => g.mark id .s (i.o.d + j) (BitVec.allOnes 64)) g
        { g.park i.act (fun _ => .kpop) (fun _ => i.next) with
          kwaits := g.kwaits ++ [{ id, lanes := i.act, d := i.o.d, acq := optScope i.o, pc := s.cur.pc, since := i.now }] })) s

/-- A ticket is outstanding and no `kdone` of it is under way (R279). -/
def ticketOut (s : State) (q t : Nat) : Bool :=
  ((s.kcq q).tickets.any fun y => y.1 = t) && !(s.ops.any fun (_, o) => match o.kind with | .kdone p u _ => p = q && u = t | _ => false)

/-- `kdone` (R279): a release of scope dev, then the parent's counter and the ticket. -/
def opKdone (h : Hdr) (f : Form) (s : State) : State :=
  groupIssue 0xb3 h f (memEff fun i g s =>
    let t := (g.readS i.now (i.o.a + 6)).toNat
    let q := bitsOf t 20 16
    if bitAt t 63 || bitAt t 62 || !ticketOut s q (bitsOf t 11 0) then engineFault i cILLEGAL 0x13 0 s
    else some (postOp i g 4 (.kdone q (bitsOf t 11 0) (g.readS i.now (i.o.a + 1))) s)) s

/-- The cluster that a register names, if it is the tenant's (R283). -/
def ownCluster (s : State) (g : Group) (x : W64) : Bool := clusterTenant s x.toNat = some g.tenant

/-- A refused cluster raises PERM (R283); the spec gives TRAPINFO0 no value here. -/
def clusterPerm (i : Iss) (s : State) : Option State :=
  let (x, s) := s.freeWord
  engineFault i cPERM 0 x s

/-- `kcfg` (R280). -/
def opKcfg (h : Hdr) (f : Form) (s : State) : State :=
  groupIssue 0xb4 h f (memEff fun i g s =>
    let q := g.readS i.now i.o.a
    if !ownCluster s g q then clusterPerm i s
    else some (postQueued i g none (.khold q.toNat (i.o.opt = 1) s.cur.word0) s)) s

/-- The statistics of R281. -/
def Kcq.stat (x : Kcq) (n : Nat) : Nat :=
  match n with
  | 0 => x.waiting.length | 1 => x.spilled | 2 => x.tickets.length | 3 => x.hold | 4 => x.folds | 5 => x.seals
  | 6 => x.spills | _ => x.disp

/-- `kstat` (R281). -/
def opKstat (h : Hdr) (f : Form) (s : State) : State :=
  groupIssue 0xb5 h f (fun i g s =>
    let q := g.readS i.now i.o.a
    if !ownCluster s g q then clusterPerm i s
    else some (scalarResult i i.o.d (w64 ((s.kcq q.toNat).stat i.o.opt)) s)) s

/-! ## Arrival of pushes and hold changes -/

/-- An earlier push or hold change of the same group to the same queue is still on its way (R267, R280). -/
def queuedBefore (s : State) (o : Op) (q : Nat) : Bool :=
  s.ops.any fun (_, p) => decide (p.id < o.id) && p.core = o.core && p.slot = o.slot &&
    (match p.kind with | .push r _ _ => r = q | .khold r _ _ => r = q | _ => false)

/-- A queued instruction ends: its bundle goes on (R277, R280). -/
def endQueued (o : Op) (s : State) : State := releaseHold (gkey o.core o.slot) o.id (dropOp o.id s)

/-- A queued instruction faults precisely, with TRAPPC at the instruction (R269, R280). -/
def failQueued (o : Op) (word0 : W32) (cause sub : Nat) (info : W64) (s : State) : State :=
  takeTrap (gkey o.core o.slot) { word0, pc := o.pc, readyAt := (s.core o.core).cycle }
    (sameFault o.lanes cause sub 0 info) (endQueued o s)

/-- KCQ_PUSH_ARRIVAL (R267 to R269, R280): `idx` is the operation. -/
def pushArrives (id : Nat) (s : State) : State :=
  match getN s.ops id with
  | none => s
  | some o =>
    match o.kind with
    | .push q r word0 =>
      if !o.ready || queuedBefore s o q then s
      else match pushWaits q o.tenant r s with
      | some s => s
      | none => match kqPush q o.tenant r s with
        | some s => endQueued o s
        | none => failQueued o word0 cSPILLFULL 0 (w64 q) (parentAdd r.parent (· - 1) s)
    | .khold q un word0 =>
      let n := (s.kcq q).hold
      if !o.ready || queuedBefore s o q then s
      else if (un && n = 0) || (!un && n = 65535) then failQueued o word0 cILLEGAL 0x14 0 s
      else endQueued o (s.updKcq q fun k => { k with hold := if un then k.hold - 1 else k.hold + 1 })
    | _ => s

/-- SPAWN (R277). -/
def execSpawn (h : Hdr) (m : Multi) (s : State) : Out := .next (opSpawn h (.multi m) s)

/-- KPUSH (R277). -/
def execKpush (h : Hdr) (m : Multi) (s : State) : Out := .next (opKpush h (.multi m) s)

/-- KPOP (R278). -/
def execKpop (h : Hdr) (m : Multi) (s : State) : Out := .next (opKpop h (.multi m) s)

/-- KDONE (R279). -/
def execKdone (h : Hdr) (m : Multi) (s : State) : Out := .next (opKdone h (.multi m) s)

/-- KCFG (R280). -/
def execKcfg (h : Hdr) (m : Multi) (s : State) : Out := .next (opKcfg h (.multi m) s)

/-- KSTAT (R281). -/
def execKstat (h : Hdr) (m : Multi) (s : State) : Out := .next (opKstat h (.multi m) s)

/-! ## Events -/

/-- KCQ_PUSH_ARRIVAL (R268). -/
def execKcqPushArrival (s : State) : Out := .next (pushArrives s.input.idx s)
/-- KCQ_DISPATCH_CLAIM (R270). -/
def execKcqDispatchClaim (s : State) : Out := .next (dispatchClaim s.input.unit s)
/-- KCQ_END_TOKEN (R274). -/
def execKcqEndToken (s : State) : Out := .next (endToken s.input.unit s)

end Sys2Proof.Machine
end

