-- ==== Sys2Proof/Machine/Matrix.lean ====
section
/-!
DEFINITION. The matrix instructions and the events of the matrix engine (spec 13 R285 to R300; 03 R59; 24 R422).
-/

namespace Sys2Proof.Machine

/-- The tiles and format of a name (R288). -/
def Group.tile (g : Group) (n : Nat) : Option (List Nat × Nat) := getN g.tiles n

/-- Physical tiles of a format: two for f64 (R288). -/
def tilesFor (typ : Nat) : Nat := if typ = 11 then 2 else 1

/-- Bind a name to fresh tiles, the ones it held being given up first (R288): nothing where too few are FREE. -/
def bindTiles (i : Iss) (name typ : Nat) (s : State) : Option (List Nat × State) :=
  let s := s.updGroup i.k fun g => { g with tiles := delN g.tiles name }
  (freeTiles s (clusterOf (i.k / 128)) (tilesFor typ)).map fun ts =>
    (ts, s.updGroup i.k fun g => { g with tiles := putN g.tiles name (ts, typ) })

/-- Post an operation that forks nothing: `tclr`, `twr`, and a `trd` that waits (R289). -/
def postTile (i : Iss) (g : Group) (ts : List Nat) (c : MatCmd) (s : State) : State :=
  let (id, s) := s.fresh
  pumpMatrix (clusterOf (i.k / 128))
    (putOp { id, core := i.k / 128, slot := i.k % 128, lane := (lowest i.act).getD 0, tenant := g.tenant, blk := g.block,
             pc := s.cur.pc, lanes := i.act, ready := true, kind := .mat ts c } s)

/-- ILLEGAL with a SUB on the issuing lane (R300). -/
def matIllegal (i : Iss) (sub : Nat) (s : State) : Option State := engineFault i cILLEGAL sub 0 s

/-! ## `mma` (R286, R292) -/

/-- The 64 bytes of a parameter block as a scratchpad load of the group sees them (R286, R74); nothing while a store of
the group to them is undecided or on its way. -/
def paramBlock (i : Iss) (g : Group) (s : State) (core off : Nat) : Option (List Byte) :=
  let a := newAccess i g s.nextId .load 0 s
  if (ownStores s a).any (fun e => !e.fate) || scratchBusy s (i.k / 128) g.block core (off / 128) then none
  else some (((scratchSeen s a core (off / 128)).drop (off % 128)).take 64)

/-- ATYPE and BTYPE are a pair of R286. -/
def pairOk (at_ bt : Nat) : Bool := (isB8 at_ && isB8 bt) || (isFp at_ && at_ = bt)

/-- The command that a parameter block gives, or its refusal (R286, R300). -/
def mmaCmd (i : Iss) (g : Group) (s : State) (bs : List Byte) : Except Refused Mma :=
  let u (o n : Nat) : Nat := ofBytes ((bs.drop o).take n)
  let k := u 16 4
  let at_ := u 32 1 % 32
  let bt := u 33 1 % 32
  let b8 := isB8 at_ && isB8 bt
  let inf := bitAt (u 32 1) 7
  let es := widthOf at_ / 8
  let nk := ceilDiv k 32
  let bad := bitsOf (u 32 1) 6 5 ≠ 0 || bitsOf (u 33 1) 7 5 ≠ 0 || u 34 30 ≠ 0 || !pairOk at_ bt || (inf && !b8) ||
    u 0 4 % 32 ≠ 0 || u 4 4 % 32 ≠ 0 || k = 0 || 65536 < k || u 20 4 % 32 ≠ 0 || u 24 4 % 32 ≠ 0 ||
    u 20 4 < k * es || u 24 4 < k * es ||
    (if b8 then u 8 4 % 4 ≠ 0 || u 12 4 % 4 ≠ 0 || u 28 2 % 4 ≠ 0 || u 30 2 % 4 ≠ 0 || u 28 2 < 4 * nk || u 30 2 < 4 * nk
     else u 8 8 ≠ 0 || u 28 4 ≠ 0)
  if bad then .error (cILLEGAL, 0x17, 0)
  else
    let core := i.k / 128
    let place (word ld n : Nat) : Except Refused (Nat × Nat × Nat) := (areaOf s g core word (127 * ld + n)).map fun (c, o) => (c, o, ld)
    match place (u 0 4) (u 20 4) (k * es), place (u 4 4) (u 24 4) (k * es) with
    | .error e, _ => .error e
    | _, .error e => .error e
    | .ok a, .ok b =>
      let m : Mma := { a, b, sa := none, sb := none, k, inf, atype := at_, btype := bt, prio := g.prio, passes := ceilDiv k (chunkOf at_) }
      if !b8 then .ok m
      else match place (u 8 4) (u 28 2) (4 * nk), place (u 12 4) (u 30 2) (4 * nk) with
        | .error e, _ => .error e
        | _, .error e => .error e
        | .ok sa, .ok sb => .ok { m with sa := some sa, sb := some sb }

/-- The reservation table is full (R59). -/
def tableFull (s : State) (cl : Nat) : Bool := decide (32 ≤ ((matOps s cl).filter fun x => x.2.2.isMma).length)

/-- All elements of fresh tiles are +0 (R292). -/
def zeroTiles (cl : Nat) (ts : List Nat) (s : State) : State :=
  (healTiles cl ts s).updMat cl fun m => { m with tiles := ts.foldl (fun l t => putN l t []) m.tiles }

/-- The scratchpad bytes from an address as one request of the bundle. -/
def blockReq (i : Iss) (core off : Nat) : Req :=
  { lane := (lowest i.act).getD 0, pos := 0, va := off, size := 64, dst := 0, core, tr := .scratch }

/-- A parameter block in an INVALID stash entry (R79, R286): the lanes park on it, its fill starts, and the `mma` issues again. -/
def parkOnEntry (i : Iss) (g : Group) (r : Req) (s : State) : State :=
  let (id, s) := s.fresh
  let a : Access :=
    { id, owner := id, core := i.k / 128, slot := i.k % 128, tenant := g.tenant, kind := .fetch, pc := s.cur.pc, lanes := i.act, typ := 0,
      reqs := [r], scalar := true, parked := true }
  let s := s.updGroup i.k fun g => g.park i.act (fun _ => .stash id) fun _ => s.cur.pc
  fillEntries a [r] (putAcc a s)

/-- The error that a parameter block meets (R390, R420): on the issuing lane, deferred as a scratchpad load's. -/
def blockError (i : Iss) (off : Nat) (s : State) : State :=
  takeTrap i.k (deferCtx s (i.k / 128) s.cur.pc false) (sameFault (issuing i) cECC 0 0 (w64 off)) (countError cECC s)

/-- `mma` (R292): forks at scope clu. -/
def opMma (h : Hdr) (f : Form) (s : State) : State :=
  groupIssue 0xa0 h f (memEff fun i g s =>
    let word := (g.readS i.now i.o.a).toNat
    let cl := clusterOf (i.k / 128)
    if word % 64 ≠ 0 then matIllegal i 0x17 s
    else match areaOf s g (i.k / 128) word 64 with
      | .error (c, sub, info) => engineFault i c sub info s
      | .ok (core, off) =>
        if (staleEntry s g.block (blockReq i core off)).isSome then some (parkOnEntry i g (blockReq i core off) s)
        else match paramBlock i g s core off with
        | none => none
        | some bs =>
          if scratchBad s g.block core off 64 then some (blockError i off s) else
          match mmaCmd i g s bs with
          | .error (c, sub, info) => engineFault i c sub info s
          | .ok m =>
            let typ := if m.atype = 11 then 11 else 10
            if i.o.opt = 1 then
              if tableFull s cl then none
              else (bindTiles i i.o.d typ s).map fun (ts, s) => postOp i g 2 (.mat ts (.mma m)) (zeroTiles cl ts s)
            else match g.tile i.o.d with
              | some (ts, t) =>
                if t ≠ typ then matIllegal i 0x15 s
                else if tableFull s cl then none
                else some (postOp i g 2 (.mat ts (.mma m)) s)
              | none => matIllegal i 0x15 s) s

/-! ## Whole tiles (R293, R295) -/

/-- `tclr` (R293). -/
def opTclr (h : Hdr) (f : Form) (s : State) : State :=
  groupIssue 0xa1 h f (fun i g s =>
    (bindTiles i i.o.d i.o.typ s).map fun (ts, s) => postTile i g ts .clear s) s

/-- The layout of R293: ADDR and PITCH from a register, or the refusal. -/
def tileArea (i : Iss) (g : Group) (s : State) : Except Refused (Nat × Nat × Nat) :=
  let x := (g.readS i.now i.o.a).toNat
  let addr := x % 2 ^ 32
  let pitch := x / 2 ^ 32
  let n := 128 * (widthOf i.o.typ / 8)
  if addr % 128 ≠ 0 || pitch % 128 ≠ 0 || pitch < n then .error (cILLEGAL, 0x18, 0)
  else (areaOf s g (i.k / 128) addr (127 * pitch + n)).map fun (c, off) => (c, off, pitch)

/-- The counter of R293 and R295: bits 8 and 7:0 of a register, or the refusal. -/
def tileCtr (s : State) (g : Group) (x : Nat) : Except Refused (Option Nat) :=
  if !bitAt x 8 then .ok none
  else match ctrBad s g (x % 256) with | some e => .error e | none => .ok (some (x % 256))

/-- `tld` (R293): forks at scope clu. -/
def opTld (h : Hdr) (f : Form) (s : State) : State :=
  groupIssue 0xa5 h f (memEff fun i g s =>
    match tileArea i g s with
    | .error (c, sub, info) => engineFault i c sub info s
    | .ok (core, off, pitch) =>
      (bindTiles i i.o.d (if i.o.typ = 11 then 11 else 10) s).map fun (ts, s) =>
        postOp i g 2 (.mat ts (.load core off pitch i.o.typ)) s) s

/-- A `tst` may store this TYPE from a tile of this format (R293). -/
def storeType (fmt typ : Nat) : Bool := if fmt = 11 then typ = 11 || typ = 10 else typ = 8 || typ = 9 || typ = 10

/-- `tst` (R293): forks at scope clu. -/
def opTst (h : Hdr) (f : Form) (s : State) : State :=
  groupIssue 0xa4 h f (memEff fun i g s =>
    match g.tile i.o.d with
    | none => matIllegal i 0x15 s
    | some (ts, fmt) =>
      if !storeType fmt i.o.typ then matIllegal i 0x15 s
      else match tileArea i g s with
        | .error (c, sub, info) => engineFault i c sub info s
        | .ok (core, off, pitch) =>
          match tileCtr s g (g.readS i.now (i.o.a + 1)).toNat with
          | .error (c, sub, info) => engineFault i c sub info s
          | .ok ctr => some (postOp i g 2 (.mat ts (.store core off pitch i.o.typ (rmOf i.o.rm g.fpctl) ctr)) s)) s

/-- One half of a `qdual`: where its codes and scales go (R295). -/
def quantArea (i : Iss) (g : Group) (s : State) (on : Bool) (x : Nat) : Except Refused (Option ((Nat × Nat) × (Nat × Nat))) :=
  if !on then .ok none
  else match areaOf s g (i.k / 128) (x % 2 ^ 32) 16384, areaOf s g (i.k / 128) (x / 2 ^ 32) 2048 with
    | .error e, _ => .error e
    | _, .error e => .error e
    | .ok c, .ok q => .ok (some (c, q))

/-- `qdual` (R295): forks at scope clu. -/
def opQdual (h : Hdr) (f : Form) (s : State) : State :=
  groupIssue 0xa7 h f (memEff fun i g s =>
    let r := (g.readS i.now i.o.a).toNat
    let c := (g.readS i.now (i.o.a + 1)).toNat
    let odd (x : Nat) : Bool := x % 128 ≠ 0 || x / 2 ^ 32 % 128 ≠ 0
    match g.tile i.o.d with
    | none => matIllegal i 0x15 s
    | some (ts, fmt) =>
      if fmt = 11 || i.o.opt = 0 || odd r || odd c then matIllegal i 0x18 s
      else match quantArea i g s (bitAt i.o.opt 0) r, quantArea i g s (bitAt i.o.opt 1) c, tileCtr s g (g.readS i.now (i.o.a + 2)).toNat with
        | .error (c, sub, info), _, _ => engineFault i c sub info s
        | _, .error (c, sub, info), _ => engineFault i c sub info s
        | _, _, .error (c, sub, info) => engineFault i c sub info s
        | .ok row, .ok col, .ok ctr => some (postOp i g 2 (.mat ts (.quant i.o.typ i.o.inf row col ctr)) s)) s

/-! ## Rows (R294) -/

/-- The refusal of a row operation: an UNBOUND name or another format, then a row of 128 or more (R294, R300). -/
def rowBad (i : Iss) (t : Option (List Nat × Nat)) (row : Nat) : Option Nat :=
  match t with
  | none => some 0x15
  | some (_, fmt) => if fmt ≠ i.o.typ then some 0x15 else if 128 ≤ row + (i.o.n - 1) / 2 then some 0x0b else none

/-- A `trd` of a tile that is ready (R294), through push ports where its registers are bound (R82). -/
def readRows (i : Iss) (g : Group) (ts : List Nat) (row : Nat) (s : State) : State :=
  let m := s.mat (clusterOf (i.k / 128))
  let lost := rowLanesBad s (clusterOf (i.k / 128)) ts i.o.n row i.act
  let s := if lost = 0 then s else rowError i.k (deferCtx s (i.k / 128) s.cur.pc false) lost s
  let one (a : Gather) (x : Nat × Nat) : Gather :=
    let vals := (lanesOf (i.act &&& ~~~lost)).map fun l => (l, readCell m ts (cellKey (row + x.1 / 2) (64 * (x.1 % 2) + l)))
    let j := x.2 - i.o.regAt .d x.1
    putReg i.now x.2 (vals.map fun (l, v) => (l, (v >>> (32 * j)) % 2 ^ 32)) i.now true a
  ungather i ((i.o.regs .d).foldl one (gatherFor i g s)) s

/-- `trd` (R294): waits for the tile as R289 states; with a push port as destination the bundle is held meanwhile. -/
def opTrd (h : Hdr) (f : Form) (s : State) : State :=
  groupIssue 0xa2 h f (fun i g s =>
    let row := (issB i g).toNat % 2 ^ widthOf i.o.typ
    let t := g.tile i.o.a
    match rowBad i t row with
    | some sub => matIllegal i sub s
    | none =>
      let ts := ((t.map Prod.fst).getD [])
      let dregs := (i.o.regs .d).map Prod.snd
      if tileBusy s (clusterOf (i.k / 128)) s.nextId ts then
        if dregs.any fun r => g.binds.any fun b => b.push && b.reg = r then none
        else
          let id := s.nextId
          let s := s.updGroup i.k fun g => dregs.foldl (fun g r => g.markV i.now id r i.act) g
          some (postTile i g ts (.read ((List.range i.o.n).map (i.o.regAt .d)) row) s)
      else some (readRows i g ts row s)) s

/-- `twr` (R294): the registers are read at issue, through pop ports where they are bound (R82). -/
def opTwr (h : Hdr) (f : Form) (s : State) : State :=
  groupIssue 0xa3 h f (fun i g s =>
    let row := (issB i g).toNat % 2 ^ widthOf i.o.typ
    let t := g.tile i.o.d
    match rowBad i t row with
    | some sub => matIllegal i sub s
    | none =>
      let regs := readRegs i.o .a
      let a := gather i.now (gatherFor i g s) regs
      match a.wait with
      | some q => some (parkStream i q regs a s)
      | none =>
        let vals := laneVals i.o .a a.imgs.reverse
        let cells := (List.range i.o.n).flatMap fun k => (lanesOf i.act).map fun l =>
          (cellKey (row + k / 2) (64 * (k % 2) + l), (vals.getD k []).getD l 0)
        some (postTile i g ((t.map Prod.fst).getD []) (.write cells) (ungather i a s))) s

/-! ## `tfree` and `twait` (R296, R297) -/

/-- `tfree` (R296). -/
def opTfree (h : Hdr) (f : Form) (s : State) : State :=
  groupIssue 0xa6 h f (fun i _ s => some (s.updGroup i.k fun g => { g with tiles := delN g.tiles i.o.d })) s

/-- `twait` (R297): the bundle is held until the group's last operation on the tile completes; then an acquire of scope
sys. -/
def opTwait (h : Hdr) (f : Form) (s : State) : State :=
  groupIssue 0xa8 h f (fun i g s =>
    match g.tile i.o.d with
    | none => matIllegal i 0x15 s
    | some (ts, _) =>
      match lastOn s i.k ts with
      | some id => some { s with cur := { s.cur with hold := some (.tile id) } }
      | none => some (acquireAt (i.k / 128) 6 s)) s

/-- MMA (R292). -/
def execMma (h : Hdr) (m : Multi) (s : State) : Out := .next (opMma h (.multi m) s)

/-- TCLR (R293). -/
def execTclr (h : Hdr) (m : Multi) (s : State) : Out := .next (opTclr h (.multi m) s)

/-- TRD (R294). -/
def execTrd (h : Hdr) (m : Multi) (s : State) : Out := .next (opTrd h (.multi m) s)

/-- TWR (R294). -/
def execTwr (h : Hdr) (m : Multi) (s : State) : Out := .next (opTwr h (.multi m) s)

/-- TST (R293). -/
def execTst (h : Hdr) (m : Multi) (s : State) : Out := .next (opTst h (.multi m) s)

/-- TLD (R293). -/
def execTld (h : Hdr) (m : Multi) (s : State) : Out := .next (opTld h (.multi m) s)

/-- TFREE (R296). -/
def execTfree (h : Hdr) (m : Multi) (s : State) : Out := .next (opTfree h (.multi m) s)

/-- QDUAL (R295). -/
def execQdual (h : Hdr) (m : Multi) (s : State) : Out := .next (opQdual h (.multi m) s)

/-- TWAIT (R297). -/
def execTwait (h : Hdr) (m : Multi) (s : State) : Out := .next (opTwait h (.multi m) s)

/-! ## Events -/

/-- PASS_END (R60). -/
def execPassEnd (s : State) : Out := .next (passEnd s.input.unit s)
/-- TILE_PORT_OP_DONE (R298). -/
def execTilePortOpDone (s : State) : Out := .next (portDone s.input.unit s)

end Sys2Proof.Machine
end

