-- ==== Sys2Proof/Machine/Folbel.lean ====
section
/-!
DEFINITION. Folbel handlers: the slice instructions, dispatch of events, `msend` arrival, the limit on held lines, and the
loading of handler tables (spec 14 R301 to R325; 25 R430 to R433).
-/

namespace Sys2Proof.Machine

/-! ## Addresses of handlers (R312) -/

/-- The current invocation. -/
def curCtx (s : State) : FolbelCtx := (s.slice s.cur.unit).ctx s.cur.sub

/-- A running invocation, in any slice, holds a line (R306): all but the current one are asked. -/
def heldByOther (s : State) (pline : Nat) : Bool :=
  let n := sliceOfLine pline
  ((s.slice n).ctxs.zipIdx).any fun (c, k) =>
    c.busy && (c.kind = 1 || c.kind = 3) && c.pline = pline && !(s.cur.seq = .folbel && s.cur.unit = n && s.cur.sub = k)

/-- The leaf of an address at a die: by its L2 TLB, else by its walker (R116, R312). -/
def dieLeaf (s : State) (d tenant va : Nat) : Option Xlat :=
  match (s.die d).tlb.find? (fun x => x.covers tenant va) with
  | some x => some x
  | none => match walk s d tenant va with | .found x => some x | _ => none

/-- The leaf of an address that a handler of a slice may access (R312). -/
def handlerLeaf (s : State) (n tenant va : Nat) (write : Bool) : Option Xlat :=
  if nodeOf va ≠ s.regs.nodeId || decide (2 ^ 63 ≤ va) then none
  else (dieLeaf s (n / 16) tenant va).bind fun x =>
    if x.tier < 2 && (x.mode = 0 || x.mode = 1) && (!write || x.canW) then some x else none

/-- A translation for a handler that misses the die's TLB is walked: the walker waits while a line of its entries is held
(R306). -/
def handlerWalks (s : State) (n tenant va : Nat) : Bool :=
  (s.die (n / 16)).tlb.any (fun x => x.covers tenant va) || walkOpen s (n / 16) tenant va

/-- Another running invocation holds a line that such a walk waits for (R306, R431). -/
def walkLimited (s : State) (d tenant va : Nat) : Bool := (walkLines s d tenant va).any (heldByOther s)

/-- Such a walk meets an entry in uncorrectable error (R390, R432). -/
def walkBad (s : State) (n tenant va : Nat) : Bool :=
  nodeOf va = s.regs.nodeId && decide (va < 2 ^ 63) && !(s.die (n / 16)).tlb.any (fun x => x.covers tenant va) &&
    walk s (n / 16) tenant va = .fault cECC

/-- What the walk leaves behind; the TLB takes a leaf that has A set (R115, R116, R312). -/
def handlerWalked (n tenant va : Nat) (s : State) : State :=
  if (s.die (n / 16)).tlb.any (fun x => x.covers tenant va) then s
  else
    let s1 := noteWalk (n / 16) tenant va s
    match walk s (n / 16) tenant va with
    | .found x => if x.isA then s1.updDie (n / 16) fun d => { d with tlb := fillTlb 16384 x d.tlb } else s1
    | _ => s1

/-- A physical address exists in its tier (R69). -/
def Xlat.there (x : Xlat) (va : Nat) : Bool := if x.tier = 0 then nearPA (x.addr va) else farPA (x.addr va)

/-- A core's copy of a line comes from an HC page (R76). -/
def copiesHC (s : State) (pline : Nat) : Bool :=
  (s.cores.any fun (_, c) => c.l1.any fun l => l.pline = pline && l.mode = 0) ||
    s.blocks.any fun (_, b) => b.shares.any fun sh => sh.windows.any fun (_, w) => w.entries.zipIdx.any fun (e, i) =>
      e.holds (w.base + 128 * i) pline && (match e.tr with | some x => x.mode = 0 | none => false)

/-- Where an access of a handler goes (R305, R312, R316). -/
inductive HPlace where
  /-- A physical address, and whether its page is HC. -/
  | mem (pa : Nat) (hc : Bool)
  /-- The snapshot of an EVICT event. -/
  | snap (off : Nat)
  | refused
  /-- The line is on its way, or held; held by another running invocation or not. -/
  | wait (limited : Bool)
  /-- A page-table entry is in uncorrectable error (R432). -/
  | bad
  /-- The page gives an address that does not exist. -/
  | hole
  deriving DecidableEq, Repr

/-- The place of a handler's access. -/
def handlerPlace (s : State) (va : Nat) (write : Bool) : HPlace :=
  let c := curCtx s
  if va / 128 = c.line then
    match c.kind with
    | 0 => .refused
    | 2 => if write then .refused else .snap (va % 128)
    | _ => .mem (128 * c.pline + va % 128) (copiesHC s c.pline)
  else if !handlerWalks s s.cur.unit c.tenant va then .wait (walkLimited s (s.cur.unit / 16) c.tenant va)
  else if walkBad s s.cur.unit c.tenant va then .bad
  else match handlerLeaf s s.cur.unit c.tenant va write with
    | none => .refused
    | some x =>
      if !x.there va then .hole
      else
        let pa := x.addr va
        if l2Free s (pa / 128) then .mem pa (x.mode = 0) else .wait (heldByOther s (pa / 128))

/-- The context waits for a line (R316); the clock from which a limited wait runs is kept (R431). -/
def handlerWait (limited : Bool) (va : Nat) (s : State) : State :=
  s.updCtx s.cur.unit s.cur.sub fun c =>
    { c with waitSince := if !limited then none else match c.waitSince with | some w => some w | none => some (s.cur.clock, w64 va) }

/-- A handler's access through its checks: alignment, then place (R312, R316). -/
def handlerAccess (o : Opnd) (p : Proc) (write : Bool) (s : State) (go : HPlace → Nat → State → PRes) : PRes :=
  let va := (p.get o.a + procB o p).toNat
  if va % (widthOf o.typ / 8) ≠ 0 then .fault cALIGN 0 (w64 va)
  else match handlerPlace s va write with
    | .refused => .fault cACCESS 0 (w64 va)
    | .bad => .fault cECC 0 (w64 va)
    | .wait l => .wait (handlerWait l va s)
    | .hole => .wait { s with hole := true }
    | x => go x va (if va / 128 = (curCtx s).line then s else handlerWalked s.cur.unit (curCtx s).tenant va s)

/-- `hlrd` (R316, R432). -/
def opHlrd (h : Hdr) (f : Form) (s : State) : State :=
  procIssue 0xc0 h f (fun o p s => handlerAccess o p false s fun x va s =>
    let n := widthOf o.typ / 8
    match x with
    | .mem pa _ =>
      if eccIn s pa n then .fault cECC 0 (w64 va)
      else .done (p.put o.d (extW o.typ (readNat s.mem pa n))) (touchL2 (pa / 128) s)
    | .snap off =>
      if (curCtx s).snapBad.contains (off / 8) then .fault cECC 0 (w64 va)
      else .done (p.put o.d (extW o.typ (ofBytes (((curCtx s).snap.drop off).take n)))) s
    | _ => .wait s) s

/-- `hlwr` (R316, R432): a store performed at the slice. -/
def opHlwr (h : Hdr) (f : Form) (s : State) : State :=
  procIssue 0xc1 h f (fun o p s => handlerAccess o p true s fun x va s =>
    let n := widthOf o.typ / 8
    match x with
    | .mem pa hc =>
      if n < 8 && eccIn s pa n then .fault cECC 0 (w64 va)
      else .done p (touchL2 (pa / 128) (performBytes pa (toBytes n (p.get o.d).toNat) none hc s))
    | _ => .wait s) s

/-- `hpref` (R311, R317): dropped beyond eight, where R312 refuses or an entry is in error, and, since it never waits, where the
walker would (assumption 36). -/
def opHpref (h : Hdr) (f : Form) (s : State) : State :=
  procIssue 0xc2 h f (fun o p s =>
    let va := (p.get o.a + procB o p).toNat
    let c := curCtx s
    if 8 ≤ c.hprefs then .done p s
    else
      let s := s.updCtx s.cur.unit s.cur.sub fun c => { c with hprefs := c.hprefs + 1 }
      if va / 128 = c.line || !handlerWalks s s.cur.unit c.tenant va then .done p s
      else if walkBad s s.cur.unit c.tenant va then .done p (countError cECC s)
      else match handlerLeaf s s.cur.unit c.tenant va false with
        | some x =>
          let s := handlerWalked s.cur.unit c.tenant va s
          if x.there va then .done p (startFill (x.addr va / 128) none none s) else .done p { s with hole := true }
        | none => .done p s) s

/-! ## Messages (R311, R315, R318 to R320) -/

/-- A message instruction: its fourth is the last (R311). -/
def messaging (d : Nat) (p : Proc) (s : State) (go : State → Nat × State) : PRes :=
  if 4 ≤ (curCtx s).msgs then .done (p.put d 2) s
  else
    let (st, s) := go (s.updCtx s.cur.unit s.cur.sub fun c => { c with msgs := c.msgs + 1 })
    .done (p.put d (w64 st)) s

/-- `hresp` (R318). -/
def opHresp (h : Hdr) (f : Form) (s : State) : State :=
  procIssue 0xc3 h f (fun o p s =>
    if (curCtx s).kind ≠ 3 then .fault cILLEGAL 0x0b 0
    else messaging o.d p s fun s =>
      match (curCtx s).origin.bind fun (core, slot) => (parentBlock s core slot).map fun b => (core, b) with
      | none => (1, s)
      | some (core, b) =>
        let c := (p.get o.b).toNat % 256
        match getN s.blocks b with
        | some blk => if (layoutOf s blk).nctr ≤ c then (1, s) else (0, changeCounter b core c (· + p.get o.a) id s)
        | none => (1, s)) s

/-- Post an MSG event for a line; an absent line's fill is started when the event is queued, not while it is held apart
(R305, R307, R310). -/
def postMsg (e : SliceEvent) (s : State) : Posted × State :=
  match postEvent (sliceOfLine e.pline) e s with
  | (.taken, t) => (.taken, if (s.handler e.tenant).busy then t else startFill e.pline none none t)
  | r => r

/-- `hmsg` (R319). -/
def opHmsg (h : Hdr) (f : Form) (s : State) : State :=
  procIssue 0xc4 h f (fun o p s =>
    let va := (p.get o.a + procB o p).toNat
    let c := curCtx s
    let walks := !(va / 128 = c.line) && decide (c.msgs < 4)
    if walks && !handlerWalks s s.cur.unit c.tenant va then
      .wait (handlerWait (walkLimited s (s.cur.unit / 16) c.tenant va) va s)
    else if walks && walkBad s s.cur.unit c.tenant va then .fault cECC 0 (w64 va)
    else messaging o.d p (if walks then handlerWalked s.cur.unit c.tenant va s else s) fun s =>
    let place : Option (Option Nat) :=
      if va / 128 = c.line then some (some c.pline)
      else (handlerLeaf s s.cur.unit c.tenant va true).map fun x => if x.there va then some (x.addr va / 128) else none
    match place with
    | none => (5, s)
    | some none => (5, { s with hole := true })
    | some (some pline) =>
      match postMsg { kind := 3, tenant := c.tenant, line := va / 128, pline, pay := (p.get o.c, p.get (o.c + 1)) } s with
      | (.full, s) => (1, s)
      | (_, s) => (0, s)) s

/-- Another running invocation holds the line, or a page-table line of it, in which a queue's ring goes on (R431). -/
def ringLimited (s : State) (q tenant : Nat) : Bool :=
  let va := (s.kcq q).slotAt (s.kcq q).ringTail
  match walkNow s tenant va none .write with
  | (.found y, _) => heldByOther s (y.pa va / 128)
  | _ => walkLimited s 0 tenant va

/-- `hkpush` (R320). -/
def opHkpush (h : Hdr) (f : Form) (s : State) : State :=
  procIssue 0xc5 h f (fun o p s =>
    let c := curCtx s
    let r : KRec :=
      { key := p.get o.a, pay := (p.get (o.a + 1)).setWidth 128 + ((p.get (o.a + 2)).setWidth 128 <<< 64), homed := true,
        ptype := bitsOf o.c 7 5, op := o.c % 32 }
    let q := pushTo s c.tenant (32 * (s.cur.unit / 16)) (bitsOf o.c 9 8) r.key
    match (if c.msgs < 4 && r.key ≠ endKey then pushWaits q c.tenant r s else none) with
    | some t => .wait (handlerWait (ringLimited s q c.tenant) ((s.kcq q).slotAt (s.kcq q).ringTail) t)
    | none => messaging o.d p s fun s =>
      if r.key = endKey then (4, s)
      else match kqPush q c.tenant r s with
        | some s => (0, s)
        | none => (3, s)) s

/-- `hend` (R321). -/
def opHend (h : Hdr) (f : Form) (s : State) : State :=
  procIssue 0xc6 h f (fun _ _ s => .over (endHandler s.cur.unit s.cur.sub s)) s

/-- `hbudget` (R322). -/
def opHbudget (h : Hdr) (f : Form) (s : State) : State :=
  procIssue 0xc7 h f (fun o p s =>
    let rest := (curCtx s).budget - 1
    if o.opt = 0 then .done (p.put o.d (w64 rest)) s
    else .done p (s.updCtx s.cur.unit s.cur.sub fun c => { c with budget := min rest (p.get o.a).toNat + 1 })) s

/-! ## Dispatch (R302, R306, R307) -/

/-- An event is ready for dispatch (R307): an MSG needs its line, installed, and a line held by a running invocation holds it
back. -/
def eventReady (s : State) (n : Nat) (e : SliceEvent) : Bool :=
  !((s.slice n).ctxs.any fun c => c.busy && (c.kind = 1 || c.kind = 3) && c.pline = e.pline) && (e.kind ≠ 3 || l2Ready s e.pline)

/-- The first event that is ready and has no earlier event of its line before it (R307). A FILL event passes an MSG of its
line, which is not ready until the line is installed: DESIGN CHOICE, assumption 29. -/
def nextEvent (s : State) (n : Nat) : List SliceEvent → List Nat → Nat → Option (Nat × SliceEvent)
  | [], _, _ => none
  | e :: es, seen, i =>
    if !seen.contains e.pline && eventReady s n e then some (i, e)
    else if e.kind = 3 && es.any (fun x => x.kind = 1 && x.pline = e.pline) then nextEvent s n es seen (i + 1)
    else nextEvent s n es (e.pline :: seen) (i + 1)

/-- s1 at dispatch (R302). -/
def eventWord (e : SliceEvent) (range : Nat) : Nat :=
  e.kind + 4 * range + (match e.origin with | some (core, slot) => 2 ^ 6 + core * 2 ^ 7 + slot * 2 ^ 14 | none => 0)

/-- A held event is matched against the table in force (R310); FILL and MSG events wait where the queue is full, the
others go as R307 says. -/
def rematch (n : Nat) (s : State) (e : SliceEvent) : State :=
  match postEvent n { e with loading := false } s with
  | (.taken, s) => if e.kind = 3 then startFill e.pline none none s else s
  | (.unmatched, s) => if e.kind = 1 then s.updL2 e.pline fun l => { l with held := false } else s
  | (.full, s) =>
    if e.kind = 1 || (e.kind = 3 && e.origin.isSome) then s.updSlice n fun x => { x with lateFills := x.lateFills ++ [e] } else s

/-- An event that waits for a place takes one (R307, R310): in the queue, or in the hold buffer while the table under which it
was posted is loading; once that has ended it is matched. -/
def drainOne (n : Nat) (s : State) (e : SliceEvent) : State :=
  let back (s : State) : State := s.updSlice n fun x => { x with lateFills := x.lateFills ++ [e] }
  if e.loading then
    if (s.handler e.tenant).busy then
      if (s.slice n).holdBuf.length < 64 then s.updSlice n fun x => { x with holdBuf := x.holdBuf ++ [e] } else back s
    else rematch n s e
  else if (s.slice n).queue.length < 64 then s.updSlice n fun x => { x with queue := x.queue ++ [e] }
  else back s

/-- Events that wait for a place take what is free, in order (R307, R310). -/
def drainLate (n : Nat) (s : State) : State :=
  (s.slice n).lateFills.foldl (drainOne n) (s.updSlice n fun x => { x with lateFills := [] })

/-- An MSG whose line has left the slice since it was queued starts the fill again (R305, R307). -/
def refillMsgs (n : Nat) (s : State) : State :=
  ((s.slice n).queue.filter fun e => e.kind = 3).foldl (fun s e => startFill e.pline none none s) s

/-- HANDLER_DISPATCH (R307): `unit` is the slice. An event whose record is in error ends its invocation at once (R388,
R432). -/
def handlerDispatch (n : Nat) (s0 : State) : State :=
  let s := refillMsgs n s0
  let x := s.slice n
  match x.ctxs.findIdx? (fun c => !c.busy), nextEvent s n x.queue [] 0 with
  | some k, some (i, e) =>
    match matchEvent s e with
    | none =>
      let s := if e.kind = 1 then s.updL2 e.pline fun l => { l with held := false } else s
      drainLate n (s.updSlice n fun x => { x with queue := x.queue.eraseIdx i })
    | some (range, r, ent) =>
      let t := s.handler e.tenant
      let regs : ZMap 64 :=
        setZ (setZ (setZ (setZ [] 0 (w64 (128 * e.line))) 1 (w64 (eventWord e range))) 2 e.pay.1) 3 e.pay.2
      let c : FolbelCtx :=
        { busy := true, proc := { pc := 4 * ent, sregs := regs, readyAt := x.clock }, tenant := e.tenant, kind := e.kind,
          line := e.line, pline := e.pline, base := t.base, size := t.size, budget := r.budget, origin := e.origin, snap := e.snap, snapBad := e.snapBad }
      let s := s.updSlice n fun x => { x with queue := x.queue.eraseIdx i, ctxs := setAt x.ctxs k c }
      let s := if e.kind = 1 || e.kind = 3 then s.updL2 e.pline fun l => { l with held := true } else s
      let s := if e.bad then handlerFault n k cECC 0 (w64 (128 * e.line))
          { s with cur := { s.cur with seq := .folbel, unit := n, sub := k, pc := w64 (4 * ent), word0 := 0 } } else s
      drainLate n s
  | _, _ => s

/-- MSG_EVENT_ARRIVAL (R256, R305): `idx` is the operation. It stays in the engine's queue while the event queue is
full, and behind an earlier one of its group for the same slice, or whose slice is not known yet. -/
def msgArrives (id : Nat) (s : State) : State :=
  match getN s.ops id with
  | none => s
  | some o => match o.kind with
    | .msg va pay slot =>
      if !o.ready || !opActive s o then s
      else match walkNow s o.tenant va o.issuer .write with
        | (.found x, s) =>
          let pline := x.pa va / 128
          let n := sliceOfLine pline
          let earlier := s.ops.any fun (_, p) => decide (p.id < id) && p.core = o.core && p.slot = o.slot && (match p.kind with
            | .msg v _ _ => (match walk s (dieOf p.core) p.tenant v with | .found y => sliceOfLine (y.pa v / 128) = n | _ => true)
            | _ => false)
          if earlier then s
          else
            match postMsg { kind := 3, tenant := o.tenant, line := va / 128, pline, pay, origin := some (o.core, slot) } s with
            | (.full, s) => s
            | (_, s) => dropOp id s
        | (.bad c, s) => takeTrap (gkey o.core o.slot) (deferCtx s o.core o.pc true) (sameFault o.lanes c 0 0 (w64 va)) (dropOp id s)
        | (_, s) => agentWait o.die o.tenant va (o.demand va true) s
    | _ => s

/-- HELD_LINE_WAIT_TIMEOUT (R431): `unit` is the slice, `idx` the context. -/
def heldTimeout (n k : Nat) (s : State) : State :=
  let c := (s.slice n).ctx k
  match c.waitSince with
  | none => s
  | some (t, va) =>
    if !c.busy || (s.slice n).clock < t + 8192 then s
    else
      let word := w32 (readNat (s.slice n).store (c.base + c.proc.pc) 4)
      handlerFault n k cACCESS 0 va
        { s with cur := { s.cur with seq := .folbel, unit := n, sub := k, pc := w64 c.proc.pc, word0 := word } }

/-! ## Handler tables (R308 to R310) -/

/-- A range entry, or nothing where a field is refused (R309). -/
def rangeEntry (s : State) (at_ size : Nat) : Option HRange :=
  let u (o n : Nat) : Nat := readNat s.mem (at_ + o) n
  let ents := [u 16 2, u 18 2, u 20 2, u 22 2]
  let b := u 24 2
  if u 0 8 % 128 ≠ 0 || u 8 8 % 128 ≠ 0 || u 8 8 = 0 || 1024 < b || u 26 6 ≠ 0 ||
      ents.any (fun e => e ≠ 0xffff && size ≤ 4 * e) then none
  else some { vbase := u 0 8, vlen := u 8 8, ents, budget := if b = 0 then 128 else b }

/-- Two ranges overlap (R310). -/
def rangesMeet (a b : HRange) : Bool := decide (a.vbase < b.vbase + b.vlen) && decide (b.vbase < a.vbase + a.vlen)

/-- Some two ranges of a list overlap. -/
def someMeet : List HRange → Bool
  | [] => false
  | r :: rs => rs.any (rangesMeet r) || someMeet rs

/-- The check of a table (R309, R310): ranges, region and image, or nothing where it is refused. -/
def checkTable (tenant : Nat) (s : State) : Option (List HRange × Nat × Nat × Nat) :=
  let at_ := (s.handler tenant).table
  let u (o n : Nat) : Nat := readNat s.mem (at_ + o) n
  let n := u 0 1
  let off := u 1 1
  let sz := u 2 1
  let image := u 8 8
  let fixed := u 3 5 ≠ 0 || (List.range 6).any (fun k => u (16 + 8 * k) 8 ≠ 0) || 16 < n || 16 ≤ off || 32 ≤ sz
  if !nearPA at_ || !nearPA (at_ + 64 + 32 * n - 1) || fixed then none
  else if n = 0 then some ([], 0, 0, 0)
  else if sz = 0 || 16 < off + sz || image % 128 ≠ 0 || !nearPA image || !nearPA (image + 4096 * sz - 1) then none
  else
    let rs := (List.range n).filterMap fun i => rangeEntry s (at_ + 64 + 32 * i) (4096 * sz)
    let others := s.handlers.any fun (t, h) =>
      t ≠ tenant && h.size ≠ 0 && decide (h.base < 4096 * (off + sz)) && decide (4096 * off < h.base + h.size)
    if rs.length ≠ n || someMeet rs || others then none else some (rs, 4096 * off, 4096 * sz, image)

/-- Change a tenant's handlers. -/
def State.updHandler (s : State) (t : Nat) (f : HandlerTab → HandlerTab) : State :=
  { s with handlers := putN s.handlers t (f (s.handler t)) }

/-- Events of a tenant are dispatched or queued (R310). -/
def handlersBusy (s : State) (t : Nat) : Bool :=
  s.slices.any fun (_, x) => (x.ctxs.any fun c => c.busy && c.tenant = t) ||
    (x.queue ++ x.lateFills.filter fun e => !e.loading).any fun e => e.tenant = t

/-- BUSY clears and the held events are matched (R310). -/
def endLoad (t : Nat) (s : State) : State :=
  let s := s.updHandler t fun h => { h with busy := false, checked := none }
  (s.slices.map Prod.fst).foldl (fun s n =>
    let mine := (s.slice n).holdBuf.filter fun e => e.tenant = t
    let s := s.updSlice n fun x => { x with holdBuf := x.holdBuf.filter fun e => e.tenant ≠ t }
    drainLate n (mine.foldl (rematch n) s)) s

/-- The check of a load, once nothing runs under the old table (R310). -/
def tryCheck (t : Nat) (s : State) : State :=
  if handlersBusy s t || (s.handler t).checked.isSome then s
  else match checkTable t s with
    | some x => s.updHandler t fun h => { h with checked := some x }
    | none => endLoad t (postRec { cause := cILLEGAL, src := 1, unit := 0xffff, addr := w64 (s.handler t).table, tenant := t } s)

/-- HANDLER_TABLE_LOAD (R308, R310): `unit` is the tenant, `word` the value written to HNDCTL. A write while BUSY is
ignored; one without LOAD sets TABLE. -/
def tableLoad (t : Nat) (w : W64) (s : State) : State :=
  if 16 ≤ t || (s.handler t).busy then s
  else if !w.getLsbD 0 then s.updHandler t fun h => { h with table := 128 * fld w 55 7 }
  else tryCheck t (s.updHandler t fun h => { h with table := 128 * fld w 55 7, busy := true, checked := none })

/-- Copy an image into the store of every slice (R310). -/
def copyImage (base size image : Nat) (s : State) : State :=
  let bs := readBytes s.mem image size
  let s := clearErrs (fun x => match x with | .store _ g => decide (base ≤ 8 * g) && decide (8 * g + 8 ≤ base + size) | _ => false) s
  (List.range 64).foldl (fun s n => s.updSlice n fun x => { x with store := writeBytes x.store base bs }) s

/-- HANDLER_TABLE_LOAD_DONE (R310): `unit` is the tenant. -/
def tableLoadDone (t : Nat) (s0 : State) : State :=
  if !(s0.handler t).busy || handlersBusy s0 t then s0
  else
    let s := tryCheck t s0
    match (s.handler t).checked with
    | none => s
    | some (rs, base, size, image) =>
      endLoad t ((copyImage base size image s).updHandler t fun h => { h with ranges := rs, base, size })

/-- HLRD (R316). -/
def execHlrd (h : Hdr) (m : Multi) (s : State) : Out := .next (opHlrd h (.multi m) s)

/-- HLWR (R316). -/
def execHlwr (h : Hdr) (m : Multi) (s : State) : Out := .next (opHlwr h (.multi m) s)

/-- HPREF (R317). -/
def execHpref (h : Hdr) (m : Multi) (s : State) : Out := .next (opHpref h (.multi m) s)

/-- HRESP (R318). -/
def execHresp (h : Hdr) (m : Multi) (s : State) : Out := .next (opHresp h (.multi m) s)

/-- HMSG (R319). -/
def execHmsg (h : Hdr) (m : Multi) (s : State) : Out := .next (opHmsg h (.multi m) s)

/-- HKPUSH (R320). -/
def execHkpush (h : Hdr) (m : Multi) (s : State) : Out := .next (opHkpush h (.multi m) s)

/-- HEND (R321). -/
def execHend (h : Hdr) (m : Multi) (s : State) : Out := .next (opHend h (.multi m) s)

/-- HBUDGET (R322). -/
def execHbudget (h : Hdr) (m : Multi) (s : State) : Out := .next (opHbudget h (.multi m) s)

/-! ## Events -/

/-- HANDLER_DISPATCH (R307). -/
def execHandlerDispatch (s : State) : Out := .next (handlerDispatch s.input.unit s)
/-- MSG_EVENT_ARRIVAL (R305). -/
def execMsgEventArrival (s : State) : Out := .next (msgArrives s.input.idx s)
/-- HELD_LINE_WAIT_TIMEOUT (R431). -/
def execHeldLineWaitTimeout (s : State) : Out := .next (heldTimeout s.input.unit s.input.idx s)
/-- HANDLER_TABLE_LOAD (R310). -/
def execHandlerTableLoad (s : State) : Out := .next (tableLoad s.input.unit s.input.word s)
/-- HANDLER_TABLE_LOAD_DONE (R310). -/
def execHandlerTableLoadDone (s : State) : Out := .next (tableLoadDone s.input.unit s)

end Sys2Proof.Machine
end

