-- ==== Sys2Proof/Machine/Station.lean ====
section
/-!
DEFINITION. The stations: what reaches them, classes and windows, custody, responses, notices, lost peers and links, and
requests of peers (spec 15 R326 to R336; 25 R434 to R438; 23 R409, R411; 06 R120; 04 R88).
-/

namespace Sys2Proof.Machine

def cWINDOW : Nat := 0x31

/-- A station is enabled (R327). -/
def Station.enabled (x : Station) : Bool := x.ctl.getLsbD 0
/-- RTTTGT (R327). -/
def Station.rtt (x : Station) : Nat := fld x.ctl 31 16
/-- The window towards a node (R331). -/
def Station.win (x : Station) (node : Nat) : Win := (getN x.wins node).getD {}

/-- The bytes a request counts (R331). -/
def kindCount : RemoteKind → Nat
  | .read _ n => max 64 n
  | .write _ bs => max 64 (bs.filter Option.isSome).length
  | .push _ _ _ _ bs => max 64 bs.length
  | .slice ps => max 64 (ps.foldl (fun n p => n + p.2.length) 0)
  | .atomic _ _ _ _ _ => 64
  | .cas _ _ _ _ => 64

/-- Answer a request of a peer (R329): the answer travels in the class of the request (R330). -/
def respond (d node tc tag : Nat) (data : List Byte) (s : State) : State :=
  enqueuePkt d { id := 0, node, tc, count := max 64 data.length, podasid := 0, tenant := 0, cargo := .response tag data } s

/-- Return an error notice to a peer (R329, R434), in the class of its request. -/
def notify (d node tc tag code : Nat) (s : State) : State :=
  enqueuePkt d { id := 0, node, tc, count := 64, podasid := 0, tenant := 0, cargo := .notice tag code } s

/-- Replace a packet of a station. -/
def updPkt (d id : Nat) (f : Packet → Packet) (s : State) : State :=
  let upd (p : Packet) : Packet := if p.id = id then f p else p
  s.updStation d fun x => { x with pkts := x.pkts.map upd }

/-- A packet of a station. -/
def pktOf (s : State) (d id : Nat) : Option Packet := (s.station d).pkts.find? fun p => p.id = id

/-- Remove a packet. -/
def dropPkt (d id : Nat) (s : State) : State := s.updStation d fun x => { x with pkts := x.pkts.filter fun p => p.id ≠ id }

/-! ## Pieces of lane accesses (R73, R88, R96, R335) -/

/-- Bytes of a remote line that the core itself still holds: its combining-buffer lines, those that their window holds among
them, then the group's own queued stores (R74, R88, R332). -/
def ownRemote (s : State) (a : Access) (line : Nat) : List (Option Byte) :=
  let x := s.station (stationOf (128 * line))
  let held := (x.pkts.filter fun p => p.heldLine a.core line && p.tenant = a.tenant).foldl
    (fun bs p => match p.cargo with | .line _ _ b => mergeBytes bs b | _ => bs) (List.replicate 128 none)
  let comb := (x.comb.filter fun l => l.core = a.core && l.tenant = a.tenant && l.line = line).foldl
    (fun bs l => mergeBytes bs l.bytes) held
  (ownStores s a).foldl (fun bs e => if e.toPeer s (accBlock s a) = some line then mergeBytes bs e.line else bs) comb

/-- The kind of request for the unsent requests of a load to one line (R335). -/
def readKind (rs : List Req) : RemoteKind :=
  let lo := rs.foldl (fun m r => min m r.va) ((rs.headD { lane := 0, pos := 0, va := 0, size := 0, dst := 0 }).va)
  let hi := rs.foldl (fun m r => max m (r.va + r.size)) 0
  .read (w64 lo) (hi - lo)

/-- The request of one atomic (R335). -/
def atomicKind (a : Access) (r : Req) : Option RemoteKind :=
  match a.kind with
  | .atom op => some (.atomic (w64 r.va) r.size (BitVec.ofNat 5 a.typ) (BitVec.ofNat 4 op) (r.val.setWidth 64))
  | .cas => some (.cas (w64 r.va) r.size r.cmp r.val)
  | _ => none

/-- Note that requests have been handed to a station. -/
def markSent (id : Nat) (rs : List Req) (fwd : Req → List (Option Byte)) (s : State) : State :=
  let upd (r : Req) : Req := if rs.contains r then { r with sent := true, fwd := fwd r } else r
  match getN s.accs id with
  | some a => putAcc { a with reqs := a.reqs.map upd } s
  | none => s

/-- A packet of a lane access. -/
def piecePkt (s : State) (a : Access) (rs : List Req) (va : Nat) (k : RemoteKind) : Packet :=
  { id := 0, node := nodeOf va, tc := 1, count := kindCount k, podasid := podasid s a.tenant, tenant := a.tenant, kind := some k,
    cargo := .piece a.id (rs.map fun r => (r.lane, r.pos)) va }

/-- An access hands the requests of one line to their station: a load the whole piece, an atomic one element at a time
(R73, R96, R335). Orders are those of local accesses (R92, R93, R101): a load that goes before older ones of its group is
noted. -/
def handPiece (id key : Nat) (s0 : State) : State :=
  let s := settleAccess id s0
  match getN s.accs id with
  | none => s
  | some a =>
    let rs := (readyReqs a key).filter fun r => r.tr = .remote && !r.sent
    match rs with
    | [] => s
    | r :: _ =>
      let line := r.va / 128
      let d := stationOf r.va
      let loc := remoteLoc line
      if a.parked || !a.released || !orderFree s a loc || stampwOpen s a.core a.slot a.tenant a.id || remoteBusy s a.core a.tenant line then s
      else match inLaneOrder a rs with
        | [] => s
        | r :: rest =>
          match atomicKind a r with
          | some k =>
            if !(ownStores s a).isEmpty || !(olderLoads s a.core a.slot a.id).isEmpty || aheadAt s a.core loc then s
            else markSent id [r] (fun _ => []) (enqueuePkt d (piecePkt s a [r] r.va k) (flushComb d (fun l => l.line = line) s))
          | none =>
            let rs := r :: rest
            if a.kind = .refill then
              markSent id rs (fun _ => []) (enqueuePkt d (piecePkt s a rs r.va (readKind rs))
                (flushComb d (fun l => l.core = a.core && l.line = line) (noteAhead a loc s)))
            else
              let own := ownRemote s a line
              markSent id rs (fun r => (own.drop (r.va % 128)).take r.size)
                (enqueuePkt d (piecePkt s a rs r.va (readKind rs)) (noteAhead a loc s))

/-! ## Packets of bulk transfers (R248, R249, R336) -/

/-- The packet of a transfer at an offset: its length and station. -/
def Xfer.pkt (x : Xfer) (off : Nat) : Nat × Nat :=
  let base := if x.pull then x.va else x.doff
  let len := min (256 - (base + off) % 256) (x.len - off)
  (len, if x.pull then stationOf (x.va + off) else pushStation (x.doff + off) x.node)

/-- The next packet of a transfer for a station from an offset on: any four packets in a row go through four stations. -/
def Xfer.seek (x : Xfer) (d : Nat) : Nat → Nat → Option (Nat × Nat)
  | 0, _ => none
  | fuel + 1, off =>
    if x.len ≤ off then none
    else if (x.pkt off).2 = d then some (off, (x.pkt off).1) else x.seek d fuel (off + (x.pkt off).1)

/-- Read the source bytes of an `xpush` packet (R248, R411). -/
def readSource (o : Op) : Nat → Nat → Nat → List Byte → State → Except Prep (List Byte) × State
  | 0, _, _, acc, s => (.ok acc, s)
  | fuel + 1, va, n, acc, s =>
    if n = 0 then (.ok acc, s)
    else
      let m := min n (128 - va % 128)
      match engineRead o.tenant o.issuer va m s with
      | (.ok bs, s) => readSource o fuel (va + m) (n - m) (acc ++ bs) s
      | (.error e, s) => (.error e, s)

/-- Packets of a transfer are in some station. -/
def xferOut (s : State) (id : Nat) : Bool :=
  s.stations.any fun (_, x) => x.pkts.any fun p => match p.cargo with | .part o _ _ => o = id | _ => false

/-- A transfer has nothing left to send or to be answered. -/
def endXfer (o : Op) (x : Xfer) (s : State) : State :=
  if (x.stopped || x.left = 0) && !xferOut s o.id then dropOp o.id s else putOp { o with kind := .xfer x } s

/-- A transfer stops with one record (R411, R435): packets not yet sent are not sent. -/
def stopXfer (o : Op) (x : Xfer) (d cause info1 addr : Nat) (write : Bool) (s : State) : State :=
  let s := if x.stopped then s
    else postRec { cause, write, src := 4, unit := d, pc := o.pc, addr := w64 addr, info1 := w64 info1, tenant := o.tenant } s
  let keep (p : Packet) : Bool := p.st ≠ .queued || (match p.cargo with | .part i _ _ => i ≠ o.id | _ => true)
  let s := { s with stations := s.stations.map fun (d, y) => (d, { y with pkts := y.pkts.filter keep }) }
  endXfer o { x with stopped := true } s

/-- A station takes the next packet of a transfer into its queue (R248, R249); one at a time waits there. -/
def handXfer (d id : Nat) (s : State) : State :=
  match getN s.ops id with
  | none => s
  | some o => match o.kind with
    | .xfer x =>
      let waiting := (s.station d).pkts.any fun p => p.st = .queued && (match p.cargo with | .part i _ _ => i = id | _ => false)
      if !o.ready || !opActive s o || saving s o.tenant || x.stopped || waiting then s
      else match x.seek d 5 (x.next.getD d 0) with
        | none => putOp { o with kind := .xfer { x with next := setAt x.next d x.len } } s
        | some (off, n) =>
          let put (k : RemoteKind) (s : State) : State :=
            let s := putOp { o with kind := .xfer { x with next := setAt x.next d (off + n) } } s
            enqueuePkt d { id := 0, node := x.node, tc := x.tc, count := kindCount k, podasid := podasid s o.tenant, tenant := o.tenant,
                           kind := some k, cargo := .part id off n } s
          if x.pull then put (.read (w64 (x.va + off)) n) s
          else match x.core with
            | some c =>
              if scratchBad s o.blk c (x.off + off) n then stopXfer o x d cECC 0 (x.off + off) false (countError cECC s)
              else put (.push x.dcore x.dslot (x.doff + off) x.dctr (scratchBytes s o.blk c (x.off + off) n)) s
            | none =>
              match readSource o 4 (x.va + off) n [] s with
              | (.ok bs, s) => put (.push x.dcore x.dslot (x.doff + off) x.dctr bs) s
              | (.error (.bad c va _), s) => stopXfer o x d c 0 va false s
              | (.error (.wait va _), s) => agentWait o.die o.tenant va (o.demand va false) s
              | (.error _, s) => s
    | _ => s

/-! ## Sending (R330 to R333) -/

/-- Bytes outstanding towards a node: of the windowed classes, or of TC0 (R331, R333). -/
def Station.flight (x : Station) (zero : Bool) (node : Option Nat) : Nat :=
  (x.pkts.filter fun p => !p.reply && p.st ≠ .queued && (p.tc = 0) == zero && (match node with | some n => p.node = n | none => true)).foldl
    (fun n p => n + p.count) 0

/-- The window or the TC0 budget permits a packet (R331, R333). A response has none of its own: DESIGN CHOICE, assumption 31. -/
def Station.permits (x : Station) (p : Packet) : Bool :=
  let out := x.flight (p.tc = 0) (some p.node)
  if p.reply then true
  else if p.tc = 0 then decide (out + p.count ≤ 4096) && decide (x.flight true none + p.count ≤ 32768)
  else out = 0 || decide (out + p.count ≤ (x.win p.node).w)

/-- The first packet of a class that may be sent: within a class and destination they leave in order (R330). -/
def Station.head (x : Station) (tc : Nat) : Option Packet :=
  go x [] (x.pkts.filter fun p => p.st = .queued && p.tc = tc && p.doom.isNone)
where
  /-- Scan the class, passing over destinations whose first packet waits. -/
  go (x : Station) (seen : List Nat) : List Packet → Option Packet
    | [] => none
    | p :: ps => if !seen.contains p.node && x.permits p then some p else go x (p.node :: seen) ps

/-- The weight of a windowed class (R330). -/
def weightOf (tc : Nat) : Nat := match tc with | 1 => 4 | 2 => 2 | _ => 1

/-- Deficit round robin over TC1 to TC3 (R330): the packet chosen, the deficits and the class whose turn it is. -/
def Station.pick (x : Station) : Nat → List Nat → Nat → Option (Packet × List Nat × Nat)
  | 0, _, _ => none
  | fuel + 1, ds, c =>
    let next := (c + 1) % 3
    let enter (ds : List Nat) : List Nat := setAt ds next (ds.getD next 0 + 256 * weightOf (next + 1))
    match x.head (c + 1) with
    | none => x.pick fuel (enter (setAt ds c 0)) next
    | some p =>
      if p.count ≤ ds.getD c 0 then some (p, setAt ds c (ds.getD c 0 - p.count), c) else x.pick fuel (enter ds) next

/-- Hand a packet to the link (R329). -/
def launchPkt (d : Nat) (p : Packet) (s : State) : State :=
  let s := updPkt d p.id (fun p => { p with st := .replay, sentAt := (s.station d).clock }) s
  { s with net := s.net ++ [.request d p] }

/-! ## The end of a request (R409, R434 to R437, R441) -/

/-- Remove an answered piece's requests; lanes raise a cause where it was refused (R409, R435). -/
def failPiece (acc : Nat) (parts : List (Nat × Nat)) (cause : Nat) (s : State) : State :=
  match getN s.accs acc with
  | none => s
  | some a =>
    let rs := a.reqs.filter fun r => r.sent && parts.contains (r.lane, r.pos)
    match rs, a.kind with
    | [], _ => s
    | _ :: _, .stashFill blk win e => failFill a blk win e cause s
    | r :: _, _ =>
      let s := removeReqs acc (if a.kind = .refill then a.reqs else rs) s
      let s := stopRefill a (a.maskFor rs) s
      let s := updAccGroup a (fun g => if a.scalar then g.dropScore a.owner (BitVec.allOnes 64) else g) s
      let lane (l : Nat) : Nat × Nat × W64 := (l, cause, w64 (match rs.find? fun q => q.lane = l with | some q => q.va | none => r.va))
      finishIfDone acc (a.fault ((reqLanes rs).map lane) s)

/-- The cause that a notice code 1 to 4 stands for (R434). -/
def noticeCause (n : Nat) : Option Nat :=
  match n with | 1 => some cTRANSLATE | 2 => some cPERM | 3 => some cMODE | 4 => some cECC | _ => none

/-- Notice codes that are reserved are treated as 9 (R434). -/
def noticeCode (n : Nat) : Nat := if n = 0 || 10 < n then 9 else n

/-- A communicator. -/
def commKey (tenant id : Nat) : Nat := 2 ^ 16 * tenant + id
/-- Change a communicator. -/
def State.updComm (s : State) (k : Nat) (f : Comm → Comm) : State :=
  match getN s.comms k with | some c => { s with comms := putN s.comms k (f c) } | none => s

/-- The station of the packets of a communicator's hoists to a node (R340). -/
def hoistStation (node comm : Nat) : Nat := (node % 4) ^^^ (comm % 4)

/-- Answer the messages of an arrival (R329, R440): with a notice code, or done. Over a circuit the answer uses the reverse
direction (R346). -/
def answerArrival (c : Comm) (a : Arrival) (code : Option Nat) (s : State) : State :=
  if a.circ then
    { s with net := s.net ++ a.tags.map fun t => match code with | some n => .notice a.src t n | none => .response a.src t [] }
  else
    let d := hoistStation s.regs.nodeId c.id
    a.tags.foldl (fun s t => match code with | some n => notify d a.src a.h.tc t n s | none => respond d a.src a.h.tc t [] s) s

/-- A communicator is marked failed (R441): hoists that wait to be struck are answered with NCODE 8, copies that have not left
are dropped. -/
def failComm (k : Nat) (s : State) : State :=
  match getN s.comms k with
  | none => s
  | some c =>
    let gone (x : HCopy) : Bool := match x.st with | .sent _ => false | .flying _ _ _ => false | _ => true
    ((c.arrivals.filter fun a => !a.struck).foldl (fun s a => answerArrival c a (some 8) s) s).updComm k fun c =>
      { c with failed := true, arrivals := [], copies := c.copies.filter fun x => !gone x }

/-- A record about a step of a communicator (R384, R440): `step` is the queue and the address of its COLL. -/
def stepRec (tenant id seq : Nat) (step : Nat × Nat) (cause info1 : Nat) : FaultRec :=
  { cause, src := 3, unit := step.1, pc := w64 step.2, addr := w64 (id + seq % 2 ^ 32 * 2 ^ 16), info1 := w64 info1, tenant }

/-- The record of a communicator's failure (R384, R440, R446): the queue and packet of the step, or zeros. -/
def commRec (c : Comm) (seq cause : Nat) (info1 : Nat) : FaultRec :=
  let q := c.colls.find? fun x => x.seq = seq
  stepRec c.tenant c.id seq ((q.map (·.queue)).getD 0, (q.map (·.addr)).getD 0) cause info1

/-- A notice answers a packet of a hoist send (R440, R441): the communicator fails, if it is still there. Each posts its record
(R435), but for a mismatch, which each segment's message reports and the send posts once. -/
def hoistNotice (tenant id seq : Nat) (step : Nat × Nat) (first : Bool) (ncode cause : Nat) (s : State) : State :=
  let s := if ncode ≠ 10 then postRec (stepRec tenant id seq step cause ncode) s
    else if first then postRec (stepRec tenant id seq step 0x32 0) s else s
  failComm (commKey tenant id) s

/-! ## Ports that go DARK (R350, R353, R354, R445, R446) -/

/-- Change a port. -/
def State.updPort (s : State) (p : Nat) (f : Port → Port) : State :=
  { s with fabric := { s.fabric with ports := putN s.fabric.ports p (f (portOf s p)) } }

/-- Change every copy in flight. -/
def mapCopies (f : Copy → Copy) (s : State) : State :=
  let upd (o : Op) : Op := match o.kind with | .copy c => { o with kind := .copy (f c) } | _ => o
  { s with ops := s.ops.map fun (i, o) => (i, upd o) }

/-- The port that a circuit send to a node uses (R354): it is LIVE, and no `crel` drains it. -/
def circuitPort (s : State) (tenant node : Nat) : Option Nat :=
  (List.range 32).find? fun p =>
    let x := portOf s p
    x.st = 3 && !x.draining && x.peerNode = node && x.optown.getLsbD 4 && fld x.optown 3 0 = tenant

/-- What a port carried is to be sent again (R353). -/
def unflySlice (p : Nat) (x : Slice4K) : Slice4K := if x.port = some p then { x with flying := false } else x

/-- A copy of a hoist is on its way over a port. -/
def HCopy.over (y : HCopy) (p : Nat) : Bool := match y.st with | .flying q _ _ => q = p | _ => false

/-- The same for a hoist (R354). -/
def unflyHoist (p now : Nat) (y : HCopy) : HCopy :=
  match y.st with | .flying q node slot => if q = p then { y with st := .send node slot true now } else y | _ => y

/-- Circuit sends that have just lost their last live port wait from now on (R446). -/
def restamp (now : Nat) (lost : Nat → Bool) (y : HCopy) : HCopy :=
  match y.st with | .send node slot true t => { y with st := .send node slot true (if lost node then now else t) } | _ => y

/-- The circuit sends of `t` whose node had a port in `s` and has none in `t` begin to count (R446). -/
def countCircuits (s t : State) : State :=
  let comm (c : Comm) : Comm :=
    let lost (node : Nat) : Bool := (circuitPort s c.tenant node).isSome && (circuitPort t c.tenant node).isNone
    { c with copies := c.copies.map (restamp t.fabric.clock lost) }
  { t with comms := t.comms.map fun (k, c) => (k, comm c) }

/-- A port becomes DARK with a cause (R350): what it carried is sent again, unless its communicator has failed, and the barriers and
circuit sends that it kept alive begin to count (R445, R446). -/
def darken (p cause : Nat) (s : State) : State :=
  let now := s.fabric.clock
  let t := s.updPort p fun x => { x with st := 0, pend := false, cause, draining := false }
  let fell (b : Nat) : Bool := barLive s b && !barLive t b
  let copy (c : Copy) : Copy :=
    let c := { c with out := c.out.map (unflySlice p) }
    match c.bar with | some b => if fell b then { c with since := now } else c | none => c
  let t := mapCopies copy t
  let comm (c : Comm) : Comm :=
    { c with copies := (if c.failed then c.copies.filter fun y => !y.over p else c.copies).map (unflyHoist p now) }
  countCircuits s { t with
    comms := t.comms.map fun (k, c) => (k, comm c)
    adrift := t.adrift.filter fun y => !y.2.over p }

/-- A port goes DARK because its CIRCUIT_REQUEST was refused (R435). -/
def refusePort (port : Nat) (s : State) : State := darken port 2 s

/-- The port word of the OCS messages and of `cstat` (R348): bits 63:28, and the bits below. -/
def portBits (s : State) (p node low : Nat) : W64 :=
  let x := portOf s p
  w64 (x.handle * 2 ^ 48 + x.peerNode * 2 ^ 38 + x.peerPort * 2 ^ 33 + p * 2 ^ 28 + node * 2 ^ 18 + low)

/-- The port word as `cstat` reads it for a tenant (R348). -/
def portWord (s : State) (p tenant : Nat) : W64 :=
  let x := portOf s p
  let owned := x.optown.getLsbD 4 && fld x.optown 3 0 = tenant
  portBits s p 0 (x.cause * 2 ^ 8 + (if owned then 8 else 0) + (if x.pend then 4 else 0) + x.st)

/-- A request ends as a notice answers it (R435), or as R436 and R437 end it; `cause` is the cause of its CUSTODY_NOTICE
record. -/
def endRequest (d : Nat) (p : Packet) (code cause : Nat) (s0 : State) : State :=
  let n := noticeCode code
  let s := dropPkt d p.id s0
  let note (src unit : Nat) (addr : W64) (tenant : Nat) : FaultRec := { cause, src, unit, addr, info1 := w64 n, tenant }
  let nodeAddr := w64 (p.node * 2 ^ 53)
  match p.cargo with
  | .piece acc parts _ => failPiece acc parts ((noticeCause n).getD cTRANSLATE) s
  | .line _ line _ =>
    let addr := w64 (128 * line)
    match noticeCause n with
    | some c => postRec { cause := c, write := true, src := 4, unit := d, addr, tenant := p.tenant } s
    | none => postRec { note 4 d addr p.tenant with write := true } s
  | .store core e =>
    let line := match p.kind with | some (.write va _) => va.toNat / 128 | _ => 0
    let lane (l : Nat) : Nat × Nat × W64 :=
      (l, (noticeCause n).getD cTRANSLATE, w64 (128 * line + ((e.parts.find? fun q => q.lane = l).map Part.va).getD 0 % 128))
    (e.access core e.lanes).fault ((reqLanes (e.parts.map e.req)).map lane) s
  | .part id off _ =>
    match getN s.ops id with
    | none => s
    | some o => match o.kind with
      | .xfer x =>
        let addr := if x.pull then x.va + off else p.node * 2 ^ 53 + x.doff
        match noticeCause n with
        | some c => stopXfer o x d c 0 addr (!x.pull) s
        | none => stopXfer o x d cause n addr (!x.pull) s
      | _ => s
  | .hoist tenant comm _ part _ _ _ _ h step => hoistNotice tenant comm h.seq step (part = 0) n cause s
  | .circ kind ctx port _ =>
    if kind = 0 then
      let s := refusePort port s
      postRec (note 2 ctx (portWord s port p.tenant) p.tenant) s
    else postRec (note 2 ctx nodeAddr p.tenant) s
  | .emsg ctx _ => postRec (note 2 ctx nodeAddr p.tenant) s
  | .response _ _ => s
  | .notice _ _ => s

/-- Requests that reached the station while their node was lost or the link was dead end (R436, R437). -/
def endDoomed (d : Nat) (s : State) : State :=
  ((s.station d).pkts.filter fun p => p.doom.isSome).foldl (fun s p => endRequest d p 9 (p.doom.getD cCUSTODY) s) s

/-- The clock of a station: the packets that their windows hold count it (R438). -/
def tickStation (d : Nat) (s : State) : State :=
  endDoomed d (s.updStation d fun x =>
    let count (p : Packet) : Packet :=
      { p with waited := if p.st = .queued && p.tc ≠ 0 && !p.reply && !x.permits p then p.waited + 1 else 0 }
    { x with clock := x.clock + 1, pkts := x.pkts.map count })

/-- STATION_SEND (R330, R331): `unit` is the station. `word` 0 sends the packet that R330 picks; 1 hands over requests of
access `idx` with key `aux`; 2 takes a packet of operation `idx`. -/
def stationSend (x : Input) (s : State) : State :=
  if 4 ≤ x.unit then s else
  match x.word.toNat with
  | 1 => handPiece x.idx x.aux s
  | 2 => handXfer x.unit x.idx s
  | _ =>
    let s := endDoomed x.unit s
    let st := s.station x.unit
    if !st.enabled || !st.up then s
    else match st.head 0 with
      | some p => launchPkt x.unit p s
      | none =>
        match st.pick 64 st.deficit st.drr with
        | some (p, ds, c) => launchPkt x.unit p (s.updStation x.unit fun y => { y with deficit := ds, drr := c })
        | none => s

/-! ## Custody and responses (R329, R332, R336) -/

/-- A hoist copy has left the staging buffer it came from, and an origin's first send is in custody (R342, R343). -/
def copyAway (k copy : Nat) (s : State) : State :=
  match (getN s.comms k).bind fun c => c.copies.find? fun x => x.id = copy with
  | none => s
  | some x =>
    s.updComm k fun c =>
      let copies := c.copies.filter fun y => y.id ≠ copy
      let upd (q : Coll) : Coll := if q.seq = x.h.seq then { q with first := true } else q
      { c with
        copies
        colls := if x.orig then c.colls.map upd else c.colls
        arrivals := c.arrivals.filter fun a => some a.id ≠ x.arr || copies.any fun y => y.arr = x.arr }

/-- What custody of a packet brings (R329, R336, R342). -/
def inCustody (p : Packet) (s : State) : State :=
  match p.cargo with
  | .part id _ n =>
    match getN s.ops id with
    | none => s
    | some o => match o.kind with
      | .xfer x => if x.pull then s else match x.ctr with | some c => arriveCounter o.blk o.core c n s | none => s
      | _ => s
  | .hoist tenant comm copy part _ _ _ _ _ _ =>
    let k := commKey tenant comm
    match (getN s.comms k).bind fun c => c.copies.find? fun x => x.id = copy with
    | none => s
    | some x => match x.st with
      | .sent segs =>
        let rest := segs.filter (· ≠ part)
        let upd (y : HCopy) : HCopy := if y.id = copy then { y with st := .sent rest } else y
        if rest.isEmpty then copyAway k copy s else s.updComm k fun c => { c with copies := c.copies.map upd }
      | _ => s
  | _ => s

/-- Any packet from a node clears its mark (R436). -/
def heardFrom (node : Nat) (s : State) : State := { s with lost := s.lost.filter (· ≠ node) }

/-- A copy of a communicator's hoist that is on its way over a circuit, be the communicator deleted (R354, R441). -/
def flightOf (s : State) (k copy : Nat) : Option HCopy :=
  let mine := (match getN s.comms k with | some c => c.copies | none => []) ++
    (s.adrift.filter fun y => y.1 = k).map Prod.snd
  mine.find? fun y => y.id = copy && (match y.st with | .flying _ _ _ => true | _ => false)

/-- A copy over a circuit has been answered. -/
def landFlight (k copy : Nat) (s : State) : State :=
  copyAway k copy { s with adrift := s.adrift.filter fun y => y.2.id ≠ copy }

/-- LINK_ACK (R329): `unit` is the station, `idx` the packet. With `flag` a hoist over a circuit has been taken by its
receiver: tenant, communicator and copy. -/
def linkAck (x : Input) (s : State) : State :=
  if x.flag then
    if (flightOf s (commKey x.unit x.idx) x.aux).isSome then landFlight (commKey x.unit x.idx) x.aux s else s
  else match pktOf s x.unit x.idx with
    | some p =>
      if p.st ≠ .replay then s
      else if p.reply then dropPkt x.unit p.id s
      else inCustody p (updPkt x.unit p.id (fun p => { p with st := .custody }) s)
    | none => s

/-- The window moves at a response (R332). -/
def moveWindow (d : Nat) (p : Packet) (s : State) : State :=
  let x := s.station d
  let sample := x.clock - p.sentAt
  let w := x.win p.node
  let acked := w.acked + p.count
  let w' : Win :=
    if sample ≤ x.rtt then
      if w.w ≤ acked then { w with w := min (w.w + 4096) (2 ^ 20), acked := 0, posted := w.posted && w.w = 2 ^ 20 } else { w with acked }
    else if sample ≤ x.clock - w.lastDec then { w with w := max (w.w * 3 / 4 / 256 * 256) 4096, lastDec := x.clock, acked := 0 }
    else { w with acked }
  if p.tc = 0 then s else s.updStation d fun x => { x with wins := putN x.wins p.node w' }

/-- Deliver the data of an answered piece (R235, R88). -/
def deliverPiece (acc : Nat) (parts : List (Nat × Nat)) (base : Nat) (data : List Byte) (s : State) : State :=
  match getN s.accs acc with
  | none => s
  | some a =>
    let rs := a.reqs.filter fun r => r.sent && parts.contains (r.lane, r.pos)
    let bytes (r : Req) : List Byte := (data.drop (r.va - base)).take r.size
    match a.kind with
    | .refill =>
      let upd (r : Req) : Req := if rs.contains r then { r with fwd := (bytes r).map some } else r
      putAcc { a with reqs := a.reqs.map upd } s
    | .stashFill blk win e =>
      (match rs with | r :: _ => landFill a blk win e (applyBytes (bytes r) r.fwd) none s | [] => s)
    | _ =>
      let s := rs.foldl (fun s r => deliver a r (ofBytes (applyBytes (bytes r) r.fwd)) s) s
      finishIfDone acc (removeReqs acc rs s)

/-- The address and length of the data that answer a request. -/
def answerSpan : RemoteKind → Nat × Nat
  | .read va n => (va.toNat, n)
  | .atomic va n _ _ _ => (va.toNat, n)
  | .cas va n _ _ => (va.toNat, n)
  | _ => (0, 0)

/-- A response has returned to a packet. -/
def answered (p : Packet) (data : List Byte) (s : State) : State :=
  match p.cargo with
  | .piece acc parts _ => deliverPiece acc parts ((p.kind.map answerSpan).getD (0, 0)).1 data s
  | .part id off n =>
    match getN s.ops id with
    | none => s
    | some o => match o.kind with
      | .xfer x =>
        (match x.pull, x.core with
         | true, some c =>
           if !(scratchPart s o.blk c (x.off + off) (data.map some)).isEmpty then
             stopXfer o x (stationOf (x.va + off)) cECC 0 (x.off + off) true (countError cECC s)
           else
             let s := writeScratch o.blk c (x.off + off) (data.map some) s
             let s := match x.ctr with | some k => arriveCounter o.blk c k n s | none => s
             endXfer o { x with left := x.left - n } s
         | _, _ => endXfer o { x with left := x.left - n } s)
      | _ => s
  | _ => s

/-- An `xpull`'s destination takes its bytes: not while its image is loading (R66). -/
def answerOpen (s : State) (p : Packet) : Bool :=
  match p.cargo with
  | .part id _ _ =>
    match getN s.ops id with
    | some o => (match o.kind with | .xfer x => (match x.pull, x.core with | true, some c => shareOpen s o.blk c | _, _ => true) | _ => true)
    | none => true
  | _ => true

/-- REMOTE_RESPONSE (R332): `unit` is the station, `idx` the packet, `data` the answer. A response to a request that has
ended only clears the mark of its node `aux` (R436). -/
def remoteResponse (x : Input) (s : State) : State :=
  match pktOf s x.unit x.idx with
  | none => heardFrom x.aux s
  | some p =>
    let n := ((p.kind.map answerSpan).getD (0, 0)).2
    if p.st = .queued || p.reply || x.data.length ≠ n || !answerOpen s p then s
    else
      let s := heardFrom p.node s
      let s := if p.st = .replay then inCustody p s else s
      answered p x.data (dropPkt x.unit p.id (moveWindow x.unit p s))

/-- ERROR_NOTICE (R434, R435): `unit` is the station, `idx` the packet, `aux` the notice code. With `flag` it answers a
hoist over a circuit: tenant, communicator, and the copy in `word`. A notice of a switch (code 9) does not come from the
node. One that answers a request that has ended only clears the mark of its node `word` (R436). -/
def errorNotice (x : Input) (s : State) : State :=
  if x.flag then
    let k := commKey x.unit x.idx
    match flightOf s k x.word.toNat with
    | some y => hoistNotice x.unit x.idx y.h.seq y.step true (noticeCode x.aux) cCUSTODY (landFlight k y.id s)
    | none => s
  else match pktOf s x.unit x.idx with
    | none => if noticeCode x.aux = 9 then s else heardFrom x.word.toNat s
    | some p =>
      if p.st = .queued || p.reply then s
      else
        let s := if noticeCode x.aux = 9 then s else heardFrom p.node s
        endRequest x.unit p x.aux cCUSTODY (if p.st = .replay then inCustody p s else s)

/-! ## Lost peers and links (R436 to R438) -/

/-- End requests of a station that a condition picks, as R436 and R437 do. -/
def endAll (d : Nat) (pick : Packet → Bool) (cause : Nat) (s : State) : State :=
  ((s.station d).pkts.filter pick).foldl (fun s p => if (pktOf s d p.id).isSome then endRequest d p 9 cause s else s) s

/-- PEER_LOST (R436): `unit` is the station, `idx` a packet sent 2 ms ago and not answered. -/
def peerLost (d id : Nat) (s : State) : State :=
  match pktOf s d id with
  | none => s
  | some p =>
    if p.st = .queued || p.reply || (s.station d).clock < p.sentAt + 2000000 || s.lost.contains p.node then s
    else
      let s := postRec { cause := cPEERLOST, src := 4, unit := d, addr := w64 p.node, devWide := true } { s with lost := insertNat p.node s.lost }
      let s := (List.range 4).foldl (fun s e => endAll e (fun q => q.node = p.node && !q.reply) cPEERLOST s) s
      { s with stations := s.stations.map fun (e, x) =>
          (e, { x with wins := putN x.wins p.node { x.win p.node with w := 65536, acked := 0 }, renewed := false }) }

/-- WINDOW_STALL (R438): `unit` is the station, `idx` the node. -/
def windowStall (d node : Nat) (s : State) : State :=
  let x := s.station d
  let stuck := x.pkts.any fun p => p.node = node && decide (1000000 ≤ p.waited)
  if !stuck || (x.win node).posted then s
  else
    postRec { cause := cWINDOW, src := 4, unit := d, addr := w64 node, devWide := true }
      (s.updStation d fun x => { x with wins := putN x.wins node { x.win node with posted := true } })

/-- LINK_DOWN (R437). -/
def linkDown (d : Nat) (s : State) : State :=
  if (s.station d).up then s.updStation d fun x => { x with up := false, downAt := some x.clock } else s

/-- LINK_TRAINED (R437). -/
def linkTrained (d : Nat) (s : State) : State :=
  if (s.station d).enabled && !(s.station d).up then s.updStation d fun x => { x with up := true, downAt := none, dead := false } else s

/-- LINK_RETRAIN_TIMEOUT (R437). -/
def retrainTimeout (d : Nat) (s : State) : State :=
  match (s.station d).downAt with
  | none => s
  | some t =>
    if (s.station d).up || (s.station d).dead || (s.station d).clock < t + 1000000 then s
    else
      let s := s.updStation d fun x => { x with dead := true }
      let s := postRec { cause := cPEERLOST, src := 4, unit := d, addr := w64 (2 ^ 63 + d), devWide := true } s
      endAll d (fun p => p.st = .replay || (p.st = .queued && !p.reply)) cCUSTODY s

/-- STATION_ENABLE (R327, R332, R436): `unit` is the station, `word` the value written to STNCTL. -/
def stationWrite (d : Nat) (v : W64) (s : State) : State :=
  if 4 ≤ d then s
  else
    let on := v.getLsbD 0 && s.regs.booted && s.regs.bootStat = 0
    let rise := on && !(s.station d).enabled
    let ctl := w64 ((if on then 1 else 0) + max 100 (fld v 31 16) * 2 ^ 16)
    let s := s.updStation d fun x =>
      if rise then { x with ctl, wins := [], renewed := true, downAt := none, dead := false }
      else { x with ctl, up := x.up && on }
    if rise && (List.range 4).all fun e => (s.station e).renewed then
      { s with lost := [], stations := s.stations.map fun (e, x) => (e, { x with renewed := false }) }
    else s

/-- COMBINE_LINE_TIMEOUT (R88): `unit` is the station, `idx` the line's place in the combining buffer. -/
def combineTimeout (d k : Nat) (s : State) : State :=
  match (s.station d).comb[k]? with
  | none => s
  | some l =>
    if (s.core l.core).cycle < l.since + 256 then s
    else flushComb d (fun m => m.core = l.core && m.line = l.line && m.tenant = l.tenant) s

/-! ## Requests of peers (R120, R329, R335) -/

/-- The tenant of a PODASID: the lowest-numbered (R120). -/
def tenantOf (s : State) (pid : Nat) : Option Nat := (List.range 16).find? fun t => podasid s t = pid

/-- The block of a tenant that holds a slot on a core, resident or saved (R434): its lowest slot, or one of its groups'. -/
def blockHolding (s : State) (tenant core slot : Nat) : Option Nat :=
  (s.blocks.find? fun (_, b) => b.tenant = tenant && (b.share core).isSome &&
    ((match b.share core with | some sh => sh.low = slot | none => false) || b.live.contains (gkey core slot))).map Prod.fst

/-- What a peer's request comes to. -/
inductive Served where
  | answer (data : List Byte) (s : State)
  | refuse (code : Nat) (s : State)
  /-- It waits: with an address, for translation. -/
  | wait (va : Option (Nat × Bool)) (s : State)
  deriving DecidableEq, Repr

/-- The notice code of a cause (R434). -/
def codeOfCause (c : Nat) : Nat := if c = cPERM then 2 else if c = cMODE then 3 else if c = cECC then 4 else 1

/-- Read bytes of this node for a peer, line by line. -/
def serveRead (tenant : Nat) : Nat → Nat → Nat → List Byte → State → Served
  | 0, _, _, acc, s => .answer acc s
  | fuel + 1, va, n, acc, s =>
    if n = 0 then .answer acc s
    else
      let m := min n (128 - va % 128)
      match walkNow s tenant va none .read with
      | (.found x, s) =>
        let pa := x.pa va
        if !l2Ready s (pa / 128) then .wait none s
        else if eccIn s pa m then .refuse 4 (countError cECC s)
        else serveRead tenant fuel (va + m) (n - m) (acc ++ readBytes s.mem pa m) s
      | (.bad c, s) => .refuse (codeOfCause c) s
      | (_, s) => .wait (some (va, false)) s

/-- Write bytes of a peer, line by line. -/
def serveWrite (tenant : Nat) : Nat → Nat → List (Option Byte) → State → Served
  | 0, _, _, s => .answer [] s
  | fuel + 1, va, bs, s =>
    if bs.isEmpty then .answer [] s
    else
      let m := min bs.length (128 - va % 128)
      match walkNow s tenant va none .write with
      | (.found x, s) =>
        let pa := x.pa va
        let part := bs.take m
        if !l2Ready s (pa / 128) then .wait none s
        else if !(badGranules s (pa / 128) (List.replicate (pa % 128) none ++ part)).isEmpty then
          .refuse 4 (countError cECC s)
        else serveWrite tenant fuel (va + m) (bs.drop m) (performWrite pa part none (x.mode = 0) s)
      | (.bad c, s) => .refuse (codeOfCause c) s
      | (_, s) => .wait (some (va, true)) s

/-- One read-modify-write for a peer (R96). -/
def serveAtomic (tenant va n : Nat) (new : Nat → Option Nat) (s : State) : Served :=
  match walkNow s tenant va none .write with
  | (.found x, s) =>
    let pa := x.pa va
    if !l2Ready s (pa / 128) then .wait none s
    else if eccIn s pa n then .refuse 4 (countError cECC s)
    else
      let old := readNat s.mem pa n
      .answer (toBytes n old) (match new old with | some v => performBytes pa (toBytes n v) none (x.mode = 0) s | none => s)
  | (.bad c, s) => .refuse (codeOfCause c) s
  | (_, s) => .wait (some (va, true)) s

/-- Bytes of a peer's `xpush` (R248, R434). -/
def servePush (tenant core slot off : Nat) (ctr : Option Nat) (data : List Byte) (s : State) : Served :=
  match blockHolding s tenant core slot with
  | none => .refuse 6 s
  | some b =>
    match getN s.blocks b with
    | none => .refuse 6 s
    | some blk =>
      let l := layoutOf s blk
      if l.ctr < off + data.length || (match ctr with | some c => decide (l.nctr ≤ c) | none => false) then .refuse 7 s
      else if !shareOpen s b core then .wait none s
      else if !(scratchPart s b core off (data.map some)).isEmpty then .refuse 4 (countError cECC s)
      else
        let s := writeScratch b core off (data.map some) s
        .answer [] (match ctr with | some c => arriveCounter b core c data.length s | none => s)

/-- Write the pieces of a slice that came over a circuit (R353). -/
def servePieces (tenant : Nat) : List (W64 × List (Option Byte)) → State → Served
  | [], s => .answer [] s
  | (va, bs) :: ps, s =>
    match serveWrite tenant (bs.length / 128 + 2) va.toNat bs s with
    | .answer _ s => servePieces tenant ps s
    | r => r

/-- Serve a peer's request. -/
def serve (r : Incoming) (s : State) : Served :=
  match r.req.kind with
  | .read va n => serveRead r.tenant (n / 128 + 2) va.toNat n [] s
  | .write va bs => serveWrite r.tenant (bs.length / 128 + 2) va.toNat bs s
  | .atomic va n typ op v => serveAtomic r.tenant va.toNat n (fun old => some (atomNew op.toNat typ.toNat old v.toNat)) s
  | .cas va n cmp v => serveAtomic r.tenant va.toNat n (fun old => if old = cmp.toNat % 2 ^ (8 * n) then some (v.toNat % 2 ^ (8 * n)) else none) s
  | .push core slot off ctr data => servePush r.tenant core slot off ctr data s
  | .slice ps => servePieces r.tenant ps s

/-- The bytes that a request touches, for the order among requests of one peer (R95). -/
def Incoming.span (r : Incoming) : Nat × Nat × Nat :=
  match r.req.kind with
  | .read va n => (0, va.toNat, n)
  | .write va bs => (0, va.toNat, bs.length)
  | .atomic va n _ _ _ => (0, va.toNat, n)
  | .cas va n _ _ => (0, va.toNat, n)
  | .push core _ off _ data => (1 + core, off, data.length)
  | .slice ps =>
    let lo := ps.foldl (fun m p => min m p.1.toNat) (2 ^ 64)
    (0, lo, ps.foldl (fun m p => max m (p.1.toNat + p.2.length)) lo - lo)

/-- Two requests of one peer touch a line in common. -/
def Incoming.meets (a b : Incoming) : Bool :=
  let (k, x, n) := a.span
  let (j, y, m) := b.span
  a.req.src = b.req.src && k = j && decide (x / 128 * 128 < y + m) && decide (y / 128 * 128 < x + n)

/-- The demand record of a peer's request that waits (R120). -/
def servedDemand (d : Nat) (r : Incoming) (va : Nat) (write : Bool) : FaultRec :=
  { cause := cTRANSLATE, write, src := 4, unit := d, addr := w64 va, tenant := r.tenant }

/-- The bytes of a request (R326). -/
def kindSize : RemoteKind → Nat
  | .read _ n => n
  | .write _ bs => bs.length
  | .push _ _ _ _ bs => bs.length
  | .atomic _ n _ _ _ => n
  | .cas _ n _ _ => n
  | .slice ps => ps.foldl (fun n p => n + p.2.length) 0

/-- A request can come this way: 1 to 256 bytes by a station of the device (R7, R326), a slice of up to 4 KiB over a LIVE port from
the port's peer (R353). -/
def comesBy (s : State) (port : Option Nat) (unit : Nat) (r : RemoteRequest) : Bool :=
  match port, r.kind with
  | some p, .slice ps => p < 32 && (portOf s p).st = 3 && (portOf s p).peerNode = r.src && !ps.isEmpty && ps.all (fun q => !q.2.isEmpty) &&
      decide (kindSize (.slice ps) ≤ 4096)
  | none, .slice _ => false
  | none, k => unit < 4 && kindSize k ≠ 0 && decide (kindSize k ≤ 256)
  | some _, _ => false

/-- Answer a peer's request (R329), over the reverse direction where it came over a circuit (R346). -/
def answerPeer (d : Nat) (port : Option Nat) (r : RemoteRequest) (x : Except Nat (List Byte)) (s : State) : State :=
  match port, x with
  | none, .ok data => respond d r.src r.tc r.tag data s
  | none, .error n => notify d r.src r.tc r.tag n s
  | some _, .ok data => { s with net := s.net ++ [.response r.src r.tag data] }
  | some _, .error n => { s with net := s.net ++ [.notice r.src r.tag n] }

/-- REMOTE_REQUEST_RECEIVE (R120, R329, R335): `unit` is the station. With `req` a request is taken into custody; with `flag` it is a
slice that came over optical port `unit`, which lies on die `unit` / 8 (R346, R353). Without `req`, request `idx` in custody is
performed and answered. -/
def requestReceive (x : Input) (s : State) : State :=
  match x.req with
  | some r =>
    let port := if x.flag then some x.unit else none
    let d := if x.flag then x.unit / 8 else x.unit
    if !comesBy s port x.unit r then s
    else
      let s := heardFrom r.src s
      (match tenantOf s r.podasid with
       | none => answerPeer d port r (.error 5) s
       | some t => s.updStation d fun y => { y with incoming := y.incoming ++ [{ req := r, tenant := t, port }] })
  | none =>
    let q := (s.station x.unit).incoming
    match q[x.idx]? with
    | none => s
    | some r =>
      if (q.take x.idx).any r.meets then s
      else
        let gone (s : State) : State := s.updStation x.unit fun y => { y with incoming := y.incoming.eraseIdx x.idx }
        match serve r s with
        | .answer data s => answerPeer x.unit r.port r.req (.ok data) (gone s)
        | .refuse n s => answerPeer x.unit r.port r.req (.error n) (gone s)
        | .wait (some (va, w)) _ => agentWait x.unit r.tenant va (servedDemand x.unit r va w) s
        | .wait none _ => s

/-! ## Events -/

/-- STATION_SEND (R331). -/
def execStationSend (s : State) : Out := .next (stationSend s.input s)
/-- LINK_ACK (R329). -/
def execLinkAck (s : State) : Out := .next (linkAck s.input s)
/-- REMOTE_REQUEST_RECEIVE (R335). -/
def execRemoteRequestReceive (s : State) : Out := .next (requestReceive s.input s)
/-- REMOTE_RESPONSE (R332). -/
def execRemoteResponse (s : State) : Out := .next (remoteResponse s.input s)
/-- ERROR_NOTICE (R435). -/
def execErrorNotice (s : State) : Out := .next (errorNotice s.input s)
/-- PEER_LOST (R436). -/
def execPeerLost (s : State) : Out := .next (peerLost s.input.unit s.input.idx s)
/-- WINDOW_STALL (R438). -/
def execWindowStall (s : State) : Out := .next (windowStall s.input.unit s.input.idx s)
/-- LINK_DOWN (R437). -/
def execLinkDown (s : State) : Out := .next (linkDown s.input.unit s)
/-- LINK_TRAINED (R437). -/
def execLinkTrained (s : State) : Out := .next (linkTrained s.input.unit s)
/-- LINK_RETRAIN_TIMEOUT (R437). -/
def execLinkRetrainTimeout (s : State) : Out := .next (retrainTimeout s.input.unit s)
/-- STATION_ENABLE (R327). -/
def execStationEnable (s : State) : Out := .next (stationWrite s.input.unit s.input.word s)
/-- COMBINE_LINE_TIMEOUT (R88). -/
def execCombineLineTimeout (s : State) : Out := .next (combineTimeout s.input.unit s.input.idx s)

end Sys2Proof.Machine
end

