-- ==== Sys2Proof/Machine/Coll.lean ====
section
/-!
DEFINITION. Communicators and hoists: arrivals, strikes and sends, and the end of a step (spec 15 R337 to R343; 07 R142; 25 R439
to R441, R446; 16 R354).
-/

namespace Sys2Proof.Machine

/-! ## Spans of memory, for agents without lanes -/

/-- Read bytes of a tenant on this node, line by line. -/
def spanRead (tenant : Nat) : Nat → Nat → Nat → List Byte → State → Except Prep (List Byte) × State
  | 0, _, _, acc, s => (.ok acc, s)
  | fuel + 1, va, n, acc, s =>
    if n = 0 then (.ok acc, s)
    else
      let m := min n (128 - va % 128)
      match engineRead tenant none va m s with
      | (.ok bs, s) => spanRead tenant fuel (va + m) (n - m) (acc ++ bs) s
      | (.error e, s) => (.error e, s)

/-- Read `n` bytes of a tenant. -/
def readSpan (tenant va n : Nat) (s : State) : Except Prep (List Byte) × State := spanRead tenant (n / 128 + 2) va n [] s

/-- Write bytes of a tenant on this node, line by line. -/
def spanWrite (tenant : Nat) : Nat → Nat → List Byte → State → Except Prep Unit × State
  | 0, _, _, s => (.ok (), s)
  | fuel + 1, va, bs, s =>
    if bs.isEmpty then (.ok (), s)
    else
      let m := min bs.length (128 - va % 128)
      match engineDst tenant none va s with
      | (.ok (pa, hc), s) =>
        if !l2Free s (pa / 128) then (.error (.wait va true), s)
        else spanWrite tenant fuel (va + m) (bs.drop m) (touchL2 (pa / 128) (performBytes pa (bs.take m) none hc s))
      | (.error e, s) => (.error e, s)

/-- The lines of a span may all be written: nothing of it is written before (R342). -/
def spanReady (tenant : Nat) : Nat → Nat → List Byte → State → Except Prep Unit × State
  | 0, _, _, s => (.ok (), s)
  | fuel + 1, va, bs, s =>
    if bs.isEmpty then (.ok (), s)
    else
      let m := min bs.length (128 - va % 128)
      match engineDst tenant none va s with
      | (.ok (pa, _), s) =>
        if !l2Free s (pa / 128) then (.error (.wait va true), s)
        else if !(badGranules s (pa / 128) (List.replicate (pa % 128) none ++ (bs.take m).map some)).isEmpty then
          (.error (.bad cECC va true), errorAt pa s)
        else spanReady tenant fuel (va + m) (bs.drop m) s
      | (.error e, s) => (.error e, s)

/-- Write bytes of a tenant, all or none. -/
def writeSpan (tenant va : Nat) (bs : List Byte) (s : State) : Except Prep Unit × State :=
  match spanReady tenant (bs.length / 128 + 2) va bs s with
  | (.ok _, s) => spanWrite tenant (bs.length / 128 + 2) va bs s
  | r => r

/-! ## Types (R339, R341, R142) -/

/-- A WTYPE (R339). -/
def wideOk (w : Nat) : Bool := [2, 3, 6, 7, 10, 11].contains w

/-- A type of SRC converts exactly to WTYPE (R339). -/
def sourceOk (w t : Nat) : Bool :=
  if isInt w then
    isInt t && ((isI t == isI w && decide (widthOf t ≤ widthOf w)) || (!isI t && isI w && decide (widthOf t < widthOf w)))
  else [8, 9, 10, 12].contains t || isB8 t || (t = 11 && w = 11) ||
    (isInt t && decide (2 * widthOf t ≤ widthOf w))

/-- An NTYPE of a WTYPE (R341). -/
def narrowOk (w n : Nat) : Bool :=
  if isInt w then isInt n && isI n == isI w && decide (widthOf n ≤ widthOf w)
  else n = w || n = 8 || n = 9 || (n = 10 && w = 11) || isB8 n

/-- An element widened exactly (R142). -/
def widenEl (w t x : Nat) : Nat := if t = w then x else (cvtEl w t false false 0 x).1

/-- An element of WTYPE in a narrow type, and whether it counts as saturated (R142). -/
def narrowEl (w n x : Nat) : Nat × Bool :=
  if n = w then (x, false)
  else if isInt w then
    let i := intOf w x
    (ofSigned (widthOf n) (clampInt n i), decide (clampInt n i ≠ i))
  else
    let f := fmtOf n false
    let v := ieeeVal w x
    let (mm, me) := maxFinite f
    let sat := match v with | .nan _ => false | .inf _ => true | .fin _ m e => magLt mm me m e
    if isB8 n then ((toB8 n false 0 true v).1, sat)
    else match v with
      | .nan _ => (nanCode n, sat)
      | _ => match (roundF f 0 false v).val with
        | .inf neg => (codeOf f (.fin neg mm me), sat)
        | y => (codeOf f y, sat)

/-- The elements of a list of bytes, each of `n` bytes. -/
def wordsOf (n : Nat) : Nat → List Byte → List Nat
  | 0, _ => []
  | k + 1, bs => ofBytes (bs.take n) :: wordsOf n k (bs.drop n)

/-! ## Pennants and route entries (R338, R341) -/

def penRt (p : W64) : Nat := fld p 63 40
def penSlot (p : W64) : Nat := fld p 39 24
def penCirc (p : W64) : Bool := p.getLsbD 23
def penType (p : W64) : Nat := fld p 22 18
def penAct (p : W64) : Nat := fld p 13 10
def penNext (p : W64) : Nat := fld p 9 0

/-- A route entry (R338): pennants, first node, slot, and whether the first send goes via a circuit. -/
structure Route where
  pens : List W64
  first : Nat
  slot : Nat
  circ : Bool
  deriving DecidableEq, Repr

/-- What a step of a hoist needs from memory: it has it, it waits, or it is refused: cause and address. -/
inductive Got (α : Type) where
  | ok (x : α)
  | wait (va : Nat) (write : Bool)
  | bad (cause va : Nat)
  deriving DecidableEq, Repr

/-- The outcome of a span as a step of a hoist sees it. -/
def gotOf {α : Type} : Except Prep α → Got α
  | .ok x => .ok x
  | .error (.bad c va _) => .bad c va
  | .error (.wait va w) => .wait va w
  | .error (.ok _) => .bad 0 0

/-- A route entry of a communicator, or the refusal of one that does not exist or is ill-formed. -/
def routeAt (c : Comm) (i : Nat) (s : State) : Got Route × State :=
  let va := c.rt + 64 * i
  if c.rtlen ≤ i then (.bad cILLEGAL va, s)
  else match readSpan c.tenant va 64 s with
    | (.ok bs, s) =>
      let n := bitsOf (ofBytes (bs.take 1)) 2 0
      if n = 0 || 6 < n then (.bad cILLEGAL va, s)
      else
        (.ok { pens := (wordsOf 8 n (bs.drop 8)).map w64, first := bitsOf (ofBytes ((bs.drop 2).take 2)) 9 0,
               slot := ofBytes ((bs.drop 4).take 2), circ := bitAt (ofBytes (bs.take 1)) 3 }, s)
    | (e, s) => (gotOf (e.map fun _ => { pens := [], first := 0, slot := 0, circ := false }), s)

/-! ## What travels (R340) -/

/-- The header of a hoist (R340): SATCNT 127:106, COUNT 105:84, DIGEST 83:68, SEQ 67:36, COMM 35:20, TC 19:18, WTYPE 17:13, NPEN 12:10,
ORIGIN 9:0. -/
def hoistHeader (h : Hoist) : W128 :=
  BitVec.ofNat 22 h.satcnt ++ BitVec.ofNat 22 h.count ++ BitVec.ofNat 16 h.digest ++ BitVec.ofNat 32 h.seq ++ BitVec.ofNat 16 h.comm ++
    BitVec.ofNat 2 h.tc ++ h.wtype ++ BitVec.ofNat 3 h.pens.length ++ BitVec.ofNat 10 h.origin

/-- A hoist as its header says: each field in its width. -/
def hoistWire (h : Hoist) : Hoist :=
  let f := bitsOf (hoistHeader h).toNat
  { h with
    satcnt := f 127 106, count := f 105 84, digest := f 83 68, seq := f 67 36, comm := f 35 20, tc := f 19 18,
    wtype := BitVec.ofNat 5 (f 17 13), pens := h.pens.take (f 12 10), origin := f 9 0 }

/-- The segment word (R340): NSEGM1 7:4, SEG 3:0. -/
def segWord (seg nseg : Nat) : W64 := 0#56 ++ BitVec.ofNat 4 (nseg - 1) ++ BitVec.ofNat 4 seg

/-- The message of a segment (R340): header, pennants, segment word. -/
def hoistMessage (h : Hoist) (seg nseg : Nat) : List Byte :=
  toBytes 16 (hoistHeader h).toNat ++ h.pens.flatMap (fun p => toBytes 8 p.toNat) ++ toBytes 8 (segWord seg nseg).toNat

/-! ## Staging (R337, R340) -/

/-- `n` bytes from an offset on in a slot's buffer for a sequence (R337): their physical address, if the staging is mapped and
their lines are free. -/
def stagingAt (c : Comm) (slot seq off n : Nat) (s : State) : Option (Nat × Bool) × State :=
  let va := c.stage + (2 * slot + seq % 2) * 65536 + off
  match walkNow s c.tenant va none .write with
  | (.found x, s) =>
    let pa := x.pa va
    if (List.range (ceilDiv (pa % 128 + n) 128)).all fun i => l2Free s (pa / 128 + i) then (some (pa, x.mode = 0), s) else (none, s)
  | (_, s) => (none, s)

/-- A slot's buffer of a sequence holds an arrival (R342). -/
def Comm.holds (c : Comm) (slot seq : Nat) : Bool := c.arrivals.any fun a => a.slot = slot && a.h.seq % 2 = seq % 2

/-- The type in which a hoist arrives: the NTYPE of its first pennant (R341). -/
def hoistType (h : Hoist) : Nat := match h.pens with | p :: _ => penType p | [] => h.wtype.toNat

/-- The bytes of a hoist's payload as it arrives. -/
def arrivalBytes (h : Hoist) : Nat := h.count * (widthOf (hoistType h) / 8)

/-- Every segment of a hoist has come whole (R340, R342). -/
def Arrival.full (a : Arrival) : Bool :=
  decide (a.msgs.length = a.nseg) && (List.range (ceilDiv (arrivalBytes a.h) 256)).all fun i => a.got.contains i

/-- What has come of the hoist of a slot and sequence from a node. -/
def Comm.arrival (c : Comm) (src slot seq : Nat) : Option Arrival :=
  c.arrivals.find? fun a => a.src = src && a.slot = slot && a.h.seq = seq && !a.struck

/-- Write a part of a hoist to staging, and note what has come. -/
def stagePart (k : Nat) (c : Comm) (slot off : Nat) (h : Hoist) (f : Comm → Comm) (s : State) : Option State :=
  match stagingAt c slot h.seq off h.payload.length s with
  | (some (pa, hc), s) => some ((performBytes pa h.payload none hc s).updComm k f)
  | (none, _) => none

/-- A packet of a hoist in custody is performed, or waits (R329, R340, R342, R434, R441). `hoist` is what it carries, with the fields
of its header; it came from node `word` under the request number `idx`, for slot `aux`. A message has no payload and `unit` is its
segment word; a write packet has its offset in `word` above bit 15; with `flag` a whole hoist came over a circuit. One for a slot or
of a size that the communicator cannot have is answered with RANGE: DESIGN CHOICE, assumption 31. -/
def hoistTake (x : Input) (h0 : Hoist) (s0 : State) : Option State :=
  let h := hoistWire h0
  let src := fld x.word 15 0
  let off := fld x.word 63 16
  let s := heardFrom src s0
  let d := hoistStation s.regs.nodeId h.comm
  let say (n : Nat) : State :=
    if x.flag then { s with net := s.net ++ [.notice src x.idx n] } else notify d src h.tc x.idx n s
  match tenantOf s h.tenant with
  | none => some (say 5)
  | some t =>
    let k := commKey t h.comm
    match getN s.comms k with
    | none => some (say 8)
    | some c =>
      let n := arrivalBytes h
      let seg := bitsOf x.unit 3 0
      let nseg := bitsOf x.unit 7 4 + 1
      let new : Arrival := { id := s.nextId, slot := x.aux, src, circ := x.flag, tags := [x.idx], nseg, msgs := [seg], h := { h with tenant := t, payload := [] } }
      let add (a : Arrival) (c : Comm) : Comm := { c with arrivals := c.arrivals ++ [a] }
      let upd (a : Arrival) (c : Comm) : Comm := { c with arrivals := c.arrivals.map fun b => if b.id = a.id then a else b }
      if c.failed then some (say 8)
      else if c.nroute ≤ x.aux || h.pens.isEmpty || 6 < h.pens.length || n = 0 || 65536 < n then some (say 7)
      else if x.flag then
        if h.payload.length ≠ n then some (say 7)
        else if c.holds x.aux h.seq then none
        else stagePart k c x.aux 0 h (add { new with nseg := 1, msgs := [0], got := List.range (ceilDiv n 256) }) s.fresh.2
      else if h.payload.isEmpty then
        (match c.arrival src x.aux h.seq with
         | some a => some (s.updComm k (upd { a with msgs := insertNat seg a.msgs, tags := a.tags ++ [x.idx] }))
         | none => if c.holds x.aux h.seq then none else some (s.fresh.2.updComm k (add new)))
      else if 256 < h.payload.length || off % 256 ≠ 0 || n < off + h.payload.length then some (say 7)
      else match c.arrival src x.aux h.seq with
        | some a =>
          if !a.msgs.contains (off / 4096) then none
          else (stagePart k c x.aux off h (upd { a with got := insertNat (off / 256) a.got }) s).map (respond d src h.tc x.idx [])
        | none => none

/-- A held packet `x` of a hoist is performed before another, `y`: a message before those that follow it to its buffer, and all before
the write packets of their segment (R340). -/
def sameHoist (y x : Input) : Bool :=
  match x.hoist, y.hoist with
  | some h, some g =>
    let seg (z : Input) (w : Hoist) : Nat := if w.payload.isEmpty then bitsOf z.unit 3 0 else fld z.word 63 16 / 4096
    fld x.word 15 0 = fld y.word 15 0 && h.comm = g.comm && h.tenant = g.tenant && x.aux = y.aux &&
      (if g.payload.isEmpty || y.flag then h.payload.isEmpty || x.flag else h.seq = g.seq && seg x h = seg y g)
  | _, _ => false

/-- HOIST_ARRIVAL (R329, R340): a packet of a hoist is taken into custody, and performed or held behind the receive queue;
without a `hoist`, packet `idx` of those that are held is tried again. -/
def hoistArrival (x : Input) (s : State) : State :=
  match x.hoist with
  | some h =>
    let hold : State := { heardFrom (fld x.word 15 0) s with custody := s.custody ++ [x] }
    if s.custody.any (sameHoist x) then hold else (hoistTake x h s).getD hold
  | none =>
    match s.custody[x.idx]? with
    | some y =>
      if (s.custody.take x.idx).any (sameHoist y) then s
      else (match y.hoist with
        | some h => (hoistTake y h { s with custody := s.custody.eraseIdx x.idx }).getD s
        | none => s)
    | none => s

/-! ## Strikes (R342) -/

/-- The COLL of a sequence. -/
def Comm.coll (c : Comm) (seq : Nat) : Option Coll := c.colls.find? fun q => q.seq = seq

/-- Change the COLL of a sequence. -/
def updColl (k seq : Nat) (f : Coll → Coll) (s : State) : State :=
  let upd (q : Coll) : Coll := if q.seq = seq then f q else q
  s.updComm k fun c => { c with colls := c.colls.map upd }

/-- Replace a copy. -/
def putCopy (k : Nat) (y : HCopy) (s : State) : State :=
  let upd (z : HCopy) : HCopy := if z.id = y.id then y else z
  s.updComm k fun c => { c with copies := c.copies.map upd }

/-- Add a copy. -/
def addCopy (k : Nat) (y : HCopy) (s : State) : State :=
  let (id, s) := s.fresh
  s.updComm k fun c => { c with copies := c.copies ++ [{ y with id }] }

/-- The step fails on this device (R441), with one record of the cause. -/
def failStep (k seq cause : Nat) (s : State) : State :=
  match getN s.comms k with
  | some c => failComm k (postRec (commRec c seq cause 0) s)
  | none => s

/-- A step of a hoist that waits for translation or is refused. -/
def stall {α : Type} (k seq : Nat) (g : Got α) (s : State) : State :=
  match getN s.comms k, g with
  | some c, .wait va w =>
    agentWait 0 c.tenant va { commRec c seq cTRANSLATE 0 with write := w, addr := w64 va } s
  | _, .bad cause _ => failStep k seq cause s
  | _, _ => s

/-- A copy acts on its COLL: it is being struck or sent, or has not been built. -/
def HCopy.acting (y : HCopy) : Bool :=
  match y.st with | .sent _ => false | .flying _ _ _ => false | _ => true

/-- A payload of WTYPE as it is sent (R142, R342): the values of the first remaining pennant's NTYPE, and how many
saturated. -/
def narrowAll (w n : Nat) (x : List Nat) : List Nat × Nat :=
  let ys := x.map (narrowEl w n)
  (ys.map Prod.fst, (ys.filter Prod.snd).length)

/-- SATCNT of a hoist after its payload has been narrowed for a send (R142, R342). -/
def satSent (h : Hoist) (x : List Nat) : Nat := min (h.satcnt + (narrowAll h.wtype.toNat (hoistType h) x).2) (2 ^ 22 - 1)

/-- A copy goes to another node: narrowed, it waits to be sent (R342). A route that gives no pennant to strike there, or no
such NTYPE, fails the step. -/
def toSend (k : Nat) (y : HCopy) (node slot : Nat) (circ : Bool) (s : State) : Option State :=
  let w := y.h.wtype.toNat
  if y.h.pens.isEmpty || !narrowOk w (hoistType y.h) then none
  else
    let x := (narrowAll w (hoistType y.h) y.x).1
    let y := { y with x, h := { y.h with satcnt := satSent y.h y.x }, st := .send node slot circ s.fabric.clock }
    some (putCopy k y s)

/-- The local contribution of a COLL, widened (R342). -/
def localX (tenant : Nat) (q : Coll) (s : State) : Got (List Nat) × State :=
  let n := widthOf q.stype / 8
  match readSpan tenant q.src (q.count * n) s with
  | (.ok bs, s) => (.ok ((wordsOf n q.count bs).map (widenEl q.wtype q.stype)), s)
  | (.error e, s) => (gotOf (.error e), s)

/-- `combine` (R142, R342): the incoming value is the first operand. Steps whose digests agree by chance are combined as
posted (R440): elements that this device's COLL does not have stay as they came. -/
def combineX (q : Coll) : List Nat → List Nat → List Nat
  | a :: x, b :: l => (redOp q.wtype q.rop 0 a b).1 :: combineX q x l
  | x, _ => x

/-- REDUCE and DELIVER (R341): the combined value, which DST has taken where the action delivers. -/
def actOn (tenant : Nat) (q : Coll) (act : Nat) (x : List Nat) (s : State) : Got (List Nat) × State :=
  let (g, s) := if act = 0 || act = 2 then
      (match localX tenant q s with | (.ok l, s) => (Got.ok (combineX q x l), s) | r => r)
    else (.ok x, s)
  match g with
  | .ok x =>
    if act = 2 || act = 3 then
      (match writeSpan tenant q.dst ((x.take q.count).flatMap (toBytes (widthOf q.wtype / 8))) s with
       | (.ok _, s) => (.ok x, s)
       | (.error e, s) => (gotOf (.error e), s))
    else (.ok x, s)
  | g => (g, s)

/-- After the action of a strike, the copy goes where its pennant says, or ends (R342): nothing where it cannot. -/
def moveOn (k node : Nat) (y : HCopy) (pen : W64) (s : State) : Option State :=
  if penNext pen = 0x3ff then
    some (copyAway k y.id s)
  else if penNext pen = node then
    (if y.h.pens.isEmpty then none else some (putCopy k y s))
  else toSend k y (penNext pen) (penSlot pen) (penCirc pen) s

/-- Strike the first pennant of a copy (R342). -/
def strikeCopy (k : Nat) (c : Comm) (q : Coll) (y : HCopy) (s0 : State) : State :=
  let seq := y.h.seq
  match y.h.pens with
  | [] => failStep k seq cILLEGAL s0
  | pen :: pens =>
    let act := penAct pen
    let struck (s : State) : State := updColl k seq (fun q => { q with visits := q.visits + 1, satcnt := y.h.satcnt }) s
    if 6 ≤ act then failStep k seq cILLEGAL s0
    else
      let (r, s) : Got Route × State := if act = 4 || act = 5 then routeAt c (penRt pen) s0 else (.ok ⟨[], 0, 0, false⟩, s0)
      match r with
      | .ok e =>
        if act = 5 then putCopy k { y with h := { y.h with pens := e.pens } } (struck s)
        else match actOn c.tenant q act y.x s with
          | (.ok x, s) =>
            let s := struck s
            let away := penNext pen ≠ 0x3ff ∧ penNext pen ≠ s.regs.nodeId
            let satcnt := if away then satSent { y.h with pens } x else y.h.satcnt
            let fork : HCopy := { y with x, h := { y.h with pens := e.pens, satcnt }, st := .strike, orig := false }
            let t := if act = 4 then addCopy k fork s else s
            ((moveOn k s.regs.nodeId { y with x, h := { y.h with pens } } pen t)).getD (failStep k seq cILLEGAL s)
          | (g, s) => stall k seq g s
      | g => stall k seq g s

/-- The origin builds its hoist (R342). -/
def buildOrigin (k : Nat) (c : Comm) (q : Coll) (y : HCopy) (rt : Nat) (s0 : State) : State :=
  match routeAt c rt s0 with
  | (.ok e, s) =>
    (match localX c.tenant q s with
     | (.ok x, s) =>
       (match toSend k { y with x, h := { y.h with pens := e.pens } } e.first e.slot e.circ s with
        | some s => s
        | none => failStep k q.seq cILLEGAL s)
     | (g, s) => stall k q.seq g s)
  | (g, s) => stall k q.seq g s

/-- An arrival is compared with its COLL and answered; its hoist becomes a copy (R342, R440). -/
def strikeArrival (k : Nat) (c : Comm) (q : Coll) (a : Arrival) (s0 : State) : State :=
  let gone (c : Comm) : Comm := { c with arrivals := c.arrivals.filter fun b => b.id ≠ a.id }
  let say (n : Option Nat) (s : State) : State := answerArrival c a n s
  if a.h.digest ≠ q.digest then
    failStep k q.seq 0x32 ((say (some 10) s0).updComm k gone)
  else
    let n := widthOf (hoistType a.h) / 8
    if !narrowOk a.h.wtype.toNat (hoistType a.h) then
      failStep k q.seq cILLEGAL ((say none s0).updComm k gone)
    else match stagingAt c a.slot a.h.seq 0 (a.h.count * n) s0 with
      | (none, s) => s
      | (some (pa, _), s) =>
        if eccIn s pa (a.h.count * n) then failStep k q.seq cECC (countError cECC ((say none s).updComm k gone)) else
        let x := (wordsOf n a.h.count (readBytes s.mem pa (a.h.count * n))).map (widenEl a.h.wtype.toNat (hoistType a.h))
        let upd (b : Arrival) : Arrival := if b.id = a.id then { b with struck := true } else b
        let s := say none s
        addCopy k { id := 0, h := a.h, x, arr := some a.id, step := (q.queue, q.addr), st := .strike } (s.updComm k fun c => { c with arrivals := c.arrivals.map upd })

/-- HOIST_STRIKE (R342): `unit` is the tenant, `idx` the communicator, `aux` a copy or, with `flag`, an arrival. Copies of
one arrival act in order. -/
def hoistStrike (x : Input) (s : State) : State :=
  let k := commKey x.unit x.idx
  match getN s.comms k with
  | none => s
  | some c =>
    if c.failed then s
    else if x.flag then
      match c.arrivals.find? fun a => a.id = x.aux && !a.struck && a.full with
      | some a => (match c.coll a.h.seq with | some q => strikeArrival k c q a s | none => s)
      | none => s
    else match c.copies.find? fun y => y.id = x.aux with
      | some y =>
        if c.copies.any fun z => decide (z.id < y.id) && z.arr = y.arr && z.h.seq = y.h.seq && z.acting then s
        else (match c.coll y.h.seq with
          | some q => (match y.st with
            | .strike => strikeCopy k c q y s
            | .origin rt => buildOrigin k c q y rt s
            | _ => s)
          | none => s)
      | none => s

/-! ## Sends (R340, R342, R354, R446) -/

/-- The bytes of a copy that waits to be sent. -/
def HCopy.bytes (y : HCopy) : List Byte := y.x.flatMap (toBytes (widthOf (hoistType y.h) / 8))

/-- The packets of an electrical send (R340): of each segment its message, with the header, the pennants and the segment word, and
then its write packets of up to 256 bytes. -/
def segments (s : State) (c : Comm) (y : HCopy) (node slot : Nat) : List Packet :=
  let bs := y.bytes
  let n := max 1 (ceilDiv bs.length 4096)
  let h := hoistWire { y.h with tenant := podasid s c.tenant }
  let pkt (seg part : Nat) (off : Option Nat) (payload : List Byte) : Packet :=
    { id := 0, node, tc := y.h.tc, count := max 64 payload.length, podasid := podasid s c.tenant, tenant := c.tenant,
      cargo := .hoist c.tenant c.id y.id part seg n slot off { h with payload } y.step }
  (List.range n).flatMap fun i =>
    let part := (bs.drop (4096 * i)).take 4096
    pkt i (17 * i) none (hoistMessage h i n) ::
      (List.range (ceilDiv part.length 256)).map fun j =>
        let b := (part.drop (256 * j)).take 256
        pkt i (17 * i + 1 + j) (some (4096 * i + 256 * j)) b

/-- The number of a packet in its send. -/
def Packet.partNo (p : Packet) : Option Nat := match p.cargo with | .hoist _ _ _ part _ _ _ _ _ _ => some part | _ => none

/-- HOIST_SEND (R342, R354): `unit` is the tenant, `idx` the communicator, `aux` the copy. The receiver's buffer is free. -/
def hoistSend (x : Input) (s : State) : State :=
  let k := commKey x.unit x.idx
  match getN s.comms k with
  | none => s
  | some c =>
    match c.copies.find? fun y => y.id = x.aux with
    | none => s
    | some y => match y.st with
      | .send node slot circ _ =>
        if c.failed then s
        else if circ then
          match circuitPort s c.tenant node with
          | some p =>
            putCopy k { y with st := .flying p node slot }
              { s with net := s.net ++ [.hoist p slot { hoistWire { y.h with tenant := podasid s c.tenant } with payload := y.bytes }] }
          | none => s
        else
          let ps := segments s c y node slot
          ps.foldl (fun s p => enqueuePkt (hoistStation node c.id) p s) (putCopy k { y with st := .sent (ps.filterMap Packet.partNo) } s)
      | _ => s

/-- HOIST_CIRCUIT_TIMEOUT (R446): `unit` is the tenant, `idx` the communicator, `aux` the copy. -/
def hoistTimeout (x : Input) (s : State) : State :=
  let k := commKey x.unit x.idx
  match (getN s.comms k).bind fun c => c.copies.find? fun y => y.id = x.aux with
  | none => s
  | some y => match y.st with
    | .send node _ true since =>
      if (circuitPort s x.unit node).isSome || s.fabric.clock < since + fourMs then s else failStep k y.h.seq 0x34 s
    | _ => s

/-! ## The end of a step (R343, R441) -/

/-- A COLL's strikes have finished, or its communicator has failed. -/
def Comm.over? (c : Comm) (q : Coll) : Bool :=
  c.failed || (decide (q.nvisit ≤ q.visits) && q.first && !c.copies.any fun y => y.h.seq = q.seq && y.acting)

/-- The completion record (R343, R441). -/
def Comm.record (c : Comm) (q : Coll) : List Byte :=
  toBytes 8 (if c.failed then 2 ^ 22 - 1 else q.count + q.satcnt * 2 ^ 32) ++ toBytes 8 (q.seq + 1)

/-- A COLL writes its completion record (R343): whether the packet completes. A record that is refused is never written. -/
def endColl (k seq : Nat) (s0 : State) : Bool × State :=
  match getN s0.comms k with
  | none => (false, s0)
  | some c =>
    match c.coll seq with
    | none => (false, s0)
    | some q =>
      let drop (s : State) : State := s.updComm k fun c => { c with colls := c.colls.filter fun q => q.seq ≠ seq }
      if !c.over? q then (false, s0)
      else match writeSpan c.tenant q.recAddr (c.record q) s0 with
        | (.ok _, s) => (true, drop s)
        | (.error (.bad cause va _), s) => (false, drop (postRec { commRec c seq cause 0 with addr := w64 va, write := true } s))
        | (.error e, s) => (false, stall k seq (gotOf (α := Unit) (.error e)) s)

/-! ## Events -/

/-- HOIST_ARRIVAL (R340). -/
def execHoistArrival (s : State) : Out := .next (hoistArrival s.input s)
/-- HOIST_STRIKE (R342). -/
def execHoistStrike (s : State) : Out := .next (hoistStrike s.input s)
/-- HOIST_SEND (R342). -/
def execHoistSend (s : State) : Out := .next (hoistSend s.input s)
/-- HOIST_CIRCUIT_TIMEOUT (R446). -/
def execHoistCircuitTimeout (s : State) : Out := .next (hoistTimeout s.input s)

end Sys2Proof.Machine
end

