-- ==== Sys2Proof/Machine/Circuit.lean ====
section
/-!
DEFINITION. Optical ports, circuit-live barriers and the instructions of circuit scripts (spec 16 R346 to R359; 25 R442 to R445).
-/

namespace Sys2Proof.Machine

/-! ## Ports (R347, R350) -/

/-- The tenant that a port is assigned to (R347). -/
def Port.owner (x : Port) : Option Nat := if x.optown.getLsbD 4 then some (fld x.optown 3 0) else none
/-- A port that is DARK with PEND = 0. -/
def Port.idle (x : Port) : Bool := x.st = 0 && !x.pend

/-- Send a message to the OCS (R348): kind 0 CIRCUIT_REQUEST, 1 RELEASE. -/
def tellOcs (kind p tenant : Nat) (s : State) : State :=
  let word := portBits s p s.regs.nodeId (if kind = 0 then 1 else 4)
  enqueuePkt (p / 8) { id := 0, node := s.regs.ocsNode, tc := 0, count := 64, podasid := podasid s tenant, tenant,
                       cargo := .circ kind (portOf s p).ctx p word } s

/-- A copy names a barrier (R353). -/
def Copy.over? (c : Copy) (b : Nat) : Bool := c.bar = some b

/-- The record of an entry into DARK (R442). -/
def darkRec (p cause : Nat) (s : State) : State :=
  let x := portOf s p
  let tenant := fld x.optown 3 0
  postRec { cause, src := 2, unit := x.ctx, addr := portWord s p tenant, tenant } s

/-- A port fails (R350, R442): DARK, RELEASE where the D9 ends the circuit, and the record. Where a `crel` has been taken it
comes first: an event that the schedule puts between two turns of the fabric processor reaches the port in the clock of the earlier
turn, after its instruction (R443; assumption 39). -/
def failPort (p why cause : Nat) (release : Bool) (s : State) : State :=
  let x := portOf s p
  let s := darken p (if x.draining then 0 else why) s
  let s := if release || x.draining then tellOcs 1 p (fld x.optown 3 0) s else s
  if x.draining then s else darkRec p cause s

/-- CIRCUIT_MADE (R350, R351): `word` is the message. -/
def circuitMade (w : W64) (s0 : State) : State :=
  let s := heardFrom s0.regs.ocsNode s0
  let p := fld w 32 28
  let x := portOf s p
  if x.st = 0 && x.pend && fld w 7 0 = 2 && fld w 27 18 = s.regs.nodeId && x.handle = fld w 63 48 && x.peerNode = fld w 47 38 &&
      x.peerPort = fld w 37 33 then
    s.updPort p fun x => { x with st := 1, pend := false, since := s.fabric.clock }
  else s

/-- CIRCUIT_BROKEN (R350, R351): `word` is the message. -/
def circuitBroken (w : W64) (s0 : State) : State :=
  let s := heardFrom s0.regs.ocsNode s0
  let p := fld w 32 28
  if (portOf s p).st = 0 || fld w 7 0 ≠ 3 || fld w 27 18 ≠ s.regs.nodeId then s else failPort p 2 0x34 false s

/-- PORT_TRAINED (R350, R443): `unit` is the port. -/
def portTrained (p : Nat) (s : State) : State :=
  let x := portOf s p
  if x.st = 1 && decide (s.fabric.clock ≤ x.since + 40000) then s.updPort p fun x => { x with st := 2, since := s.fabric.clock } else s

/-- LOCK_TIMEOUT (R350, R442): `unit` is the port. In the clock of the limit itself FEC alignment comes first (R443). -/
def lockTimeout (p : Nat) (s : State) : State :=
  let x := portOf s p
  if x.st = 1 && decide (x.since + 40000 < s.fabric.clock) then failPort p 1 0x33 true s else s

/-- IDENTITY_HANDSHAKE (R350): `unit` is the port, `idx` and `aux` the node and port that the peer reports. -/
def handshake (p node port : Nat) (s : State) : State :=
  let x := portOf s p
  if x.st ≠ 2 then s
  else if x.peerNode = node && x.peerPort = port then s.updPort p fun x => { x with st := 3, since := s.fabric.clock }
  else failPort p 3 0x34 true s

/-- LOSS_OF_LOCK (R350, R442): `unit` is the port. -/
def lossOfLock (p : Nat) (s : State) : State :=
  if (portOf s p).st = 2 || (portOf s p).st = 3 then failPort p 2 0x34 true s else s

/-- A port carries a slice or a hoist that has not been acknowledged. -/
def portCarries (s : State) (p : Nat) : Bool :=
  (s.ops.any fun (_, o) => match o.kind with | .copy c => c.out.any fun x => x.port = some p && x.flying | _ => false) ||
    s.comms.any fun (_, c) => c.copies.any fun y => match y.st with | .flying q _ _ => q = p | _ => false

/-- Release a port at once: RELEASE, laser off, DARK with CAUSE 0 (R357). -/
def releasePort (p : Nat) (s : State) : State :=
  tellOcs 1 p (fld (portOf s p).optown 3 0) (darken p 0 s)

/-- A draining port is DARK 1 µs after its `crel`, drained or not (R350, R357). -/
def drainLimits (s : State) : State :=
  let late (x : Port) : Bool := x.st = 3 && x.draining && decide (x.since + 1000 ≤ s.fabric.clock)
  (s.fabric.ports.filter fun (_, x) => late x).foldl (fun s (p, _) => releasePort p s) s

/-- PORT_DRAIN_DONE (R357): `unit` is the port. -/
def drainDone (p : Nat) (s : State) : State :=
  if (portOf s p).st = 3 && (portOf s p).draining && !portCarries s p then releasePort p s else s

/-! ## Instructions of scripts (R357) -/

/-- A status word: the status and the ports that it names. -/
def statusWord (st ports : Nat) : W64 := w64 (st + 2 ^ 32 * ports)
/-- The ports of a mask that meet a condition, as a mask. -/
def portsWhere (s : State) (m : Nat) (f : Port → Bool) : Nat := ((portsOf m).filter fun p => f (portOf s p)).foldl (fun a p => a + 2 ^ p) 0
/-- Some port of a mask is not the tenant's. -/
def foreign (s : State) (m : Nat) : Bool := (portsOf m).any fun p => (portOf s p).owner ≠ some (curTenant s)

/-- `creq` (R357). -/
def opCreq (h : Hdr) (f : Form) (s : State) : State :=
  procIssue 0xd0 h f (fun o p s =>
    let w := p.get o.a
    let n := fld w 32 28
    let x := portOf s n
    if fld w 27 0 ≠ 0 then .fault cILLEGAL 0x0b 0
    else if x.idle && x.owner = some (curTenant s) then
      let s := s.updPort n fun x =>
        { x with pend := true, handle := fld w 63 48, peerNode := fld w 47 38, peerPort := fld w 37 33, ctx := s.cur.sub }
      .done (p.put o.d 0) (tellOcs 0 n (curTenant s) s)
    else .done (p.put o.d 3) s) s

/-- Wait: the clock from which the instruction waits is kept (R357). -/
def scriptWait (limit : Nat) (recv : Bool) (s0 : State) : State :=
  let (id, s) := s0.fresh
  s.updScript s.cur.sub fun c => match c.waitSince with
    | some (t, _, _) => { c with waitSince := some (t, limit, recv) }
    | none => { c with waitSince := some (s.cur.clock, limit, recv), order := id }

/-- The limit of the current wait has passed (R357). -/
def limitPassed (limit : Nat) (s : State) : Bool :=
  let c := s.script s.cur.sub
  limit ≠ 0 && (c.timedOut || (match c.waitSince with | some (t, _, _) => decide (t + limit ≤ s.cur.clock) | none => false))

/-- `cawait.live` and `.dark` (R357). -/
def opCawait (h : Hdr) (f : Form) (s : State) : State :=
  procIssue 0xd1 h f (fun o p s =>
    let m := (p.get o.a).toNat % 2 ^ 32
    let b := (procB o p).toNat
    let want : Nat := if o.opt = 0 then 3 else 0
    let short := portsWhere s m fun x => x.st ≠ want
    let dead := portsWhere s m Port.idle
    if foreign s m then .done (p.put o.d 3) s
    else if short = 0 then .done (p.put o.d 0) s
    else if o.opt = 0 && dead ≠ 0 then .done (p.put o.d (statusWord 1 dead)) s
    else if limitPassed b s then .done (p.put o.d (statusWord 2 short)) s
    else .wait (scriptWait b false s)) s

/-- An 8-byte element of a script on this node (R359): its physical address and whether its page is HC, or how the script
ends. A script never parks on a translation. -/
def scriptElem (s : State) (va : W64) (want : Want) : Except (Option (Nat × Nat)) (Nat × Bool) × State :=
  let a := va.toNat
  if a % 8 ≠ 0 then (.error (some (cILLEGAL, 0x0b)), s)
  else if nodeOf a ≠ s.regs.nodeId then (.error (some (cILLEGAL, 0x10)), s)
  else if va.getLsbD 63 then (.error (some (cBOUNDS, 0)), s)
  else match walkNow s (curTenant s) a none want with
    | (.found x, t) => if l2Free t (x.pa a / 128) then (.ok (x.pa a, x.mode = 0), t) else (.error none, t)
    | (.bad 0, t) => (.error none, t)
    | (.bad c, t) => (.error (some (c, 0)), t)
    | (.ats _, t) => (.error none, t)
    | (.todo, t) => (.error none, t)
    | (_, t) => (.error (some (cTRANSLATE, 0)), t)

/-- `cawait.mem` (R357, R359): the read acquires at scope sys, and this processor holds no copies. -/
def opCawaitMem (h : Hdr) (f : Form) (s : State) : State :=
  procIssue 0xd1 h f (fun o p s =>
    if 31 ≤ o.a then .fault cILLEGAL 0x09 0
    else
      let va := p.get o.a
      let b := (procB o p).toNat
      match scriptElem s va .read with
      | (.error (some (c, sub)), _) => .fault c sub (if c = cILLEGAL then 0 else va)
      | (.error none, s) => if limitPassed b s then .done (p.put o.d 2) s else .wait (scriptWait b false s)
      | (.ok (pa, _), s) =>
        if eccIn s pa 8 then .fault cECC 0 va
        else if (p.get (o.a + 1)).toNat ≤ readNat s.mem pa 8 then .done (p.put o.d 0) (touchL2 (pa / 128) s)
        else if limitPassed b s then .done (p.put o.d 2) s
        else .wait (scriptWait b false s)) s

/-- A copy waits on a barrier or is in progress over it (R357). -/
def barBusy (s : State) (b : Nat) : Bool :=
  s.ops.any fun (_, o) => match o.kind with | .copy c => c.over? b | _ => false

/-- `cbar` (R357). -/
def opCbar (h : Hdr) (f : Form) (s : State) : State :=
  procIssue 0xd2 h f (fun o p s =>
    let w := p.get o.a
    let m := (p.get (o.a + 1)).toNat % 2 ^ 32
    let b := fld w 5 0
    let x := barrierOf s b
    let t := curTenant s
    if foreign s m || (x.mask ≠ 0 && x.tenant ≠ t) || barBusy s b then .done (p.put o.d 3) s
    else
      let bars := if m = 0 then delN s.fabric.bars b else putN s.fabric.bars b { tenant := t, peerNode := fld w 25 16, mask := m }
      .done (p.put o.d 0) { s with fabric := { s.fabric with bars } }) s

/-- `crel` on one port (R357, R443). -/
def crelPort (s : State) (p : Nat) : State :=
  let x := portOf s p
  if x.idle then s
  else if x.st = 3 then
    if x.draining then s else countCircuits s (s.updPort p fun x => { x with draining := true, since := s.fabric.clock })
  else releasePort p s

/-- `crel` (R357). -/
def opCrel (h : Hdr) (f : Form) (s : State) : State :=
  procIssue 0xd3 h f (fun o p s =>
    let m := (p.get o.a).toNat % 2 ^ 32
    if foreign s m then .done (p.put o.d 3) s else .done (p.put o.d 0) ((portsOf m).foldl crelPort s)) s

/-- `cstat` (R357). -/
def opCstat (h : Hdr) (f : Form) (s : State) : State :=
  procIssue 0xd4 h f (fun o p s => .done (p.put o.d (portWord s (fld (p.get o.a) 4 0) (curTenant s))) s) s

/-- `emsg` (R357). -/
def opEmsg (h : Hdr) (f : Form) (s : State) : State :=
  procIssue 0xd5 h f (fun o p s =>
    let w := p.get o.a
    let node := fld w 9 0
    let t := curTenant s
    if node = s.regs.nodeId then .done (p.put o.d 3) s
    else
      let m : Emsg := { src := s.regs.nodeId, tag := fld w 31 16, p0 := p.get o.c, p1 := p.get (o.c + 1) }
      .done (p.put o.d 0) (enqueuePkt (node % 4) { id := 0, node, tc := 0, count := 64, podasid := podasid s t, tenant := t,
                                                   cargo := .emsg s.cur.sub m } s)) s

/-- Another context of the tenant has waited longer in an `erecv` (R357). -/
def recvBehind (s : State) : Bool :=
  let me := s.script s.cur.sub
  let mine := match me.waitSince with | some (_, _, true) => me.order | _ => s.nextId
  (s.fabric.ctxs.zipIdx).any fun (c, k) =>
    k ≠ s.cur.sub && c.busy && c.tenant = curTenant s && (match c.waitSince with | some (_, _, true) => decide (c.order < mine) | _ => false)

/-- `erecv` (R357). -/
def opErecv (h : Hdr) (f : Form) (s : State) : State :=
  procIssue 0xd6 h f (fun o p s =>
    let b := (procB o p).toNat
    let q := s.fabric.recvq
    match q.findIdx? fun m => m.1 = curTenant s with
    | some i =>
      if recvBehind s then .wait (scriptWait b true s)
      else if s.fabric.recvBad.contains i then .fault cECC 0 0
      else
        let m := (q.getD i (0, { src := 0, tag := 0, p0 := 0, p1 := 0 })).2
        let p := ((p.put o.d m.p0).put (o.d + 1) m.p1).put (o.d + 2) (w64 (m.src + 2 ^ 16 * m.tag))
        let bad := (s.fabric.recvBad.filter (· ≠ i)).map fun j => if i < j then j - 1 else j
        .done p { s with fabric := { s.fabric with recvq := q.eraseIdx i, recvBad := bad } }
    | none =>
      if limitPassed b s then .done (((p.put o.d 0).put (o.d + 1) 0).put (o.d + 2) (w64 (2 ^ 63))) s
      else .wait (scriptWait b true s)) s

/-- `ctime` (R357). -/
def opCtime (h : Hdr) (f : Form) (s : State) : State :=
  procIssue 0xd7 h f (fun o p s => .done (p.put o.d (w64 s.cur.clock)) s) s

/-- A packet of a command queue is complete; its stamp remains (R43). -/
def runDone (q pos : Nat) (s : State) : State :=
  let upd (r : Run) : Run := if r.id = pos then { r with done := true } else r
  s.updQueue q fun x => { x with runs := x.runs.map upd }

/-- A script ends by `cstamp.end` (R356). -/
def endScript (k : Nat) (s : State) : State :=
  let c := s.script k
  runDone c.queue c.pos (s.updScript k fun _ => {})

/-- `cstamp` (R357, R359): the effects of earlier instructions are in place. -/
def opCstamp (h : Hdr) (f : Form) (s : State) : State :=
  procIssue 0xd8 h f (fun o p s =>
    let va := p.get o.a + procB o p
    match scriptElem s va .write with
    | (.error (some (c, sub)), _) => .fault c sub (if c = cILLEGAL then 0 else va)
    | (.error none, s) => .wait s
    | (.ok (pa, hc), s) =>
      let s := touchL2 (pa / 128) (performBytes pa (toBytes 8 (p.get o.d).toNat) none hc s)
      if o.opt = 1 then .over (endScript s.cur.sub s) else .done p s) s

/-! ## Messages and limits (R357) -/

/-- A message in custody enters the receive queue, or waits while the queue is full (R357). It came to station `unit` under PODASID
`aux` as request `idx`. -/
def emsgTake (x : Input) (m : Emsg) (s : State) : Option State :=
  match tenantOf s x.aux with
  | none => some (notify x.unit m.src 0 x.idx 5 (heardFrom m.src s))
  | some t =>
    if 64 ≤ s.fabric.recvq.length then none
    else
      let s := respond x.unit m.src 0 x.idx [] (heardFrom m.src s)
      some { s with fabric := { s.fabric with recvq := s.fabric.recvq ++ [(t, m)] } }

/-- EMSG_RECEIVE (R329, R357): `msg` is taken into custody; without it, held message `idx` is tried again. Messages enter the queue in
the order of their custody. -/
def emsgReceive (x : Input) (s : State) : State :=
  let isMsg (y : Input) : Bool := y.msg.isSome
  match x.msg with
  | some m =>
    let hold : State := { heardFrom m.src s with custody := s.custody ++ [x] }
    if s.custody.any isMsg then hold else (emsgTake x m s).getD hold
  | none =>
    match s.custody[x.idx]? with
    | some y =>
      if (s.custody.take x.idx).any isMsg then s
      else (match y.msg with
        | some m => (emsgTake y m { s with custody := s.custody.eraseIdx x.idx }).getD s
        | none => s)
    | none => s

/-- SCRIPT_WAIT_TIMEOUT (R357): `unit` is the context. -/
def scriptTimeout (k : Nat) (s : State) : State :=
  match (s.script k).waitSince with
  | some (t, limit, _) =>
    if limit = 0 || s.fabric.clock < t + limit then s else s.updScript k fun c => { c with timedOut := true }
  | none => s

/-- CREQ (R357). -/
def execCreq (h : Hdr) (m : Multi) (s : State) : Out := .next (opCreq h (.multi m) s)

/-- CAWAIT (R357). -/
def execCawait (h : Hdr) (m : Multi) (s : State) : Out := .next (opCawait h (.multi m) s)

/-- CAWAIT_MEM (R357). -/
def execCawaitMem (h : Hdr) (m : Multi) (s : State) : Out := .next (opCawaitMem h (.multi m) s)

/-- CBAR (R357). -/
def execCbar (h : Hdr) (m : Multi) (s : State) : Out := .next (opCbar h (.multi m) s)

/-- CREL (R357). -/
def execCrel (h : Hdr) (m : Multi) (s : State) : Out := .next (opCrel h (.multi m) s)

/-- CSTAT (R357). -/
def execCstat (h : Hdr) (m : Multi) (s : State) : Out := .next (opCstat h (.multi m) s)

/-- EMSG (R357). -/
def execEmsg (h : Hdr) (m : Multi) (s : State) : Out := .next (opEmsg h (.multi m) s)

/-- ERECV (R357). -/
def execErecv (h : Hdr) (m : Multi) (s : State) : Out := .next (opErecv h (.multi m) s)

/-- CTIME (R357). -/
def execCtime (h : Hdr) (m : Multi) (s : State) : Out := .next (opCtime h (.multi m) s)

/-- CSTAMP (R357). -/
def execCstamp (h : Hdr) (m : Multi) (s : State) : Out := .next (opCstamp h (.multi m) s)

/-! ## Events -/

/-- CIRCUIT_MADE (R351). -/
def execCircuitMade (s : State) : Out := .next (circuitMade s.input.word s)
/-- CIRCUIT_BROKEN (R350). -/
def execCircuitBroken (s : State) : Out := .next (circuitBroken s.input.word s)
/-- PORT_TRAINED (R350). -/
def execPortTrained (s : State) : Out := .next (portTrained s.input.unit s)
/-- LOCK_TIMEOUT (R350). -/
def execLockTimeout (s : State) : Out := .next (lockTimeout s.input.unit s)
/-- IDENTITY_HANDSHAKE (R350). -/
def execIdentityHandshake (s : State) : Out := .next (handshake s.input.unit s.input.idx s.input.aux s)
/-- LOSS_OF_LOCK (R350). -/
def execLossOfLock (s : State) : Out := .next (lossOfLock s.input.unit s)
/-- PORT_DRAIN_DONE (R357). -/
def execPortDrainDone (s : State) : Out := .next (drainDone s.input.unit s)
/-- EMSG_RECEIVE (R357). -/
def execEmsgReceive (s : State) : Out := .next (emsgReceive s.input s)
/-- SCRIPT_WAIT_TIMEOUT (R357). -/
def execScriptWaitTimeout (s : State) : Out := .next (scriptTimeout s.input.unit s)

end Sys2Proof.Machine
end

