-- ==== Sys2Proof/Machine/Launch.lean ====
section
/-!
DEFINITION. From launches to resident groups: placement, gang reservations, completion of blocks, regroups, the stall
detector, and pre-emption (spec 02 R23, R37; 03 R51 to R56, R61 to R66; 22 R392 to R401; 09 R190, R204; 06 R119).
-/

namespace Sys2Proof.Machine

/-! ## Resources (R52, R53) -/

/-- The groups of a block of a launch (R49). -/
def Launch.n (l : Launch) : Nat := l.roles.foldl (fun n r => n + r.ng) 0
/-- The blocks of a launch. -/
def Launch.total (l : Launch) : Nat := (l.gx + 1) * (l.gy + 1) * (l.gz + 1)

/-- The role of a group: its number, its record and its first group (R13). -/
def roleOf (g : Nat) : List Role → Nat → Nat → Option (Nat × Role × Nat)
  | [], _, _ => none
  | r :: rs, i, first => if g < first + r.ng then some (i, r, first) else roleOf g rs (i + 1) (first + r.ng)

/-- The vector registers of a group. -/
def Launch.regsOf (l : Launch) (g : Nat) : Nat := match roleOf g l.roles 0 0 with | some (_, r, _) => r.vg | none => 0

/-- The groups of core `k` of a block on `c` cores (R52). -/
def shareGroups (n c k : Nat) : List Nat :=
  let m := ceilDiv n c
  (List.range (min n ((k + 1) * m) - k * m)).map (k * m + ·)

/-- Slots of a core that neither a group nor a block holds (R37). -/
def slotsFree (s : State) (core : Nat) : List Nat :=
  let held := s.blocks.flatMap fun (_, b) => if b.image.isNone then (b.shares.filter fun x => x.core = core).map Share.low else []
  (List.range 128).filter fun n => (s.group (gkey core n)).isNone && !held.contains n

/-- Vector registers of a core that no group holds (R53). -/
def regsFree (s : State) (core : Nat) : Nat :=
  6144 - (s.groups.filter fun (k, _) => k / 128 = core).foldl (fun n (_, g) => n + g.nv) 0

/-- Scratchpad of a core that no block holds (R53). -/
def scratchFree (s : State) (core : Nat) : Nat :=
  2 ^ 21 - (s.blocks.filter fun (_, b) => b.image.isNone && (b.share core).isSome).foldl (fun n (_, b) => n + (layoutOf s b).fin) 0

/-- The slot of a group among free ones (R54). -/
def slotFor (g : Nat) (free : List Nat) : Option Nat :=
  match free.find? fun n => n % 8 = g % 8 with
  | some n => some n
  | none => free.head?

/-- Slots for groups in ascending order, as many as there are free ones (R54). -/
def pickSlots : List Nat → List Nat → List Nat
  | [], _ => []
  | g :: gs, free => match slotFor g free with
    | some n => n :: pickSlots gs (free.filter (· ≠ n))
    | none => []

/-- What a share of a launch's block needs of registers. -/
def Launch.regsNeed (l : Launch) (gs : List Nat) : Nat := gs.foldl (fun n g => n + l.regsOf g) 0

/-- The place of a core in a reservation's target, with the groups it is to take. -/
def Reserve.groupsOn (r : Reserve) (l : Launch) (core : Nat) : List Nat :=
  match r.cores.findIdx? (· = core) with
  | some k => shareGroups l.n r.cores.length k
  | none => []

/-- What another launch's reservation claims on a core: slots, registers, scratchpad (R56). -/
def claimedOn (s : State) (me core : Nat) : List Nat × Nat × Nat :=
  match s.reserves.find? fun (_, r) => r.launch ≠ me && r.cores.contains core with
  | none => ([], 0, 0)
  | some (_, r) => match getN s.launches r.launch with
    | none => ([], 0, 0)
    | some l =>
      let gs := r.groupsOn l core
      (pickSlots gs (slotsFree s core), min (l.regsNeed gs) (regsFree s core), min l.layout.fin (scratchFree s core))

/-- The slots with which a core can take a share of a launch's block, if it can (R53, R56). -/
def canTake (s : State) (me : Nat) (l : Launch) (core : Nat) (gs : List Nat) : Option (List Nat) :=
  let (cs, cr, cb) := claimedOn s me core
  let slots := pickSlots gs ((slotsFree s core).filter fun n => !cs.contains n)
  if slots.length = gs.length && l.regsNeed gs + cr ≤ regsFree s core && l.layout.fin + cb ≤ scratchFree s core then some slots else none

/-- The cores of a cluster in ascending index. -/
def coresOf (cl : Nat) : List Nat := (List.range 4).map (coreOfCluster cl)
/-- The clusters of a tenant (R365). -/
def clustersOf (s : State) (t : Nat) : List Nat := (List.range 32).filter fun c => clusterTenant s c = some t

/-- An arrangement: cores with the groups and the slots they take. -/
abbrev Arrangement := List (Nat × List Nat × List Nat)

/-- Core `k` of the block goes to the next core that can take its share (R54). -/
def fitCores (s : State) (me : Nat) (l : Launch) (c : Nat) : Nat → List Nat → Option Arrangement
  | k, [] => if k = c then some [] else none
  | k, core :: rest =>
    if k = c then some []
    else
      let gs := shareGroups l.n c k
      match canTake s me l core gs with
      | some slots => (fitCores s me l c (k + 1) rest).map ((core, gs, slots) :: ·)
      | none => fitCores s me l c k rest

/-- The first arrangement that fits (R54). -/
def arrange (s : State) (me : Nat) (l : Launch) : Option Arrangement :=
  [1, 2, 3, 4].findSome? fun c => (clustersOf s l.tenant).findSome? fun cl => fitCores s me l c 0 (coresOf cl)

/-- A block fits on empty cores of a cluster (R55). -/
def everFits (s : State) (l : Launch) : Bool :=
  !(clustersOf s l.tenant).isEmpty && decide (l.layout.fin ≤ 2 ^ 21) &&
    [1, 2, 3, 4].any fun c => (List.range c).all fun k =>
      let gs := shareGroups l.n c k
      decide (gs.length ≤ 128) && decide (l.regsNeed gs ≤ 6144)

/-! ## Placing a block (R37, R51, R54) -/

/-- A group at its start (R51). -/
def newGroup (l : Launch) (blk g now : Nat) : Group :=
  let (i, r, first) := (roleOf g l.roles 0 0).getD (0, { entry := 0, ng := 1, vg := 16, sg := 16, nt := 0, persist := false }, 0)
  { block := blk, groupIdx := g, stage := i, first := if l.gang then first else 0, rolen := if l.gang then r.ng else l.n,
    prio := l.prio, persist := r.persist, supervisor := l.supervisor, tenant := l.tenant, nv := r.vg, ns := r.sg, nt := r.nt,
    trapEntry := l.trapEntry, tlsBase := l.tlsBase, tlsStride := w64 l.tlsStride,
    lanes := List.replicate 64 { pc := r.entry }, bundles := [{ mask := BitVec.allOnes 64, readyAt := now }],
    sregs := setZ [] 0 l.args, lastIssue := now }

/-- The groups of an arrangement, with their keys. -/
def placedGroups (s : State) (l : Launch) (blk : Nat) (a : Arrangement) : List (Nat × Group) :=
  a.flatMap fun (core, gs, slots) => (gs.zip slots).map fun (g, n) => (gkey core n, newGroup l blk g (s.core core).cycle)

/-- The lowest of a list of slots. -/
def lowestOf (ns : List Nat) : Nat := ns.foldl min (ns.headD 0)

/-- Place the next block of a launch (R51, R52). Its scratchpad reads 0: DESIGN CHOICE, assumption 1. -/
def placeBlock (id : Nat) (l : Launch) (a : Arrangement) (s0 : State) : State :=
  let (blk, s) := s0.fresh
  let gs := placedGroups s l blk a
  let b : Block :=
    { launch := id, index := l.next, tenant := l.tenant, cluster := clusterOf ((a.headD (0, [], [])).1), n := l.n,
      live := gs.map Prod.fst, shares := a.map fun (core, _, slots) => { core, low := lowestOf slots, slots } }
  { s with
    groups := gs.foldl (fun m (k, g) => putN m k g) s.groups
    blocks := putN s.blocks blk b
    launches := putN s.launches id { l with next := l.next + 1, ticket := none } }

/-! ## Gang reservations (R56) -/

/-- Ascending choices of `c` members of a list. -/
def choices : Nat → List Nat → List (List Nat)
  | 0, _ => [[]]
  | _ + 1, [] => []
  | c + 1, x :: xs => (choices c xs).map (x :: ·) ++ choices (c + 1) xs

/-- The resources of an arrangement that are not free: slots, register granules of 16 and scratchpad granules of 4 KiB. -/
def missing (s : State) (l : Launch) (cores : List Nat) : Nat :=
  (cores.zipIdx).foldl (fun n (core, k) =>
    let gs := shareGroups l.n cores.length k
    n + (gs.length - (slotsFree s core).length) + (ceilDiv (l.regsNeed gs - regsFree s core) 16) +
      (ceilDiv (l.layout.fin - scratchFree s core) 4096)) 0

/-- The arrangements of a launch on empty cores. -/
def targets (s : State) (l : Launch) : List (List Nat) :=
  ((clustersOf s l.tenant).flatMap fun cl => [1, 2, 3, 4].flatMap fun c => choices c (coresOf cl)).filter fun cores =>
    (List.range cores.length).all fun k =>
      let gs := shareGroups l.n cores.length k
      decide (gs.length ≤ 128) && decide (l.regsNeed gs ≤ 6144)

/-- The target arrangement (R56): the fewest resources not yet free, then the lowest CLUSTER. What counts as one resource, and
ties inside a cluster (fewer cores, then lower ones): DESIGN CHOICE, assumption 19. -/
def targetOf (s : State) (l : Launch) : Option (List Nat) :=
  (targets s l).foldl (fun b c => match b with
    | some d => if missing s l c < missing s l d then some c else b
    | none => some c) none

/-- Give the reservation of a tenant's clusters to the waiting block with the lowest ticket (R56). -/
def passReserve (t : Nat) (s : State) : State :=
  let s := { s with reserves := delN s.reserves t }
  let waiting := s.launches.filter fun (_, l) => l.tenant = t && l.ticket.isSome
  match waiting.foldl (fun (b : Option (Nat × Launch)) x => match b with
      | some y => if x.2.ticket.getD 0 < y.2.ticket.getD 0 then some x else b | none => some x) none with
  | none => s
  | some (id, l) => match targetOf s l with
    | some cores => { s with reserves := putN s.reserves t { launch := id, cores } }
    | none => s

/-- BLOCK_PLACE (R54 to R56): `idx` is the launch. A launch started earlier whose next block fits goes first. -/
def blockPlace (id : Nat) (s : State) : State :=
  match getN s.launches id with
  | none => s
  | some l =>
    let first := s.launches.any fun (j, m) =>
      decide (j < id) && m.tenant = l.tenant && decide (m.next < m.total) && m.ticket.isNone && (arrange s j m).isSome
    if l.total ≤ l.next || l.ticket.isSome || stopped s l.tenant || first then s
    else match arrange s id l with
      | some a => placeBlock id l a s
      | none =>
        if !l.gang then s
        else
          let (t, s) := s.fresh
          let s := { s with launches := putN s.launches id { l with ticket := some t } }
          if (getN s.reserves l.tenant).isSome then s else passReserve l.tenant s

/-- The target of a reservation with every claim met (R56). -/
def claimsMet (s : State) (id : Nat) (l : Launch) : List Nat → Nat → Nat → Option Arrangement
  | [], _, _ => some []
  | core :: rest, k, c =>
    let gs := shareGroups l.n c k
    match canTake s id l core gs with
    | some slots => (claimsMet s id l rest (k + 1) c).map ((core, gs, slots) :: ·)
    | none => none

/-- GANG_CLAIM (R56): `unit` is the tenant. What frees on the target is claimed at once. A target on a cluster that is the
tenant's no longer is given up (R365). -/
def gangClaim (t : Nat) (s : State) : State :=
  match getN s.reserves t with
  | none => s
  | some r => match getN s.launches r.launch with
    | none => passReserve t s
    | some l =>
      if !r.cores.all (fun c => clusterTenant s (clusterOf c) = some t) then passReserve t s
      else if stopped s t then s
      else match claimsMet s r.launch l r.cores 0 r.cores.length with
        | some a => passReserve t (placeBlock r.launch l a s)
        | none => s

/-! ## Completion (R37, R43) -/

/-- What the retired groups of a block have left behind. -/
def leftOf (s : State) (blk : Nat) : List (Nat × Group) := s.groups.filter fun (k, g) => decide (16384 ≤ k) && g.block = blk

/-- A store of a retired group to the scratchpad of its block waits in its store queue. -/
def scratchLeft (s : State) (blk : Nat) : Bool :=
  (leftOf s blk).any fun (_, g) => g.storeQ.any fun e => match e.dest with | .scratch _ _ => true | _ => false

/-- The last entry of a store queue or a commit order of a block's threads: once it is performed at scope sys, so is every
write before it (R43). -/
def drainMark (b : Block) (slot : Nat) : Store :=
  { id := 0, slot, tenant := b.tenant, rel := some 6, mark := some (.drained b.launch), fate := true }

/-- BLOCK_COMPLETE (R37, R43): `idx` is the block. Its slots and areas are released; its writes are performed at scope sys
before its launch completes. The device completes it when no store to its scratchpad is left (assumption 20). -/
def blockComplete (id : Nat) (s : State) : State :=
  match getN s.blocks id with
  | none => s
  | some b =>
    if b.image.isSome || !b.live.isEmpty || scratchLeft s id then s
    else
      let s := sweep s
      let left := leftOf s id
      let s := b.shares.foldl (fun s sh => commitEntry sh.core id (drainMark b 128) s) s
      let s := left.foldl (fun s (k, _) => s.updGroup k fun g => { g with storeQ := g.storeQ ++ [drainMark b (slotOf k)] }) s
      let s := { s with blocks := delN s.blocks id }
      match getN s.launches b.launch with
      | some l =>
        let l := { l with done := l.done + 1, pending := l.pending + b.shares.length + left.length }
        { s with launches := putN s.launches b.launch l }
      | none => s

/-! ## Regroup (R23) -/

/-- The lines that a bundle holds. -/
def Bundle.lines (b : Bundle) : List Nat := b.line.toList ++ b.line2.toList

/-- The copy of an instruction-buffer line that a bundle is inside: the one it holds that contains its program counter, the
second where its last instruction crossed into it (R143). -/
def insideOf (c : Core) (g : Group) (b : Bundle) : Option Nat :=
  b.lines.find? fun i => match getN c.ibuf i, lowest b.mask with
    | some l, some lane => decide ((g.lane lane).pc.toNat / 128 = l.vline)
    | _, _ => false

/-- The stale copy that a bundle is inside (R193, R414). -/
def staleIn (c : Core) (g : Group) (b : Bundle) : Option Nat :=
  (insideOf c g b).filter fun i => match getN c.ibuf i with | some l => l.stale | none => false

/-- Rebuild a group's bundles (R23, R34): held bundles stay apart (whatever holds them: DESIGN CHOICE, assumption 18), and so
do bundles inside a stale line from those that hold another copy (R414). -/
def Group.regroup (now : Nat) (c : Core) (g : Group) : Group :=
  let held := (g.bundles.filter fun b => b.hold.isSome).map fun b => { b with restored := false }
  let rest := g.bundles.filter fun b => b.hold.isNone
  let gone := held.foldl (fun m b => m ||| b.mask) (g.exited ||| g.parkedOn fun _ => true)
  let make (x : (W64 × Bool) × W64) : Bundle :=
    let old := rest.filter fun b => b.mask &&& x.2 ≠ 0
    let from_ := ((old.find? fun b => (insideOf c g b).isSome).orElse fun _ => old.head?).getD {}
    { mask := x.2, readyAt := old.foldl (fun n b => max n b.readyAt) now,
      age := old.foldl (fun n b => min n b.age) (old.headD {}).age, line := from_.line, line2 := from_.line2 }
  let inside := rest.filterMap fun b => (staleIn c g b).map fun i => (i, b.mask)
  let old (i : Nat) : W64 := inside.foldl (fun m x => if x.1 = i then m ||| x.2 else m) 0
  let olds := (sortNat (inside.map Prod.fst)).map old
  let fresh := ~~~(olds.foldl (· ||| ·) gone)
  { g with bundles := held ++ (olds ++ [fresh]).flatMap fun m => (classes g (lanesOf m)).map make }

/-- REGROUP (R23): `unit` is the core, `idx` the partition. -/
def regroupAt (core part : Nat) (s : State) : State :=
  let now := (s.core core).cycle
  if now % 4 ≠ 0 then s
  else
    let one (k : Nat) (g : Group) : Group := if k / 128 = core && k % 8 = part then g.regroup now (s.core core) else g
    { s with groups := s.groups.map fun (k, g) => (k, one k g) }

/-! ## The stall detector (R392 to R394) -/

/-- A matrix operation that adds to a counter of a core. -/
def MatCmd.adds (core c : Nat) : MatCmd → Bool
  | .store k _ _ _ _ ctr => k = core && ctr = some c
  | .quant _ _ row col ctr =>
    ctr = some c && ((match row with | some x => x.1.1 = core | none => false) || (match col with | some x => x.1.1 = core | none => false))
  | _ => false

/-- A bulk transfer will still add to its local counter (R336, R392): a push until its last packet is in custody. -/
def Xfer.adds (s : State) (id : Nat) (x : Xfer) : Bool :=
  x.pull || (!x.stopped && (List.range 4).any fun d => (x.seek d 5 (x.next.getD d 0)).isSome) ||
    s.stations.any fun (_, y) => y.pkts.any fun p =>
      p.st ≠ .custody && (match p.cargo with | .part i _ _ => i = id | _ => false)

/-- An operation of this device will still add to a counter of a block (R392). -/
def counterFed (s : State) (blk : Nat) (b : Block) (core c : Nat) : Bool :=
  let lows := b.shares.map fun sh => (sh.core, sh.low)
  let mine (o : Option (Nat × Nat)) : Bool := match o with | some x => lows.contains x | none => false
  let op (o : Op) : Bool := match o.kind with
    | .copy x => o.blk = blk && !x.idle && x.ctr = some c && (match x.dst with | .sp k _ => k = core | _ => false)
    | .fill f => (o.blk = blk && o.core = core && f.ictr = c) ||
        (f.tctr = c && f.cores.contains core && f.launch = b.launch)
    | .xfer x => o.blk = blk && x.adds s o.id && x.ctr = some c && (if x.pull then x.core = some core else o.core = core)
    | .mat _ m => o.blk = blk && m.adds core c
    | .msg _ _ _ => o.blk = blk
    | _ => false
  (s.ops.any fun (_, o) => op o) ||
  (s.spawned.any fun (p, _) => bitsOf p 23 17 = core && p % 256 = c && lows.contains (core, bitsOf p 30 24)) ||
  s.slices.any fun (_, x) => (x.ctxs.any fun t => t.busy && t.kind = 3 && mine t.origin) ||
    (x.queue ++ x.lateFills ++ x.holdBuf).any fun e => e.kind = 3 && mine e.origin

/-- A queue may still wake a `kpop` of a block (R392); with all tickets outstanding only one that is held outside the block may
(R405). -/
def queueFed (s : State) (blk q : Nat) : Bool :=
  let x := s.kcq q
  (decide (x.tickets.length < 4096) && (!x.waiting.isEmpty || x.spilled ≠ 0 || s.ops.any fun (_, o) => o.pushes q)) ||
    x.tickets.any fun t => t.2 ≠ blk

/-- The bit of a wait cause (R392). -/
def Park.bit : Park → Nat
  | .rejoin _ => 0 | .barrier _ => 1 | .monitor => 2 | .counter _ => 3 | .kpop => 4 | .translate _ => 5 | .stash _ => 5
  | .stream _ => 6 | .refill => 7

/-- A parked thread has a pending wake source (R392). -/
def wakePending (s : State) (blk : Nat) (b : Block) (k : Nat) (g : Group) : Park → Bool
  | .monitor => g.mwaitTill.isSome
  | .counter c => counterFed s blk b (c / 256) (c % 256)
  | .kpop => queueFed s blk (clusterOf (k / 128))
  | .translate _ => true
  | .stash _ => true
  | .refill => true
  | _ => false

/-- The groups of a block that are resident. -/
def groupsOf (s : State) (b : Block) : List (Nat × Group) := b.live.filterMap fun k => (s.group k).map fun g => (k, g)

/-- A block is stalled (R392). -/
def blockStalled (s : State) (blk : Nat) (b : Block) : Bool :=
  let gs := groupsOf s b
  b.image.isNone && (gs.any fun (_, g) => g.exited ≠ BitVec.allOnes 64) &&
    gs.all fun (k, g) => (lanesOf (~~~g.exited)).all fun l =>
      match (g.lane l).park with | some p => !wakePending s blk b k g p | none => false

/-- How a block's groups stand: what changes when a thread unparks (R394). -/
def parkedNow (s : State) (b : Block) : List (Nat × W64 × Nat) :=
  (groupsOf s b).map fun (k, g) => (k, g.parkedOn fun _ => true, g.lastIssue)

/-- The detector of a block at a clock (R393, R394): it is armed again when a thread has unparked since its report. -/
def stallStep (s : State) (blk now : Nat) (b : Block) : StallWatch :=
  let w := if b.stall.reported && b.stall.seen ≠ parkedNow s b then {} else b.stall
  { w with since := if blockStalled s blk b then (w.since.orElse fun _ => some now) else none }

/-- Core `k` = 0 of a block tests the condition at the end of its clock (R393, R394). -/
def stallTick (core : Nat) (s : State) : State :=
  let now := (s.core core).cycle
  let upd (blk : Nat) (b : Block) : Block :=
    if (b.shares.headD { core := 128, low := 0, slots := [] }).core ≠ core || b.image.isSome then b
    else { b with stall := stallStep s blk now b }
  { s with blocks := s.blocks.map fun (k, b) => (k, upd k b) }

/-- The record of a stalled block (R393). With no group left on core `k` = 0 it names the lowest slot that the block has there
and no lanes: DESIGN CHOICE, assumption 20. -/
def stallRec (s : State) (b : Block) (core : Nat) : FaultRec :=
  let gs := groupsOf s b
  let here := gs.filter fun (k, _) => k / 128 = core
  let low := match b.share core with | some sh => sh.low | none => 0
  let slot := if here.isEmpty then low else lowestOf (here.map fun (k, _) => k % 128)
  let causes := gs.flatMap fun (_, g) => (lanesOf (~~~g.exited)).filterMap fun l => (g.lane l).park.map Park.bit
  { cause := 0x20, src := 0, unit := slot * 128 + core,
    laneMask := match here.find? fun x => x.1 = gkey core slot with
      | some (_, g) => (g.parkedOn fun _ => true) &&& ~~~g.exited
      | none => 0
    addr := w64 b.index, info1 := maskOf (sortNat causes), tenant := b.tenant }

/-- BLOCK_STALL (R393): `idx` is the block. -/
def blockStall (id : Nat) (s : State) : State :=
  match getN s.blocks id with
  | none => s
  | some b =>
    let core := (b.shares.headD { core := 128, low := 0, slots := [] }).core
    match b.stall.since with
    | none => s
    | some t =>
      if b.stall.reported || !blockStalled s id b || (s.core core).cycle < t + 65536 then s
      else postRec (stallRec s b core)
        (s.updBlock id fun b => { b with stall := { b.stall with reported := true, seen := parkedNow s b } })

/-! ## Saving (R61 to R65) -/

/-- The tenants that a request names (R61, R364). -/
def preemptTenants (w : W64) : List Nat := if w.getLsbD 4 then List.range 16 else [fld w 3 0]

/-- PREEMPT as it reads (R364). -/
def preemptBusy (b : Bool) (s : State) : State :=
  { s with regs := { s.regs with preempt := (s.regs.preempt &&& ~~~32) ||| (if b then 32 else 0) } }

/-- PREEMPT reads as it was written (R364): bits 15:7 are 0. -/
def preemptReads (w : W64) (s : State) : State := { s with regs := { s.regs with preempt := w &&& 0xffffffffffff005f } }

/-- Ask for a save of tenants (R61, R364): one that arrives during a save is merged into it and uses its area; one that arrives
during a restore starts when the restore has ended: DESIGN CHOICE, assumption 21. -/
def askSave (w : W64) (s : State) : State :=
  let ts := preemptTenants w
  let area := fld w 63 16 * 65536
  match s.job with
  | none => preemptBusy true (preemptReads w { s with job := some { restore := false, tenants := ts, area } })
  | some j =>
    if j.restore then
      let n := match j.next with | some (us, a, v) => (sortNat (us ++ ts), a, v) | none => (ts, area, w)
      { s with job := some { j with next := some n } }
    else { s with job := some { j with tenants := sortNat (j.tenants ++ ts) } }

/-- Step 3 of R62 is over for one group: nothing of it is on its way but what the image keeps; its stores are performed, so that
none of them meets a fault when it is gone (R387). -/
def groupQuiet (s : State) (k : Nat) (g : Group) : Bool :=
  g.storeQ.isEmpty && !(s.core (k / 128)).commitQ.any (fun e => e.slot = k % 128) && !storesOut s k &&
    (accsOf s (k / 128) (k % 128)).all fun a => a.parked || (match a.kind with | .stampw _ _ _ => true | _ => false)

/-- Step 3 of R62 is over for one engine operation of a block: a `qpost` has given its status, or a translation wait holds it
(R246). -/
def opQuiet (s : State) (o : Op) : Bool :=
  match o.kind with
  | .copy c => (match c.dst with | .peer _ => !c.out.any Slice4K.flying | _ => c.out.isEmpty)
  | .xfer _ => !xferOut s o.id
  | .mat _ _ => (match (s.mat (clusterOf o.core)).pass with | some (i, _) => i ≠ o.id || passDelayed s (clusterOf o.core) o.core | none => true) &&
      (match (s.mat (clusterOf o.core)).port with | some (i, _) => i ≠ o.id | none => true)
  | .post q _ _ => (match walk s o.die o.tenant ((s.queue q).at (s.queue q).write) with
      | .wait _ _ => true
      | .found x => (match resolve s x ((s.queue q).at (s.queue q).write) with | .pri _ => true | _ => false)
      | .fault _ => false)
  | _ => true

/-- An access is the fill of a stash entry of a block (R79). -/
def Access.fills (a : Access) (blk : Nat) : Bool := match a.kind with | .stashFill b _ _ => b = blk | _ => false

/-- A block can be sealed (R62). -/
def canSeal (s : State) (id : Nat) (b : Block) : Bool :=
  ((leftOf s id).all fun (k, g) => !inFlight s k g) && (s.accs.all fun (_, a) => !a.fills id || a.parked) && ((groupsOf s b).all fun (k, g) => groupQuiet s k g) && s.ops.all fun (_, o) => o.blk ≠ id || opQuiet s o

/-- Instructions of a group whose effect is incomplete and that issue again after a restore: their lanes and address, the
operation or access that a save cancels (R204, R255). Every lane that issued one goes back to it, but one that is no longer in a
bundle and one that has entered or left trap mode since (R383); where none goes back the operation stays and its image keeps
it: DESIGN CHOICE, assumption 23. -/
def againOf (s : State) (k : Nat) (g : Group) : List (W64 × W64 × Nat) :=
  let live (trap : Bool) : W64 := g.bundles.foldl (fun m b => if g.trappedIn b.mask = trap then m ||| b.mask else m) 0
  let held := g.bundles.filterMap fun b => match b.hold with
    | some (.op id) => (getN s.ops id).map fun o => (b.mask, o.pc, id)
    | _ => none
  let reads := s.ops.filterMap fun (i, o) => match o.kind with
    | .pgmode _ _ _ _ _ =>
      if gkey o.core o.slot = k && o.lanes &&& live o.trap ≠ 0 then some (o.lanes &&& live o.trap, o.pc, i) else none
    | _ => none
  let watches := s.accs.filterMap fun (i, a) => match a.kind with
    | .stampw _ act trap => if gkey a.core a.slot = k && act &&& live trap ≠ 0 then some (act &&& live trap, a.pc, i) else none
    | _ => none
  held ++ reads ++ watches

/-- A group as its image keeps it (R38, R204): counts that run are kept as what remains of them; an instruction that is
incomplete stands at its own address, to be issued again. -/
def imageOf (s : State) (k : Nat) (g : Group) : Group :=
  let now := (s.core (k / 128)).cycle
  let left (t : Nat) : Nat := t - now
  let redo := againOf s k g
  let naps := g.bundles.filterMap fun b => match b.hold with | some (.sleep t pc) => some (b.mask, left t, pc) | _ => none
  let back (g : Group) (m pc : W64) : Group := g.updLanes m fun _ x => { x with pc }
  let g := redo.foldl (fun g x => (back g x.1 x.2.1).dropScore x.2.2 (BitVec.allOnes 64)) g
  let g := naps.foldl (fun g x => back g x.1 x.2.2) g
  let keep (b : Bundle) : Bundle := { b with
    readyAt := left b.readyAt, line := none, line2 := none
    hold := match b.hold with | some (.sleep _ _) => none | some (.op _) => none | h => h }
  { g with bundles := g.bundles.map keep, pend := [], score := g.score.filter fun e => e.till.isNone, yieldUntil := 0,
           mwaitTill := g.mwaitTill.map left, naps := g.naps ++ naps.map fun x => (x.1, x.2.1) }

/-- A push that issues again takes back the increment that its release has made (R273). -/
def withdraw (o : Op) (s : State) : State :=
  match o.kind with
  | .push _ r _ => if o.ready then parentAdd r.parent (· - 1) s else s
  | _ => s

/-- The bytes of a list of words of 4 or 8 bytes, by offset. -/
def wordBytes (n : Nat) (m : List (Nat × Nat)) : List (Nat × Byte) :=
  m.flatMap fun (k, w) => (toBytes n w).zipIdx.map fun (b, i) => (n * k + i, b)

/-- The parts of a group's image, each with its length (R38, R62): of each lane its address, trap registers and stack; the exited
and rejoin masks; predicates; buffer records; vector and scalar registers. -/
def groupParts (g : Group) : List (Nat × List (Nat × Byte)) :=
  let lane (x : Lane) : List (Nat × Nat) :=
    ([x.pc, x.trapPc, x.trapCause, x.trapInfo0, x.trapInfo1] ++ x.stack).zipIdx.map fun (w, i) => (i, w.toNat)
  let file {w : Nat} (at_ : Nat) (m : ZMap w) : List (Nat × Nat) := m.map fun (k, x) => (at_ + k, x.toNat)
  (g.lanes.map fun x => (104, wordBytes 8 (lane x))) ++
  [(264, wordBytes 8 ((0, g.exited.toNat) :: file 1 g.jexp ++ file 17 g.jarr)), (128, wordBytes 8 (file 0 g.pregs)),
   (256, wordBytes 16 (file 0 g.mrecs)), (256 * g.nv, wordBytes 4 (file 0 g.vregs)), (8 * g.ns, wordBytes 8 (file 0 g.sregs))]

/-- The parts of a block's image, each with its length: scratchpads and arrival counters, queue words, groups, tiles (R62). -/
def imageParts (b : Block) (fin nctr : Nat) (gs : NMap Group) (tiles : NMap (ZMap 32)) : List (Nat × List (Nat × Byte)) :=
  let file {w : Nat} (m : ZMap w) : List (Nat × Nat) := m.map fun (k, x) => (k, x.toNat)
  (b.shares.flatMap fun sh => [(fin, sh.scratch), (8 * nctr, wordBytes 8 (file sh.ctrVal)), (8 * nctr, wordBytes 8 (file sh.ctrTgt))]) ++
  [(512, wordBytes 16 (file b.qcws))] ++ (gs.flatMap fun (_, g) => groupParts g) ++ tiles.map fun (_, t) => (65536, wordBytes 4 (file t))

/-- Write the parts of an image upward from an address. -/
def writeParts : Nat → List (Nat × List (Nat × Byte)) → ZMap 8 → ZMap 8
  | _, [], m => m
  | a, (n, p) :: ps, m =>
    let m := m.filter fun (x, _) => !(decide (a ≤ x) && decide (x < a + n))
    writeParts (a + n) ps (p.foldl (fun m (i, v) => setZ m (a + i) v) m)

/-- Every tile that a saved block uses: bound, or named by its operations (R288, R298). -/
def blockTiles (s : State) (id : Nat) (b : Block) : List Nat :=
  sortNat (((groupsOf s b).flatMap fun (_, g) => g.tiles.flatMap fun t => t.2.1) ++
    s.ops.flatMap fun (_, o) => if o.blk = id then (match o.kind with | .mat ts _ => ts | _ => []) else [])

/-- Errors in the scratchpad and the tiles that a save reads (R390): counted and posted once for the block; what is written in the
save area is not marked. DESIGN CHOICE, assumption 32. -/
def saveErrors (id : Nat) (b : Block) (s : State) : State :=
  let ts := blockTiles s id b
  let mine (x : Spot) : Bool := match x with
    | .scratch k _ _ => k = id | .tile c t _ => c = b.cluster && ts.contains t | _ => false
  if s.errs.any mine then
    clearErrs mine (postRec { cause := cECC, src := 3, tenant := b.tenant } (countError cECC s))
  else s

/-- Seal a block and write its image (R62, R64). The image that a restore reads is the block's own (the layout of the save area
belongs to the device, and software must not change it, R63); its bytes go to the save area one part after the other: DESIGN
CHOICE, assumption 22. -/
def sealBlock (id : Nat) (b : Block) (j : Preempt) (s : State) : State :=
  let gs := groupsOf s b
  let area := j.area
  let again := gs.flatMap fun (k, g) => (againOf s k g).map fun x => x.2.2
  let mine (a : Access) : Bool := ((a.slot ≠ 128 && b.live.contains a.gk) || a.fills id) && !again.contains a.id
  let m := s.mat b.cluster
  let tiles : NMap (ZMap 32) := (blockTiles s id b).foldl (fun t n => putN t n ((getN m.tiles n).getD [])) []
  let share (sh : Share) : Share := { sh with sealed := true }
  let img : NMap Group := gs.foldl (fun t (k, g) => putN t k (imageOf s k g)) []
  let idle (m : Matrix) : Matrix :=
    { m with pass := m.pass.bind fun p => if (getN s.ops p.1).map (·.blk) = some id then none else some p }
  let s := (s.ops.filter fun (i, _) => again.contains i).foldl (fun s (_, o) => withdraw o s) (saveErrors id b (s.updMat b.cluster idle))
  let b := (getN s.blocks id).getD b
  let parts := imageParts b (layoutOf s b).fin (layoutOf s b).nctr img tiles
  let first := area + j.used
  let len := parts.foldl (fun n p => n + p.1) 0
  { s with
    mem := writeParts first parts s.mem
    ecc := s.ecc.filter fun g => !(decide (first ≤ 8 * g) && decide (8 * g + 8 ≤ first + len))
    job := some { j with used := j.used + len }
    groups := s.groups.filter fun (k, _) => !b.live.contains k
    accs := s.accs.filter fun (i, a) => !mine a && !again.contains i
    ops := s.ops.filter fun (i, _) => !again.contains i
    blocks := putN s.blocks id { b with
      image := some img, accsImage := (s.accs.map Prod.snd).filter mine, tileImage := tiles, area, span := (first, len), stall := { b.stall with since := none }
      shares := b.shares.map share } }

/-- The clusters whose queues a save takes (R61, R65). -/
def savedClusters (s : State) (j : Preempt) : List Nat :=
  (List.range 32).filter fun c => match clusterTenant s c with | some t => j.tenants.contains t | none => false

/-- A save ends when every block and queue is saved, and every command of the tenants has finished the slice or packet that it
was at (R62). -/
def endSave (j : Preempt) (s : State) : State :=
  if (s.blocks.any fun (_, b) => j.tenants.contains b.tenant && b.image.isNone) ||
      (s.ops.any fun (_, o) => j.tenants.contains o.tenant && !opQuiet s o) then s
  else
    let s := (savedClusters s j).foldl (fun s q => s.updKcq q fun x => { x with saved := true }) s
    preemptBusy false { s with job := none, saved := sortNat (s.saved ++ j.tenants) }

/-- PREEMPT_SAVE (R61, R62, R364): `aux` 0 takes the request `word`; 1 seals block `idx`; 2 ends the save. -/
def preemptSave (x : Input) (s : State) : State :=
  match x.aux with
  | 0 => if x.word.getLsbD 6 then s else askSave x.word s
  | 1 =>
    (match s.job, getN s.blocks x.idx with
     | some j, some b =>
       if j.restore || !j.tenants.contains b.tenant || b.image.isSome || !canSeal s x.idx b then s else sealBlock x.idx b j s
     | _, _ => s)
  | _ => (match s.job with | some j => if j.restore then s else endSave j s | none => s)

/-- TIME_SLICE_EXPIRY (R61): `unit` is the tenant, `word` the save area. -/
def timeSlice (t : Nat) (area : W64) (s : State) : State :=
  if 16 ≤ t then s else askSave ((area &&& 0xffffffffffff0000) ||| w64 t) s

/-! ## Restoring (R66, R401) -/

/-- The saved blocks that a restore loads. -/
def restoring (s : State) (b : Block) : Bool :=
  match s.job with
  | some j => j.restore && b.image.isSome && b.area = j.area && j.tenants.contains b.tenant
  | none => false

/-- A restore ends when every block of it is placed; a save that was asked for meanwhile begins. -/
def endRestore (s : State) : State :=
  if s.blocks.any fun (_, b) => restoring s b then s
  else
    let ts := match s.job with | some j => j.tenants | none => []
    let done : State := { s with job := none, saved := s.saved.filter fun t => !ts.contains t }
    match s.job.bind Preempt.next with
    | some (us, area, w) => preemptBusy true (preemptReads w { done with job := some { restore := false, tenants := us, area } })
    | none => preemptBusy false done

/-- A queue is restored (R66): records of its image that are in error are discarded, and their granules counted (R401). -/
def restoreQueue (q : Nat) (s : State) : State :=
  let bad (e : Nat) : Bool := krecBad s q e
  let lost := (s.kcq q).waiting.filter fun y => bad y.1
  let n := (lost.map fun y => (s.errs.filter fun x => match x with | .krec p e _ => p = q && e = y.1 | _ => false).length).foldl (· + ·) 0
  let sets := (((s.kcq q).sets.map fun (k, ws) => (k, ws.filter fun w => !bad w.1)).filter fun y => !y.2.isEmpty)
  let s := lost.foldl (fun s y => loseRecord y.2 s) s
  clearErrs (fun x => match x with | .krec p _ _ => p = q | _ => false)
    { s.updKcq q fun x => { x with saved := false, sets } with regs := { s.regs with ueCnt := s.regs.ueCnt + w64 n } }

/-- The restore that has been asked for begins (R66): arrivals for its blocks are held from now on. One that has begun stays as it
is. -/
def beginRestore (s : State) : State :=
  match s.job with
  | some j =>
    if !j.restore then s
    else
      let load (sh : Share) : Share := { sh with loading := true }
      let upd (b : Block) : Block := if restoring s b then { b with shares := b.shares.map load } else b
      let s := { s with blocks := s.blocks.map fun (k, b) => (k, upd b) }
      endRestore ((savedClusters s j).foldl (fun s q => restoreQueue q s) s)
  | none => s

/-- PREEMPT_RESTORE (R66, R364): `word` is the value written. A stopped device takes it and begins when it resumes (R369). -/
def preemptRestore (w : W64) (s : State) : State :=
  if !w.getLsbD 6 || s.job.isSome then s
  else
    let j : Preempt := { restore := true, tenants := preemptTenants w, area := fld w 63 16 * 65536 }
    let s := preemptBusy true (preemptReads w { s with job := some j })
    if s.regs.thermStat.getLsbD 0 then s else beginRestore s

/-- What a saved block held is free again (R66). -/
def placesFree (s : State) (b : Block) (img : NMap Group) : Bool :=
  b.shares.all fun sh =>
    let gs := img.filter fun (k, _) => k / 128 = sh.core
    (slotsFree s sh.core).contains sh.low && gs.all (fun (k, _) => (slotsFree s sh.core).contains (k % 128)) &&
      decide (gs.foldl (fun n (_, g) => n + g.nv) 0 ≤ regsFree s sh.core) && decide ((layoutOf s b).fin ≤ scratchFree s sh.core)

/-- A physical tile under its new number. -/
def retile (m : List (Nat × Nat)) (t : Nat) : Nat := match m.find? fun x => x.1 = t with | some x => x.2 | none => t

/-- A group as it is placed again (R38, R190, R204): counts go on, its bundles wait for the first regroup, an ARMED monitor is
TRIGGERED and wakes `mwait`. -/
def wakeImage (s : State) (m : List (Nat × Nat)) (k : Nat) (g : Group) : Group :=
  let now := (s.core (k / 128)).cycle
  let back (b : Bundle) : Bundle := { b with readyAt := now + b.readyAt, restored := true }
  let tile (x : Nat × List Nat × Nat) : Nat × List Nat × Nat := (x.1, x.2.1.map (retile m), x.2.2)
  let g := { g with
    bundles := g.bundles.map back, lastIssue := now, mwaitTill := g.mwaitTill.map (now + ·), tiles := g.tiles.map tile }
  match g.monitor with
  | .armed l =>
    let w := g.parkedOn fun c => c = .monitor
    { g.unpark w with monitor := if w = 0 then .triggered l else .disarmed, mwaitTill := none }
  | _ => g

/-- A saved wait on a page of the host tier is walked again as any other (R119). -/
def Access.asWait (a : Access) : Access :=
  { a with reqs := a.reqs.map fun r => match r.tr with | .pri _ => { r with tr := .wait } | _ => r }

/-- The walker walks each saved wait once, and posts no demand again (R119): a wait that meets a full queue enters it when a place
frees (R116). -/
def rewalk (a : Access) (s : State) : State :=
  a.reqs.foldl (fun s r => if r.tr.waits then askAgain (dieOf a.core) a.tenant ((r.va % 2 ^ 53) / 2 ^ 16) s else s) s

/-- A request that was refused while it was saved: its lanes enter trap mode (R417). -/
def failSaved (a : Access) (s : State) : State :=
  match a.reqs.findSome? fun r => r.tr.cause with
  | none => s
  | some c => match a.kind with
    | .stashFill blk win e => failFill a blk win e c s
    | _ => failParked a c (fun r => r.tr.cause.isSome) (fun r => w64 r.va) s

/-- Place a saved block again (R66). -/
def restoreBlock (id : Nat) (b : Block) (img : NMap Group) (s : State) : State :=
  let old := b.tileImage.map Prod.fst
  match freeTiles s b.cluster old.length with
  | none => s
  | some new =>
    let m := old.zip new
    let share (sh : Share) : Share := { sh with sealed := false, loading := false }
    let op (o : Op) : Op := match o.kind with
      | .mat ts c => if o.blk = id then { o with kind := .mat (ts.map (retile m)) c } else o
      | .copy c => if o.blk = id then { o with kind := .copy { c with since := s.fabric.clock } } else o
      | _ => o
    let seen (y : Nat × W64 × Nat) : Nat × W64 × Nat := (y.1, y.2.1, (s.core (coreOf y.1)).cycle)
    let s := s.updMat b.cluster fun x => { x with tiles := b.tileImage.foldl (fun t (n, v) => putN t (retile m n) v) x.tiles }
    let s := { s with
      groups := img.foldl (fun gs (k, g) => putN gs k (wakeImage s m k g)) s.groups
      accs := b.accsImage.foldl (fun t a => putN t a.id a.asWait) s.accs
      ops := s.ops.map fun (i, o) => (i, op o)
      blocks := putN s.blocks id { b with image := none, accsImage := [], tileImage := [], shares := b.shares.map share, stall := { b.stall with seen := b.stall.seen.map seen } } }
    let s := ((b.accsImage.map Access.asWait).filter Access.parked).foldl (fun s a => failSaved a (rewalk a s)) s
    let s := b.shares.foldl (fun s sh => (List.range 256).foldl (fun s c => counterTest id sh.core c s) s) s
    endRestore (pumpMatrix b.cluster (barrierAll id s))

/-- A granule of a block's image in error (R401): the block is not restored and its launch never completes. -/
def loseBlock (id : Nat) (b : Block) (granule : W64) (s : State) : State :=
  let s := postRec { cause := cECC, src := 3, addr := granule, tenant := b.tenant } (countError cECC s)
  endRestore { s with blocks := delN s.blocks id, ops := s.ops.filter fun (_, o) => o.blk ≠ id }

/-- The lowest granule in error of a block's image, by its address in the save area (R401). -/
def imageError (s : State) (b : Block) : Option Nat :=
  ((sortNat (s.ecc.filter fun g => decide (b.span.1 ≤ 8 * g + 7) && decide (8 * g < b.span.1 + b.span.2))).head?).map (8 * ·)

/-- RESTORE_BLOCK_PLACE (R66, R401): `idx` is the block. -/
def restorePlace (x : Input) (s : State) : State :=
  match getN s.blocks x.idx with
  | none => s
  | some b => match b.image with
    | none => s
    | some img =>
      if !restoring s b then s
      else match imageError s b with
        | some a => loseBlock x.idx b (w64 a) s
        | none => if placesFree s b img then restoreBlock x.idx b img s else s

/-! ## Events -/

/-- BLOCK_PLACE (R54). -/
def execBlockPlace (s : State) : Out := .next (blockPlace s.input.idx s)
/-- GANG_CLAIM (R56). -/
def execGangClaim (s : State) : Out := .next (gangClaim s.input.unit s)
/-- BLOCK_COMPLETE (R37). -/
def execBlockComplete (s : State) : Out := .next (blockComplete s.input.idx s)
/-- REGROUP (R23). -/
def execRegroup (s : State) : Out := .next (regroupAt s.input.unit s.input.idx s)
/-- BLOCK_STALL (R393). -/
def execBlockStall (s : State) : Out := .next (blockStall s.input.idx s)
/-- PREEMPT_SAVE (R62). -/
def execPreemptSave (s : State) : Out := .next (preemptSave s.input s)
/-- PREEMPT_RESTORE (R66). -/
def execPreemptRestore (s : State) : Out := .next (preemptRestore s.input.word s)
/-- RESTORE_BLOCK_PLACE (R66). -/
def execRestoreBlockPlace (s : State) : Out := .next (restorePlace s.input s)
/-- TIME_SLICE_EXPIRY (R61). -/
def execTimeSliceExpiry (s : State) : Out := .next (timeSlice s.input.unit s.input.word s)

end Sys2Proof.Machine
end

