-- ==== Sys2Proof/Machine/Packet.lean ====
section
/-!
DEFINITION. The command processor: the heads of the command queues, the packet kinds, and completion (spec 03 R39 to R50, R55; 04
R85; 12 R275; 15 R337, R339; 16 R356; 22 R396).
-/

namespace Sys2Proof.Machine

/-! ## Packets (R42, R44) -/

/-- Bits of a packet. -/
def pfld (v off n : Nat) : Nat := bitsOf v (off + n - 1) off

/-- The header's fields, as offset and width in bits (R42). -/
def headerFields : List (Nat × Nat) := [(0, 8), (8, 1), (9, 1), (448, 64)]

/-- The fields of a kind (R45 to R48, R85, R275, R337, R339, R356); every other bit is reserved. -/
def bodyFields : Nat → Option (List (Nat × Nat))
  | 0 => some []
  | 1 => some [(16, 2), (18, 1), (32, 16), (48, 16), (64, 16), (80, 8), (88, 6), (96, 4), (100, 4), (112, 16), (128, 64), (192, 64),
      (256, 16), (272, 16), (288, 16), (304, 16), (320, 64), (384, 64)]
  | 2 => some [(16, 2), (32, 16), (48, 16), (64, 16), (80, 2), (112, 16), (128, 64), (192, 64), (256, 16), (272, 16), (288, 16),
      (304, 16), (320, 64), (384, 64)]
  | 3 => some [(16, 3), (19, 1), (64, 64), (128, 64), (192, 64)]
  | 4 => some [(16, 2), (18, 1), (64, 64), (128, 64)]
  | 5 => some [(64, 64)]
  | 6 => some [(16, 1), (32, 16), (64, 32), (128, 64), (192, 64), (256, 64), (320, 64)]
  | 7 => some [(16, 1), (17, 2), (24, 4), (32, 16), (48, 5), (56, 4), (64, 22), (96, 24), (120, 5), (128, 64), (192, 64), (256, 64)]
  | 8 => some [(16, 1), (32, 16), (48, 5), (64, 64), (128, 64), (192, 24)]
  | 9 => some [(32, 32), (64, 64), (128, 32), (192, 64), (256, 64), (320, 64)]
  | 10 => some [(16, 5), (24, 1), (25, 1), (26, 1), (27, 1), (32, 16), (64, 64), (128, 8), (192, 256)]
  | _ => none

/-- A packet's kind. -/
def pkind (v : Nat) : Nat := v % 256

/-- A packet has a defined KIND and no nonzero reserved field (R44). -/
def wellKind (v : Nat) : Bool :=
  match bodyFields (pkind v) with
  | none => false
  | some fs => (headerFields ++ fs).foldl (fun x (o, n) => x - pfld v o n * 2 ^ o) v = 0

/-- The head of a queue: position, address, tenant and contents. -/
structure Pkt where
  q : Nat
  pos : Nat
  addr : Nat
  tenant : Nat
  v : Nat
  deriving DecidableEq, Repr

/-- Set HALT with one record (R40, R44, R396) and the vector of the queue (R360). -/
def haltQueue (q cause pc addr : Nat) (s : State) : State :=
  let s := s.updQueue q fun x => { x with ctl := x.ctl ||| 2, waiting := false, fence := none }
  let s := postRec { cause, src := 3, unit := q, pc := w64 pc, addr := w64 addr, tenant := (s.queue q).tenant } s
  { s with msix := s.msix ++ [q] }

/-- The packet at the head waits. -/
def holdHead (q : Nat) (s : State) : State := s.updQueue q fun x => { x with waiting := true }

/-- A packet meets a translation wait (R40, R45): its queue is held until the PTE write. -/
def headWaits (p : Pkt) (va : Nat) (write : Bool) (s : State) : State :=
  agentWait 0 p.tenant va { cause := cTRANSLATE, write, src := 3, unit := p.q, pc := w64 p.addr, addr := w64 va, tenant := p.tenant } (holdHead p.q s)

/-- A span that a packet needs is not there: it is held, or its queue halts (R40, R45, R356). -/
def headBad {α : Type} (p : Pkt) (e : Except Prep α) (s : State) : State :=
  match e with
  | .error (.wait va w) => headWaits p va w s
  | .error (.bad 0 _ _) => s
  | .error (.bad c va _) => haltQueue p.q c p.addr va s
  | _ => s

/-- A queue would be served at its turn: its head is a packet that has not been met (R41). -/
def wantsTurn (s : State) (q : Nat) : Bool :=
  let x := s.queue q
  x.enabled && !x.halted && decide (x.count ≠ 0) && !stopped s x.tenant && !x.waiting

/-- Round robin (R41): no queue between the one whose turn is next and this one is to be served first. -/
def onTurn (s : State) (q : Nat) : Bool :=
  let place (n : Nat) : Nat := (n + 64 - s.qturn % 64) % 64
  (List.range 64).all fun n => decide (place q ≤ place n) || !wantsTurn s n

/-- The turn passes to the queue after one that has been served (R41). -/
def passTurn (q : Nat) (s : State) : State := { s with qturn := (q + 1) % 64 }

/-- The packet at the head of a queue that may be served: read, or held, or refused (R40, R41). An address of the ring on a peer
halts the queue with TRANSLATE: DESIGN CHOICE, assumption 41. -/
def readHead (q : Nat) (s : State) : Option Pkt × State :=
  let x := s.queue q
  let addr := x.at x.read
  let p (v : Nat) : Pkt := { q, pos := x.read, addr, tenant := x.tenant, v }
  if !x.enabled || x.halted || x.count = 0 || stopped s x.tenant then (none, s)
  else if x.base.getLsbD 0 then (some (p (readNat s.mem (hostAt addr) 64)), s)
  else if nodeOf addr ≠ s.regs.nodeId then (none, haltQueue q cTRANSLATE addr addr s)
  else match readSpan x.tenant addr 64 s with
    | (.ok bs, s) => (some (p (ofBytes bs)), s)
    | (e, s) => (none, headBad (p 0) e s)

/-- Serve the head of a queue at its turn (R41): the packet that is picked acts, and the turn passes; one that is not picked
leaves all as it was, and a head that cannot be read is held or halts the queue. -/
def serveHead (q : Nat) (pick : Pkt → Bool) (act : Pkt → State → State) (s0 : State) : State :=
  if !onTurn s0 q then s0
  else match readHead q s0 with
    | (none, s) => passTurn q s
    | (some p, s) => if pick p then passTurn q (act p s) else s0

/-- The packet takes the ILLEGAL fate of R44. -/
def packetBad (p : Pkt) (s : State) : State := haltQueue p.q cILLEGAL p.addr 0 s

/-- Every earlier packet of the queue has completed (R42). -/
def orderedOk (p : Pkt) (s : State) : Bool := pfld p.v 8 1 = 0 || (s.queue p.q).runs.all Run.done

/-- A packet starts (R43, R44): its id. -/
def startRun (p : Pkt) (done : Bool) (s : State) : Nat × State :=
  let (id, s) := s.fresh
  let r : Run := { id, pos := p.pos, kind := pkind p.v, stamp := if pfld p.v 9 1 = 1 then some (pfld p.v 448 64) else none,
                   addr := p.addr, done }
  (id, s.updQueue p.q fun x => { x with read := x.read + 1, waiting := false, fence := none, runs := x.runs ++ [r] })

/-- A packet that starts and completes at once. -/
def startDone (p : Pkt) (s : State) : State := (startRun p true s).2

/-- An address of a packet lies on this node. -/
def packetHere (s : State) (va : Nat) : Bool := nodeOf va = s.regs.nodeId && decide (va < 2 ^ 63)

/-! ## WAIT, SIGNAL and FENCE (R45 to R47) -/

/-- The condition of a WAIT (R45). -/
def waitHolds (v x : Nat) : Bool :=
  let m := if pfld v 192 64 = 0 then 2 ^ 64 - 1 else pfld v 192 64
  let a := x &&& m
  let b := pfld v 128 64 &&& m
  match pfld v 16 3 with
  | 0 => decide (b ≤ a)
  | 1 => a = b
  | 2 => a ≠ b
  | _ => decide (toSigned 64 b ≤ toSigned 64 a)

/-- WAIT (R45). -/
def startWait (p : Pkt) (s : State) : State :=
  let va := pfld p.v 64 64
  let host := pfld p.v 19 1 = 1
  if 4 ≤ pfld p.v 16 3 || va % 8 ≠ 0 || (!host && !packetHere s va) then packetBad p s
  else
    let go (x : Nat) (s : State) : State := if waitHolds p.v x then startDone p s else holdHead p.q s
    if host then go (readNat s.mem (hostAt va) 8) s
    else match readSpan p.tenant va 8 s with
      | (.ok bs, s) => go (ofBytes bs) s
      | (e, s) => headBad p e s

/-- SIGNAL (R46). -/
def startSignal (p : Pkt) (s : State) : State :=
  let va := pfld p.v 64 64
  let x := pfld p.v 128 64
  let op := pfld p.v 16 2
  let host := pfld p.v 18 1 = 1
  if 2 ≤ op || (op = 1 && host) || va % 8 ≠ 0 || (!host && !packetHere s va) then packetBad p s
  else if host then startDone p (performBytes (hostAt va) (toBytes 8 x) none true s)
  else
    let old : Except Prep (List Byte) × State := if op = 1 then readSpan p.tenant va 8 s else (.ok (toBytes 8 0), s)
    match old with
    | (.ok bs, s) =>
      (match writeSpan p.tenant va (toBytes 8 ((ofBytes bs + x) % 2 ^ 64)) s with
       | (.ok _, s) => startDone p s
       | (e, s) => headBad p e s)
    | (e, s) => headBad p e s

/-- The packets that a queue has started and that have not completed. -/
def openRuns (s : State) (q : Nat) : List (Nat × Nat) := ((s.queue q).runs.filter fun r => !r.done).map fun r => (q, r.id)

/-- The set that a FENCE waits for (R47). -/
def fenceSet (p : Pkt) (s : State) : List (Nat × Nat) :=
  openRuns s p.q ++ ((List.range 64).filter fun q => q ≠ p.q && bitAt (pfld p.v 64 64) q && (s.queue q).enabled).flatMap (openRuns s)

/-- FENCE at the head of its queue (R47): the set is fixed. -/
def startFence (p : Pkt) (s : State) : State :=
  s.updQueue p.q fun x => { x with waiting := true, fence := match x.fence with | some f => some f | none => some (fenceSet p s) }

/-- A FENCE starts once its set has completed (R47). -/
def endFence (p : Pkt) (s : State) : State :=
  match (s.queue p.q).fence with
  | some f => if orderedOk p s && f.all (fun (q, id) => !(openRuns s q).contains (q, id)) then startDone p s else s
  | none => s

/-! ## LAUNCH and GANG (R48 to R50, R55) -/

/-- A role of a LAUNCH, or of an entry of a role table at bit `o` (R48, R49). -/
def roleFrom (entry ng vg sg nt : Nat) (persist : Bool) : Role :=
  { entry := w64 entry, ng := ng + 1, vg := 16 * (vg + 1), sg := 16 * sg, nt, persist }

/-- The checks of R50 on one role. -/
def roleOk (r : Role) : Bool := r.sg ≠ 0 && decide (r.sg ≤ 192) && decide (r.nt ≤ 8) && r.entry.toNat % 4 = 0

/-- A launch with its roles. -/
def packetLaunch (p : Pkt) (s : State) (roles : List Role) (id : Nat) : Launch :=
  let f := pfld p.v
  { queue := p.q, pos := id, tenant := p.tenant, gang := pkind p.v = 2, prio := f 16 2, gx := f 32 16, gy := f 48 16, gz := f 64 16,
    roles, trapEntry := w64 (f 192 64), tileKb := f 256 16, ringKb := f 272 16, stashKb := f 288 16, nctr := f 304 16,
    tlsStride := 32 * f 112 16, tlsBase := w64 (f 320 64), args := w64 (f 384 64), supervisor := s.regs.qsup.getLsbD p.q }

/-- The checks of R50. -/
def launchOk (l : Launch) : Bool :=
  decide (l.total ≤ 2 ^ 32) && l.roles.all roleOk && decide (l.nctr ≤ 256) && l.tlsStride ≠ 0 && l.trapEntry.toNat % 4 = 0 &&
    decide (l.n ≤ 256)

/-- OOBCOUNT and DROPPED_PREF of the cores of a tenant's clusters are cleared at launch (R122, R178). Which cores, and that it is
done when the packet starts: DESIGN CHOICE, assumption 24. -/
def clearCounts (t : Nat) (s : State) : State :=
  ((clustersOf s t).flatMap coresOf).foldl (fun s k => s.updCore k fun c => { c with oob := 0, dropped := 0 }) s

/-- A validated launch starts, or is too big for its tenant's clusters (R55, R396). -/
def startRoles (p : Pkt) (roles : List Role) (s : State) : State :=
  let l := packetLaunch p s roles 0
  if !launchOk l then packetBad p s
  else if !everFits s l then haltQueue p.q 0x21 p.addr p.addr s
  else
    let (id, s) := startRun p false s
    let (k, s) := s.fresh
    clearCounts p.tenant { s with launches := putN s.launches k { l with pos := id } }

/-- LAUNCH (R48). -/
def startLaunch (p : Pkt) (s : State) : State :=
  let f := pfld p.v
  startRoles p [roleFrom (f 128 64) (f 80 8) (f 88 6) (f 96 4) (f 100 4) (f 18 1 = 1)] s

/-- An entry of a role table (R49): nothing where a reserved field is not 0. -/
def roleEntry (v : Nat) : Option Role :=
  if pfld v 78 2 ≠ 0 || pfld v 89 7 ≠ 0 || pfld v 96 32 ≠ 0 then none
  else some (roleFrom (pfld v 0 64) (pfld v 64 8) (pfld v 72 6) (pfld v 80 4) (pfld v 84 4) (pfld v 88 1 = 1))

/-- GANG (R49, R396): the read of the role table does not wait for a translation. A table that is misaligned or on a peer is
ILLEGAL: DESIGN CHOICE, assumption 41. -/
def startGang (p : Pkt) (s : State) : State :=
  let va := pfld p.v 128 64
  let n := pfld p.v 80 2 + 1
  if va % 16 ≠ 0 || !packetHere s va then packetBad p s
  else match readSpan p.tenant va (16 * n) s with
    | (.ok bs, s) =>
      let rs := (wordsOf 16 n bs).map roleEntry
      if rs.any Option.isNone then packetBad p s else startRoles p (rs.filterMap id) s
    | (.error (.wait a _), s) =>
      (match walk s 0 p.tenant a with
       | .wait _ _ => haltQueue p.q cTRANSLATE p.addr a s
       | .found x => (match resolve s x a with | .pri _ => haltQueue p.q cTRANSLATE p.addr a s | _ => holdHead p.q s)
       | .fault _ => holdHead p.q s)
    | (e, s) => headBad p e s

/-! ## COPY (R83, R85) -/

/-- COPY (R85): its copy unit is that of R83. -/
def startCopy (p : Pkt) (s : State) : State :=
  let f := pfld p.v
  let dst := f 192 64
  let last (stride : Nat) : Nat := f 32 16 * stride + f 64 32 - 1
  if f 64 32 = 0 || 2 ^ 24 < f 64 32 || !packetHere s (f 128 64) || !packetHere s dst ||
      !packetHere s (f 128 64 + last (f 256 64)) || !packetHere s (dst + last (f 320 64)) then packetBad p s
  else
    let die := match walk s 0 p.tenant dst with | .found x => if x.tier < 2 then homeDie x.tier (x.addr dst) else 0 | _ => 0
    let (id, s) := startRun p false s
    let (k, s) := s.fresh
    let c : Copy :=
      { unit := unitBeside s 0 p.tenant (f 128 64) (8 * die + p.q % 8), src := f 128 64, dst := .gl dst, rows := f 32 16 + 1, rowBytes := f 64 32, sstride := f 256 64,
        dstride := f 320 64, nt := f 16 1 = 1, pkt := some (p.q, id) }
    putOp { id := k, core := 128, slot := p.q, tenant := p.tenant, pc := w64 p.addr, ready := true, kind := .copy c } s

/-! ## Collectives (R337, R339) -/

/-- Pages of 64 KiB that a range touches. -/
def pagesOf (va n : Nat) : List Nat := (List.range (ceilDiv (va % 65536 + n) 65536)).map fun i => (va / 65536 + i) * 65536

/-- The pages of a range are translated (R337): nothing where they are, the address of a page that waits, or a refusal. -/
def pagesBad (tenant : Nat) (want : Want) (near : Bool) : List Nat → State → Option (Option Nat) × State
  | [], s => (none, s)
  | va :: rest, s =>
    match walkNow s tenant va none want with
    | (.found x, s) => if near && x.tier ≠ 0 then (some none, s) else pagesBad tenant want near rest s
    | (.bad _, s) => (some none, s)
    | (_, s) => (some (some va), s)

/-- COMM_CREATE with DESTROY = 0 (R337). -/
def startComm (p : Pkt) (s : State) : State :=
  let f := pfld p.v
  let k := commKey p.tenant (f 32 16)
  let nroute := f 48 5
  let stage := f 64 64
  let rt := f 128 64
  let rtlen := f 192 24
  if nroute = 0 || 16 < nroute || stage % 65536 ≠ 0 || rt % 64 ≠ 0 || rtlen = 0 || 256 ≤ s.comms.length ||
      (getN s.comms k).isSome || !packetHere s stage || !packetHere s rt then packetBad p s
  else match pagesBad p.tenant .write true (pagesOf stage (nroute * 131072)) s with
    | (some none, s) => packetBad p s
    | (some (some va), s) => headWaits p va true s
    | (none, s) => match pagesBad p.tenant .read false (pagesOf rt (64 * rtlen)) s with
      | (some none, s) => packetBad p s
      | (some (some va), s) => headWaits p va false s
      | (none, s) =>
        startDone p { s with comms := putN s.comms k { tenant := p.tenant, id := f 32 16, nroute, stage, rt, rtlen } }

/-- COMM_CREATE with DESTROY = 1 (R337, R441). -/
def startDestroy (p : Pkt) (s : State) : State :=
  let k := commKey p.tenant (pfld p.v 32 16)
  match getN s.comms k with
  | none => packetBad p s
  | some c =>
    if c.destroy.isSome then packetBad p s
    else
      let (id, s) := startRun p false s
      (failComm k s).updComm k fun c => { c with destroy := some (p.q, id) }

/-- DIGEST of a COLL (R339). -/
def digestOf (count rop wtype : Nat) : Nat := (count % 2 ^ 16) ^^^ (count / 2 ^ 16 * 2 ^ 10) ^^^ (rop * 32) ^^^ wtype

/-- The checks of R339 on a COLL. -/
def collBad (s : State) (v : Nat) : Bool :=
  let f := pfld v
  let w := f 48 5
  6 ≤ f 24 4 || !wideOk w || (3 ≤ f 24 4 && !isInt w) || f 64 22 = 0 || 65536 < f 64 22 * (widthOf w / 8) || !sourceOk w (f 120 5) ||
    (f 16 1 = 0 && f 96 24 ≠ 0) || f 256 64 % 16 ≠ 0 || !packetHere s (f 128 64) || !packetHere s (f 192 64) || !packetHere s (f 256 64)

/-- COLL (R339, R342): at the origin the hoist is to be built. -/
def startColl (p : Pkt) (s : State) : State :=
  let f := pfld p.v
  let k := commKey p.tenant (f 32 16)
  match getN s.comms k with
  | none => packetBad p s
  | some c =>
    if collBad s p.v then packetBad p s
    else
      let (id, s) := startRun p false s
      let orig := f 16 1 = 1
      let q : Coll :=
        { seq := c.seq, queue := p.q, pos := id, addr := p.addr, orig, rop := f 24 4, wtype := f 48 5, nvisit := f 56 4, count := f 64 22,
          stype := f 120 5, src := f 128 64, dst := f 192 64, recAddr := f 256 64, digest := digestOf (f 64 22) (f 24 4) (f 48 5),
          first := !orig }
      let s := s.updComm k fun c => { c with seq := (c.seq + 1) % 2 ^ 32, colls := c.colls ++ [q] }
      if orig && !c.failed then
        addCopy k { id := 0, orig := true, x := [], st := .origin (f 96 24), step := (p.q, p.addr),
                    h := { tenant := p.tenant, satcnt := 0, count := q.count, digest := q.digest, seq := q.seq, comm := c.id, tc := f 17 2,
                           wtype := BitVec.ofNat 5 q.wtype, origin := s.regs.nodeId, pens := [], payload := [] } } s
      else s

/-! ## CIRC (R356) and KCQ_CFG (R275) -/

/-- A script starts in a context (R356). -/
def beginScript (p : Pkt) (k run : Nat) (image : List Byte) (s : State) : State :=
  let f := pfld p.v
  let clear := s.fabric.mem.filter fun (a, _) => a / 65536 ≠ k
  let s := clearErrs (fun x => match x with | .script g => g / 8192 = k | _ => false) s
  let regs : ZMap 64 := setZ (setZ (setZ (setZ [] 0 (w64 k)) 1 (w64 (f 192 64))) 2 (w64 (f 256 64))) 3 (w64 (f 320 64))
  let s := { s with fabric := { s.fabric with mem := writeBytes clear (65536 * k) image } }
  s.updScript k fun _ => { busy := true, proc := { pc := f 128 32, sregs := regs, readyAt := s.fabric.clock }, tenant := p.tenant,
                           queue := p.q, pos := run }

/-- CIRC (R356): held until a context is free. -/
def startCirc (p : Pkt) (s : State) : State :=
  let f := pfld p.v
  let n := f 32 32
  if n % 4 ≠ 0 || n = 0 || 65536 < n || f 64 64 % 128 ≠ 0 || f 128 32 % 4 ≠ 0 || n ≤ f 128 32 || !packetHere s (f 64 64) then packetBad p s
  else match s.fabric.ctxs.findIdx? fun c => !c.busy with
    | none => holdHead p.q s
    | some k => match readSpan p.tenant (f 64 64) n s with
      | (.ok bs, s) => let (run, s) := startRun p false s; beginScript p k run bs s
      | (e, s) => headBad p e s

/-- HOMEMAP of a KCQ_CFG packet. -/
def mapOf (v : Nat) : List Nat := (List.range 32).map fun i => pfld v (192 + 8 * i) 8

/-- The checks of R275. -/
def kcqBad (s : State) (tenant v : Nat) : Bool :=
  let f := pfld v
  let x := s.kcq (f 16 5)
  let log := f 128 8
  clusterTenant s (f 16 5) ≠ some tenant || (1 ≤ log && log ≤ 11) || 24 < log || (f 26 1 = 1 && (x.spilled ≠ 0 || f 64 64 % 65536 ≠ 0)) ||
    (f 24 1 = 1 && !x.tickets.isEmpty) ||
    (f 27 1 = 1 && (mapOf v).zipIdx.any fun (c, i) => 32 ≤ c || c / 8 ≠ i / 8 || clusterTenant s c ≠ some tenant)

/-- KCQ_CFG (R275): the actions in order. -/
def startKcq (p : Pkt) (s : State) : State :=
  let f := pfld p.v
  if kcqBad s p.tenant p.v then packetBad p s
  else
    let clear (x : Kcq) : Kcq :=
      { x with sets := [], entry := 0, disp := 0, bypass := 0, ringHead := 0, ringTail := 0, folds := 0, seals := 0, spills := 0 }
    let upd (x : Kcq) : Kcq :=
      let x := if f 24 1 = 1 then clear x else x
      let x := if f 25 1 = 1 then { x with hold := f 32 16 } else x
      if f 26 1 = 1 then { x with ringBase := f 64 64, ringLog := f 128 8, ringHead := 0, ringTail := 0 } else x
    let s := s.updKcq (f 16 5) upd
    let s := if f 24 1 = 1 then clearErrs (fun x => match x with | .krec q _ _ => q = f 16 5 | _ => false) s else s
    startDone p (if f 27 1 = 1 then { s with homeMaps := putN s.homeMaps p.tenant (mapOf p.v) } else s)

/-! ## The head of a queue (R41, R43, R44) -/

/-- Start the packet, if its kind's rules let it. -/
def startKind (p : Pkt) (s : State) : State :=
  match pkind p.v with
  | 0 => startDone p s
  | 1 => startLaunch p s
  | 2 => startGang p s
  | 3 => startWait p s
  | 4 => startSignal p s
  | 6 => startCopy p s
  | 7 => startColl p s
  | 8 => if pfld p.v 16 1 = 1 then startDestroy p s else startComm p s
  | 9 => startCirc p s
  | _ => startKcq p s

/-- A stamp address is 8-byte aligned and on this node, where there is a stamp (R42); the fate of another one is ILLEGAL: DESIGN
CHOICE, assumption 41. -/
def stampGood (s : State) (v : Nat) : Bool := pfld v 9 1 = 0 || (pfld v 448 64 % 8 = 0 && packetHere s (pfld v 448 64))

/-- The packet at the head is met: a FENCE fixes its set; ORDERED holds it; else it starts as its kind says. -/
def meetHead (p : Pkt) (s : State) : State :=
  if !stampGood s p.v then packetBad p s
  else if pkind p.v = 5 then startFence p s
  else if !orderedOk p s then holdHead p.q s
  else startKind p s

/-- A packet event: it concerns the queue whose head has this kind (and, for KIND 8, DESTROY), and meets it for the first
time. -/
def kindEvent (kind destroy q : Nat) (s0 : State) : State :=
  if (s0.queue q).waiting then s0
  else serveHead q (fun p => pkind p.v = kind && wellKind p.v && (kind ≠ 8 || pfld p.v 16 1 = destroy)) meetHead s0

/-- PACKET_ILLEGAL (R44): a reserved KIND, or a reserved field that is not 0. -/
def illegalEvent (q : Nat) (s0 : State) : State :=
  serveHead q (fun p => !wellKind p.v) packetBad s0

/-- PACKET_DEFERRED_START (R44): a packet that has been met and held is tried again. -/
def deferredEvent (q : Nat) (s0 : State) : State :=
  if !(s0.queue q).waiting || (s0.queue q).fence.isSome then s0
  else serveHead q (fun p => wellKind p.v) meetHead s0

/-- WAIT_RECHECK (R45). -/
def recheckEvent (q : Nat) (s0 : State) : State :=
  if !(s0.queue q).waiting then s0
  else serveHead q (fun p => pkind p.v = 3 && wellKind p.v) meetHead s0

/-- FENCE_PACKET_START (R47). -/
def fenceEvent (q : Nat) (s0 : State) : State :=
  if (s0.queue q).fence.isNone then s0
  else serveHead q (fun p => pkind p.v = 5) endFence s0

/-! ## Completion (R43, R44) -/

/-- A LAUNCH or GANG has completed: every block, and every write of its threads (R43). -/
def launchEnded (q id : Nat) (s : State) : Option Nat :=
  (s.launches.find? fun (_, l) => l.queue = q && l.pos = id && decide (l.total ≤ l.next) && l.done = l.total && l.pending = 0).map Prod.fst

/-- The COLL that a packet is. -/
def collOf (q id : Nat) (s : State) : Option (Nat × Nat) :=
  s.comms.findSome? fun (k, c) => (c.colls.find? fun x => x.queue = q && x.pos = id).map fun x => (k, x.seq)

/-- A communicator is deleted (R337): of its sends, those on their way over a circuit will still be answered (R441). -/
def deleteComm (k : Nat) (s : State) : State :=
  let flying (y : HCopy) : Bool := match y.st with | .flying _ _ _ => true | _ => false
  { s with
    comms := delN s.comms k
    adrift := s.adrift ++ (match getN s.comms k with | some c => (c.copies.filter flying).map fun y => (k, y) | none => []) }

/-- The communicator whose DESTROY a packet is, with no COLL left (R337). -/
def destroyed (q id : Nat) (s : State) : Option Nat :=
  (s.comms.find? fun (_, c) => c.destroy = some (q, id) && c.colls.isEmpty).map Prod.fst

/-- A started packet completes, if its kind's rules say so. -/
def tryComplete (q : Nat) (r : Run) (s : State) : State :=
  match r.kind with
  | 7 => (match collOf q r.id s with
    | some (k, seq) => let (ok, s) := endColl k seq s; if ok then runDone q r.id s else s
    | none => s)
  | 8 => (match destroyed q r.id s with | some k => runDone q r.id (deleteComm k s) | none => s)
  | 9 => s
  | 6 => s
  | _ => (match launchEnded q r.id s with | some k => runDone q r.id { s with launches := delN s.launches k } | none => s)

/-- A completed packet leaves, once its stamp has been written or refused (R44). -/
def stampRun (q : Nat) (r : Run) (s : State) : State :=
  let gone (s : State) : State := s.updQueue q fun x => { x with runs := x.runs.filter fun y => y.id ≠ r.id }
  match r.stamp with
  | none => gone s
  | some va =>
    let t := (s.queue q).tenant
    let rec_ : FaultRec := { cause := cTRANSLATE, write := true, src := 3, unit := q, pc := w64 r.addr, addr := w64 va, tenant := t }
    match writeSpan t va (toBytes 8 (r.pos + 1)) s with
    | (.ok _, s) => gone s
    | (.error (.bad 0 _ _), s) => s
    | (.error (.bad c _ _), s) => gone (postRec { rec_ with cause := c } s)
    | (.error _, s) => agentWait 0 t va rec_ s

/-- PACKET_COMPLETE (R44): `unit` is the queue, `idx` a place among its started packets. The stamp follows completion. -/
def packetComplete (q i : Nat) (s : State) : State :=
  match (s.queue q).runs[i]? with
  | none => s
  | some r => if r.done then stampRun q r s else tryComplete q r s

/-! ## Events -/

/-- NOP_PACKET (R43). -/
def execNopPacket (s : State) : Out := .next (kindEvent 0 0 s.input.unit s)
/-- LAUNCH (R48). -/
def execLaunch (s : State) : Out := .next (kindEvent 1 0 s.input.unit s)
/-- GANG (R49). -/
def execGang (s : State) : Out := .next (kindEvent 2 0 s.input.unit s)
/-- WAIT (R45). -/
def execWait (s : State) : Out := .next (kindEvent 3 0 s.input.unit s)
/-- SIGNAL (R46). -/
def execSignal (s : State) : Out := .next (kindEvent 4 0 s.input.unit s)
/-- FENCE_PACKET (R47). -/
def execFencePacket (s : State) : Out := .next (kindEvent 5 0 s.input.unit s)
/-- COPY (R85). -/
def execCopy (s : State) : Out := .next (kindEvent 6 0 s.input.unit s)
/-- COLL (R339). -/
def execColl (s : State) : Out := .next (kindEvent 7 0 s.input.unit s)
/-- COMM_CREATE (R337). -/
def execCommCreate (s : State) : Out := .next (kindEvent 8 0 s.input.unit s)
/-- COMM_DESTROY (R337). -/
def execCommDestroy (s : State) : Out := .next (kindEvent 8 1 s.input.unit s)
/-- CIRC (R356). -/
def execCirc (s : State) : Out := .next (kindEvent 9 0 s.input.unit s)
/-- KCQ_CFG (R275). -/
def execKcqCfg (s : State) : Out := .next (kindEvent 10 0 s.input.unit s)
/-- PACKET_ILLEGAL (R44). -/
def execPacketIllegal (s : State) : Out := .next (illegalEvent s.input.unit s)
/-- PACKET_DEFERRED_START (R44). -/
def execPacketDeferredStart (s : State) : Out := .next (deferredEvent s.input.unit s)
/-- WAIT_RECHECK (R45). -/
def execWaitRecheck (s : State) : Out := .next (recheckEvent s.input.unit s)
/-- FENCE_PACKET_START (R47). -/
def execFencePacketStart (s : State) : Out := .next (fenceEvent s.input.unit s)
/-- PACKET_COMPLETE (R44). -/
def execPacketComplete (s : State) : Out := .next (packetComplete s.input.unit s.input.idx s)

end Sys2Proof.Machine
end

