-- ==== Sys2Proof/Machine/Crypto.lean ====
section
/-!
DEFINITION. The cryptography of boot and attestation (R366, R367): SHA-256, RSA and RSASSA-PSS with SHA-256, MGF1, a salt of 32
bytes and a modulus of 3,072 bits, as their published standards define them (the spec only names them), and the check of an
image.
-/

namespace Sys2Proof.Machine

/-! ## SHA-256 -/

/-- The greatest number below `2 ^ n` more than `r` whose `k`th power is at most `v`, bit by bit from the top. -/
def rootBelow (k v : Nat) : Nat → Nat → Nat
  | 0, r => r
  | n + 1, r => rootBelow k v n (if (r + 2 ^ n) ^ k ≤ v then r + 2 ^ n else r)

/-- The first 32 bits after the point of the `k`th root of a number below 512. -/
def rootBits (k p : Nat) : W32 := BitVec.ofNat 32 (rootBelow k (p * 2 ^ (32 * k)) 37 0)

/-- The primes below a bound. -/
def primesBelow (n : Nat) : List Nat := (List.range n).filter fun p => decide (2 ≤ p) && (List.range p).all fun q => q < 2 || p % q ≠ 0

/-- The round constants: the cube roots of the first 64 primes. -/
def shaKeys : List W32 := (primesBelow 312).map (rootBits 3)

/-- The eight words of the hash. -/
structure Sha where
  a : W32
  b : W32
  c : W32
  d : W32
  e : W32
  f : W32
  g : W32
  h : W32
  deriving DecidableEq, Repr

/-- The words before the first block: the square roots of the first eight primes. -/
def Sha.init : Sha :=
  { a := rootBits 2 2, b := rootBits 2 3, c := rootBits 2 5, d := rootBits 2 7, e := rootBits 2 11, f := rootBits 2 13,
    g := rootBits 2 17, h := rootBits 2 19 }

/-- The next word of the message schedule, from the sixteen before it. -/
def shaNext (w : List W32) : W32 :=
  let x := w.getD 1 0
  let y := w.getD 14 0
  (y.rotateRight 17 ^^^ y.rotateRight 19 ^^^ (y >>> 10)) + w.getD 9 0 + (x.rotateRight 7 ^^^ x.rotateRight 18 ^^^ (x >>> 3)) + w.headD 0

/-- One round. -/
def Sha.round (k w : W32) (x : Sha) : Sha :=
  let s1 := x.e.rotateRight 6 ^^^ x.e.rotateRight 11 ^^^ x.e.rotateRight 25
  let t1 := x.h + s1 + ((x.e &&& x.f) ^^^ (~~~x.e &&& x.g)) + k + w
  let s0 := x.a.rotateRight 2 ^^^ x.a.rotateRight 13 ^^^ x.a.rotateRight 22
  let t2 := s0 + ((x.a &&& x.b) ^^^ (x.a &&& x.c) ^^^ (x.b &&& x.c))
  { a := t1 + t2, b := x.a, c := x.b, d := x.c, e := x.d + t1, f := x.e, g := x.f, h := x.g }

/-- The rounds of a block whose next sixteen schedule words are `w`. -/
def shaRounds : List W32 → List W32 → Sha → Sha
  | [], _, x => x
  | k :: ks, w, x => shaRounds ks (w.tail ++ [shaNext w]) (x.round k (w.headD 0))

/-- A number of bytes, highest first. -/
def bigBytes (n v : Nat) : List Byte := (toBytes n v).reverse
/-- The number that bytes are, highest first. -/
def ofBig (bs : List Byte) : Nat := ofBytes bs.reverse

/-- One block of 64 bytes. -/
def Sha.block (x : Sha) (bs : List Byte) : Sha :=
  let y := shaRounds shaKeys ((wordsOf 4 16 bs).map fun v => BitVec.ofNat 32 (ofBig (toBytes 4 v))) x
  { a := x.a + y.a, b := x.b + y.b, c := x.c + y.c, d := x.d + y.d, e := x.e + y.e, f := x.f + y.f, g := x.g + y.g, h := x.h + y.h }

/-- A message with its padding. -/
def shaPad (m : List Byte) : List Byte :=
  m ++ 0x80 :: List.replicate ((119 - m.length % 64) % 64) 0 ++ bigBytes 8 (8 * m.length)

/-- The blocks of a padded message in turn. -/
def shaBlocks : Nat → List Byte → Sha → Sha
  | 0, _, x => x
  | n + 1, m, x => shaBlocks n (m.drop 64) (x.block (m.take 64))

/-- SHA-256 of a message. -/
def sha256 (m : List Byte) : List Byte :=
  let p := shaPad m
  let x := shaBlocks (p.length / 64) p Sha.init
  [x.a, x.b, x.c, x.d, x.e, x.f, x.g, x.h].flatMap fun v => bigBytes 4 v.toNat

/-! ## RSASSA-PSS -/

/-- MGF1 of a seed, `n` blocks of 32 bytes. -/
def mgf1 (seed : List Byte) (n : Nat) : List Byte := (List.range n).flatMap fun i => sha256 (seed ++ bigBytes 4 i)

/-- Bytes with the mask of a seed on them, the top bit of the first cleared (a modulus of 3,072 bits). -/
def pssMask (h db : List Byte) : List Byte :=
  match (db.zip (mgf1 h 11)).map fun (x, y) => x ^^^ y with
  | b :: bs => (b &&& 0x7f) :: bs
  | [] => []

/-- The hash of a message hash and a salt. -/
def pssHash (mHash salt : List Byte) : List Byte := sha256 (List.replicate 8 0 ++ mHash ++ salt)

/-- The encoded message of 384 bytes. -/
def pssEncode (mHash salt : List Byte) : List Byte :=
  let h := pssHash mHash salt
  pssMask h (List.replicate 318 0 ++ 1 :: salt) ++ h ++ [0xbc]

/-- `b` to the power `e` modulo `n`, over the bits of `e`. -/
def powMod (n : Nat) : Nat → Nat → Nat → Nat → Nat
  | 0, _, _, x => x % n
  | k + 1, b, e, x => powMod n k (b * b % n) (e / 2) (if e % 2 = 1 then x * b % n else x)

/-- A signature with a private key (R367). -/
def pssSign (modulus d : Nat) (msg salt : List Byte) : List Byte :=
  bigBytes 384 (powMod modulus 3072 (ofBig (pssEncode (sha256 msg) salt)) d 1)

/-- The check of a signature with a public key: the encoded message is that of the salt that it holds (R366). -/
def pssVerify (modulus e : Nat) (msg sig : List Byte) : Bool :=
  let v := ofBig sig
  let em := bigBytes 384 (powMod modulus 3072 v e 1)
  let h := (em.drop 351).take 32
  let salt := (pssMask h (em.take 351)).drop 319
  decide (v < modulus) && sig.length = 384 && decide (em.headD 0 &&& 0x80 = 0) && em = pssEncode (sha256 msg) salt

/-! ## Images (R366) -/

/-- An image verifies: its key is that of the fuses, its digest is that of its bytes, its signature is over the digest and the
version, and its version is not below the rollback counter. -/
def imageGood (i : FlashImage) : Bool :=
  sha256 i.key = Config.keyHash && i.digest = sha256 i.body && decide (Config.rollback ≤ i.version) &&
    pssVerify (ofBig (i.key.take 384)) (ofBig (i.key.drop 384)) (i.digest ++ toBytes 8 i.version.toNat) i.signature

/-- What the boot ROM finds (R366): the images in order, the first that fails ends it. -/
def bootOf : List FlashImage → BootResult
  | [a, b, c] =>
    if !imageGood a then .failed 1 else if !imageGood b then .failed 2 else if !imageGood c then .failed 3
    else .verified [a.digest, b.digest, c.digest]
  | [a, b] => if !imageGood a then .failed 1 else if !imageGood b then .failed 2 else .failed 3
  | [a] => if !imageGood a then .failed 1 else .failed 2
  | _ => .failed 1

end Sys2Proof.Machine
end

