-- ==== Sys2Proof/Machine/Host.lean ====
section
/-!
DEFINITION. What the host does: registers (spec 17, R362 to R364), doorbells and queue enables (spec 03), the host fault
queue (spec 21), the refusal of demands (spec 23), host translations (R365), boot, attestation, power (R366 to R369) and the
window onto near memory (R361).
-/

namespace Sys2Proof.Machine

/-! ## Command queues (R39, R40, R363) -/

/-- The boot ROM has verified every image: EN bits may be set (R366). -/
def HostRegs.live (h : HostRegs) : Bool := h.booted && h.bootStat = 0

/-- Boot has failed: only BAR 0 answers, and every register but BOOTSTAT reads 0 (R366). -/
def HostRegs.dead (h : HostRegs) : Bool := h.booted && h.bootStat ≠ 0

/-- A write of QCTL (R39, R40): EN from 0 to 1 zeroes the counts and clears HALT; a ring that is too small halts at once. -/
def queueControl (q : Nat) (v : W64) (s : State) : State :=
  if 64 ≤ q then s
  else
    let x := s.queue q
    let on := v.getLsbD 0 && s.regs.live
    let ctl := (v &&& 0xf00f0) ||| (if on then 1 else 0)
    if on && !x.enabled then
      let s := s.updQueue q fun x => { x with ctl, write := 0, read := 0, waiting := false, fence := none }
      if fld v 7 4 < 4 then haltQueue q cILLEGAL 0 0 s else s
    else
      s.updQueue q fun x => { x with ctl := ctl ||| (x.ctl &&& 2), waiting := x.waiting && on, fence := if on then x.fence else none }

/-- DOORBELL (R40, R363): a write of QWRITE. One that would move WRITE backwards leaves it and halts the queue; one past the
ring's end halts it. -/
def doorbell (q v : Nat) (s : State) : State :=
  let x := s.queue q
  let new := v % 2 ^ 32
  if 64 ≤ q || !x.enabled then s
  else if 2 ^ 31 < (new + 2 ^ 32 - x.write) % 2 ^ 32 then haltQueue q cILLEGAL 0 0 s
  else
    let s := s.updQueue q fun x => { x with write := new }
    if x.size < (new + 2 ^ 32 - x.read % 2 ^ 32) % 2 ^ 32 then haltQueue q cILLEGAL 0 0 s else s

/-! ## The host fault queue (R385, R387) -/

/-- FAULT_QUEUE_ENABLE (R385): a write of FQCTL. -/
def faultControl (v : W64) (s : State) : State :=
  let h := s.regs
  let ctl := v &&& (if h.live then 0x3f00f1 else 0x3f00f0)
  { s with regs :=
      if ctl.getLsbD 0 && !h.fqCtl.getLsbD 0 then { h with fqCtl := ctl, fqWrite := 0, fqRead := 0, fqSeq := 0 }
      else { h with fqCtl := ctl } }

/-- DEMAND_RECORD_POST (R387): the oldest record that the walker holds, once a position is free. -/
def postHeld (s : State) : State :=
  match s.demandHeld with
  | [] => s
  | r :: rs => if s.regs.fqBlocked then s else writeRec r { s with demandHeld := rs }

/-! ## Refusing a demand (R416 to R418) -/

/-- A refusal is in progress (R416). -/
def refusing (s : State) : Bool := s.dies.any fun (_, d) => d.refusal.isSome

/-- DEMAND_REFUSE (R416, R417): a write of DREFCTL. With GO every die has the refusal before it. -/
def refuse (v : W64) (s : State) : State :=
  if refusing s then s
  else
    let s := { s with regs := { s.regs with drefCtl := v &&& 0xff0f } }
    if !v.getLsbD 16 then s
    else
      let c := fld v 15 8
      let cause := if c = cPERM || c = cECC then c else cTRANSLATE
      (List.range 4).foldl (fun s d => s.updDie d fun x => { x with refusal := some cause }) s

/-- An engine operation that waits under a demand record is refused (R411, R417). -/
def refuseOp (o : Op) (cause va : Nat) (write : Bool) (s : State) : State :=
  match o.kind with
  | .copy c => stopCopy o c cause va write s
  | .xfer x => stopXfer o x (pushStation x.doff x.node) cause 0 va write s
  | .fill _ => dropOp o.id (postRec (fillRec o cause va) s)
  | _ =>
    let s := s.updGroup (gkey o.core o.slot) fun g => g.dropScore o.id (BitVec.allOnes 64)
    takeTrap (gkey o.core o.slot) (deferCtx s o.core o.pc true) (sameFault o.lanes cause 0 0 (w64 va)) (dropOp o.id s)

/-- PRI Page Requests are issued while the host's allocation permits (R365). -/
def admitPri (s : State) : State :=
  let n := s.regs.priAlloc - s.pri.length
  { s with pri := (s.priLate.take n).foldl (fun t p => insertNat p t) s.pri, priLate := s.priLate.drop n }

/-- A peer's request that waits is answered with the cause (R120, R417). -/
def refusePeer (d : Nat) (r : FaultRec) (cause : Nat) (s : State) : State :=
  let mine (i : Incoming) : Bool := match serve i s with
    | .wait (some (va, w)) _ => servedDemand d i va w = r
    | _ => false
  let out := (s.station d).incoming.filter mine
  let s := s.updStation d fun x => { x with incoming := x.incoming.filter fun i => !mine i }
  out.foldl (fun s i => answerPeer d i.port i.req (.error (codeOfCause cause)) s) s

/-- A COLL or a communicator whose step waits is refused as at a fault (R441). -/
def waitingStep (r : FaultRec) (s : State) : Option (Nat × Nat) :=
  s.comms.findSome? fun (k, c) =>
    ((c.colls.map (·.seq)) ++ [c.seq]).findSome? fun q =>
      if { commRec c q cTRANSLATE 0 with write := r.write, addr := r.addr } = r then some (k, q) else none

/-- The command processor's wait is refused: the step of a communicator, the packet at the head (COMM_CREATE takes the ILLEGAL
fate, R337), or a stamp (R40, R44). -/
def refuseCommand (r : FaultRec) (cause : Nat) (s : State) : State :=
  let x := s.queue r.unit
  match waitingStep r s with
  | some (k, seq) => failStep k seq cause s
  | none =>
    if x.waiting && x.at x.read = r.pc.toNat then
      (match readHead r.unit s with
       | (some p, _) => if pkind p.v = 8 then packetBad p s else haltQueue r.unit cause r.pc.toNat r.addr.toNat s
       | _ => haltQueue r.unit cause r.pc.toNat r.addr.toNat s)
    else match x.runs.find? fun y => y.done && y.addr = r.pc.toNat && y.stamp = some r.addr.toNat with
      | some y => postRec { r with cause, demand := false } (s.updQueue r.unit fun x => { x with runs := x.runs.filter fun z => z.id ≠ y.id })
      | none => s

/-- An agent without lanes, named by its demand record, is refused (R417, R418). -/
def refuseAgent (cause : Nat) (s : State) (r0 : FaultRec) : State :=
  let r := { r0 with cause := cTRANSLATE, demand := false }
  match s.ops.find? fun (_, o) => o.demand r.addr.toNat r.write = r with
  | some (_, o) => refuseOp o cause r.addr.toNat r.write s
  | none => if r.src = 4 then refusePeer r.unit r cause s else if r.src = 3 then refuseCommand r cause s else s

/-- Parked accesses of which some request is picked take a cause; stash fills among them end. -/
def refuseParked (cause : Nat) (bad : Access → Req → Bool) (s : State) : State :=
  let hit := (s.accs.map Prod.snd).filter fun a => a.parked && a.reqs.any (bad a)
  hit.foldl (fun s a => match a.kind with
    | .stashFill blk win e => failFill a blk win e cause s
    | _ => failParked a cause (bad a) (fun r => w64 r.va) s) s

/-- Requests and stores of lanes that are not parked yet, which wait for translation, take a cause (R408, R417). -/
def refuseOpen (cause : Nat) (bad : Access → Req → Bool) (entry : Nat → Group → Store → Bool) (s : State) : State :=
  let upd (a : Access) : Access := if a.parked then a
    else { a with reqs := a.reqs.map fun r => if bad a r then { r with tr := .bad cause } else r }
  let queue (k : Nat) (g : Group) : Group :=
    { g with storeQ := g.storeQ.map fun e => if entry k g e then { e with tr := .bad cause } else e }
  let s := { s with accs := s.accs.map fun (k, a) => (k, upd a), groups := s.groups.map fun (k, g) => (k, queue k g) }
  (List.range 4).foldl (fun s d => settleDie d s) s

/-- Such requests are translated again (R365). -/
def askOpen (on : TrState → Bool) (s : State) : State :=
  let ask (s : State) (a : Access) : State :=
    let (rs, s) := a.reqs.foldl (fun (rs, s) r =>
      if on r.tr then
        let (t, s) := beginTr a.core a.tenant r.va a.kind.want s
        (rs ++ [{ r with tr := t }], noteAts t r.va s)
      else (rs ++ [r], s)) (([] : List Req), s)
    putAcc { a with reqs := rs } s
  let store (s : State) (k : Nat) (g : Group) : State :=
    let (es, s) := g.storeQ.foldl (fun (es, s) e =>
      if on e.tr then
        let (t, s) := beginTr (coreOf k) g.tenant e.va .write s
        (es ++ [{ e with tr := t }], noteAts t e.va s)
      else (es ++ [e], s)) (([] : List Store), s)
    s.updGroup k fun g => { g with storeQ := es }
  let s := ((s.accs.map Prod.snd).filter fun a => !a.parked && a.reqs.any fun r => on r.tr).foldl ask s
  let s := (s.groups.filter fun (_, g) => g.storeQ.any fun e => on e.tr).foldl (fun s (k, g) => store s k g) s
  (List.range 4).foldl (fun s d => settleDie d s) s

/-- Requests that a save keeps are refused while they are saved: their lanes enter trap mode at the restore (R417). -/
def refuseSaved (cause : Nat) (bad : Access → Req → Bool) (s : State) : State :=
  let upd (a : Access) : Access := { a with reqs := a.reqs.map fun r => if bad a r then { r with tr := .bad cause } else r }
  { s with blocks := s.blocks.map fun (k, b) => (k, { b with accsImage := b.accsImage.map upd }) }

/-- DIE_TAKES_REFUSAL (R417): `d` is the die. -/
def dieRefuses (d : Nat) (s : State) : State :=
  match (s.die d).refusal with
  | none => s
  | some cause =>
    let t := fld s.regs.drefCtl 3 0
    let va := fld s.regs.drefAddr 63 16 * 65536
    let s := s.updDie d fun x => { x with refusal := none }
    if nodeOf va ≠ s.regs.nodeId || bitAt va 63 then s
    else
      let page := pageOf va
      let bad (a : Access) (r : Req) : Bool := r.tr.waits && onPage d t page a r
      let agents := ((s.die d).walks.filter fun w => w.tenant = t && w.vpage = page && w.wait.isSome).flatMap (·.agents)
      let late := s.priWait.filter fun (_, r) => r.tenant = t && pageOf r.addr.toNat = page
      let pris := (s.accs.flatMap fun (_, a) => (a.reqs.filter (bad a)).filterMap fun r =>
        match r.tr with | .pri p => some p | _ => none) ++ late.map Prod.fst
      let waits := (s.die d).walks.any fun w => w.tenant = t && w.vpage = page && w.wait.isSome
      let s := { s with
        demandHeld := s.demandHeld.filter fun r => !(r.tenant = t && pageOf r.addr.toNat = page)
        pri := s.pri.filter fun p => !pris.contains p
        priLate := s.priLate.filter fun p => !pris.contains p
        priWait := s.priWait.filter fun w => !late.contains w }
      let entry (k : Nat) (g : Group) (e : Store) : Bool := e.tr.waits && dieOf (coreOf k) = d && g.tenant = t && pageOf e.va = page
      let s := if waits then dropWalk d t page s else s
      let s := admitWalks d (refuseOpen cause bad entry (refuseSaved cause bad (refuseParked cause bad s)))
      admitPri ((agents ++ late.map Prod.snd).foldl (refuseAgent cause) s)

/-! ## The host tier (R365, R418) -/

/-- Give the requests that wait for the ATS completion of a page their outcome. -/
def answerAts (page : Nat) (f : Xlat → TrState) (s : State) : State :=
  let one (t : TrState) (va : Nat) : TrState := match t with | .ats x => if x.addr va / 4096 = page then f x else t | _ => t
  let req (r : Req) : Req := { r with tr := one r.tr r.va }
  let entry (e : Store) : Store := { e with tr := one e.tr e.va }
  { s with
    accs := s.accs.map fun (k, a) => (k, { a with reqs := a.reqs.map req })
    groups := s.groups.map fun (k, g) => (k, { g with storeQ := g.storeQ.map entry }) }

/-- ATS_COMPLETION (R365): `idx` is the page. -/
def atsComplete (page : Nat) (r : AtsResult) (s : State) : State :=
  if !s.atsAsk.contains page then s
  else
    let s := { s with atsAsk := s.atsAsk.filter (· ≠ page) }
    let s := match r with
      | .found p =>
        answerAts page (fun x => .found { x with hostPage := some p })
          { s with ats := ((page, p) :: s.ats.filter fun e => e.1 ≠ page).take 1024 }
      | .denied => answerAts page (fun _ => .pri page) (admitPri { s with priLate := s.priLate ++ [page] })
    (List.range 4).foldl (fun s d => settleDie d s) s

/-- PRI_RESPONSE (R365, R418): `idx` is the page, `flag` Success. -/
def priResponse (page : Nat) (ok : Bool) (s : State) : State :=
  if !s.pri.contains page then s
  else
    let on (_ : Access) (r : Req) : Bool := r.tr = .pri page
    let agents := (s.priWait.filter fun w => w.1 = page).map Prod.snd
    let s := { s with pri := s.pri.filter (· ≠ page), priWait := s.priWait.filter fun w => w.1 ≠ page }
    let s := admitPri s
    if ok then
      askOpen (fun t => t = .pri page)
        (((s.accs.map Prod.snd).filter fun a => a.parked && a.reqs.any (on a)).foldl (fun s a => replay a.id s) s)
    else agents.foldl (refuseAgent cTRANSLATE)
      (refuseOpen cTRANSLATE on (fun _ _ e => e.tr = .pri page) (refuseSaved cTRANSLATE on (refuseParked cTRANSLATE on s)))

/-- An access that uses a host page has not completed at the host (R365). -/
def hostPageUsed (s : State) (p : Nat) : Bool :=
  let leaf (t : TrState) : Bool := match t with | .found x => x.hostPage = some p | _ => false
  let inPage (pa : Nat) : Bool := pa / 4096 = hostAt (4096 * p) / 4096
  (s.accs.any fun (_, a) => a.reqs.any fun r => leaf r.tr) ||
  (s.groups.any fun (_, g) => g.storeQ.any fun e => leaf e.tr) ||
  (s.cores.any fun (_, c) => (c.commitQ.any fun e => e.mark.isNone && inPage (128 * e.pline)) ||
    c.l1.any fun l => l.dirty.contains true && inPage (128 * l.pline)) ||
  (s.blocks.any fun (_, b) => b.shares.any fun sh => sh.windows.any fun (_, w) => w.entries.zipIdx.any fun (e, i) =>
    e.mask.contains true && (match e.tr with | some x => inPage (x.pa (w.base + 128 * i)) | none => false)) ||
  s.ops.any fun (_, o) => match o.kind with | .copy c => c.out.any fun x => x.pieces.any fun y => inPage y.place | _ => false

/-- ATS_INVALIDATION (R365): `idx` is the page. With `flag` an invalidation completes, once no access uses the old
translation. The queue of those that have not completed holds 32 (R360). -/
def atsInvalidate (page : Nat) (done : Bool) (s : State) : State :=
  if !done then
    if 32 ≤ s.atsInv.length then s else
    { s with ats := s.ats.filter fun e => e.1 ≠ page, atsInv := s.atsInv ++ (match s.ats.find? fun e => e.1 = page with
        | some e => [e] | none => [(page, 2 ^ 64)]) }
  else match s.atsInv.find? fun e => e.1 = page with
    | none => s
    | some e =>
      if hostPageUsed s e.2 then s else { s with atsInv := s.atsInv.erase e, net := s.net ++ [.atsDone page] }

/-! ## Boot and attestation (R366, R367) -/

/-- POWER_ON_RESET (R366): every register takes its reset value, and the boot ROM loads the images of the flash. Host memory is
not the device's. -/
def powerOn (flash : List FlashImage) (s : State) : State :=
  let s' : State := { State.reset with
    mem := s.mem.filter fun (a, _) => decide (2 ^ 64 ≤ a)
    flash, msix := s.msix, net := s.net, schedule := s.schedule, turn := s.turn, input := s.input, nextId := s.nextId, freeCtr := s.freeCtr }
  match bootOf flash with
  | .verified ds => { s' with regs := { s'.regs with booted := true, bootStat := 0, digests := ds } }
  | .failed n => { s' with regs := { s'.regs with booted := true, bootStat := n } }

/-- ATTESTATION_GO (R367): a write of 0x0_3228. -/
def attestGo (v : W64) (s : State) : State :=
  if !v.getLsbD 0 || s.regs.repBusy || s.regs.dead then s
  else { s with regs := { s.regs with repBusy := true, repDone := false } }

/-- Bits packed to bytes, lowest first. -/
def packBits (n : Nat) (f : Nat → Nat) (w : Nat) : List Byte :=
  toBytes (n * w / 8) ((List.range n).foldl (fun x i => x + f i * 2 ^ (w * i)) 0)

/-- The signed part of the report (R367). -/
def reportBody (h : HostRegs) : List Byte :=
  let own (c : Nat) : W64 := getZ h.cluown c
  ((List.range 4).flatMap fun k => toBytes 8 (getZ h.nonce k).toNat) ++
  toBytes 8 h.revision.toNat ++ toBytes 8 Config.rollback.toNat ++ toBytes 16 0 ++
  ((List.range 3).flatMap fun k => toBytes 32 (ofBytes (h.digests.getD k []))) ++
  packBits 32 (fun c => fld (own c) 3 0) 4 ++ packBits 32 (fun c => fld (own c) 4 4) 1 ++ toBytes 76 0

/-- ATTESTATION_REPORT_DONE (R367). -/
def attestDone (s : State) : State :=
  if !s.regs.repBusy then s
  else
    let body := reportBody s.regs
    let salt := (List.range 32).map fun i => Config.salt s.freeCtr i
    let s := performBytes (hostAt s.regs.repAddr.toNat) (body ++ pssSign Config.deviceModulus Config.deviceExponent body salt) none true s
    { s with freeCtr := s.freeCtr + 1, regs := { s.regs with repBusy := false, repDone := true } }

/-! ## Power (R368, R369) -/

/-- PWRSTAT with new watts and depth. -/
def pwrWord (watts depth : Nat) : W64 := w64 (watts % 4096 + depth % 16 * 65536)

/-- POWER_WINDOW_END (R369): `aux` is the window's average in watts, `flag` that the junction is at 105 °C or more, `idx` the
depth that the device takes: at least one step where a limit is passed, and no more than before where none is. -/
def windowEnd (watts depth : Nat) (hot : Bool) (s : State) : State :=
  let was := s.regs.depth
  let d := if decide (s.regs.pwrCap < watts) || hot then max 1 (min 15 depth) else min was depth
  { s with regs := { s.regs with pwrStat := pwrWord watts d } }

/-- JUNCTION_THROTTLE (R369): the junction reaches 105 °C; `idx` is the depth that the device takes. -/
def junctionHot (depth : Nat) (s : State) : State :=
  { s with regs := { s.regs with pwrStat := pwrWord (fld s.regs.pwrStat 11 0) (max 1 (min 15 depth)) } }

/-- THERMAL_STOP (R369). -/
def thermalStop (s : State) : State := { s with regs := { s.regs with thermStat := 1 } }

/-- THERMAL_RESUME (R369): a write of THERMSTAT; `cool` says that the junction is below 95 °C. -/
def thermalResume (v : W64) (cool : Bool) (s : State) : State :=
  if v.getLsbD 0 || !cool then s else beginRestore { s with regs := { s.regs with thermStat := 0 } }

/-! ## The window onto near memory (R361, R362) -/

/-- A host access of bytes within lines that no agent holds (R108, R306): line by line. -/
def windowRead : Nat → Nat → Nat → State → Option (List Byte)
  | 0, _, _, _ => some []
  | fuel + 1, pa, n, s =>
    if n = 0 then some []
    else
      let m := min n (128 - pa % 128)
      if !l2Free s (pa / 128) then none else (windowRead fuel (pa + m) (n - m) s).map (readBytes s.mem pa m ++ ·)

/-- The write of such an access. -/
def windowWrite : Nat → Nat → List Byte → State → State
  | 0, _, _, s => s
  | fuel + 1, pa, bs, s =>
    if bs.isEmpty then s
    else
      let m := min bs.length (128 - pa % 128)
      windowWrite fuel (pa + m) (bs.drop m) (performBytes pa (bs.take m) none (copiesHC s (pa / 128)) s)

/-- A host access through the window (R361): nothing where a line of it is held. -/
def windowServe (r : HostAccess) (s : State) : Option State :=
  let span : Nat × Nat := match r with | .read off n => (off, n) | .write off bs => (off, bs.length)
  let pa := s.regs.winBase + span.1
  if s.regs.dead || 2 ^ 28 < span.1 + span.2 || span.2 = 0 then some s
  else if !nearPA pa || !nearPA (pa + span.2 - 1) then some { s with hole := true }
  else (windowRead (span.2 / 128 + 2) pa span.2 s).map fun old => match r with
    | .read _ _ => { s with net := s.net ++ [.hostData old] }
    | .write _ bs => windowWrite (bs.length / 128 + 2) pa bs s

/-- HOST_BAR4_ACCESS (R361): one arrives, or with `flag` the oldest that waits is tried again. Host accesses are served in the
order of their arrival (R108, R306). -/
def windowAccess (again : Bool) (r : HostAccess) (s : State) : State :=
  if again then
    match s.hostWait with
    | [] => s
    | x :: xs => (windowServe x { s with hostWait := xs }).getD s
  else if !s.hostWait.isEmpty then { s with hostWait := s.hostWait ++ [r] }
  else (windowServe r s).getD { s with hostWait := [r] }

/-! ## BAR 0 (R362) -/

/-- A register of BAR 0 as it reads (R362): offsets without a register read 0, and after a failed boot BOOTSTAT alone reads
otherwise (R366). -/
def readReg (s : State) (off : Nat) : W64 :=
  let h := s.regs
  let x := s.queue (off / 32)
  if off = 0x3100 then w64 h.bootStat
  else if h.dead then 0
  else if off < 0x800 then
    (match off % 32 with | 0 => x.base | 8 => x.ctl | 16 => w64 x.write | _ => w64 (x.read % 2 ^ 32))
  else if off = 0x800 then h.qsup
  else if 0x1000 ≤ off && off < 0x1400 then
    let t := (off - 0x1000) / 64
    let n := s.handler t
    (match off % 64 with | 0 => getZ h.asctx t | 8 => w64 (n.table + if n.busy then 2 else 0) | _ => 0)
  else if off = 0x2000 then w64 h.nodeId
  else if off = 0x2008 then w64 h.ocsNode
  else if 0x2010 ≤ off && off < 0x2030 then (s.station ((off - 0x2010) / 8)).ctl
  else if 0x2040 ≤ off && off < 0x2140 then getZ h.cluown ((off - 0x2040) / 8)
  else if 0x2200 ≤ off && off < 0x2300 then (portOf s ((off - 0x2200) / 8)).optown
  else if 0x3200 ≤ off && off < 0x3220 then getZ h.nonce ((off - 0x3200) / 8)
  else match off with
    | 0x2400 => w64 h.winBase
    | 0x3000 => w64 h.pwrCap
    | 0x3008 => h.pwrStat
    | 0x3010 => h.thermStat
    | 0x3220 => h.repAddr
    | 0x3228 => if h.repDone then 2 else 0
    | 0x4000 => h.preempt
    | 0x4100 => h.fqBase
    | 0x4108 => h.fqCtl
    | 0x4110 => h.fqWrite
    | 0x4118 => h.fqRead
    | 0x4120 => h.fqDrop
    | 0x4128 => h.drefAddr
    | 0x4130 => h.drefCtl ||| (if refusing s then 0x20000 else 0)
    | 0x4140 => h.ceCnt
    | 0x4148 => h.ueCnt
    | _ => 0

/-- A cluster whose owner may change: no resident or saved block, no waiting record, no outstanding ticket (R365). -/
def clusterIdle (s : State) (c : Nat) : Bool :=
  let k := s.kcq c
  !(s.blocks.any fun (_, b) => b.cluster = c) && !(k.sets.any fun (_, es) => !es.isEmpty) && k.ringHead = k.ringTail &&
    k.tickets.isEmpty

/-- A write of a register that lies in an array: queues, tenants, stations, clusters, ports, nonce (R362). -/
def writeArray (off : Nat) (v : W64) (s : State) : State :=
  let h := s.regs
  if off < 0x800 then
    let q := off / 32
    (match off % 32 with
     | 0 => s.updQueue q fun x => { x with base := v &&& 0xffffffffffffffc1 }
     | 8 => queueControl q v s
     | 16 => doorbell q v.toNat s
     | _ => s)
  else if 0x1000 ≤ off && off < 0x1400 then
    let t := (off - 0x1000) / 64
    (match off % 64 with
     | 0 => { s with regs := { h with asctx := setZ h.asctx t (v &&& 0xffff001fffff0001) } }
     | 8 => tableLoad t v s
     | _ => s)
  else if 0x2010 ≤ off && off < 0x2030 then stationWrite ((off - 0x2010) / 8) v s
  else if 0x2040 ≤ off && off < 0x2140 then
    let c := (off - 0x2040) / 8
    if clusterIdle s c then { s with regs := { h with cluown := setZ h.cluown c (v &&& 0x1f) } } else s
  else if 0x2200 ≤ off && off < 0x2300 then
    let p := (off - 0x2200) / 8
    if (portOf s p).st ≠ 0 then s
    else { s with fabric := { s.fabric with ports := putN s.fabric.ports p { portOf s p with optown := v &&& 0x1f } } }
  else if 0x3200 ≤ off && off < 0x3220 then { s with regs := { h with nonce := setZ h.nonce ((off - 0x3200) / 8) v } }
  else s

/-- A write of a register of BAR 0 (R362): read-only registers and offsets without a register ignore it. -/
def writeReg (off : Nat) (v : W64) (s : State) : State :=
  let h := s.regs
  match off with
  | 0x800 =>
    let en := (List.range 64).foldl (fun m q => if (s.queue q).enabled then m ||| laneBit q else m) (0 : W64)
    { s with regs := { h with qsup := (h.qsup &&& en) ||| (v &&& ~~~en) } }
  | 0x2000 => if s.stations.any fun (_, x) => x.enabled then s else { s with regs := { h with nodeId := fld v 9 0 } }
  | 0x2008 => { s with regs := { h with ocsNode := fld v 9 0 } }
  | 0x2400 => { s with regs := { h with winBase := fld v 36 28 * 2 ^ 28 } }
  | 0x3000 => { s with regs := { h with pwrCap := max 1000 (min 3000 (fld v 11 0)) } }
  | 0x3220 => { s with regs := { h with repAddr := v &&& 0xffffffffffffffc0 } }
  | 0x3228 => attestGo v s
  | 0x4000 => if v.getLsbD 6 then preemptRestore v s else askSave v s
  | 0x4100 => { s with regs := { h with fqBase := v &&& 0xfffffffffffff000 } }
  | 0x4108 => faultControl v s
  | 0x4118 => { s with regs := { h with fqRead := v &&& 0xffffffff } }
  | 0x4120 => { s with regs := { h with fqDrop := 0 } }
  | 0x4128 => if refusing s then s else { s with regs := { h with drefAddr := v &&& 0xffffffffffff0000 } }
  | 0x4130 => refuse v s
  | 0x4140 => { s with regs := { h with ceCnt := 0 } }
  | 0x4148 => { s with regs := { h with ueCnt := 0 } }
  | _ => writeArray off v s

/-- A byte of PCIe configuration space (R1, R360): the Revision ID is at the offset that PCI gives it. PRESUMED, assumption 30. -/
def configByte (s : State) (off : Nat) : Byte := if off = 8 then s.regs.revision else 0

/-- REGISTER_WRITE (R362): `idx` is the offset; with `flag` the access is of 32 bits, and the other half of the register
keeps what it reads. Misaligned accesses are none of R362's, and nothing takes a write after a failed boot (R366). THERMSTAT
clears if the junction is cool enough, which `aux` = 1 says (R369). `unit` = 1 is the host's write of its PRI allocation to
configuration space (R365). -/
def registerWrite (x : Input) (s : State) : State :=
  if x.unit = 1 then admitPri { s with regs := { s.regs with priAlloc := x.word.toNat % 2 ^ 32 } }
  else if s.regs.dead || x.idx % (if x.flag then 4 else 8) ≠ 0 then s
  else if x.idx / 8 * 8 = 0x3010 then if x.idx = 0x3010 then thermalResume x.word (x.aux = 1) s else s
  else if !x.flag then writeReg x.idx x.word s
  else
    let off := x.idx / 8 * 8
    let low := x.word &&& 0xffffffff
    writeReg off (if x.idx % 8 = 0 then (readReg s off &&& 0xffffffff00000000) ||| low
      else (readReg s off &&& 0xffffffff) ||| (low <<< 32)) s

/-! ## Events -/

/-- DOORBELL (R40). -/
def execDoorbell (s : State) : Out := .next (doorbell s.input.unit s.input.word.toNat s)
/-- QUEUE_ENABLE (R40). -/
def execQueueEnable (s : State) : Out := .next (queueControl s.input.unit s.input.word s)
/-- REGISTER_WRITE (R362). -/
def execRegisterWrite (s : State) : Out := .next (registerWrite s.input s)
/-- ATTESTATION_GO (R367). -/
def execAttestationGo (s : State) : Out := .next (attestGo s.input.word s)
/-- ATTESTATION_REPORT_DONE (R367). -/
def execAttestationReportDone (s : State) : Out := .next (attestDone s)
/-- FAULT_QUEUE_ENABLE (R385). -/
def execFaultQueueEnable (s : State) : Out := .next (faultControl s.input.word s)
/-- DEMAND_REFUSE (R416). -/
def execDemandRefuse (s : State) : Out := .next (refuse s.input.word s)
/-- DIE_TAKES_REFUSAL (R417). -/
def execDieTakesRefusal (s : State) : Out := .next (dieRefuses s.input.unit s)
/-- DEMAND_RECORD_POST (R387). -/
def execDemandRecordPost (s : State) : Out := .next (postHeld s)
/-- POWER_ON_RESET (R366). -/
def execPowerOnReset (s : State) : Out := .next (powerOn s.input.boot s)
/-- POWER_WINDOW_END (R369). -/
def execPowerWindowEnd (s : State) : Out := .next (windowEnd s.input.aux s.input.idx s.input.flag s)
/-- THERMAL_STOP (R369). -/
def execThermalStop (s : State) : Out := .next (thermalStop s)
/-- THERMAL_RESUME (R369). -/
def execThermalResume (s : State) : Out := .next (thermalResume s.input.word s.input.flag s)
/-- HOST_BAR4_ACCESS (R361). -/
def execHostBar4Access (s : State) : Out := .next (windowAccess s.input.flag s.input.host s)
/-- ATS_COMPLETION (R365). -/
def execAtsCompletion (s : State) : Out := .next (atsComplete s.input.idx s.input.ats s)
/-- PRI_RESPONSE (R365). -/
def execPriResponse (s : State) : Out := .next (priResponse s.input.idx s.input.flag s)
/-- ATS_INVALIDATION (R365). -/
def execAtsInvalidation (s : State) : Out := .next (atsInvalidate s.input.idx s.input.flag s)
/-- JUNCTION_THROTTLE (R369). -/
def execJunctionThrottle (s : State) : Out := .next (junctionHot s.input.idx s)

end Sys2Proof.Machine
end

