-- ==== Sys2Proof/Machine/Dispatch.lean ====
section
/-!
DEFINITION. The dispatch: one arm for each constructor of Instr, each a direct call of its meaning.
-/

namespace Sys2Proof.Machine

def exec (i : Instr) (s : State) : Host.Outcome State Fault Refusal :=
  match i with
  | .nop h => Sys2Proof.Machine.execNop h s
  | .sli h d a => Sys2Proof.Machine.execSli h d a s
  | .sliExt h m => Sys2Proof.Machine.execSliExt h m s
  | .smov h d a => Sys2Proof.Machine.execSmov h d a s
  | .smovExt h m => Sys2Proof.Machine.execSmovExt h m s
  | .sadd h d a => Sys2Proof.Machine.execSadd h d a s
  | .saddExt h m => Sys2Proof.Machine.execSaddExt h m s
  | .ssub h d a => Sys2Proof.Machine.execSsub h d a s
  | .ssubExt h m => Sys2Proof.Machine.execSsubExt h m s
  | .smul h d a => Sys2Proof.Machine.execSmul h d a s
  | .smulExt h m => Sys2Proof.Machine.execSmulExt h m s
  | .smulh h d a => Sys2Proof.Machine.execSmulh h d a s
  | .smulhExt h m => Sys2Proof.Machine.execSmulhExt h m s
  | .sdiv h d a => Sys2Proof.Machine.execSdiv h d a s
  | .sdivExt h m => Sys2Proof.Machine.execSdivExt h m s
  | .srem h d a => Sys2Proof.Machine.execSrem h d a s
  | .sremExt h m => Sys2Proof.Machine.execSremExt h m s
  | .sand h d a => Sys2Proof.Machine.execSand h d a s
  | .sandExt h m => Sys2Proof.Machine.execSandExt h m s
  | .sor h d a => Sys2Proof.Machine.execSor h d a s
  | .sorExt h m => Sys2Proof.Machine.execSorExt h m s
  | .sxor h d a => Sys2Proof.Machine.execSxor h d a s
  | .sxorExt h m => Sys2Proof.Machine.execSxorExt h m s
  | .sandn h d a => Sys2Proof.Machine.execSandn h d a s
  | .sandnExt h m => Sys2Proof.Machine.execSandnExt h m s
  | .sshl h d a => Sys2Proof.Machine.execSshl h d a s
  | .sshlExt h m => Sys2Proof.Machine.execSshlExt h m s
  | .sshr h d a => Sys2Proof.Machine.execSshr h d a s
  | .sshrExt h m => Sys2Proof.Machine.execSshrExt h m s
  | .ssra h d a => Sys2Proof.Machine.execSsra h d a s
  | .ssraExt h m => Sys2Proof.Machine.execSsraExt h m s
  | .smin h d a => Sys2Proof.Machine.execSmin h d a s
  | .sminExt h m => Sys2Proof.Machine.execSminExt h m s
  | .smax h d a => Sys2Proof.Machine.execSmax h d a s
  | .smaxExt h m => Sys2Proof.Machine.execSmaxExt h m s
  | .scmp h d a => Sys2Proof.Machine.execScmp h d a s
  | .scmpExt h m => Sys2Proof.Machine.execScmpExt h m s
  | .ssel h m => Sys2Proof.Machine.execSsel h m s
  | .sclz h d a => Sys2Proof.Machine.execSclz h d a s
  | .sclzExt h m => Sys2Proof.Machine.execSclzExt h m s
  | .spopc h d a => Sys2Proof.Machine.execSpopc h d a s
  | .spopcExt h m => Sys2Proof.Machine.execSpopcExt h m s
  | .sbfx h d a => Sys2Proof.Machine.execSbfx h d a s
  | .sbfxExt h m => Sys2Proof.Machine.execSbfxExt h m s
  | .sbfi h m => Sys2Proof.Machine.execSbfi h m s
  | .sld h m => Sys2Proof.Machine.execSld h m s
  | .sst h m => Sys2Proof.Machine.execSst h m s
  | .sread h d a => Sys2Proof.Machine.execSread h d a s
  | .swrite h d a => Sys2Proof.Machine.execSwrite h d a s
  | .sfromv h m => Sys2Proof.Machine.execSfromv h m s
  | .satom h m => Sys2Proof.Machine.execSatom h m s
  | .bra h off => Sys2Proof.Machine.execBra h off s
  | .braLit h d a v => Sys2Proof.Machine.execBraLit h d a v s
  | .sbra h d a v => Sys2Proof.Machine.execSbra h d a v s
  | .brx h a => Sys2Proof.Machine.execBrx h a s
  | .brxExt h m => Sys2Proof.Machine.execBrxExt h m s
  | .call h off => Sys2Proof.Machine.execCall h off s
  | .callLit h d a v => Sys2Proof.Machine.execCallLit h d a v s
  | .callx h a => Sys2Proof.Machine.execCallx h a s
  | .callxExt h m => Sys2Proof.Machine.execCallxExt h m s
  | .ret h => Sys2Proof.Machine.execRet h s
  | .rset h d => Sys2Proof.Machine.execRset h d s
  | .rjoin h d => Sys2Proof.Machine.execRjoin h d s
  | .bar h a => Sys2Proof.Machine.execBar h a s
  | .exit h => Sys2Proof.Machine.execExit h s
  | .mon h m => Sys2Proof.Machine.execMon h m s
  | .mwait h a => Sys2Proof.Machine.execMwait h a s
  | .mwaitLit h d a v => Sys2Proof.Machine.execMwaitLit h d a v s
  | .trap h off => Sys2Proof.Machine.execTrap h off s
  | .yieldI h => Sys2Proof.Machine.execYieldI h s
  | .ifence h => Sys2Proof.Machine.execIfence h s
  | .icinv h m => Sys2Proof.Machine.execIcinv h m s
  | .elect h d => Sys2Proof.Machine.execElect h d s
  | .jmov h m => Sys2Proof.Machine.execJmov h m s
  | .plog h d a => Sys2Proof.Machine.execPlog h d a s
  | .plogExt h m => Sys2Proof.Machine.execPlogExt h m s
  | .pmov h d a => Sys2Proof.Machine.execPmov h d a s
  | .pmovExt h m => Sys2Proof.Machine.execPmovExt h m s
  | .vadd h d a => Sys2Proof.Machine.execVadd h d a s
  | .vaddExt h m => Sys2Proof.Machine.execVaddExt h m s
  | .vsub h d a => Sys2Proof.Machine.execVsub h d a s
  | .vsubExt h m => Sys2Proof.Machine.execVsubExt h m s
  | .vmul h d a => Sys2Proof.Machine.execVmul h d a s
  | .vmulExt h m => Sys2Proof.Machine.execVmulExt h m s
  | .vmulh h d a => Sys2Proof.Machine.execVmulh h d a s
  | .vmulhExt h m => Sys2Proof.Machine.execVmulhExt h m s
  | .vmad h m => Sys2Proof.Machine.execVmad h m s
  | .vabs h d a => Sys2Proof.Machine.execVabs h d a s
  | .vabsExt h m => Sys2Proof.Machine.execVabsExt h m s
  | .vneg h d a => Sys2Proof.Machine.execVneg h d a s
  | .vnegExt h m => Sys2Proof.Machine.execVnegExt h m s
  | .vmin h d a => Sys2Proof.Machine.execVmin h d a s
  | .vminExt h m => Sys2Proof.Machine.execVminExt h m s
  | .vmax h d a => Sys2Proof.Machine.execVmax h d a s
  | .vmaxExt h m => Sys2Proof.Machine.execVmaxExt h m s
  | .vand h d a => Sys2Proof.Machine.execVand h d a s
  | .vandExt h m => Sys2Proof.Machine.execVandExt h m s
  | .vor h d a => Sys2Proof.Machine.execVor h d a s
  | .vorExt h m => Sys2Proof.Machine.execVorExt h m s
  | .vxor h d a => Sys2Proof.Machine.execVxor h d a s
  | .vxorExt h m => Sys2Proof.Machine.execVxorExt h m s
  | .vandn h d a => Sys2Proof.Machine.execVandn h d a s
  | .vandnExt h m => Sys2Proof.Machine.execVandnExt h m s
  | .vshl h d a => Sys2Proof.Machine.execVshl h d a s
  | .vshlExt h m => Sys2Proof.Machine.execVshlExt h m s
  | .vshr h d a => Sys2Proof.Machine.execVshr h d a s
  | .vshrExt h m => Sys2Proof.Machine.execVshrExt h m s
  | .vsra h d a => Sys2Proof.Machine.execVsra h d a s
  | .vsraExt h m => Sys2Proof.Machine.execVsraExt h m s
  | .vclz h d a => Sys2Proof.Machine.execVclz h d a s
  | .vclzExt h m => Sys2Proof.Machine.execVclzExt h m s
  | .vpopc h d a => Sys2Proof.Machine.execVpopc h d a s
  | .vpopcExt h m => Sys2Proof.Machine.execVpopcExt h m s
  | .vbfx h d a => Sys2Proof.Machine.execVbfx h d a s
  | .vbfxExt h m => Sys2Proof.Machine.execVbfxExt h m s
  | .vbfi h m => Sys2Proof.Machine.execVbfi h m s
  | .vcmp h m => Sys2Proof.Machine.execVcmp h m s
  | .vsel h m => Sys2Proof.Machine.execVsel h m s
  | .vaddsat h d a => Sys2Proof.Machine.execVaddsat h d a s
  | .vaddsatExt h m => Sys2Proof.Machine.execVaddsatExt h m s
  | .vsubsat h d a => Sys2Proof.Machine.execVsubsat h d a s
  | .vsubsatExt h m => Sys2Proof.Machine.execVsubsatExt h m s
  | .vmov h d a => Sys2Proof.Machine.execVmov h d a s
  | .vmovExt h m => Sys2Proof.Machine.execVmovExt h m s
  | .vli h d a => Sys2Proof.Machine.execVli h d a s
  | .vliExt h m => Sys2Proof.Machine.execVliExt h m s
  | .vfroms h d a => Sys2Proof.Machine.execVfroms h d a s
  | .vfromsExt h m => Sys2Proof.Machine.execVfromsExt h m s
  | .vlane h d => Sys2Proof.Machine.execVlane h d s
  | .vlaneExt h m => Sys2Proof.Machine.execVlaneExt h m s
  | .vfadd h d a => Sys2Proof.Machine.execVfadd h d a s
  | .vfaddExt h m => Sys2Proof.Machine.execVfaddExt h m s
  | .vfsub h d a => Sys2Proof.Machine.execVfsub h d a s
  | .vfsubExt h m => Sys2Proof.Machine.execVfsubExt h m s
  | .vfmul h d a => Sys2Proof.Machine.execVfmul h d a s
  | .vfmulExt h m => Sys2Proof.Machine.execVfmulExt h m s
  | .vfma h m => Sys2Proof.Machine.execVfma h m s
  | .vfmin h d a => Sys2Proof.Machine.execVfmin h d a s
  | .vfminExt h m => Sys2Proof.Machine.execVfminExt h m s
  | .vfmax h d a => Sys2Proof.Machine.execVfmax h d a s
  | .vfmaxExt h m => Sys2Proof.Machine.execVfmaxExt h m s
  | .vfabs h d a => Sys2Proof.Machine.execVfabs h d a s
  | .vfabsExt h m => Sys2Proof.Machine.execVfabsExt h m s
  | .vfneg h d a => Sys2Proof.Machine.execVfneg h d a s
  | .vfnegExt h m => Sys2Proof.Machine.execVfnegExt h m s
  | .vfcmp h m => Sys2Proof.Machine.execVfcmp h m s
  | .vfdiv h d a => Sys2Proof.Machine.execVfdiv h d a s
  | .vfdivExt h m => Sys2Proof.Machine.execVfdivExt h m s
  | .vfsqrt h d a => Sys2Proof.Machine.execVfsqrt h d a s
  | .vfsqrtExt h m => Sys2Proof.Machine.execVfsqrtExt h m s
  | .vrcpa h d a => Sys2Proof.Machine.execVrcpa h d a s
  | .vrcpaExt h m => Sys2Proof.Machine.execVrcpaExt h m s
  | .vrsqa h d a => Sys2Proof.Machine.execVrsqa h d a s
  | .vrsqaExt h m => Sys2Proof.Machine.execVrsqaExt h m s
  | .vfexp2a h d a => Sys2Proof.Machine.execVfexp2a h d a s
  | .vfexp2aExt h m => Sys2Proof.Machine.execVfexp2aExt h m s
  | .vflog2a h d a => Sys2Proof.Machine.execVflog2a h d a s
  | .vflog2aExt h m => Sys2Proof.Machine.execVflog2aExt h m s
  | .vfclass h d a => Sys2Proof.Machine.execVfclass h d a s
  | .vfclassExt h m => Sys2Proof.Machine.execVfclassExt h m s
  | .vfround h d a => Sys2Proof.Machine.execVfround h d a s
  | .vfroundExt h m => Sys2Proof.Machine.execVfroundExt h m s
  | .vfldexp h d a => Sys2Proof.Machine.execVfldexp h d a s
  | .vfldexpExt h m => Sys2Proof.Machine.execVfldexpExt h m s
  | .vcvt h m => Sys2Proof.Machine.execVcvt h m s
  | .vquant h m => Sys2Proof.Machine.execVquant h m s
  | .vdequant h m => Sys2Proof.Machine.execVdequant h m s
  | .vshfl h m => Sys2Proof.Machine.execVshfl h m s
  | .vrot h m => Sys2Proof.Machine.execVrot h m s
  | .vbcast h m => Sys2Proof.Machine.execVbcast h m s
  | .vred h m => Sys2Proof.Machine.execVred h m s
  | .vscan h m => Sys2Proof.Machine.execVscan h m s
  | .vballot h m => Sys2Proof.Machine.execVballot h m s
  | .vcompact h m => Sys2Proof.Machine.execVcompact h m s
  | .ld h m => Sys2Proof.Machine.execLd h m s
  | .st h m => Sys2Proof.Machine.execSt h m s
  | .lds h m => Sys2Proof.Machine.execLds h m s
  | .sts h m => Sys2Proof.Machine.execSts h m s
  | .atom h m => Sys2Proof.Machine.execAtom h m s
  | .acas h m => Sys2Proof.Machine.execAcas h m s
  | .atoms h m => Sys2Proof.Machine.execAtoms h m s
  | .fence h m => Sys2Proof.Machine.execFence h m s
  | .stash h m => Sys2Proof.Machine.execStash h m s
  | .pref h m => Sys2Proof.Machine.execPref h m s
  | .cpy h m => Sys2Proof.Machine.execCpy h m s
  | .mfill h m => Sys2Proof.Machine.execMfill h m s
  | .xpush h m => Sys2Proof.Machine.execXpush h m s
  | .xpull h m => Sys2Proof.Machine.execXpull h m s
  | .ctrset h m => Sys2Proof.Machine.execCtrset h m s
  | .ctrwait h m => Sys2Proof.Machine.execCtrwait h m s
  | .qcw h m => Sys2Proof.Machine.execQcw h m s
  | .sbind h m => Sys2Proof.Machine.execSbind h m s
  | .sunbind h m => Sys2Proof.Machine.execSunbind h m s
  | .stamp h m => Sys2Proof.Machine.execStamp h m s
  | .stampw h m => Sys2Proof.Machine.execStampw h m s
  | .msend h m => Sys2Proof.Machine.execMsend h m s
  | .qpost h m => Sys2Proof.Machine.execQpost h m s
  | .mset h m => Sys2Proof.Machine.execMset h m s
  | .mma h m => Sys2Proof.Machine.execMma h m s
  | .tclr h m => Sys2Proof.Machine.execTclr h m s
  | .trd h m => Sys2Proof.Machine.execTrd h m s
  | .twr h m => Sys2Proof.Machine.execTwr h m s
  | .tst h m => Sys2Proof.Machine.execTst h m s
  | .tld h m => Sys2Proof.Machine.execTld h m s
  | .tfree h m => Sys2Proof.Machine.execTfree h m s
  | .qdual h m => Sys2Proof.Machine.execQdual h m s
  | .twait h m => Sys2Proof.Machine.execTwait h m s
  | .spawn h m => Sys2Proof.Machine.execSpawn h m s
  | .kpush h m => Sys2Proof.Machine.execKpush h m s
  | .kpop h m => Sys2Proof.Machine.execKpop h m s
  | .kdone h m => Sys2Proof.Machine.execKdone h m s
  | .kcfg h m => Sys2Proof.Machine.execKcfg h m s
  | .kstat h m => Sys2Proof.Machine.execKstat h m s
  | .hlrd h m => Sys2Proof.Machine.execHlrd h m s
  | .hlwr h m => Sys2Proof.Machine.execHlwr h m s
  | .hpref h m => Sys2Proof.Machine.execHpref h m s
  | .hresp h m => Sys2Proof.Machine.execHresp h m s
  | .hmsg h m => Sys2Proof.Machine.execHmsg h m s
  | .hkpush h m => Sys2Proof.Machine.execHkpush h m s
  | .hend h m => Sys2Proof.Machine.execHend h m s
  | .hbudget h m => Sys2Proof.Machine.execHbudget h m s
  | .creq h m => Sys2Proof.Machine.execCreq h m s
  | .cawait h m => Sys2Proof.Machine.execCawait h m s
  | .cawaitMem h m => Sys2Proof.Machine.execCawaitMem h m s
  | .cbar h m => Sys2Proof.Machine.execCbar h m s
  | .crel h m => Sys2Proof.Machine.execCrel h m s
  | .cstat h m => Sys2Proof.Machine.execCstat h m s
  | .emsg h m => Sys2Proof.Machine.execEmsg h m s
  | .erecv h m => Sys2Proof.Machine.execErecv h m s
  | .ctime h m => Sys2Proof.Machine.execCtime h m s
  | .cstamp h m => Sys2Proof.Machine.execCstamp h m s
  | .rtrap h m => Sys2Proof.Machine.execRtrap h m s
  | .pgmode h m => Sys2Proof.Machine.execPgmode h m s
  | .tlbinv h m => Sys2Proof.Machine.execTlbinv h m s
  | .sleep h m => Sys2Proof.Machine.execSleep h m s
  | .doorbell => Sys2Proof.Machine.execDoorbell s
  | .queueEnable => Sys2Proof.Machine.execQueueEnable s
  | .registerWrite => Sys2Proof.Machine.execRegisterWrite s
  | .handlerTableLoad => Sys2Proof.Machine.execHandlerTableLoad s
  | .handlerTableLoadDone => Sys2Proof.Machine.execHandlerTableLoadDone s
  | .stationEnable => Sys2Proof.Machine.execStationEnable s
  | .preemptSave => Sys2Proof.Machine.execPreemptSave s
  | .preemptRestore => Sys2Proof.Machine.execPreemptRestore s
  | .restoreBlockPlace => Sys2Proof.Machine.execRestoreBlockPlace s
  | .timeSliceExpiry => Sys2Proof.Machine.execTimeSliceExpiry s
  | .attestationGo => Sys2Proof.Machine.execAttestationGo s
  | .attestationReportDone => Sys2Proof.Machine.execAttestationReportDone s
  | .faultQueueEnable => Sys2Proof.Machine.execFaultQueueEnable s
  | .demandRefuse => Sys2Proof.Machine.execDemandRefuse s
  | .dieTakesRefusal => Sys2Proof.Machine.execDieTakesRefusal s
  | .demandRecordPost => Sys2Proof.Machine.execDemandRecordPost s
  | .powerOnReset => Sys2Proof.Machine.execPowerOnReset s
  | .powerWindowEnd => Sys2Proof.Machine.execPowerWindowEnd s
  | .thermalStop => Sys2Proof.Machine.execThermalStop s
  | .thermalResume => Sys2Proof.Machine.execThermalResume s
  | .hostBar4Access => Sys2Proof.Machine.execHostBar4Access s
  | .atsCompletion => Sys2Proof.Machine.execAtsCompletion s
  | .priResponse => Sys2Proof.Machine.execPriResponse s
  | .atsInvalidation => Sys2Proof.Machine.execAtsInvalidation s
  | .nopPacket => Sys2Proof.Machine.execNopPacket s
  | .launch => Sys2Proof.Machine.execLaunch s
  | .gang => Sys2Proof.Machine.execGang s
  | .wait => Sys2Proof.Machine.execWait s
  | .waitRecheck => Sys2Proof.Machine.execWaitRecheck s
  | .signal => Sys2Proof.Machine.execSignal s
  | .fencePacket => Sys2Proof.Machine.execFencePacket s
  | .fencePacketStart => Sys2Proof.Machine.execFencePacketStart s
  | .copy => Sys2Proof.Machine.execCopy s
  | .coll => Sys2Proof.Machine.execColl s
  | .commCreate => Sys2Proof.Machine.execCommCreate s
  | .commDestroy => Sys2Proof.Machine.execCommDestroy s
  | .circ => Sys2Proof.Machine.execCirc s
  | .kcqCfg => Sys2Proof.Machine.execKcqCfg s
  | .packetIllegal => Sys2Proof.Machine.execPacketIllegal s
  | .packetDeferredStart => Sys2Proof.Machine.execPacketDeferredStart s
  | .packetComplete => Sys2Proof.Machine.execPacketComplete s
  | .blockPlace => Sys2Proof.Machine.execBlockPlace s
  | .gangClaim => Sys2Proof.Machine.execGangClaim s
  | .blockComplete => Sys2Proof.Machine.execBlockComplete s
  | .regroup => Sys2Proof.Machine.execRegroup s
  | .mwaitTimeout => Sys2Proof.Machine.execMwaitTimeout s
  | .sleepExpiry => Sys2Proof.Machine.execSleepExpiry s
  | .blockStall => Sys2Proof.Machine.execBlockStall s
  | .storeCommit => Sys2Proof.Machine.execStoreCommit s
  | .l2Write => Sys2Proof.Machine.execL2Write s
  | .atomicPerform => Sys2Proof.Machine.execAtomicPerform s
  | .loadReturn => Sys2Proof.Machine.execLoadReturn s
  | .l2Miss => Sys2Proof.Machine.execL2Miss s
  | .l2FillData => Sys2Proof.Machine.execL2FillData s
  | .combineLineTimeout => Sys2Proof.Machine.execCombineLineTimeout s
  | .returnStackRefillLands => Sys2Proof.Machine.execReturnStackRefillLands s
  | .stashFillDone => Sys2Proof.Machine.execStashFillDone s
  | .pageWalkDone => Sys2Proof.Machine.execPageWalkDone s
  | .pgmodeStepComplete => Sys2Proof.Machine.execPgmodeStepComplete s
  | .copySlicePush => Sys2Proof.Machine.execCopySlicePush s
  | .copySliceWritten => Sys2Proof.Machine.execCopySliceWritten s
  | .mfillDelivery => Sys2Proof.Machine.execMfillDelivery s
  | .passEnd => Sys2Proof.Machine.execPassEnd s
  | .tilePortOpDone => Sys2Proof.Machine.execTilePortOpDone s
  | .kcqPushArrival => Sys2Proof.Machine.execKcqPushArrival s
  | .kcqDispatchClaim => Sys2Proof.Machine.execKcqDispatchClaim s
  | .kcqEndToken => Sys2Proof.Machine.execKcqEndToken s
  | .handlerDispatch => Sys2Proof.Machine.execHandlerDispatch s
  | .msgEventArrival => Sys2Proof.Machine.execMsgEventArrival s
  | .heldLineWaitTimeout => Sys2Proof.Machine.execHeldLineWaitTimeout s
  | .stationSend => Sys2Proof.Machine.execStationSend s
  | .linkAck => Sys2Proof.Machine.execLinkAck s
  | .remoteRequestReceive => Sys2Proof.Machine.execRemoteRequestReceive s
  | .remoteResponse => Sys2Proof.Machine.execRemoteResponse s
  | .errorNotice => Sys2Proof.Machine.execErrorNotice s
  | .peerLost => Sys2Proof.Machine.execPeerLost s
  | .windowStall => Sys2Proof.Machine.execWindowStall s
  | .linkDown => Sys2Proof.Machine.execLinkDown s
  | .linkTrained => Sys2Proof.Machine.execLinkTrained s
  | .linkRetrainTimeout => Sys2Proof.Machine.execLinkRetrainTimeout s
  | .hoistArrival => Sys2Proof.Machine.execHoistArrival s
  | .hoistStrike => Sys2Proof.Machine.execHoistStrike s
  | .hoistSend => Sys2Proof.Machine.execHoistSend s
  | .hoistCircuitTimeout => Sys2Proof.Machine.execHoistCircuitTimeout s
  | .circuitMade => Sys2Proof.Machine.execCircuitMade s
  | .circuitBroken => Sys2Proof.Machine.execCircuitBroken s
  | .portTrained => Sys2Proof.Machine.execPortTrained s
  | .lockTimeout => Sys2Proof.Machine.execLockTimeout s
  | .identityHandshake => Sys2Proof.Machine.execIdentityHandshake s
  | .lossOfLock => Sys2Proof.Machine.execLossOfLock s
  | .portDrainDone => Sys2Proof.Machine.execPortDrainDone s
  | .opticalSliceAck => Sys2Proof.Machine.execOpticalSliceAck s
  | .barrierCopyTimeout => Sys2Proof.Machine.execBarrierCopyTimeout s
  | .emsgReceive => Sys2Proof.Machine.execEmsgReceive s
  | .scriptWaitTimeout => Sys2Proof.Machine.execScriptWaitTimeout s
  | .junctionThrottle => Sys2Proof.Machine.execJunctionThrottle s
  | .hardwarePrefetch => Sys2Proof.Machine.execHardwarePrefetch s

end Sys2Proof.Machine
end

