-- ==== Sys2Proof/WellFormed.lean ====
section
/-!
DEFINITION. Well-formed instructions: those whose words pass steps 2 and 5 to 9 of R419 (spec 24). The checks of steps
3, 4 and 10 to 13 depend on the sequencer, the launch and the registers, and stand in the meanings.
-/

namespace Sys2Proof

open Machine

/-- The row `CAWAIT` covers `.live` and `.dark`, the row `CAWAIT_MEM` covers `.mem` (R357). -/
def cawaitRow : Instr → Bool
  | .cawait _ m => !buildMulti.cawaitIsMem m
  | .cawaitMem _ m => buildMulti.cawaitIsMem m
  | _ => true

/-- The words of the instruction are an instruction (R419 steps 2 and 5 to 9). An event has no words. -/
def wellFormed (i : Instr) : Bool :=
  match view i with
  | none => false
  | some (opc, _, f) => (staticSub opc f).isNone && cawaitRow i

end Sys2Proof
end

