-- ==== Sys2Proof/Decode.lean ====
section
/-!
DEFINITION. From words to instructions and back (spec 08 R143 to R147, R159; 24 R419 steps 2 and 5 to 9). Decoding is
total: words that are no instruction are rejected under the name of the first check they fail.
-/

namespace Sys2Proof

open Machine

/-- Why words are not an instruction, in the order of R419. `truncated`: fewer words than LEN gives were supplied. -/
inductive Reject where
  | truncated
  | reservedOpcode
  | badForm
  | nonzeroField
  | badType
  | badRounding
  | badOpt
  | badBMode
  deriving DecidableEq, Repr

/-- The SUB of TRAPINFO1 for a rejection (R422); a truncated instruction never reaches the checks. -/
def Reject.sub : Reject → Nat
  | .truncated => 0
  | .reservedOpcode => 0x01
  | .badForm => 0x03
  | .nonzeroField => 0x04
  | .badType => 0x05
  | .badRounding => 0x06
  | .badOpt => 0x07
  | .badBMode => 0x08

/-- The rejection that a SUB of steps 5 to 9 names. -/
def Reject.ofSub (sub : Nat) : Reject :=
  match sub with
  | 0x03 => .badForm
  | 0x04 => .nonzeroField
  | 0x05 => .badType
  | 0x06 => .badRounding
  | 0x07 => .badOpt
  | _ => .badBMode

/-- OPC, bits 9:2 of word 0 (R144). -/
def opcOf (w0 : W32) : Nat := (w0.extractLsb' 2 8).toNat

/-- The number of words that LEN, bits 1:0 of word 0, gives (R143). -/
def wordCount (w0 : W32) : Nat :=
  match (w0.extractLsb' 0 2).toNat with
  | 0 => 1
  | 1 => 3
  | 2 => 3
  | _ => 5

/-- PNEG, PSEL and STALL (R144). -/
def hdrOf (w0 : W32) : Hdr :=
  { pneg := w0.getLsbD 17, psel := w0.extractLsb' 13 4, stall := w0.extractLsb' 10 3 }

/-- The fields of words 0 to 2 of an extended form (R147). -/
def extOf (w0 w1 w2 : W32) : Ext :=
  { type2 := w0.extractLsb' 24 5, pitch := w0.extractLsb' 18 6,
    bm := w1.extractLsb' 30 2, b := w1.extractLsb' 20 10, a := w1.extractLsb' 10 10, d := w1.extractLsb' 0 10,
    cols := w2.extractLsb' 26 3, rows := w2.extractLsb' 23 3, mod := w2.extractLsb' 15 8,
    typ := w2.extractLsb' 10 5, c := w2.extractLsb' 0 10 }

/-- Reserved bits 31:29 of words 0 and 2 of an extended form (R147). -/
def reservedBits (w0 w2 : W32) : Bool := w0.extractLsb' 29 3 ≠ 0 || w2.extractLsb' 29 3 ≠ 0

/-- The form that the words of an instruction have, and whether reserved bits are set (R143, R146, R147). -/
def formOf : List W32 → Option (Form × Bool)
  | [w0] => some (.single (w0.extractLsb' 18 7) (w0.extractLsb' 25 7), false)
  | [w0, w1, w2] =>
    if w0.extractLsb' 0 2 = 2 then
      some (.multi (.lit (w0.extractLsb' 18 7) (w0.extractLsb' 25 7) (w2 ++ w1)), false)
    else some (.multi (.ext (extOf w0 w1 w2)), reservedBits w0 w2)
  | [w0, w1, w2, l0, l1] => some (.multi (.extLit (extOf w0 w1 w2) (l1 ++ l0)), reservedBits w0 w2)
  | _ => none

/-- The first check of steps 2 and 5 to 9 that the parts of an instruction fail (R419). -/
def rejectOf (opc : Nat) (f : Form) (reserved : Bool) : Option Reject :=
  if !opcDefined opc then some .reservedOpcode
  else if formOk opc f && reserved then some .nonzeroField
  else (staticSub opc f).map Reject.ofSub

/-- The instruction at the head of a list of words, and the number of words it takes. -/
def decode : List W32 → Except Reject (Instr × Nat)
  | [] => .error .truncated
  | w0 :: ws =>
    match formOf (w0 :: ws.take (wordCount w0 - 1)) with
    | none => .error .truncated
    | some (f, r) =>
      match rejectOf (opcOf w0) f r with
      | some e => .error e
      | none =>
        match build (opcOf w0) (hdrOf w0) f with
        | some i => .ok (i, wordCount w0)
        | none => .error .nonzeroField

/-- Word 0 of an instruction (R144, R146, R147). -/
def word0 (hi : BitVec 14) (h : Hdr) (opc len : Nat) : W32 :=
  hi ++ BitVec.ofBool h.pneg ++ h.psel ++ h.stall ++ BitVec.ofNat 8 opc ++ BitVec.ofNat 2 len

/-- Words 0 to 2 of an extended form (R147). -/
def extWords (opc : Nat) (h : Hdr) (x : Ext) (len : Nat) : List W32 :=
  [word0 ((0 : BitVec 3) ++ x.type2 ++ x.pitch) h opc len,
   x.bm ++ x.b ++ x.a ++ x.d,
   (0 : BitVec 3) ++ x.cols ++ x.rows ++ x.mod ++ x.typ ++ x.c]

/-- A 64-bit literal, low word first (R143). -/
def litWords (v : W64) : List W32 := [v.extractLsb' 0 32, v.extractLsb' 32 32]

/-- The words of an opcode, a header and a form (R143). -/
def encodeForm (opc : Nat) (h : Hdr) : Form → List W32
  | .single d a => [word0 (a ++ d) h opc 0]
  | .multi (.lit d a v) => word0 (a ++ d) h opc 2 :: litWords v
  | .multi (.ext x) => extWords opc h x 1
  | .multi (.extLit x v) => extWords opc h x 3 ++ litWords v

/-- The words of an instruction; an event has none. -/
def encode (i : Instr) : List W32 :=
  match view i with
  | none => []
  | some (opc, h, f) => encodeForm opc h f

/-- The first `n` words of a number whose bit 0 is the lowest bit of the first word. -/
def wordsOfNat : Nat → Nat → List W32
  | 0, _ => []
  | n + 1, w => BitVec.ofNat 32 w :: wordsOfNat n (w / 2 ^ 32)

/-- The instruction of a row of the opcode table whose first bits are `w`; the bits above `nbits` are 0. The words are
the hardware's own: little-endian, the first at the lowest address (R143). -/
def decodeTableWord (nbits w : Nat) : Option Instr :=
  match decode (wordsOfNat 5 (w % 2 ^ nbits)) with
  | .ok (i, _) => some i
  | .error _ => none

end Sys2Proof
end

