-- ==== Sys2Proof/Machine/Fetch.lean ====
section
/-!
DEFINITION. Fetching instructions: a core's instruction buffer (spec 09 R193, R194; 23 R414; 21 R391), the handler store of a
slice (14 R313) and the script memory (16 R355); what the words that are no instruction do (24 R419, R420, R425).
-/

namespace Sys2Proof.Machine

/-! ## Lines of a core (R24, R193, R414) -/

/-- What a core gets for a line that it fetches. -/
inductive LineRes where
  /-- The bytes, the buffer entry that holds them, and the granules in error among those read from L2. -/
  | ready (id : Option Nat) (data : List Byte) (bad : List Nat)
  | fault (cause : Nat)
  /-- A translation wait: the lanes park (R414). -/
  | park (t : TrState)
  /-- The line is not here yet. -/
  | wait
  deriving DecidableEq, Repr

/-- The lines that an instruction buffer of 128 KiB holds (R9). -/
def ibufLines : Nat := 1024

/-- Room for one more line in a core's instruction buffer: a line that no bundle is inside leaves, which one is free
(assumption 7). None where every line is in use: the fetched words are then not kept. -/
def ibufRoom (core : Nat) (s : State) : Option State :=
  if (s.core core).ibuf.length < ibufLines then some s
  else
    let idle := ((s.core core).ibuf.map Prod.fst).filter fun id => !lineInUse s core id
    let (n, s) := s.freeChoice idle.length
    (idle[n]?).map fun id => s.updCore core fun c => { c with ibuf := delN c.ibuf id }

/-- A line read from L2 into the buffer (R391): one with a granule in error is not kept. -/
def readLine (core tenant vline : Nat) (x : Xlat) (s : State) : LineRes × State :=
  let pa := x.pa (128 * vline)
  if !l2Free s (pa / 128) then (.wait, s)
  else
    let s := touchL2 (pa / 128) s
    let data := readBytes s.mem pa 128
    let bad := (List.range 16).filter fun i => s.ecc.contains (pa / 8 + i)
    match if bad.isEmpty then ibufRoom core s else none with
    | some s =>
      let (id, s) := s.fresh
      (.ready (some id) data [], s.updCore core fun c => { c with ibuf := putN c.ibuf id { tenant, vline, data } })
    | none => (.ready none data bad, s)

/-- A line fetched anew: translated, then read (R113, R114, R414). A miss waits outside a full pending queue and joins a page that is
in a translation wait; otherwise it enters and is walked in the same clock (R116). An address of another node has no leaf here. -/
def fetchLine (core tenant vline : Nat) (s : State) : LineRes × State :=
  let va := 128 * vline
  match lookup s core tenant va .fetch with
  | .found x => readLine core tenant vline x s
  | .bad 0 => (.wait, { s with hole := true })
  | .bad c => (.fault c, s)
  | .todo =>
    if pageWaits s core tenant va then (.park .wait, s)
    else if walksFull s core then (.wait, s)
    else (match walkNow s tenant va (some core) .fetch with
     | (.found x, s) => readLine core tenant vline x (fillTlbs core x s)
     | (.bad 0, s) => (.wait, s)
     | (.bad c, s) => (.fault c, s)
     | (.wait, s) => (.park .wait, s)
     | (.pri p, s) => (.park (.pri p), s)
     | (_, s) => (.wait, s))
  | .wait => (.park .wait, s)
  | .pri p => (.park (.pri p), s)
  | .ats x => (.wait, noteAts (.ats x) va s)
  | _ => (.fault cTRANSLATE, s)

/-- The line of an address for a bundle: a copy that it holds, stale or not, else the buffer's, else a new one (R143,
R193). -/
def lineFor (core tenant vline : Nat) (held : List Nat) (s : State) : LineRes × State :=
  let buf := (s.core core).ibuf
  let mine := held.findSome? fun i => match getN buf i with
    | some l => if l.tenant = tenant && l.vline = vline then some (i, l) else none
    | none => none
  match mine.orElse fun _ => buf.find? fun (_, l) => l.tenant = tenant && l.vline = vline && !l.stale with
  | some (i, l) => (.ready (some i) l.data [], s)
  | none => fetchLine core tenant vline s

/-- What a sequencer fetches. -/
inductive Fetched where
  /-- The words of one instruction, and the buffer entries of its one or two lines. -/
  | words (ws : List W32) (line line2 : Option Nat)
  /-- Word 0, where it was fetched. -/
  | fault (cause va : Nat) (word0 : W32)
  | park (t : TrState) (va : Nat)
  | wait
  deriving DecidableEq, Repr

/-- The word at an offset of fetched bytes. -/
def wordAt (data : List Byte) (off : Nat) : W32 := w32 (ofBytes ((data.drop off).take 4))

/-- The words of an instruction at an offset of a line, of at most two lines (R143). -/
def wordsIn (data : List Byte) (off : Nat) : List W32 :=
  (List.range (wordCount (wordAt data off))).map fun i => wordAt data (off + 4 * i)

/-- A granule of an instruction's bytes is in error. -/
def wordsBad (bad : List Nat) (off n : Nat) : Bool := bad.any fun g => decide (off / 8 ≤ g) && decide (g ≤ (off + n - 1) / 8)

/-- The instruction at a program counter of a core (R143, R414): its second line is fetched where it crosses into one. -/
def fetchWords (core tenant : Nat) (pc : W64) (held : List Nat) (s : State) : Fetched × State :=
  let va := pc.toNat / 4 * 4
  let off := va % 128
  match lineFor core tenant (va / 128) held s with
  | (.fault c, s) => (.fault c va 0, s)
  | (.park t, s) => (.park t va, s)
  | (.wait, s) => (.wait, s)
  | (.ready id d1 b1, s) =>
    let w0 := wordAt d1 off
    let n := 4 * wordCount w0
    if wordsBad b1 off (min n (128 - off)) then (.fault cECC va (if wordsBad b1 off 4 then 0 else w0), countError cECC s)
    else if off + n ≤ 128 then (.words (wordsIn d1 off) id none, s)
    else
      let va2 := 128 * (va / 128 + 1)
      match lineFor core tenant (va / 128 + 1) held s with
      | (.fault c, s) => (.fault c va2 w0, s)
      | (.park t, s) => (.park t va2, s)
      | (.wait, s) => (.wait, s)
      | (.ready id2 d2 b2, s) =>
        if wordsBad b2 0 (off + n - 128) then (.fault cECC va2 w0, countError cECC s)
        else (.words (wordsIn (d1 ++ d2) off) id id2, s)

/-- A fetch that faults (R414, R419 step 1): on every lane of the bundle, at the instruction not fetched. -/
def fetchFault (cause va : Nat) (s : State) : State :=
  let k := gkey s.cur.unit s.cur.sub
  match s.group k with
  | none => s
  | some g =>
    let b := g.bundle s.cur.lanes
    let s := s.setGroup k (g.begin s.cur.clock s.cur.lanes s.cur.pc)
    (precise k (sameFault s.cur.lanes cause 0 0 (w64 va)) s).updGroup k fun g => g.settle s.cur b 0

/-- A fetch that meets a translation wait parks the bundle's lanes (R414). -/
def fetchParks (t : TrState) (va : Nat) (s : State) : State :=
  let core := s.cur.unit
  let k := gkey core s.cur.sub
  match s.group k with
  | none => s
  | some g =>
    let (id, s) := s.fresh
    let lane := (lowest s.cur.lanes).getD 0
    let a : Access :=
      { id, owner := id, core, slot := s.cur.sub, tenant := g.tenant, kind := .fetch, pc := s.cur.pc, lanes := s.cur.lanes, typ := 0,
        reqs := [{ lane, pos := 0, va, size := 4, dst := 0, tr := t }], scalar := true, parked := true }
    let s := s.updGroup k fun g => g.park s.cur.lanes (fun _ => .translate id) fun _ => s.cur.pc
    let s := putAcc a s
    if t = .wait && !pageWaits s core g.tenant va then askWalk core g.tenant va s else s

/-! ## Words that are no instruction (R419, R420, R425) -/

/-- A bundle issues words that decoding refuses: the first check of steps 2 to 9 that fails decides. With no active lane the
words have no effect (R420), but PSEL itself is judged (R424): DESIGN CHOICE, assumption 14. -/
def groupReject (e : Reject) (w0 : W32) (s : State) : State :=
  let k := gkey s.cur.unit s.cur.sub
  match s.group k with
  | none => s
  | some g =>
    let now := s.cur.clock
    let lanes := s.cur.lanes
    let opc := opcOf w0
    let h := hdrOf w0
    let b := g.bundle lanes
    let s1 := s.setGroup k (g.begin now lanes (nextPc s.cur))
    let act := activeMask g now h lanes
    let trap := match lowest lanes with | some l => (g.lane l).trap | none => false
    let why : Nat × Nat :=
      if e = .reservedOpcode then (cILLEGAL, 0x01)
      else if !groupClass opc then (cILLEGAL, 0x02)
      else if classOf opc = .supervisor && !(trap || g.supervisor) then (cPRIV, 0)
      else if opc = 0x21 && (h.psel ≠ 0 || h.pneg) && e ≠ .badForm then (cILLEGAL, 0x04)
      else (cILLEGAL, e.sub)
    if act = 0 then
      match predFault g now lanes h with
      | some c => complete k b h (precise k (sameFault lanes c 0 0 (predInfo c h)) (countError c s1))
      | none => complete k b h s1
    else complete k b h (precise k (sameFault (faultLanes opc act) why.1 why.2 0 0) s1)

/-- A Folbel core or the fabric processor issues words that decoding refuses (R425): there an access has no record in C. -/
def procReject (e : Reject) (ws : List W32) (s : State) : State :=
  let w0 := ws.headD 0
  let h := hdrOf w0
  let mem := [0x18, 0x19, 0x1d].contains (opcOf w0) && (ws.getD 2 0).extractLsb' 0 10 ≠ 0
  let sub :=
    if e = .reservedOpcode then 0x01
    else if !procClass s.cur.seq (opcOf w0) then 0x02
    else if e ≠ .badForm && (h.psel ≠ 0 || h.pneg || mem) then 0x04
    else e.sub
  procFault cILLEGAL sub 0 s

/-- What words that are no instruction do, by the sequencer that issues them. -/
def reject (e : Reject) (ws : List W32) (s : State) : State :=
  match s.cur.seq with
  | .group => groupReject e (ws.headD 0) s
  | _ => procReject e ws s

/-! ## Regions of the sequencers without lanes (R313, R355) -/

/-- The instruction at an offset of a region of a store: no more than the region holds. -/
def regionWords (store : ZMap 8) (base size off : Nat) : Option (List W32) :=
  let word (i : Nat) : W32 := w32 (readNat store (base + off + 4 * i) 4)
  let n := wordCount (word 0)
  if size < off + 4 || size < off + 4 * n then none else some ((List.range n).map word)

/-- An error stands among the words of the current context's instruction (R388, R432). -/
def procWordsBad (ws : List W32) (s : State) : Bool := procBad s ((procRegion s).1 + (curProc s).pc) (4 * ws.length)

/-- The instruction of the current context of a Folbel core or of the fabric processor. -/
def procWords (s : State) : Option (List W32) :=
  let (base, size) := procRegion s
  regionWords (procStore s) base size (curProc s).pc

/-- A fetch outside the region (R313, R355): HANDLER_ACCESS or BOUNDS, with ADDR the program counter. -/
def regionFault (s : State) : State :=
  procFault (match s.cur.seq with | .folbel => cACCESS | _ => cBOUNDS) 0 (w64 (curProc s).pc) s

end Sys2Proof.Machine
end

