-- ==== Sys2Proof/Machine/Run.lean ====
section
/-!
DEFINITION. Who issues, and what: the choice of a bundle at a partition's clock (spec 02 R24, R34; 03 R57, R58), the turns of
the Folbel cores and the fabric processor (14 R301; 16 R355), the clocks, and events.
-/

namespace Sys2Proof.Machine

/-! ## The order of candidates (R58) -/

/-- Insertion into a list that an order sorts. -/
def insertBy {α : Type} (before : α → α → Bool) (x : α) : List α → List α
  | [] => [x]
  | y :: ys => if before x y then x :: y :: ys else y :: insertBy before x ys

/-- Insertion sort. -/
def sortBy {α : Type} (before : α → α → Bool) : List α → List α
  | [] => []
  | x :: xs => insertBy before x (sortBy before xs)

/-- The lead bundle of a group (R24): the most lanes, then the lowest lane. -/
def Group.lead (g : Group) : Option Bundle :=
  (sortBy (fun (a b : Bundle) => decide (popc b.mask < popc a.mask) ||
    (popc a.mask = popc b.mask && decide ((lowest a.mask).getD 64 < (lowest b.mask).getD 64))) g.bundles).head?

/-- The bundles of a group in the order of rule 4 of R58: those of age 64 or more, oldest first; the lead; the others, oldest
first. -/
def Group.ordered (g : Group) (bs : List Bundle) : List Bundle :=
  let lead := g.lead
  let rank (b : Bundle) : Nat := if 64 ≤ b.age && some b ≠ lead then 0 else if some b = lead then 1 else 2
  sortBy (fun (a b : Bundle) => decide (rank a < rank b) || (rank a = rank b && (decide (b.age < a.age) ||
    (a.age = b.age && decide ((lowest a.mask).getD 64 < (lowest b.mask).getD 64))))) bs

/-- A bundle is in trap mode (R22). -/
def Group.trapped (g : Group) (b : Bundle) : Bool := g.trappedIn b.mask

/-- A bundle may be a candidate (R38, R57, R58): its stall count is 0, nothing holds it, and it has been regrouped since a
restore. -/
def Bundle.free (b : Bundle) (now : Nat) : Bool := decide (b.readyAt ≤ now) && b.hold.isNone && !b.restored

/-- The bundles of a partition in the order of R58, each with its slot. -/
def candidates (s : State) (core part : Nat) : List (Nat × W64) :=
  let now := (s.core core).cycle
  let gs := s.groups.filter fun (k, g) => k / 128 = core && k % 8 = part && !saving s g.tenant
  let key (x : Nat × Group) : Nat × Nat × Nat := (3 - x.2.prio, (if now < x.2.yieldUntil then 1 else 0), x.2.lastIssue)
  let le (a b : Nat × Group) : Bool :=
    let (p, y, t) := key a
    let (q, z, u) := key b
    decide (p < q) || (p = q && (decide (y < z) || (y = z && (decide (t < u) || (t = u && decide (a.1 < b.1))))))
  let plain := sortBy le gs
  let trap (a b : Nat × Group) : Bool := le (a.1, { a.2 with yieldUntil := 0 }) (b.1, { b.2 with yieldUntil := 0 })
  let pick (t : Bool) (x : Nat × Group) : List (Nat × W64) :=
    (x.2.ordered (x.2.bundles.filter fun b => b.free now && x.2.trapped b = t)).map fun b => (x.1 % 128, b.mask)
  (sortBy trap gs).flatMap (pick true) ++ plain.flatMap (pick false)

/-! ## One issue -/

/-- The words of one instruction are executed, or refused by R419. -/
def runWords (ws : List W32) (s : State) : Host.Outcome State Fault Refusal :=
  match decode ws with
  | .ok (i, _) => exec i s
  | .error e => .next (reject e ws s)

/-- A bundle takes the references of the lines it fetches (R24, R143, R193). -/
def holdLine (core slot : Nat) (m : W64) (line line2 : Option Nat) (s : State) : State :=
  s.updGroup (gkey core slot) fun g => { g with bundles := g.bundles.map fun b => if b.mask = m then { b with line, line2 } else b }

/-- A partition tries its bundles in order until one issues (R58). -/
def issueFirst (core : Nat) : List (Nat × W64) → State → Host.Outcome State Fault Refusal
  | [], s => .next s
  | (slot, m) :: rest, s =>
    match s.group (gkey core slot), lowest m with
    | some g, some l =>
      let pc := (g.lane l).pc
      let s := { s with cur := { unit := core, sub := slot, lanes := m, pc, clock := (s.core core).cycle } }
      match fetchWords core g.tenant pc (g.bundle m).lines s with
      | (.wait, s) => issueFirst core rest s
      | (.park t va, s) => issueFirst core rest (fetchParks t va s)
      | (.fault c va w, s) => .next (fetchFault c va { s with cur := { s.cur with word0 := w } })
      | (.words ws line line2, s) =>
        let s := holdLine core slot m line line2 s
        match runWords ws { s with cur := { s.cur with nwords := ws.length, word0 := ws.headD 0 } } with
        | .next t => if t.cur.held then issueFirst core rest s else .next t
        | .fault f => .fault f
        | .refused r => .refused r
    | _, _ => issueFirst core rest s

/-- Contexts 0 to 3 in round robin order from one. -/
def rounds (from_ : Nat) : List Nat := (List.range 4).map fun i => (from_ + i) % 4

/-- A sequencer without lanes tries its contexts in order until one issues (R301, R355); `won` notes which. -/
def issueProc (seq : Seq) (unit clock : Nat) (won : Nat → State → State) : List Nat → State → Host.Outcome State Fault Refusal
  | [], s => .next s
  | k :: rest, s =>
    let s := { s with cur := { seq, unit, sub := k, clock } }
    let p := curProc s
    if !curBusy s || decide (clock < p.readyAt) then issueProc seq unit clock won rest s
    else
      let s := { s with cur := { s.cur with pc := w64 p.pc } }
      match procWords s with
      | none => .next (regionFault (won k s))
      | some ws =>
        if procWordsBad ws s then .next (procFault cECC 0 (storeInfo (w64 p.pc)) (won k s))
        else match runWords ws { s with cur := { s.cur with nwords := ws.length, word0 := ws.headD 0 } } with
        | .next t => if t.cur.held then issueProc seq unit clock won rest { t with cur := { t.cur with held := false } } else .next (won k t)
        | .fault f => .fault f
        | .refused r => .refused r

/-! ## Turns -/

/-- A partition's clock ends: the next partition of the core acts, or the core's clock ends with the test of R393 and the next
begins. -/
def nextPhase (core : Nat) (s : State) : State :=
  let s := if (s.core core).phase = 7 then stallTick core s else s
  s.updCore core fun c => if c.phase = 7 then { c with phase := 0, cycle := c.cycle + 1 } else { c with phase := c.phase + 1 }

/-- Issue is withheld at this clock by the throttle (R369): not while a pre-emption is in progress. The device chooses the
clocks. -/
def withheld (s : State) : Bool × State :=
  if s.regs.depth < 2 || s.job.isSome then (false, s)
  else let (n, s) := s.freeChoice 2; (n = 1, s)

/-- One partition of a core at its clock (R23, R58, R369). -/
def coreTurn (core : Nat) (s : State) : Host.Outcome State Fault Refusal :=
  let part := (s.core core).phase
  let s := regroupAt core part s
  let (no, s) := withheld s
  if no then .next (nextPhase core s)
  else match issueFirst core (candidates s core part) s with
    | .next t => .next (nextPhase core t)
    | .fault f => .fault f
    | .refused r => .refused r

/-- One clock of a slice's Folbel core (R301). -/
def folbelTurn (n : Nat) (s : State) : Host.Outcome State Fault Refusal :=
  let x := s.slice n
  let tick (s : State) : State := s.updSlice n fun y => { y with clock := y.clock + 1 }
  match issueProc .folbel n x.clock (fun k s => s.updSlice n fun y => { y with next := (k + 1) % 4 }) (rounds x.next) s with
    | .next t => .next (tick t)
    | .fault f => .fault f
    | .refused r => .refused r

/-- One clock of the fabric processor (R355). -/
def fabricTurn (s : State) : Host.Outcome State Fault Refusal :=
  let x := s.fabric
  let tick (s : State) : State := drainLimits { s with fabric := { s.fabric with clock := s.fabric.clock + 1 } }
  match issueProc .fabric 0 x.clock (fun k s => { s with fabric := { s.fabric with next := (k + 1) % 4 } }) (rounds x.next) s with
  | .next t => .next (tick t)
  | .fault f => .fault f
  | .refused r => .refused r

/-- The device has stopped at its trip temperature and holds all state (R369). -/
def State.stoppedHot (s : State) : Bool := s.regs.thermStat.getLsbD 0

/-- One clock of whose turn it is; a stopped device holds its state (R369). -/
def turnStep (t : Turn) (s : State) : Host.Outcome State Fault Refusal :=
  if s.stoppedHot then .next s else
  match t with
  | .core c => if c < 128 then coreTurn c s else .fault .noSuchUnit
  | .folbel n => if n < 64 then folbelTurn n s else .fault .noSuchUnit
  | .fabric => fabricTurn s
  | .station d => if d < 4 then .next (tickStation d s) else .fault .noSuchUnit

/-- Events that come from the host driver or from the outside of the device: they occur while it is stopped too (R361, R362,
R369). Of a save only the request does. -/
def fromOutside (i : Instr) (x : Input) : Bool :=
  match i with
  | .registerWrite => true | .queueEnable => true | .stationEnable => true | .faultQueueEnable => true
  | .handlerTableLoad => true | .preemptSave => x.aux = 0 | .preemptRestore => true | .attestationGo => true | .demandRefuse => true
  | .thermalResume => true | .powerOnReset => true | .powerWindowEnd => true | .junctionThrottle => true
  | _ => false

/-- An event of the schedule: an operation of the table that is no instruction of a sequencer. A stopped device takes none
but those of the host driver (R369). -/
def eventStep (i : Instr) (x : Input) (s : State) : Host.Outcome State Fault Refusal :=
  match view i with
  | some _ => .next s
  | none => if s.stoppedHot && !fromOutside i x then .next s else exec i { s with input := x }

/-- An upset (R388 to R391): a correctable error is corrected and counted; an uncorrectable one stays in its granule, one in the
tag or the presence vector of an L2 line in every granule of the line (DESIGN CHOICE, assumption 27); a
parity error makes an entry of a TLB or of the walker's cache a miss, and discards an instruction-buffer line, for every
bundle that was inside it (R414). -/
def applyUpset (u : Upset) (s : State) : State :=
  match u with
  | .corrected => { s with regs := { s.regs with ceCnt := s.regs.ceCnt + 1 } }
  | .memory g => { s with ecc := insertNat g s.ecc }
  | .register k f r l => s.updGroup k fun g => { g with badRegs := (f, r, granule f l) :: g.badRegs }
  | .l2Tag p => { s with ecc := (List.range 16).foldl (fun m i => insertNat (16 * p + i) m) s.ecc }
  | .spot x => { s with errs := x :: s.errs.filter (· ≠ x) }
  | .event n i => s.updSlice n fun x =>
      { x with queue := x.queue.zipIdx.map fun (e, j) => if j = i then { e with bad := true } else e }
  | .message i => if s.fabric.recvq.length ≤ i then s else { s with fabric := { s.fabric with recvBad := insertNat i s.fabric.recvBad } }
  | .coreTlb c i => s.updCore c fun x => { x with tlb := x.tlb.eraseIdx i }
  | .dieTlb d i => s.updDie d fun x => { x with tlb := x.tlb.eraseIdx i }
  | .walkCache d i => s.updDie d fun x => { x with cache := x.cache.eraseIdx i }
  | .ibuf c id => s.updCore c fun x => { x with ibuf := delN x.ibuf id }

/-- What is next: an event, a change of turn, or a clock. -/
def act (s : State) : Host.Outcome State Fault Refusal :=
  match s.schedule with
  | [] => turnStep s.turn s
  | .turn t :: rest => turnStep t { s with schedule := rest, turn := t }
  | .event i x :: rest => eventStep i x { s with schedule := rest }
  | .upset u :: rest => .next (applyUpset u { s with schedule := rest })

/-- An access to a physical address that does not exist ends the run (R69). -/
def checkHole (o : Host.Outcome State Fault Refusal) : Host.Outcome State Fault Refusal :=
  match o with
  | .next t => if t.hole then .fault .noSuchAddress else .next t
  | .fault f => .fault f
  | .refused r => .refused r

/-! ## Placing one instruction -/

/-- The bytes of an instruction whose bits are `w`, little-endian, 20 of them (R143). -/
def instrBytes (nbits w : Nat) : List Byte := toBytes 20 (w % 2 ^ nbits)

/-- The sequencer that executes an opcode (R154). -/
def seqFor (opc : Nat) : Seq :=
  match classOf opc with | .slice => .folbel | .circuit => .fabric | _ => .group

/-- A group with full budgets whose one bundle stands at address 0 of a line that core 0 holds. -/
def placeGroupWord (bs : List Byte) (s : State) : State :=
  let now := (s.core 0).cycle
  let g : Group := { nv := 1024, ns := 192, nt := 8, supervisor := true,
                     bundles := [{ mask := BitVec.allOnes 64, readyAt := now, line := some s.nextId }], lastIssue := now }
  let s := { s with
    groups := putN (s.groups.filter fun (k, _) => k / 128 ≠ 0 || k % 8 ≠ 0) 0 g
    nextId := s.nextId + 1, turn := .core 0 }
  s.updCore 0 fun c => { c with phase := 0, ibuf := putN c.ibuf (s.nextId - 1) { tenant := 0, vline := 0, data := bs ++ List.replicate 108 0 } }

/-- A handler context of slice 0 at offset 0 of a region that holds the words. -/
def placeFolbelWord (bs : List Byte) (s : State) : State :=
  let c : FolbelCtx := { busy := true, size := 4096, budget := 128 }
  { s with turn := .folbel 0 }.updSlice 0 fun x => { x with store := writeBytes x.store 0 bs, ctxs := c :: List.replicate 3 {}, next := 0 }

/-- A script context at offset 0 of its region. -/
def placeScriptWord (bs : List Byte) (s : State) : State :=
  { s with turn := .fabric, fabric := { s.fabric with
      mem := writeBytes s.fabric.mem 0 bs, ctxs := { busy := true } :: List.replicate 3 {}, next := 0 } }

/-- An instruction where the next step fetches, in the sequencer that executes its opcode. -/
def placeWord (nbits w : Nat) (s : State) : State :=
  let bs := instrBytes nbits w
  let s := { s with schedule := [], job := none, hole := false, regs := { s.regs with thermStat := 0, pwrStat := 0 } }
  match seqFor (opcOf (wordAt bs 0)) with
  | .group => placeGroupWord bs s
  | .folbel => placeFolbelWord bs s
  | .fabric => placeScriptWord bs s

end Sys2Proof.Machine
end

