-- ==== Sys2Proof/Machine/Step.lean ====
section
/-!
DEFINITION. The step, and the placing of one instruction where the step fetches next (assumptions 3 and 4).
-/

namespace Sys2Proof.Machine

/-- One step: the next event of the schedule, or one clock of the agent whose turn it is. -/
def step (s : State) : Host.Outcome State Fault Refusal := checkHole (act s)

/-- The state with the instruction whose bits are `w` where the next step fetches (assumption 4). -/
def State.withFetchWord (s : State) (nbits w : Nat) : State := placeWord nbits w s

end Sys2Proof.Machine
end

