-- ==== Sys2Proof/Safety.lean ====
section
/-!
DEFINITION. The terms in which claims are stated: the canonical form of memory, an issue that passes every check of R419 before
the instruction's own, and the end of an issue.
-/

namespace Sys2Proof.Machine

/-- Memory is in its one canonical form: addresses rise strictly and no listed byte is 0. -/
def Memory.wf (m : ZMap 8) : Bool := wfFrom 0 m

/-- The key of the group that issues. -/
def Cursor.key (c : Cursor) : Nat := gkey c.unit c.sub

/-- The operands of an instruction as its group reads them. -/
def operands (g : Group) (opc : Nat) (f : Form) : Opnd := fixQuad g (opndOf opc f)

/-- The active lanes of the issue (R145). -/
def activeOf (g : Group) (h : Hdr) (s : State) : W64 := activeMask g s.cur.clock h s.cur.lanes

/-- The bundle that issues is in trap mode. -/
def inTrap (g : Group) (s : State) : Bool := match lowest s.cur.lanes with | some l => (g.lane l).trap | none => false

/-- What the effect of an issue is given. -/
def issueOf (opc : Nat) (h : Hdr) (f : Form) (g : Group) (s : State) : Iss :=
  { k := s.cur.key, now := s.cur.clock, o := operands g opc f, act := activeOf g h s, next := nextPc s.cur }

/-- A bundle of a group issues an instruction, some lane of it is active, and steps 2 to 11 of R419 pass: what an issue
needs before the instruction's own effect. -/
structure Issues (opc : Nat) (h : Hdr) (f : Form) (g : Group) (s : State) : Prop where
  seq : s.cur.seq = .group
  here : s.group s.cur.key = some g
  lanes : activeOf g h s ≠ 0
  words : staticCheck g (inTrap g s) opc h f = none
  ready : (sources g s.cur.clock (operands g opc f)).any (srcScored g s.cur.clock s.cur.lanes) = false
  free : datapathBusy s opc = false
  early : step11 g s.cur.clock (activeOf g h s) s.cur.lanes h (operands g opc f) = none
  sound : errorRead s s.cur.key g s.cur.clock (activeOf g h s) s.cur.lanes h (operands g opc f) = none

/-- The group once its bundle has issued: the lanes of the bundle stand at the following instruction. -/
def Group.begun (g : Group) (s : State) : Group := g.begin s.cur.clock s.cur.lanes (nextPc s.cur)

/-- The state in which the effect of an issue is computed. -/
def State.begun (g : Group) (s : State) : State := s.setGroup s.cur.key (g.begun s)

/-- The end of an issue: the lanes that go on become bundles again. -/
def issued (g : Group) (h : Hdr) (s t : State) : State := complete s.cur.key (g.bundle s.cur.lanes) h t

/-- A context of a sequencer without lanes runs an instruction that passes every check (R419, R425). -/
structure Runs (opc : Nat) (h : Hdr) (f : Form) (s : State) : Prop where
  seq : s.cur.seq ≠ .group
  busy : curBusy s = true
  words : procCheck s.cur.seq opc h f = none
  budget : s.cur.seq = .folbel → ((s.slice s.cur.unit).ctx s.cur.sub).budget ≠ 0

/-- The registers of the context with the program counter at the following instruction. -/
def begunProc (s : State) : Proc := { curProc s with pc := (nextPc s.cur).toNat }

end Sys2Proof.Machine
end

