-- ==== Sys2Proof/Certificates/Slice0/Obligations.lean ====
section
/-!
DEFINITION. The statements about the model, each an `Obligations.<Name>`, and the terms they are stated in (`Sys2Proof.Rules`). The
instruction statements hold for every group, Folbel core or fabric context in which the instruction passes the checks of R419 (`Issues`,
`Runs`); `sameButIssue` and equations of whole states are their frames. The event statements read what the event brings from `input`.
-/

/-! ## Rules of the arithmetic -/

namespace Sys2Proof.Rules

open Sys2Proof.Machine

/-- The result of a scalar instruction 0x01 to 0x17 (R168 to R173): operands, A, B whole, C. -/
def scalar (opc : Nat) (o : Opnd) (a b c : W64) : W64 :=
  let t := o.typ
  let w := widthOf t
  let x := intOf t a.toNat
  let y := intOf t b.toNat
  let ext (r : Int) : W64 := extW t (ofSigned 64 r)
  let ea := extW t a.toNat
  let eb := extW t b.toNat
  let low := a.toNat % 2 ^ w
  match opc with
  | 0x01 => extW t (if o.single then ofSigned 64 (toSigned 7 o.a) else b.toNat)
  | 0x02 => extW t low
  | 0x03 => ext (x + y)
  | 0x04 => ext (x - y)
  | 0x05 => ext (x * y)
  | 0x06 => ext (x * y / ((2 ^ w : Nat) : Int))
  | 0x07 => ext (if y = 0 then (if isI t then -1 else intMax t) else x.tdiv y)
  | 0x08 => ext (if y = 0 then x else x - y * x.tdiv y)
  | 0x09 => extW t (ea &&& eb).toNat
  | 0x0a => extW t (ea ||| eb).toNat
  | 0x0b => extW t (ea ^^^ eb).toNat
  | 0x0c => extW t (ea &&& ~~~eb).toNat
  | 0x0d => extW t (if w ≤ b.toNat then 0 else low <<< b.toNat % 2 ^ w)
  | 0x0e => extW t (if w ≤ b.toNat then 0 else low >>> b.toNat)
  | 0x0f => extW t (ofSigned w (toSigned w a.toNat / ((2 ^ min b.toNat w : Nat) : Int)))
  | 0x10 => ext (min x y)
  | 0x11 => ext (max x y)
  | 0x12 => if cmpInt o.opt x y then 1 else 0
  | 0x13 => extW t (if c ≠ 0 then a.toNat else b.toNat)
  | 0x14 => extW t (clzN w low)
  | 0x15 => extW t (popcN w low)
  | 0x16 => ext (bfx t a.toNat b.toNat)
  | _ => extW t (bfi t a.toNat b.toNat c.toNat)

/-- The result of an element-wise integer or move instruction on one element (R209 to R213): operands, group, clock, position,
lane, the element's number in its position, A, B, C. -/
def intElement (opc : Nat) (o : Opnd) (g : Group) (now k l j a b c : Nat) : Nat :=
  let t := o.typ
  let w := widthOf t
  let x := intOf t a
  let y := intOf t b
  match opc with
  | 0x38 => (a + b) % 2 ^ w
  | 0x39 => ofSigned w ((a : Int) - b)
  | 0x3a => a * b % 2 ^ w
  | 0x3b => ofSigned w (x * y / ((2 ^ w : Nat) : Int))
  | 0x3c => (a * b + c) % 2 ^ w
  | 0x3d => if isI t then ofSigned w x.natAbs else a
  | 0x3e => ofSigned w (-(a : Int))
  | 0x3f => if y < x then b else a
  | 0x40 => if x < y then b else a
  | 0x41 => a &&& b
  | 0x42 => a ||| b
  | 0x43 => a ^^^ b
  | 0x44 => a &&& (b ^^^ (2 ^ w - 1))
  | 0x45 => if w ≤ b then 0 else (a % 2 ^ w) <<< b % 2 ^ w
  | 0x46 => if w ≤ b then 0 else (a % 2 ^ w) >>> b
  | 0x47 => ofSigned w (toSigned w a / ((2 ^ min b w : Nat) : Int))
  | 0x48 => clzN w a
  | 0x49 => popcN w a
  | 0x4a => ofSigned w (bfx t a b)
  | 0x4b => bfi t a b c % 2 ^ w
  | 0x4d => if (g.readP now o.c).getLsbD l then a else b
  | 0x4e => ofSigned w (max (intMin t) (min (intMax t) (x + y)))
  | 0x4f => ofSigned w (max (intMin t) (min (intMax t) (x - y)))
  | 0x50 => a
  | 0x51 => if o.single then ofSigned w (toSigned 7 o.a) else bElem o false 0
  | 0x52 => (g.readS now o.a).toNat % 2 ^ w
  | _ => ((if o.single then 0 else b) + k * (64 * perLane t) + j) % 2 ^ w

/-- The element-wise integer and move instructions. -/
def intElementwise : List Nat :=
  [0x38, 0x39, 0x3a, 0x3b, 0x3c, 0x3d, 0x3e, 0x3f, 0x40, 0x41, 0x42, 0x43, 0x44, 0x45, 0x46, 0x47, 0x48, 0x49, 0x4a, 0x4b, 0x4d,
   0x4e, 0x4f, 0x50, 0x51, 0x52, 0x53]

/-- The result and the flags of an element-wise floating-point instruction on one element (R214 to R219): TYPE, rounding mode,
`.nx`, A, B, C. -/
def floatElement (opc t m : Nat) (nx : Bool) (a b c : Nat) : ElRes :=
  match opc with
  | 0x58 => fAdd t m a b
  | 0x59 => fSub t m a b
  | 0x5a => fMul t m a b
  | 0x5b => fMa t m a b c
  | 0x5c => fMinMax false t a b
  | 0x5d => fMinMax true t a b
  | 0x5e => fAbs t a
  | 0x5f => fNeg t a
  | 0x61 => fDiv t m a b
  | 0x62 => fSqrt t m a
  | 0x63 => fRcpa t a
  | 0x64 => fRsqa t a
  | 0x65 => fExp2a t a
  | 0x66 => fLog2a t a
  | 0x67 => fClass t a
  | 0x68 => fRound t m nx a
  | _ => fLdexp t m a b

/-- The element-wise floating-point instructions. -/
def floatElementwise : List Nat :=
  [0x58, 0x59, 0x5a, 0x5b, 0x5c, 0x5d, 0x5e, 0x5f, 0x61, 0x62, 0x63, 0x64, 0x65, 0x66, 0x67, 0x68, 0x69]

/-- The images of a vector operand with no port: its registers in order (R150). -/
def images (o : Opnd) (fd : Field) (g : Group) (now : Nat) : List (List Nat) := (readRegs o fd).map (g.readVReg now)

/-- The source lane values of a vector instruction of a group without ports (R148, R150). -/
def blockSources (o : Opnd) (asInt : Bool) (g : Group) (now : Nat) : Srcs :=
  { a := laneVals o .a (images o .a g now), b := laneVals o .b (images o .b g now),
    bEl := bElem o asInt (bScalar g now o), c := laneVals o .c (images o .c g now) }

/-- The vector file after the positions of a result have been written in ascending order (R150). -/
def writeBlock (o : Opnd) (res : List (List (Nat × Nat))) (m : ZMap 32) : ZMap 32 :=
  (List.range o.n).foldl (fun m k => ((splitRegs (o.span .d) (res.getD k [])).zipIdx).foldl
    (fun m x => putLanes m (o.regAt .d k + x.2) x.1) m) m

/-- The clocks for which a vector instruction holds its datapath (R151). -/
def occupancy (o : Opnd) : Nat := max (o.span .d) (max (o.span .a) 1) * o.n

/-- A group differs from another in what an issue always changes, and in nothing else: lanes' program counters, bundles, the clock of
the last issue, and the notes on registers that are not ready or in error. -/
def sameButIssue (g' g : Group) : Prop :=
  { g' with lanes := g.lanes, bundles := g.bundles, lastIssue := g.lastIssue, pend := g.pend, score := g.score,
            badRegs := g.badRegs } = g

/-- The notes of a group on registers that are not ready or in error: those of every register outside `dests` stay, but for what is
ready by now. -/
def notesKept (dests : List (RFile × Nat)) (now : Nat) (g : Group) (p : List Pend) (sc : List Score)
    (bad : List (RFile × Nat × Nat)) : Prop :=
  (∀ e ∈ p, (e.file, e.reg) ∈ dests ∨ e ∈ g.pend) ∧
  (∀ e ∈ g.pend, (e.file, e.reg) ∈ dests ∨ e.ready ≤ now ∨ e.lanes = 0 ∨ e ∈ p) ∧
  (∀ e, e.lanes ≠ 0 → (e.file, e.reg) ∉ dests → (e ∈ sc ↔ e ∈ g.score)) ∧
  (∀ b ∈ bad, b ∈ g.badRegs) ∧ ∀ b ∈ g.badRegs, (b.1, b.2.1) ∈ dests ∨ b ∈ bad

/-- The group at the end of an issue whose effect leaves it as `G`: the bundle's lanes that go on are bundles again. -/
def ended (g : Group) (h : Hdr) (s : State) (G : Group) : Group := G.settle s.cur (g.bundle s.cur.lanes) h.stall.toNat

/-- The group at the end of an issue that writes the registers `dests` and changes the group by `G`: its lanes stand at *next*, and
nothing else of it changes. -/
def leaves (g : Group) (h : Hdr) (s : State) (dests : List (RFile × Nat)) (G : Group → Group) (g' : Group) : Prop :=
  ∃ p sc bad, g' = ended g h s { G (g.begun s) with pend := p, score := sc, badRegs := bad } ∧
    notesKept dests s.cur.clock g p sc bad

/-- The vector registers of the destination block (R150). -/
def blockDests (o : Opnd) : List (RFile × Nat) := (o.regs .d).map fun x => (.v, x.2)

/-- The group after a vector instruction that writes a block (R150, R206): the vector file and FPSTAT. -/
def blockWritten (asInt : Bool) (fn : Iss → Group → Srcs → VRes) (opc : Nat) (h : Hdr) (f : Form) (g : Group) (s : State) (b : Group) :
    Group :=
  let o := operands g opc f
  let r := fn (issueOf opc h f g s) g (blockSources o asInt g s.cur.clock)
  { b with vregs := writeBlock o r.1 g.vregs, fpstat := g.fpstat ||| w64 (r.2 % 32) }

end Sys2Proof.Rules

open Sys2Proof Sys2Proof.Machine

/-- R168 to R173: a scalar instruction (`sli` to `sbfi`, 0x01 to 0x17) that passes its checks completes: it writes its result to D, its
lanes move on, and nothing else of the machine changes. -/
def Obligations.ScalarResult : Prop :=
  ∀ (i : Instr) (opc : Nat) (h : Hdr) (f : Form) (g : Group) (s : State),
    view i = some (opc, h, f) → 1 ≤ opc → opc ≤ 0x17 → Issues opc h f g s →
    let o := operands g opc f
    let now := s.cur.clock
    let v := Rules.scalar opc o (g.readS now o.a) (bWhole o (bScalar g now o)) (g.readS now o.c)
    ∃ g', exec i s = .next (s.setGroup s.cur.key g') ∧
      Rules.leaves g h s [(.s, o.d)] (fun b => { b with sregs := setZ g.sregs o.d v }) g'

/-- R206, R209 to R213: an element-wise integer or move instruction (`vadd`, `vsub`, `vmul`, `vmulh`, `vmad`, `vabs`, `vneg`, `vmin`,
`vmax`, `vand`, `vor`, `vxor`, `vandn`, `vshl`, `vshr`, `vsra`, `vclz`, `vpopc`, `vbfx`, `vbfi`, `vsel`, `vaddsat`, `vsubsat`, `vmov`,
`vli`, `vfroms`, `vlane`) of a group without ports completes: it writes its block, holds the datapath, its lanes move on, and nothing
else changes. Registers with ports: `StreamPorts`. -/
def Obligations.VectorIntegerResult : Prop :=
  ∀ (i : Instr) (opc : Nat) (h : Hdr) (f : Form) (g : Group) (s : State),
    view i = some (opc, h, f) → opc ∈ Rules.intElementwise → g.binds = [] → Issues opc h f g s →
    let o := operands g opc f
    ∃ g', exec i s = .next ((holdDatapath (Rules.occupancy o) s).setGroup s.cur.key g') ∧
      Rules.leaves g h s (Rules.blockDests o) (Rules.blockWritten false
        (elementwise fun x g k l j a b c => (Rules.intElement opc x.o g x.now k l j a b c, 0)) opc h f g s) g'

/-- R206, R214 to R219: an element-wise floating-point instruction (`vfadd`, `vfsub`, `vfmul`, `vfma`, `vfmin`, `vfmax`, `vfabs`,
`vfneg`, `vfdiv`, `vfsqrt`, `vrcpa`, `vrsqa`, `vfexp2a`, `vflog2a`, `vfclass`, `vfround`, `vfldexp`) of a group without ports completes,
with the flags of every element ORed into FPSTAT. Registers with ports: `StreamPorts`. -/
def Obligations.VectorFloatResult : Prop :=
  ∀ (i : Instr) (opc : Nat) (h : Hdr) (f : Form) (g : Group) (s : State),
    view i = some (opc, h, f) → opc ∈ Rules.floatElementwise → g.binds = [] → Issues opc h f g s →
    let o := operands g opc f
    ∃ g', exec i s = .next ((holdDatapath (Rules.occupancy o) s).setGroup s.cur.key g') ∧
      Rules.leaves g h s (Rules.blockDests o) (Rules.blockWritten (opc = 0x69)
        (elementwise fun x g _ _ _ a b c => Rules.floatElement opc x.o.typ (rmOf x.o.rm g.fpctl) (x.o.opt % 2 = 1) a b c)
        opc h f g s) g'

/-! ## More rules of groups and contexts -/

namespace Sys2Proof.Rules

/-- A predicate file after lanes of a register have been written: p0 ignores writes (R19, R21). -/
def predFile (m : ZMap 64) (d : Nat) (lanes x : W64) : ZMap 64 :=
  if d = 0 then m else setZ m d ((getZ m d &&& ~~~lanes) ||| (x &&& lanes))

/-- The first position of a vector operand, as lane values (R123, R150). -/
def firstPos (o : Opnd) (fd : Field) (g : Group) (now : Nat) : List Nat := (laneVals o fd (images o fd g now)).headD []

/-- What a comparison finds in a lane (R212, R216). -/
def compares (o : Opnd) (g : Group) (now l : Nat) : Bool :=
  let a := (firstPos o .a g now).getD l 0
  let b := match o.file .b with | .v => (firstPos o .b g now).getD l 0 | _ => bElem o false (bScalar g now o)
  if o.opc = 0x60 then fCmp o.typ o.opt a b else cmpInt o.opt (intOf o.typ a) (intOf o.typ b)

/-- The lane instructions that write a block (R220, R225 to R228), from the lane values of A and the element B. -/
def laneResult (opc : Nat) (i : Iss) (g : Group) (x : Srcs) : VRes :=
  let act := lanesOf i.act
  let t := i.o.typ
  match opc with
  | 0x70 => eachPos cvtPos i g x
  | 0x73 => (x.a.zipIdx.map fun (vals, k) => act.map fun l =>
      let b := x.bLane i.o k l
      (l, vals.getD (match i.o.opt with
        | 0 => b % 64 | 1 => l ^^^ (b % 64) | 2 => if l < b then l else l - b | _ => if 63 < l + b then l else l + b) 0), 0)
  | 0x74 => (x.a.map fun vals => act.map fun l => (l, joinEls (widthOf t)
      ((List.range (perLane t)).map fun j => elemAt (widthOf t) vals ((l * perLane t + j + x.bEl) % elemsIn t))), 0)
  | 0x75 => (x.a.map fun vals => act.map fun l => (l, vals.getD (x.bEl % 64) 0), 0)
  | 0x76 => eachPos redPos i g x
  | 0x77 => eachPos scanPos i g x
  | _ => (x.a.map fun vals => (act.zip (lanesOf (g.readP i.now i.o.c))).map fun (l, c) => (l, vals.getD c 0), 0)

/-- The lane that acts for its bundle: the lowest active one. -/
def leadLane (g : Group) (h : Hdr) (s : State) : Nat := (lowest (activeOf g h s)).getD 0

/-- A scalar result of fixed latency: D is written, and the bundle moves on. -/
def writesScalar (g : Group) (h : Hdr) (s : State) (d : Nat) (x : W64) (g' : Group) : Prop :=
  leaves g h s [(.s, d)] (fun b => { b with sregs := setZ g.sregs d x }) g'

/-- A predicate result of fixed latency: the active lanes' bits of D are written, and the bundle moves on. -/
def writesPred (g : Group) (h : Hdr) (s : State) (d : Nat) (x : W64) (g' : Group) : Prop :=
  leaves g h s [(.p, d)] (fun b => { b with pregs := predFile g.pregs d (activeOf g h s) x }) g'

end Sys2Proof.Rules

/-- R220, R225 to R228: the conversion and lane instructions that write a block (`vcvt`, `vshfl`, `vrot`, `vbcast`, `vred`, `vscan`,
`vcompact`) of a group without ports complete. FPSTAT after `vscan` takes the flags of every addition that the model makes, which is the
model's reading: assumption 9. Registers with ports: `StreamPorts`. The clocks of a conversion between widths are deduced too (assumption 17). -/
def Obligations.LaneResult : Prop :=
  ∀ (i : Instr) (opc : Nat) (h : Hdr) (f : Form) (g : Group) (s : State),
    view i = some (opc, h, f) → opc ∈ [0x70, 0x73, 0x74, 0x75, 0x76, 0x77, 0x79] → g.binds = [] → Issues opc h f g s →
    let o := operands g opc f
    ∃ g', exec i s = .next ((holdDatapath (Rules.occupancy o) s).setGroup s.cur.key g') ∧
      Rules.leaves g h s (Rules.blockDests o) (Rules.blockWritten (opc = 0x73 || opc = 0x74 || opc = 0x75) (Rules.laneResult opc)
        opc h f g s) g'

/-- R179, R196, R212, R216, R228: the instructions that make predicates, masks and scalars of each other complete: `vcmp` and `vfcmp`
write one bit of a predicate for each active lane; `sfromv` reads one lane and `vballot` one bit of each active lane into a scalar
register (groups without ports); `jmov` from a mask writes a scalar register, and to a mask writes the expected mask of a rejoin register
and tests it. -/
def Obligations.MaskResults : Prop :=
  ∀ (i : Instr) (opc : Nat) (h : Hdr) (f : Form) (g : Group) (s : State), view i = some (opc, h, f) → Issues opc h f g s →
    let o := operands g opc f
    let now := s.cur.clock
    let vals := Rules.firstPos o .a g now
    (opc = 0x4c ∨ opc = 0x60 → g.binds = [] →
      ∃ g', exec i s = .next ((holdDatapath (Rules.occupancy o) s).setGroup s.cur.key g') ∧
        Rules.writesPred g h s o.d (maskOf ((lanesOf (activeOf g h s)).filter (Rules.compares o g now))) g') ∧
    (opc = 0x1c → g.binds = [] →
      ∃ g', exec i s = .next (s.setGroup s.cur.key g') ∧ Rules.writesScalar g h s o.d
        (extW o.typ (vals.getD ((bWhole o (bScalar g now o)).toNat % 64) 0)) g') ∧
    (opc = 0x78 → g.binds = [] →
      ∃ g', exec i s = .next ((holdDatapath (Rules.occupancy o) s).setGroup s.cur.key g') ∧ Rules.writesScalar g h s o.d
        (maskOf ((lanesOf (activeOf g h s)).filter fun l => vals.getD l 0 ≠ 0)) g') ∧
    (opc = 0x31 → o.opt < 2 →
      ∃ g', exec i s = .next (s.setGroup s.cur.key g') ∧ Rules.writesScalar g h s o.d
        (if o.opt = 0 then g.readJ now o.a else getZ g.jarr o.a) g') ∧
    (opc = 0x31 → 2 ≤ o.opt →
      ∃ g', exec i s = .next (s.setGroup s.cur.key g') ∧ Rules.leaves g h s [(.j, o.d)]
        (fun b => Group.rejoinTest { b with jexp := setZ g.jexp o.d (g.readS now o.a) } o.d) g')

/-! ## Control -/

namespace Sys2Proof.Rules

/-- The lanes of the bundle stand at the program counters given; no other lane has moved. -/
def lanesGo (g' g : Group) (s : State) (pc : Nat → W64) : Prop :=
  ∀ l, l < g.lanes.length → g'.lane l = if s.cur.lanes.getLsbD l then { g.lane l with pc := pc l } else g.lane l

/-- Lanes of a mask changed by `f`, the bundle's other lanes at *next*, every other lane as before. -/
def lanesBecome (g' g : Group) (s : State) (m : W64) (f : Nat → Lane → Lane) : Prop :=
  ∀ l, l < g.lanes.length → g'.lane l =
    if m.getLsbD l then f l (g.lane l) else if s.cur.lanes.getLsbD l then { g.lane l with pc := nextPc s.cur } else g.lane l

/-- The notes on registers stay, and so do the bundles of other lanes. -/
def othersStay (g' g : Group) (s : State) : Prop :=
  notesKept [] s.cur.clock g g'.pend g'.score g'.badRegs ∧ ∀ b ∈ (g.begun s).bundles, b ∈ g'.bundles

/-- Every bundle of the group that the issue left alone, or one that has a property. -/
def newBundles (g' g : Group) (s : State) (p : Bundle → Prop) : Prop := ∀ b ∈ g'.bundles, b ∈ (g.begun s).bundles ∨ p b

/-- Where a direct branch goes (R146, R180). -/
def branchTarget (o : Opnd) (f : Form) (s : State) : W64 :=
  s.cur.pc + match f with | .single d a => w64 (ofSigned 64 (4 * toSigned 14 (a ++ d).toNat)) | .multi _ => o.lit

/-- Where an indirect branch sends a lane (R182). -/
def indirectTarget (o : Opnd) (g : Group) (now l : Nat) : W64 :=
  if o.opt = 1 then w64 (g.readV now o.a l + 2 ^ 32 * g.readV now (o.a + 1) l) else g.readS now o.a

/-- A direct branch has an offset of whole words; an indirect one finds whole words in every lane. -/
def targetsOk (opc : Nat) (f : Form) (g : Group) (h : Hdr) (s : State) : Prop :=
  let o := operands g opc f
  if opc = 0x22 ∨ opc = 0x24 then ∀ l ∈ lanesOf (activeOf g h s), (indirectTarget o g s.cur.clock l).toNat % 4 = 0
  else dispBad o = false

/-- The lane that a lane's fault of the current instruction names is in trap mode (R378). -/
def leadInTrap (g : Group) (h : Hdr) (s : State) : Bool := (g.lane (leadLane g h s)).trap

/-- The state in which the lanes of a mask do not return to a bundle before the next regroup (R23, R200). -/
def awayWith (s : State) (m : W64) : State := { s with cur := { s.cur with away := m } }

/-- The state in which the bundle is held after its issue (R203, R297). -/
def holding (s : State) (x : Hold) : State := { s with cur := { s.cur with hold := some x } }

end Sys2Proof.Rules

/-- R169, R192, R194, R203: `nop` moves on; `yield` notes the clock until which its group stands back; `ifence` gives up the
bundle's instruction line; `sleep` holds the bundle for b clocks (0: not at all), until clock + b + 1 (the model's reading: assumption
8), or, where a save has cut a sleep of its lanes short, for what was left of it (R204). -/
def Obligations.MovesOn : Prop :=
  ∀ (i : Instr) (opc : Nat) (h : Hdr) (f : Form) (g : Group) (s : State),
    view i = some (opc, h, f) → Issues opc h f g s →
    let o := operands g opc f
    let b := (bWhole o (bScalar g s.cur.clock o)).toNat
    let goes (g' : Group) : Prop := Rules.lanesGo g' g s (fun _ => nextPc s.cur) ∧ Rules.othersStay g' g s
    (opc = 0x00 → ∃ g', exec i s = .next (s.setGroup s.cur.key g') ∧ goes g' ∧ Rules.sameButIssue g' g) ∧
    (opc = 0x2d → ∃ g', exec i s = .next (s.setGroup s.cur.key g') ∧ goes g' ∧
      g'.yieldUntil = (if Rules.leadInTrap g h s then g.yieldUntil else s.cur.clock + 2) ∧
      Rules.sameButIssue { g' with yieldUntil := g.yieldUntil } g) ∧
    (opc = 0x2e → ∃ g', exec i s = .next ({ s with cur := { s.cur with dropLine := true } }.setGroup s.cur.key g') ∧ goes g' ∧
      Rules.newBundles g' g s (fun x => x.line = none ∧ x.line2 = none) ∧ Rules.sameButIssue g' g) ∧
    (opc = 0xe3 →
      let cut (x : W64 × Nat) : Bool := x.1 &&& s.cur.lanes ≠ 0
      let n := match g.naps.find? cut with | some x => x.2 | none => b
      let same (g' : Group) : Prop := g'.naps = g.naps.filter (fun x => !cut x) ∧ Rules.sameButIssue { g' with naps := g.naps } g
      (n = 0 → ∃ g', exec i s = .next (s.setGroup s.cur.key g') ∧ goes g' ∧ same g') ∧
      (n ≠ 0 →
        let z := Hold.sleep (s.cur.clock + n + 1) s.cur.pc
        ∃ g', exec i s = .next ((Rules.holding s z).setGroup s.cur.key g') ∧ goes g' ∧
          Rules.newBundles g' g s (fun x => x.hold = some z) ∧ same g'))

namespace Sys2Proof.Rules

/-- The next block that a lane would spill, by first byte (R15, R17): `n` blocks stand below the stack top. -/
def spillBlock (g : Group) (s : State) (l n : Nat) : Nat :=
  (g.tlsBase.toNat + (64 * s.cur.key + l) * g.tlsStride.toNat + 2 ^ 64 - 32 * n) % 2 ^ 64

/-- The stores that spill the oldest four entries of a lane's stack (R17): the oldest at the lowest address, cut at lines. -/
def spillStores (g : Group) (s : State) (l : Nat) : List Req :=
  let x := g.lane l
  let va := spillBlock g s l (x.spilled + 1)
  let bytes := (x.stack.drop 4).reverse.flatMap fun w => toBytes 8 w.toNat
  (pieces va 32 0 32).map fun (off, n) =>
    { lane := l, pos := off, va := va + off, size := n, dst := 0, val := BitVec.ofNat 128 (ofBytes ((bytes.drop off).take n)) }

/-- A lane's stack starts its refill: a read of the newest spilled block, before whose end no call and no return of the lane runs
(R17). -/
def startsRefill (opc : Nat) (f : Form) (g : Group) (s : State) (t : State) (l : Nat) : State :=
  let va := spillBlock g s l (g.lane l).spilled
  let u := ({ t with nextId := t.nextId + 1 } : State).updGroup s.cur.key fun g => g.updLane l fun x => { x with stackBusy := true }
  let a : Access :=
    { id := t.nextId, owner := t.nextId, core := s.cur.unit, slot := s.cur.sub, tenant := g.tenant, kind := .refill, pc := t.cur.pc,
      lanes := laneBit l, typ := (operands g opc f).typ, reqs := [] }
  let r := trReqs a ((pieces va 32 0 32).map fun (off, n) => { lane := l, pos := off, va := va + off, size := n, dst := 0 }) u
  settleAccess a.id (putAcc { a with reqs := r.1 } r.2)

/-- The group's bundles but for empty ones. -/
def sameBundles (g : Group) (s : State) (bs : List Bundle) : Prop :=
  (∀ b ∈ bs, b ∈ (g.begun s).bundles) ∧ ∀ b ∈ (g.begun s).bundles, b.mask ≠ 0 → b ∈ bs

/-- What a call that spills and a return that refills need: nothing holds the group's memory instructions, and the walker's queue takes
requests. -/
def stackMoves (g : Group) (s : State) : Prop := s.cur.sub < 128 ∧ g.memHold = [] ∧ walksFull (s.begun g) s.cur.unit = false

end Sys2Proof.Rules

/-- R180 to R182: `bra` and `brx` send the active lanes to their targets and the bundle's other lanes on; `sbra` sends the whole
bundle one way. R17, R182, R183: a call pushes the following address on each active lane's stack where there is room, and goes; where
the stack is full the oldest four entries enter the store queue first. A return pops the stack of each active lane; one that takes the last
entry starts a refill where a block is spilled; a lane whose stack is empty, or being refilled, parks to return again; with nothing
spilled it takes ILLEGAL 0x0C. A literal displacement that is not a multiple of 4 is ILLEGAL 0x0B; a misaligned indirect target is ALIGN on
its lane. -/
def Obligations.BranchesAndCalls : Prop :=
  ∀ (i : Instr) (opc : Nat) (h : Hdr) (f : Form) (g : Group) (s : State), view i = some (opc, h, f) → Issues opc h f g s →
    let o := operands g opc f
    let act := activeOf g h s
    let a := g.readS s.cur.clock o.a
    let direct := Rules.branchTarget o f s
    let indirect (l : Nat) : W64 := Rules.indirectTarget o g s.cur.clock l
    (opc = 0x20 ∨ opc = 0x21 ∨ opc = 0x22 → Rules.targetsOk opc f g h s →
      ∃ g', exec i s = .next (s.setGroup s.cur.key g') ∧ Rules.sameButIssue g' g ∧ Rules.othersStay g' g s ∧
        Rules.lanesGo g' g s fun l =>
          if opc = 0x21 then (if (o.d % 2 = 0) = (a ≠ 0) then s.cur.pc + o.lit else nextPc s.cur)
          else if act.getLsbD l then (if opc = 0x20 then direct else indirect l)
          else nextPc s.cur) ∧
    (opc = 0x23 ∨ opc = 0x24 → Rules.targetsOk opc f g h s →
      (∀ l ∈ lanesOf act, (g.lane l).stackBusy = false ∧ (g.lane l).stack.length < 8) →
      ∃ g', exec i s = .next ({ s with nextId := s.nextId + 1 }.setGroup s.cur.key g') ∧
        Rules.sameButIssue g' g ∧ Rules.othersStay g' g s ∧
        Rules.lanesBecome g' g s act fun l x => { x with
          stack := nextPc s.cur :: x.stack
          pc := if opc = 0x23 then direct else indirect l }) ∧
    (opc = 0x25 →
      (∀ l ∈ lanesOf act, (g.lane l).stackBusy = false ∧ (g.lane l).stack ≠ [] ∧
        ((g.lane l).stack.length = 1 → (g.lane l).spilled = 0)) →
      ∃ g', exec i s = .next (s.setGroup s.cur.key g') ∧ Rules.sameButIssue g' g ∧ Rules.othersStay g' g s ∧
        Rules.lanesBecome g' g s act fun _ x => { x with pc := x.stack.headD 0, stack := x.stack.tail }) ∧
    (opc = 0x23 ∨ opc = 0x24 → Rules.targetsOk opc f g h s → Rules.stackMoves g s → g.storeQ.length < 32 →
      (∀ l ∈ lanesOf act, (g.lane l).stackBusy = false ∧ (g.lane l).stack.length = 8 ∧
        32 * ((g.lane l).spilled + 1) ≤ g.tlsStride.toNat) →
      ∃ bs, Rules.sameBundles g s bs ∧
        let G : Group := { (g.begun s).updLanes act (fun l x => { x with
          stack := nextPc s.cur :: x.stack.take 4
          spilled := x.spilled + 1
          pc := if opc = 0x23 then direct else indirect l }) with bundles := bs }
        let a : Access :=
          { id := s.nextId, owner := s.nextId, core := s.cur.unit, slot := s.cur.sub, tenant := g.tenant, kind := .store, pc := s.cur.pc,
            lanes := act, typ := o.typ, reqs := [] }
        exec i s = .next (issued g h s (enqueueStore a ((lanesOf act).flatMap (Rules.spillStores g s))
          ({ s with nextId := s.nextId + 1 }.setGroup s.cur.key G)))) ∧
    (opc = 0x25 → Rules.stackMoves g s →
      (∀ l ∈ lanesOf act, (g.lane l).stackBusy = false ∧ (g.lane l).stack.length = 1 ∧ (g.lane l).spilled ≠ 0) →
      ∃ bs, Rules.sameBundles g s bs ∧
        let G : Group :=
          { (g.begun s).updLanes act (fun _ x => { x with pc := x.stack.headD 0, stack := x.stack.tail }) with bundles := bs }
        exec i s = .next (issued g h s ((lanesOf act).foldl (Rules.startsRefill opc f g s) (s.setGroup s.cur.key G)))) ∧
    (opc = 0x25 → Rules.stackMoves g s →
      (∀ l ∈ lanesOf act, (g.lane l).stackBusy = true ∨ ((g.lane l).stack = [] ∧ (g.lane l).spilled ≠ 0)) →
      exec i s = .next (issued g h s (((lanesOf act).filter fun l => !(g.lane l).stackBusy).foldl (Rules.startsRefill opc f g s)
        (s.setGroup s.cur.key ((g.begun s).park act (fun _ => .refill) fun _ => s.cur.pc))))) ∧
    (opc = 0x25 → (∀ l ∈ lanesOf act, (g.lane l).stackBusy = false ∧ (g.lane l).stack = [] ∧ (g.lane l).spilled = 0) →
      exec i s = .next (issued g h s (illegal (issueOf opc h f g s) act 0x0c (s.begun g)))) ∧
    (opc = 0x20 ∨ opc = 0x21 ∨ opc = 0x23 → dispBad o = true →
      exec i s = .next (issued g h s (illegal (issueOf opc h f g s) act 0x0b (s.begun g)))) ∧
    (opc = 0x22 ∨ opc = 0x24 →
      let bad := (lanesOf act).filter fun l => (indirect l).toNat % 4 ≠ 0
      let good := act &&& ~~~maskOf bad
      let faults : List LaneFault := bad.map fun l => { lane := l, cause := 0x06, info := indirect l }
      bad ≠ [] → (opc = 0x24 → ∀ l ∈ lanesOf good, (g.lane l).stackBusy = false ∧ (g.lane l).stack.length < 8) →
      let G := (g.begun s).updLanes good fun l x =>
        if opc = 0x24 then { x with stack := nextPc s.cur :: x.stack, pc := indirect l } else { x with pc := indirect l }
      let t : State := if opc = 0x24 then { s with nextId := s.nextId + 1 } else s
      exec i s = .next (issued g h s (takeTrap s.cur.key { word0 := s.cur.word0, pc := s.cur.pc, readyAt := s.cur.clock + 1 } faults
        (t.setGroup s.cur.key G))))

/-- R180 to R184, R315, R359: branches, `call` and `ret` of a Folbel core or of the fabric processor. -/
def Sys2Proof.Rules.ContextBranchResult : Prop :=
  ∀ (i : Instr) (opc : Nat) (h : Hdr) (f : Form) (s : State),
    view i = some (opc, h, f) → Runs opc h f s →
    let o := opndOf opc f
    let p := curProc s
    let next := (nextPc s.cur).toNat
    let goes (p : Proc) (pc : Nat) : Prop := exec i s = .next (procRetire { p with pc } h s)
    (opc = 0x20 → dispBad o = false → goes p (Rules.branchTarget o f s).toNat) ∧
    (opc = 0x21 → dispBad o = false → goes p (if (o.d % 2 = 0) = (p.get o.a ≠ 0) then (s.cur.pc + o.lit).toNat else next)) ∧
    (opc = 0x22 → (p.get o.a).toNat % 4 = 0 → goes p (p.get o.a).toNat) ∧
    (opc = 0x23 → dispBad o = false → p.stack.length < 8 →
      goes { p with stack := w64 next :: p.stack } (Rules.branchTarget o f s).toNat) ∧
    (opc = 0x25 → ∀ t st, p.stack = t :: st → goes { p with stack := st } t.toNat)

/-- R168 to R173, R315, R359: a scalar instruction of a Folbel core or of the fabric processor. -/
def Sys2Proof.Rules.ContextScalarResult : Prop :=
  ∀ (i : Instr) (opc : Nat) (h : Hdr) (f : Form) (s : State),
    view i = some (opc, h, f) → 1 ≤ opc → opc ≤ 0x17 → Runs opc h f s →
    let o := opndOf opc f
    let p := curProc s
    let v := Rules.scalar opc o (p.get o.a) (bWhole o (p.get o.b)) (p.get o.c)
    exec i s = .next (procRetire { p with pc := (nextPc s.cur).toNat, sregs := setZ p.sregs o.d v } h s)

/-- R26, R185: `rset` writes the expected mask with the active lanes and clears the arrived mask. R23, R27, R185: lanes that `rjoin`
expects arrive and park; when every expected lane that has not exited has arrived, all that are parked there are released, to join bundles
at the next regroup; lanes that it does not expect move on. R28, R36, R37, R187: `exit` ends the active lanes, and a group that has nothing
left to do retires; a persistent group that has not seen its end, outside trap mode, takes ILLEGAL (R36), and a group whose last lanes
would leave an element of a port in part takes STREAM_MISUSE (R398, R422, R426). That `rjoin` tests the expected mask that it reads,
early or not, is the model's reading: assumption 15. -/
def Obligations.LaneGrouping : Prop :=
  ∀ (i : Instr) (opc : Nat) (h : Hdr) (f : Form) (g : Group) (s : State), view i = some (opc, h, f) → Issues opc h f g s →
    let o := operands g opc f
    let act := activeOf g h s
    (opc = 0x26 → ∃ g', exec i s = .next (s.setGroup s.cur.key g') ∧ Rules.leaves g h s [(.j, o.d)]
      (fun b => { b with jexp := setZ g.jexp o.d act, jarr := setZ g.jarr o.d 0 }) g') ∧
    (opc = 0x27 → g.lanes.length = 64 →
      let expected := g.readJ s.cur.clock o.d
      let arriving := act &&& expected &&& ~~~g.exited
      let arrived := getZ g.jarr o.d ||| arriving
      let all := expected &&& ~~~g.exited &&& ~~~arrived = 0
      ∃ g', exec i s = .next ((Rules.awayWith s (s.cur.away ||| arriving)).setGroup s.cur.key g') ∧
        getZ g'.jarr o.d = (if all then 0 else arrived) ∧ (∀ r, r ≠ o.d → getZ g'.jarr r = getZ g.jarr r) ∧
        (∀ l, l < 64 →
          let x := if s.cur.lanes.getLsbD l then { g.lane l with pc := nextPc s.cur } else g.lane l
          g'.lane l = if arriving.getLsbD l then { x with pc := nextPc s.cur, park := if all then none else some (.rejoin o.d) }
            else if all ∧ x.park = some (.rejoin o.d) then { x with park := none } else x) ∧
        (∀ b ∈ g'.bundles, b.mask &&& arriving = 0) ∧ Rules.notesKept [] s.cur.clock g g'.pend g'.score g'.badRegs ∧
        Rules.sameButIssue { g' with jarr := g.jarr } g) ∧
    (opc = 0x29 → (g.persist = true → g.endSeen = true ∨ Rules.leadInTrap g h s = true) →
      exitStream (s.begun g) g act = none →
      let t := exitLanes s.cur.key act (s.begun g)
      exec i s = .next (retireGroup s.cur.key (issued g h s t)) ∧
        ∃ g', t.group s.cur.key = some g' ∧ g'.exited = g.exited ||| act) ∧
    (opc = 0x29 → g.persist = true → g.endSeen = false → Rules.leadInTrap g h s = false →
      exec i s = .next (retireGroup s.cur.key (issued g h s (illegal (issueOf opc h f g s) act 0x0e (s.begun g))))) ∧
    (opc = 0x29 → (g.persist = true → g.endSeen = true ∨ Rules.leadInTrap g h s = true) →
      ∀ b, exitStream (s.begun g) g act = some b →
      exec i s = .next (retireGroup s.cur.key (issued g h s (precise s.cur.key
        (sameFault act 0x0a 0x06 0 (w64 (b.q + 2 ^ 16 * b.reg))) (s.begun g)))))

/-- R191, R378 to R381: `trap` takes SWTRAP on the active lanes with its code in TRAPINFO0 and the following address in TRAPPC; in trap
mode it is refused. R200, R382: `rtrap` takes the active lanes out of trap mode, to their TRAPPC, whence they join bundles at the next
regroup; outside trap mode it takes PRIV. -/
def Obligations.SoftwareTraps : Prop :=
  (∀ (i : Instr) (h : Hdr) (d a : BitVec 7) (g : Group) (s : State),
    view i = some (0x2c, h, .single d a) → Issues 0x2c h (.single d a) g s →
    (Rules.leadInTrap g h s = false →
      exec i s = .next (issued g h s (takeTrap s.cur.key { pc := nextPc s.cur, readyAt := s.cur.clock + 1 }
        (sameFault (activeOf g h s) 0x0e 0 0 (w64 (a ++ d).toNat)) (s.begun g)))) ∧
    (Rules.leadInTrap g h s = true →
      exec i s = .next (issued g h s (takeTrap s.cur.key { word0 := s.cur.word0, pc := s.cur.pc, readyAt := s.cur.clock + 1 }
        (sameFault (activeOf g h s) 0x01 0x0f 0 0) (s.begun g))))) ∧
  (∀ (i : Instr) (h : Hdr) (f : Form) (g : Group) (s : State),
    view i = some (0xe0, h, f) → Issues 0xe0 h f g s →
    let act := activeOf g h s
    (Rules.leadInTrap g h s = true →
      ∃ g', exec i s = .next ((Rules.awayWith s act).setGroup s.cur.key g') ∧ Rules.sameButIssue g' g ∧
        Rules.notesKept [] s.cur.clock g g'.pend g'.score g'.badRegs ∧ (∀ b ∈ g'.bundles, b.mask &&& act = 0) ∧
        Rules.lanesBecome g' g s act fun _ x => { x with trap := false, pc := x.trapPc }) ∧
    (Rules.leadInTrap g h s = false →
      exec i s = .next (issued g h s (takeTrap s.cur.key { word0 := s.cur.word0, pc := s.cur.pc, readyAt := s.cur.clock + 1 }
        (sameFault act 0x02 0 0 0) (s.begun g)))))

/-- R378 to R380, R386, R387: lanes outside trap mode that take a fault: TRAPPC, TRAPCAUSE, TRAPINFO0 and TRAPINFO1 are written, the
lanes are in trap mode at TRAPENTRY in a bundle of their own, lanes without a fault and the registers are as before, and one record is
posted, but for SWTRAP. -/
def Obligations.TrapEntry : Prop :=
  ∀ (k : Nat) (c : TrapCtx) (cause sub pos : Nat) (info m : W64) (g : Group) (s : State),
    s.group k = some g → g.lanes.length = 64 → m ≠ 0 → m &&& g.exited = 0 → (∀ l, m.getLsbD l → (g.lane l).trap = false) →
    let info1 := if c.defer then w64 (2 ^ 63 + c.pc.toNat % 2 ^ 63) else w64 (sub * 2 ^ 40 + pos * 2 ^ 32 + c.word0.toNat)
    let record : FaultRec :=
      { cause, trapped := true, write := c.write, defer := c.defer, src := 0, unit := k % 128 * 128 + k / 128 % 128, laneMask := m,
        pc := c.pc, addr := info, info1 := info1, tenant := g.tenant }
    ∃ g', takeTrap k c (sameFault m cause sub pos info) s =
        (if cause = 0x0e then s.setGroup k g' else postRec record (s.setGroup k g')) ∧
      Rules.sameButIssue g' g ∧ g'.pend = g.pend ∧ g'.score = g.score ∧ g'.badRegs = g.badRegs ∧
      { mask := m, readyAt := c.readyAt } ∈ g'.bundles ∧
      (∀ b ∈ g'.bundles, b = { mask := m, readyAt := c.readyAt } ∨ b.mask &&& m = 0) ∧
      ∀ l, l < 64 → g'.lane l = if m.getLsbD l then
        { g.lane l with
          trapPc := if c.defer then (g.lane l).pc else c.pc
          trapCause := w64 cause
          trapInfo0 := info
          trapInfo1 := info1
          trap := true
          pc := g.trapEntry
          park := none }
      else g.lane l

namespace Sys2Proof.Rules

/-- The lanes that take a fault of steps 3 to 11 (R420): the active ones, but one lane for the KCQ and matrix classes. -/
def trapLanes (opc : Nat) (g : Group) (h : Hdr) (s : State) : W64 :=
  if classOf opc = .kcq ∨ classOf opc = .matrix then (match lowest (activeOf g h s) with | some l => laneBit l | none => 0)
  else activeOf g h s

/-- An instruction of the vector classes occupies the datapath once it issues (R151). -/
def occupied (opc : Nat) (f : Form) (g : Group) (s : State) : State :=
  if vectorClass opc then holdDatapath (occupancy (operands g opc f)) s else s

/-- STALLCHK is set, and a lane of the bundle reads the predicate register that PSEL names early (R424). -/
def pselEarly (g : Group) (h : Hdr) (s : State) : Prop :=
  g.mode.getLsbD 0 = true ∧ h.psel ≠ 0 ∧ ∃ l ∈ lanesOf s.cur.lanes, g.early s.cur.clock .p h.psel.toNat l = true

end Sys2Proof.Rules

/-- R419 to R423: an instruction that fails one of steps 3 to 10 takes that one fault, on its active lanes (one lane for the KCQ and
matrix classes), and does nothing else; a supervisor instruction of a group that is not one, outside trap mode, takes PRIV. R157, R424:
where STALLCHK is set a source that is read early traps the active lanes with STALL_UNDERRUN, and an early PSEL every lane of the
bundle. R145, R151, R420: an instruction with no active lane moves its bundle on; of the vector classes it waits for the datapath and
holds it, and its PSEL is judged like any other (both the model's choice: assumption 14). R423, R425: on a Folbel core or the fabric processor an instruction that fails steps 3 to 10, or is of a class that groups alone execute, ends the
invocation or the script with one ILLEGAL record. Which checks of the instruction stand in step 10, which fields BM rules and which RM is
refused are the model's readings (assumptions 6, 13, 51). -/
def Obligations.StaticFaults : Prop :=
  (∀ (i : Instr) (opc : Nat) (h : Hdr) (f : Form) (g : Group) (s : State) (c sub : Nat),
    view i = some (opc, h, f) → opc ≠ 0x29 → s.cur.seq = .group → s.group s.cur.key = some g → activeOf g h s ≠ 0 →
    staticCheck g (inTrap g s) opc h f = some (c, sub) →
    exec i s = .next (issued g h s (takeTrap s.cur.key { word0 := s.cur.word0, pc := s.cur.pc, readyAt := s.cur.clock + 1 }
      (sameFault (Rules.trapLanes opc g h s) c sub 0 0) (s.begun g))) ∧
    (classOf opc = .supervisor → inTrap g s = false → g.supervisor = false → c = 0x02)) ∧
  (∀ (i : Instr) (opc : Nat) (h : Hdr) (f : Form) (g : Group) (s : State) (info : W64) (pos : Nat) (psel : Bool),
    view i = some (opc, h, f) → opc ≠ 0x29 → s.cur.seq = .group → s.group s.cur.key = some g → activeOf g h s ≠ 0 →
    staticCheck g (inTrap g s) opc h f = none → datapathBusy s opc = false →
    (sources g s.cur.clock (operands g opc f)).any (srcScored g s.cur.clock s.cur.lanes) = false →
    step11 g s.cur.clock (activeOf g h s) s.cur.lanes h (operands g opc f) = some (info, pos, psel) →
    g.mode.getLsbD 0 = true ∧
    exec i s = .next (issued g h s (takeTrap s.cur.key { word0 := s.cur.word0, pc := s.cur.pc, readyAt := s.cur.clock + 1 }
      (sameFault (if psel then s.cur.lanes else Rules.trapLanes opc g h s) 0x03 0 pos info)
      (Rules.occupied opc f g (s.begun g))))) ∧
  (∀ (i : Instr) (opc : Nat) (h : Hdr) (f : Form) (g : Group) (s : State),
    view i = some (opc, h, f) → opc ≠ 0x29 → s.cur.seq = .group → s.group s.cur.key = some g → activeOf g h s = 0 →
    (datapathBusy s opc = true → exec i s = .next s.setHeld) ∧
    (datapathBusy s opc = false → ¬Rules.pselEarly g h s → errorRead.badPred g s.cur.lanes h = false →
      ∃ g', exec i s = .next ((Rules.occupied opc f g s).setGroup s.cur.key g') ∧ Rules.leaves g h s [] id g') ∧
    (datapathBusy s opc = false → Rules.pselEarly g h s →
      exec i s = .next (issued g h s (takeTrap s.cur.key { word0 := s.cur.word0, pc := s.cur.pc, readyAt := s.cur.clock + 1 }
        (sameFault s.cur.lanes 0x03 0 0 (w64 (h.psel.toNat + 2 ^ 61))) (Rules.occupied opc f g (s.begun g)))))) ∧
  (∀ (i : Instr) (opc : Nat) (h : Hdr) (f : Form) (s : State) (sub : Nat),
    view i = some (opc, h, f) → s.cur.seq ≠ .group → curBusy s = true → procCheck s.cur.seq opc h f = some sub →
    exec i s = .next (procFault 0x01 sub 0 s))

/-! ## System registers, synchronisation and memory -/

namespace Sys2Proof.Rules

/-- The value of a system register of a group, read in a lane (R177, R178). -/
def systemRegister (s : State) (g : Group) (x : Lane) (lane code : Nat) : Option W64 :=
  let core := s.cur.unit
  match code with
  | 0x00 => some (w64 lane)
  | 0x01 => some (w64 g.groupIdx)
  | 0x02 => some (w64 (blockReg s g).1)
  | 0x03 => some (w64 (blockN s g + 2 ^ 16 * g.rolen + 2 ^ 32 * g.first))
  | 0x04 => some (w64 (blockReg s g).2)
  | 0x05 => some (w64 g.stage)
  | 0x06 => some (w64 core)
  | 0x07 => some (w64 (8 * (core / 32) + 4 * (core / 16 % 2) + core % 8 / 2))
  | 0x08 => some (w64 (core / 32))
  | 0x09 => some (w64 s.regs.nodeId)
  | 0x0a => some (w64 g.tenant)
  | 0x0b => some (w64 g.prio)
  | 0x0c => some g.tlsBase
  | 0x0d => some g.tlsStride
  | 0x10 => some g.fpstat
  | 0x11 => some g.fpctl
  | 0x12 => some g.mode
  | 0x13 => some (w64 s.cur.clock)
  | 0x14 => some (s.core core).oob
  | 0x15 => some (s.core core).dropped
  | 0x18 => some x.trapPc
  | 0x19 => some x.trapCause
  | 0x1a => some x.trapInfo0
  | 0x1b => some x.trapInfo1
  | _ => none

/-- No fence or acquire holds the group's memory instructions, and no operand is a stream port (R97, R232, R241). -/
def memoryFree (opc : Nat) (h : Hdr) (f : Form) (g : Group) (s : State) : Prop :=
  g.memHold = [] ∧ boundOperand (issueOf opc h f g s) g = none

/-- The walker's pending queue of the issuing core's die takes requests (R116). -/
def walksTaken (g : Group) (s : State) : Prop := walksFull (s.begun g) s.cur.unit = false

/-- The state in which an effect is computed that has taken the next id of the model. -/
def begunId (g : Group) (s : State) : State := { s.begun g with nextId := s.nextId + 1 }

/-- An access starts: its requests are translated, and it is settled as far as that decides (R116, R408). -/
def startAccess (a : Access) (rs : List Req) (s : State) : State :=
  settleAccess a.id (putAcc { a with reqs := (trReqs a rs s).1 } (trReqs a rs s).2)

/-- The access that an instruction of a group makes. -/
def accessOf (opc : Nat) (f : Form) (g : Group) (kind : AccKind) (lanes : W64) (s : State) : Access :=
  { id := s.nextId, owner := s.nextId, core := s.cur.unit, slot := s.cur.sub, tenant := g.tenant, kind, pc := s.cur.pc, lanes,
    typ := (operands g opc f).typ, reqs := [] }

/-- A marker in a store queue (R97). -/
def marker (id : Nat) (g : Group) (s : State) (scope : Scope) (m : Mark) : Store :=
  { id, slot := s.cur.sub, tenant := g.tenant, rel := some scope, mark := some m, fate := true }

/-- An operation of the issuing group. -/
def opBy (opc : Nat) (h : Hdr) (g : Group) (s : State) (kind : OpKind) : Op :=
  let o : Op := { id := s.nextId, core := s.cur.unit, slot := s.cur.sub, lane := leadLane g h s, tenant := g.tenant, pc := s.cur.pc, kind }
  if opc = 0xe1 then
    { o with
      lanes := activeOf g h s
      ready := true
      trap := (g.lane (leadLane g h s)).trap }
  else { o with blk := g.block }

/-- The group's slot is one of its core (R21). -/
def slotOk (s : State) : Prop := s.cur.sub < 128

/-- The state in which a core's counters of the past have changed. -/
def withCore (s : State) (F : Core → Core) : State := s.setCore s.cur.unit (F (s.core s.cur.unit))

end Sys2Proof.Rules

/-- R177, R178: `sread` writes D with the value of the register that its code names, and is refused on a code that names none. R129,
R131: `swrite` of FPSTAT, FPCTL, MODE, OOBCOUNT, DROPPED and, in trap mode, TRAPPC; any other code, and TRAPPC outside trap mode, is
refused. -/
def Obligations.SystemRegisters : Prop :=
  (∀ (i : Instr) (h : Hdr) (f : Form) (g : Group) (s : State),
    view i = some (0x1a, h, f) → Issues 0x1a h f g s → Rules.slotOk s →
    let o := operands g 0x1a f
    let l := Rules.leadLane g h s
    (∀ x, Rules.systemRegister s g (g.lane l) l o.a = some x →
      ∃ g', exec i s = .next (s.setGroup s.cur.key g') ∧ Rules.writesScalar g h s o.d x g') ∧
    (Rules.systemRegister s g (g.lane l) l o.a = none →
      exec i s = .next (issued g h s (illegal (issueOf 0x1a h f g s) (activeOf g h s) 0x11 (s.begun g))))) ∧
  (∀ (i : Instr) (h : Hdr) (f : Form) (g : Group) (s : State),
    view i = some (0x1b, h, f) → Issues 0x1b h f g s → Rules.slotOk s →
    let o := operands g 0x1b f
    let x := g.readS s.cur.clock o.a
    let goes (t : State) (G : Group → Group) : Prop := exec i s = .next (t.setGroup s.cur.key (Rules.ended g h s (G (g.begun s))))
    (o.d = 0x10 → goes s fun b => { b with fpstat := x &&& 31 }) ∧
    (o.d = 0x11 → goes s fun b => { b with fpctl := if x.toNat % 8 ≤ 4 then x &&& 7 else b.fpctl }) ∧
    (o.d = 0x12 → goes s fun b => { b with mode := x &&& 1 }) ∧
    (o.d = 0x14 → goes (Rules.withCore s fun c => { c with oob := x }) id) ∧
    (o.d = 0x15 → goes (Rules.withCore s fun c => { c with dropped := x }) id) ∧
    (o.d = 0x18 → Rules.leadInTrap g h s = true → goes s fun b => b.updLanes (activeOf g h s) fun _ l => { l with trapPc := x }) ∧
    ((o.d = 0x18 ∧ Rules.leadInTrap g h s = false) ∨ o.d ∉ [0x10, 0x11, 0x12, 0x14, 0x15, 0x18] →
      exec i s = .next (issued g h s (illegal (issueOf 0x1b h f g s) (activeOf g h s) 0x11 (s.begun g)))))

/-- R314, R355: `sread` on a Folbel core or the fabric processor. -/
def Sys2Proof.Rules.ContextSystemRead : Prop :=
  ∀ (i : Instr) (h : Hdr) (f : Form) (s : State) (x : W64),
    view i = some (0x1a, h, f) → Runs 0x1a h f s →
    let o := opndOf 0x1a f
    (match s.cur.seq, o.a with
      | .folbel, 0x00 => some (w64 s.cur.unit)
      | .folbel, 0x08 => some (w64 (s.cur.unit / 16))
      | .fabric, 0x09 => some (w64 s.regs.nodeId)
      | _, 0x0a => some (w64 (curTenant s))
      | _, 0x13 => some (w64 s.cur.clock)
      | _, _ => none) = some x →
    exec i s = .next (procRetire { curProc s with pc := (nextPc s.cur).toNat, sregs := setZ (curProc s).sregs o.d x } h s)

/-- R168 to R173, R177, R180 to R184, R315, R359: the scalar, system-read and branch instructions of a Folbel core and of the fabric processor. -/
def Obligations.ContextRegisters : Prop :=
  Rules.ContextScalarResult ∧ Rules.ContextSystemRead ∧ Rules.ContextBranchResult

/-- R258: `mset` writes a buffer record from four scalar registers. R253: `sbind` binds a free register of a group with room to a ring;
`sunbind` ends a binding that has no element in part. R81, R252: `qcw` reads a queue control word into two scalar registers, or writes one
that R81 admits and no group has bound: nothing of the old ring is half done or unreleased in the new one, and those who wait at the
block's rings are served. That the checks of `qcw` come in this order is deduced (assumption 50). -/
def Obligations.RecordsAndStreams : Prop :=
  ∀ (i : Instr) (opc : Nat) (h : Hdr) (f : Form) (g : Group) (s : State), view i = some (opc, h, f) → Issues opc h f g s →
    let o := operands g opc f
    let now := s.cur.clock
    let goes (G : Group → Group) : Prop := exec i s = .next (s.setGroup s.cur.key (Rules.ended g h s (G (g.begun s))))
    (opc = 0x97 →
      let word (j : Nat) : Nat := (g.readS now (o.a + j)).toNat % 2 ^ 32
      let r := word 0 + word 1 * 2 ^ 32 + word 2 * 2 ^ 64 + word 3 * 2 ^ 96
      recEsize r < 5 → bitsOf r 119 116 < 8 → bitsOf r 127 124 = 0 → bitAt r 63 = false →
      goes fun b => { b with mrecs := setZ b.mrecs o.d (BitVec.ofNat 128 r) }) ∧
    (opc = 0x91 → (∀ b ∈ g.binds, b.reg ≠ o.d) → g.binds.length < 16 →
      goes fun b => { b with binds := b.binds ++ [{ reg := o.d, q := o.a, push := o.opt = 1 }] }) ∧
    (opc = 0x92 → ∀ b, g.binds.find? (fun b => b.reg = o.d) = some b → (∀ x, blockOf s g = some x → partStream x b = false) →
      goes fun b => { b with binds := b.binds.filter fun b => b.reg ≠ o.d }) ∧
    (opc = 0x90 → ∀ b, blockOf s g = some b →
      let old := (getZ b.qcws o.d).toNat
      let w : W128 := BitVec.ofNat 128 ((g.readS now o.a).toNat + 2 ^ 64 * (g.readS now (o.a + 1)).toNat)
      (o.opt = 1 → ∃ g', exec i s = .next (s.setGroup s.cur.key g') ∧ Rules.leaves g h s [(.s, o.a), (.s, o.a + 1)]
        (fun b => { b with sregs := setZ (setZ g.sregs o.a (w64 old)) (o.a + 1) (w64 (old / 2 ^ 64)) }) g') ∧
      (o.opt ≠ 1 → (∀ k ∈ b.live, ∀ x, (s.begun g).group k = some x → ∀ y ∈ x.binds, y.q ≠ o.d) →
        (ringOf w).count ≤ (ringOf w).depth → ringBad (s.begun g) b w = false →
        let b' : Block := { b with
          qcws := setZ b.qcws o.d w
          popped := delN b.popped o.d
          pushed := delN b.pushed o.d
          unreleased := delN b.unreleased o.d }
        let forget (q : List Store) : List Store := q.map (Store.forgetPush g.block o.d)
        let t : State := { s.begun g with
          groups := (s.begun g).groups.map fun (k, x) => (k, { x with storeQ := forget x.storeQ })
          cores := s.cores.map fun (k, x) => (k, { x with commitQ := forget x.commitQ })
          blocks := putN s.blocks g.block b' }
        exec i s = .next (issued g h s (wakeStreams g.block t))))

/-- R118, R193, R201, R202: the instructions that invalidate: `tlbinv` drops the translations of its target from the TLBs and from the
walkers' caches at once; `icinv` holds its bundle until its marker has been performed; `pgmode` starts an operation that its own event
ends, and takes D out of use until then; it has read its leaf, or, of an entry in error, nothing. -/
def Obligations.InvalidationResult : Prop :=
  ∀ (i : Instr) (opc : Nat) (h : Hdr) (f : Form) (g : Group) (s : State),
    view i = some (opc, h, f) → Issues opc h f g s → Rules.slotOk s →
    let o := operands g opc f
    let a := (g.readS s.cur.clock o.a).toNat
    let b := (bWhole o (bScalar g s.cur.clock o)).toNat
    (opc = 0xe2 →
      let hit (x : Xlat) : Bool := if o.opt = 2 then x.tenant = g.tenant else x.covers g.tenant a
      let there (d : Nat) : Bool := o.opt ≠ 0 || d = s.cur.unit / 32
      let way (c : Nat × Nat × Nat × Nat) : Bool := c.1 = g.tenant && (o.opt = 2 || c.2.2.1 = walkPrefix c.2.1 a)
      let core (c : Nat) (x : Core) : Core := if there (c / 32) then { x with tlb := x.tlb.filter fun x => !hit x } else x
      let die (d : Nat) (x : Die) : Die :=
        if there d then { x with tlb := x.tlb.filter (fun x => !hit x), cache := x.cache.filter fun c => !way c } else x
      let t : State := { s with
        cores := s.cores.map fun (c, x) => (c, core c x)
        dies := s.dies.map fun (d, x) => (d, die d x) }
      ∃ g', exec i s = .next (t.setGroup s.cur.key g') ∧ Rules.writesScalar g h s o.d 0 g') ∧
    (opc = 0x2f → a + b ≤ 2 ^ 64 → ∃ g', exec i s =
        .next ({ Rules.holding s (.op s.nextId) with nextId := s.nextId + 2 }.setGroup s.cur.key g') ∧
      g'.storeQ = g.storeQ ++ [Rules.marker (s.nextId + 1) g s o.opt (.icinv a (a + b) o.opt s.nextId)] ∧
      Rules.lanesGo g' g s (fun _ => nextPc s.cur) ∧ Rules.othersStay g' g s ∧
      Rules.newBundles g' g s (fun x => x.hold = some (.op s.nextId)) ∧ Rules.sameButIssue { g' with storeQ := g.storeQ } g) ∧
    (opc = 0xe1 → walkOpen s (s.cur.unit / 32) g.tenant a true = true → ∀ large p,
      (if leafError s (s.cur.unit / 32) g.tenant a then large = false ∧ p = 0
       else leafAt s g.tenant a = some (large, p) ∧ p.getLsbD 9 = true) →
      let t : State := { s with
        nextId := s.nextId + 1
        ops := putN s.ops s.nextId (Rules.opBy opc h g s (.pgmode o.opt a large p o.d)) }
      ∃ g', exec i s = .next (t.setGroup s.cur.key g') ∧ Rules.leaves g h s [(.s, o.d)] id g')

/-- R32, R103, R186: lanes that reach a barrier park on it; they arrive when a release of scope clu has been performed. R189: `mwait`
parks its lanes on an armed monitor, for n clocks where n is not 0; where none is armed it moves on. R188: `mon` makes an access that arms
the group's monitor on the line of its element. That `mwait` waits for a `mon` of its group is deduced (assumption 8). -/
def Obligations.Waiting : Prop :=
  ∀ (i : Instr) (opc : Nat) (h : Hdr) (f : Form) (g : Group) (s : State),
    view i = some (opc, h, f) → Issues opc h f g s → Rules.slotOk s →
    let o := operands g opc f
    let act := activeOf g h s
    (opc = 0x28 → g.lanes.length = 64 → o.a ≤ 15 →
      ∃ g', exec i s = .next ({ s with nextId := s.nextId + 1 }.setGroup s.cur.key g') ∧
        Rules.lanesBecome g' g s act (fun _ x => { x with pc := nextPc s.cur, park := some (.barrier o.a) }) ∧
        g'.storeQ = g.storeQ ++ [Rules.marker s.nextId g s 2 (.barrier o.a act)] ∧
        Rules.notesKept [] s.cur.clock g g'.pend g'.score g'.badRegs ∧ (∀ b ∈ g'.bundles, b.mask &&& act = 0) ∧
        Rules.sameButIssue { g' with storeQ := g.storeQ } g) ∧
    (opc = 0x2b → (∀ a ∈ accsOf s s.cur.unit s.cur.sub, a.kind = .mon → a.parked = true) →
      let n := if o.sl then o.lit.toNat else (g.readS s.cur.clock o.a).toNat
      (∀ x, g.monitor = .armed x → g.lanes.length = 64 → ∃ g', exec i s = .next (s.setGroup s.cur.key g') ∧
        Rules.lanesBecome g' g s act (fun _ y => { y with pc := nextPc s.cur, park := some .monitor }) ∧
        (n = 0 → g'.mwaitTill = g.mwaitTill) ∧
        (n ≠ 0 → ∃ t, g'.mwaitTill = some t ∧ t ≤ s.cur.clock + n ∧ (g.mwaitTill = none → t = s.cur.clock + n)) ∧
        Rules.notesKept [] s.cur.clock g g'.pend g'.score g'.badRegs ∧ (∀ b ∈ g'.bundles, b.mask &&& act = 0) ∧
        Rules.sameButIssue { g' with mwaitTill := g.mwaitTill } g) ∧
      ((∀ x, g.monitor ≠ .armed x) →
        exec i s = .next (s.setGroup s.cur.key (Rules.ended g h s { g.begun s with monitor := .disarmed })))) ∧
    (opc = 0x2a → Rules.memoryFree opc h f g s → Rules.walksTaken g s → ∀ c va,
      placeElem ((issueOf opc h f g s).brec g) (((g.readS s.cur.clock o.a).toNat + (bWhole o (bScalar g s.cur.clock o)).toNat) % 2 ^ 64)
        1 true false = .here c va →
      nodeOf va = s.regs.nodeId →
      exec i s = .next (issued g h s (Rules.startAccess { Rules.accessOf opc f g .mon act s with scalar := true }
        [{ lane := Rules.leadLane g h s, pos := 0, va, size := 1, dst := 0 }] (Rules.begunId g s))))

/-- R250, R251, R259: `ctrset` makes an operation that a release of scope clu stands before, and its bundle waits for it; `ctrwait`
acquires and goes on, or answers, where the counter has reached its target, and else parks its lanes. That `ctrwait` waits for a `ctrset` of
its group is deduced (assumption 8). -/
def Obligations.CounterResult : Prop :=
  ∀ (i : Instr) (opc : Nat) (h : Hdr) (f : Form) (g : Group) (s : State) (core : Nat),
    view i = some (opc, h, f) → Issues opc h f g s → Rules.slotOk s → Rules.memoryFree opc h f g s →
    let x := issueOf opc h f g s
    let o := x.o
    let now := s.cur.clock
    (opc = 0x8e ∨ opc = 0x8f) → counterOf (s.begun g) x g = .ok core →
    let met := counterMet (s.begun g) g.block core o.d
    let t := if met then acquireAt s.cur.unit 6 (s.begun g) else s.begun g
    let c : Op := Rules.opBy opc h g s (.ctr core o.d o.opt (g.readS now o.a) (w64 (memOffset x g)))
    (opc = 0x8e → exec i s = .next (issued g h s (Rules.holding (enqueueMark s.cur.unit s.cur.sub 2 (.fork s.nextId)
      { Rules.begunId g s with ops := putN s.ops s.nextId c }) (.op s.nextId)))) ∧
    (opc = 0x8f → ctrPending (s.begun g) x core o.d = false →
      exec i s = .next (issued g h s
        (if o.opt = 1 then scalarResult x o.a (if met then 1 else 0) t
         else if met then t
         else t.updGroup s.cur.key fun g =>
           g.park x.act (fun _ => .counter (256 * core + o.d)) fun _ => nextPc s.cur)))

namespace Sys2Proof.Rules

/-- What a bundle's elements come to, by the place of each (R72, R407): a lane takes the first fault over its positions and then accesses
nothing; every other lane accesses its elements in bounds, by position and then by lane, and its others are suppressed. -/
def planned (act : W64) (n : Nat) (place : Nat → Nat → Place) (p : Plan) : Prop :=
  let bad (k l : Nat) : Prop := ∃ c sub info, place k l = .bad c sub info
  (∀ l, l < 64 → act.getLsbD l = true → (∀ k, k < n → ¬bad k l) →
    p.good.getLsbD l = true ∧ (∀ e ∈ p.faults, e.lane ≠ l) ∧
    ∀ k, k < n → (∀ c va, place k l = .here c va → (k, l, c, va) ∈ p.go) ∧ (place k l = .out → (k, l) ∈ p.zeros)) ∧
  (∀ l k c sub info, l < 64 → act.getLsbD l = true → k < n → place k l = .bad c sub info → (∀ j, j < k → ¬bad j l) →
    { lane := l, cause := c, sub, pos := k, info } ∈ p.faults ∧ p.good.getLsbD l = false ∧ (∀ y ∈ p.go, y.2.1 ≠ l) ∧ ∀ z ∈ p.zeros, z.2 ≠ l) ∧
  (∀ e ∈ p.faults, act.getLsbD e.lane = true) ∧ (∀ y ∈ p.go, act.getLsbD y.2.1 = true) ∧ (∀ z ∈ p.zeros, act.getLsbD z.2 = true) ∧
  p.go.Pairwise (fun x y => x.1 < y.1 ∨ (x.1 = y.1 ∧ x.2.1 < y.2.1))

/-- The entries with which a store enters its queue (R73, R236): one for each line, ascending, with its parts by lane and then by position; a
lane's suppressed positions go with the first of its lines (R407). -/
def entriesOf (a : Access) (rs : List Req) : List Store :=
  (sortNat (rs.map Req.key)).map fun key =>
    let here := rs.filter fun r => r.key = key
    let r0 := here.headD { lane := 0, pos := 0, va := 0, size := 0, dst := 0 }
    { id := a.id
      slot := a.slot
      tenant := a.tenant
      dest := match r0.tr with | .scratch => .scratch r0.core (r0.va / 128) | _ => .virt (r0.va / 128)
      parts := (reqLanes here).flatMap fun l => (here.filter fun r => r.lane = l).map fun r =>
        { lane := l, pos := r.pos, va := r.va, bytes := toBytes r.size r.val.toNat }
      tr := r0.tr
      lanes := a.maskFor here
      pc := a.pc
      rel := a.rel
      nt := a.nt
      forks := a.forks
      scalar := a.scalar
      oob := a.oob.filter fun l => here.any (fun r => r.lane = l) && !(rs.any fun r => r.lane = l && decide (r.key < key)) }

end Sys2Proof.Rules

/-- R72, R73, R97, R233 to R240, R407: the vector loads (`ld`, `lds`) and atomics (`atom`, `acas`, `atoms`): the lanes that fault trap, and
where the request queue takes requests an access of the others starts, with one request for each element that is in bounds, behind the release
that it asks for; the elements out of bounds read 0. The vector stores (`st`, `sts`): where the store queue has room (how much that is is the
model's choice, assumption 47), the elements in bounds enter it line by line; a lane that has none counts its elements out of bounds now. -/
def Obligations.VectorMemory : Prop :=
  ∀ (i : Instr) (opc : Nat) (h : Hdr) (f : Form) (g : Group) (s : State),
    view i = some (opc, h, f) → Issues opc h f g s → Rules.slotOk s → Rules.memoryFree opc h f g s → Rules.walksTaken g s →
    let x := issueOf opc h f g s
    let o := x.o
    let r := x.brec g
    let scratch := opc = 0x82 ∨ opc = 0x83 ∨ opc = 0x86
    let size := if scratch then widthOf o.typ / 8 else 2 ^ recEsize r
    let place := if scratch then placeLocal x g (s.begun g) (opc ≠ 0x82) else placeGlobal x g r (opc ≠ 0x81) (opc ≠ 0x80)
    let p := planLanes x.act o.n place
    let kind : AccKind := if opc = 0x80 ∨ opc = 0x82 then .load else if opc = 0x85 then .cas else .atom o.opt
    (opc = 0x80 ∨ opc = 0x81 ∨ opc = 0x84 → typeFits r o.typ = true) → (opc = 0x85 → recEsize r = 3 ∨ recEsize r = 4) →
    let key := s.cur.key
    let sc : Scope := bitsOf o.c 6 4
    let acq := bitAt o.c 7
    let rel := bitAt o.c 8
    let a : Access := { Rules.accessOf opc f g kind p.good s with
      rel := if rel then some sc else none
      nt := !decide scratch && bitAt r 123
      oob := p.zeros.map Prod.snd }
    let reqs (dst : Nat → Nat) (val cmp : Nat → Nat → Nat) : List Req := p.go.map fun y =>
      { lane := y.2.1, pos := y.1, va := y.2.2.2, size, dst := dst y.1, val := BitVec.ofNat 128 (val y.1 y.2.1)
        cmp := BitVec.ofNat 128 (cmp y.1 y.2.1), core := y.2.2.1, tr := if scratch then .scratch else .todo }
    Rules.planned x.act o.n place p ∧
    (opc ∈ [0x80, 0x82, 0x84, 0x85, 0x86] →
      let b : Access := { a with
        acq := if acq then some sc else none
        released := !rel
        zeros := p.zeros.flatMap fun z => (List.range (o.span .d)).map fun j => (o.regAt .d z.1 + j, z.2) }
      let v := precise key p.faults ((Rules.begunId g s).updGroup key (markDest x s.nextId p.good))
      let w := if rel then enqueueMark s.cur.unit s.cur.sub sc (.access s.nextId) v else v
      let w := w.updGroup key fun g => { g with memHold := g.memHold ++ if acq then [s.nextId] else [] }
      exec i s = .next (issued g h s (Rules.startAccess b (reqs (o.regAt .d)
        (if opc = 0x84 ∨ opc = 0x85 then elemData x g .b size else if opc = 0x86 then elemData x g .d size else fun _ _ => 0)
        (if opc = 0x85 then elemData x g .d size else fun _ _ => 0)) w))) ∧
    (opc = 0x81 ∨ opc = 0x83 → g.storeQ.length < 32 →
      let bare := p.zeros.filter fun z => !(p.go.any fun y => y.2.1 = z.2)
      let c : Access := { a with kind := .store }
      let v := precise key p.faults (countOob s.cur.unit bare.length (Rules.begunId g s))
      let t := trReqs c (reqs (fun _ => 0) (elemData x g .d size) fun _ _ => 0) v
      exec i s = .next (issued g h s (if p.go = [] then v else
        decideStore s.cur.unit s.cur.sub s.nextId (t.2.updGroup key fun g => { g with storeQ := g.storeQ ++ Rules.entriesOf c t.1 }))))

/-- R174 to R176: the scalar accesses of a group (`sld`, `sst`, `satom`): a load or an atomic marks D and starts an access of one element, a store enters the
store queue; an element out of bounds of a record that is not strict reads 0, or is not written, and is counted. What counts as a full store
queue is the model's choice (assumption 47). -/
def Obligations.ScalarAccess : Prop :=
  ∀ (i : Instr) (opc : Nat) (h : Hdr) (f : Form) (g : Group) (s : State),
    view i = some (opc, h, f) → opc = 0x18 ∨ opc = 0x19 ∨ opc = 0x1d → Issues opc h f g s → Rules.slotOk s →
    Rules.memoryFree opc h f g s →
    let x := issueOf opc h f g s
    let o := x.o
    let now := s.cur.clock
    let b := bWhole o (bScalar g now o)
    let kind : AccKind := if opc = 0x18 then .load else if opc = 0x19 then .store else if o.opt = 7 then .cas else .atom o.opt
    let a : Access := { Rules.accessOf opc f g kind (activeOf g h s) s with scalar := true, nt := bitAt (x.brec g) 123 }
    let at_ := placeElem (x.brec g) (((g.readS now o.a).toNat + if opc = 0x1d then 0 else b.toNat) % 2 ^ 64) (widthOf o.typ / 8)
      (opc ≠ 0x19) (opc ≠ 0x18)
    let req (va : Nat) (val cmp : W64) : Req := { scalarReq x va val cmp with lane := Rules.leadLane g h s }
    (opc = 0x19 → g.storeQ.length < 32) →
    (∀ c va, at_ = .here c va → Rules.walksTaken g s →
      exec i s = .next (issued g h s
        (if opc = 0x19 then enqueueStore a [req va (g.readS now o.d) 0] (Rules.begunId g s)
         else Rules.startAccess a
          [req va (if opc = 0x18 then 0 else b) (if opc = 0x18 then 0 else w64 ((g.readS now o.d).toNat % 2 ^ widthOf o.typ))]
          ((Rules.begunId g s).updGroup s.cur.key fun g => g.mark s.nextId .s o.d (BitVec.allOnes 64))))) ∧
    (at_ = .out → ∃ g', exec i s = .next ((Rules.withCore s fun c => { c with oob := c.oob + 1 }).setGroup s.cur.key g') ∧
      if opc = 0x19 then g' = Rules.ended g h s (g.begun s) else Rules.writesScalar g h s o.d 0 g')

/-- R175, R176, R313, R355: `sld`, `sst` and `satom` of a Folbel core or of the fabric processor, on an aligned element of the
context's own region: D, and the bytes stored, and nothing else but the error of a granule that `sst` writes whole (R390). An
offset outside a Folbel region is HANDLER_ACCESS, a misaligned one ALIGN, one whose element passes the end BOUNDS, and bytes in
error ECC_UNCORR (R432). The order of these checks, and bit 62 of the address that names script memory, are the model's reading:
assumption 36. -/
def Obligations.ContextMemory : Prop :=
  ∀ (i : Instr) (opc : Nat) (h : Hdr) (f : Form) (s : State),
    view i = some (opc, h, f) → opc = 0x18 ∨ opc = 0x19 ∨ opc = 0x1d → Runs opc h f s →
    let o := opndOf opc f
    let p := curProc s
    let b := bWhole o (p.get o.b)
    let off := if opc = 0x1d then (p.get o.a).toNat else (p.get o.a + b).toNat
    let w := widthOf o.typ / 8
    let store := procStore s
    let at_ := (procRegion s).1 + off
    let old := readNat store at_ w
    let v := b.toNat % 2 ^ widthOf o.typ
    let new := if o.opt = 7 then (if extW o.typ old = extW o.typ (p.get o.d).toNat then v else old) else atomInt o.opt o.typ old v
    let goes (p : Proc) (t : State) : Prop := exec i s = .next (procRetire { p with pc := (nextPc s.cur).toNat } h t)
    let whole := opc = 0x19 ∧ w = 8
    let outside := s.cur.seq = .folbel ∧ (procRegion s).2 ≤ off
    (0 < w → off % w = 0 → off + w ≤ (procRegion s).2 → procBad s at_ w = false ∨ whole →
      (opc = 0x18 → goes (p.put o.d (extW o.typ old)) s) ∧
      (opc = 0x19 → goes p (procClear at_ w (setProcStore (writeBytes store at_ (toBytes w (p.get o.d).toNat)) s))) ∧
      (opc = 0x1d → goes (p.put o.d (extW o.typ old)) (setProcStore (writeBytes store at_ (toBytes w new)) s))) ∧
    (outside → exec i s = .next (procFault cACCESS 0 (w64 off) s)) ∧
    (¬outside → off % w ≠ 0 → exec i s = .next (procFault cALIGN 0 (w64 off) s)) ∧
    (¬outside → off % w = 0 → (procRegion s).2 < off + w → exec i s = .next (procFault cBOUNDS 0 (w64 off) s)) ∧
    (off % w = 0 → off + w ≤ (procRegion s).2 → ¬outside → procBad s at_ w = true → ¬whole →
      exec i s = .next (procFault cECC 0 (w64 off ||| w64 (2 ^ 62)) s))

/-- R97, R241: `fence` holds the group's later memory instructions until its release has been performed and its earlier loads have
returned. R243: `pref` starts one access for the distinct lines of the elements that R72 admits; no lane waits or faults. R242: `stash`,
once the group's earlier stores have left the store queue, writes its window's dirty entries back, changes the window, and holds the group's later memory instructions until the write-backs have been
performed. -/
def Obligations.FencesAndHints : Prop :=
  ∀ (i : Instr) (opc : Nat) (h : Hdr) (f : Form) (g : Group) (s : State),
    view i = some (opc, h, f) → Issues opc h f g s → Rules.slotOk s → Rules.memoryFree opc h f g s →
    let x := issueOf opc h f g s
    let act := activeOf g h s
    let core := s.cur.unit
    let r := x.brec g
    (opc = 0x87 →
      let a : Access := { Rules.accessOf opc f g .fence act s with acq := x.acq, rel := x.rel, released := x.rel.isNone }
      let t := Rules.begunId g s
      let t := match x.rel with | some sc => enqueueMark core s.cur.sub sc (.access s.nextId) t | none => t
      exec i s = .next (issued g h s (pumpFences core s.cur.sub
        (putAcc a (t.updGroup s.cur.key fun g => { g with memHold := g.memHold ++ [s.nextId] }))))) ∧
    (opc = 0x89 → Rules.walksTaken g s → typeFits r x.o.typ = true →
      let lines := sortNat ((List.range x.o.n).flatMap fun k => (lanesOf x.act).filterMap fun l =>
        match placeGlobal x g r true false k l with | .here _ va => some (va / 128) | _ => none)
      exec i s = .next (issued g h s (Rules.startAccess
        { Rules.accessOf opc f g (.pref (x.o.opt = 1)) 0 s with nt := bitAt r 123, slot := 128 }
        (lines.map fun l => { lane := 0, pos := 0, va := 128 * l, size := 128, dst := 0 }) (Rules.begunId g s)))) ∧
    (opc = 0x88 →
      let m := if x.o.opt = 0 then stashMap (s.begun g) x g else none
      let who : Who := { slot := s.cur.sub, tenant := g.tenant, lanes := act, pc := s.cur.pc }
      (x.o.opt = 0 → m ≠ none) → windowBusy (s.begun g) g.block core x.o.d = false → (∀ e ∈ g.storeQ, e.mark ≠ none) →
      let t := stashEffect x g m (flushStash core who (fun b w _ => b = g.block && w = x.o.d) (s.begun g))
      let n := t.nextId
      let t := { t with nextId := n + 1 }.updGroup s.cur.key fun g => { g with memHold := g.memHold ++ [n] }
      exec i s = .next (issued g h s (putAcc
        { Rules.accessOf opc f g .fence act s with id := n, owner := n, released := false }
        (t.updCore core fun c => { c with commitQ := c.commitQ ++ [Rules.marker n g s 0 (.access n)] }))))

/-! ## Engine commands, keyed queues and the matrix engine -/

namespace Sys2Proof.Rules

/-- The operation that an engine command of a group posts (R244). -/
def engineOp (h : Hdr) (g : Group) (s : State) (kind : OpKind) : Op :=
  { id := s.nextId, core := s.cur.unit, slot := s.cur.sub, lane := leadLane g h s, tenant := g.tenant, blk := g.block, pc := s.cur.pc,
    lanes := (match lowest (activeOf g h s) with | some l => laneBit l | none => 0), kind }

/-- A group that has posted an operation (R101, R244): it notes the operation, whose release of a scope stands at the end of its store
queue. -/
def postGroup (g : Group) (s : State) (scope : Scope) (b : Group) : Group :=
  { b with
    forks := b.forks ++ [s.nextId]
    storeQ := b.storeQ ++ [marker (s.nextId + 1) g s scope (.fork s.nextId)] }

/-- The state with the operation in flight. -/
def postState (h : Hdr) (g : Group) (s : State) (kind : OpKind) : State :=
  { s with nextId := s.nextId + 2, ops := putN s.ops s.nextId (engineOp h g s kind) }

/-- The state after an instruction that posts an operation, and nothing else. -/
def posts (h : Hdr) (g : Group) (s : State) (scope : Scope) (kind : OpKind) : State :=
  (postState h g s kind).setGroup s.cur.key (ended g h s (postGroup g s scope (g.begun s)))

/-- The state after a push or a hold change, which its bundle waits for (R277, R280); it stands behind a release where it makes one. -/
def queues (h : Hdr) (g : Group) (s : State) (rel : Option Scope) (kind : OpKind) : State :=
  let wait : Hold := .op s.nextId
  match rel with
  | none =>
    let t := holding { s with nextId := s.nextId + 1, ops := putN s.ops s.nextId { engineOp h g s kind with ready := true } } wait
    t.setGroup s.cur.key (ended g h t (g.begun s))
  | some scope =>
    let t := holding (postState h g s kind) wait
    t.setGroup s.cur.key (ended g h t (postGroup g s scope (g.begun s)))

/-- A scalar file after words have been written from a register on. -/
def putWords (m : ZMap 64) (d : Nat) (ws : List W64) : ZMap 64 := ws.zipIdx.foldl (fun m x => setZ m (d + x.2) x.1) m

/-- Scalar registers from one on. -/
def scalars (d n : Nat) : List (RFile × Nat) := (List.range n).map fun j => (.s, d + j)

end Sys2Proof.Rules

/-- R101, R244 to R249, R256, R257: an engine command whose parameters pass their checks, where its engines have room, is posted after
a release: `cpy` at scope dev (pod to a peer), `mfill` at die, `xpush` and `xpull` at pod, `msend` at dev, `qpost` at sys, with D out of use
until its status arrives. The checks of ranges and their order are the model's choices (assumption 33). -/
def Obligations.EngineCommand : Prop :=
  ∀ (i : Instr) (opc : Nat) (h : Hdr) (f : Form) (g : Group) (s : State),
    view i = some (opc, h, f) → Issues opc h f g s → Rules.slotOk s → Rules.memoryFree opc h f g s →
    let x := issueOf opc h f g s
    let t := s.begun g
    let now := s.cur.clock
    let room (es : List Nat) : Prop := engineFull t s.cur.unit es = false
    (opc = 0x8a → ∀ c, copyCmd x g t = .ok c → room [0] →
      exec i s = .next (Rules.posts h g s (if x.o.opt = 2 then 5 else 4) (.copy c))) ∧
    (opc = 0x8b → ∀ c, fillCmd x g t = .ok c → room [1] → exec i s = .next (Rules.posts h g s 3 (.fill c))) ∧
    (opc = 0x8c → ∀ c, pushCmd x g t = .ok c → room c.engines → exec i s = .next (Rules.posts h g s 5 (.xfer c))) ∧
    (opc = 0x8d → ∀ c, pullCmd x g t = .ok c → room c.engines → exec i s = .next (Rules.posts h g s 5 (.xfer c))) ∧
    (opc = 0x95 → ∀ va, elemOf x g (memOffset x g) false true false = .ok (some va) → nodeOf va = s.regs.nodeId →
      let low := match (blockOf s g).bind (·.share s.cur.unit) with | some sh => sh.low | none => s.cur.sub
      exec i s = .next (Rules.posts h g s 4 (.msg va (g.readS now x.o.d, g.readS now (x.o.d + 1)) low))) ∧
    (opc = 0x96 → memOffset x g < 64 → (s.queue (memOffset x g)).tenant = g.tenant →
      ∃ g', exec i s = .next ((Rules.postState h g s
          (.post (memOffset x g) ((List.range 8).map fun j => g.readS now (x.o.a + j)) x.o.d)).setGroup s.cur.key g') ∧
        Rules.leaves g h s [(.s, x.o.d)] (Rules.postGroup g s 6) g')

/-- R101, R254, R255: `stamp` puts a store with release in the store queue, behind the group's forks where `.all` is given; `stampw` marks D
and makes an access that ends when the element reaches the value. SUB 0x0B for another ESIZE than 3 is the model's choice (assumption 33). -/
def Obligations.StampResult : Prop :=
  ∀ (i : Instr) (opc : Nat) (h : Hdr) (f : Form) (g : Group) (s : State) (va : Nat),
    view i = some (opc, h, f) → Issues opc h f g s → Rules.slotOk s → Rules.memoryFree opc h f g s → Rules.walksTaken g s →
    let x := issueOf opc h f g s
    let l := Rules.leadLane g h s
    let lead : W64 := match lowest (activeOf g h s) with | some l => laneBit l | none => 0
    (opc = 0x93 → elemOf x g (memOffset x g) false true true = .ok (some va) → g.storeQ.length < 32 →
      let forks := if x.o.opt = 1 then openForks (s.begun g) g else []
      let a : Access := { Rules.accessOf 0x93 f g .store lead s with rel := x.rel, forks := forks }
      let t := enqueueStore a [{ lane := l, pos := 0, va, size := 8, dst := 0, val := (g.readS s.cur.clock x.o.d).setWidth 128 }]
        (Rules.begunId g s)
      exec i s = .next (issued g h s (t.updGroup s.cur.key fun y => { y with forks := openForks t y }))) ∧
    (opc = 0x94 → elemOf x g 0 true false true = .ok (some va) → nodeOf va = s.regs.nodeId →
      exec i s = .next (issued g h s (Rules.startAccess
        { Rules.accessOf 0x94 f g (.stampw (w64 (memOffset x g)) (activeOf g h s) (g.lane l).trap) lead s with scalar := true, acq := some 6, typ := 7 }
        [{ lane := l, pos := 0, va, size := 8, dst := x.o.d }]
        ((Rules.begunId g s).updGroup s.cur.key fun g => g.mark s.nextId .s x.o.d (BitVec.allOnes 64)))))

/-- R267, R272 to R281: the keyed-queue instructions. `spawn`, `kpush`, `kcfg`: the record goes to the queue that DEST names, a `spawn`
with PARENT set to its block's counter and after a release of scope dev; the bundle waits. (R273: when that release has been performed
the counter gains 1: `QueueEvents`.) `kpop` of an ended queue gives the end token; a polling one takes a record or finds nothing, nothing
too while every ticket is out, or waits for the ring's line (the last two are the model's reading: assumption 34); one that waits
parks its lanes and takes its eight registers out of use. `kdone` of a ticket that is outstanding is posted after a release of scope dev; `kstat` reads one number of a queue of the
tenant. -/
def Obligations.KeyedQueues : Prop :=
  ∀ (i : Instr) (opc : Nat) (h : Hdr) (f : Form) (g : Group) (s : State),
    view i = some (opc, h, f) → Issues opc h f g s → Rules.slotOk s → (opc ≠ 0xb5 → Rules.memoryFree opc h f g s) →
    let x := issueOf opc h f g s
    let o := x.o
    let now := s.cur.clock
    let core := s.cur.unit
    let a := (g.readS now o.a).toNat
    let act := activeOf g h s
    let parent : W32 := if opc = 0xb0 then w32 (2 ^ 31 + lowSlot (s.begun g) g core * 2 ^ 24 + core * 2 ^ 17 + o.d) else 0
    let r : KRec :=
      { key := g.readS now o.a
        pay := (g.readS now (o.a + 1)).setWidth 128 + ((g.readS now (o.a + 2)).setWidth 128 <<< 64)
        parent
        homed := bitsOf o.c 9 8 ≠ 0
        ptype := bitsOf o.c 7 5
        op := o.c % 32 }
    let dest := pushTo (s.begun g) g.tenant core (bitsOf o.c 9 8) r.key
    let q := clusterOf core
    let t := (g.readS now (o.a + 6)).toNat
    (opc = 0xb0 ∨ opc = 0xb1 → (opc = 0xb0 → ctrBad (s.begun g) g o.d = none) → r.key ≠ BitVec.allOnes 64 →
      pushesOut (s.begun g) core dest < 32 →
      exec i s = .next (Rules.queues h g s (if opc = 0xb0 then some 4 else if 8 ≤ o.opt then some (o.opt % 8) else none)
        (.push dest r s.cur.word0))) ∧
    (opc = 0xb4 → clusterTenant s a = some g.tenant →
      exec i s = .next (Rules.queues h g s none (.khold a (o.opt = 1) s.cur.word0))) ∧
    (opc = 0xb2 → kqEnded s q = true → ∃ g', exec i s = .next (s.setGroup s.cur.key g') ∧
      Rules.leaves g h s (Rules.scalars o.d 8) (fun b => { b with
        sregs := Rules.putWords g.sregs o.d [BitVec.allOnes 64, 0, 0, 0, 0, 0, w64 (2 ^ 62 + q * 2 ^ 16), w64 (s.kcq q).disp]
        endSeen := true }) g') ∧
    (opc = 0xb2 → kqEnded s q = false → bitAt o.c 0 = true →
      exec i s = .next (match pollPop x g q (s.begun g) with | some u => issued g h s u | none => s.setHeld)) ∧
    (opc = 0xb2 → kqEnded s q = false → bitAt o.c 0 = false →
      ∃ g', exec i s = .next ({ s with nextId := s.nextId + 1 }.setGroup s.cur.key g') ∧
        Rules.lanesBecome g' g s act (fun _ y => { y with pc := nextPc s.cur, park := some .kpop }) ∧
        g'.kwaits = g.kwaits ++ [{ id := s.nextId, lanes := act, d := o.d, acq := optScope o, pc := s.cur.pc, since := now }] ∧
        Rules.notesKept (Rules.scalars o.d 8) now g g'.pend g'.score g'.badRegs ∧ (∀ b ∈ g'.bundles, b.mask &&& act = 0) ∧
        Rules.sameButIssue { g' with kwaits := g.kwaits } g) ∧
    (opc = 0xb3 → bitAt t 63 = false → bitAt t 62 = false → ticketOut (s.begun g) (bitsOf t 20 16) (bitsOf t 11 0) = true →
      exec i s = .next (Rules.posts h g s 4 (.kdone (bitsOf t 20 16) (bitsOf t 11 0) (g.readS now (o.a + 1))))) ∧
    (opc = 0xb5 → clusterTenant s a = some g.tenant →
      let k := s.kcq a
      ∃ g', exec i s = .next (s.setGroup s.cur.key g') ∧ Rules.writesScalar g h s o.d (w64 (match o.opt with
        | 0 => k.waiting.length | 1 => k.spilled | 2 => k.tickets.length | 3 => k.hold | 4 => k.folds | 5 => k.seals
        | 6 => k.spills | _ => k.disp)) g')

/-- R286, R288, R292, R293, R295: matrix commands are posted after a release of scope clu: `mma` on the tiles its name holds, or on
fresh ones that read +0; `tld` on fresh tiles; `tst` and `qdual` on tiles the name holds; `tclr` takes fresh tiles and posts at once. -/
def Obligations.MatrixCommand : Prop :=
  ∀ (i : Instr) (opc : Nat) (h : Hdr) (f : Form) (g : Group) (s : State),
    view i = some (opc, h, f) → Issues opc h f g s → Rules.slotOk s → (opc ≠ 0xa1 → Rules.memoryFree opc h f g s) →
    let x := issueOf opc h f g s
    let o := x.o
    let b := s.begun g
    let cl := clusterOf s.cur.unit
    let a := g.readS s.cur.clock o.a
    (opc = 0xa0 → ∀ core off bs m, a.toNat % 64 = 0 → areaOf b g s.cur.unit a.toNat 64 = .ok (core, off) →
      (staleEntry b g.block (blockReq x core off)).isNone → scratchBad b g.block core off 64 = false →
      paramBlock x g b core off = some bs → mmaCmd x g b bs = .ok m → tableFull b cl = false →
      let typ := if m.atype = 11 then 11 else 10
      (o.opt = 1 → ∀ ts t, bindTiles x o.d typ b = some (ts, t) →
        exec i s = .next (issued g h s (postOp x g 2 (.mat ts (.mma m)) (zeroTiles cl ts t)))) ∧
      (o.opt ≠ 1 → ∀ ts, g.tile o.d = some (ts, typ) → exec i s = .next (Rules.posts h g s 2 (.mat ts (.mma m))))) ∧
    (opc = 0xa1 → ∀ ts t, bindTiles x o.d o.typ b = some (ts, t) → exec i s = .next (issued g h s (postTile x g ts .clear t))) ∧
    (opc = 0xa4 → ∀ ts fmt core off pitch ctr, g.tile o.d = some (ts, fmt) → storeType fmt o.typ = true →
      tileArea x g b = .ok (core, off, pitch) → tileCtr b g (g.readS s.cur.clock (o.a + 1)).toNat = .ok ctr →
      exec i s = .next (Rules.posts h g s 2 (.mat ts (.store core off pitch o.typ (rmOf o.rm g.fpctl) ctr)))) ∧
    (opc = 0xa5 → ∀ core off pitch ts t, tileArea x g b = .ok (core, off, pitch) →
      bindTiles x o.d (if o.typ = 11 then 11 else 10) b = some (ts, t) →
      exec i s = .next (issued g h s (postOp x g 2 (.mat ts (.load core off pitch o.typ)) t))) ∧
    (opc = 0xa7 → ∀ ts row col ctr, g.tile o.d = some (ts, 10) → o.opt ≠ 0 →
      let c := g.readS s.cur.clock (o.a + 1)
      a.toNat % 128 = 0 → a.toNat / 2 ^ 32 % 128 = 0 → c.toNat % 128 = 0 → c.toNat / 2 ^ 32 % 128 = 0 →
      quantArea x g b (bitAt o.opt 0) a.toNat = .ok row → quantArea x g b (bitAt o.opt 1) c.toNat = .ok col →
      tileCtr b g (g.readS s.cur.clock (o.a + 2)).toNat = .ok ctr →
      exec i s = .next (Rules.posts h g s 2 (.mat ts (.quant o.typ o.inf row col ctr))))

namespace Sys2Proof.Rules

/-- Registers read by the issuing bundle, each through its port where it has one (R82). -/
def taken (g : Group) (s : State) (regs : List Nat) : Gather :=
  gather s.cur.clock
    { g := g.begun s, blk := getN s.blocks g.block, key := s.cur.key, lanes := s.cur.lanes, errs := s.errs } regs

end Sys2Proof.Rules

/-- R294: `trd` of a tile that no earlier operation owns reads its rows at once, and posts a read of one that is owned, or waits with its
bundle where a destination is a push port (R82; that the bundle is held for it is the model's choice: assumption 35); `twr` posts its registers' values, read at issue, or parks at a pop port whose ring is empty
(R31). A row of 128 or more is refused. R296, R297: `tfree` gives up a name; `twait` acquires at once where nothing of the
group is under way on the tile, and else holds its bundle until the last operation is complete. -/
def Obligations.TilesAndRows : Prop :=
  ∀ (i : Instr) (opc : Nat) (h : Hdr) (f : Form) (g : Group) (s : State),
    view i = some (opc, h, f) → Issues opc h f g s → Rules.slotOk s →
    let x := issueOf opc h f g s
    let o := x.o
    let b := s.begun g
    let row := (bWhole o (bScalar g s.cur.clock o)).toNat % 2 ^ widthOf o.typ
    let ported := (o.regs .d).any fun r => g.binds.any fun y => y.push && y.reg = r.2
    (opc = 0xa2 → row + (o.n - 1) / 2 < 128 → ∀ ts, g.tile o.a = some (ts, o.typ) →
      (tileBusy b (clusterOf s.cur.unit) s.nextId ts = false → exec i s = .next (issued g h s (readRows x g ts row b))) ∧
      (tileBusy b (clusterOf s.cur.unit) s.nextId ts = true → ported = true → exec i s = .next s.setHeld) ∧
      (tileBusy b (clusterOf s.cur.unit) s.nextId ts = true → ported = false → exec i s = .next (issued g h s
        (postTile x g ts (.read ((List.range o.n).map (o.regAt .d)) row)
          (b.updGroup s.cur.key fun g => (o.regs .d).foldl (fun g r => g.mark s.nextId .v r.2 x.act) g))))) ∧
    (opc = 0xa3 → row + (o.n - 1) / 2 < 128 → ∀ ts, g.tile o.d = some (ts, o.typ) →
      let a := Rules.taken g s (readRegs o .a)
      let vals := laneVals o .a a.imgs.reverse
      let cells := (List.range o.n).flatMap fun k => (lanesOf x.act).map fun l =>
        (128 * (row + k / 2) + (64 * (k % 2) + l), (vals.getD k []).getD l 0)
      (∀ q, a.wait = some q → exec i s = .next (issued g h s (parkStream x q (readRegs o .a) a b))) ∧
      (a.wait = none → exec i s = .next (issued g h s (postTile x g ts (.write cells) (ungather x a b))))) ∧
    (opc = 0xa2 ∨ opc = 0xa3 → ∀ ts, g.tile (if opc = 0xa2 then o.a else o.d) = some (ts, o.typ) → 128 ≤ row + (o.n - 1) / 2 →
      exec i s = .next (issued g h s (precise s.cur.key (sameFault (issuing x) cILLEGAL 0x0b 0 0) b))) ∧
    (opc = 0xa6 → exec i s = .next (s.setGroup s.cur.key (Rules.ended g h s { g.begun s with tiles := delN g.tiles o.d }))) ∧
    (opc = 0xa8 → ∀ ts fmt, g.tile o.d = some (ts, fmt) →
      (lastOn b s.cur.key ts = none → exec i s = .next (issued g h s (acquireAt s.cur.unit 6 b))) ∧
      (∀ n, lastOn b s.cur.key ts = some n →
        let t := Rules.holding s (.tile n)
        exec i s = .next (t.setGroup s.cur.key (Rules.ended g h t (g.begun s)))))

/-! ## Handlers and scripts -/

namespace Sys2Proof.Rules

/-- The registers of a context after an instruction that writes one of them, at the following instruction. -/
def wrote (s : State) (d : Nat) (v : W64) : Proc :=
  { curProc s with pc := (nextPc s.cur).toNat, sregs := setZ (curProc s).sregs d v }

/-- The registers of a context after an instruction that writes none of them. -/
def movedOn (s : State) : Proc := { curProc s with pc := (nextPc s.cur).toNat }

/-- The offset b of an instruction of the slice and circuit classes (R315, R357). -/
def contextB (o : Opnd) (p : Proc) : W64 := if o.bm = .reg then 0 else bWhole o (p.get o.b)

end Sys2Proof.Rules

/-- R311, R312, R315 to R322, R432: the instructions of slice handlers. `hlrd` reads, and `hlwr` writes at the slice, an aligned element of
a line that the handler may access; `hpref` starts the fill of such a line, and is dropped beyond eight, or, since it never waits,
where the walker would (the model's reading: assumption 36). A message instruction of an invocation that has sent fewer than four
answers 0 and acts: `hresp` adds to a counter of the origin's block, `hmsg` queues an MSG event (1 where the queue is full, 5 where the
line is refused), `hkpush` pushes a record; a fifth answers 2 and does nothing. `hend` ends the invocation: the context is free and its line released;
`hbudget` reads the instructions that remain, or lowers them. -/
def Obligations.HandlerInstructions : Prop :=
  ∀ (i : Instr) (opc : Nat) (h : Hdr) (f : Form) (s : State), view i = some (opc, h, f) → Runs opc h f s →
    let o := opndOf opc f
    let p := curProc s
    let c := curCtx s
    let unit := s.cur.unit
    let sub := s.cur.sub
    let va := (p.get o.a + Rules.contextB o p).toNat
    let n := widthOf o.typ / 8
    let own : Prop := va / 128 = c.line
    let walked := if va / 128 = c.line then s else handlerWalked unit c.tenant va s
    let sent := s.updCtx unit sub fun c => { c with msgs := c.msgs + 1 }
    let answers (x : W64) (t : State) : Prop := exec i s = .next (procRetire (Rules.wrote s o.d x) h t)
    (opc = 0xc0 → va % n = 0 → ∀ pa hc, handlerPlace s va false = .mem pa hc → eccIn walked pa n = false →
      exec i s = .next (procRetire (Rules.wrote s o.d (extW o.typ (readNat walked.mem pa n))) h (touchL2 (pa / 128) walked))) ∧
    (opc = 0xc0 → va % n = 0 → ∀ off, handlerPlace s va false = .snap off → off / 8 ∈ c.snapBad →
      exec i s = .next (procFault cECC 0 (w64 va) s)) ∧
    (opc = 0xc0 → va % n = 0 → ∀ off, handlerPlace s va false = .snap off → off / 8 ∉ c.snapBad →
      exec i s = .next (procRetire (Rules.wrote s o.d (extW o.typ (ofBytes ((c.snap.drop off).take n)))) h s)) ∧
    (opc = 0xc1 → va % n = 0 → ∀ pa hc, handlerPlace s va true = .mem pa hc → (n < 8 → eccIn walked pa n = false) →
      exec i s = .next (procRetire (Rules.movedOn s) h
        (touchL2 (pa / 128) (performBytes pa (toBytes n (p.get o.d).toNat) none hc walked)))) ∧
    (opc = 0xc2 →
      let t := s.updCtx unit sub fun c => { c with hprefs := c.hprefs + 1 }
      let goes (t : State) : Prop := exec i s = .next (procRetire (Rules.movedOn s) h t)
      (8 ≤ c.hprefs → goes s) ∧
      (c.hprefs < 8 → own ∨ handlerWalks t unit c.tenant va = false → goes t) ∧
      (c.hprefs < 8 → ¬own → handlerWalks t unit c.tenant va = true → walkBad t unit c.tenant va = true → goes (countError cECC t)) ∧
      (c.hprefs < 8 → ¬own → handlerWalks t unit c.tenant va = true → walkBad t unit c.tenant va = false →
        handlerLeaf t unit c.tenant va false = none → goes t) ∧
      (c.hprefs < 8 → ¬own → handlerWalks t unit c.tenant va = true → walkBad t unit c.tenant va = false →
        ∀ x, handlerLeaf t unit c.tenant va false = some x → x.there va = true →
        goes (startFill (x.addr va / 128) none none (handlerWalked unit c.tenant va t)))) ∧
    ((opc = 0xc3 ∧ c.kind = 3) ∨ opc = 0xc4 ∨ opc = 0xc5 → 4 ≤ c.msgs → answers 2 s) ∧
    (opc = 0xc3 → c.kind = 3 → c.msgs < 4 → ∀ core slot b blk, (curCtx sent).origin = some (core, slot) →
      parentBlock sent core slot = some b → getN sent.blocks b = some blk → (p.get o.b).toNat % 256 < (layoutOf sent blk).nctr →
      answers 0 (changeCounter b core ((p.get o.b).toNat % 256) (· + p.get o.a) id sent)) ∧
    (opc = 0xc4 → c.msgs < 4 → own ∨ (handlerWalks s unit c.tenant va = true ∧ walkBad s unit c.tenant va = false) →
      let sent := walked.updCtx unit sub fun c => { c with msgs := c.msgs + 1 }
      (∀ pline u, (own ∧ pline = c.pline) ∨
          (¬own ∧ ∃ x, handlerLeaf sent unit c.tenant va true = some x ∧ x.there va = true ∧ pline = x.addr va / 128) →
        let e : SliceEvent := { kind := 3, tenant := c.tenant, line := va / 128, pline, pay := (p.get o.c, p.get (o.c + 1)) }
        (postMsg e sent = (.taken, u) → answers 0 u) ∧ (postMsg e sent = (.full, u) → answers 1 u)) ∧
      (¬own → handlerLeaf sent unit c.tenant va true = none → answers 5 sent)) ∧
    (opc = 0xc5 → c.msgs < 4 →
      let r : KRec :=
        { key := p.get o.a
          pay := (p.get (o.a + 1)).setWidth 128 + ((p.get (o.a + 2)).setWidth 128 <<< 64)
          homed := true
          ptype := bitsOf o.c 7 5
          op := o.c % 32 }
      let q := pushTo s c.tenant (32 * (unit / 16)) (bitsOf o.c 9 8) r.key
      r.key ≠ BitVec.allOnes 64 → pushWaits q c.tenant r s = none → ∀ u, kqPush q c.tenant r sent = some u → answers 0 u) ∧
    (opc = 0xc6 → exec i s = .next ((if c.kind = 1 ∨ c.kind = 3 then s.updL2 c.pline fun x => { x with held := false } else s).updCtx
      unit sub fun _ => {})) ∧
    (opc = 0xc7 → o.opt = 0 → exec i s = .next (procRetire (Rules.wrote s o.d (w64 (c.budget - 1))) h s)) ∧
    (opc = 0xc7 → o.opt ≠ 0 → exec i s = .next (procRetire (Rules.movedOn s) h
      (s.updCtx unit sub fun c => { c with budget := min (c.budget - 1) (p.get o.a).toNat + 1 })))

/-- R347, R348, R357, R359: the instructions of fabric scripts. `creq` of an idle port of the tenant sets PEND, notes the peer, asks the
OCS and answers 0, and of any other answers 3; `crel` of ports of the tenant releases each; `cbar` binds, or frees, a barrier that no copy
uses (that it ignores the upper half of its mask is the model's reading: assumption 39); `cstat` reads a port; `cawait.live` and `.dark` end at once when every port of the mask is so, `cawait.mem` when the element has
reached the value, `erecv` when a message of the tenant is queued and no context of it has waited longer; `emsg` sends a message to another
node and answers 0; `ctime` reads the clock; `cstamp` writes its 8 bytes, and with `.end` ends the script and completes its packet. -/
def Obligations.CircuitInstructions : Prop :=
  (∀ (i : Instr) (opc : Nat) (h : Hdr) (f : Form) (s : State), view i = some (opc, h, f) → Runs opc h f s →
    let o := opndOf opc f
    let p := curProc s
    let w := p.get o.a
    let n := fld w 32 28
    let m := w.toNat % 2 ^ 32
    let node := fld w 9 0
    let tenant := curTenant s
    let answers (x : W64) (t : State) : Prop := exec i s = .next (procRetire (Rules.wrote s o.d x) h t)
    (opc = 0xd0 → fld w 27 0 = 0 → (portOf s n).idle = true → (portOf s n).owner = some tenant →
      answers 0 (tellOcs 0 n tenant (s.updPort n fun x => { x with
        pend := true, handle := fld w 63 48, peerNode := fld w 47 38, peerPort := fld w 37 33, ctx := s.cur.sub }))) ∧
    (opc = 0xd0 → fld w 27 0 = 0 → ¬((portOf s n).idle = true ∧ (portOf s n).owner = some tenant) → answers 3 s) ∧
    (opc = 0xd2 →
      let m := (p.get (o.a + 1)).toNat % 2 ^ 32
      let b := fld w 5 0
      foreign s m = false → ((barrierOf s b).mask = 0 ∨ (barrierOf s b).tenant = tenant) → barBusy s b = false →
      let bars := if m = 0 then delN s.fabric.bars b else putN s.fabric.bars b { tenant, peerNode := fld w 25 16, mask := m }
      answers 0 { s with fabric := { s.fabric with bars } }) ∧
    (opc = 0xd3 → foreign s m = false → answers 0 ((portsOf m).foldl crelPort s)) ∧
    (opc = 0xd4 → answers (portWord s (fld w 4 0) tenant) s) ∧
    (opc = 0xd5 → node ≠ s.regs.nodeId →
      let pkt : Packet :=
        { id := 0, node, tc := 0, count := 64, podasid := podasid s tenant, tenant := tenant,
          cargo := .emsg s.cur.sub { src := s.regs.nodeId, tag := fld w 31 16, p0 := p.get o.c, p1 := p.get (o.c + 1) } }
      answers 0 (enqueuePkt (node % 4) pkt s)) ∧
    (opc = 0xd6 → ∀ k x, s.fabric.recvq.findIdx? (fun m => m.1 = tenant) = some k → s.fabric.recvq[k]? = some (tenant, x) →
      recvBehind s = false → k ∉ s.fabric.recvBad →
      let bad := (s.fabric.recvBad.filter (· ≠ k)).map fun j => if k < j then j - 1 else j
      exec i s = .next (procRetire { Rules.movedOn s with
          sregs := setZ (setZ (setZ p.sregs o.d x.p0) (o.d + 1) x.p1) (o.d + 2) (w64 (x.src + 2 ^ 16 * x.tag)) } h
        { s with fabric := { s.fabric with recvq := s.fabric.recvq.eraseIdx k, recvBad := bad } })) ∧
    (opc = 0xd7 → answers (w64 s.cur.clock) s) ∧
    (opc = 0xd8 → ∀ t pa hc, scriptElem s (w + Rules.contextB o p) .write = (.ok (pa, hc), t) →
      let t := touchL2 (pa / 128) (performBytes pa (toBytes 8 (p.get o.d).toNat) none hc t)
      (o.opt ≠ 1 → exec i s = .next (procRetire (Rules.movedOn s) h t)) ∧
      (o.opt = 1 → exec i s = .next (endScript s.cur.sub t)))) ∧
  (∀ (h : Hdr) (m : Multi) (s : State), Runs 0xd1 h (.multi m) s →
    let o := opndOf 0xd1 (.multi m)
    let ports := ((curProc s).get o.a).toNat % 2 ^ 32
    foreign s ports = false → portsWhere s ports (fun x => x.st ≠ if o.opt = 0 then 3 else 0) = 0 →
    exec (.cawait h m) s = .next (procRetire (Rules.wrote s o.d 0) h s)) ∧
  (∀ (h : Hdr) (m : Multi) (s t : State) (pa : Nat) (hc : Bool), Runs 0xd1 h (.multi m) s →
    let o := opndOf 0xd1 (.multi m)
    let p := curProc s
    o.a < 31 → scriptElem s (p.get o.a) .read = (.ok (pa, hc), t) → eccIn t pa 8 = false →
    (p.get (o.a + 1)).toNat ≤ readNat t.mem pa 8 →
    exec (.cawaitMem h m) s = .next (procRetire (Rules.wrote s o.d 0) h (touchL2 (pa / 128) t)))

/-! ## Quantised blocks -/

/-- R131, R223, R224: on a group without ports `vquant` makes of each block of 32 elements with an active lane eight lanes of D and one
scale element of C, and a block's flags are those of its first lane where that is active; `vdequant` writes the active lanes of its
destination registers with elements of A under the scales of C, as a block of 1 by 1 whatever its words say of ROWS and COLS (the
model's choice: assumption 12). -/
def Obligations.QuantisedBlocks : Prop :=
  (∀ (i : Instr) (h : Hdr) (f : Form) (g : Group) (s : State),
    view i = some (0x71, h, f) → g.binds = [] → Issues 0x71 h f g s →
    let o := operands g 0x71 f
    let regs := Rules.images o .a g s.cur.clock
    let act := activeOf g h s
    let blocks := (List.range 8).filter fun b => (List.range 8).any fun l => act.getLsbD (8 * b + l)
    let quant (b : Nat) := quantise o.typ o.inf ((List.range 32).map fun e => ieeeVal o.typ2 (spanEl o.typ2 regs (32 * b + e)))
    let data := blocks.flatMap fun b => (List.range 8).map fun l =>
      (8 * b + l, joinEls 8 ((List.range 4).map fun e => ((quant b).2.getD (4 * l + e) (0, 0)).1))
    let scales := blocks.map fun b => (8 * (o.opt % 8) + b, (quant b).1)
    let flags := blocks.foldl (fun f b => if act.getLsbD (8 * b) then (quant b).2.foldl (fun f r => f ||| r.2) f else f) 0
    o.d ≠ o.c →
    ∃ g', exec i s = .next ((holdDatapath (Rules.occupancy o) s).setGroup s.cur.key g') ∧
      Rules.leaves g h s [(.v, o.d), (.v, o.c)] (fun x => { x with
        vregs := putLanes (putLanes g.vregs o.d data) o.c scales
        fpstat := g.fpstat ||| w64 (flags % 32) }) g') ∧
  (∀ (i : Instr) (h : Hdr) (f : Form) (g : Group) (s : State),
    view i = some (0x72, h, f) → g.binds = [] → Issues 0x72 h f g s →
    let o := operands g 0x72 f
    let now := s.cur.clock
    let lanes := lanesOf (activeOf g h s)
    let src := g.readVReg now o.a
    let scl := g.readVReg now o.c
    let element (r l j : Nat) : Nat × Nat :=
      let e := r * elemsIn o.typ + l * perLane o.typ + j
      dequantEl o.typ o.typ2 o.inf (rmOf o.rm g.fpctl) (elemAt 8 src e) (scl.getD (8 * (o.opt % 8) + e / 32) 0)
    let lane (r l : Nat) := (List.range (perLane o.typ)).map (element r l)
    let flags := (List.range (o.span .d)).foldl (fun f r => lanes.foldl (fun f l =>
      f ||| (lane r l).foldl (fun f x => f ||| x.2) 0) f) 0
    ∃ g', exec i s = .next ((holdDatapath (Rules.occupancy o) s).setGroup s.cur.key g') ∧
      Rules.leaves g h s ((List.range (o.span .d)).map fun r => (.v, o.d + r)) (fun x => { x with
        vregs := (List.range (o.span .d)).foldl (fun m r => putLanes m (o.d + r)
          (lanes.map fun l => (l, joinEls (widthOf o.typ) ((lane r l).map Prod.fst)))) g.vregs
        fpstat := g.fpstat ||| w64 (flags % 32) }) g')

/-! ## Packets of the command queues -/

namespace Sys2Proof.Rules

/-- A packet of a kind stands at the head of the queue that the event names, met for the first time or held before; it is the
queue's turn, and the header passes (R40 to R44). -/
structure Meets (k : Nat) (again : Bool) (p : Pkt) (s t : State) : Prop where
  turn : onTurn s s.input.unit = true
  held : (s.queue s.input.unit).waiting = again
  head : readHead s.input.unit s = (some p, t)
  kind : pkind p.v = k
  well : wellKind p.v = true
  stamp : stampGood t p.v = true
  order : k = 5 ∨ orderedOk p t = true

/-- An event of a queue ends in a state, and the turn passes to the next queue (R41). -/
def turns (i : Instr) (s t : State) : Prop := exec i s = .next { t with qturn := (s.input.unit + 1) % 64 }

/-- The packet has started (R43, R44): the queue's READ has moved on, and the packet is one of those that run. -/
def started (p : Pkt) (done : Bool) (t : State) : State :=
  ({ t with nextId := t.nextId + 1 } : State).updQueue p.q fun x => { x with
    read := x.read + 1
    waiting := false
    fence := none
    runs := x.runs ++ [{ id := t.nextId, pos := p.pos, kind := pkind p.v, addr := p.addr, done,
                         stamp := if pfld p.v 9 1 = 1 then some (pfld p.v 448 64) else none }] }

/-- The packet at the head is held (R44). -/
def held (p : Pkt) (t : State) : State := t.updQueue p.q fun x => { x with waiting := true }

/-- A launch has started: its blocks are to be placed (R48, R50), and the counts of OOBCOUNT and DROPPED_PREF start at 0 on the
cores of its tenant (R122, R178; which cores, and when: the model's choice, assumption 24). -/
def launched (p : Pkt) (roles : List Role) (t : State) : State :=
  let u := started p false t
  let v := { u with nextId := t.nextId + 2, launches := putN t.launches (t.nextId + 1) { packetLaunch p t roles 0 with pos := t.nextId } }
  ((clustersOf v p.tenant).flatMap coresOf).foldl (fun s k => s.updCore k fun c => { c with oob := 0, dropped := 0 }) v

/-- The one role of a LAUNCH (R48). -/
def soleRole (p : Pkt) : Role :=
  let f := pfld p.v
  { entry := w64 (f 128 64), ng := f 80 8 + 1, vg := 16 * (f 88 6 + 1), sg := 16 * f 96 4, nt := f 100 4, persist := f 18 1 = 1 }

/-- The copy that a COPY packet asks for, by its copy unit (R83, R85). -/
def packetCopy (p : Pkt) (unit id : Nat) : Copy :=
  let f := pfld p.v
  { unit, src := f 128 64, dst := .gl (f 192 64), rows := f 32 16 + 1, rowBytes := f 64 32, sstride := f 256 64,
    dstride := f 320 64, nt := f 16 1 = 1, pkt := some (p.q, id) }

/-- A KCQ after the actions of KCQ_CFG (R275). -/
def configured (p : Pkt) (x : Kcq) : Kcq :=
  let f := pfld p.v
  let reset := f 24 1 = 1
  let ring := f 26 1 = 1
  { x with
    sets := if reset then [] else x.sets
    entry := if reset then 0 else x.entry
    disp := if reset then 0 else x.disp
    bypass := if reset then 0 else x.bypass
    folds := if reset then 0 else x.folds
    seals := if reset then 0 else x.seals
    spills := if reset then 0 else x.spills
    hold := if f 25 1 = 1 then f 32 16 else x.hold
    ringBase := if ring then f 64 64 else x.ringBase
    ringLog := if ring then f 128 8 else x.ringLog
    ringHead := if reset ∨ ring then 0 else x.ringHead
    ringTail := if reset ∨ ring then 0 else x.ringTail }

end Sys2Proof.Rules

/-- R43, R48 to R50, R85, R275: a NOP, LAUNCH, GANG, COPY or KCQ_CFG packet that passes its checks starts, and READ moves on. The die at which
a packet translates and the checks of addresses on a peer are the model's choices (assumptions 28, 41). -/
def Obligations.PacketStarts : Prop :=
  ∀ (p : Pkt) (s t : State),
    (Rules.Meets 0 false p s t → Rules.turns .nopPacket s (Rules.started p true t)) ∧
    (Rules.Meets 1 false p s t → launchOk (packetLaunch p t [Rules.soleRole p] 0) = true →
      everFits t (packetLaunch p t [Rules.soleRole p] 0) = true → Rules.turns .launch s (Rules.launched p [Rules.soleRole p] t)) ∧
    (Rules.Meets 2 false p s t → ∀ (bs : List Byte) (u : State) (rs : List Role),
      let n := pfld p.v 80 2 + 1
      pfld p.v 128 64 % 16 = 0 → packetHere t (pfld p.v 128 64) = true → readSpan p.tenant (pfld p.v 128 64) (16 * n) t = (.ok bs, u) →
      (wordsOf 16 n bs).map roleEntry = rs.map some → launchOk (packetLaunch p u rs 0) = true →
      everFits u (packetLaunch p u rs 0) = true → Rules.turns .gang s (Rules.launched p rs u)) ∧
    (Rules.Meets 6 false p s t →
      let src := pfld p.v 128 64
      let dst := pfld p.v 192 64
      let die := match walk t 0 p.tenant dst with | .found x => if x.tier < 2 then homeDie x.tier (x.addr dst) else 0 | _ => 0
      let unit := match walk t 0 p.tenant src with
        | .found x => if x.tier = 0 ∧ nearPA (x.addr src) then sliceAt (x.addr src) / 16 * 8 + sliceAt (x.addr src) % 16 / 2 else 8 * die + p.q % 8
        | _ => 8 * die + p.q % 8
      let last (stride : Nat) : Nat := pfld p.v 32 16 * stride + pfld p.v 64 32 - 1
      1 ≤ pfld p.v 64 32 → pfld p.v 64 32 ≤ 2 ^ 24 → packetHere t src = true → packetHere t dst = true →
      packetHere t (src + last (pfld p.v 256 64)) = true → packetHere t (dst + last (pfld p.v 320 64)) = true →
      let u := Rules.started p false t
      Rules.turns .copy s { u with
        nextId := t.nextId + 2
        ops := putN t.ops (t.nextId + 1)
          { id := t.nextId + 1, core := 128, slot := p.q, tenant := p.tenant, pc := w64 p.addr, ready := true,
            kind := .copy (Rules.packetCopy p unit t.nextId) } }) ∧
    (Rules.Meets 10 false p s t → kcqBad t p.tenant p.v = false →
      let u := t.updKcq (pfld p.v 16 5) (Rules.configured p)
      let kept (x : Spot) : Bool := match x with | .krec n _ _ => n ≠ pfld p.v 16 5 | _ => true
      Rules.turns .kcqCfg s (Rules.started p true { u with
        errs := if pfld p.v 24 1 = 1 then t.errs.filter kept else t.errs
        homeMaps := if pfld p.v 27 1 = 1 then putN t.homeMaps p.tenant (mapOf p.v) else t.homeMaps }))

namespace Sys2Proof.Rules

/-- A WAIT's condition on the word that it reads (R45). -/
def condition (p : Pkt) (x : Nat) : Bool :=
  let f := pfld p.v
  let mask := if f 192 64 = 0 then 2 ^ 64 - 1 else f 192 64
  let a := x &&& mask
  let b := f 128 64 &&& mask
  match f 16 3 with
  | 0 => decide (a ≥ b)
  | 1 => a = b
  | 2 => a ≠ b
  | _ => decide (toSigned 64 a ≥ toSigned 64 b)

/-- The word of a WAIT, read in host memory or in its tenant's address space (R45). -/
def waitWord (p : Pkt) (t : State) (x : Nat) (u : State) : Prop :=
  let va := pfld p.v 64 64
  if pfld p.v 19 1 = 1 then x = readNat t.mem (hostAt va) 8 ∧ u = t
  else packetHere t va = true ∧ ∃ bs, readSpan p.tenant va 8 t = (.ok bs, u) ∧ x = ofBytes bs

/-- The queue of a packet without a run of it. -/
def left (q id : Nat) (t : State) : State := t.updQueue q fun x => { x with runs := x.runs.filter fun y => y.id ≠ id }

/-- A run of a queue has completed (R43). -/
def finished (q id : Nat) (t : State) : State :=
  t.updQueue q fun x => { x with runs := x.runs.map fun r => if r.id = id then { r with done := true } else r }

end Sys2Proof.Rules

/-- R44 to R47: a WAIT completes where its condition holds and is held where it does not, when it is met and at each recheck; a
SIGNAL writes, or adds to, its word; a FENCE fixes its set and completes when the set has; a held packet is met again. -/
def Sys2Proof.Rules.PacketWaits : Prop :=
  ∀ (p : Pkt) (s t : State),
    let va := pfld p.v 64 64
    (∀ x u, pfld p.v 16 3 < 4 → va % 8 = 0 → Rules.waitWord p t x u →
      let v := if Rules.condition p x = true then Rules.started p true u else Rules.held p u
      (Rules.Meets 3 false p s t → Rules.turns .wait s v) ∧ (Rules.Meets 3 true p s t → Rules.turns .waitRecheck s v)) ∧
    (Rules.Meets 4 false p s t → va % 8 = 0 →
      let op := pfld p.v 16 2
      let host := pfld p.v 18 1
      let x := pfld p.v 128 64
      (op = 0 → host = 1 → Rules.turns .signal s (Rules.started p true (performBytes (hostAt va) (toBytes 8 x) none true t))) ∧
      (op = 0 → host = 0 → packetHere t va = true → ∀ u, writeSpan p.tenant va (toBytes 8 (x % 2 ^ 64)) t = (.ok (), u) →
        Rules.turns .signal s (Rules.started p true u)) ∧
      (op = 1 → host = 0 → packetHere t va = true → ∀ bs u v, readSpan p.tenant va 8 t = (.ok bs, u) →
        writeSpan p.tenant va (toBytes 8 ((ofBytes bs + x) % 2 ^ 64)) u = (.ok (), v) →
        Rules.turns .signal s (Rules.started p true v))) ∧
    (Rules.Meets 5 false p s t → Rules.turns .fencePacket s (t.updQueue p.q fun x => { x with
      waiting := true
      fence := some (x.fence.getD (fenceSet p t)) })) ∧
    (∀ f, (s.queue s.input.unit).fence ≠ none → onTurn s s.input.unit = true → readHead s.input.unit s = (some p, t) → pkind p.v = 5 →
      (t.queue p.q).fence = some f → orderedOk p t = true → (∀ x ∈ f, x ∉ openRuns t x.1) →
      Rules.turns .fencePacketStart s (Rules.started p true t)) ∧
    (∀ k, k ≠ 5 → Rules.Meets k true p s t → (s.queue s.input.unit).fence = none →
      Rules.turns .packetDeferredStart s (startKind p t))

/-- R42 to R44: a packet of a reserved kind, or with a reserved field that is not 0, halts its queue; a packet that has completed leaves
when its stamp, position + 1, has been written; a LAUNCH, a COLL and a DESTROY complete as their rules say. -/
def Sys2Proof.Rules.PacketEnds : Prop :=
  (∀ (p : Pkt) (s t : State), onTurn s s.input.unit = true → readHead s.input.unit s = (some p, t) → wellKind p.v = false →
    let u := t.updQueue p.q fun x => { x with ctl := x.ctl ||| 2, waiting := false, fence := none }
    let v := postRec { cause := 0x01, src := 3, unit := p.q, pc := w64 p.addr, addr := 0, tenant := (t.queue p.q).tenant } u
    Rules.turns .packetIllegal s { v with msix := v.msix ++ [p.q] }) ∧
  (∀ (r : Run) (s : State),
    let q := s.input.unit
    (s.queue q).runs[s.input.idx]? = some r →
    let goes (t : State) : Prop := exec .packetComplete s = .next t
    (r.done = true → r.stamp = none → goes (Rules.left q r.id s)) ∧
    (r.done = true → ∀ va t, r.stamp = some va → writeSpan (s.queue q).tenant va (toBytes 8 (r.pos + 1)) s = (.ok (), t) →
      goes (Rules.left q r.id t)) ∧
    (r.done = false → (r.kind = 1 ∨ r.kind = 2) → ∀ k, launchEnded q r.id s = some k →
      goes (Rules.finished q r.id { s with launches := delN s.launches k })) ∧
    (r.done = false → r.kind = 7 → ∀ k seq t, collOf q r.id s = some (k, seq) → endColl k seq s = (true, t) →
      goes (Rules.finished q r.id t)) ∧
    (r.done = false → r.kind = 8 → ∀ k, destroyed q r.id s = some k →
      goes (Rules.finished q r.id { s with
        comms := delN s.comms k
        adrift := s.adrift ++ (match getN s.comms k with
          | some c => (c.copies.filter fun y => match y.st with | .flying _ _ _ => true | _ => false).map fun y => (k, y)
          | none => []) })))

/-- R42 to R47: how packets wait, complete and leave. The checks of stamp addresses and of addresses on a peer are the model's choices
(assumption 41). -/
def Obligations.PacketLives : Prop :=
  Rules.PacketWaits ∧ Rules.PacketEnds

/-- R337, R339, R342, R356: COLL joins its communicator's steps, and at the origin a hoist is to be built; COMM_CREATE makes a
communicator whose pages are mapped; DESTROY fails one and waits; CIRC starts a script in a free context. The checks of addresses on a peer are
the model's choices (assumption 41). -/
def Obligations.CollectivePackets : Prop :=
  ∀ (p : Pkt) (s t : State),
    let f := pfld p.v
    let k := commKey p.tenant (f 32 16)
    (Rules.Meets 7 false p s t → ∀ c, getN t.comms k = some c → collBad t p.v = false →
      let u := Rules.started p false t
      let orig := f 16 1 = 1
      let q : Coll := { seq := c.seq, queue := p.q, pos := t.nextId, addr := p.addr, orig := orig, rop := f 24 4, wtype := f 48 5,
                        nvisit := f 56 4, count := f 64 22, stype := f 120 5, src := f 128 64, dst := f 192 64, recAddr := f 256 64,
                        digest := digestOf (f 64 22) (f 24 4) (f 48 5), first := ¬ orig }
      let h : Hoist := { tenant := p.tenant, satcnt := 0, count := q.count, digest := q.digest, seq := q.seq, comm := c.id, tc := f 17 2,
                         wtype := BitVec.ofNat 5 q.wtype, origin := t.regs.nodeId, pens := [], payload := [] }
      let builds := orig ∧ c.failed = false
      Rules.turns .coll s { u with
        nextId := t.nextId + (if builds then 2 else 1)
        comms := putN t.comms k { c with
          seq := (c.seq + 1) % 2 ^ 32
          colls := c.colls ++ [q]
          copies := if builds then c.copies ++ [{ id := t.nextId + 1, orig := true, x := [], st := .origin (f 96 24), h := h, step := (p.q, p.addr) }]
            else c.copies } }) ∧
    (Rules.Meets 8 false p s t → f 16 1 = 0 → 1 ≤ f 48 5 → f 48 5 ≤ 16 → f 64 64 % 65536 = 0 → f 128 64 % 64 = 0 → f 192 24 ≠ 0 →
      t.comms.length < 256 → getN t.comms k = none → packetHere t (f 64 64) = true → packetHere t (f 128 64) = true →
      ∀ u v, pagesBad p.tenant .write true (pagesOf (f 64 64) (f 48 5 * 131072)) t = (none, u) →
      pagesBad p.tenant .read false (pagesOf (f 128 64) (64 * f 192 24)) u = (none, v) →
      let c : Comm := { tenant := p.tenant, id := f 32 16, nroute := f 48 5, stage := f 64 64, rt := f 128 64, rtlen := f 192 24 }
      Rules.turns .commCreate s (Rules.started p true { v with comms := putN v.comms k c })) ∧
    (Rules.Meets 8 false p s t → f 16 1 = 1 → ∀ c, getN t.comms k = some c → c.destroy = none →
      Rules.turns .commDestroy s ((failComm k (Rules.started p false t)).updComm k fun c => { c with destroy := some (p.q, t.nextId) })) ∧
    (Rules.Meets 9 false p s t →
      let n := f 32 32
      n % 4 = 0 → n ≠ 0 → n ≤ 65536 → f 64 64 % 128 = 0 → f 128 32 % 4 = 0 → f 128 32 < n → packetHere t (f 64 64) = true →
      ∀ c bs u, t.fabric.ctxs.findIdx? (fun c => !c.busy) = some c → readSpan p.tenant (f 64 64) n t = (.ok bs, u) →
      let regs : ZMap 64 := setZ (setZ (setZ (setZ [] 0 (w64 c)) 1 (w64 (f 192 64))) 2 (w64 (f 256 64))) 3 (w64 (f 320 64))
      let x : ScriptCtx := { busy := true, proc := { pc := f 128 32, sregs := regs, readyAt := u.fabric.clock }, tenant := p.tenant,
                             queue := p.q, pos := u.nextId }
      let mem := writeBytes (u.fabric.mem.filter fun x => x.1 / 65536 ≠ c) (65536 * c) bs
      Rules.turns .circ s { Rules.started p false u with
        fabric := { u.fabric with mem, ctxs := setAt u.fabric.ctxs c x }
        errs := u.errs.filter fun y => !(match y with | .script g => g / 8192 = c | _ => false) })

/-! ## The host -/

namespace Sys2Proof.Rules

/-- A restore that has been asked for begins (R66): its blocks load, and its queues come back. -/
def restoreBegins (s : State) : State :=
  match s.job with
  | some j =>
    if j.restore = true then
      let load (b : Block) : Block :=
        if restoring s b then { b with shares := b.shares.map fun sh => { sh with loading := true } } else b
      let t : State := { s with blocks := s.blocks.map fun y => (y.1, load y.2) }
      endRestore ((savedClusters t j).foldl (fun s q => restoreQueue q s) t)
    else s
  | none => s

end Sys2Proof.Rules

/-- R39, R40, R362, R363, R365, R385, R387, R416, R417: writes of a doorbell, of QCTL, of FQCTL, of other registers and of the Page
Request allocation; a refusal of demands, its taking by a die, and the posting of a held record. A doorbell that would move WRITE backwards
leaves it and halts the queue (R363: how far backwards reaches is the model's reading, assumption 43); where the Page Request allocation
stands is the model's choice (assumption 30). -/
def Obligations.HostRegisters : Prop :=
  ∀ (s : State),
    let q := s.input.unit
    let v := s.input.word
    let x := s.queue q
    let h := s.regs
    let goes (i : Instr) (t : State) : Prop := exec i s = .next t
    (let new := v.toNat % 2 ^ 32
      let u := s.updQueue q fun x => { x with write := new }
      q < 64 → x.enabled = true → (new + 2 ^ 32 - x.write) % 2 ^ 32 ≤ 2 ^ 31 →
      if (new + 2 ^ 32 - x.read % 2 ^ 32) % 2 ^ 32 ≤ x.size then goes .doorbell u else goes .doorbell (haltQueue q 0x01 0 0 u)) ∧
    (q < 64 → x.enabled = true → 2 ^ 31 < (v.toNat % 2 ^ 32 + 2 ^ 32 - x.write) % 2 ^ 32 → goes .doorbell (haltQueue q 0x01 0 0 s)) ∧
    (q < 64 → v.getLsbD 0 = true → h.booted = true → h.bootStat = 0 → x.enabled = false →
      let u := s.updQueue q fun x => { x with ctl := (v &&& 0xf00f0) ||| 1, write := 0, read := 0, waiting := false, fence := none }
      if fld v 7 4 < 4 then goes .queueEnable (haltQueue q 0x01 0 0 u) else goes .queueEnable u) ∧
    (q < 64 → v.getLsbD 0 = false → goes .queueEnable (s.updQueue q fun x => { x with
      ctl := (v &&& 0xf00f0) ||| (x.ctl &&& 2)
      waiting := false
      fence := none })) ∧
    (q < 64 → v.getLsbD 0 = true → h.booted = true → h.bootStat = 0 → x.enabled = true →
      goes .queueEnable (s.updQueue q fun x => { x with ctl := ((v &&& 0xf00f0) ||| 1) ||| (x.ctl &&& 2) })) ∧
    (let h' : HostRegs := { h with fqCtl := v &&& (if h.booted = true ∧ h.bootStat = 0 then 0x3f00f1 else 0x3f00f0) }
      if h'.fqCtl.getLsbD 0 = true ∧ h.fqCtl.getLsbD 0 = false then
        goes .faultQueueEnable { s with regs := { h' with fqWrite := 0, fqRead := 0, fqSeq := 0 } }
      else goes .faultQueueEnable { s with regs := h' }) ∧
    (q ≠ 1 → h.dead = false → s.input.flag = false →
      (s.input.idx = 0x3010 → v.getLsbD 0 = false → s.input.aux = 1 →
        goes .registerWrite (Rules.restoreBegins { s with regs := { h with thermStat := 0 } })) ∧
      (s.input.idx = 0x2000 → (∀ d y, (d, y) ∈ s.stations → y.enabled = false) →
        goes .registerWrite { s with regs := { h with nodeId := fld v 9 0 } }) ∧
      (s.input.idx = 0x2400 → goes .registerWrite { s with regs := { h with winBase := fld v 36 28 * 2 ^ 28 } }) ∧
      (s.input.idx = 0x3000 → goes .registerWrite { s with regs := { h with pwrCap := max 1000 (min 3000 (fld v 11 0)) } }) ∧
      (s.input.idx = 0x4118 → goes .registerWrite { s with regs := { h with fqRead := v &&& 0xffffffff } }) ∧
      (s.input.idx = 0x4120 → goes .registerWrite { s with regs := { h with fqDrop := 0 } }) ∧
      (s.input.idx = 0x4140 → goes .registerWrite { s with regs := { h with ceCnt := 0 } }) ∧
      (s.input.idx = 0x4148 → goes .registerWrite { s with regs := { h with ueCnt := 0 } }) ∧
      (s.input.idx % 8 = 0 → s.input.idx ≠ 0x3010 → goes .registerWrite (writeReg s.input.idx v s))) ∧
    (q = 1 →
      let n := v.toNat % 2 ^ 32 - s.pri.length
      goes .registerWrite { s with
        regs := { h with priAlloc := v.toNat % 2 ^ 32 }
        pri := (s.priLate.take n).foldl (fun t p => insertNat p t) s.pri
        priLate := s.priLate.drop n }) ∧
    (refusing s = false →
      let u : State := { s with regs := { h with drefCtl := v &&& 0xff0f } }
      let c := fld v 15 8
      let cause := if c = 0x05 ∨ c = 0x0d then c else 0x07
      if v.getLsbD 16 = true then
        goes .demandRefuse ((List.range 4).foldl (fun t d => t.updDie d fun x => { x with refusal := some cause }) u)
      else goes .demandRefuse u) ∧
    (∀ cause, (s.die q).refusal = some cause →
      let t := fld h.drefCtl 3 0
      let va := fld h.drefAddr 63 16 * 65536
      let page := pageOf va
      let u := s.updDie q fun x => { x with refusal := none }
      let bad (a : Access) (r : Req) : Bool := r.tr.waits && onPage q t page a r
      let there (w : WalkReq) : Bool := w.tenant = t && w.vpage = page && w.wait.isSome
      ((nodeOf va ≠ h.nodeId ∨ bitAt va 63 = true) → goes .dieTakesRefusal u) ∧
      (nodeOf va = h.nodeId → bitAt va 63 = false →
        let mine (r : FaultRec) : Bool := r.tenant = t && pageOf r.addr.toNat = page
        let late := s.priWait.filter fun w => mine w.2
        let asked := (s.accs.flatMap fun x => (x.2.reqs.filter (bad x.2)).filterMap fun r =>
          match r.tr with | .pri p => some p | _ => none) ++ late.map Prod.fst
        let w : State := { u with
          demandHeld := s.demandHeld.filter fun r => !mine r
          pri := s.pri.filter fun p => !asked.contains p
          priLate := s.priLate.filter fun p => !asked.contains p
          priWait := s.priWait.filter fun w => !late.contains w }
        let entry (k : Nat) (g : Group) (e : Store) : Bool := e.tr.waits && dieOf (coreOf k) = q && g.tenant = t && pageOf e.va = page
        let w := if (u.die q).walks.any there then dropWalk q t page w else w
        let w := admitWalks q (refuseOpen cause bad entry (refuseSaved cause bad (refuseParked cause bad w)))
        goes .dieTakesRefusal (admitPri ((((u.die q).walks.filter there).flatMap (·.agents) ++ late.map Prod.snd).foldl (refuseAgent cause) w)))) ∧
    (∀ r rs, s.demandHeld = r :: rs → h.fqBlocked = false →
      let place := 2 ^ 64 + fld h.fqBase 63 12 * 4096 + 64 * (h.fqSeq % 2 ^ fld h.fqCtl 7 4)
      goes .demandRecordPost { s with
        mem := writeBytes s.mem place (r.bytes h.nodeId (h.fqSeq + 1))
        regs := { h with fqSeq := h.fqSeq + 1, fqWrite := w64 ((h.fqWrite.toNat + 1) % 2 ^ 32) }
        msix := s.msix ++ [fld h.fqCtl 21 16]
        demandHeld := rs })

/-- R366 to R369: reset by power and the verifying of the three images, the attestation unit, the power window, and the thermal limits.
The key, its hash, the rollback counter and the salt are free values (assumption 7). What else a reset keeps and how often the device throttles
are the model's choices (assumptions 43, 45, 46). -/
def Obligations.PowerAndBoot : Prop :=
  ∀ (s : State),
    let v := s.input.word
    let h := s.regs
    let goes (i : Instr) (t : State) : Prop := exec i s = .next t
    let fresh : State := { State.reset with
      mem := s.mem.filter fun x => 2 ^ 64 ≤ x.1
      flash := s.input.boot
      msix := s.msix
      net := s.net
      schedule := s.schedule
      turn := s.turn
      input := s.input
      nextId := s.nextId
      freeCtr := s.freeCtr }
    let verifies (x : FlashImage) : Bool :=
      sha256 x.key = Config.keyHash && sha256 x.body = x.digest && decide (Config.rollback ≤ x.version) &&
        pssVerify (ofBig (x.key.take 384)) (ofBig (x.key.drop 384)) (x.digest ++ toBytes 8 x.version.toNat) x.signature
    (∀ a b c, s.input.boot = [a, b, c] → goes .powerOnReset { fresh with
      regs := if verifies a && verifies b && verifies c then
          { fresh.regs with booted := true, bootStat := 0, digests := [a.digest, b.digest, c.digest] }
        else { fresh.regs with booted := true, bootStat := if !verifies a then 1 else if !verifies b then 2 else 3 } }) ∧
    (v.getLsbD 0 = true → h.repBusy = false → h.dead = false →
      goes .attestationGo { s with regs := { h with repBusy := true, repDone := false } }) ∧
    (h.repBusy = true →
      let salt := (List.range 32).map fun i => Config.salt s.freeCtr i
      let signature := pssSign Config.deviceModulus Config.deviceExponent (reportBody h) salt
      let t := performBytes (hostAt h.repAddr.toNat) (reportBody h ++ signature) none true s
      goes .attestationReportDone { t with freeCtr := s.freeCtr + 1, regs := { h with repBusy := false, repDone := true } }) ∧
    (let limit := h.pwrCap < s.input.aux ∨ s.input.flag = true
      let depth := if limit then max 1 (min 15 s.input.idx) else min h.depth s.input.idx
      goes .powerWindowEnd { s with regs := { h with pwrStat := w64 (s.input.aux % 4096 + depth % 16 * 65536) } }) ∧
    (goes .junctionThrottle { s with regs := { h with
      pwrStat := w64 (fld h.pwrStat 11 0 % 4096 + max 1 (min 15 s.input.idx) % 16 * 65536) } }) ∧
    goes .thermalStop { s with regs := { h with thermStat := 1 } } ∧
    (v.getLsbD 0 = false → s.input.flag = true → 
      goes .thermalResume (Rules.restoreBegins { s with regs := { h with thermStat := 0 } }))

/-- R108, R306, R361, R365: the host reads near memory through its window, or writes it, or waits for a line that is held; it answers a translation request or a page request, and
invalidates a translation, which is acknowledged when no access uses it. How accesses of the host wait in one order, and that page requests
wait for the allocation, are the model's choices (assumption 43). -/
def Obligations.HostMemory : Prop :=
  ∀ (s : State),
    let page := s.input.idx
    let goes (i : Instr) (t : State) : Prop := exec i s = .next t
    (∀ off n, s.input.host = .read off n → s.input.flag = false → s.hostWait = [] → s.regs.dead = false → off + n ≤ 2 ^ 28 → n ≠ 0 →
      let pa := s.regs.winBase + off
      nearPA pa = true → nearPA (pa + n - 1) = true → (∀ i, pa / 128 ≤ i → i ≤ (pa + n - 1) / 128 → l2Free s i = true) →
      goes .hostBar4Access { s with net := s.net ++ [.hostData (readBytes s.mem pa n)] }) ∧
    (∀ off bs, s.input.host = .write off bs → s.input.flag = false → s.hostWait = [] → s.regs.dead = false →
      off + bs.length ≤ 2 ^ 28 → bs ≠ [] →
      let pa := s.regs.winBase + off
      nearPA pa = true → nearPA (pa + bs.length - 1) = true →
      (∀ i, pa / 128 ≤ i → i ≤ (pa + bs.length - 1) / 128 → l2Free s i = true) →
      goes .hostBar4Access (windowWrite (bs.length / 128 + 2) pa bs s)) ∧
    (s.input.flag = false → s.hostWait ≠ [] → goes .hostBar4Access { s with hostWait := s.hostWait ++ [s.input.host] }) ∧
    (s.input.flag = false → s.hostWait = [] → windowServe s.input.host s = none → goes .hostBar4Access { s with hostWait := [s.input.host] }) ∧
    (∀ x xs t, s.input.flag = true → s.hostWait = x :: xs → windowServe x { s with hostWait := xs } = some t → goes .hostBar4Access t) ∧
    (page ∈ s.atsAsk →
      let u : State := { s with atsAsk := s.atsAsk.filter (· ≠ page) }
      let settled (t : State) : State := (List.range 4).foldl (fun s d => settleDie d s) t
      (∀ p, s.input.ats = .found p → goes .atsCompletion (settled (answerAts page (fun x => .found { x with hostPage := some p })
        { u with ats := ((page, p) :: s.ats.filter fun e => e.1 ≠ page).take 1024 }))) ∧
      (s.input.ats = .denied → goes .atsCompletion (settled (answerAts page (fun _ => .pri page)
        (admitPri { u with priLate := s.priLate ++ [page] }))))) ∧
    (page ∈ s.pri →
      let on (_ : Access) (r : Req) : Bool := r.tr = .pri page
      let u := admitPri { s with pri := s.pri.filter (· ≠ page), priWait := s.priWait.filter fun w => w.1 ≠ page }
      (s.input.flag = true → goes .priResponse (askOpen (fun t => t = .pri page)
        (((s.accs.map Prod.snd).filter fun a => a.parked && a.reqs.any (on a)).foldl (fun s a => replay a.id s) u))) ∧
      (s.input.flag = false → goes .priResponse (((s.priWait.filter fun w => w.1 = page).map Prod.snd).foldl (refuseAgent 0x07)
        (refuseOpen 0x07 on (fun _ _ e => e.tr = .pri page) (refuseSaved 0x07 on (refuseParked 0x07 on u)))))) ∧
    (s.input.flag = false → s.atsInv.length < 32 → goes .atsInvalidation { s with
      ats := s.ats.filter fun e => e.1 ≠ page
      atsInv := s.atsInv ++ [(s.ats.find? fun e => e.1 = page).getD (page, 2 ^ 64)] }) ∧
    (s.input.flag = true → ∀ e, s.atsInv.find? (fun e => e.1 = page) = some e → hostPageUsed s e.2 = false →
      goes .atsInvalidation { s with atsInv := s.atsInv.erase e, net := s.net ++ [.atsDone page] })

/-! ## Launches and pre-emption -/

namespace Sys2Proof.Rules

/-- A launch whose next block may be placed now (R54, R55, R61). -/
def placeable (id : Nat) (l : Launch) (s : State) : Prop :=
  getN s.launches id = some l ∧ l.next < l.total ∧ l.ticket = none ∧ stopped s l.tenant = false ∧
    ∀ j m, (j, m) ∈ s.launches → j < id → m.tenant = l.tenant → m.next < m.total → m.ticket = none → arrange s j m = none

/-- The next block of a launch stands on an arrangement (R37, R51, R52). -/
def placed (id : Nat) (l : Launch) (a : Arrangement) (s : State) : State :=
  let gs := placedGroups s l s.nextId a
  let b : Block := { launch := id, index := l.next, tenant := l.tenant, cluster := clusterOf ((a.headD (0, [], [])).1), n := l.n,
                     live := gs.map Prod.fst, shares := a.map fun x => { core := x.1, low := lowestOf x.2.2, slots := x.2.2 } }
  { s with
    nextId := s.nextId + 1
    groups := gs.foldl (fun m x => putN m x.1 x.2) s.groups
    blocks := putN s.blocks s.nextId b
    launches := putN s.launches id { l with next := l.next + 1, ticket := none } }

end Sys2Proof.Rules

/-- R23, R37, R43, R54 to R56, R365, R392 to R394: a block is placed where it fits; a gang's block that does not takes a ticket; a reservation
whose target is free places its block, and one whose target is another tenant's is passed on; a block with no group left is complete; bundles are
regrouped every fourth clock; a block that has been stalled for 65536 clocks is reported. Which bundles stay apart, how a reservation's target is
chosen, and the lane mask and clock of a stall record are the model's choices (assumptions 18, 19, 20). So is the order of launches (assumption
40). -/
def Obligations.LaunchEvents : Prop :=
  ∀ (s : State),
    let id := s.input.idx
    let goes (i : Instr) (t : State) : Prop := exec i s = .next t
    (∀ l, Rules.placeable id l s → ∀ a, arrange s id l = some a → goes .blockPlace (Rules.placed id l a s)) ∧
    (∀ l, Rules.placeable id l s → arrange s id l = none → l.gang = false → goes .blockPlace s) ∧
    (∀ l, Rules.placeable id l s → arrange s id l = none → l.gang = true →
      let u : State := { s with nextId := s.nextId + 1, launches := putN s.launches id { l with ticket := some s.nextId } }
      goes .blockPlace (if (getN s.reserves l.tenant).isSome then u else passReserve l.tenant u)) ∧
    (∀ r l, getN s.reserves s.input.unit = some r → getN s.launches r.launch = some l →
      (∃ c ∈ r.cores, clusterTenant s (clusterOf c) ≠ some s.input.unit) → goes .gangClaim (passReserve s.input.unit s)) ∧
    (∀ r l a, getN s.reserves s.input.unit = some r → getN s.launches r.launch = some l → stopped s s.input.unit = false →
      (∀ c ∈ r.cores, clusterTenant s (clusterOf c) = some s.input.unit) →
      claimsMet s r.launch l r.cores 0 r.cores.length = some a →
      goes .gangClaim (passReserve s.input.unit (Rules.placed r.launch l a s))) ∧
    (∀ b l, getN s.blocks id = some b → b.image = none → b.live = [] → scratchLeft s id = false →
      let e (slot : Nat) : Store := { id := 0, slot, tenant := b.tenant, rel := some 6, mark := some (.drained b.launch), fate := true }
      let t := sweep s
      let left := leftOf t id
      let u := left.foldl (fun s x => s.updGroup x.1 fun g => { g with storeQ := g.storeQ ++ [e (slotOf x.1)] })
        (b.shares.foldl (fun s sh => commitEntry sh.core id (e 128) s) t)
      getN u.launches b.launch = some l →
      goes .blockComplete { u with
        blocks := delN u.blocks id
        launches := putN u.launches b.launch { l with done := l.done + 1, pending := l.pending + b.shares.length + left.length } }) ∧
    (let core := s.input.unit
      let now := (s.core core).cycle
      goes .regroup (if now % 4 = 0 then
        { s with groups := s.groups.map fun x =>
            (x.1, if x.1 / 128 = core ∧ x.1 % 8 = s.input.idx then x.2.regroup now (s.core core) else x.2) }
      else s)) ∧
    (∀ b t, getN s.blocks id = some b →
      let core := (b.shares.headD { core := 128, low := 0, slots := [] }).core
      b.stall.since = some t → b.stall.reported = false → blockStalled s id b = true → t + 65536 ≤ (s.core core).cycle →
      goes .blockStall (postRec (stallRec s b core)
        { s with blocks := putN s.blocks id { b with stall := { b.stall with reported := true, seen := parkedNow s b } } }))

/-- R61 to R66, R364, R401: a save is asked for by the host or by the end of a time slice, one that comes during a save is merged into it
and one that comes during a restore starts after it (the model's choice, assumption 21); a block that is quiet is sealed; the save ends when
every block is and every command rests; a restore loads the images of an area, and places a block where what it held is free, or drops one whose
image is in error. Where the parts of an image stand and which queues a save takes are the model's choices (assumptions 22, 42). -/
def Obligations.Preemption : Prop :=
  ∀ (s : State),
    let w := s.input.word
    let x := s.input
    let h := s.regs
    let goes (i : Instr) (t : State) : Prop := exec i s = .next t
    let busy (r : W64) : W64 := (r &&& ~~~32) ||| 32
    let names := if w.getLsbD 4 = true then List.range 16 else [fld w 3 0]
    (w.getLsbD 6 = false → x.aux = 0 → s.job = none → goes .preemptSave { s with
      job := some { restore := false, tenants := names, area := fld w 63 16 * 65536 }
      regs := { h with preempt := busy (w &&& 0xffffffffffff005f) } }) ∧
    (w.getLsbD 6 = false → x.aux = 0 → ∀ j, s.job = some j →
      (j.restore = false → goes .preemptSave { s with job := some { j with tenants := sortNat (j.tenants ++ names) } }) ∧
      (j.restore = true → j.next = none →
        goes .preemptSave { s with job := some { j with next := some (names, fld w 63 16 * 65536, w) } })) ∧
    (x.unit < 16 → s.job = none →
      let v := (w &&& 0xffffffffffff0000) ||| w64 x.unit
      goes .timeSliceExpiry { s with
        job := some { restore := false, tenants := if v.getLsbD 4 = true then List.range 16 else [fld v 3 0], area := fld v 63 16 * 65536 }
        regs := { h with preempt := busy (v &&& 0xffffffffffff005f) } }) ∧
    (x.aux = 1 → ∀ j b, s.job = some j → getN s.blocks x.idx = some b → j.restore = false → b.tenant ∈ j.tenants → b.image = none →
      canSeal s x.idx b = true → goes .preemptSave (sealBlock x.idx b j s)) ∧
    (2 ≤ x.aux → ∀ j, s.job = some j → j.restore = false → (∀ k b, (k, b) ∈ s.blocks → b.tenant ∈ j.tenants → b.image.isSome = true) →
      (∀ k o, (k, o) ∈ s.ops → o.tenant ∈ j.tenants → opQuiet s o = true) →
      let t := (savedClusters s j).foldl (fun s q => s.updKcq q fun x => { x with saved := true }) s
      goes .preemptSave { t with
        job := none
        saved := sortNat (s.saved ++ j.tenants)
        regs := { h with preempt := h.preempt &&& ~~~32 } }) ∧
    (w.getLsbD 6 = true → s.job = none →
      let j : Preempt := { restore := true, tenants := preemptTenants w, area := fld w 63 16 * 65536 }
      let u : State := { s with job := some j, regs := { h with preempt := busy (w &&& 0xffffffffffff005f) } }
      goes .preemptRestore (if h.thermStat.getLsbD 0 = true then u else Rules.restoreBegins u)) ∧
    (∀ b img, getN s.blocks x.idx = some b → b.image = some img → restoring s b = true →
      (imageError s b = none → placesFree s b img = true → goes .restoreBlockPlace (restoreBlock x.idx b img s)) ∧
      (∀ a, imageError s b = some a →
        let t := postRec { cause := 0x0d, src := 3, addr := w64 a, tenant := b.tenant } (countError 0x0d s)
        goes .restoreBlockPlace (endRestore { t with blocks := delN t.blocks x.idx, ops := t.ops.filter fun y => y.2.blk ≠ x.idx })))

/-! ## Memory events -/

namespace Sys2Proof.Rules

/-- An access that the event may perform: settled, released, after the watches issued before it, and some requests of the line are
ready (R74, R116, R255). -/
structure Performs (id key : Nat) (a : Access) (rs : List Req) (s t : State) : Prop where
  settled : settleAccess id s = t
  here : getN t.accs id = some a
  awake : a.parked = false
  released : a.released = true
  watched : stampwOpen t a.core a.slot a.tenant a.id = false
  ready : readyReqs a key = rs

/-- The requests of an access whose granules are in error, and those whose lanes have none (R390, R415). -/
def sound (t : State) (a : Access) (rs : List Req) : List Req × List Req :=
  let bad := rs.filter (reqBad t a)
  (bad, rs.filter fun r => !(bad.any fun b => b.lane = r.lane))

/-- A line is in the core's L1, for an access that does not act at the slice, or is ready in its slice (R74, R255, R305, R306). -/
def lineReady (t : State) (a : Access) (pline : Nat) : Prop :=
  (((t.core a.core).line pline).isSome = true ∧ a.kind.atSlice = false) ∨ l2Ready t pline = true

/-- What a commit of a head waits for, but for its place in the queue (R74, R92, R101, R254, R255). -/
structure Commits (core slot : Nat) (g : Group) (e : Store) (s : State) : Prop where
  decided : e.fate = true
  forks : ∀ o ∈ e.forks, getN s.ops o = none
  turn : (s.core core).lastCommit ≠ some (s.core core).cycle
  older : olderLoads s core slot e.order = []
  watched : stampwOpen s core slot g.tenant e.order = false
  behind : ∀ l, e.loc s g.block = some l → aheadAt s core l = false
  sound : e.mark = none → badStoreLanes s core g.block (g.storeQ.filter fun f => f.id = e.id && f.mark.isNone) = []
  kept : lostEntry s g.block e = false

/-- Bytes of a line are performed: on an HC page the other cores' copies go, memory takes the bytes, granules written whole are good
again, armed monitors of the line trigger, and walks that wait on it start anew (R76, R95, R99, R117, R189, R390). -/
def written (pline : Nat) (bs : List (Option Byte)) (core : Nat) (hc : Bool) (s : State) : State :=
  let t := if hc then dropCopies pline (some core) s else s
  { t with
    mem := writeMasked t.mem (128 * pline) bs
    ecc := clearEcc t.ecc (128 * pline) bs
    groups := wakeMonitors pline t.groups
    dies := restartWalks pline t.dies }

/-- What a marker of the commit order does (R43, R75, R97, R101, R103, R105, R186, R193, R273): it releases an access, readies an
operation (a spawn's parent counts from here), lets lanes arrive at a barrier, reaches instruction buffers, counts a block's writes as
done, or lets a ring element's tail advance. -/
def marked (core : Nat) (e : Store) (m : Mark) (u v : State) : Prop :=
  match m with
  | .access id => ∀ a, getN u.accs id = some a →
      v = pumpFences a.core a.slot { u with accs := putN u.accs a.id { a with released := true } }
  | .fork id => ∀ o, getN u.ops id = some o → o.id = id →
      let ready (t : State) : State := { t with ops := putN t.ops id { o with ready := true } }
      (∀ q r w, o.kind = .push q r w → v = ready (parentAdd r.parent (· + 1) u)) ∧
      (∀ ts c, o.kind = .mat ts c → v = pumpMatrix (clusterOf o.core) (ready u)) ∧
      (∀ c i opt val w, o.kind = .ctr c i opt val w →
        v = releaseHold (gkey o.core o.slot) id (applyCtr o.blk c i opt val w (dropOp id (ready u)))) ∧
      ((∃ c, o.kind = .copy c) ∨ (∃ f, o.kind = .fill f) ∨ (∃ y, o.kind = .xfer y) ∨ (∃ va w low, o.kind = .msg va w low) ∨
        (∃ q un w, o.kind = .khold q un w) → v = ready u)
  | .barrier b lanes => ∀ g, u.group (gkey core e.slot) = some g → v = arrive g.block b lanes u
  | .icinv lo hi scope op => v = releaseHold (gkey core e.slot) op (invalidateIbuf u core e.tenant lo hi scope)
  | .drained l => ∀ y, getN u.launches l = some y → v = { u with launches := putN u.launches l { y with pending := y.pending - 1 } }
  | .pushed b q elem => v = wakeStreams b (u.updBlock b (releaseElem q elem))

end Sys2Proof.Rules

/-- R74, R75, R88, R95 to R97, R235, R240, R243, R250, R255: the head of a store queue commits, in order and one in a clock, or makes room in
a full combining buffer first; an entry of the commit order is performed at L2 when R97 lets it: a marker does what it stands for, a
scratchpad store writes its bytes, a store with a wide release to a peer joins the station's queue, any other writes its line but for granules
in error that it covers in part; a load of a line returns to its lanes, L1 or L2 with the group's own queued stores over it; an atomic reads,
changes and writes each element at its slice, after lower lanes' accesses to the element. That granules in error stay behind, that SC copies of
a core are kept consistent and the order of held lines are the model's choices (assumptions 11 and 27). -/
def Obligations.StoresAndLoads : Prop :=
  ∀ (s : State),
    let x := s.input
    let core := x.unit
    let goes (i : Instr) (t : State) : Prop := exec i s = .next t
    (∀ g e rest, s.group (gkey core x.idx) = some g → g.storeQ = e :: rest → Rules.Commits core x.idx g e s →
      let k := gkey core x.idx
      let u := (s.setGroup k { g with storeQ := rest }).updCore core fun c => { c with lastCommit := some c.cycle }
      if combShut s core g.block e = true then goes .storeCommit (retireGroup k (wakeSpills k (combYield g.block e s)))
      else goes .storeCommit (retireGroup k (wakeSpills k (commitEntry core g.block e (evictL1 core x.victim u))))) ∧
    (∀ e, x.flag = false → (s.core core).commitQ[x.idx]? = some e → mayPerform s core ((s.core core).commitQ.take x.idx) e = true →
      let u := s.updCore core fun c => { c with commitQ := c.commitQ.eraseIdx x.idx }
      let bs := withoutGranules e.bytes fun n => (badGranules u e.pline e.bytes).contains (16 * e.pline + n)
      let good := badGranules u e.pline e.bytes = []
      (∀ m, e.mark = some m → ∃ v, goes .l2Write v ∧ Rules.marked core e m u v) ∧
      (∀ c line, e.mark = none → e.dest = .scratch c line → goes .l2Write (writeScratch e.blk c (128 * line) e.bytes u)) ∧
      (∀ line, e.mark = none → e.dest = .virt line → e.tr = .remote →
        let d := stationOf (128 * line)
        let p : Packet := { id := s.nextId, node := nodeOf (128 * line), tc := 1, count := maskCount e.bytes, podasid := podasid s e.tenant,
                            tenant := e.tenant, kind := some (.write (w64 (128 * line)) e.bytes), cargo := .store core e,
                            seq := if e.seq = 0 then s.nextId else e.seq, doom := refusedAt s d (nodeOf (128 * line)) }
        goes .l2Write ({ u with nextId := s.nextId + 1 }.updStation d fun y => { y with pkts := y.pkts ++ [p] })) ∧
      (∀ line y, e.mark = none → e.dest = .virt line → e.tr = .found y → good → (∃ b ∈ e.bytes, b.isSome = true) →
        goes .l2Write (Rules.written e.pline e.bytes core (y.mode = 0) (useL2 e.pline e.nt u))) ∧
      (e.mark = none → e.dest = .none → good → (∃ b ∈ e.bytes, b.isSome = true) →
        goes .l2Write (touchL2 e.pline (Rules.written e.pline e.bytes core false u))) ∧
      (∀ line y, e.mark = none → e.dest = .virt line → e.tr = .found y → e.writeBack = false → ∀ g gs,
        badGranules u e.pline e.bytes = g :: gs → (∃ b ∈ bs, b.isSome = true) →
        let va := (e.parts.headD { lane := 0, pos := 0, va := 0, bytes := [] }).va
        let t := wbFault core { slot := e.slot, tenant := e.tenant, lanes := e.lanes, pc := e.pc } (va - va % 128 + 8 * (g % 16)) u
        goes .l2Write (Rules.written e.pline bs core (y.mode = 0) (useL2 e.pline e.nt t)))) ∧
    (∀ o, x.flag = true → getN s.ops x.idx = some o → o.ready = true →
      (∀ c i opt v w, o.kind = .ctr c i opt v w →
        goes .l2Write (releaseHold (gkey o.core o.slot) x.idx (applyCtr o.blk c i opt v w (dropOp x.idx s)))) ∧
      (∀ q n w, o.kind = .kdone q n w → goes .l2Write (applyDone q n w (dropOp x.idx s)))) ∧
    (∀ a r rs t, Rules.Performs x.idx x.aux a (r :: rs) s t →
      let got := r :: rs
      (r.tr = .scratch → a.kind = .load ∨ (∃ b, a.kind = .pref b) ∨ (∃ w v b, a.kind = .stampw w v b) →
        let loc := scratchLoc t (accBlock t a) r.core (r.va / 128)
        orderFree t a loc = true → scratchBusy t a.core (accBlock t a) r.core (r.va / 128) = false → commitBusy t a.core loc = false →
        let bs := scratchSeen t a r.core (r.va / 128)
        let p := Rules.sound t a got
        goes .loadReturn (finishIfDone a.id (failLanes a p.1 (noteAhead a loc
          (gotReqs a.id p.2 (fun q => partOf bs q.va q.size) t))))) ∧
      (∀ y, r.tr = .found y →
        let pline := y.pa (128 * x.aux) / 128
        loadFree t a pline = true → Rules.lineReady t a pline →
        let v := evictL1 a.core (if x.victim = some pline then none else x.victim) t
        let u := if ((v.core a.core).line pline).isSome then v else useL2 pline a.nt v
        let p := Rules.sound u a got
        (a.kind = .load →
          let bs := lineSeen u a pline
          goes .loadReturn (finishIfDone a.id (failLanes a p.1 (noteAhead a pline (allocL1 a y pline
            (gotReqs a.id p.2 (fun q => partOf bs q.va q.size) u)))))) ∧
        (∀ l1, a.kind = .pref l1 → (∀ g ∈ u.ecc, g / 16 ≠ pline) →
          goes .loadReturn (finishIfDone a.id (removeReqs a.id got (if l1 then allocL1 a y pline u else u)))) ∧
        (∀ l1 g, a.kind = .pref l1 → g ∈ u.ecc → g / 16 = pline →
          goes .loadReturn (finishIfDone a.id (removeReqs a.id got (countError 0x0d u)))) ∧
        (∀ want v b, a.kind = .stampw want v b → p.1 = [] →
          let l2 := applyBytes (applyBytes (readBytes u.mem (128 * pline) 128) (stashDirty u a.core pline)) (l1Dirty u a.core pline)
          let old := partOf l2 r.va r.size
          goes .loadReturn (if old < want.toNat then u else finishIfDone a.id (removeReqs a.id [r] (deliver a r old u)))) ∧
        (∀ want v b, a.kind = .stampw want v b → p.1 ≠ [] → goes .loadReturn (finishIfDone a.id (failLanes a p.1 u)))) ∧
      (∀ r1 rs1, inLaneOrder a got = r1 :: rs1 → a.kind = .cas ∨ (∃ op, a.kind = .atom op) → ownStores t a = [] →
          olderLoads t a.core a.slot a.id = [] →
        let bad := badLanes t a (r1 :: rs1)
        let good := (r1 :: rs1).filter fun q => !(bad.any fun b => b.lane = q.lane)
        (r1.tr = .scratch →
          let blk := accBlock t a
          let loc := scratchLoc t blk r1.core (r1.va / 128)
          scratchBusy t a.core blk r1.core (r1.va / 128) = false → commitBusy t a.core loc = false → aheadAt t a.core loc = false →
          combShut t a.core blk { id := x.idx, tenant := a.tenant, dest := .scratch r1.core (r1.va / 128) } = false →
          goes .atomicPerform (finishIfDone x.idx (failLanes a bad (good.foldl (atomScratch a blk) t)))) ∧
        (∀ y, r1.tr = .found y →
          let pline := y.pa (128 * x.aux) / 128
          commitBusy t a.core pline = false → aheadAt t a.core pline = false → l2Ready t pline = true →
          let u := useL2 pline a.nt (flushLine a.core a.tenant pline (128 * x.aux) t)
          goes .atomicPerform (finishIfDone x.idx (failLanes a bad (good.foldl (atomGlobal a y) u))))))

/-- R71, R88, R113 to R117, R122, R303 to R307: a walk whose lines no handler holds ends, in a fault, in a wait or with a leaf; a miss starts
a fill, and the data of a fill install the line or wait for a handler; a prefetch asks for a line; a combining-buffer line leaves after 256
clocks. Which line leaves a full slice, and what a request does whose slice takes no line, are the model's choices (assumption 26). -/
def Obligations.LinesAndWalks : Prop :=
  ∀ (s : State),
    let x := s.input
    let goes (i : Instr) (t : State) : Prop := exec i s = .next t
    (∀ w, (s.die x.unit).walks[x.idx]? = some w → w.wait = none → walkOpen s x.unit w.tenant (w.vpage * 2 ^ 16) w.top = true →
      let result := walk s x.unit w.tenant (w.vpage * 2 ^ 16) w.top
      let t := noteWalk x.unit w.tenant (w.vpage * 2 ^ 16) s w.top
      (∀ c, result = .fault c → goes .pageWalkDone (walkFaults x.unit w c t)) ∧
      (∀ l v0, result = .wait l v0 → goes .pageWalkDone (walkWaits x.unit x.idx w l v0 t)) ∧
      (∀ y, result = .found y → goes .pageWalkDone (walkFinds x.unit w y t))) ∧
    (∀ pline tag nt, missOf s x = some (pline, tag, nt) → getN s.l2 pline = none → l2Shut (evictChoice x.victim pline s) pline = false →
      let u := l2Room pline (evictChoice x.victim pline s)
      let used := if nt then 0 else u.l2Tick + 1
      let v : State := { u with
        l2 := putN u.l2 pline { filling := true, tag, used }
        l2Tick := if nt then u.l2Tick else u.l2Tick + 1 }
      (tag = none → goes .l2Miss v) ∧
      (∀ t line, tag = some (t, line) → goes .l2Miss (postEvent (sliceOfLine pline) { kind := 0, tenant := t, line, pline } v).2)) ∧
    (∀ l, getN s.l2 x.idx = some l → l.filling = true →
      let put (h : Bool) (u : State) : State := { u with l2 := putN u.l2 x.idx { l with filling := false, held := h || l.held } }
      (l.tag = none → goes .l2FillData (put false s)) ∧
      (∀ t line, l.tag = some (t, line) →
        let e : SliceEvent := { kind := 1, tenant := t, line, pline := x.idx }
        let n := sliceOfLine x.idx
        (∀ u, postEvent n e s = (.taken, u) → goes .l2FillData (put true u)) ∧
        (∀ u, postEvent n e s = (.unmatched, u) → goes .l2FillData (put false u)) ∧
        (∀ u, postEvent n e s = (.full, u) → goes .l2FillData ((put true u).updSlice n fun y =>
          { y with lateFills := y.lateFills ++ [{ e with loading := (u.handler t).busy }] })))) ∧
    (nodeOf x.word.toNat = s.regs.nodeId → x.unit < 128 → x.idx < 16 →
      let a : Access := { id := s.nextId, owner := s.nextId, core := x.unit, slot := 128, tenant := x.idx, kind := .pref true, pc := 0,
                          lanes := 0, typ := 0, reqs := [] }
      let r := trReqs a [{ lane := 0, pos := 0, va := 128 * (x.word.toNat / 128), size := 128, dst := 0 }] { s with nextId := s.nextId + 1 }
      goes .hardwarePrefetch (settleAccess s.nextId (putAcc { a with reqs := r.1 } r.2))) ∧
    (∀ l, (s.station x.unit).comb[x.idx]? = some l → l.since + 256 ≤ (s.core l.core).cycle →
      goes .combineLineTimeout (flushComb x.unit (fun m => m.core = l.core && m.line = l.line && m.tenant = l.tenant) s))

/-- R17, R77, R79, R189, R203, R390, R410, R415: limits on `mwait` and `sleep` pass; a refill gives a lane its next four return addresses; a
stash fill writes its entry and wakes who waits for it; a step of `pgmode` ends, or traps where its page-table entry or a dirty granule that it
could not write back is in error. What errors do to a stash entry is the model's choice (assumptions 27, 49). -/
def Obligations.TimersAndFills : Prop :=
  ∀ (s : State),
    let x := s.input
    let k := gkey x.unit x.idx
    let now := (s.core x.unit).cycle
    let goes (i : Instr) (t : State) : Prop := exec i s = .next t
    (∀ g t, s.group k = some g → g.mwaitTill = some t → t ≤ now → goes .mwaitTimeout (s.setGroup k
      { g.unpark (g.parkedOn fun c => c = .monitor) with monitor := .disarmed, mwaitTill := none })) ∧
    (∀ g, s.group k = some g →
      let wakes (b : Bundle) : Bool := match b.hold with | some (.sleep t _) => t ≤ now | _ => false
      goes .sleepExpiry (s.setGroup k { g with bundles := g.bundles.map fun b => if wakes b = true then { b with hold := none } else b })) ∧
    (∀ a t, settleAccess x.idx s = t → getN t.accs x.idx = some a → a.kind = .refill → a.parked = false → a.reqs ≠ [] →
      stampwOpen t a.core a.slot a.tenant a.id = false →
      (∀ r ∈ a.reqs, (r.tr = .remote ∧ r.fwd.length = r.size) ∨ (∃ y, r.tr = .found y ∧ loadFree t a (y.pa r.va / 128) = true ∧
        reqBad t a r = false ∧ Rules.lineReady t a (y.pa r.va / 128))) →
      let bytes := a.reqs.flatMap fun r => match r.tr with
        | .found y => ((lineSeen t a (y.pa r.va / 128)).drop (r.va % 128)).take r.size | _ => r.fwd.map fun b => b.getD 0
      let word (n : Nat) : W64 := w64 (ofBytes ((bytes.drop (8 * n)).take 8))
      goes .returnStackRefillLands (finishIfDone x.idx (removeReqs x.idx a.reqs (updAccGroup a (fun g =>
        g.updLanes (a.lanes &&& ~~~g.exited) fun _ y => { y with
          stack := [word 3, word 2, word 1, word 0]
          spilled := y.spilled - 1
          stackBusy := false
          park := if y.park = some .refill then none else y.park }) t)))) ∧
    (∀ a r blk win e y w sh b, getN s.accs x.idx = some a → a.kind = .stashFill blk win e → a.reqs = [r] → r.tr = .found y →
      getN s.blocks blk = some b → b.share a.core = some sh → getN sh.windows win = some w →
      let pline := y.pa r.va / 128
      commitBusy s a.core pline = false → Rules.lineReady s a pline →
      (reqBad s a r = false →
        let u := useL2 pline false { s with accs := delN s.accs x.idx }
        let v := updEntry blk a.core win e (fun _ => { st := .clean, tr := some y })
          (writeScratch blk a.core (w.off + 128 * e) ((coreLine s a.core pline).map some) u)
        goes .stashFillDone ((entryWaiters v blk a.core win e).foldl (fun s b => replay b.id s) v)) ∧
      (reqBad s a r = true → goes .stashFillDone (failFill a blk win e 0x0d (countError 0x0d s)))) ∧
    (∀ o step va large p d, getN s.ops x.idx = some o → o.kind = .pgmode step va large p d → opActive s o = true →
      let drop (t : State) : State := { t with ops := delN t.ops x.idx }
      let gone (t : State) : State := (drop t).updGroup (gkey o.core o.slot) fun g => g.landS x.idx d 0
      let mine := lineOfPage s large p va
      let fails (a : Nat) (t : State) : State :=
        let u : State := { drop t with regs := { t.regs with ueCnt := t.regs.ueCnt + 1 } }
        takeTrap (gkey o.core o.slot) (deferCtx u o.core o.pc (decide (step = 2)))
          ((lanesOf o.lanes).map fun l => { lane := l, cause := 0x0d, info := w64 a })
          (u.updGroup (gkey o.core o.slot) fun g => g.dropScore x.idx (BitVec.allOnes 64))
      (p = 0 → goes .pgmodeStepComplete (fails va s)) ∧
      (p ≠ 0 → step = 1 → touchesPage s o.tenant (pageSpan large va).1 (pageSpan large va).2 mine = false → goes .pgmodeStepComplete (gone s)) ∧
      (p ≠ 0 → step = 2 → writeBackWaits mine s = false →
        (∀ t, pageWriteBack mine s = ([], t) → goes .pgmodeStepComplete (gone t)) ∧
        (∀ bad rest t, pageWriteBack mine s = (bad :: rest, t) → goes .pgmodeStepComplete (fails bad t))) ∧
      (p ≠ 0 → 3 ≤ step → goes .pgmodeStepComplete (gone (pageInvalidate mine s))))

/-! ## Engines and queues -/

namespace Sys2Proof.Rules

/-- A copy operation that may act now (R84, R353): its fork is performed, its block is here, and its barrier is live. -/
def copyActs (o : Op) (c : Copy) (s : State) : Prop :=
  o.kind = .copy c ∧ o.ready = true ∧ opActive s o = true ∧ saving s o.tenant = false ∧ c.stopped = false ∧
    ∀ b, c.bar = some b → barLive s b = true

/-- No `crel` drains a slice's port. -/
def undrained (s : State) (p : Option Nat) : Prop := ∀ n, p = some n → (portOf s n).draining = false

end Sys2Proof.Rules

/-- R60, R83 to R86, R284, R298, R353, R390, R411, R413, R445: a copy pushes its next slice, sends a lost one again, or ends; a line of a slice
is written, whole, or stops the copy where it covers part of a granule in error;
a fill is delivered to a core; a pass ends and the next is granted; a tile-port operation ends. The unit and die of a command and the moment at
which a pass writes are the model's choices (assumptions 28, 35), as is when errors occur (assumption 27). -/
def Obligations.EngineEvents : Prop :=
  ∀ (s : State),
    let x := s.input
    let goes (i : Instr) (t : State) : Prop := exec i s = .next t
    (∀ o c, getN s.ops x.idx = some o → Rules.copyActs o c s →
      (∀ y, c.out.find? (fun y => !y.flying) = some y → Rules.undrained s y.port →
        let out := c.out.map fun z => if z.idx = y.idx then { z with flying := true } else z
        goes .copySlicePush (sendSlice o c y (putOp { o with kind := .copy { c with out } } s))) ∧
      (c.out = [] → c.slices ≤ c.next → goes .copySlicePush (stampCopy o c s)) ∧
      ((∀ y ∈ c.out, y.flying = true) → c.next < c.slices → permitFree s o c = true → Rules.undrained s (slicePort s c c.next) →
        let n := 4096 * c.next
        let stop := min c.total (n + 4096)
        (∀ ps t, prepSlice o c (c.cut stop 4096 n) [] s = (.ok ps, t) →
          let y : Slice4K := { idx := c.next, len := stop - n, pieces := ps, va := c.base + c.dstAt n, port := slicePort t c c.next }
          goes .copySlicePush (sendSlice o c y (putOp { o with kind := .copy { c with next := c.next + 1, out := c.out ++ [y] } } t))) ∧
        (∀ cause va w t, prepSlice o c (c.cut stop 4096 n) [] s = (.bad cause va w, t) →
          goes .copySlicePush (stopCopy o c cause va w t)))) ∧
    (∀ o c y p, getN s.ops x.idx = some o → o.kind = .copy c → c.out.find? (fun z => z.idx = x.aux) = some y →
      y.pieces[x.word.toNat]? = some p →
      let rest := { y with pieces := y.pieces.eraseIdx x.word.toNat }
      let after (t : State) : State :=
        if rest.pieces = [] then sliceDone o c rest t
        else putOp { o with kind := .copy { c with out := c.out.map fun z => if z.idx = x.aux then rest else z } } t
      let stops (place : Nat) : State :=
        stopCopy o { c with out := c.out.filter fun z => z.idx ≠ x.aux } 0x0d p.va true (errorAt place s)
      (∀ core off, c.dst = .sp core off → shareOpen s o.blk core = true →
        if pieceBad s o c p = true then goes .copySliceWritten (stops 0)
        else goes .copySliceWritten (after (writeScratch o.blk core p.place p.bytes s))) ∧
      (∀ va, c.dst = .gl va → l2Free s (p.place / 128) = true →
        if pieceBad s o c p = true then goes .copySliceWritten (stops p.place)
        else goes .copySliceWritten (after (touchL2 (p.place / 128) (performWrite p.place p.bytes none p.hc s) c.nt)))) ∧
    (∀ o f, getN s.ops x.idx = some o → o.kind = .fill f → o.ready = true → x.aux ∈ f.cores →
      (∀ b ∈ launchBlocks s f.launch x.aux, shareOpen s b x.aux = true) →
      (∀ ls, f.lines = some ls → goes .mfillDelivery (fillCore o f ls x.aux s)) ∧
      (∀ ls t, f.lines = none → fillLines o ((List.range (f.len / 128)).map fun n => f.va + 128 * n) [] s = (.ok ls, t) →
        ((∀ l ∈ ls, l.isSome = true) → goes .mfillDelivery (fillCore o f ls x.aux t)) ∧
        (∀ n, ls.findIdx? Option.isNone = some n →
          goes .mfillDelivery (fillCore o f ls x.aux (postRec (fillRec o 0x0d (f.va + 128 * n)) t)))) ∧
      (∀ c va w t, f.lines = none → fillLines o ((List.range (f.len / 128)).map fun n => f.va + 128 * n) [] s = (.error (.bad c va w), t) →
        goes .mfillDelivery (dropOp x.idx (postRec (fillRec o c va) t)))) ∧
    (∀ o c y va, getN s.ops x.idx = some o → o.kind = .copy c → c.dst = .peer va → c.out.find? (fun z => z.idx = x.aux) = some y →
      y.flying = true →
      goes .opticalSliceAck (if x.flag = true then sliceRefused o c y x.word.toNat s else sliceDone o c y s)) ∧
    (∀ o c b, getN s.ops x.idx = some o → o.kind = .copy c → c.bar = some b → o.ready = true → opActive s o = true → c.stopped = false →
      barLive s b = false → c.since + 4000000 ≤ s.fabric.clock →
      let first := match c.out with | y :: _ => y.idx | [] => c.next
      let out := match c.dst with | .peer _ => [] | _ => c.out
      goes .barrierCopyTimeout (stopCopy o { c with out } 0x34 (c.base + c.dstAt (4096 * first)) true s)) ∧
    (∀ id till o ts m, (s.mat x.unit).pass = some (id, till) → getN s.ops id = some o → o.kind = .mat ts (.mma m) →
      till ≤ (s.core o.core).cycle →
      let t := runPass o ts m (s.updMat x.unit fun m => { m with pass := none })
      goes .passEnd (pumpMatrix x.unit (if m.passes ≤ m.ran + 1 then matDone o t
        else putOp { o with kind := .mat ts (.mma { m with ran := m.ran + 1 }) } t))) ∧
    (∀ id till o ts c, (s.mat x.unit).port = some (id, till) → getN s.ops id = some o → o.kind = .mat ts c → till ≤ (s.core o.core).cycle →
      goes .tilePortOpDone (pumpMatrix x.unit (matDone o (portEffect o ts c (s.updMat x.unit fun m => { m with port := none })))))

/-- R40, R257, R267 to R274, R280, R306, R404: a push arrives at its queue, waits for a ring's line that a handler holds (the model's choice,
assumption 34), or is refused where its spill ring is full; a hold count changes; the oldest `kpop` that waits takes a record, or traps where
the record is in error; when the queue has ended every `kpop` gets an end record; a `qpost` whose release is done writes its packet at its
command queue's write index and moves the index, or gives the status of a queue that is disabled, halted or full. -/
def Obligations.QueueEvents : Prop :=
  ∀ (s : State),
    let x := s.input
    let goes (i : Instr) (t : State) : Prop := exec i s = .next t
    (∀ o q r w, getN s.ops x.idx = some o → o.kind = .push q r w → o.ready = true → queuedBefore s o q = false →
      (∀ t, pushWaits q o.tenant r s = some t → goes .kcqPushArrival t) ∧
      (∀ t, pushWaits q o.tenant r s = none → kqPush q o.tenant r s = some t → goes .kcqPushArrival (endQueued o t)) ∧
      (pushWaits q o.tenant r s = none → kqPush q o.tenant r s = none →
        goes .kcqPushArrival (failQueued o w 0x0b 0 (w64 q) (parentAdd r.parent (· - 1) s)))) ∧
    (∀ o q un w, getN s.ops x.idx = some o → o.kind = .khold q un w → o.ready = true → queuedBefore s o q = false →
      let n := (s.kcq q).hold
      (un = true → n ≠ 0 → goes .kcqPushArrival (endQueued o (s.updKcq q fun k => { k with hold := k.hold - 1 }))) ∧
      (un = false → n ≠ 65535 → goes .kcqPushArrival (endQueued o (s.updKcq q fun k => { k with hold := k.hold + 1 }))) ∧
      ((un = true ∧ n = 0 ∨ un = false ∧ n = 65535) → goes .kcqPushArrival (failQueued o w 0x01 0x14 0 s))) ∧
    (∀ k w ws g, popWaiters s x.unit = (k, w) :: ws → s.group k = some g → (s.kcq x.unit).saved = false →
      (s.kcq x.unit).tickets.length < 4096 →
      (claim x.unit g.tenant s = .nothing → goes .kcqDispatchClaim s) ∧
      (∀ t, claim x.unit g.tenant s = .wait t → goes .kcqDispatchClaim t) ∧
      (∀ r t, claim x.unit g.tenant s = .bad r t →
        let u := t.updGroup k fun g => { (g.unpark (w.lanes &&& g.parkedOn fun c => c = .kpop)).dropScore w.id (BitVec.allOnes 64) with
          kwaits := g.kwaits.filter fun y => y.id ≠ w.id }
        goes .kcqDispatchClaim (takeTrap k (deferCtx u (k / 128) w.pc false) (sameFault w.lanes 0x0d 0 0 r.key) u)) ∧
      (∀ r t n u, claim x.unit g.tenant s = .record r t → takeTicket x.unit g.block t = some (n, u) →
        let v := wakePop k w (popWords x.unit (u.kcq x.unit).disp n r) u
        goes .kcqDispatchClaim (match w.acq with | some sc => acquireAt (k / 128) sc v | none => v))) ∧
    (kqEnded s x.unit = true → (s.kcq x.unit).saved = false →
      goes .kcqEndToken ((popWaiters s x.unit).foldl (fun s y =>
        (wakePop y.1 y.2 (endWords x.unit (s.kcq x.unit).disp) s).updGroup y.1 fun g => { g with endSeen := true }) s)) ∧
    (∀ o q ws d, x.flag = true → getN s.ops x.idx = some o → o.kind = .post q ws d → o.ready = true → opActive s o = true →
      let y := s.queue q
      let gives (v : Nat) (t : State) : State :=
        let u := t.updGroup (gkey o.core o.slot) fun g => g.landS o.id d (w64 v)
        { u with ops := delN u.ops o.id }
      let moved (t : State) : State := t.updQueue q fun z => { z with write := (z.write + 1) % 2 ^ 32 }
      let bytes := ws.flatMap fun w => toBytes 8 w.toNat
      let a := y.at y.write
      ((y.ctl.getLsbD 0 = false ∨ y.ctl.getLsbD 1 = true) → goes .l2Write (gives (2 ^ 63 + 2) s)) ∧
      (y.ctl.getLsbD 0 = true → y.ctl.getLsbD 1 = false →
        (y.count = y.size → goes .l2Write (gives (2 ^ 63 + 1) s)) ∧
        (y.count ≠ y.size → y.base.getLsbD 0 = true →
          goes .l2Write (gives y.write (moved (performBytes (hostAt a) bytes none true s)))) ∧
        (y.count ≠ y.size → y.base.getLsbD 0 = false → ∀ pa hc t, engineDst o.tenant none a s = (.ok (pa, hc), t) →
          l2Free t (pa / 128) = true → t.queue q = y →
          goes .l2Write (gives y.write (moved (touchL2 (pa / 128) (performBytes pa bytes none hc t)))))))

/-! ## Handlers -/

/-- R302 to R310, R388, R431, R432: an event that is ready starts an invocation in a free context, which holds its line and ends at once where
the event's record is in error; a message reaches its slice;
a wait for a held line ends after 8192 clocks; a handler table is asked for, checked, and taken when nothing runs under the old one. That a
FILL passes an MSG of its line, and when a table is taken, are the model's choices (assumptions 29, 36). -/
def Obligations.HandlerEvents : Prop :=
  ∀ (s : State),
    let x := s.input
    let n := x.unit
    let goes (i : Instr) (t : State) : Prop := exec i s = .next t
    (let t := refillMsgs n s
      ∀ k j e, (t.slice n).ctxs.findIdx? (fun c => !c.busy) = some k → nextEvent t n (t.slice n).queue [] 0 = some (j, e) →
      (matchEvent t e = none →
        let u := if e.kind = 1 then t.updL2 e.pline fun l => { l with held := false } else t
        goes .handlerDispatch (drainLate n (u.updSlice n fun y => { y with queue := y.queue.eraseIdx j }))) ∧
      (∀ range r ent, matchEvent t e = some (range, r, ent) →
        let regs : ZMap 64 := setZ (setZ (setZ (setZ [] 0 (w64 (128 * e.line))) 1 (w64 (eventWord e range))) 2 e.pay.1) 3 e.pay.2
        let c : FolbelCtx :=
          { busy := true, proc := { pc := 4 * ent, sregs := regs, readyAt := (t.slice n).clock }, tenant := e.tenant, kind := e.kind,
            line := e.line, pline := e.pline, base := (t.handler e.tenant).base, size := (t.handler e.tenant).size, budget := r.budget,
            origin := e.origin, snap := e.snap }
        let u := t.updSlice n fun y => { y with queue := y.queue.eraseIdx j, ctxs := setAt y.ctxs k c }
        let v := if e.kind = 1 ∨ e.kind = 3 then u.updL2 e.pline fun l => { l with held := true } else u
        (e.bad = false → goes .handlerDispatch (drainLate n v)) ∧
        (e.bad = true → goes .handlerDispatch (drainLate n (handlerFault n k 0x0d 0 (w64 (128 * e.line))
          { v with cur := { v.cur with seq := .folbel, unit := n, sub := k, pc := w64 (4 * ent), word0 := 0 } }))))) ∧
    (∀ o va pay slot y t, getN s.ops x.idx = some o → o.kind = .msg va pay slot → o.ready = true → opActive s o = true →
      walkNow s o.tenant va o.issuer .write = (.found y, t) →
      let pline := y.pa va / 128
      (∀ p q v z, (p, q) ∈ t.ops → q.id < x.idx → q.core = o.core → q.slot = o.slot → ∀ w low, q.kind = .msg v w low →
        walk t (dieOf q.core) q.tenant v = .found z → sliceOfLine (z.pa v / 128) ≠ sliceOfLine pline) →
      let e : SliceEvent := { kind := 3, tenant := o.tenant, line := va / 128, pline, pay, origin := some (o.core, slot) }
      goes .msgEventArrival (match (postMsg e t).1 with | .full => (postMsg e t).2 | _ => dropOp x.idx (postMsg e t).2)) ∧
    (let c := (s.slice n).ctx x.idx
      ∀ t va, c.waitSince = some (t, va) → c.busy = true → t + 8192 ≤ (s.slice n).clock →
      let word := w32 (readNat (s.slice n).store (c.base + c.proc.pc) 4)
      goes .heldLineWaitTimeout (handlerFault n x.idx 0x23 0 va
        { s with cur := { s.cur with seq := .folbel, unit := n, sub := x.idx, pc := w64 c.proc.pc, word0 := word } })) ∧
    (n < 16 → (s.handler n).busy = false → x.word.getLsbD 0 = false →
      goes .handlerTableLoad (s.updHandler n fun h => { h with table := 128 * fld x.word 55 7 })) ∧
    (n < 16 → (s.handler n).busy = false → x.word.getLsbD 0 = true →
      let t := s.updHandler n fun h => { h with table := 128 * fld x.word 55 7, busy := true, checked := none }
      (handlersBusy s n = true → goes .handlerTableLoad t) ∧
      (handlersBusy s n = false → ∀ y, checkTable n t = some y →
        goes .handlerTableLoad (t.updHandler n fun h => { h with checked := some y })) ∧
      (handlersBusy s n = false → checkTable n t = none →
        goes .handlerTableLoad (endLoad n (postRec { cause := 0x01, src := 1, unit := 0xffff, addr := w64 (128 * fld x.word 55 7), tenant := n } t)))) ∧
    (∀ rs base size image, (s.handler n).busy = true → handlersBusy s n = false → (s.handler n).checked = some (rs, base, size, image) →
      goes .handlerTableLoadDone (endLoad n ((copyImage base size image s).updHandler n fun h => { h with ranges := rs, base, size })))

/-! ## Stations, hoists and circuits -/

/-- The requests of an access for a peer's line that it may hand to a station: settled, released, in the order of local accesses (R73,
R92, R93, R101, R238, R335). -/
structure Sys2Proof.Rules.PieceReady (id key : Nat) (a : Access) (r : Req) (rest : List Req) (s t : State) : Prop where
  settled : settleAccess id s = t
  here : getN t.accs id = some a
  awake : a.parked = false
  released : a.released = true
  ready : inLaneOrder a ((readyReqs a key).filter fun q => q.tr = .remote && !q.sent) = r :: rest
  one : ∀ q ∈ (readyReqs a key).filter (fun q => q.tr = .remote && !q.sent), q.va / 128 = r.va / 128
  order : orderFree t a (remoteLoc (r.va / 128)) = true
  watched : stampwOpen t a.core a.slot a.tenant a.id = false
  behind : remoteBusy t a.core a.tenant (r.va / 128) = false

/-- R92, R93, R96, R248, R249, R329 to R336, R346, R353, R434 to R437: a station takes the requests of an access and the packets of a
transfer, sends the packet that R330 picks, takes custody at an acknowledgement, answers its peers' requests, those of a circuit over its reverse
direction, and ends a request at a response or a notice, or that came while its node was lost or its link dead; STNCTL enables it. -/
def Sys2Proof.Rules.StationEvents : Prop :=
  ∀ (s : State),
    let x := s.input
    let d := x.unit
    let st := s.station d
    let goes (i : Instr) (t : State) : Prop := exec i s = .next t
    let sent (p : Packet) (u : State) : State :=
      let v := u.updStation d fun y => { y with
        pkts := y.pkts.map fun q => if q.id = p.id then { q with st := .replay, sentAt := (u.station d).clock } else q }
      { v with net := v.net ++ [.request d p] }
    (∀ a r rest t, d < 4 → x.word.toNat = 1 → Rules.PieceReady x.idx x.aux a r rest s t →
      let line := r.va / 128
      let e := stationOf r.va
      let rs := r :: rest
      let into (u : State) (sel : List Req) (k : RemoteKind) (fwd : Req → List (Option Byte)) : State :=
        let p : Packet := { id := u.nextId, seq := u.nextId, doom := refusedAt u e (nodeOf r.va), node := nodeOf r.va, tc := 1,
                            count := kindCount k, podasid := podasid t a.tenant, tenant := a.tenant, kind := some k,
                            cargo := .piece a.id (sel.map fun q => (q.lane, q.pos)) r.va }
        { { u with nextId := u.nextId + 1 }.updStation e (fun y => { y with pkts := y.pkts ++ [p] }) with
          accs := putN u.accs a.id { a with reqs := a.reqs.map fun q => if sel.contains q then { q with sent := true, fwd := fwd q } else q } }
      (atomicKind a r = none → a.kind ≠ .refill →
        goes .stationSend (into (noteAhead a (remoteLoc line) t) rs (readKind rs) fun q => ((ownRemote t a line).drop (q.va % 128)).take q.size)) ∧
      (atomicKind a r = none → a.kind = .refill →
        goes .stationSend (into (flushComb e (fun l => l.core = a.core && l.line = line) (noteAhead a (remoteLoc line) t)) rs (readKind rs) fun _ => [])) ∧
      (∀ k, atomicKind a r = some k → ownStores t a = [] → olderLoads t a.core a.slot a.id = [] → aheadAt t a.core (remoteLoc line) = false →
        goes .stationSend (into (flushComb e (fun l => l.line = line) t) [r] k fun _ => []))) ∧
    (∀ o y, d < 4 → x.word.toNat = 2 → getN s.ops x.idx = some o → o.kind = .xfer y → o.ready = true → opActive s o = true →
      saving s o.tenant = false → y.stopped = false →
      (st.pkts.any fun p => p.st = .queued && (match p.cargo with | .part i _ _ => i = x.idx | _ => false)) = false →
      let next (n : Nat) (u : State) : State :=
        { u with ops := putN u.ops o.id { o with kind := .xfer { y with next := setAt y.next d n } } }
      (y.seek d 5 (y.next.getD d 0) = none → goes .stationSend (next y.len s)) ∧
      (∀ off n, y.seek d 5 (y.next.getD d 0) = some (off, n) →
        let put (k : RemoteKind) (u : State) : State :=
          let p : Packet := { id := u.nextId, seq := u.nextId, doom := refusedAt u d y.node, node := y.node, tc := y.tc, count := kindCount k,
                              podasid := podasid u o.tenant, tenant := o.tenant, kind := some k, cargo := .part x.idx off n }
          { next (off + n) u with nextId := u.nextId + 1 }.updStation d fun z => { z with pkts := z.pkts ++ [p] }
        (y.pull = true → goes .stationSend (put (.read (w64 (y.va + off)) n) s)) ∧
        (∀ c, y.pull = false → y.core = some c →
          (scratchBad s o.blk c (y.off + off) n = false →
            goes .stationSend (put (.push y.dcore y.dslot (y.doff + off) y.dctr (scratchBytes s o.blk c (y.off + off) n)) s)) ∧
          (scratchBad s o.blk c (y.off + off) n = true →
            goes .stationSend (stopXfer o y d 0x0d 0 (y.off + off) false (countError 0x0d s)))) ∧
        (∀ bs t, y.pull = false → y.core = none → readSource o 4 (y.va + off) n [] s = (.ok bs, t) →
          goes .stationSend (put (.push y.dcore y.dslot (y.doff + off) y.dctr bs) t)))) ∧
    (d < 4 → x.word.toNat = 0 → (∀ p, p ∈ st.pkts → p.doom = none) → st.enabled = true → st.up = true →
      (∀ p, st.head 0 = some p → goes .stationSend (sent p s)) ∧
      (∀ p ds c, st.head 0 = none → st.pick 64 st.deficit st.drr = some (p, ds, c) →
        goes .stationSend (sent p (s.updStation d fun y => { y with deficit := ds, drr := c })))) ∧
    (∀ p, d < 4 → x.word.toNat = 0 → st.pkts.filter (fun p => p.doom.isSome) = [p] →
      let t := endRequest d p 9 (p.doom.getD 0x30) s
      ((t.station d).enabled = false ∨ (t.station d).up = false) → goes .stationSend t) ∧
    (∀ p, x.flag = false → pktOf s d x.idx = some p → p.st = .replay → p.reply = true → goes .linkAck (dropPkt d p.id s)) ∧
    (∀ p, x.flag = false → pktOf s d x.idx = some p → p.st = .replay → p.reply = false →
      goes .linkAck (inCustody p (updPkt d p.id (fun p => { p with st := .custody }) s))) ∧
    (∀ y, x.flag = true → flightOf s (commKey d x.idx) x.aux = some y →
      goes .linkAck (copyAway (commKey d x.idx) x.aux { s with adrift := s.adrift.filter fun z => z.2.id ≠ x.aux })) ∧
    (∀ r, x.req = some r →
      let u := heardFrom r.src s
      let bytes (ps : List (W64 × List (Option Byte))) : Nat := ps.foldl (fun n p => n + p.2.length) 0
      (x.flag = false → d < 4 → (∀ ps, r.kind ≠ .slice ps) → 1 ≤ kindSize r.kind → kindSize r.kind ≤ 256 →
        (tenantOf u r.podasid = none → goes .remoteRequestReceive (notify d r.src r.tc r.tag 5 u)) ∧
        (∀ t, tenantOf u r.podasid = some t → goes .remoteRequestReceive (u.updStation d fun y =>
          { y with incoming := y.incoming ++ [{ req := r, tenant := t, port := none }] }))) ∧
      (∀ ps, x.flag = true → d < 32 → r.kind = .slice ps → (portOf s d).st = 3 → (portOf s d).peerNode = r.src → ps ≠ [] →
        (∀ p ∈ ps, p.2 ≠ []) → bytes ps ≤ 4096 →
        (tenantOf u r.podasid = none → goes .remoteRequestReceive { u with net := u.net ++ [.notice r.src r.tag 5] }) ∧
        (∀ t, tenantOf u r.podasid = some t → goes .remoteRequestReceive (u.updStation (d / 8) fun y =>
          { y with incoming := y.incoming ++ [{ req := r, tenant := t, port := some d }] })))) ∧
    (∀ r, x.req = none → st.incoming[x.idx]? = some r → (∀ q ∈ st.incoming.take x.idx, r.meets q = false) →
      let gone (t : State) : State := t.updStation d fun y => { y with incoming := y.incoming.eraseIdx x.idx }
      let back (a : NetMsg) (t : State) : State := { t with net := t.net ++ [a] }
      (∀ bs t, serve r s = .answer bs t →
        (r.port = none → goes .remoteRequestReceive (respond d r.req.src r.req.tc r.req.tag bs (gone t))) ∧
        (r.port ≠ none → goes .remoteRequestReceive (back (.response r.req.src r.req.tag bs) (gone t)))) ∧
      (∀ n t, serve r s = .refuse n t →
        (r.port = none → goes .remoteRequestReceive (notify d r.req.src r.req.tc r.req.tag n (gone t))) ∧
        (r.port ≠ none → goes .remoteRequestReceive (back (.notice r.req.src r.req.tag n) (gone t)))) ∧
      (∀ va w t, serve r s = .wait (some (va, w)) t →
        goes .remoteRequestReceive (agentWait d r.tenant va (servedDemand d r va w) s))) ∧
    (∀ p, pktOf s d x.idx = some p → p.st ≠ .queued → p.reply = false → x.data.length = ((p.kind.map answerSpan).getD (0, 0)).2 → answerOpen s p = true →
      let u := heardFrom p.node s
      let v := if p.st = .replay then inCustody p u else u
      goes .remoteResponse (answered p x.data (dropPkt d p.id (moveWindow d p v)))) ∧
    (pktOf s d x.idx = none → goes .remoteResponse (heardFrom x.aux s)) ∧
    (∀ y, x.flag = true → flightOf s (commKey d x.idx) x.word.toNat = some y →
      goes .errorNotice (hoistNotice d x.idx y.h.seq y.step true (noticeCode x.aux) 0x30 (landFlight (commKey d x.idx) y.id s))) ∧
    (x.flag = false → pktOf s d x.idx = none →
      goes .errorNotice (if noticeCode x.aux = 9 then s else heardFrom x.word.toNat s)) ∧
    (∀ p, x.flag = false → pktOf s d x.idx = some p → p.st ≠ .queued → p.reply = false →
      let u := if noticeCode x.aux = 9 then s else heardFrom p.node s
      goes .errorNotice (endRequest d p x.aux 0x30 (if p.st = .replay then inCustody p u else u))) ∧
    (d < 4 → x.word.getLsbD 0 = false → goes .stationEnable (s.updStation d fun y =>
      { y with ctl := w64 (max 100 (fld x.word 31 16) * 2 ^ 16), up := false })) ∧
    (d < 4 → x.word.getLsbD 0 = true → s.regs.booted = true → s.regs.bootStat = 0 → st.enabled = true →
      goes .stationEnable (s.updStation d fun y => { y with ctl := w64 (1 + max 100 (fld x.word 31 16) * 2 ^ 16) })) ∧
    (d < 4 → x.word.getLsbD 0 = true → s.regs.booted = true → s.regs.bootStat = 0 → st.enabled = false →
      let ctl := w64 (1 + max 100 (fld x.word 31 16) * 2 ^ 16)
      let u := s.updStation d fun y => { y with ctl, wins := [], renewed := true, downAt := none, dead := false }
      goes .stationEnable (if (List.range 4).all (fun e => (u.station e).renewed) = true then
        { u with lost := [], stations := u.stations.map fun y => (y.1, { y.2 with renewed := false }) }
      else u))

/-- R436 to R438: a request not answered for 2 ms loses its peer, and every request to it ends; a destination whose window stays shut for
1 ms is reported; a link goes down, trains again, or after 1 ms ends what it carried. -/
def Sys2Proof.Rules.LinkEvents : Prop :=
  ∀ (s : State),
    let x := s.input
    let d := x.unit
    let st := s.station d
    let goes (i : Instr) (t : State) : Prop := exec i s = .next t
    (∀ p, pktOf s d x.idx = some p → p.st ≠ .queued → p.reply = false → p.sentAt + 2000000 ≤ st.clock → p.node ∉ s.lost →
      let t := postRec { cause := 0x35, src := 4, unit := d, addr := w64 p.node, devWide := true }
        { s with lost := insertNat p.node s.lost }
      let u := (List.range 4).foldl (fun s e => endAll e (fun q => q.node = p.node && !q.reply) 0x35 s) t
      let less (y : Station) : Station :=
        { y with wins := putN y.wins p.node { y.win p.node with w := 65536, acked := 0 }, renewed := false }
      goes .peerLost { u with stations := u.stations.map fun y => (y.1, less y.2) }) ∧
    (∀ p, p ∈ st.pkts → p.node = x.idx → 1000000 ≤ p.waited → (st.win x.idx).posted = false →
      goes .windowStall (postRec { cause := 0x31, src := 4, unit := d, addr := w64 x.idx, devWide := true }
        (s.updStation d fun y => { y with wins := putN y.wins x.idx { y.win x.idx with posted := true } }))) ∧
    (st.up = true → goes .linkDown (s.updStation d fun y => { y with up := false, downAt := some y.clock })) ∧
    (st.enabled = true → st.up = false →
      goes .linkTrained (s.updStation d fun y => { y with up := true, downAt := none, dead := false })) ∧
    (∀ t, st.downAt = some t → st.up = false → st.dead = false → t + 1000000 ≤ st.clock →
      goes .linkRetrainTimeout (endAll d (fun p => p.st = .replay || (p.st = .queued && !p.reply)) 0x30
        (postRec { cause := 0x35, src := 4, unit := d, addr := w64 (2 ^ 63 + d), devWide := true }
          (s.updStation d fun y => { y with dead := true }))))

/-- R329 to R336, R434 to R438: what a station of the electrical plane does, and its link. A request that comes to a lost node or
a dead link ends at its station's next clock, and a response needs no window: the model's choices (assumption 31). -/
def Obligations.Stations : Prop :=
  Rules.StationEvents ∧ Rules.LinkEvents

namespace Sys2Proof.Rules

/-- REDUCE and DELIVER (R341, R342): what an action makes of a payload, and the state after what it read and wrote. -/
def acts (tenant : Nat) (q : Coll) (act : Nat) (x0 : List Nat) (s : State) (x : List Nat) (t : State) : Prop :=
  let writes (u v : State) : Prop := writeSpan tenant q.dst ((x.take q.count).flatMap (toBytes (widthOf q.wtype / 8))) u = (.ok (), v)
  (act = 0 ∧ ∃ l, localX tenant q s = (.ok l, t) ∧ x = combineX q x0 l) ∨
  (act = 2 ∧ ∃ l u, localX tenant q s = (.ok l, u) ∧ x = combineX q x0 l ∧ writes u t) ∨
  (act = 3 ∧ x = x0 ∧ writes s t) ∨ ((act = 1 ∨ act = 4) ∧ x = x0 ∧ t = s)

/-- A copy as it waits to be sent (R142, R342): its payload in the NTYPE of its first pennant. -/
def waits (y : HCopy) (node slot : Nat) (circ : Bool) (clock : Nat) : HCopy :=
  { y with x := (narrowAll y.h.wtype.toNat (hoistType y.h) y.x).1, h := { y.h with satcnt := satSent y.h y.x }, st := .send node slot circ clock }

/-- A copy can be sent: a pennant is left to strike, in an NTYPE of the hoist's WTYPE (R341). -/
def sendable (y : HCopy) : Prop := y.h.pens ≠ [] ∧ narrowOk y.h.wtype.toNat (hoistType y.h) = true

/-- The outcomes of a strike of a copy's first pennant (R342): the copy ends, is struck again here, or waits to be sent; a fork is added
first; REROUTE takes the pennants of a route entry. -/
def struck (k : Nat) (c : Comm) (q : Coll) (y : HCopy) (s v : State) : Prop :=
  let visit (u : State) : State := updColl k y.h.seq (fun q => { q with visits := q.visits + 1, satcnt := y.h.satcnt }) u
  let illegal (u : State) : State := failStep k y.h.seq 0x01 u
  (y.h.pens = [] → v = illegal s) ∧
  (∀ pen pens, y.h.pens = pen :: pens →
    (6 ≤ penAct pen → v = illegal s) ∧
    (∀ e t, penAct pen = 5 → routeAt c (penRt pen) s = (.ok e, t) → v = putCopy k { y with h := { y.h with pens := e.pens } } (visit t)) ∧
    (∀ x u t, penAct pen < 5 → (penAct pen = 4 → ∃ e, routeAt c (penRt pen) s = (.ok e, u)) → (penAct pen ≠ 4 → u = s) →
      acts c.tenant q (penAct pen) y.x u x t →
      let z : HCopy := { y with x, h := { y.h with pens } }
      let away : Bool := penNext pen ≠ 0x3ff && penNext pen ≠ t.regs.nodeId
      ∃ w, (penAct pen ≠ 4 → w = visit t) ∧
        (∀ e, penAct pen = 4 → routeAt c (penRt pen) s = (.ok e, u) →
          w = addCopy k { y with x, h := { y.h with pens := e.pens, satcnt := if away then satSent { y.h with pens } x else y.h.satcnt }
                                 st := .strike, orig := false } (visit t)) ∧
        (penNext pen = 0x3ff → v = copyAway k y.id w) ∧
        (penNext pen ≠ 0x3ff → away = false → (pens ≠ [] → v = putCopy k z w) ∧ (pens = [] → v = illegal (visit t))) ∧
        (away = true → (sendable z → v = putCopy k (waits z (penNext pen) (penSlot pen) (penCirc pen) w.fabric.clock) w) ∧
          (¬sendable z → v = illegal (visit t)))))

/-- The outcomes of an arrival's comparison with its COLL (R142, R342, R390, R440): a digest that differs or an error in its staging fails the
step; else the arrival is answered and its payload, widened, becomes a copy to be struck. -/
def compared (k : Nat) (c : Comm) (q : Coll) (a : Arrival) (s v : State) : Prop :=
  let gone (u : State) : State := u.updComm k fun c => { c with arrivals := c.arrivals.filter fun b => b.id ≠ a.id }
  let n := widthOf (hoistType a.h) / 8
  (a.h.digest ≠ q.digest → v = failStep k q.seq 0x32 (gone (answerArrival c a (some 10) s))) ∧
  (a.h.digest = q.digest → narrowOk a.h.wtype.toNat (hoistType a.h) = true →
    ∀ pa hc t, stagingAt c a.slot a.h.seq 0 (a.h.count * n) s = (some (pa, hc), t) →
    let u := answerArrival c a none t
    (eccIn t pa (a.h.count * n) = true → v = failStep k q.seq 0x0d (countError 0x0d (gone u))) ∧
    (eccIn t pa (a.h.count * n) = false →
      let x := (wordsOf n a.h.count (readBytes t.mem pa (a.h.count * n))).map (widenEl a.h.wtype.toNat (hoistType a.h))
      let w := u.updComm k fun c => { c with arrivals := c.arrivals.map fun b => if b.id = a.id then { b with struck := true } else b }
      v = { w with nextId := w.nextId + 1 }.updComm k fun c => { c with
        copies := c.copies ++ [({ id := w.nextId, h := a.h, x, arr := some a.id, step := (q.queue, q.addr), st := .strike } : HCopy)] }))

end Sys2Proof.Rules

/-- R329, R340 to R342, R354, R434, R440, R441, R446: a hoist arrives segment by segment in its slot's buffer, is held in custody behind one of
its sender or until its buffer is free and its segment's message is there, or is refused by a notice; the origin builds its hoist; an arrival is
compared with its COLL and becomes a copy; a copy is struck, and sent over stations or a live circuit, or fails its step after 4 ms. That a
hoist of a slot or size which the communicator cannot have is answered with RANGE is the model's choice (assumption 31), as are NaN and zeros
in MIN and MAX (assumption 38). -/
def Obligations.HoistEvents : Prop :=
  ∀ (s : State),
    let x := s.input
    let goes (i : Instr) (t : State) : Prop := exec i s = .next t
    (∀ h, x.hoist = some h → s.custody.any (sameHoist x) = true →
      goes .hoistArrival { heardFrom (fld x.word 15 0) s with custody := s.custody ++ [x] }) ∧
    (∀ g, x.hoist = some g → s.custody.any (sameHoist x) = false →
      let h := hoistWire g
      let src := fld x.word 15 0
      let off := fld x.word 63 16
      let u := heardFrom src s
      let say (n : Nat) : State :=
        if x.flag then { u with net := u.net ++ [.notice src x.idx n] } else notify (hoistStation s.regs.nodeId h.comm) src h.tc x.idx n u
      (tenantOf u h.tenant = none → goes .hoistArrival (say 5)) ∧
      (∀ t, tenantOf u h.tenant = some t → getN u.comms (commKey t h.comm) = none → goes .hoistArrival (say 8)) ∧
      (∀ t c, tenantOf u h.tenant = some t → getN u.comms (commKey t h.comm) = some c → c.failed = true → goes .hoistArrival (say 8)) ∧
      (∀ t c, tenantOf u h.tenant = some t → getN u.comms (commKey t h.comm) = some c → c.failed = false →
        (c.nroute ≤ x.aux ∨ h.pens = [] ∨ 6 < h.pens.length ∨ h.count * (widthOf (hoistType h) / 8) = 0 ∨
          65536 < h.count * (widthOf (hoistType h) / 8)) → goes .hoistArrival (say 7)) ∧
      (∀ t c, tenantOf u h.tenant = some t → getN u.comms (commKey t h.comm) = some c → c.failed = false → x.aux < c.nroute →
        h.pens ≠ [] → h.pens.length ≤ 6 →
        let k := commKey t h.comm
        let n := h.count * (widthOf (hoistType h) / 8)
        n ≠ 0 → n ≤ 65536 →
        let hold : State := { heardFrom src s with custody := s.custody ++ [x] }
        let a : Arrival := { id := s.nextId, slot := x.aux, src, circ := x.flag, tags := [x.idx], nseg := bitsOf x.unit 7 4 + 1,
                             msgs := [bitsOf x.unit 3 0], h := { h with tenant := t, payload := [] } }
        let fresh : State := { u with nextId := s.nextId + 1 }
        let add (a : Arrival) (v : State) : State := v.updComm k fun c => { c with arrivals := c.arrivals ++ [a] }
        let become (b : Arrival) (v : State) : State :=
          v.updComm k fun c => { c with arrivals := c.arrivals.map fun z => if z.id = b.id then b else z }
        (x.flag = true → h.payload.length ≠ n → goes .hoistArrival (say 7)) ∧
        (x.flag = true → h.payload.length = n → c.holds x.aux h.seq = true → goes .hoistArrival hold) ∧
        (x.flag = false → h.payload = [] → c.arrival src x.aux h.seq = none → c.holds x.aux h.seq = true → goes .hoistArrival hold) ∧
        (x.flag = false → h.payload ≠ [] → (256 < h.payload.length ∨ off % 256 ≠ 0 ∨ n < off + h.payload.length) → goes .hoistArrival (say 7)) ∧
        (x.flag = false → h.payload ≠ [] → h.payload.length ≤ 256 → off % 256 = 0 → off + h.payload.length ≤ n →
          (∀ b, c.arrival src x.aux h.seq = some b → off / 4096 ∉ b.msgs) → goes .hoistArrival hold) ∧
        (x.flag = true → h.payload.length = n → c.holds x.aux h.seq = false → ∀ pa hc v, stagingAt c x.aux h.seq 0 n fresh = (some (pa, hc), v) →
          goes .hoistArrival (add { a with nseg := 1, msgs := [0], got := List.range (ceilDiv n 256) } (performBytes pa h.payload none hc v))) ∧
        (x.flag = false → h.payload = [] → c.arrival src x.aux h.seq = none → c.holds x.aux h.seq = false → goes .hoistArrival (add a fresh)) ∧
        (x.flag = false → h.payload = [] → ∀ b, c.arrival src x.aux h.seq = some b →
          goes .hoistArrival (become { b with msgs := insertNat (bitsOf x.unit 3 0) b.msgs, tags := b.tags ++ [x.idx] } u)) ∧
        (x.flag = false → h.payload ≠ [] → ∀ b, c.arrival src x.aux h.seq = some b → h.payload.length ≤ 256 → off % 256 = 0 →
          off + h.payload.length ≤ n → off / 4096 ∈ b.msgs → ∀ pa hc v, stagingAt c x.aux h.seq off h.payload.length u = (some (pa, hc), v) →
          goes .hoistArrival (respond (hoistStation s.regs.nodeId h.comm) src h.tc x.idx []
            (become { b with got := insertNat (off / 256) b.got } (performBytes pa h.payload none hc v)))))) ∧
    (∀ c, getN s.comms (commKey x.unit x.idx) = some c → c.failed = false →
      let k := commKey x.unit x.idx
      (∀ a q, x.flag = true → c.arrivals.find? (fun a => a.id = x.aux && !a.struck && a.full) = some a → c.coll a.h.seq = some q →
        ∃ v, goes .hoistStrike v ∧ Rules.compared k c q a s v) ∧
      (∀ y q, x.flag = false → c.copies.find? (fun y => y.id = x.aux) = some y → c.coll y.h.seq = some q →
        (∀ z ∈ c.copies, z.id < y.id → z.arr = y.arr → z.h.seq = y.h.seq → z.acting = false) →
        (y.st = .strike → ∃ v, goes .hoistStrike v ∧ Rules.struck k c q y s v) ∧
        (∀ rt e l u t, y.st = .origin rt → routeAt c rt s = (.ok e, u) → localX c.tenant q u = (.ok l, t) →
          let z : HCopy := { y with x := l, h := { y.h with pens := e.pens } }
          (Rules.sendable z → goes .hoistStrike (putCopy k (Rules.waits z e.first e.slot e.circ t.fabric.clock) t)) ∧
          (¬Rules.sendable z → goes .hoistStrike (failStep k q.seq 0x01 t))))) ∧
    (∀ c y node slot via t, getN s.comms (commKey x.unit x.idx) = some c → c.failed = false → c.copies.find? (fun y => y.id = x.aux) = some y →
      y.st = .send node slot via t →
      let k := commKey x.unit x.idx
      (via = false →
        let ps := segments s c y node slot
        goes .hoistSend (ps.foldl (fun s p => enqueuePkt ((node % 4) ^^^ (c.id % 4)) p s)
          (putCopy k { y with st := .sent (ps.filterMap Packet.partNo) } s))) ∧
      (∀ p, via = true → circuitPort s c.tenant node = some p →
        goes .hoistSend (putCopy k { y with st := .flying p node slot }
          { s with net := s.net ++ [.hoist p slot { hoistWire { y.h with tenant := podasid s c.tenant } with payload := y.bytes }] })) ∧
      (via = true → circuitPort s x.unit node = none → t + 4000000 ≤ s.fabric.clock →
        goes .hoistCircuitTimeout (failStep k y.h.seq 0x34 s)))

/-- R329, R350, R351, R357, R442, R443: the states of a port: LOCKING at CIRCUIT_MADE, handshake when it has trained in time, LIVE when its peer
is the one expected; DARK at CIRCUIT_BROKEN, at the time limit, at another peer, at a loss of lock, and when a drain is done; a message from
another node is queued, or held in custody while the queue is full; a wait's limit passes. What CIRCUIT_MADE and CIRCUIT_BROKEN check, a
draining port that fails, and a message that is held are the model's choices (assumption 39). -/
def Obligations.CircuitEvents : Prop :=
  ∀ (s : State),
    let x := s.input
    let goes (i : Instr) (t : State) : Prop := exec i s = .next t
    let now := s.fabric.clock
    (let t := heardFrom s.regs.ocsNode s
      let w := x.word
      let n := fld w 32 28
      let y := portOf s n
      (y.st = 0 → y.pend = true → fld w 7 0 = 2 → fld w 27 18 = s.regs.nodeId → fld w 63 48 = y.handle → fld w 47 38 = y.peerNode →
        fld w 37 33 = y.peerPort →
        goes .circuitMade (t.updPort n fun y => { y with st := 1, pend := false, since := now })) ∧
      (y.st ≠ 0 → fld w 7 0 = 3 → fld w 27 18 = s.regs.nodeId → goes .circuitBroken (failPort n 2 0x34 false t))) ∧
    (let n := x.unit
      let y := portOf s n
      (y.st = 1 → now ≤ y.since + 40000 → goes .portTrained (s.updPort n fun y => { y with st := 2, since := now })) ∧
      (y.st = 1 → y.since + 40000 < now → goes .lockTimeout (failPort n 1 0x33 true s)) ∧
      (y.st = 2 → y.peerNode = x.idx → y.peerPort = x.aux →
        goes .identityHandshake (s.updPort n fun y => { y with st := 3, since := now })) ∧
      (y.st = 2 → ¬(y.peerNode = x.idx ∧ y.peerPort = x.aux) → goes .identityHandshake (failPort n 3 0x34 true s)) ∧
      ((y.st = 2 ∨ y.st = 3) → goes .lossOfLock (failPort n 2 0x34 true s)) ∧
      (y.st = 3 → y.draining = true → portCarries s n = false →
        goes .portDrainDone (tellOcs 1 n (fld y.optown 3 0) (darken n 0 s)))) ∧
    (∀ m, x.msg = some m →
      let u := heardFrom m.src s
      let first := s.custody.any (fun y => y.msg.isSome) = false
      (first → tenantOf s x.aux = none → goes .emsgReceive (notify x.unit m.src 0 x.idx 5 u)) ∧
      (first → ∀ t, tenantOf s x.aux = some t → s.fabric.recvq.length < 64 →
        let v := respond x.unit m.src 0 x.idx [] u
        goes .emsgReceive { v with fabric := { v.fabric with recvq := v.fabric.recvq ++ [(t, m)] } }) ∧
      (first → ∀ t, tenantOf s x.aux = some t → 64 ≤ s.fabric.recvq.length →
        goes .emsgReceive { u with custody := s.custody ++ [x] }) ∧
      (¬ first → goes .emsgReceive { u with custody := s.custody ++ [x] })) ∧
    (∀ t limit b, (s.script x.unit).waitSince = some (t, limit, b) → limit ≠ 0 → t + limit ≤ now →
      goes .scriptWaitTimeout (s.updScript x.unit fun c => { c with timedOut := true }))

/-! ## Rules that are stated whole -/

/-- R195: `elect` permits only the form S, D names a predicate and A is 0; each active lane's bit of pD says whether it is the lowest
active lane of the bundle. -/
def Obligations.ElectResult : Prop :=
  (∀ (g : Group) (trap : Bool) (h : Hdr) (f : Form), staticCheck g trap 0x30 h f = none →
    ∃ d : BitVec 7, f = .single d 0 ∧ d.toNat < 16) ∧
  (∀ (i : Instr) (h : Hdr) (d : BitVec 7) (g : Group) (s : State),
    view i = some (0x30, h, .single d 0) → Issues 0x30 h (.single d 0) g s →
    ∃ g', exec i s = .next (s.setGroup s.cur.key g') ∧
      (d ≠ 0 → ∀ l, l < 64 → (getZ g'.pregs d.toNat).getLsbD l =
        if (activeOf g h s).getLsbD l = true then decide (∀ k, k < l → (activeOf g h s).getLsbD k = false)
        else (getZ g.pregs d.toNat).getLsbD l) ∧
      (∀ r, r ≠ d.toNat ∨ d = 0 → getZ g'.pregs r = getZ g.pregs r) ∧
      Rules.leaves g h s [(.p, d.toNat)] (fun b => { b with pregs := g'.pregs }) g')

/-- R197, R198: `plog` and `pmov`: the forms they permit, the values of OPT, and in each active lane the bit of pD that the table gives, or
the whole of pA in a scalar register. -/
def Obligations.PredicateRules : Prop :=
  (∀ f, staticSub 0x32 f = none → (∃ d a, f = .single d a) ∨
    ∃ x, f = .multi (.ext x) ∧ x.bm = 0 ∧ (opndOf 0x32 f).opt < 6 ∧ (4 ≤ (opndOf 0x32 f).opt → x.b = 0)) ∧
  (∀ f, staticSub 0x33 f = none → (∃ d a, f = .single d a ∧ (opndOf 0x33 f).opt = 0) ∨
    ∃ x, f = .multi (.ext x) ∧ (opndOf 0x33 f).opt < 2) ∧
  (∀ (i : Instr) (opc : Nat) (h : Hdr) (f : Form) (g : Group) (s : State),
    view i = some (opc, h, f) → Issues opc h f g s →
    let o := operands g opc f
    let act := activeOf g h s
    let a := g.readP s.cur.clock (match f with | .single _ a => a.toNat | .multi _ => o.a)
    let b := g.readP s.cur.clock (match f with | .single d _ => d.toNat | .multi _ => o.b)
    let writes (x : W64) : Prop := ∃ g', exec i s = .next (s.setGroup s.cur.key g') ∧
      g'.pregs = Rules.predFile g.pregs o.d act x ∧ Rules.writesPred g h s o.d x g'
    (opc = 0x32 → ((∃ d a, f = .single d a) ∨ o.opt = 0) → writes (a &&& b)) ∧
    (opc = 0x32 → (∃ m, f = .multi m) →
      (o.opt = 1 → writes (a ||| b)) ∧ (o.opt = 2 → writes (a ^^^ b)) ∧ (o.opt = 3 → writes (a &&& ~~~b)) ∧
      (o.opt = 4 → writes (~~~a)) ∧ (o.opt = 5 → writes a)) ∧
    (opc = 0x33 → o.opt = 0 → writes (g.readS s.cur.clock o.a)) ∧
    (opc = 0x33 → o.opt = 1 → ∃ g', exec i s = .next (s.setGroup s.cur.key g') ∧
      g'.sregs = setZ g.sregs o.d a ∧ Rules.writesScalar g h s o.d a g'))

/-- R439, R44: a COLL packet that names no communicator of its device halts its queue, with a record of cause ILLEGAL and the queue's
vector. -/
def Obligations.UnknownCommunicator : Prop :=
  ∀ (p : Pkt) (s t : State), Rules.Meets 7 false p s t → getN t.comms (commKey p.tenant (pfld p.v 32 16)) = none →
    let u := t.updQueue p.q fun x => { x with ctl := x.ctl ||| 2, waiting := false, fence := none }
    let v := postRec { cause := 0x01, src := 3, unit := p.q, pc := w64 p.addr, addr := 0, tenant := (t.queue p.q).tenant } u
    exec .coll s = .next { v with msix := v.msix ++ [p.q], qturn := (s.input.unit + 1) % 64 }

/-! ## Stream ports -/

namespace Sys2Proof.Rules

/-- The registers that a vector instruction reads, in the order A, B, C (R150). -/
def sourceRegs (o : Opnd) : List Nat := readRegs o .a ++ readRegs o .b ++ readRegs o .c

/-- The source lane values of images that have been read in the order A, B, C (R148, R150). -/
def takenSources (o : Opnd) (asInt : Bool) (g : Group) (now : Nat) (imgs : List (List Nat)) : Srcs :=
  let na := (readRegs o .a).length
  let nb := (readRegs o .b).length
  { a := laneVals o .a (imgs.take na), b := laneVals o .b ((imgs.drop na).take nb), bEl := bElem o asInt (bScalar g now o),
    c := laneVals o .c (imgs.drop (na + nb)) }

/-- The instructions that write a block, with what they compute from their sources (R206 to R228). -/
def blockFn (opc : Nat) : Bool × (Iss → Group → Srcs → VRes) :=
  if opc ∈ intElementwise then (false, elementwise fun x g k l j a b c => (intElement opc x.o g x.now k l j a b c, 0))
  else if opc ∈ floatElementwise then
    (opc = 0x69, elementwise fun x g _ _ _ a b c => floatElement opc x.o.typ (rmOf x.o.rm g.fpctl) (x.o.opt % 2 = 1) a b c)
  else (opc = 0x73 || opc = 0x74 || opc = 0x75, laneResult opc)

/-- The other vector instructions, with the registers they read. -/
def otherVector (opc : Nat) (o : Opnd) : List Nat :=
  if opc = 0x4c ∨ opc = 0x60 then readRegs o .a ++ readRegs o .b
  else if opc = 0x71 then (o.regs .a).map Prod.snd
  else if opc = 0x72 then [o.a, o.c] else readRegs o .a

/-- A result of which each position is written in ascending order, through the push port of a register where it has one; only the notes
on registers that are not ready differ otherwise. -/
def putsBlock (o : Opnd) (now : Nat) (res : List (List (Nat × Nat))) (a t : Gather) : Prop :=
  ∃ (ready : Nat → Nat) (soft : Bool), t = (List.range o.n).foldl (fun a k => ((splitRegs (o.span .d) (res.getD k [])).zipIdx).foldl
    (fun a x => putReg now (o.regAt .d k + x.2) x.1 (ready k) soft a) a) a

/-- The instruction completes with these ports and rings and the group changed by `G`: its pops acquire, its pushes release, and an
image that finds no place waits at its ring (R31, R82, R105). -/
def completes (i : Instr) (h : Hdr) (x : Iss) (occ : Nat) (t : Gather) (G : Group → Group) (g : Group) (s : State) : Prop :=
  ∃ p sc bad, exec i s = .next (issued g h s (holdDatapath occ
    (ungather x { t with g := { G t.g with pend := p, score := sc, badRegs := bad } } (s.begun g))))

end Sys2Proof.Rules

/-- R31, R81, R82, R105: a pop port reads the image at HEAD of an element, unless another bundle waits before it, and a push port writes the
image at the place after the last element, where there is one, or waits in line; HEAD moves on with an element's last image, and that image
of a push makes a release; an instruction of which a source waits on a ring parks its bundle at itself; and one whose sources are all there
completes, whatever ports its group has. That images wait at the ring in order and a bundle that waits to pop issues again is deduced
(assumption 16). -/
def Obligations.StreamPorts : Prop :=
  (∀ w : W128, ringOf (advHead w) = { ringOf w with head := ((ringOf w).head + 1) % 2 ^ 16 } ∧
    ringOf (advTail w) = { ringOf w with tail := ((ringOf w).tail + 1) % 2 ^ 16 }) ∧
  (∀ (now r : Nat) (a : Gather) (p : Bind) (b : Block) (sh : Share),
    a.wait = none → a.g.binds.find? (fun x => x.reg = r && !x.push) = some p →
    p.images.find? (fun x => x.1 &&& a.lanes ≠ 0) = none → a.blk = some b →
    let w := getZ b.qcws p.q
    let x := ringOf w
    let n := (getN b.popped p.q).getD 0
    let t := gatherReg now a r
    b.share (coreOfCluster b.cluster x.core) = some sh →
    (x.count ≠ 0 → b.pops p.q = [] →
      t.wait = none ∧ t.imgs = imageAt sh.scratch (x.at x.head n) :: a.imgs ∧ t.g.vregs = a.g.vregs ∧ t.acq = (a.acq || n = 0) ∧
      t.blk = some (if n + 1 < x.esz then { b with popped := putN b.popped p.q (n + 1) }
        else { b with popped := delN b.popped p.q, qcws := setZ b.qcws p.q (advHead w) })) ∧
    (x.count = 0 ∨ b.pops p.q ≠ [] → t = { a with wait := some p.q })) ∧
  (∀ (now r ready : Nat) (soft : Bool) (ls : List (Nat × Nat)) (a : Gather) (p : Bind) (b : Block),
    a.g.binds.find? (fun x => x.reg = r && x.push) = some p → a.blk = some b →
    let x := ringOf (getZ b.qcws p.q)
    let n := (getN b.pushed p.q).getD 0
    let e := (x.tail + (b.unrel p.q).length) % 2 ^ 16
    let img := (List.range 64).map fun l => match ls.find? (fun y => y.1 = l) with
      | some y => y.2 % 2 ^ 32 | none => a.g.readV now r l
    let b' := b.updShare (coreOfCluster b.cluster x.core) fun sh =>
      { sh with scratch := writeBytes sh.scratch (x.at e n) (img.flatMap fun x => toBytes 4 x) }
    let place : Prop := (getN b.pushed p.q).isSome = true ∨ x.count + (b.unrel p.q).length < x.depth
    let t := putReg now r ls ready soft a
    t.g.vregs = a.g.vregs ∧
    (b.pushes p.q = [] → place →
      t.stuck = a.stuck ∧ t.done = (if n + 1 < x.esz then a.done else a.done ++ [(p.q, e)]) ∧
      t.blk = some (if n + 1 < x.esz then { b' with pushed := putN b.pushed p.q (n + 1) }
        else { b' with pushed := delN b.pushed p.q, unreleased := putN b.unreleased p.q (b.unrel p.q ++ [(e, false)]) })) ∧
    (b.pushes p.q ≠ [] ∨ ¬place →
      t.stuck = a.stuck ++ [p.q] ∧ t.done = a.done ∧ t.blk = some { b with
        pushQ := putN b.pushQ p.q (b.pushes p.q ++ [{ key := a.key, lanes := a.lanes, reg := r, image := img }]) })) ∧
  (∀ (i : Instr) (opc : Nat) (h : Hdr) (f : Form) (g : Group) (s : State),
    view i = some (opc, h, f) → Issues opc h f g s →
    let o := operands g opc f
    let x := issueOf opc h f g s
    let now := s.cur.clock
    (opc ∈ Rules.intElementwise ∨ opc ∈ Rules.floatElementwise ∨ opc ∈ [0x70, 0x73, 0x74, 0x75, 0x76, 0x77, 0x79] →
      let a := Rules.taken g s (Rules.sourceRegs o)
      (∀ q, a.wait = some q → exec i s = .next (issued g h s (parkStream x q (Rules.sourceRegs o) a (s.begun g)))) ∧
      (a.wait = none →
        let r := (Rules.blockFn opc).2 x g (Rules.takenSources o (Rules.blockFn opc).1 g now a.imgs.reverse)
        ∃ t, Rules.putsBlock o now r.1 a t ∧
          Rules.completes i h x (Rules.occupancy o) t (fun y => { y with fpstat := y.fpstat ||| w64 (r.2 % 32) }) g s)) ∧
    (opc ∈ [0x1c, 0x4c, 0x60, 0x71, 0x72, 0x78] → (opc = 0x71 → o.d ≠ o.c) →
      let regs := Rules.otherVector opc o
      let a := Rules.taken g s regs
      let lanes := lanesOf (activeOf g h s)
      let imgs := a.imgs.reverse
      let vals := (laneVals o .a (imgs.take (readRegs o .a).length)).headD []
      (∀ q, a.wait = some q → exec i s = .next (issued g h s (parkStream x q regs a (s.begun g)))) ∧
      (a.wait = none → opc = 0x1c → ∃ p sc bad, exec i s = .next (issued g h s (ungather x { a with g := { a.g with
        sregs := setZ a.g.sregs o.d (extW o.typ (vals.getD ((bWhole o (bScalar g now o)).toNat % 64) 0))
        pend := p
        score := sc
        badRegs := bad } } (s.begun g)))) ∧
      (a.wait = none → opc = 0x78 → Rules.completes i h x (Rules.occupancy o) a
        (fun y => { y with sregs := setZ y.sregs o.d (maskOf (lanes.filter fun l => vals.getD l 0 ≠ 0)) }) g s) ∧
      (a.wait = none → opc = 0x4c ∨ opc = 0x60 →
        let bs := (laneVals o .b (imgs.drop (readRegs o .a).length)).headD []
        let holds (l : Nat) : Bool :=
          let u := vals.getD l 0
          let v := match o.file .b with | .v => bs.getD l 0 | _ => bElem o false (bScalar g now o)
          if opc = 0x60 then fCmp o.typ o.opt u v else cmpInt o.opt (intOf o.typ u) (intOf o.typ v)
        Rules.completes i h x (Rules.occupancy o) a
          (fun y => { y with pregs := Rules.predFile y.pregs o.d (activeOf g h s) (maskOf (lanes.filter holds)) }) g s) ∧
      (a.wait = none → opc = 0x71 →
        let act := activeOf g h s
        let blocks := (List.range 8).filter fun b => (List.range 8).any fun l => act.getLsbD (8 * b + l)
        let quant (b : Nat) := quantise o.typ o.inf ((List.range 32).map fun e => ieeeVal o.typ2 (spanEl o.typ2 imgs (32 * b + e)))
        let data := blocks.flatMap fun b => (List.range 8).map fun l =>
          (8 * b + l, joinEls 8 ((List.range 4).map fun e => ((quant b).2.getD (4 * l + e) (0, 0)).1))
        let scales := blocks.map fun b => (8 * (o.opt % 8) + b, (quant b).1)
        let flags := blocks.foldl (fun f b => if act.getLsbD (8 * b) then (quant b).2.foldl (fun f r => f ||| r.2) f else f) 0
        ∃ ready, Rules.completes i h x (Rules.occupancy o) (putReg now o.c scales ready false (putReg now o.d data ready false a))
          (fun y => { y with fpstat := y.fpstat ||| w64 (flags % 32) }) g s) ∧
      (a.wait = none → opc = 0x72 →
        let element (r l j : Nat) : Nat × Nat :=
          let e := r * elemsIn o.typ + l * perLane o.typ + j
          dequantEl o.typ o.typ2 o.inf (rmOf o.rm g.fpctl) (elemAt 8 (imgs.getD 0 []) e) ((imgs.getD 1 []).getD (8 * (o.opt % 8) + e / 32) 0)
        let lane (r l : Nat) := (List.range (perLane o.typ)).map (element r l)
        let flags := (List.range (o.span .d)).foldl (fun f r => lanes.foldl (fun f l =>
          f ||| (lane r l).foldl (fun f x => f ||| x.2) 0) f) 0
        ∃ ready, Rules.completes i h x (Rules.occupancy o) ((List.range (o.span .d)).foldl (fun a r => putReg now (o.d + r)
            (lanes.map fun l => (l, joinEls (widthOf o.typ) ((lane r l).map Prod.fst))) ready false a) a)
          (fun y => { y with fpstat := y.fpstat ||| w64 (flags % 32) }) g s)))

/-! ## Memory and the fault queue -/

/-- R69, R386: bytes written are read back, and no other byte changes. -/
def Obligations.BytesOfMemory : Prop :=
  ∀ (m : ZMap 8) (a : Nat), Memory.wf m = true →
    (∀ bs : List Byte, readBytes (writeBytes m a bs) a bs.length = bs ∧
      ∀ x, x < a ∨ a + bs.length ≤ x → getZ (writeBytes m a bs) x = getZ m x) ∧
    (∀ bs : List (Option Byte), (∀ n, n < bs.length → getZ (writeMasked m a bs) (a + n) = (bs.getD n none).getD (getZ m (a + n))) ∧
      ∀ x, x < a ∨ a + bs.length ≤ x → getZ (writeMasked m a bs) x = getZ m x)

/-- R385 to R387: a record is written at the next position of an enabled ring that has room, field by field, and signals its vector;
any other is dropped and counted, but for a demand, which is held. -/
def Obligations.FaultRecords : Prop :=
  ∀ (r : FaultRec) (s : State), Memory.wf s.mem = true →
    let h := s.regs
    let t := postRec r s
    let p := 2 ^ 64 + fld h.fqBase 63 12 * 4096 + 64 * (h.fqSeq % 2 ^ fld h.fqCtl 7 4)
    let flag (x : Bool) (n : Nat) : Nat := if x = true then n else 0
    let room : Prop := h.fqCtl.getLsbD 0 = true ∧
      (h.fqWrite.toNat + 2 ^ 32 - h.fqRead.toNat % 2 ^ 32) % 2 ^ 32 ≠ 2 ^ fld h.fqCtl 7 4
    (room →
      readNat t.mem p 2 = r.cause % 2 ^ 16 ∧
      readNat t.mem (p + 2) 1 = flag r.demand 1 + flag r.trapped 2 + flag r.write 4 + flag r.nested 8 + flag r.defer 16 ∧
      readNat t.mem (p + 3) 1 = r.src % 2 ^ 8 ∧ readNat t.mem (p + 4) 2 = h.nodeId % 2 ^ 16 ∧
      readNat t.mem (p + 6) 2 = r.unit % 2 ^ 16 ∧ readNat t.mem (p + 8) 8 = r.laneMask.toNat ∧
      readNat t.mem (p + 16) 8 = r.pc.toNat ∧ readNat t.mem (p + 24) 8 = r.addr.toNat ∧
      readNat t.mem (p + 32) 8 = r.info1.toNat ∧ readNat t.mem (p + 40) 8 = 0 ∧
      readNat t.mem (p + 48) 1 = (if r.devWide = true then 128 else r.tenant % 16) ∧ readNat t.mem (p + 49) 7 = 0 ∧
      readNat t.mem (p + 56) 8 = (h.fqSeq + 1) % 2 ^ 64 ∧
      (∀ a, a < p ∨ p + 64 ≤ a → getZ t.mem a = getZ s.mem a) ∧
      t = { s with
        mem := t.mem
        regs := { h with fqSeq := h.fqSeq + 1, fqWrite := w64 ((h.fqWrite.toNat + 1) % 2 ^ 32) }
        msix := s.msix ++ [fld h.fqCtl 21 16] }) ∧
    (¬room → t = if r.demand = true then { s with demandHeld := s.demandHeld ++ [r] }
      else { s with regs := { h with fqDrop := h.fqDrop + 1 } })

namespace Sys2Proof.Rules

/-- The instructions whose effect is on registers, lanes and stream ports alone. -/
def registerOnly : List Nat :=
  List.range 0x18 ++ [0x1a, 0x1b, 0x1c, 0x20, 0x21, 0x22, 0x26, 0x27, 0x2c, 0x2d, 0x2e, 0x30, 0x31, 0x32, 0x33] ++
    intElementwise ++ [0x4c, 0x60] ++ floatElementwise ++ (List.range 10).map (0x70 + ·)

end Sys2Proof.Rules

/-- R95, R168, R206: an instruction on registers, lanes and stream ports leaves every byte of device memory as it was, in whatever form
and whether it completes, waits or faults (a fault record goes to host memory, which lies above). -/
def Obligations.RegisterInstructionsLeaveMemory : Prop :=
  ∀ (i : Instr) (opc : Nat) (h : Hdr) (f : Form) (s t : State),
    view i = some (opc, h, f) → opc ∈ Rules.registerOnly → exec i s = .next t → ∀ a, a < 2 ^ 64 → getZ t.mem a = getZ s.mem a

/-! ## Words -/

/-- R143 to R147, R419: what an encoder writes from the fields of a well-formed instruction, the decoder reads back, with every field at
every value, whatever words follow. -/
def Obligations.EncodeDecode : Prop :=
  ∀ (i : Instr), wellFormed i = true → ∀ rest, decode (encode i ++ rest) = .ok (i, (encode i).length)

/-- R143, R147, R419: words that decode are the encoding of the instruction they give, which is well-formed: no bit is ignored. -/
def Obligations.DecodeEncode : Prop :=
  ∀ (ws : List W32) (i : Instr) (n : Nat), decode ws = .ok (i, n) →
    wellFormed i = true ∧ encode i = ws.take n ∧ n ≤ ws.length ∧ (n = 1 ∨ n = 3 ∨ n = 5)

/-! ## Steps -/

namespace Sys2Proof.Rules

/-- The state in which an instruction that has been fetched is executed. -/
def fetched (ws : List W32) (s : State) : State := { s with cur := { s.cur with nwords := ws.length, word0 := ws.headD 0 } }

/-- The state in which a context of a sequencer without lanes fetches. -/
def contextTurn (seq : Seq) (unit clock k : Nat) (s : State) : State :=
  let u : State := { s with cur := { seq, unit, sub := k, clock } }
  { u with cur := { u.cur with pc := w64 (curProc u).pc } }

/-- A context that does not issue at a clock. -/
def idle (seq : Seq) (unit clock : Nat) (s : State) (k : Nat) : Prop :=
  let u : State := { s with cur := { seq, unit, sub := k, clock } }
  curBusy u = false ∨ clock < (curProc u).readyAt

end Sys2Proof.Rules

/-- R24, R58, R301, R355, R419: a step in which the words of the chosen bundle or context decode to a well-formed instruction is exec of that
instruction, and the end of the clock; words that do not decode are refused by R419; an event of the schedule is exec of it (R369: while the
device has stopped at its trip temperature only the events of the host driver occur, and a clock leaves everything as it is). The schedule of
events and turns is the model's own (assumption 3). -/
def Obligations.StepRuns : Prop :=
  (∀ (c slot : Nat) (m : W64) (rest : List (Nat × W64)) (g : Group) (l : Nat) (ws : List W32) (line line2 : Option Nat) (s u v t : State),
    s.schedule = [] → s.turn = .core c → c < 128 → s.regs.thermStat.getLsbD 0 = false →
    let part := (s.core c).phase
    withheld (regroupAt c part s) = (false, u) →
    candidates u c part = (slot, m) :: rest → u.group (gkey c slot) = some g → lowest m = some l →
    let pc := (g.lane l).pc
    fetchWords c g.tenant pc (g.bundle m).lines
      { u with cur := { unit := c, sub := slot, lanes := m, pc, clock := (u.core c).cycle } } = (.words ws line line2, v) →
    let x := Rules.fetched ws (holdLine c slot m line line2 v)
    (nextPhase c t).hole = false →
    (∀ i n, decode ws = .ok (i, n) → exec i x = .next t → t.cur.held = false → step s = .next (nextPhase c t)) ∧
    (∀ e, decode ws = .error e → t = reject e ws x → t.cur.held = false → step s = .next (nextPhase c t))) ∧
  (∀ (n k : Nat) (pre post : List Nat) (ws : List W32) (i : Instr) (len : Nat) (s t : State),
    s.schedule = [] → s.turn = .folbel n → n < 64 → s.regs.thermStat.getLsbD 0 = false →
    rounds (s.slice n).next = pre ++ k :: post → (∀ j ∈ pre, Rules.idle .folbel n (s.slice n).clock s j) →
    ¬Rules.idle .folbel n (s.slice n).clock s k →
    let x := Rules.contextTurn .folbel n (s.slice n).clock k s
    procWords x = some ws → procWordsBad ws x = false → decode ws = .ok (i, len) → exec i (Rules.fetched ws x) = .next t → t.cur.held = false →
    let u := t.updSlice n fun y => { y with next := (k + 1) % 4, clock := y.clock + 1 }
    u.hole = false → step s = .next u) ∧
  (∀ (k : Nat) (pre post : List Nat) (ws : List W32) (i : Instr) (len : Nat) (s t : State),
    s.schedule = [] → s.turn = .fabric → s.regs.thermStat.getLsbD 0 = false →
    rounds s.fabric.next = pre ++ k :: post → (∀ j ∈ pre, Rules.idle .fabric 0 s.fabric.clock s j) →
    ¬Rules.idle .fabric 0 s.fabric.clock s k →
    let x := Rules.contextTurn .fabric 0 s.fabric.clock k s
    procWords x = some ws → procWordsBad ws x = false → decode ws = .ok (i, len) → exec i (Rules.fetched ws x) = .next t → t.cur.held = false →
    let u : State := drainLimits { t with fabric := { t.fabric with next := (k + 1) % 4, clock := t.fabric.clock + 1 } }
    u.hole = false → step s = .next u) ∧
  (∀ (i : Instr) (x : Input) (rest : List Act) (s t : State),
    s.schedule = .event i x :: rest → view i = none → (s.regs.thermStat.getLsbD 0 = false ∨ fromOutside i x = true) → exec i { s with schedule := rest, input := x } = .next t → t.hole = false →
    step s = .next t) ∧
  (∀ (u : Upset) (rest : List Act) (s : State), s.schedule = .upset u :: rest →
    let t := applyUpset u { s with schedule := rest }
    t.hole = false → step s = .next t) ∧
  (∀ (s : State), s.schedule = [] → s.regs.thermStat.getLsbD 0 = true → s.hole = false → step s = .next s) ∧
  (∀ (d : Nat) (s : State), s.schedule = [] → s.turn = .station d → d < 4 → s.regs.thermStat.getLsbD 0 = false →
    let t := tickStation d s
    t.hole = false → step s = .next t) ∧
  (∀ (a : Turn) (s : State), s.schedule = [.turn a] → step s = step { s with schedule := [], turn := a })

/-- R69, R425: every instruction and every event answers a next state; a step stops only at a unit, or an address, that does not exist. The
fault for an address past its tier is the model's choice (assumption 10). -/
def Obligations.StepAnswers : Prop :=
  (∀ (i : Instr) (s : State), ∃ t, exec i s = .next t) ∧
  (∀ (s : State), (∃ t, step s = .next t ∧ t.hole = false) ∨ step s = .fault .noSuchAddress ∨ step s = .fault .noSuchUnit) ∧
  (∀ (s : State), s.schedule = [] →
    (match s.turn with | .core c => c < 128 | .folbel n => n < 64 | .fabric => True | .station d => d < 4) →
    step s ≠ .fault .noSuchUnit)

/-- R2, R69: every step keeps memory in its one canonical form: addresses rise, and no listed byte is 0. -/
def Obligations.MemoryStaysCanonical : Prop :=
  ∀ (s t : State), Memory.wf s.mem = true → step s = .next t → Memory.wf t.mem = true

/-- The reset values that the spec gives (R40, R78, R110, R178, R267, R308, R327, R347, R348, R364, R365, R368, R385, R416), and memory in its
canonical form. -/
def Obligations.ResetState : Prop :=
  Memory.wf State.reset.mem = true ∧
  (∀ q, State.reset.queue q = {}) ∧
  (∀ q, ((State.reset.queue q).base, (State.reset.queue q).ctl, (State.reset.queue q).write, (State.reset.queue q).read) = (0, 0, 0, 0)) ∧
  (∀ t, getZ State.reset.regs.asctx t = 0 ∧ (State.reset.handler t).busy = false ∧ (State.reset.handler t).ranges = []) ∧
  (∀ c, getZ State.reset.regs.cluown c = 0 ∧ (State.reset.core c).cycle = 0 ∧ (State.reset.core c).oob = 0 ∧
    (State.reset.core c).dropped = 0) ∧
  (∀ t i, i < 32 → homeAt State.reset t i = i) ∧
  (∀ d, (State.reset.station d).enabled = false ∧ fld (State.reset.station d).ctl 31 16 = 3000) ∧
  (∀ p, (portOf State.reset p).optown = 0 ∧ (portOf State.reset p).st = 0 ∧ (portOf State.reset p).pend = false) ∧
  (∀ off, off ∈ [0x4000, 0x4100, 0x4108, 0x4110, 0x4118, 0x4120, 0x4128, 0x4130, 0x4140, 0x4148] → readReg State.reset off = 0) ∧
  State.reset.regs.pwrCap = 3000

namespace Sys2Proof.Rules

/-- The fields of an extended form that are 0 but for D, A, B and TYPE. -/
def plainExt (d a b : BitVec 10) (typ : BitVec 5) : Ext :=
  { type2 := 0, pitch := 0, bm := 0, b, a, d, cols := 0, rows := 0, mod := 0, typ, c := 0 }

/-- A header with predicate p0, not inverted, and no stall. -/
def plainHdr : Hdr := { pneg := false, psel := 0, stall := 0 }

end Sys2Proof.Rules

/-- R143, R144, R146, R147, R159, R421: some words, written out from the tables of the spec, and the instructions they are. -/
def Obligations.DecodedWords : Prop :=
  decode [0x00000000] = .ok (.nop Rules.plainHdr, 1) ∧
  decode [0x0404000c] = .ok (.sadd Rules.plainHdr 1 2, 1) ∧
  decode [0x0406ac0c] = .ok (.sadd { pneg := true, psel := 5, stall := 3 } 1 2, 1) ∧
  decode [0x000c0006, 0x55667788, 0x11223344] = .ok (.sliExt Rules.plainHdr (.lit 3 0 0x1122334455667788), 3) ∧
  decode [0xfffc0080] = .ok (.bra Rules.plainHdr (-1), 1) ∧
  decode [0x000c00c0] = .ok (.elect Rules.plainHdr 3, 1) ∧
  decode [0x000000e1, 0x00601404, 0x00000800] = .ok (.vaddExt Rules.plainHdr (.ext (Rules.plainExt 4 5 6 2)), 3) ∧
  decode [0x00000299, 0x00000003, 0x00000000] = .ok (.tfree Rules.plainHdr (.ext (Rules.plainExt 3 0 0 0)), 3) ∧
  decode [0x000002c9, 0x00000008, 0x00000000] = .ok (.kpop Rules.plainHdr (.ext (Rules.plainExt 8 0 0 0)), 3) ∧
  decode [0x00000319, 0x00000000, 0x00000000] = .ok (.hend Rules.plainHdr (.ext (Rules.plainExt 0 0 0 0)), 3) ∧
  decode [0x0000035d, 0x00000005, 0x00000000] = .ok (.ctime Rules.plainHdr (.ext (Rules.plainExt 5 0 0 0)), 3) ∧
  (∀ w1 w2 w3 w4, decode [0xffffffff, w1, w2, w3, w4] = .error .reservedOpcode) ∧
  (∀ w, decode [0x000000e1, w] = .error .truncated)
end

