-- ==== Sys2Proof/Laws/Maps.lean ====
section
/-!
SUPPORT. The maps of the state: reading after writing, and the canonical form that every write keeps.
-/

namespace Sys2Proof.Laws

open Sys2Proof.Machine

/-- Reading the key that was put gives what was put. -/
@[simp] theorem getN_putN_same {α : Type} (m : NMap α) (i : Nat) (v : α) : getN (putN m i v) i = some v := by
  induction m with
  | nil => simp [putN, getN]
  | cons e m ih =>
    obtain ⟨k, w⟩ := e
    simp only [putN]
    split
    · simp [getN]
    · split
      · simp [getN]
      · have : k ≠ i := by omega
        simp [getN, this, ih]

/-- Putting one key leaves the others. -/
theorem getN_putN_ne {α : Type} (m : NMap α) (i j : Nat) (v : α) (h : i ≠ j) : getN (putN m i v) j = getN m j := by
  induction m with
  | nil => simp [putN, getN, h]
  | cons e m ih =>
    obtain ⟨k, w⟩ := e
    simp only [putN]
    split
    · simp [getN, h]
    · split
      · subst_vars; simp [getN, h]
      · simp [getN, ih]

/-- Putting a key twice is putting it last. -/
@[simp] theorem putN_putN {α : Type} (m : NMap α) (i : Nat) (v w : α) : putN (putN m i v) i w = putN m i w := by
  induction m with
  | nil => simp [putN]
  | cons e m ih =>
    obtain ⟨k, x⟩ := e
    simp only [putN]
    split
    · simp [putN]
    · split
      · simp [putN]
      · rename_i h1 h2
        simp [putN, h1, h2, ih]

/-- A wider canonical form. -/
theorem wfFrom_mono {w : Nat} {lo hi : Nat} {m : ZMap w} (h : wfFrom hi m = true) (l : lo ≤ hi) :
    wfFrom lo m = true := by
  cases m with
  | nil => rfl
  | cons e m =>
    obtain ⟨k, v⟩ := e
    simp only [wfFrom, Bool.and_eq_true, decide_eq_true_eq] at h ⊢
    exact ⟨⟨by omega, h.1.2⟩, h.2⟩

/-- Below the first key a canonical map reads 0. -/
theorem getZ_below {w : Nat} {lo i : Nat} {m : ZMap w} (h : wfFrom lo m = true) (l : i < lo) : getZ m i = 0 := by
  induction m generalizing lo with
  | nil => rfl
  | cons e m ih =>
    obtain ⟨k, v⟩ := e
    simp only [wfFrom, Bool.and_eq_true, decide_eq_true_eq] at h
    have : k ≠ i := by omega
    simp [getZ, this, ih h.2 (by omega)]

/-- Removing a key keeps the canonical form. -/
theorem wfFrom_delZ {w : Nat} {lo i : Nat} {m : ZMap w} (h : wfFrom lo m = true) : wfFrom lo (delZ m i) = true := by
  induction m generalizing lo with
  | nil => rfl
  | cons e m ih =>
    obtain ⟨k, v⟩ := e
    have h' := h
    simp only [wfFrom, Bool.and_eq_true, decide_eq_true_eq] at h'
    simp only [delZ]
    split
    · exact wfFrom_mono (ih h'.2) (by omega)
    · simp only [wfFrom, Bool.and_eq_true, decide_eq_true_eq]
      exact ⟨h'.1, ih h'.2⟩

/-- Inserting a value other than 0 at a key of the range keeps the canonical form. -/
theorem wfFrom_insZ {w : Nat} {lo i : Nat} {m : ZMap w} {v : BitVec w} (h : wfFrom lo m = true) (l : lo ≤ i)
    (hv : v ≠ 0) : wfFrom lo (insZ m i v) = true := by
  induction m generalizing lo with
  | nil => simpa [insZ, wfFrom, l] using hv
  | cons e m ih =>
    obtain ⟨k, x⟩ := e
    have h' := h
    simp only [wfFrom, Bool.and_eq_true, decide_eq_true_eq] at h'
    simp only [insZ]
    split
    · simp only [wfFrom, Bool.and_eq_true, decide_eq_true_eq]
      exact ⟨⟨l, hv⟩, ⟨by omega, h'.1.2⟩, h'.2⟩
    · split
      · subst_vars
        simp only [wfFrom, Bool.and_eq_true, decide_eq_true_eq]
        exact ⟨⟨l, hv⟩, h'.2⟩
      · simp only [wfFrom, Bool.and_eq_true, decide_eq_true_eq]
        exact ⟨h'.1, ih h'.2 (by omega)⟩

/-- Setting a key keeps the canonical form. -/
theorem wfFrom_setZ {w : Nat} {i : Nat} {m : ZMap w} {v : BitVec w} (h : wfFrom 0 m = true) :
    wfFrom 0 (setZ m i v) = true := by
  unfold setZ
  split
  · exact wfFrom_delZ h
  · exact wfFrom_insZ h (by omega) ‹_›

/-- Reading the key that was inserted. -/
theorem getZ_insZ_same {w : Nat} (m : ZMap w) (i : Nat) (v : BitVec w) : getZ (insZ m i v) i = v := by
  induction m with
  | nil => simp [insZ, getZ]
  | cons e m ih =>
    obtain ⟨k, x⟩ := e
    simp only [insZ]
    split
    · simp [getZ]
    · split
      · simp [getZ]
      · have : k ≠ i := by omega
        simp [getZ, this, ih]

/-- Inserting at one key leaves the others. -/
theorem getZ_insZ_ne {w : Nat} (m : ZMap w) (i j : Nat) (v : BitVec w) (h : i ≠ j) : getZ (insZ m i v) j = getZ m j := by
  induction m with
  | nil => simp [insZ, getZ, h]
  | cons e m ih =>
    obtain ⟨k, x⟩ := e
    simp only [insZ]
    split
    · simp [getZ, h]
    · split
      · subst_vars; simp [getZ, h]
      · simp [getZ, ih]

/-- A removed key reads 0. -/
@[simp] theorem getZ_delZ_same {w : Nat} (m : ZMap w) (i : Nat) : getZ (delZ m i) i = 0 := by
  induction m with
  | nil => rfl
  | cons e m ih =>
    obtain ⟨k, x⟩ := e
    simp only [delZ]
    split
    · exact ih
    · simp_all [getZ]

/-- Removing one key leaves the others. -/
theorem getZ_delZ_ne {w : Nat} (m : ZMap w) (i j : Nat) (h : i ≠ j) : getZ (delZ m i) j = getZ m j := by
  induction m with
  | nil => rfl
  | cons e m ih =>
    obtain ⟨k, x⟩ := e
    simp only [delZ]
    split
    · subst_vars; simp [getZ, h, ih]
    · simp [getZ, ih]

/-- Reading a key after setting it. -/
@[simp] theorem getZ_setZ_same {w : Nat} (m : ZMap w) (i : Nat) (v : BitVec w) : getZ (setZ m i v) i = v := by
  unfold setZ
  split
  · subst_vars; exact getZ_delZ_same m i
  · exact getZ_insZ_same m i v

/-- Setting one key leaves the others. -/
theorem getZ_setZ_ne {w : Nat} (m : ZMap w) (i j : Nat) (v : BitVec w) (h : i ≠ j) :
    getZ (setZ m i v) j = getZ m j := by
  unfold setZ
  split
  · exact getZ_delZ_ne m i j h
  · exact getZ_insZ_ne m i j v h

/-- A removed key has no entry. -/
@[simp] theorem getN_delN_same {α : Type} (m : NMap α) (i : Nat) : getN (delN m i) i = none := by
  induction m with
  | nil => rfl
  | cons e m ih =>
    obtain ⟨k, x⟩ := e
    simp only [delN]
    split
    · exact ih
    · simp_all [getN]

/-- Removing one key leaves the others. -/
theorem getN_delN_ne {α : Type} (m : NMap α) (i j : Nat) (h : i ≠ j) : getN (delN m i) j = getN m j := by
  induction m with
  | nil => rfl
  | cons e m ih =>
    obtain ⟨k, x⟩ := e
    simp only [delN]
    split
    · subst_vars; simp [getN, h, ih]
    · simp [getN, ih]

end Sys2Proof.Laws
end

