-- ==== Sys2Proof/Laws/Issue.lean ====
section
/-!
SUPPORT. One issue: what a group's issue and a context's issue answer once the checks pass.
-/

namespace Sys2Proof.Laws

open Sys2Proof.Machine

/-- A group's issue that passes the checks is the instruction's effect, or nothing where R58 holds the bundle. -/
theorem groupIssue_of_issues {opc : Nat} {h : Hdr} {f : Form} {g : Group} {s : State}
    (eff : Iss → Group → State → Option State) (hi : Issues opc h f g s) :
    groupIssue opc h f eff s =
      match eff (issueOf opc h f g s) g (s.begun g) with
      | none => s.setHeld
      | some t => issued g h s t := by
  obtain ⟨h1, h2, h3, h4, h5, h6, h7, h8⟩ := hi
  simp only [Cursor.key, activeOf, operands, inTrap] at h2 h3 h4 h5 h6 h7 h8
  unfold groupIssue
  simp only [h1, ne_eq, not_true_eq_false, if_false, h2, h3]
  erw [h4]
  simp only at *
  simp only [h5, h6, Bool.or_self, Bool.false_eq_true, if_false, h7, h8]
  rfl

/-- A context's issue that passes the checks is the instruction's effect. -/
theorem procIssue_of_runs {opc : Nat} {h : Hdr} {f : Form} {s : State} (eff : Opnd → Proc → State → PRes)
    (hr : Runs opc h f s) :
    procIssue opc h f eff s =
      match eff (opndOf opc f) (begunProc s) s with
      | .done p t => procRetire p h t
      | .wait t => t.setHeld
      | .fault c n a => procFault c n a s
      | .over t => t := by
  obtain ⟨h1, h2, h3, h4⟩ := hr
  unfold procIssue
  simp only [h1, if_false, h2, Bool.not_true, Bool.false_eq_true, h3, begunProc]
  by_cases hf : s.cur.seq = .folbel
  · simp only [hf, h4 hf, decide_true, decide_false, Bool.and_false, Bool.false_eq_true, if_false] <;> rfl
  · simp only [hf, decide_false, Bool.false_and, Bool.false_eq_true, if_false] <;> rfl

/-- The group that stands in the state in which an effect is computed. -/
@[simp] theorem begun_group (g : Group) (s : State) : (s.begun g).group s.cur.key = some (g.begun s) := by
  simp [State.begun, State.setGroup, State.group]

/-- An effect that changes the issuing group alone. -/
theorem issued_updGroup (g : Group) (h : Hdr) (s : State) (F : Group → Group) :
    issued g h s ((s.begun g).updGroup s.cur.key F) =
      s.setGroup s.cur.key ((F (g.begun s)).settle s.cur (g.bundle s.cur.lanes) h.stall.toNat) := by
  simp [issued, complete, State.updGroup, State.begun, State.setGroup, State.group]

/-- An effect that replaces the issuing group. -/
theorem issued_setGroup (g G : Group) (h : Hdr) (s : State) :
    issued g h s ((s.begun g).setGroup s.cur.key G) =
      s.setGroup s.cur.key (G.settle s.cur (g.bundle s.cur.lanes) h.stall.toNat) := by
  simp [issued, complete, State.updGroup, State.begun, State.setGroup, State.group]

/-- An effect that replaces the issuing group and holds the datapath. -/
theorem issued_hold (g G : Group) (h : Hdr) (s : State) (n : Nat) :
    issued g h s (holdDatapath n ((s.begun g).setGroup s.cur.key G)) =
      (holdDatapath n s).setGroup s.cur.key (G.settle s.cur (g.bundle s.cur.lanes) h.stall.toNat) := by
  simp [issued, complete, State.updGroup, State.begun, State.setGroup, State.group, holdDatapath, State.updCore, State.setCore,
    State.core]

/-- An effect that changes nothing: the bundle moves on. -/
theorem issued_begun (g : Group) (h : Hdr) (s : State) :
    issued g h s (s.begun g) =
      s.setGroup s.cur.key ((g.begun s).settle s.cur (g.bundle s.cur.lanes) h.stall.toNat) := by
  simp [issued, complete, State.updGroup, State.begun, State.setGroup, State.group]

end Sys2Proof.Laws
end

