-- ==== Sys2Proof/Laws/Vector.lean ====
section
/-!
SUPPORT. Vector instructions of a group without ports: what their shared effect does.
-/

namespace Sys2Proof.Laws

open Sys2Proof.Machine

/-- Reading registers that no port has taken. -/
theorem gather_plain (now : Nat) (regs : List Nat) (a : Gather) (h : a.g.binds = []) (hw : a.wait = none) :
    gather now a regs = { a with imgs := (regs.map (a.g.readVReg now)).reverse ++ a.imgs } := by
  unfold gather
  induction regs generalizing a with
  | nil => simp
  | cons r rs ih =>
    have e : gatherReg now a r = { a with imgs := a.g.readVReg now r :: a.imgs } := by simp [gatherReg, h, hw]
    rw [List.foldl_cons, e, ih { a with imgs := a.g.readVReg now r :: a.imgs } h hw]
    simp

/-- A register that no port has taken is written in the file. -/
theorem putReg_plain (now r : Nat) (ls : List (Nat × Nat)) (rd : Nat) (soft : Bool) (a : Gather) (h : a.g.binds = []) :
    putReg now r ls rd soft a = { a with g := a.g.writeV now r ls rd soft } := by simp [putReg, h]

/-- Writing one register changes the vector file and the notes of readiness. -/
theorem writeV_shape (g : Group) (now r : Nat) (ls : List (Nat × Nat)) (rd : Nat) (soft : Bool) :
    ∃ p sc bad, g.writeV now r ls rd soft =
      { g with vregs := putLanes g.vregs r ls, pend := p, score := sc, badRegs := bad } ∧ bad.Sublist g.badRegs :=
  ⟨_, _, _, rfl, List.filter_sublist⟩

/-- Marking registers changes the scoreboard alone. -/
theorem fold_mark (rs : List Nat) (x : W64) (t : Option Nat) (g : Group) :
    ∃ sc, rs.foldl (fun g r => g.mark 0 .v r x t) g = { g with score := sc } := by
  induction rs generalizing g with
  | nil => exact ⟨_, rfl⟩
  | cons r rs ih =>
    obtain ⟨sc, e⟩ := ih (g.mark 0 .v r x t)
    exact ⟨sc, by rw [List.foldl_cons, e]; rfl⟩

/-- Writing the registers of one position. -/
theorem fold_put (xs : List (List (Nat × Nat) × Nat)) (now rd base : Nat) (soft : Bool) (a : Gather) (h : a.g.binds = []) :
    ∃ p sc bad, xs.foldl (fun a x => putReg now (base + x.2) x.1 rd soft a) a =
      { a with g := { a.g with
          vregs := xs.foldl (fun m x => putLanes m (base + x.2) x.1) a.g.vregs
          pend := p
          score := sc
          badRegs := bad } } ∧ bad.Sublist a.g.badRegs := by
  induction xs generalizing a with
  | nil => exact ⟨_, _, _, rfl, List.Sublist.refl _⟩
  | cons x xs ih =>
    rw [List.foldl_cons, List.foldl_cons, putReg_plain _ _ _ _ _ _ h]
    obtain ⟨p0, sc0, b0, e0, s0⟩ := writeV_shape a.g now (base + x.2) x.1 rd soft
    rw [e0]
    obtain ⟨p, sc, b, e, s1⟩ := ih { a with g := { a.g with
      vregs := putLanes a.g.vregs (base + x.2) x.1
      pend := p0
      score := sc0
      badRegs := b0 } } h
    exact ⟨p, sc, b, by rw [e], s1.trans s0⟩

/-- Writing the registers of every position, in ascending position. -/
theorem fold_block (ks : List Nat) (src : Nat → List (List (Nat × Nat) × Nat)) (now : Nat) (rd base : Nat → Nat) (soft : Bool)
    (a : Gather) (h : a.g.binds = []) :
    ∃ p sc bad, ks.foldl (fun a k => (src k).foldl (fun a x => putReg now (base k + x.2) x.1 (rd k) soft a) a) a =
      { a with g := { a.g with
          vregs := ks.foldl (fun m k => (src k).foldl (fun m x => putLanes m (base k + x.2) x.1) m) a.g.vregs
          pend := p
          score := sc
          badRegs := bad } } ∧ bad.Sublist a.g.badRegs := by
  induction ks generalizing a with
  | nil => exact ⟨_, _, _, rfl, List.Sublist.refl _⟩
  | cons k ks ih =>
    rw [List.foldl_cons, List.foldl_cons]
    obtain ⟨p0, sc0, b0, e0, s0⟩ := fold_put (src k) now (rd k) (base k) soft a h
    rw [e0]
    obtain ⟨p, sc, b, e, s1⟩ := ih { a with g := { a.g with
      vregs := (src k).foldl (fun m x => putLanes m (base k + x.2) x.1) a.g.vregs
      pend := p0
      score := sc0
      badRegs := b0 } } h
    exact ⟨p, sc, b, by rw [e], s1.trans s0⟩

/-- The source lane values of a vector instruction of a group without ports (R148, R150). -/
def plainSources (o : Opnd) (asInt : Bool) (g : Group) (now : Nat) : Srcs :=
  { a := laneVals o .a ((readRegs o .a).map (g.readVReg now)), b := laneVals o .b ((readRegs o .b).map (g.readVReg now)),
    bEl := bElem o asInt (bScalar g now o), c := laneVals o .c ((readRegs o .c).map (g.readVReg now)) }

/-- The vector file after the positions of a result have been written in ascending order (R150). -/
def plainWrite (o : Opnd) (res : List (List (Nat × Nat))) (m : ZMap 32) : ZMap 32 :=
  (List.range o.n).foldl (fun m k => ((splitRegs (o.span .d) (res.getD k [])).zipIdx).foldl
    (fun m x => putLanes m (o.regAt .d k + x.2) x.1) m) m

/-- A group that stands in the state, put back without ports. -/
theorem ungather_plain (i : Iss) (a : Gather) (s : State) (h : a.g.binds = []) : ungather i a s = s.setGroup i.k a.g := by
  unfold ungather
  cases a.blk <;> simp [h]

/-- THE EFFECT OF A VECTOR INSTRUCTION without ports: the vector file, FPSTAT, the notes of readiness and the datapath. -/
theorem vectorEff_plain (asInt : Bool) (fn : Iss → Group → Srcs → VRes) (i : Iss) (g g1 : Group) (s : State)
    (hg : s.group i.k = some g1) (hb1 : g1.binds = []) (hr : g1.readVReg i.now = g.readVReg i.now) :
    ∃ p sc bad, vectorEff asInt fn i g s = some (holdDatapath i.o.clocks
      (s.setGroup i.k { g1 with
        vregs := plainWrite i.o (fn i g (plainSources i.o asInt g i.now)).1 g1.vregs
        fpstat := g1.fpstat ||| w64 ((fn i g (plainSources i.o asInt g i.now)).2 % 32)
        pend := p
        score := sc
        badRegs := bad })) ∧ bad.Sublist g1.badRegs := by
  have l1 : ∀ A B C : List (List Nat), (A ++ B ++ C).take A.length = A := by intro A B C; simp [List.append_assoc]
  have l2 : ∀ A B C : List (List Nat), ((A ++ B ++ C).drop A.length).take B.length = B := by
    intro A B C; simp [List.append_assoc]
  have l3 : ∀ A B C : List (List Nat), (A ++ B ++ C).drop (A.length + B.length) = C := by
    intro A B C; simp [List.append_assoc]
  have e1 := l1 ((readRegs i.o .a).map (g.readVReg i.now)) ((readRegs i.o .b).map (g.readVReg i.now))
    ((readRegs i.o .c).map (g.readVReg i.now))
  have e2 := l2 ((readRegs i.o .a).map (g.readVReg i.now)) ((readRegs i.o .b).map (g.readVReg i.now))
    ((readRegs i.o .c).map (g.readVReg i.now))
  have e3 := l3 ((readRegs i.o .a).map (g.readVReg i.now)) ((readRegs i.o .b).map (g.readVReg i.now))
    ((readRegs i.o .c).map (g.readVReg i.now))
  have hs : ∀ A B C : List Nat, ((List.map (g.readVReg i.now) (A ++ B ++ C)).reverse ++ []).reverse =
      A.map (g.readVReg i.now) ++ B.map (g.readVReg i.now) ++ C.map (g.readVReg i.now) := by simp
  simp only [List.length_map] at e1 e2 e3
  unfold vectorEff plainSources
  simp only [hg, Option.getD_some, gatherFor, gather_plain, hb1, hs, hr, e1, e2, e3]
  generalize fn i g _ = r
  obtain ⟨res, fl⟩ := r
  obtain ⟨p, sc, bad, e, sb⟩ := fold_block (List.range i.o.n) (fun k => (splitRegs (i.o.span .d) (res.getD k [])).zipIdx) i.now
    (fun k => match latency i.o.opc i.o.typ with
      | some l => readyClock i.now l (max (i.o.span .d) (max (i.o.span .a) 1)) k
      | none => i.now + max i.o.clocks (if i.o.typ = 11 then 24 else 12) + 1)
    (fun k => i.o.regAt .d k) (latency i.o.opc i.o.typ).isNone
    { g := g1
      blk := blockOf s g
      key := i.k
      lanes := s.cur.lanes
      imgs := ((readRegs i.o .a ++ readRegs i.o .b ++ readRegs i.o .c).map (g.readVReg i.now)).reverse ++ []
      errs := s.errs } hb1
  dsimp only
  erw [e]
  by_cases hsoft : (latency i.o.opc i.o.typ).isNone = true
  · simp only [hsoft, if_true]
    obtain ⟨sc', e'⟩ := fold_mark (List.map Prod.snd (i.o.regs Field.d)) i.act
      (some (i.now + max i.o.clocks (if i.o.typ = 11 then 24 else 12) + 1))
      { g1 with vregs := plainWrite i.o res g1.vregs, pend := p, score := sc, badRegs := bad }
    refine ⟨p, sc', bad, ?_, sb⟩
    erw [e', ungather_plain _ _ _ (by exact hb1)]
    simp only [hb1]
    rfl
  · refine ⟨p, sc, bad, ?_, sb⟩
    rw [if_neg hsoft, ungather_plain _ _ _ (by exact hb1)]
    simp only [hb1]
    rfl

/-- The first position of an operand of a group without ports, as lane values. -/
def plainFirst (o : Opnd) (f : Field) (g : Group) (now : Nat) : List Nat :=
  (laneVals o f ((readRegs o f).map (g.readVReg now))).headD []

/-- The effect of a comparison of a group without ports. -/
theorem compareEff_plain (rel : Opnd → Nat → Nat → Bool) (i : Iss) (g g1 : Group) (s : State) (hg : s.group i.k = some g1)
    (hb : g1.binds = []) (hr : g1.readVReg i.now = g.readVReg i.now) :
    compareEff rel i g s = some (holdDatapath i.o.clocks (s.setGroup i.k (g1.writeP i.now i.o.d i.act
      (maskOf ((lanesOf i.act).filter fun l => rel i.o ((plainFirst i.o .a g i.now).getD l 0)
        (match i.o.file .b with
          | .v => (plainFirst i.o .b g i.now).getD l 0
          | _ => bElem i.o false (bScalar g i.now i.o))))
      (readyClock i.now ((latency i.o.opc i.o.typ).getD 0) (i.o.span .a) 0)))) := by
  have l1 : ∀ A B : List (List Nat), (A ++ B).take A.length = A := by intro A B; simp
  have l2 : ∀ A B : List (List Nat), (A ++ B).drop A.length = B := by intro A B; simp
  have e1 := l1 ((readRegs i.o .a).map (g.readVReg i.now)) ((readRegs i.o .b).map (g.readVReg i.now))
  have e2 := l2 ((readRegs i.o .a).map (g.readVReg i.now)) ((readRegs i.o .b).map (g.readVReg i.now))
  simp only [List.length_map] at e1 e2
  unfold compareEff plainFirst
  simp only [gatherFor, hg, Option.getD_some, gather_plain, hb, hr, List.append_nil, List.reverse_reverse, List.map_append, e1, e2]
  rw [ungather_plain _ _ _ (by show (g1.writeP _ _ _ _ _).binds = []; unfold Group.writeP; split <;> exact hb)] <;> rfl

/-- The effect of `vballot` of a group without ports. -/
theorem ballotEff_plain (i : Iss) (g g1 : Group) (s : State) (hg : s.group i.k = some g1) (hb : g1.binds = [])
    (hr : g1.readVReg i.now = g.readVReg i.now) :
    ballotEff i g s = some (holdDatapath i.o.clocks (s.setGroup i.k (g1.writeS i.now i.o.d
      (maskOf ((lanesOf i.act).filter fun l => (plainFirst i.o .a g i.now).getD l 0 ≠ 0)) (readyClock i.now 6 1 0)))) := by
  unfold ballotEff plainFirst
  simp only [gatherFor, hg, Option.getD_some, gather_plain, hb, hr, List.append_nil, List.reverse_reverse]
  rw [ungather_plain _ _ _ (by exact hb)]

/-- Writing a predicate changes the predicate file and the notes of readiness. -/
theorem writeP_shape (g : Group) (now r : Nat) (lanes x : W64) (rd : Nat) :
    ∃ p sc bad, g.writeP now r lanes x rd =
      { g with pregs := if r = 0 then g.pregs else setZ g.pregs r ((getZ g.pregs r &&& ~~~lanes) ||| (x &&& lanes))
               pend := p
               score := sc
               badRegs := bad } ∧ bad.Sublist g.badRegs := by
  unfold Group.writeP
  split
  · exact ⟨_, _, _, rfl, List.Sublist.refl _⟩
  · exact ⟨_, _, _, rfl, List.filter_sublist⟩

/-- Writing a scalar register changes the scalar file and the notes of readiness. -/
theorem writeS_shape (g : Group) (now r : Nat) (x : W64) (rd : Nat) :
    ∃ p sc bad, g.writeS now r x rd = { g with sregs := setZ g.sregs r x, pend := p, score := sc, badRegs := bad } ∧
      bad.Sublist g.badRegs := ⟨_, _, _, rfl, List.filter_sublist⟩

end Sys2Proof.Laws
end

