-- ==== Sys2Proof/Laws/View.lean ====
section
/-!
SUPPORT. One operation for each opcode: what `exec` does, without the forms.
-/

namespace Sys2Proof.Laws

open Sys2Proof.Machine

/-- The operation of an opcode; 0xD1 is split by OPT and stands apart. -/
def opOf (opc : Nat) (h : Hdr) (f : Form) (s : State) : State :=
  match opc with
  | 0x00 => opNop h f s
  | 0x01 => opSli h f s
  | 0x02 => opSmov h f s
  | 0x03 => opSadd h f s
  | 0x04 => opSsub h f s
  | 0x05 => opSmul h f s
  | 0x06 => opSmulh h f s
  | 0x07 => opSdiv h f s
  | 0x08 => opSrem h f s
  | 0x09 => opSand h f s
  | 0x0a => opSor h f s
  | 0x0b => opSxor h f s
  | 0x0c => opSandn h f s
  | 0x0d => opSshl h f s
  | 0x0e => opSshr h f s
  | 0x0f => opSsra h f s
  | 0x10 => opSmin h f s
  | 0x11 => opSmax h f s
  | 0x12 => opScmp h f s
  | 0x13 => opSsel h f s
  | 0x14 => opSclz h f s
  | 0x15 => opSpopc h f s
  | 0x16 => opSbfx h f s
  | 0x17 => opSbfi h f s
  | 0x18 => opSld h f s
  | 0x19 => opSst h f s
  | 0x1a => opSread h f s
  | 0x1b => opSwrite h f s
  | 0x1c => opSfromv h f s
  | 0x1d => opSatom h f s
  | 0x20 => opBra h f s
  | 0x21 => opSbra h f s
  | 0x22 => opBrx h f s
  | 0x23 => opCall h f s
  | 0x24 => opCallx h f s
  | 0x25 => opRet h f s
  | 0x26 => opRset h f s
  | 0x27 => opRjoin h f s
  | 0x28 => opBar h f s
  | 0x29 => opExit h f s
  | 0x2a => opMon h f s
  | 0x2b => opMwait h f s
  | 0x2c => opTrap h f s
  | 0x2d => opYield h f s
  | 0x2e => opIfence h f s
  | 0x2f => opIcinv h f s
  | 0x30 => opElect h f s
  | 0x31 => opJmov h f s
  | 0x32 => opPlog h f s
  | 0x33 => opPmov h f s
  | 0x38 => opVadd h f s
  | 0x39 => opVsub h f s
  | 0x3a => opVmul h f s
  | 0x3b => opVmulh h f s
  | 0x3c => opVmad h f s
  | 0x3d => opVabs h f s
  | 0x3e => opVneg h f s
  | 0x3f => opVmin h f s
  | 0x40 => opVmax h f s
  | 0x41 => opVand h f s
  | 0x42 => opVor h f s
  | 0x43 => opVxor h f s
  | 0x44 => opVandn h f s
  | 0x45 => opVshl h f s
  | 0x46 => opVshr h f s
  | 0x47 => opVsra h f s
  | 0x48 => opVclz h f s
  | 0x49 => opVpopc h f s
  | 0x4a => opVbfx h f s
  | 0x4b => opVbfi h f s
  | 0x4c => opVcmp h f s
  | 0x4d => opVsel h f s
  | 0x4e => opVaddsat h f s
  | 0x4f => opVsubsat h f s
  | 0x50 => opVmov h f s
  | 0x51 => opVli h f s
  | 0x52 => opVfroms h f s
  | 0x53 => opVlane h f s
  | 0x58 => opVfadd h f s
  | 0x59 => opVfsub h f s
  | 0x5a => opVfmul h f s
  | 0x5b => opVfma h f s
  | 0x5c => opVfmin h f s
  | 0x5d => opVfmax h f s
  | 0x5e => opVfabs h f s
  | 0x5f => opVfneg h f s
  | 0x60 => opVfcmp h f s
  | 0x61 => opVfdiv h f s
  | 0x62 => opVfsqrt h f s
  | 0x63 => opVrcpa h f s
  | 0x64 => opVrsqa h f s
  | 0x65 => opVfexp2a h f s
  | 0x66 => opVflog2a h f s
  | 0x67 => opVfclass h f s
  | 0x68 => opVfround h f s
  | 0x69 => opVfldexp h f s
  | 0x70 => opVcvt h f s
  | 0x71 => opVquant h f s
  | 0x72 => opVdequant h f s
  | 0x73 => opVshfl h f s
  | 0x74 => opVrot h f s
  | 0x75 => opVbcast h f s
  | 0x76 => opVred h f s
  | 0x77 => opVscan h f s
  | 0x78 => opVballot h f s
  | 0x79 => opVcompact h f s
  | 0x80 => opLd h f s
  | 0x81 => opSt h f s
  | 0x82 => opLds h f s
  | 0x83 => opSts h f s
  | 0x84 => opAtom h f s
  | 0x85 => opAcas h f s
  | 0x86 => opAtoms h f s
  | 0x87 => opFence h f s
  | 0x88 => opStash h f s
  | 0x89 => opPref h f s
  | 0x8a => opCpy h f s
  | 0x8b => opMfill h f s
  | 0x8c => opXpush h f s
  | 0x8d => opXpull h f s
  | 0x8e => opCtrset h f s
  | 0x8f => opCtrwait h f s
  | 0x90 => opQcw h f s
  | 0x91 => opSbind h f s
  | 0x92 => opSunbind h f s
  | 0x93 => opStamp h f s
  | 0x94 => opStampw h f s
  | 0x95 => opMsend h f s
  | 0x96 => opQpost h f s
  | 0x97 => opMset h f s
  | 0xa0 => opMma h f s
  | 0xa1 => opTclr h f s
  | 0xa2 => opTrd h f s
  | 0xa3 => opTwr h f s
  | 0xa4 => opTst h f s
  | 0xa5 => opTld h f s
  | 0xa6 => opTfree h f s
  | 0xa7 => opQdual h f s
  | 0xa8 => opTwait h f s
  | 0xb0 => opSpawn h f s
  | 0xb1 => opKpush h f s
  | 0xb2 => opKpop h f s
  | 0xb3 => opKdone h f s
  | 0xb4 => opKcfg h f s
  | 0xb5 => opKstat h f s
  | 0xc0 => opHlrd h f s
  | 0xc1 => opHlwr h f s
  | 0xc2 => opHpref h f s
  | 0xc3 => opHresp h f s
  | 0xc4 => opHmsg h f s
  | 0xc5 => opHkpush h f s
  | 0xc6 => opHend h f s
  | 0xc7 => opHbudget h f s
  | 0xd0 => opCreq h f s
  | 0xd2 => opCbar h f s
  | 0xd3 => opCrel h f s
  | 0xd4 => opCstat h f s
  | 0xd5 => opEmsg h f s
  | 0xd6 => opErecv h f s
  | 0xd7 => opCtime h f s
  | 0xd8 => opCstamp h f s
  | 0xe0 => opRtrap h f s
  | 0xe1 => opPgmode h f s
  | 0xe2 => opTlbinv h f s
  | 0xe3 => opSleep h f s
  | _ => s

/-- Every form of an opcode is one operation. -/
theorem exec_of_view {i : Instr} {opc : Nat} {h : Hdr} {f : Form} (s : State) (hv : view i = some (opc, h, f)) (hd : opc ≠ 0xd1) :
    exec i s = .next (opOf opc h f s) := by
  cases i <;> cases hv <;>
    first | rfl | exact absurd rfl hd

end Sys2Proof.Laws
end

