-- ==== Sys2Proof/Laws/Groups.lean ====
section
/-!
SUPPORT. On a group every instruction but `exit` is one issue; on a sequencer without lanes every instruction is one issue of a
context, or of a class that groups alone execute.
-/

namespace Sys2Proof.Laws

open Sys2Proof.Machine

/-- An issue of a group's class on a sequencer without lanes is refused. -/
theorem groupIssue_proc {opc : Nat} (h : Hdr) (f : Form) (eff : Iss → Group → State → Option State) {s : State}
    (hs : s.cur.seq ≠ .group) : groupIssue opc h f eff s = if curBusy s then procFault cILLEGAL 0x02 0 s else s := by
  unfold groupIssue; rw [if_pos hs]

/-- `nop` is one issue. -/
theorem opNop_issue (h : Hdr) (f : Form) (s : State) (hs : s.cur.seq = .group) :
    ∃ eff, opNop h f s = groupIssue 0x00 h f eff s := by
  unfold opNop; rw [hs]; exact ⟨_, rfl⟩
/-- `nop` is one issue of a context. -/
theorem opNop_proc (h : Hdr) (f : Form) (s : State) (hs : s.cur.seq ≠ .group) :
    ∃ eff, opNop h f s = procIssue 0x00 h f eff s := by
  unfold opNop; cases hq : s.cur.seq <;> first | exact absurd hq hs | exact ⟨_, rfl⟩
/-- `sli` is one issue. -/
theorem opSli_issue (h : Hdr) (f : Form) (s : State) (hs : s.cur.seq = .group) :
    ∃ eff, opSli h f s = groupIssue 0x01 h f eff s := by
  unfold opSli scalarOp; rw [hs]; exact ⟨_, rfl⟩
/-- `sli` is one issue of a context. -/
theorem opSli_proc (h : Hdr) (f : Form) (s : State) (hs : s.cur.seq ≠ .group) :
    ∃ eff, opSli h f s = procIssue 0x01 h f eff s := by
  unfold opSli scalarOp; cases hq : s.cur.seq <;> first | exact absurd hq hs | exact ⟨_, rfl⟩
/-- `smov` is one issue. -/
theorem opSmov_issue (h : Hdr) (f : Form) (s : State) (hs : s.cur.seq = .group) :
    ∃ eff, opSmov h f s = groupIssue 0x02 h f eff s := by
  unfold opSmov scalarOp; rw [hs]; exact ⟨_, rfl⟩
/-- `smov` is one issue of a context. -/
theorem opSmov_proc (h : Hdr) (f : Form) (s : State) (hs : s.cur.seq ≠ .group) :
    ∃ eff, opSmov h f s = procIssue 0x02 h f eff s := by
  unfold opSmov scalarOp; cases hq : s.cur.seq <;> first | exact absurd hq hs | exact ⟨_, rfl⟩
/-- `sadd` is one issue. -/
theorem opSadd_issue (h : Hdr) (f : Form) (s : State) (hs : s.cur.seq = .group) :
    ∃ eff, opSadd h f s = groupIssue 0x03 h f eff s := by
  unfold opSadd scalarOp; rw [hs]; exact ⟨_, rfl⟩
/-- `sadd` is one issue of a context. -/
theorem opSadd_proc (h : Hdr) (f : Form) (s : State) (hs : s.cur.seq ≠ .group) :
    ∃ eff, opSadd h f s = procIssue 0x03 h f eff s := by
  unfold opSadd scalarOp; cases hq : s.cur.seq <;> first | exact absurd hq hs | exact ⟨_, rfl⟩
/-- `ssub` is one issue. -/
theorem opSsub_issue (h : Hdr) (f : Form) (s : State) (hs : s.cur.seq = .group) :
    ∃ eff, opSsub h f s = groupIssue 0x04 h f eff s := by
  unfold opSsub scalarOp; rw [hs]; exact ⟨_, rfl⟩
/-- `ssub` is one issue of a context. -/
theorem opSsub_proc (h : Hdr) (f : Form) (s : State) (hs : s.cur.seq ≠ .group) :
    ∃ eff, opSsub h f s = procIssue 0x04 h f eff s := by
  unfold opSsub scalarOp; cases hq : s.cur.seq <;> first | exact absurd hq hs | exact ⟨_, rfl⟩
/-- `smul` is one issue. -/
theorem opSmul_issue (h : Hdr) (f : Form) (s : State) (hs : s.cur.seq = .group) :
    ∃ eff, opSmul h f s = groupIssue 0x05 h f eff s := by
  unfold opSmul scalarOp; rw [hs]; exact ⟨_, rfl⟩
/-- `smul` is one issue of a context. -/
theorem opSmul_proc (h : Hdr) (f : Form) (s : State) (hs : s.cur.seq ≠ .group) :
    ∃ eff, opSmul h f s = procIssue 0x05 h f eff s := by
  unfold opSmul scalarOp; cases hq : s.cur.seq <;> first | exact absurd hq hs | exact ⟨_, rfl⟩
/-- `smulh` is one issue. -/
theorem opSmulh_issue (h : Hdr) (f : Form) (s : State) (hs : s.cur.seq = .group) :
    ∃ eff, opSmulh h f s = groupIssue 0x06 h f eff s := by
  unfold opSmulh scalarOp; rw [hs]; exact ⟨_, rfl⟩
/-- `smulh` is one issue of a context. -/
theorem opSmulh_proc (h : Hdr) (f : Form) (s : State) (hs : s.cur.seq ≠ .group) :
    ∃ eff, opSmulh h f s = procIssue 0x06 h f eff s := by
  unfold opSmulh scalarOp; cases hq : s.cur.seq <;> first | exact absurd hq hs | exact ⟨_, rfl⟩
/-- `sdiv` is one issue. -/
theorem opSdiv_issue (h : Hdr) (f : Form) (s : State) (hs : s.cur.seq = .group) :
    ∃ eff, opSdiv h f s = groupIssue 0x07 h f eff s := by
  unfold opSdiv scalarOp; rw [hs]; exact ⟨_, rfl⟩
/-- `sdiv` is one issue of a context. -/
theorem opSdiv_proc (h : Hdr) (f : Form) (s : State) (hs : s.cur.seq ≠ .group) :
    ∃ eff, opSdiv h f s = procIssue 0x07 h f eff s := by
  unfold opSdiv scalarOp; cases hq : s.cur.seq <;> first | exact absurd hq hs | exact ⟨_, rfl⟩
/-- `srem` is one issue. -/
theorem opSrem_issue (h : Hdr) (f : Form) (s : State) (hs : s.cur.seq = .group) :
    ∃ eff, opSrem h f s = groupIssue 0x08 h f eff s := by
  unfold opSrem scalarOp; rw [hs]; exact ⟨_, rfl⟩
/-- `srem` is one issue of a context. -/
theorem opSrem_proc (h : Hdr) (f : Form) (s : State) (hs : s.cur.seq ≠ .group) :
    ∃ eff, opSrem h f s = procIssue 0x08 h f eff s := by
  unfold opSrem scalarOp; cases hq : s.cur.seq <;> first | exact absurd hq hs | exact ⟨_, rfl⟩
/-- `sand` is one issue. -/
theorem opSand_issue (h : Hdr) (f : Form) (s : State) (hs : s.cur.seq = .group) :
    ∃ eff, opSand h f s = groupIssue 0x09 h f eff s := by
  unfold opSand scalarOp; rw [hs]; exact ⟨_, rfl⟩
/-- `sand` is one issue of a context. -/
theorem opSand_proc (h : Hdr) (f : Form) (s : State) (hs : s.cur.seq ≠ .group) :
    ∃ eff, opSand h f s = procIssue 0x09 h f eff s := by
  unfold opSand scalarOp; cases hq : s.cur.seq <;> first | exact absurd hq hs | exact ⟨_, rfl⟩
/-- `sor` is one issue. -/
theorem opSor_issue (h : Hdr) (f : Form) (s : State) (hs : s.cur.seq = .group) :
    ∃ eff, opSor h f s = groupIssue 0x0a h f eff s := by
  unfold opSor scalarOp; rw [hs]; exact ⟨_, rfl⟩
/-- `sor` is one issue of a context. -/
theorem opSor_proc (h : Hdr) (f : Form) (s : State) (hs : s.cur.seq ≠ .group) :
    ∃ eff, opSor h f s = procIssue 0x0a h f eff s := by
  unfold opSor scalarOp; cases hq : s.cur.seq <;> first | exact absurd hq hs | exact ⟨_, rfl⟩
/-- `sxor` is one issue. -/
theorem opSxor_issue (h : Hdr) (f : Form) (s : State) (hs : s.cur.seq = .group) :
    ∃ eff, opSxor h f s = groupIssue 0x0b h f eff s := by
  unfold opSxor scalarOp; rw [hs]; exact ⟨_, rfl⟩
/-- `sxor` is one issue of a context. -/
theorem opSxor_proc (h : Hdr) (f : Form) (s : State) (hs : s.cur.seq ≠ .group) :
    ∃ eff, opSxor h f s = procIssue 0x0b h f eff s := by
  unfold opSxor scalarOp; cases hq : s.cur.seq <;> first | exact absurd hq hs | exact ⟨_, rfl⟩
/-- `sandn` is one issue. -/
theorem opSandn_issue (h : Hdr) (f : Form) (s : State) (hs : s.cur.seq = .group) :
    ∃ eff, opSandn h f s = groupIssue 0x0c h f eff s := by
  unfold opSandn scalarOp; rw [hs]; exact ⟨_, rfl⟩
/-- `sandn` is one issue of a context. -/
theorem opSandn_proc (h : Hdr) (f : Form) (s : State) (hs : s.cur.seq ≠ .group) :
    ∃ eff, opSandn h f s = procIssue 0x0c h f eff s := by
  unfold opSandn scalarOp; cases hq : s.cur.seq <;> first | exact absurd hq hs | exact ⟨_, rfl⟩
/-- `sshl` is one issue. -/
theorem opSshl_issue (h : Hdr) (f : Form) (s : State) (hs : s.cur.seq = .group) :
    ∃ eff, opSshl h f s = groupIssue 0x0d h f eff s := by
  unfold opSshl scalarOp; rw [hs]; exact ⟨_, rfl⟩
/-- `sshl` is one issue of a context. -/
theorem opSshl_proc (h : Hdr) (f : Form) (s : State) (hs : s.cur.seq ≠ .group) :
    ∃ eff, opSshl h f s = procIssue 0x0d h f eff s := by
  unfold opSshl scalarOp; cases hq : s.cur.seq <;> first | exact absurd hq hs | exact ⟨_, rfl⟩
/-- `sshr` is one issue. -/
theorem opSshr_issue (h : Hdr) (f : Form) (s : State) (hs : s.cur.seq = .group) :
    ∃ eff, opSshr h f s = groupIssue 0x0e h f eff s := by
  unfold opSshr scalarOp; rw [hs]; exact ⟨_, rfl⟩
/-- `sshr` is one issue of a context. -/
theorem opSshr_proc (h : Hdr) (f : Form) (s : State) (hs : s.cur.seq ≠ .group) :
    ∃ eff, opSshr h f s = procIssue 0x0e h f eff s := by
  unfold opSshr scalarOp; cases hq : s.cur.seq <;> first | exact absurd hq hs | exact ⟨_, rfl⟩
/-- `ssra` is one issue. -/
theorem opSsra_issue (h : Hdr) (f : Form) (s : State) (hs : s.cur.seq = .group) :
    ∃ eff, opSsra h f s = groupIssue 0x0f h f eff s := by
  unfold opSsra scalarOp; rw [hs]; exact ⟨_, rfl⟩
/-- `ssra` is one issue of a context. -/
theorem opSsra_proc (h : Hdr) (f : Form) (s : State) (hs : s.cur.seq ≠ .group) :
    ∃ eff, opSsra h f s = procIssue 0x0f h f eff s := by
  unfold opSsra scalarOp; cases hq : s.cur.seq <;> first | exact absurd hq hs | exact ⟨_, rfl⟩
/-- `smin` is one issue. -/
theorem opSmin_issue (h : Hdr) (f : Form) (s : State) (hs : s.cur.seq = .group) :
    ∃ eff, opSmin h f s = groupIssue 0x10 h f eff s := by
  unfold opSmin scalarOp; rw [hs]; exact ⟨_, rfl⟩
/-- `smin` is one issue of a context. -/
theorem opSmin_proc (h : Hdr) (f : Form) (s : State) (hs : s.cur.seq ≠ .group) :
    ∃ eff, opSmin h f s = procIssue 0x10 h f eff s := by
  unfold opSmin scalarOp; cases hq : s.cur.seq <;> first | exact absurd hq hs | exact ⟨_, rfl⟩
/-- `smax` is one issue. -/
theorem opSmax_issue (h : Hdr) (f : Form) (s : State) (hs : s.cur.seq = .group) :
    ∃ eff, opSmax h f s = groupIssue 0x11 h f eff s := by
  unfold opSmax scalarOp; rw [hs]; exact ⟨_, rfl⟩
/-- `smax` is one issue of a context. -/
theorem opSmax_proc (h : Hdr) (f : Form) (s : State) (hs : s.cur.seq ≠ .group) :
    ∃ eff, opSmax h f s = procIssue 0x11 h f eff s := by
  unfold opSmax scalarOp; cases hq : s.cur.seq <;> first | exact absurd hq hs | exact ⟨_, rfl⟩
/-- `scmp` is one issue. -/
theorem opScmp_issue (h : Hdr) (f : Form) (s : State) (hs : s.cur.seq = .group) :
    ∃ eff, opScmp h f s = groupIssue 0x12 h f eff s := by
  unfold opScmp scalarOp; rw [hs]; exact ⟨_, rfl⟩
/-- `scmp` is one issue of a context. -/
theorem opScmp_proc (h : Hdr) (f : Form) (s : State) (hs : s.cur.seq ≠ .group) :
    ∃ eff, opScmp h f s = procIssue 0x12 h f eff s := by
  unfold opScmp scalarOp; cases hq : s.cur.seq <;> first | exact absurd hq hs | exact ⟨_, rfl⟩
/-- `ssel` is one issue. -/
theorem opSsel_issue (h : Hdr) (f : Form) (s : State) (hs : s.cur.seq = .group) :
    ∃ eff, opSsel h f s = groupIssue 0x13 h f eff s := by
  unfold opSsel scalarOp; rw [hs]; exact ⟨_, rfl⟩
/-- `ssel` is one issue of a context. -/
theorem opSsel_proc (h : Hdr) (f : Form) (s : State) (hs : s.cur.seq ≠ .group) :
    ∃ eff, opSsel h f s = procIssue 0x13 h f eff s := by
  unfold opSsel scalarOp; cases hq : s.cur.seq <;> first | exact absurd hq hs | exact ⟨_, rfl⟩
/-- `sclz` is one issue. -/
theorem opSclz_issue (h : Hdr) (f : Form) (s : State) (hs : s.cur.seq = .group) :
    ∃ eff, opSclz h f s = groupIssue 0x14 h f eff s := by
  unfold opSclz scalarOp; rw [hs]; exact ⟨_, rfl⟩
/-- `sclz` is one issue of a context. -/
theorem opSclz_proc (h : Hdr) (f : Form) (s : State) (hs : s.cur.seq ≠ .group) :
    ∃ eff, opSclz h f s = procIssue 0x14 h f eff s := by
  unfold opSclz scalarOp; cases hq : s.cur.seq <;> first | exact absurd hq hs | exact ⟨_, rfl⟩
/-- `spopc` is one issue. -/
theorem opSpopc_issue (h : Hdr) (f : Form) (s : State) (hs : s.cur.seq = .group) :
    ∃ eff, opSpopc h f s = groupIssue 0x15 h f eff s := by
  unfold opSpopc scalarOp; rw [hs]; exact ⟨_, rfl⟩
/-- `spopc` is one issue of a context. -/
theorem opSpopc_proc (h : Hdr) (f : Form) (s : State) (hs : s.cur.seq ≠ .group) :
    ∃ eff, opSpopc h f s = procIssue 0x15 h f eff s := by
  unfold opSpopc scalarOp; cases hq : s.cur.seq <;> first | exact absurd hq hs | exact ⟨_, rfl⟩
/-- `sbfx` is one issue. -/
theorem opSbfx_issue (h : Hdr) (f : Form) (s : State) (hs : s.cur.seq = .group) :
    ∃ eff, opSbfx h f s = groupIssue 0x16 h f eff s := by
  unfold opSbfx scalarOp; rw [hs]; exact ⟨_, rfl⟩
/-- `sbfx` is one issue of a context. -/
theorem opSbfx_proc (h : Hdr) (f : Form) (s : State) (hs : s.cur.seq ≠ .group) :
    ∃ eff, opSbfx h f s = procIssue 0x16 h f eff s := by
  unfold opSbfx scalarOp; cases hq : s.cur.seq <;> first | exact absurd hq hs | exact ⟨_, rfl⟩
/-- `sbfi` is one issue. -/
theorem opSbfi_issue (h : Hdr) (f : Form) (s : State) (hs : s.cur.seq = .group) :
    ∃ eff, opSbfi h f s = groupIssue 0x17 h f eff s := by
  unfold opSbfi scalarOp; rw [hs]; exact ⟨_, rfl⟩
/-- `sbfi` is one issue of a context. -/
theorem opSbfi_proc (h : Hdr) (f : Form) (s : State) (hs : s.cur.seq ≠ .group) :
    ∃ eff, opSbfi h f s = procIssue 0x17 h f eff s := by
  unfold opSbfi scalarOp; cases hq : s.cur.seq <;> first | exact absurd hq hs | exact ⟨_, rfl⟩
/-- `sld` is one issue. -/
theorem opSld_issue (h : Hdr) (f : Form) (s : State) (hs : s.cur.seq = .group) :
    ∃ eff, opSld h f s = groupIssue 0x18 h f eff s := by
  unfold opSld; rw [hs]; exact ⟨_, rfl⟩
/-- `sld` is one issue of a context. -/
theorem opSld_proc (h : Hdr) (f : Form) (s : State) (hs : s.cur.seq ≠ .group) :
    ∃ eff, opSld h f s = procIssue 0x18 h f eff s := by
  unfold opSld; cases hq : s.cur.seq <;> first | exact absurd hq hs | exact ⟨_, rfl⟩
/-- `sst` is one issue. -/
theorem opSst_issue (h : Hdr) (f : Form) (s : State) (hs : s.cur.seq = .group) :
    ∃ eff, opSst h f s = groupIssue 0x19 h f eff s := by
  unfold opSst; rw [hs]; exact ⟨_, rfl⟩
/-- `sst` is one issue of a context. -/
theorem opSst_proc (h : Hdr) (f : Form) (s : State) (hs : s.cur.seq ≠ .group) :
    ∃ eff, opSst h f s = procIssue 0x19 h f eff s := by
  unfold opSst; cases hq : s.cur.seq <;> first | exact absurd hq hs | exact ⟨_, rfl⟩
/-- `sread` is one issue. -/
theorem opSread_issue (h : Hdr) (f : Form) (s : State) (hs : s.cur.seq = .group) :
    ∃ eff, opSread h f s = groupIssue 0x1a h f eff s := by
  unfold opSread; rw [hs]; exact ⟨_, rfl⟩
/-- `sread` is one issue of a context. -/
theorem opSread_proc (h : Hdr) (f : Form) (s : State) (hs : s.cur.seq ≠ .group) :
    ∃ eff, opSread h f s = procIssue 0x1a h f eff s := by
  unfold opSread; cases hq : s.cur.seq <;> first | exact absurd hq hs | exact ⟨_, rfl⟩
/-- `swrite` is one issue. -/
theorem opSwrite_issue (h : Hdr) (f : Form) (s : State) (hs : s.cur.seq = .group) :
    ∃ eff, opSwrite h f s = groupIssue 0x1b h f eff s := by
  unfold opSwrite; rw [hs]; exact ⟨_, rfl⟩
/-- `swrite` is one issue of a context. -/
theorem opSwrite_proc (h : Hdr) (f : Form) (s : State) (hs : s.cur.seq ≠ .group) :
    ∃ eff, opSwrite h f s = procIssue 0x1b h f eff s := by
  unfold opSwrite; cases hq : s.cur.seq <;> first | exact absurd hq hs | exact ⟨_, rfl⟩
/-- `sfromv` is one issue. -/
theorem opSfromv_issue (h : Hdr) (f : Form) (s : State) (hs : s.cur.seq = .group) :
    ∃ eff, opSfromv h f s = groupIssue 0x1c h f eff s := by
  unfold opSfromv; rw [hs]; exact ⟨_, rfl⟩
/-- `sfromv` is one issue of a context. -/
theorem opSfromv_proc (h : Hdr) (f : Form) (s : State) (hs : s.cur.seq ≠ .group) :
    ∃ eff, opSfromv h f s = procIssue 0x1c h f eff s := by
  unfold opSfromv; cases hq : s.cur.seq <;> first | exact absurd hq hs | exact ⟨_, rfl⟩
/-- `satom` is one issue. -/
theorem opSatom_issue (h : Hdr) (f : Form) (s : State) (hs : s.cur.seq = .group) :
    ∃ eff, opSatom h f s = groupIssue 0x1d h f eff s := by
  unfold opSatom; rw [hs]; exact ⟨_, rfl⟩
/-- `satom` is one issue of a context. -/
theorem opSatom_proc (h : Hdr) (f : Form) (s : State) (hs : s.cur.seq ≠ .group) :
    ∃ eff, opSatom h f s = procIssue 0x1d h f eff s := by
  unfold opSatom; cases hq : s.cur.seq <;> first | exact absurd hq hs | exact ⟨_, rfl⟩
/-- `bra` is one issue. -/
theorem opBra_issue (h : Hdr) (f : Form) (s : State) (hs : s.cur.seq = .group) :
    ∃ eff, opBra h f s = groupIssue 0x20 h f eff s := by
  unfold opBra; rw [hs]; exact ⟨_, rfl⟩
/-- `bra` is one issue of a context. -/
theorem opBra_proc (h : Hdr) (f : Form) (s : State) (hs : s.cur.seq ≠ .group) :
    ∃ eff, opBra h f s = procIssue 0x20 h f eff s := by
  unfold opBra; cases hq : s.cur.seq <;> first | exact absurd hq hs | exact ⟨_, rfl⟩
/-- `sbra` is one issue. -/
theorem opSbra_issue (h : Hdr) (f : Form) (s : State) (hs : s.cur.seq = .group) :
    ∃ eff, opSbra h f s = groupIssue 0x21 h f eff s := by
  unfold opSbra; rw [hs]; exact ⟨_, rfl⟩
/-- `sbra` is one issue of a context. -/
theorem opSbra_proc (h : Hdr) (f : Form) (s : State) (hs : s.cur.seq ≠ .group) :
    ∃ eff, opSbra h f s = procIssue 0x21 h f eff s := by
  unfold opSbra; cases hq : s.cur.seq <;> first | exact absurd hq hs | exact ⟨_, rfl⟩
/-- `brx` is one issue. -/
theorem opBrx_issue (h : Hdr) (f : Form) (s : State) (hs : s.cur.seq = .group) :
    ∃ eff, opBrx h f s = groupIssue 0x22 h f eff s := by
  unfold opBrx; rw [hs]; exact ⟨_, rfl⟩
/-- `brx` is one issue of a context. -/
theorem opBrx_proc (h : Hdr) (f : Form) (s : State) (hs : s.cur.seq ≠ .group) :
    ∃ eff, opBrx h f s = procIssue 0x22 h f eff s := by
  unfold opBrx; cases hq : s.cur.seq <;> first | exact absurd hq hs | exact ⟨_, rfl⟩
/-- `call` is one issue. -/
theorem opCall_issue (h : Hdr) (f : Form) (s : State) (hs : s.cur.seq = .group) :
    ∃ eff, opCall h f s = groupIssue 0x23 h f eff s := by
  unfold opCall; rw [hs]; exact ⟨_, rfl⟩
/-- `call` is one issue of a context. -/
theorem opCall_proc (h : Hdr) (f : Form) (s : State) (hs : s.cur.seq ≠ .group) :
    ∃ eff, opCall h f s = procIssue 0x23 h f eff s := by
  unfold opCall; cases hq : s.cur.seq <;> first | exact absurd hq hs | exact ⟨_, rfl⟩
/-- `callx` is one issue. -/
theorem opCallx_issue (h : Hdr) (f : Form) (s : State) :
    ∃ eff, opCallx h f s = groupIssue 0x24 h f eff s := by
  exact ⟨_, rfl⟩
/-- `ret` is one issue. -/
theorem opRet_issue (h : Hdr) (f : Form) (s : State) (hs : s.cur.seq = .group) :
    ∃ eff, opRet h f s = groupIssue 0x25 h f eff s := by
  unfold opRet; rw [hs]; exact ⟨_, rfl⟩
/-- `ret` is one issue of a context. -/
theorem opRet_proc (h : Hdr) (f : Form) (s : State) (hs : s.cur.seq ≠ .group) :
    ∃ eff, opRet h f s = procIssue 0x25 h f eff s := by
  unfold opRet; cases hq : s.cur.seq <;> first | exact absurd hq hs | exact ⟨_, rfl⟩
/-- `rset` is one issue. -/
theorem opRset_issue (h : Hdr) (f : Form) (s : State) :
    ∃ eff, opRset h f s = groupIssue 0x26 h f eff s := by
  exact ⟨_, rfl⟩
/-- `rjoin` is one issue. -/
theorem opRjoin_issue (h : Hdr) (f : Form) (s : State) :
    ∃ eff, opRjoin h f s = groupIssue 0x27 h f eff s := by
  exact ⟨_, rfl⟩
/-- `bar` is one issue. -/
theorem opBar_issue (h : Hdr) (f : Form) (s : State) :
    ∃ eff, opBar h f s = groupIssue 0x28 h f eff s := by
  exact ⟨_, rfl⟩
/-- `mon` is one issue. -/
theorem opMon_issue (h : Hdr) (f : Form) (s : State) :
    ∃ eff, opMon h f s = groupIssue 0x2a h f eff s := by
  exact ⟨_, rfl⟩
/-- `mwait` is one issue. -/
theorem opMwait_issue (h : Hdr) (f : Form) (s : State) :
    ∃ eff, opMwait h f s = groupIssue 0x2b h f eff s := by
  exact ⟨_, rfl⟩
/-- `trap` is one issue. -/
theorem opTrap_issue (h : Hdr) (f : Form) (s : State) :
    ∃ eff, opTrap h f s = groupIssue 0x2c h f eff s := by
  exact ⟨_, rfl⟩
/-- `yield` is one issue. -/
theorem opYield_issue (h : Hdr) (f : Form) (s : State) :
    ∃ eff, opYield h f s = groupIssue 0x2d h f eff s := by
  exact ⟨_, rfl⟩
/-- `ifence` is one issue. -/
theorem opIfence_issue (h : Hdr) (f : Form) (s : State) :
    ∃ eff, opIfence h f s = groupIssue 0x2e h f eff s := by
  exact ⟨_, rfl⟩
/-- `icinv` is one issue. -/
theorem opIcinv_issue (h : Hdr) (f : Form) (s : State) :
    ∃ eff, opIcinv h f s = groupIssue 0x2f h f eff s := by
  exact ⟨_, rfl⟩
/-- `elect` is one issue. -/
theorem opElect_issue (h : Hdr) (f : Form) (s : State) :
    ∃ eff, opElect h f s = groupIssue 0x30 h f eff s := by
  exact ⟨_, rfl⟩
/-- `jmov` is one issue. -/
theorem opJmov_issue (h : Hdr) (f : Form) (s : State) :
    ∃ eff, opJmov h f s = groupIssue 0x31 h f eff s := by
  exact ⟨_, rfl⟩
/-- `plog` is one issue. -/
theorem opPlog_issue (h : Hdr) (f : Form) (s : State) :
    ∃ eff, opPlog h f s = groupIssue 0x32 h f eff s := by
  exact ⟨_, rfl⟩
/-- `pmov` is one issue. -/
theorem opPmov_issue (h : Hdr) (f : Form) (s : State) :
    ∃ eff, opPmov h f s = groupIssue 0x33 h f eff s := by
  exact ⟨_, rfl⟩
/-- `vadd` is one issue. -/
theorem opVadd_issue (h : Hdr) (f : Form) (s : State) :
    ∃ eff, opVadd h f s = groupIssue 0x38 h f eff s := by
  exact ⟨_, rfl⟩
/-- `vsub` is one issue. -/
theorem opVsub_issue (h : Hdr) (f : Form) (s : State) :
    ∃ eff, opVsub h f s = groupIssue 0x39 h f eff s := by
  exact ⟨_, rfl⟩
/-- `vmul` is one issue. -/
theorem opVmul_issue (h : Hdr) (f : Form) (s : State) :
    ∃ eff, opVmul h f s = groupIssue 0x3a h f eff s := by
  exact ⟨_, rfl⟩
/-- `vmulh` is one issue. -/
theorem opVmulh_issue (h : Hdr) (f : Form) (s : State) :
    ∃ eff, opVmulh h f s = groupIssue 0x3b h f eff s := by
  exact ⟨_, rfl⟩
/-- `vmad` is one issue. -/
theorem opVmad_issue (h : Hdr) (f : Form) (s : State) :
    ∃ eff, opVmad h f s = groupIssue 0x3c h f eff s := by
  exact ⟨_, rfl⟩
/-- `vabs` is one issue. -/
theorem opVabs_issue (h : Hdr) (f : Form) (s : State) :
    ∃ eff, opVabs h f s = groupIssue 0x3d h f eff s := by
  exact ⟨_, rfl⟩
/-- `vneg` is one issue. -/
theorem opVneg_issue (h : Hdr) (f : Form) (s : State) :
    ∃ eff, opVneg h f s = groupIssue 0x3e h f eff s := by
  exact ⟨_, rfl⟩
/-- `vmin` is one issue. -/
theorem opVmin_issue (h : Hdr) (f : Form) (s : State) :
    ∃ eff, opVmin h f s = groupIssue 0x3f h f eff s := by
  exact ⟨_, rfl⟩
/-- `vmax` is one issue. -/
theorem opVmax_issue (h : Hdr) (f : Form) (s : State) :
    ∃ eff, opVmax h f s = groupIssue 0x40 h f eff s := by
  exact ⟨_, rfl⟩
/-- `vand` is one issue. -/
theorem opVand_issue (h : Hdr) (f : Form) (s : State) :
    ∃ eff, opVand h f s = groupIssue 0x41 h f eff s := by
  exact ⟨_, rfl⟩
/-- `vor` is one issue. -/
theorem opVor_issue (h : Hdr) (f : Form) (s : State) :
    ∃ eff, opVor h f s = groupIssue 0x42 h f eff s := by
  exact ⟨_, rfl⟩
/-- `vxor` is one issue. -/
theorem opVxor_issue (h : Hdr) (f : Form) (s : State) :
    ∃ eff, opVxor h f s = groupIssue 0x43 h f eff s := by
  exact ⟨_, rfl⟩
/-- `vandn` is one issue. -/
theorem opVandn_issue (h : Hdr) (f : Form) (s : State) :
    ∃ eff, opVandn h f s = groupIssue 0x44 h f eff s := by
  exact ⟨_, rfl⟩
/-- `vshl` is one issue. -/
theorem opVshl_issue (h : Hdr) (f : Form) (s : State) :
    ∃ eff, opVshl h f s = groupIssue 0x45 h f eff s := by
  exact ⟨_, rfl⟩
/-- `vshr` is one issue. -/
theorem opVshr_issue (h : Hdr) (f : Form) (s : State) :
    ∃ eff, opVshr h f s = groupIssue 0x46 h f eff s := by
  exact ⟨_, rfl⟩
/-- `vsra` is one issue. -/
theorem opVsra_issue (h : Hdr) (f : Form) (s : State) :
    ∃ eff, opVsra h f s = groupIssue 0x47 h f eff s := by
  exact ⟨_, rfl⟩
/-- `vclz` is one issue. -/
theorem opVclz_issue (h : Hdr) (f : Form) (s : State) :
    ∃ eff, opVclz h f s = groupIssue 0x48 h f eff s := by
  exact ⟨_, rfl⟩
/-- `vpopc` is one issue. -/
theorem opVpopc_issue (h : Hdr) (f : Form) (s : State) :
    ∃ eff, opVpopc h f s = groupIssue 0x49 h f eff s := by
  exact ⟨_, rfl⟩
/-- `vbfx` is one issue. -/
theorem opVbfx_issue (h : Hdr) (f : Form) (s : State) :
    ∃ eff, opVbfx h f s = groupIssue 0x4a h f eff s := by
  exact ⟨_, rfl⟩
/-- `vbfi` is one issue. -/
theorem opVbfi_issue (h : Hdr) (f : Form) (s : State) :
    ∃ eff, opVbfi h f s = groupIssue 0x4b h f eff s := by
  exact ⟨_, rfl⟩
/-- `vcmp` is one issue. -/
theorem opVcmp_issue (h : Hdr) (f : Form) (s : State) :
    ∃ eff, opVcmp h f s = groupIssue 0x4c h f eff s := by
  exact ⟨_, rfl⟩
/-- `vsel` is one issue. -/
theorem opVsel_issue (h : Hdr) (f : Form) (s : State) :
    ∃ eff, opVsel h f s = groupIssue 0x4d h f eff s := by
  exact ⟨_, rfl⟩
/-- `vaddsat` is one issue. -/
theorem opVaddsat_issue (h : Hdr) (f : Form) (s : State) :
    ∃ eff, opVaddsat h f s = groupIssue 0x4e h f eff s := by
  exact ⟨_, rfl⟩
/-- `vsubsat` is one issue. -/
theorem opVsubsat_issue (h : Hdr) (f : Form) (s : State) :
    ∃ eff, opVsubsat h f s = groupIssue 0x4f h f eff s := by
  exact ⟨_, rfl⟩
/-- `vmov` is one issue. -/
theorem opVmov_issue (h : Hdr) (f : Form) (s : State) :
    ∃ eff, opVmov h f s = groupIssue 0x50 h f eff s := by
  exact ⟨_, rfl⟩
/-- `vli` is one issue. -/
theorem opVli_issue (h : Hdr) (f : Form) (s : State) :
    ∃ eff, opVli h f s = groupIssue 0x51 h f eff s := by
  exact ⟨_, rfl⟩
/-- `vfroms` is one issue. -/
theorem opVfroms_issue (h : Hdr) (f : Form) (s : State) :
    ∃ eff, opVfroms h f s = groupIssue 0x52 h f eff s := by
  exact ⟨_, rfl⟩
/-- `vlane` is one issue. -/
theorem opVlane_issue (h : Hdr) (f : Form) (s : State) :
    ∃ eff, opVlane h f s = groupIssue 0x53 h f eff s := by
  exact ⟨_, rfl⟩
/-- `vfadd` is one issue. -/
theorem opVfadd_issue (h : Hdr) (f : Form) (s : State) :
    ∃ eff, opVfadd h f s = groupIssue 0x58 h f eff s := by
  exact ⟨_, rfl⟩
/-- `vfsub` is one issue. -/
theorem opVfsub_issue (h : Hdr) (f : Form) (s : State) :
    ∃ eff, opVfsub h f s = groupIssue 0x59 h f eff s := by
  exact ⟨_, rfl⟩
/-- `vfmul` is one issue. -/
theorem opVfmul_issue (h : Hdr) (f : Form) (s : State) :
    ∃ eff, opVfmul h f s = groupIssue 0x5a h f eff s := by
  exact ⟨_, rfl⟩
/-- `vfma` is one issue. -/
theorem opVfma_issue (h : Hdr) (f : Form) (s : State) :
    ∃ eff, opVfma h f s = groupIssue 0x5b h f eff s := by
  exact ⟨_, rfl⟩
/-- `vfmin` is one issue. -/
theorem opVfmin_issue (h : Hdr) (f : Form) (s : State) :
    ∃ eff, opVfmin h f s = groupIssue 0x5c h f eff s := by
  exact ⟨_, rfl⟩
/-- `vfmax` is one issue. -/
theorem opVfmax_issue (h : Hdr) (f : Form) (s : State) :
    ∃ eff, opVfmax h f s = groupIssue 0x5d h f eff s := by
  exact ⟨_, rfl⟩
/-- `vfabs` is one issue. -/
theorem opVfabs_issue (h : Hdr) (f : Form) (s : State) :
    ∃ eff, opVfabs h f s = groupIssue 0x5e h f eff s := by
  exact ⟨_, rfl⟩
/-- `vfneg` is one issue. -/
theorem opVfneg_issue (h : Hdr) (f : Form) (s : State) :
    ∃ eff, opVfneg h f s = groupIssue 0x5f h f eff s := by
  exact ⟨_, rfl⟩
/-- `vfcmp` is one issue. -/
theorem opVfcmp_issue (h : Hdr) (f : Form) (s : State) :
    ∃ eff, opVfcmp h f s = groupIssue 0x60 h f eff s := by
  exact ⟨_, rfl⟩
/-- `vfdiv` is one issue. -/
theorem opVfdiv_issue (h : Hdr) (f : Form) (s : State) :
    ∃ eff, opVfdiv h f s = groupIssue 0x61 h f eff s := by
  exact ⟨_, rfl⟩
/-- `vfsqrt` is one issue. -/
theorem opVfsqrt_issue (h : Hdr) (f : Form) (s : State) :
    ∃ eff, opVfsqrt h f s = groupIssue 0x62 h f eff s := by
  exact ⟨_, rfl⟩
/-- `vrcpa` is one issue. -/
theorem opVrcpa_issue (h : Hdr) (f : Form) (s : State) :
    ∃ eff, opVrcpa h f s = groupIssue 0x63 h f eff s := by
  exact ⟨_, rfl⟩
/-- `vrsqa` is one issue. -/
theorem opVrsqa_issue (h : Hdr) (f : Form) (s : State) :
    ∃ eff, opVrsqa h f s = groupIssue 0x64 h f eff s := by
  exact ⟨_, rfl⟩
/-- `vfexp2a` is one issue. -/
theorem opVfexp2a_issue (h : Hdr) (f : Form) (s : State) :
    ∃ eff, opVfexp2a h f s = groupIssue 0x65 h f eff s := by
  exact ⟨_, rfl⟩
/-- `vflog2a` is one issue. -/
theorem opVflog2a_issue (h : Hdr) (f : Form) (s : State) :
    ∃ eff, opVflog2a h f s = groupIssue 0x66 h f eff s := by
  exact ⟨_, rfl⟩
/-- `vfclass` is one issue. -/
theorem opVfclass_issue (h : Hdr) (f : Form) (s : State) :
    ∃ eff, opVfclass h f s = groupIssue 0x67 h f eff s := by
  exact ⟨_, rfl⟩
/-- `vfround` is one issue. -/
theorem opVfround_issue (h : Hdr) (f : Form) (s : State) :
    ∃ eff, opVfround h f s = groupIssue 0x68 h f eff s := by
  exact ⟨_, rfl⟩
/-- `vfldexp` is one issue. -/
theorem opVfldexp_issue (h : Hdr) (f : Form) (s : State) :
    ∃ eff, opVfldexp h f s = groupIssue 0x69 h f eff s := by
  exact ⟨_, rfl⟩
/-- `vcvt` is one issue. -/
theorem opVcvt_issue (h : Hdr) (f : Form) (s : State) :
    ∃ eff, opVcvt h f s = groupIssue 0x70 h f eff s := by
  exact ⟨_, rfl⟩
/-- `vquant` is one issue. -/
theorem opVquant_issue (h : Hdr) (f : Form) (s : State) :
    ∃ eff, opVquant h f s = groupIssue 0x71 h f eff s := by
  exact ⟨_, rfl⟩
/-- `vdequant` is one issue. -/
theorem opVdequant_issue (h : Hdr) (f : Form) (s : State) :
    ∃ eff, opVdequant h f s = groupIssue 0x72 h f eff s := by
  exact ⟨_, rfl⟩
/-- `vshfl` is one issue. -/
theorem opVshfl_issue (h : Hdr) (f : Form) (s : State) :
    ∃ eff, opVshfl h f s = groupIssue 0x73 h f eff s := by
  exact ⟨_, rfl⟩
/-- `vrot` is one issue. -/
theorem opVrot_issue (h : Hdr) (f : Form) (s : State) :
    ∃ eff, opVrot h f s = groupIssue 0x74 h f eff s := by
  exact ⟨_, rfl⟩
/-- `vbcast` is one issue. -/
theorem opVbcast_issue (h : Hdr) (f : Form) (s : State) :
    ∃ eff, opVbcast h f s = groupIssue 0x75 h f eff s := by
  exact ⟨_, rfl⟩
/-- `vred` is one issue. -/
theorem opVred_issue (h : Hdr) (f : Form) (s : State) :
    ∃ eff, opVred h f s = groupIssue 0x76 h f eff s := by
  exact ⟨_, rfl⟩
/-- `vscan` is one issue. -/
theorem opVscan_issue (h : Hdr) (f : Form) (s : State) :
    ∃ eff, opVscan h f s = groupIssue 0x77 h f eff s := by
  exact ⟨_, rfl⟩
/-- `vballot` is one issue. -/
theorem opVballot_issue (h : Hdr) (f : Form) (s : State) :
    ∃ eff, opVballot h f s = groupIssue 0x78 h f eff s := by
  exact ⟨_, rfl⟩
/-- `vcompact` is one issue. -/
theorem opVcompact_issue (h : Hdr) (f : Form) (s : State) :
    ∃ eff, opVcompact h f s = groupIssue 0x79 h f eff s := by
  exact ⟨_, rfl⟩
/-- `ld` is one issue. -/
theorem opLd_issue (h : Hdr) (f : Form) (s : State) :
    ∃ eff, opLd h f s = groupIssue 0x80 h f eff s := by
  exact ⟨_, rfl⟩
/-- `st` is one issue. -/
theorem opSt_issue (h : Hdr) (f : Form) (s : State) :
    ∃ eff, opSt h f s = groupIssue 0x81 h f eff s := by
  exact ⟨_, rfl⟩
/-- `lds` is one issue. -/
theorem opLds_issue (h : Hdr) (f : Form) (s : State) :
    ∃ eff, opLds h f s = groupIssue 0x82 h f eff s := by
  exact ⟨_, rfl⟩
/-- `sts` is one issue. -/
theorem opSts_issue (h : Hdr) (f : Form) (s : State) :
    ∃ eff, opSts h f s = groupIssue 0x83 h f eff s := by
  exact ⟨_, rfl⟩
/-- `atom` is one issue. -/
theorem opAtom_issue (h : Hdr) (f : Form) (s : State) :
    ∃ eff, opAtom h f s = groupIssue 0x84 h f eff s := by
  exact ⟨_, rfl⟩
/-- `acas` is one issue. -/
theorem opAcas_issue (h : Hdr) (f : Form) (s : State) :
    ∃ eff, opAcas h f s = groupIssue 0x85 h f eff s := by
  exact ⟨_, rfl⟩
/-- `atoms` is one issue. -/
theorem opAtoms_issue (h : Hdr) (f : Form) (s : State) :
    ∃ eff, opAtoms h f s = groupIssue 0x86 h f eff s := by
  exact ⟨_, rfl⟩
/-- `fence` is one issue. -/
theorem opFence_issue (h : Hdr) (f : Form) (s : State) :
    ∃ eff, opFence h f s = groupIssue 0x87 h f eff s := by
  exact ⟨_, rfl⟩
/-- `stash` is one issue. -/
theorem opStash_issue (h : Hdr) (f : Form) (s : State) :
    ∃ eff, opStash h f s = groupIssue 0x88 h f eff s := by
  exact ⟨_, rfl⟩
/-- `pref` is one issue. -/
theorem opPref_issue (h : Hdr) (f : Form) (s : State) :
    ∃ eff, opPref h f s = groupIssue 0x89 h f eff s := by
  exact ⟨_, rfl⟩
/-- `cpy` is one issue. -/
theorem opCpy_issue (h : Hdr) (f : Form) (s : State) :
    ∃ eff, opCpy h f s = groupIssue 0x8a h f eff s := by
  exact ⟨_, rfl⟩
/-- `mfill` is one issue. -/
theorem opMfill_issue (h : Hdr) (f : Form) (s : State) :
    ∃ eff, opMfill h f s = groupIssue 0x8b h f eff s := by
  exact ⟨_, rfl⟩
/-- `xpush` is one issue. -/
theorem opXpush_issue (h : Hdr) (f : Form) (s : State) :
    ∃ eff, opXpush h f s = groupIssue 0x8c h f eff s := by
  exact ⟨_, rfl⟩
/-- `xpull` is one issue. -/
theorem opXpull_issue (h : Hdr) (f : Form) (s : State) :
    ∃ eff, opXpull h f s = groupIssue 0x8d h f eff s := by
  exact ⟨_, rfl⟩
/-- `ctrset` is one issue. -/
theorem opCtrset_issue (h : Hdr) (f : Form) (s : State) :
    ∃ eff, opCtrset h f s = groupIssue 0x8e h f eff s := by
  exact ⟨_, rfl⟩
/-- `ctrwait` is one issue. -/
theorem opCtrwait_issue (h : Hdr) (f : Form) (s : State) :
    ∃ eff, opCtrwait h f s = groupIssue 0x8f h f eff s := by
  exact ⟨_, rfl⟩
/-- `qcw` is one issue. -/
theorem opQcw_issue (h : Hdr) (f : Form) (s : State) :
    ∃ eff, opQcw h f s = groupIssue 0x90 h f eff s := by
  exact ⟨_, rfl⟩
/-- `sbind` is one issue. -/
theorem opSbind_issue (h : Hdr) (f : Form) (s : State) :
    ∃ eff, opSbind h f s = groupIssue 0x91 h f eff s := by
  exact ⟨_, rfl⟩
/-- `sunbind` is one issue. -/
theorem opSunbind_issue (h : Hdr) (f : Form) (s : State) :
    ∃ eff, opSunbind h f s = groupIssue 0x92 h f eff s := by
  exact ⟨_, rfl⟩
/-- `stamp` is one issue. -/
theorem opStamp_issue (h : Hdr) (f : Form) (s : State) :
    ∃ eff, opStamp h f s = groupIssue 0x93 h f eff s := by
  exact ⟨_, rfl⟩
/-- `stampw` is one issue. -/
theorem opStampw_issue (h : Hdr) (f : Form) (s : State) :
    ∃ eff, opStampw h f s = groupIssue 0x94 h f eff s := by
  exact ⟨_, rfl⟩
/-- `msend` is one issue. -/
theorem opMsend_issue (h : Hdr) (f : Form) (s : State) :
    ∃ eff, opMsend h f s = groupIssue 0x95 h f eff s := by
  exact ⟨_, rfl⟩
/-- `qpost` is one issue. -/
theorem opQpost_issue (h : Hdr) (f : Form) (s : State) :
    ∃ eff, opQpost h f s = groupIssue 0x96 h f eff s := by
  exact ⟨_, rfl⟩
/-- `mset` is one issue. -/
theorem opMset_issue (h : Hdr) (f : Form) (s : State) :
    ∃ eff, opMset h f s = groupIssue 0x97 h f eff s := by
  exact ⟨_, rfl⟩
/-- `mma` is one issue. -/
theorem opMma_issue (h : Hdr) (f : Form) (s : State) :
    ∃ eff, opMma h f s = groupIssue 0xa0 h f eff s := by
  exact ⟨_, rfl⟩
/-- `tclr` is one issue. -/
theorem opTclr_issue (h : Hdr) (f : Form) (s : State) :
    ∃ eff, opTclr h f s = groupIssue 0xa1 h f eff s := by
  exact ⟨_, rfl⟩
/-- `trd` is one issue. -/
theorem opTrd_issue (h : Hdr) (f : Form) (s : State) :
    ∃ eff, opTrd h f s = groupIssue 0xa2 h f eff s := by
  exact ⟨_, rfl⟩
/-- `twr` is one issue. -/
theorem opTwr_issue (h : Hdr) (f : Form) (s : State) :
    ∃ eff, opTwr h f s = groupIssue 0xa3 h f eff s := by
  exact ⟨_, rfl⟩
/-- `tst` is one issue. -/
theorem opTst_issue (h : Hdr) (f : Form) (s : State) :
    ∃ eff, opTst h f s = groupIssue 0xa4 h f eff s := by
  exact ⟨_, rfl⟩
/-- `tld` is one issue. -/
theorem opTld_issue (h : Hdr) (f : Form) (s : State) :
    ∃ eff, opTld h f s = groupIssue 0xa5 h f eff s := by
  exact ⟨_, rfl⟩
/-- `tfree` is one issue. -/
theorem opTfree_issue (h : Hdr) (f : Form) (s : State) :
    ∃ eff, opTfree h f s = groupIssue 0xa6 h f eff s := by
  exact ⟨_, rfl⟩
/-- `qdual` is one issue. -/
theorem opQdual_issue (h : Hdr) (f : Form) (s : State) :
    ∃ eff, opQdual h f s = groupIssue 0xa7 h f eff s := by
  exact ⟨_, rfl⟩
/-- `twait` is one issue. -/
theorem opTwait_issue (h : Hdr) (f : Form) (s : State) :
    ∃ eff, opTwait h f s = groupIssue 0xa8 h f eff s := by
  exact ⟨_, rfl⟩
/-- `spawn` is one issue. -/
theorem opSpawn_issue (h : Hdr) (f : Form) (s : State) :
    ∃ eff, opSpawn h f s = groupIssue 0xb0 h f eff s := by
  exact ⟨_, rfl⟩
/-- `kpush` is one issue. -/
theorem opKpush_issue (h : Hdr) (f : Form) (s : State) :
    ∃ eff, opKpush h f s = groupIssue 0xb1 h f eff s := by
  exact ⟨_, rfl⟩
/-- `kpop` is one issue. -/
theorem opKpop_issue (h : Hdr) (f : Form) (s : State) :
    ∃ eff, opKpop h f s = groupIssue 0xb2 h f eff s := by
  exact ⟨_, rfl⟩
/-- `kdone` is one issue. -/
theorem opKdone_issue (h : Hdr) (f : Form) (s : State) :
    ∃ eff, opKdone h f s = groupIssue 0xb3 h f eff s := by
  exact ⟨_, rfl⟩
/-- `kcfg` is one issue. -/
theorem opKcfg_issue (h : Hdr) (f : Form) (s : State) :
    ∃ eff, opKcfg h f s = groupIssue 0xb4 h f eff s := by
  exact ⟨_, rfl⟩
/-- `kstat` is one issue. -/
theorem opKstat_issue (h : Hdr) (f : Form) (s : State) :
    ∃ eff, opKstat h f s = groupIssue 0xb5 h f eff s := by
  exact ⟨_, rfl⟩
/-- `hlrd` is one issue. -/
theorem opHlrd_issue (h : Hdr) (f : Form) (s : State) (hs : s.cur.seq = .group) :
    ∃ eff, opHlrd h f s = groupIssue 0xc0 h f eff s := by
  unfold opHlrd procIssue; rw [if_pos hs]; exact ⟨_, rfl⟩
/-- `hlrd` is one issue of a context. -/
theorem opHlrd_proc (h : Hdr) (f : Form) (s : State) :
    ∃ eff, opHlrd h f s = procIssue 0xc0 h f eff s := by
  exact ⟨_, rfl⟩
/-- `hlwr` is one issue. -/
theorem opHlwr_issue (h : Hdr) (f : Form) (s : State) (hs : s.cur.seq = .group) :
    ∃ eff, opHlwr h f s = groupIssue 0xc1 h f eff s := by
  unfold opHlwr procIssue; rw [if_pos hs]; exact ⟨_, rfl⟩
/-- `hlwr` is one issue of a context. -/
theorem opHlwr_proc (h : Hdr) (f : Form) (s : State) :
    ∃ eff, opHlwr h f s = procIssue 0xc1 h f eff s := by
  exact ⟨_, rfl⟩
/-- `hpref` is one issue. -/
theorem opHpref_issue (h : Hdr) (f : Form) (s : State) (hs : s.cur.seq = .group) :
    ∃ eff, opHpref h f s = groupIssue 0xc2 h f eff s := by
  unfold opHpref procIssue; rw [if_pos hs]; exact ⟨_, rfl⟩
/-- `hpref` is one issue of a context. -/
theorem opHpref_proc (h : Hdr) (f : Form) (s : State) :
    ∃ eff, opHpref h f s = procIssue 0xc2 h f eff s := by
  exact ⟨_, rfl⟩
/-- `hresp` is one issue. -/
theorem opHresp_issue (h : Hdr) (f : Form) (s : State) (hs : s.cur.seq = .group) :
    ∃ eff, opHresp h f s = groupIssue 0xc3 h f eff s := by
  unfold opHresp procIssue; rw [if_pos hs]; exact ⟨_, rfl⟩
/-- `hresp` is one issue of a context. -/
theorem opHresp_proc (h : Hdr) (f : Form) (s : State) :
    ∃ eff, opHresp h f s = procIssue 0xc3 h f eff s := by
  exact ⟨_, rfl⟩
/-- `hmsg` is one issue. -/
theorem opHmsg_issue (h : Hdr) (f : Form) (s : State) (hs : s.cur.seq = .group) :
    ∃ eff, opHmsg h f s = groupIssue 0xc4 h f eff s := by
  unfold opHmsg procIssue; rw [if_pos hs]; exact ⟨_, rfl⟩
/-- `hmsg` is one issue of a context. -/
theorem opHmsg_proc (h : Hdr) (f : Form) (s : State) :
    ∃ eff, opHmsg h f s = procIssue 0xc4 h f eff s := by
  exact ⟨_, rfl⟩
/-- `hkpush` is one issue. -/
theorem opHkpush_issue (h : Hdr) (f : Form) (s : State) (hs : s.cur.seq = .group) :
    ∃ eff, opHkpush h f s = groupIssue 0xc5 h f eff s := by
  unfold opHkpush procIssue; rw [if_pos hs]; exact ⟨_, rfl⟩
/-- `hkpush` is one issue of a context. -/
theorem opHkpush_proc (h : Hdr) (f : Form) (s : State) :
    ∃ eff, opHkpush h f s = procIssue 0xc5 h f eff s := by
  exact ⟨_, rfl⟩
/-- `hend` is one issue. -/
theorem opHend_issue (h : Hdr) (f : Form) (s : State) (hs : s.cur.seq = .group) :
    ∃ eff, opHend h f s = groupIssue 0xc6 h f eff s := by
  unfold opHend procIssue; rw [if_pos hs]; exact ⟨_, rfl⟩
/-- `hend` is one issue of a context. -/
theorem opHend_proc (h : Hdr) (f : Form) (s : State) :
    ∃ eff, opHend h f s = procIssue 0xc6 h f eff s := by
  exact ⟨_, rfl⟩
/-- `hbudget` is one issue. -/
theorem opHbudget_issue (h : Hdr) (f : Form) (s : State) (hs : s.cur.seq = .group) :
    ∃ eff, opHbudget h f s = groupIssue 0xc7 h f eff s := by
  unfold opHbudget procIssue; rw [if_pos hs]; exact ⟨_, rfl⟩
/-- `hbudget` is one issue of a context. -/
theorem opHbudget_proc (h : Hdr) (f : Form) (s : State) :
    ∃ eff, opHbudget h f s = procIssue 0xc7 h f eff s := by
  exact ⟨_, rfl⟩
/-- `creq` is one issue. -/
theorem opCreq_issue (h : Hdr) (f : Form) (s : State) (hs : s.cur.seq = .group) :
    ∃ eff, opCreq h f s = groupIssue 0xd0 h f eff s := by
  unfold opCreq procIssue; rw [if_pos hs]; exact ⟨_, rfl⟩
/-- `creq` is one issue of a context. -/
theorem opCreq_proc (h : Hdr) (f : Form) (s : State) :
    ∃ eff, opCreq h f s = procIssue 0xd0 h f eff s := by
  exact ⟨_, rfl⟩
/-- `cbar` is one issue. -/
theorem opCbar_issue (h : Hdr) (f : Form) (s : State) (hs : s.cur.seq = .group) :
    ∃ eff, opCbar h f s = groupIssue 0xd2 h f eff s := by
  unfold opCbar procIssue; rw [if_pos hs]; exact ⟨_, rfl⟩
/-- `cbar` is one issue of a context. -/
theorem opCbar_proc (h : Hdr) (f : Form) (s : State) :
    ∃ eff, opCbar h f s = procIssue 0xd2 h f eff s := by
  exact ⟨_, rfl⟩
/-- `crel` is one issue. -/
theorem opCrel_issue (h : Hdr) (f : Form) (s : State) (hs : s.cur.seq = .group) :
    ∃ eff, opCrel h f s = groupIssue 0xd3 h f eff s := by
  unfold opCrel procIssue; rw [if_pos hs]; exact ⟨_, rfl⟩
/-- `crel` is one issue of a context. -/
theorem opCrel_proc (h : Hdr) (f : Form) (s : State) :
    ∃ eff, opCrel h f s = procIssue 0xd3 h f eff s := by
  exact ⟨_, rfl⟩
/-- `cstat` is one issue. -/
theorem opCstat_issue (h : Hdr) (f : Form) (s : State) (hs : s.cur.seq = .group) :
    ∃ eff, opCstat h f s = groupIssue 0xd4 h f eff s := by
  unfold opCstat procIssue; rw [if_pos hs]; exact ⟨_, rfl⟩
/-- `cstat` is one issue of a context. -/
theorem opCstat_proc (h : Hdr) (f : Form) (s : State) :
    ∃ eff, opCstat h f s = procIssue 0xd4 h f eff s := by
  exact ⟨_, rfl⟩
/-- `emsg` is one issue. -/
theorem opEmsg_issue (h : Hdr) (f : Form) (s : State) (hs : s.cur.seq = .group) :
    ∃ eff, opEmsg h f s = groupIssue 0xd5 h f eff s := by
  unfold opEmsg procIssue; rw [if_pos hs]; exact ⟨_, rfl⟩
/-- `emsg` is one issue of a context. -/
theorem opEmsg_proc (h : Hdr) (f : Form) (s : State) :
    ∃ eff, opEmsg h f s = procIssue 0xd5 h f eff s := by
  exact ⟨_, rfl⟩
/-- `erecv` is one issue. -/
theorem opErecv_issue (h : Hdr) (f : Form) (s : State) (hs : s.cur.seq = .group) :
    ∃ eff, opErecv h f s = groupIssue 0xd6 h f eff s := by
  unfold opErecv procIssue; rw [if_pos hs]; exact ⟨_, rfl⟩
/-- `erecv` is one issue of a context. -/
theorem opErecv_proc (h : Hdr) (f : Form) (s : State) :
    ∃ eff, opErecv h f s = procIssue 0xd6 h f eff s := by
  exact ⟨_, rfl⟩
/-- `ctime` is one issue. -/
theorem opCtime_issue (h : Hdr) (f : Form) (s : State) (hs : s.cur.seq = .group) :
    ∃ eff, opCtime h f s = groupIssue 0xd7 h f eff s := by
  unfold opCtime procIssue; rw [if_pos hs]; exact ⟨_, rfl⟩
/-- `ctime` is one issue of a context. -/
theorem opCtime_proc (h : Hdr) (f : Form) (s : State) :
    ∃ eff, opCtime h f s = procIssue 0xd7 h f eff s := by
  exact ⟨_, rfl⟩
/-- `cstamp` is one issue. -/
theorem opCstamp_issue (h : Hdr) (f : Form) (s : State) (hs : s.cur.seq = .group) :
    ∃ eff, opCstamp h f s = groupIssue 0xd8 h f eff s := by
  unfold opCstamp procIssue; rw [if_pos hs]; exact ⟨_, rfl⟩
/-- `cstamp` is one issue of a context. -/
theorem opCstamp_proc (h : Hdr) (f : Form) (s : State) :
    ∃ eff, opCstamp h f s = procIssue 0xd8 h f eff s := by
  exact ⟨_, rfl⟩
/-- `rtrap` is one issue. -/
theorem opRtrap_issue (h : Hdr) (f : Form) (s : State) :
    ∃ eff, opRtrap h f s = groupIssue 0xe0 h f eff s := by
  exact ⟨_, rfl⟩
/-- `pgmode` is one issue. -/
theorem opPgmode_issue (h : Hdr) (f : Form) (s : State) :
    ∃ eff, opPgmode h f s = groupIssue 0xe1 h f eff s := by
  exact ⟨_, rfl⟩
/-- `tlbinv` is one issue. -/
theorem opTlbinv_issue (h : Hdr) (f : Form) (s : State) :
    ∃ eff, opTlbinv h f s = groupIssue 0xe2 h f eff s := by
  exact ⟨_, rfl⟩
/-- `sleep` is one issue. -/
theorem opSleep_issue (h : Hdr) (f : Form) (s : State) :
    ∃ eff, opSleep h f s = groupIssue 0xe3 h f eff s := by
  exact ⟨_, rfl⟩

/-- Both rows of 0xD1 are one issue. -/
theorem opCawait_issue (h : Hdr) (f : Form) (s : State) (hs : s.cur.seq = .group) :
    ∃ eff, opCawait h f s = groupIssue 0xd1 h f eff s := by
  unfold opCawait procIssue; rw [if_pos hs]; exact ⟨_, rfl⟩
/-- Both rows of 0xD1 are one issue. -/
theorem opCawaitMem_issue (h : Hdr) (f : Form) (s : State) (hs : s.cur.seq = .group) :
    ∃ eff, opCawaitMem h f s = groupIssue 0xd1 h f eff s := by
  unfold opCawaitMem procIssue; rw [if_pos hs]; exact ⟨_, rfl⟩

/-- On a group every instruction but `exit` is one issue. -/
theorem exec_is_issue {i : Instr} {opc : Nat} {h : Hdr} {f : Form} (s : State) (hv : view i = some (opc, h, f)) (he : opc ≠ 0x29)
    (hs : s.cur.seq = .group) : ∃ eff, exec i s = .next (groupIssue opc h f eff s) := by
  have up {t : State} : (∃ eff, t = groupIssue opc h f eff s) →
      ∃ eff, (Host.Outcome.next t : Host.Outcome State Fault Refusal) = .next (groupIssue opc h f eff s) :=
    fun x => x.imp fun _ e => congrArg _ e
  cases i <;> cases hv
  · exact up (opNop_issue _ _ s hs)
  · exact up (opSli_issue _ _ s hs)
  · exact up (opSli_issue _ _ s hs)
  · exact up (opSmov_issue _ _ s hs)
  · exact up (opSmov_issue _ _ s hs)
  · exact up (opSadd_issue _ _ s hs)
  · exact up (opSadd_issue _ _ s hs)
  · exact up (opSsub_issue _ _ s hs)
  · exact up (opSsub_issue _ _ s hs)
  · exact up (opSmul_issue _ _ s hs)
  · exact up (opSmul_issue _ _ s hs)
  · exact up (opSmulh_issue _ _ s hs)
  · exact up (opSmulh_issue _ _ s hs)
  · exact up (opSdiv_issue _ _ s hs)
  · exact up (opSdiv_issue _ _ s hs)
  · exact up (opSrem_issue _ _ s hs)
  · exact up (opSrem_issue _ _ s hs)
  · exact up (opSand_issue _ _ s hs)
  · exact up (opSand_issue _ _ s hs)
  · exact up (opSor_issue _ _ s hs)
  · exact up (opSor_issue _ _ s hs)
  · exact up (opSxor_issue _ _ s hs)
  · exact up (opSxor_issue _ _ s hs)
  · exact up (opSandn_issue _ _ s hs)
  · exact up (opSandn_issue _ _ s hs)
  · exact up (opSshl_issue _ _ s hs)
  · exact up (opSshl_issue _ _ s hs)
  · exact up (opSshr_issue _ _ s hs)
  · exact up (opSshr_issue _ _ s hs)
  · exact up (opSsra_issue _ _ s hs)
  · exact up (opSsra_issue _ _ s hs)
  · exact up (opSmin_issue _ _ s hs)
  · exact up (opSmin_issue _ _ s hs)
  · exact up (opSmax_issue _ _ s hs)
  · exact up (opSmax_issue _ _ s hs)
  · exact up (opScmp_issue _ _ s hs)
  · exact up (opScmp_issue _ _ s hs)
  · exact up (opSsel_issue _ _ s hs)
  · exact up (opSclz_issue _ _ s hs)
  · exact up (opSclz_issue _ _ s hs)
  · exact up (opSpopc_issue _ _ s hs)
  · exact up (opSpopc_issue _ _ s hs)
  · exact up (opSbfx_issue _ _ s hs)
  · exact up (opSbfx_issue _ _ s hs)
  · exact up (opSbfi_issue _ _ s hs)
  · exact up (opSld_issue _ _ s hs)
  · exact up (opSst_issue _ _ s hs)
  · exact up (opSread_issue _ _ s hs)
  · exact up (opSwrite_issue _ _ s hs)
  · exact up (opSfromv_issue _ _ s hs)
  · exact up (opSatom_issue _ _ s hs)
  · exact up (opBra_issue _ _ s hs)
  · exact up (opBra_issue _ _ s hs)
  · exact up (opSbra_issue _ _ s hs)
  · exact up (opBrx_issue _ _ s hs)
  · exact up (opBrx_issue _ _ s hs)
  · exact up (opCall_issue _ _ s hs)
  · exact up (opCall_issue _ _ s hs)
  · exact up (opCallx_issue _ _ s)
  · exact up (opCallx_issue _ _ s)
  · exact up (opRet_issue _ _ s hs)
  · exact up (opRset_issue _ _ s)
  · exact up (opRjoin_issue _ _ s)
  · exact up (opBar_issue _ _ s)
  · exact absurd rfl he
  · exact up (opMon_issue _ _ s)
  · exact up (opMwait_issue _ _ s)
  · exact up (opMwait_issue _ _ s)
  · exact up (opTrap_issue _ _ s)
  · exact up (opYield_issue _ _ s)
  · exact up (opIfence_issue _ _ s)
  · exact up (opIcinv_issue _ _ s)
  · exact up (opElect_issue _ _ s)
  · exact up (opJmov_issue _ _ s)
  · exact up (opPlog_issue _ _ s)
  · exact up (opPlog_issue _ _ s)
  · exact up (opPmov_issue _ _ s)
  · exact up (opPmov_issue _ _ s)
  · exact up (opVadd_issue _ _ s)
  · exact up (opVadd_issue _ _ s)
  · exact up (opVsub_issue _ _ s)
  · exact up (opVsub_issue _ _ s)
  · exact up (opVmul_issue _ _ s)
  · exact up (opVmul_issue _ _ s)
  · exact up (opVmulh_issue _ _ s)
  · exact up (opVmulh_issue _ _ s)
  · exact up (opVmad_issue _ _ s)
  · exact up (opVabs_issue _ _ s)
  · exact up (opVabs_issue _ _ s)
  · exact up (opVneg_issue _ _ s)
  · exact up (opVneg_issue _ _ s)
  · exact up (opVmin_issue _ _ s)
  · exact up (opVmin_issue _ _ s)
  · exact up (opVmax_issue _ _ s)
  · exact up (opVmax_issue _ _ s)
  · exact up (opVand_issue _ _ s)
  · exact up (opVand_issue _ _ s)
  · exact up (opVor_issue _ _ s)
  · exact up (opVor_issue _ _ s)
  · exact up (opVxor_issue _ _ s)
  · exact up (opVxor_issue _ _ s)
  · exact up (opVandn_issue _ _ s)
  · exact up (opVandn_issue _ _ s)
  · exact up (opVshl_issue _ _ s)
  · exact up (opVshl_issue _ _ s)
  · exact up (opVshr_issue _ _ s)
  · exact up (opVshr_issue _ _ s)
  · exact up (opVsra_issue _ _ s)
  · exact up (opVsra_issue _ _ s)
  · exact up (opVclz_issue _ _ s)
  · exact up (opVclz_issue _ _ s)
  · exact up (opVpopc_issue _ _ s)
  · exact up (opVpopc_issue _ _ s)
  · exact up (opVbfx_issue _ _ s)
  · exact up (opVbfx_issue _ _ s)
  · exact up (opVbfi_issue _ _ s)
  · exact up (opVcmp_issue _ _ s)
  · exact up (opVsel_issue _ _ s)
  · exact up (opVaddsat_issue _ _ s)
  · exact up (opVaddsat_issue _ _ s)
  · exact up (opVsubsat_issue _ _ s)
  · exact up (opVsubsat_issue _ _ s)
  · exact up (opVmov_issue _ _ s)
  · exact up (opVmov_issue _ _ s)
  · exact up (opVli_issue _ _ s)
  · exact up (opVli_issue _ _ s)
  · exact up (opVfroms_issue _ _ s)
  · exact up (opVfroms_issue _ _ s)
  · exact up (opVlane_issue _ _ s)
  · exact up (opVlane_issue _ _ s)
  · exact up (opVfadd_issue _ _ s)
  · exact up (opVfadd_issue _ _ s)
  · exact up (opVfsub_issue _ _ s)
  · exact up (opVfsub_issue _ _ s)
  · exact up (opVfmul_issue _ _ s)
  · exact up (opVfmul_issue _ _ s)
  · exact up (opVfma_issue _ _ s)
  · exact up (opVfmin_issue _ _ s)
  · exact up (opVfmin_issue _ _ s)
  · exact up (opVfmax_issue _ _ s)
  · exact up (opVfmax_issue _ _ s)
  · exact up (opVfabs_issue _ _ s)
  · exact up (opVfabs_issue _ _ s)
  · exact up (opVfneg_issue _ _ s)
  · exact up (opVfneg_issue _ _ s)
  · exact up (opVfcmp_issue _ _ s)
  · exact up (opVfdiv_issue _ _ s)
  · exact up (opVfdiv_issue _ _ s)
  · exact up (opVfsqrt_issue _ _ s)
  · exact up (opVfsqrt_issue _ _ s)
  · exact up (opVrcpa_issue _ _ s)
  · exact up (opVrcpa_issue _ _ s)
  · exact up (opVrsqa_issue _ _ s)
  · exact up (opVrsqa_issue _ _ s)
  · exact up (opVfexp2a_issue _ _ s)
  · exact up (opVfexp2a_issue _ _ s)
  · exact up (opVflog2a_issue _ _ s)
  · exact up (opVflog2a_issue _ _ s)
  · exact up (opVfclass_issue _ _ s)
  · exact up (opVfclass_issue _ _ s)
  · exact up (opVfround_issue _ _ s)
  · exact up (opVfround_issue _ _ s)
  · exact up (opVfldexp_issue _ _ s)
  · exact up (opVfldexp_issue _ _ s)
  · exact up (opVcvt_issue _ _ s)
  · exact up (opVquant_issue _ _ s)
  · exact up (opVdequant_issue _ _ s)
  · exact up (opVshfl_issue _ _ s)
  · exact up (opVrot_issue _ _ s)
  · exact up (opVbcast_issue _ _ s)
  · exact up (opVred_issue _ _ s)
  · exact up (opVscan_issue _ _ s)
  · exact up (opVballot_issue _ _ s)
  · exact up (opVcompact_issue _ _ s)
  · exact up (opLd_issue _ _ s)
  · exact up (opSt_issue _ _ s)
  · exact up (opLds_issue _ _ s)
  · exact up (opSts_issue _ _ s)
  · exact up (opAtom_issue _ _ s)
  · exact up (opAcas_issue _ _ s)
  · exact up (opAtoms_issue _ _ s)
  · exact up (opFence_issue _ _ s)
  · exact up (opStash_issue _ _ s)
  · exact up (opPref_issue _ _ s)
  · exact up (opCpy_issue _ _ s)
  · exact up (opMfill_issue _ _ s)
  · exact up (opXpush_issue _ _ s)
  · exact up (opXpull_issue _ _ s)
  · exact up (opCtrset_issue _ _ s)
  · exact up (opCtrwait_issue _ _ s)
  · exact up (opQcw_issue _ _ s)
  · exact up (opSbind_issue _ _ s)
  · exact up (opSunbind_issue _ _ s)
  · exact up (opStamp_issue _ _ s)
  · exact up (opStampw_issue _ _ s)
  · exact up (opMsend_issue _ _ s)
  · exact up (opQpost_issue _ _ s)
  · exact up (opMset_issue _ _ s)
  · exact up (opMma_issue _ _ s)
  · exact up (opTclr_issue _ _ s)
  · exact up (opTrd_issue _ _ s)
  · exact up (opTwr_issue _ _ s)
  · exact up (opTst_issue _ _ s)
  · exact up (opTld_issue _ _ s)
  · exact up (opTfree_issue _ _ s)
  · exact up (opQdual_issue _ _ s)
  · exact up (opTwait_issue _ _ s)
  · exact up (opSpawn_issue _ _ s)
  · exact up (opKpush_issue _ _ s)
  · exact up (opKpop_issue _ _ s)
  · exact up (opKdone_issue _ _ s)
  · exact up (opKcfg_issue _ _ s)
  · exact up (opKstat_issue _ _ s)
  · exact up (opHlrd_issue _ _ s hs)
  · exact up (opHlwr_issue _ _ s hs)
  · exact up (opHpref_issue _ _ s hs)
  · exact up (opHresp_issue _ _ s hs)
  · exact up (opHmsg_issue _ _ s hs)
  · exact up (opHkpush_issue _ _ s hs)
  · exact up (opHend_issue _ _ s hs)
  · exact up (opHbudget_issue _ _ s hs)
  · exact up (opCreq_issue _ _ s hs)
  · exact up (opCawait_issue _ _ s hs)
  · exact up (opCawaitMem_issue _ _ s hs)
  · exact up (opCbar_issue _ _ s hs)
  · exact up (opCrel_issue _ _ s hs)
  · exact up (opCstat_issue _ _ s hs)
  · exact up (opEmsg_issue _ _ s hs)
  · exact up (opErecv_issue _ _ s hs)
  · exact up (opCtime_issue _ _ s hs)
  · exact up (opCstamp_issue _ _ s hs)
  · exact up (opRtrap_issue _ _ s)
  · exact up (opPgmode_issue _ _ s)
  · exact up (opTlbinv_issue _ _ s)
  · exact up (opSleep_issue _ _ s)

/-- `callx` is of a class that groups alone execute. -/
theorem opCallx_alien (h : Hdr) (f : Form) (s : State) (hs : s.cur.seq ≠ .group) : procClass s.cur.seq 0x24 = false ∧
    opCallx h f s = if curBusy s then procFault cILLEGAL 0x02 0 s else s := ⟨rfl, groupIssue_proc h f _ hs⟩
/-- `rset` is of a class that groups alone execute. -/
theorem opRset_alien (h : Hdr) (f : Form) (s : State) (hs : s.cur.seq ≠ .group) : procClass s.cur.seq 0x26 = false ∧
    opRset h f s = if curBusy s then procFault cILLEGAL 0x02 0 s else s := ⟨rfl, groupIssue_proc h f _ hs⟩
/-- `rjoin` is of a class that groups alone execute. -/
theorem opRjoin_alien (h : Hdr) (f : Form) (s : State) (hs : s.cur.seq ≠ .group) : procClass s.cur.seq 0x27 = false ∧
    opRjoin h f s = if curBusy s then procFault cILLEGAL 0x02 0 s else s := ⟨rfl, groupIssue_proc h f _ hs⟩
/-- `bar` is of a class that groups alone execute. -/
theorem opBar_alien (h : Hdr) (f : Form) (s : State) (hs : s.cur.seq ≠ .group) : procClass s.cur.seq 0x28 = false ∧
    opBar h f s = if curBusy s then procFault cILLEGAL 0x02 0 s else s := ⟨rfl, groupIssue_proc h f _ hs⟩
/-- `exit` is of a class that groups alone execute. -/
theorem opExit_alien (h : Hdr) (f : Form) (s : State) (hs : s.cur.seq ≠ .group) : procClass s.cur.seq 0x29 = false ∧
    opExit h f s = if curBusy s then procFault cILLEGAL 0x02 0 s else s := ⟨rfl, by unfold opExit; rw [if_neg hs]; exact groupIssue_proc h f _ hs⟩
/-- `mon` is of a class that groups alone execute. -/
theorem opMon_alien (h : Hdr) (f : Form) (s : State) (hs : s.cur.seq ≠ .group) : procClass s.cur.seq 0x2a = false ∧
    opMon h f s = if curBusy s then procFault cILLEGAL 0x02 0 s else s := ⟨rfl, groupIssue_proc h f _ hs⟩
/-- `mwait` is of a class that groups alone execute. -/
theorem opMwait_alien (h : Hdr) (f : Form) (s : State) (hs : s.cur.seq ≠ .group) : procClass s.cur.seq 0x2b = false ∧
    opMwait h f s = if curBusy s then procFault cILLEGAL 0x02 0 s else s := ⟨rfl, groupIssue_proc h f _ hs⟩
/-- `trap` is of a class that groups alone execute. -/
theorem opTrap_alien (h : Hdr) (f : Form) (s : State) (hs : s.cur.seq ≠ .group) : procClass s.cur.seq 0x2c = false ∧
    opTrap h f s = if curBusy s then procFault cILLEGAL 0x02 0 s else s := ⟨rfl, groupIssue_proc h f _ hs⟩
/-- `yield` is of a class that groups alone execute. -/
theorem opYield_alien (h : Hdr) (f : Form) (s : State) (hs : s.cur.seq ≠ .group) : procClass s.cur.seq 0x2d = false ∧
    opYield h f s = if curBusy s then procFault cILLEGAL 0x02 0 s else s := ⟨rfl, groupIssue_proc h f _ hs⟩
/-- `ifence` is of a class that groups alone execute. -/
theorem opIfence_alien (h : Hdr) (f : Form) (s : State) (hs : s.cur.seq ≠ .group) : procClass s.cur.seq 0x2e = false ∧
    opIfence h f s = if curBusy s then procFault cILLEGAL 0x02 0 s else s := ⟨rfl, groupIssue_proc h f _ hs⟩
/-- `icinv` is of a class that groups alone execute. -/
theorem opIcinv_alien (h : Hdr) (f : Form) (s : State) (hs : s.cur.seq ≠ .group) : procClass s.cur.seq 0x2f = false ∧
    opIcinv h f s = if curBusy s then procFault cILLEGAL 0x02 0 s else s := ⟨rfl, groupIssue_proc h f _ hs⟩
/-- `elect` is of a class that groups alone execute. -/
theorem opElect_alien (h : Hdr) (f : Form) (s : State) (hs : s.cur.seq ≠ .group) : procClass s.cur.seq 0x30 = false ∧
    opElect h f s = if curBusy s then procFault cILLEGAL 0x02 0 s else s := ⟨rfl, groupIssue_proc h f _ hs⟩
/-- `jmov` is of a class that groups alone execute. -/
theorem opJmov_alien (h : Hdr) (f : Form) (s : State) (hs : s.cur.seq ≠ .group) : procClass s.cur.seq 0x31 = false ∧
    opJmov h f s = if curBusy s then procFault cILLEGAL 0x02 0 s else s := ⟨rfl, groupIssue_proc h f _ hs⟩
/-- `plog` is of a class that groups alone execute. -/
theorem opPlog_alien (h : Hdr) (f : Form) (s : State) (hs : s.cur.seq ≠ .group) : procClass s.cur.seq 0x32 = false ∧
    opPlog h f s = if curBusy s then procFault cILLEGAL 0x02 0 s else s := ⟨rfl, groupIssue_proc h f _ hs⟩
/-- `pmov` is of a class that groups alone execute. -/
theorem opPmov_alien (h : Hdr) (f : Form) (s : State) (hs : s.cur.seq ≠ .group) : procClass s.cur.seq 0x33 = false ∧
    opPmov h f s = if curBusy s then procFault cILLEGAL 0x02 0 s else s := ⟨rfl, groupIssue_proc h f _ hs⟩
/-- `vadd` is of a class that groups alone execute. -/
theorem opVadd_alien (h : Hdr) (f : Form) (s : State) (hs : s.cur.seq ≠ .group) : procClass s.cur.seq 0x38 = false ∧
    opVadd h f s = if curBusy s then procFault cILLEGAL 0x02 0 s else s := ⟨rfl, groupIssue_proc h f _ hs⟩
/-- `vsub` is of a class that groups alone execute. -/
theorem opVsub_alien (h : Hdr) (f : Form) (s : State) (hs : s.cur.seq ≠ .group) : procClass s.cur.seq 0x39 = false ∧
    opVsub h f s = if curBusy s then procFault cILLEGAL 0x02 0 s else s := ⟨rfl, groupIssue_proc h f _ hs⟩
/-- `vmul` is of a class that groups alone execute. -/
theorem opVmul_alien (h : Hdr) (f : Form) (s : State) (hs : s.cur.seq ≠ .group) : procClass s.cur.seq 0x3a = false ∧
    opVmul h f s = if curBusy s then procFault cILLEGAL 0x02 0 s else s := ⟨rfl, groupIssue_proc h f _ hs⟩
/-- `vmulh` is of a class that groups alone execute. -/
theorem opVmulh_alien (h : Hdr) (f : Form) (s : State) (hs : s.cur.seq ≠ .group) : procClass s.cur.seq 0x3b = false ∧
    opVmulh h f s = if curBusy s then procFault cILLEGAL 0x02 0 s else s := ⟨rfl, groupIssue_proc h f _ hs⟩
/-- `vmad` is of a class that groups alone execute. -/
theorem opVmad_alien (h : Hdr) (f : Form) (s : State) (hs : s.cur.seq ≠ .group) : procClass s.cur.seq 0x3c = false ∧
    opVmad h f s = if curBusy s then procFault cILLEGAL 0x02 0 s else s := ⟨rfl, groupIssue_proc h f _ hs⟩
/-- `vabs` is of a class that groups alone execute. -/
theorem opVabs_alien (h : Hdr) (f : Form) (s : State) (hs : s.cur.seq ≠ .group) : procClass s.cur.seq 0x3d = false ∧
    opVabs h f s = if curBusy s then procFault cILLEGAL 0x02 0 s else s := ⟨rfl, groupIssue_proc h f _ hs⟩
/-- `vneg` is of a class that groups alone execute. -/
theorem opVneg_alien (h : Hdr) (f : Form) (s : State) (hs : s.cur.seq ≠ .group) : procClass s.cur.seq 0x3e = false ∧
    opVneg h f s = if curBusy s then procFault cILLEGAL 0x02 0 s else s := ⟨rfl, groupIssue_proc h f _ hs⟩
/-- `vmin` is of a class that groups alone execute. -/
theorem opVmin_alien (h : Hdr) (f : Form) (s : State) (hs : s.cur.seq ≠ .group) : procClass s.cur.seq 0x3f = false ∧
    opVmin h f s = if curBusy s then procFault cILLEGAL 0x02 0 s else s := ⟨rfl, groupIssue_proc h f _ hs⟩
/-- `vmax` is of a class that groups alone execute. -/
theorem opVmax_alien (h : Hdr) (f : Form) (s : State) (hs : s.cur.seq ≠ .group) : procClass s.cur.seq 0x40 = false ∧
    opVmax h f s = if curBusy s then procFault cILLEGAL 0x02 0 s else s := ⟨rfl, groupIssue_proc h f _ hs⟩
/-- `vand` is of a class that groups alone execute. -/
theorem opVand_alien (h : Hdr) (f : Form) (s : State) (hs : s.cur.seq ≠ .group) : procClass s.cur.seq 0x41 = false ∧
    opVand h f s = if curBusy s then procFault cILLEGAL 0x02 0 s else s := ⟨rfl, groupIssue_proc h f _ hs⟩
/-- `vor` is of a class that groups alone execute. -/
theorem opVor_alien (h : Hdr) (f : Form) (s : State) (hs : s.cur.seq ≠ .group) : procClass s.cur.seq 0x42 = false ∧
    opVor h f s = if curBusy s then procFault cILLEGAL 0x02 0 s else s := ⟨rfl, groupIssue_proc h f _ hs⟩
/-- `vxor` is of a class that groups alone execute. -/
theorem opVxor_alien (h : Hdr) (f : Form) (s : State) (hs : s.cur.seq ≠ .group) : procClass s.cur.seq 0x43 = false ∧
    opVxor h f s = if curBusy s then procFault cILLEGAL 0x02 0 s else s := ⟨rfl, groupIssue_proc h f _ hs⟩
/-- `vandn` is of a class that groups alone execute. -/
theorem opVandn_alien (h : Hdr) (f : Form) (s : State) (hs : s.cur.seq ≠ .group) : procClass s.cur.seq 0x44 = false ∧
    opVandn h f s = if curBusy s then procFault cILLEGAL 0x02 0 s else s := ⟨rfl, groupIssue_proc h f _ hs⟩
/-- `vshl` is of a class that groups alone execute. -/
theorem opVshl_alien (h : Hdr) (f : Form) (s : State) (hs : s.cur.seq ≠ .group) : procClass s.cur.seq 0x45 = false ∧
    opVshl h f s = if curBusy s then procFault cILLEGAL 0x02 0 s else s := ⟨rfl, groupIssue_proc h f _ hs⟩
/-- `vshr` is of a class that groups alone execute. -/
theorem opVshr_alien (h : Hdr) (f : Form) (s : State) (hs : s.cur.seq ≠ .group) : procClass s.cur.seq 0x46 = false ∧
    opVshr h f s = if curBusy s then procFault cILLEGAL 0x02 0 s else s := ⟨rfl, groupIssue_proc h f _ hs⟩
/-- `vsra` is of a class that groups alone execute. -/
theorem opVsra_alien (h : Hdr) (f : Form) (s : State) (hs : s.cur.seq ≠ .group) : procClass s.cur.seq 0x47 = false ∧
    opVsra h f s = if curBusy s then procFault cILLEGAL 0x02 0 s else s := ⟨rfl, groupIssue_proc h f _ hs⟩
/-- `vclz` is of a class that groups alone execute. -/
theorem opVclz_alien (h : Hdr) (f : Form) (s : State) (hs : s.cur.seq ≠ .group) : procClass s.cur.seq 0x48 = false ∧
    opVclz h f s = if curBusy s then procFault cILLEGAL 0x02 0 s else s := ⟨rfl, groupIssue_proc h f _ hs⟩
/-- `vpopc` is of a class that groups alone execute. -/
theorem opVpopc_alien (h : Hdr) (f : Form) (s : State) (hs : s.cur.seq ≠ .group) : procClass s.cur.seq 0x49 = false ∧
    opVpopc h f s = if curBusy s then procFault cILLEGAL 0x02 0 s else s := ⟨rfl, groupIssue_proc h f _ hs⟩
/-- `vbfx` is of a class that groups alone execute. -/
theorem opVbfx_alien (h : Hdr) (f : Form) (s : State) (hs : s.cur.seq ≠ .group) : procClass s.cur.seq 0x4a = false ∧
    opVbfx h f s = if curBusy s then procFault cILLEGAL 0x02 0 s else s := ⟨rfl, groupIssue_proc h f _ hs⟩
/-- `vbfi` is of a class that groups alone execute. -/
theorem opVbfi_alien (h : Hdr) (f : Form) (s : State) (hs : s.cur.seq ≠ .group) : procClass s.cur.seq 0x4b = false ∧
    opVbfi h f s = if curBusy s then procFault cILLEGAL 0x02 0 s else s := ⟨rfl, groupIssue_proc h f _ hs⟩
/-- `vcmp` is of a class that groups alone execute. -/
theorem opVcmp_alien (h : Hdr) (f : Form) (s : State) (hs : s.cur.seq ≠ .group) : procClass s.cur.seq 0x4c = false ∧
    opVcmp h f s = if curBusy s then procFault cILLEGAL 0x02 0 s else s := ⟨rfl, groupIssue_proc h f _ hs⟩
/-- `vsel` is of a class that groups alone execute. -/
theorem opVsel_alien (h : Hdr) (f : Form) (s : State) (hs : s.cur.seq ≠ .group) : procClass s.cur.seq 0x4d = false ∧
    opVsel h f s = if curBusy s then procFault cILLEGAL 0x02 0 s else s := ⟨rfl, groupIssue_proc h f _ hs⟩
/-- `vaddsat` is of a class that groups alone execute. -/
theorem opVaddsat_alien (h : Hdr) (f : Form) (s : State) (hs : s.cur.seq ≠ .group) : procClass s.cur.seq 0x4e = false ∧
    opVaddsat h f s = if curBusy s then procFault cILLEGAL 0x02 0 s else s := ⟨rfl, groupIssue_proc h f _ hs⟩
/-- `vsubsat` is of a class that groups alone execute. -/
theorem opVsubsat_alien (h : Hdr) (f : Form) (s : State) (hs : s.cur.seq ≠ .group) : procClass s.cur.seq 0x4f = false ∧
    opVsubsat h f s = if curBusy s then procFault cILLEGAL 0x02 0 s else s := ⟨rfl, groupIssue_proc h f _ hs⟩
/-- `vmov` is of a class that groups alone execute. -/
theorem opVmov_alien (h : Hdr) (f : Form) (s : State) (hs : s.cur.seq ≠ .group) : procClass s.cur.seq 0x50 = false ∧
    opVmov h f s = if curBusy s then procFault cILLEGAL 0x02 0 s else s := ⟨rfl, groupIssue_proc h f _ hs⟩
/-- `vli` is of a class that groups alone execute. -/
theorem opVli_alien (h : Hdr) (f : Form) (s : State) (hs : s.cur.seq ≠ .group) : procClass s.cur.seq 0x51 = false ∧
    opVli h f s = if curBusy s then procFault cILLEGAL 0x02 0 s else s := ⟨rfl, groupIssue_proc h f _ hs⟩
/-- `vfroms` is of a class that groups alone execute. -/
theorem opVfroms_alien (h : Hdr) (f : Form) (s : State) (hs : s.cur.seq ≠ .group) : procClass s.cur.seq 0x52 = false ∧
    opVfroms h f s = if curBusy s then procFault cILLEGAL 0x02 0 s else s := ⟨rfl, groupIssue_proc h f _ hs⟩
/-- `vlane` is of a class that groups alone execute. -/
theorem opVlane_alien (h : Hdr) (f : Form) (s : State) (hs : s.cur.seq ≠ .group) : procClass s.cur.seq 0x53 = false ∧
    opVlane h f s = if curBusy s then procFault cILLEGAL 0x02 0 s else s := ⟨rfl, groupIssue_proc h f _ hs⟩
/-- `vfadd` is of a class that groups alone execute. -/
theorem opVfadd_alien (h : Hdr) (f : Form) (s : State) (hs : s.cur.seq ≠ .group) : procClass s.cur.seq 0x58 = false ∧
    opVfadd h f s = if curBusy s then procFault cILLEGAL 0x02 0 s else s := ⟨rfl, groupIssue_proc h f _ hs⟩
/-- `vfsub` is of a class that groups alone execute. -/
theorem opVfsub_alien (h : Hdr) (f : Form) (s : State) (hs : s.cur.seq ≠ .group) : procClass s.cur.seq 0x59 = false ∧
    opVfsub h f s = if curBusy s then procFault cILLEGAL 0x02 0 s else s := ⟨rfl, groupIssue_proc h f _ hs⟩
/-- `vfmul` is of a class that groups alone execute. -/
theorem opVfmul_alien (h : Hdr) (f : Form) (s : State) (hs : s.cur.seq ≠ .group) : procClass s.cur.seq 0x5a = false ∧
    opVfmul h f s = if curBusy s then procFault cILLEGAL 0x02 0 s else s := ⟨rfl, groupIssue_proc h f _ hs⟩
/-- `vfma` is of a class that groups alone execute. -/
theorem opVfma_alien (h : Hdr) (f : Form) (s : State) (hs : s.cur.seq ≠ .group) : procClass s.cur.seq 0x5b = false ∧
    opVfma h f s = if curBusy s then procFault cILLEGAL 0x02 0 s else s := ⟨rfl, groupIssue_proc h f _ hs⟩
/-- `vfmin` is of a class that groups alone execute. -/
theorem opVfmin_alien (h : Hdr) (f : Form) (s : State) (hs : s.cur.seq ≠ .group) : procClass s.cur.seq 0x5c = false ∧
    opVfmin h f s = if curBusy s then procFault cILLEGAL 0x02 0 s else s := ⟨rfl, groupIssue_proc h f _ hs⟩
/-- `vfmax` is of a class that groups alone execute. -/
theorem opVfmax_alien (h : Hdr) (f : Form) (s : State) (hs : s.cur.seq ≠ .group) : procClass s.cur.seq 0x5d = false ∧
    opVfmax h f s = if curBusy s then procFault cILLEGAL 0x02 0 s else s := ⟨rfl, groupIssue_proc h f _ hs⟩
/-- `vfabs` is of a class that groups alone execute. -/
theorem opVfabs_alien (h : Hdr) (f : Form) (s : State) (hs : s.cur.seq ≠ .group) : procClass s.cur.seq 0x5e = false ∧
    opVfabs h f s = if curBusy s then procFault cILLEGAL 0x02 0 s else s := ⟨rfl, groupIssue_proc h f _ hs⟩
/-- `vfneg` is of a class that groups alone execute. -/
theorem opVfneg_alien (h : Hdr) (f : Form) (s : State) (hs : s.cur.seq ≠ .group) : procClass s.cur.seq 0x5f = false ∧
    opVfneg h f s = if curBusy s then procFault cILLEGAL 0x02 0 s else s := ⟨rfl, groupIssue_proc h f _ hs⟩
/-- `vfcmp` is of a class that groups alone execute. -/
theorem opVfcmp_alien (h : Hdr) (f : Form) (s : State) (hs : s.cur.seq ≠ .group) : procClass s.cur.seq 0x60 = false ∧
    opVfcmp h f s = if curBusy s then procFault cILLEGAL 0x02 0 s else s := ⟨rfl, groupIssue_proc h f _ hs⟩
/-- `vfdiv` is of a class that groups alone execute. -/
theorem opVfdiv_alien (h : Hdr) (f : Form) (s : State) (hs : s.cur.seq ≠ .group) : procClass s.cur.seq 0x61 = false ∧
    opVfdiv h f s = if curBusy s then procFault cILLEGAL 0x02 0 s else s := ⟨rfl, groupIssue_proc h f _ hs⟩
/-- `vfsqrt` is of a class that groups alone execute. -/
theorem opVfsqrt_alien (h : Hdr) (f : Form) (s : State) (hs : s.cur.seq ≠ .group) : procClass s.cur.seq 0x62 = false ∧
    opVfsqrt h f s = if curBusy s then procFault cILLEGAL 0x02 0 s else s := ⟨rfl, groupIssue_proc h f _ hs⟩
/-- `vrcpa` is of a class that groups alone execute. -/
theorem opVrcpa_alien (h : Hdr) (f : Form) (s : State) (hs : s.cur.seq ≠ .group) : procClass s.cur.seq 0x63 = false ∧
    opVrcpa h f s = if curBusy s then procFault cILLEGAL 0x02 0 s else s := ⟨rfl, groupIssue_proc h f _ hs⟩
/-- `vrsqa` is of a class that groups alone execute. -/
theorem opVrsqa_alien (h : Hdr) (f : Form) (s : State) (hs : s.cur.seq ≠ .group) : procClass s.cur.seq 0x64 = false ∧
    opVrsqa h f s = if curBusy s then procFault cILLEGAL 0x02 0 s else s := ⟨rfl, groupIssue_proc h f _ hs⟩
/-- `vfexp2a` is of a class that groups alone execute. -/
theorem opVfexp2a_alien (h : Hdr) (f : Form) (s : State) (hs : s.cur.seq ≠ .group) : procClass s.cur.seq 0x65 = false ∧
    opVfexp2a h f s = if curBusy s then procFault cILLEGAL 0x02 0 s else s := ⟨rfl, groupIssue_proc h f _ hs⟩
/-- `vflog2a` is of a class that groups alone execute. -/
theorem opVflog2a_alien (h : Hdr) (f : Form) (s : State) (hs : s.cur.seq ≠ .group) : procClass s.cur.seq 0x66 = false ∧
    opVflog2a h f s = if curBusy s then procFault cILLEGAL 0x02 0 s else s := ⟨rfl, groupIssue_proc h f _ hs⟩
/-- `vfclass` is of a class that groups alone execute. -/
theorem opVfclass_alien (h : Hdr) (f : Form) (s : State) (hs : s.cur.seq ≠ .group) : procClass s.cur.seq 0x67 = false ∧
    opVfclass h f s = if curBusy s then procFault cILLEGAL 0x02 0 s else s := ⟨rfl, groupIssue_proc h f _ hs⟩
/-- `vfround` is of a class that groups alone execute. -/
theorem opVfround_alien (h : Hdr) (f : Form) (s : State) (hs : s.cur.seq ≠ .group) : procClass s.cur.seq 0x68 = false ∧
    opVfround h f s = if curBusy s then procFault cILLEGAL 0x02 0 s else s := ⟨rfl, groupIssue_proc h f _ hs⟩
/-- `vfldexp` is of a class that groups alone execute. -/
theorem opVfldexp_alien (h : Hdr) (f : Form) (s : State) (hs : s.cur.seq ≠ .group) : procClass s.cur.seq 0x69 = false ∧
    opVfldexp h f s = if curBusy s then procFault cILLEGAL 0x02 0 s else s := ⟨rfl, groupIssue_proc h f _ hs⟩
/-- `vcvt` is of a class that groups alone execute. -/
theorem opVcvt_alien (h : Hdr) (f : Form) (s : State) (hs : s.cur.seq ≠ .group) : procClass s.cur.seq 0x70 = false ∧
    opVcvt h f s = if curBusy s then procFault cILLEGAL 0x02 0 s else s := ⟨rfl, groupIssue_proc h f _ hs⟩
/-- `vquant` is of a class that groups alone execute. -/
theorem opVquant_alien (h : Hdr) (f : Form) (s : State) (hs : s.cur.seq ≠ .group) : procClass s.cur.seq 0x71 = false ∧
    opVquant h f s = if curBusy s then procFault cILLEGAL 0x02 0 s else s := ⟨rfl, groupIssue_proc h f _ hs⟩
/-- `vdequant` is of a class that groups alone execute. -/
theorem opVdequant_alien (h : Hdr) (f : Form) (s : State) (hs : s.cur.seq ≠ .group) : procClass s.cur.seq 0x72 = false ∧
    opVdequant h f s = if curBusy s then procFault cILLEGAL 0x02 0 s else s := ⟨rfl, groupIssue_proc h f _ hs⟩
/-- `vshfl` is of a class that groups alone execute. -/
theorem opVshfl_alien (h : Hdr) (f : Form) (s : State) (hs : s.cur.seq ≠ .group) : procClass s.cur.seq 0x73 = false ∧
    opVshfl h f s = if curBusy s then procFault cILLEGAL 0x02 0 s else s := ⟨rfl, groupIssue_proc h f _ hs⟩
/-- `vrot` is of a class that groups alone execute. -/
theorem opVrot_alien (h : Hdr) (f : Form) (s : State) (hs : s.cur.seq ≠ .group) : procClass s.cur.seq 0x74 = false ∧
    opVrot h f s = if curBusy s then procFault cILLEGAL 0x02 0 s else s := ⟨rfl, groupIssue_proc h f _ hs⟩
/-- `vbcast` is of a class that groups alone execute. -/
theorem opVbcast_alien (h : Hdr) (f : Form) (s : State) (hs : s.cur.seq ≠ .group) : procClass s.cur.seq 0x75 = false ∧
    opVbcast h f s = if curBusy s then procFault cILLEGAL 0x02 0 s else s := ⟨rfl, groupIssue_proc h f _ hs⟩
/-- `vred` is of a class that groups alone execute. -/
theorem opVred_alien (h : Hdr) (f : Form) (s : State) (hs : s.cur.seq ≠ .group) : procClass s.cur.seq 0x76 = false ∧
    opVred h f s = if curBusy s then procFault cILLEGAL 0x02 0 s else s := ⟨rfl, groupIssue_proc h f _ hs⟩
/-- `vscan` is of a class that groups alone execute. -/
theorem opVscan_alien (h : Hdr) (f : Form) (s : State) (hs : s.cur.seq ≠ .group) : procClass s.cur.seq 0x77 = false ∧
    opVscan h f s = if curBusy s then procFault cILLEGAL 0x02 0 s else s := ⟨rfl, groupIssue_proc h f _ hs⟩
/-- `vballot` is of a class that groups alone execute. -/
theorem opVballot_alien (h : Hdr) (f : Form) (s : State) (hs : s.cur.seq ≠ .group) : procClass s.cur.seq 0x78 = false ∧
    opVballot h f s = if curBusy s then procFault cILLEGAL 0x02 0 s else s := ⟨rfl, groupIssue_proc h f _ hs⟩
/-- `vcompact` is of a class that groups alone execute. -/
theorem opVcompact_alien (h : Hdr) (f : Form) (s : State) (hs : s.cur.seq ≠ .group) : procClass s.cur.seq 0x79 = false ∧
    opVcompact h f s = if curBusy s then procFault cILLEGAL 0x02 0 s else s := ⟨rfl, groupIssue_proc h f _ hs⟩
/-- `ld` is of a class that groups alone execute. -/
theorem opLd_alien (h : Hdr) (f : Form) (s : State) (hs : s.cur.seq ≠ .group) : procClass s.cur.seq 0x80 = false ∧
    opLd h f s = if curBusy s then procFault cILLEGAL 0x02 0 s else s := ⟨rfl, groupIssue_proc h f _ hs⟩
/-- `st` is of a class that groups alone execute. -/
theorem opSt_alien (h : Hdr) (f : Form) (s : State) (hs : s.cur.seq ≠ .group) : procClass s.cur.seq 0x81 = false ∧
    opSt h f s = if curBusy s then procFault cILLEGAL 0x02 0 s else s := ⟨rfl, groupIssue_proc h f _ hs⟩
/-- `lds` is of a class that groups alone execute. -/
theorem opLds_alien (h : Hdr) (f : Form) (s : State) (hs : s.cur.seq ≠ .group) : procClass s.cur.seq 0x82 = false ∧
    opLds h f s = if curBusy s then procFault cILLEGAL 0x02 0 s else s := ⟨rfl, groupIssue_proc h f _ hs⟩
/-- `sts` is of a class that groups alone execute. -/
theorem opSts_alien (h : Hdr) (f : Form) (s : State) (hs : s.cur.seq ≠ .group) : procClass s.cur.seq 0x83 = false ∧
    opSts h f s = if curBusy s then procFault cILLEGAL 0x02 0 s else s := ⟨rfl, groupIssue_proc h f _ hs⟩
/-- `atom` is of a class that groups alone execute. -/
theorem opAtom_alien (h : Hdr) (f : Form) (s : State) (hs : s.cur.seq ≠ .group) : procClass s.cur.seq 0x84 = false ∧
    opAtom h f s = if curBusy s then procFault cILLEGAL 0x02 0 s else s := ⟨rfl, groupIssue_proc h f _ hs⟩
/-- `acas` is of a class that groups alone execute. -/
theorem opAcas_alien (h : Hdr) (f : Form) (s : State) (hs : s.cur.seq ≠ .group) : procClass s.cur.seq 0x85 = false ∧
    opAcas h f s = if curBusy s then procFault cILLEGAL 0x02 0 s else s := ⟨rfl, groupIssue_proc h f _ hs⟩
/-- `atoms` is of a class that groups alone execute. -/
theorem opAtoms_alien (h : Hdr) (f : Form) (s : State) (hs : s.cur.seq ≠ .group) : procClass s.cur.seq 0x86 = false ∧
    opAtoms h f s = if curBusy s then procFault cILLEGAL 0x02 0 s else s := ⟨rfl, groupIssue_proc h f _ hs⟩
/-- `fence` is of a class that groups alone execute. -/
theorem opFence_alien (h : Hdr) (f : Form) (s : State) (hs : s.cur.seq ≠ .group) : procClass s.cur.seq 0x87 = false ∧
    opFence h f s = if curBusy s then procFault cILLEGAL 0x02 0 s else s := ⟨rfl, groupIssue_proc h f _ hs⟩
/-- `stash` is of a class that groups alone execute. -/
theorem opStash_alien (h : Hdr) (f : Form) (s : State) (hs : s.cur.seq ≠ .group) : procClass s.cur.seq 0x88 = false ∧
    opStash h f s = if curBusy s then procFault cILLEGAL 0x02 0 s else s := ⟨rfl, groupIssue_proc h f _ hs⟩
/-- `pref` is of a class that groups alone execute. -/
theorem opPref_alien (h : Hdr) (f : Form) (s : State) (hs : s.cur.seq ≠ .group) : procClass s.cur.seq 0x89 = false ∧
    opPref h f s = if curBusy s then procFault cILLEGAL 0x02 0 s else s := ⟨rfl, groupIssue_proc h f _ hs⟩
/-- `cpy` is of a class that groups alone execute. -/
theorem opCpy_alien (h : Hdr) (f : Form) (s : State) (hs : s.cur.seq ≠ .group) : procClass s.cur.seq 0x8a = false ∧
    opCpy h f s = if curBusy s then procFault cILLEGAL 0x02 0 s else s := ⟨rfl, groupIssue_proc h f _ hs⟩
/-- `mfill` is of a class that groups alone execute. -/
theorem opMfill_alien (h : Hdr) (f : Form) (s : State) (hs : s.cur.seq ≠ .group) : procClass s.cur.seq 0x8b = false ∧
    opMfill h f s = if curBusy s then procFault cILLEGAL 0x02 0 s else s := ⟨rfl, groupIssue_proc h f _ hs⟩
/-- `xpush` is of a class that groups alone execute. -/
theorem opXpush_alien (h : Hdr) (f : Form) (s : State) (hs : s.cur.seq ≠ .group) : procClass s.cur.seq 0x8c = false ∧
    opXpush h f s = if curBusy s then procFault cILLEGAL 0x02 0 s else s := ⟨rfl, groupIssue_proc h f _ hs⟩
/-- `xpull` is of a class that groups alone execute. -/
theorem opXpull_alien (h : Hdr) (f : Form) (s : State) (hs : s.cur.seq ≠ .group) : procClass s.cur.seq 0x8d = false ∧
    opXpull h f s = if curBusy s then procFault cILLEGAL 0x02 0 s else s := ⟨rfl, groupIssue_proc h f _ hs⟩
/-- `ctrset` is of a class that groups alone execute. -/
theorem opCtrset_alien (h : Hdr) (f : Form) (s : State) (hs : s.cur.seq ≠ .group) : procClass s.cur.seq 0x8e = false ∧
    opCtrset h f s = if curBusy s then procFault cILLEGAL 0x02 0 s else s := ⟨rfl, groupIssue_proc h f _ hs⟩
/-- `ctrwait` is of a class that groups alone execute. -/
theorem opCtrwait_alien (h : Hdr) (f : Form) (s : State) (hs : s.cur.seq ≠ .group) : procClass s.cur.seq 0x8f = false ∧
    opCtrwait h f s = if curBusy s then procFault cILLEGAL 0x02 0 s else s := ⟨rfl, groupIssue_proc h f _ hs⟩
/-- `qcw` is of a class that groups alone execute. -/
theorem opQcw_alien (h : Hdr) (f : Form) (s : State) (hs : s.cur.seq ≠ .group) : procClass s.cur.seq 0x90 = false ∧
    opQcw h f s = if curBusy s then procFault cILLEGAL 0x02 0 s else s := ⟨rfl, groupIssue_proc h f _ hs⟩
/-- `sbind` is of a class that groups alone execute. -/
theorem opSbind_alien (h : Hdr) (f : Form) (s : State) (hs : s.cur.seq ≠ .group) : procClass s.cur.seq 0x91 = false ∧
    opSbind h f s = if curBusy s then procFault cILLEGAL 0x02 0 s else s := ⟨rfl, groupIssue_proc h f _ hs⟩
/-- `sunbind` is of a class that groups alone execute. -/
theorem opSunbind_alien (h : Hdr) (f : Form) (s : State) (hs : s.cur.seq ≠ .group) : procClass s.cur.seq 0x92 = false ∧
    opSunbind h f s = if curBusy s then procFault cILLEGAL 0x02 0 s else s := ⟨rfl, groupIssue_proc h f _ hs⟩
/-- `stamp` is of a class that groups alone execute. -/
theorem opStamp_alien (h : Hdr) (f : Form) (s : State) (hs : s.cur.seq ≠ .group) : procClass s.cur.seq 0x93 = false ∧
    opStamp h f s = if curBusy s then procFault cILLEGAL 0x02 0 s else s := ⟨rfl, groupIssue_proc h f _ hs⟩
/-- `stampw` is of a class that groups alone execute. -/
theorem opStampw_alien (h : Hdr) (f : Form) (s : State) (hs : s.cur.seq ≠ .group) : procClass s.cur.seq 0x94 = false ∧
    opStampw h f s = if curBusy s then procFault cILLEGAL 0x02 0 s else s := ⟨rfl, groupIssue_proc h f _ hs⟩
/-- `msend` is of a class that groups alone execute. -/
theorem opMsend_alien (h : Hdr) (f : Form) (s : State) (hs : s.cur.seq ≠ .group) : procClass s.cur.seq 0x95 = false ∧
    opMsend h f s = if curBusy s then procFault cILLEGAL 0x02 0 s else s := ⟨rfl, groupIssue_proc h f _ hs⟩
/-- `qpost` is of a class that groups alone execute. -/
theorem opQpost_alien (h : Hdr) (f : Form) (s : State) (hs : s.cur.seq ≠ .group) : procClass s.cur.seq 0x96 = false ∧
    opQpost h f s = if curBusy s then procFault cILLEGAL 0x02 0 s else s := ⟨rfl, groupIssue_proc h f _ hs⟩
/-- `mset` is of a class that groups alone execute. -/
theorem opMset_alien (h : Hdr) (f : Form) (s : State) (hs : s.cur.seq ≠ .group) : procClass s.cur.seq 0x97 = false ∧
    opMset h f s = if curBusy s then procFault cILLEGAL 0x02 0 s else s := ⟨rfl, groupIssue_proc h f _ hs⟩
/-- `mma` is of a class that groups alone execute. -/
theorem opMma_alien (h : Hdr) (f : Form) (s : State) (hs : s.cur.seq ≠ .group) : procClass s.cur.seq 0xa0 = false ∧
    opMma h f s = if curBusy s then procFault cILLEGAL 0x02 0 s else s := ⟨rfl, groupIssue_proc h f _ hs⟩
/-- `tclr` is of a class that groups alone execute. -/
theorem opTclr_alien (h : Hdr) (f : Form) (s : State) (hs : s.cur.seq ≠ .group) : procClass s.cur.seq 0xa1 = false ∧
    opTclr h f s = if curBusy s then procFault cILLEGAL 0x02 0 s else s := ⟨rfl, groupIssue_proc h f _ hs⟩
/-- `trd` is of a class that groups alone execute. -/
theorem opTrd_alien (h : Hdr) (f : Form) (s : State) (hs : s.cur.seq ≠ .group) : procClass s.cur.seq 0xa2 = false ∧
    opTrd h f s = if curBusy s then procFault cILLEGAL 0x02 0 s else s := ⟨rfl, groupIssue_proc h f _ hs⟩
/-- `twr` is of a class that groups alone execute. -/
theorem opTwr_alien (h : Hdr) (f : Form) (s : State) (hs : s.cur.seq ≠ .group) : procClass s.cur.seq 0xa3 = false ∧
    opTwr h f s = if curBusy s then procFault cILLEGAL 0x02 0 s else s := ⟨rfl, groupIssue_proc h f _ hs⟩
/-- `tst` is of a class that groups alone execute. -/
theorem opTst_alien (h : Hdr) (f : Form) (s : State) (hs : s.cur.seq ≠ .group) : procClass s.cur.seq 0xa4 = false ∧
    opTst h f s = if curBusy s then procFault cILLEGAL 0x02 0 s else s := ⟨rfl, groupIssue_proc h f _ hs⟩
/-- `tld` is of a class that groups alone execute. -/
theorem opTld_alien (h : Hdr) (f : Form) (s : State) (hs : s.cur.seq ≠ .group) : procClass s.cur.seq 0xa5 = false ∧
    opTld h f s = if curBusy s then procFault cILLEGAL 0x02 0 s else s := ⟨rfl, groupIssue_proc h f _ hs⟩
/-- `tfree` is of a class that groups alone execute. -/
theorem opTfree_alien (h : Hdr) (f : Form) (s : State) (hs : s.cur.seq ≠ .group) : procClass s.cur.seq 0xa6 = false ∧
    opTfree h f s = if curBusy s then procFault cILLEGAL 0x02 0 s else s := ⟨rfl, groupIssue_proc h f _ hs⟩
/-- `qdual` is of a class that groups alone execute. -/
theorem opQdual_alien (h : Hdr) (f : Form) (s : State) (hs : s.cur.seq ≠ .group) : procClass s.cur.seq 0xa7 = false ∧
    opQdual h f s = if curBusy s then procFault cILLEGAL 0x02 0 s else s := ⟨rfl, groupIssue_proc h f _ hs⟩
/-- `twait` is of a class that groups alone execute. -/
theorem opTwait_alien (h : Hdr) (f : Form) (s : State) (hs : s.cur.seq ≠ .group) : procClass s.cur.seq 0xa8 = false ∧
    opTwait h f s = if curBusy s then procFault cILLEGAL 0x02 0 s else s := ⟨rfl, groupIssue_proc h f _ hs⟩
/-- `spawn` is of a class that groups alone execute. -/
theorem opSpawn_alien (h : Hdr) (f : Form) (s : State) (hs : s.cur.seq ≠ .group) : procClass s.cur.seq 0xb0 = false ∧
    opSpawn h f s = if curBusy s then procFault cILLEGAL 0x02 0 s else s := ⟨rfl, groupIssue_proc h f _ hs⟩
/-- `kpush` is of a class that groups alone execute. -/
theorem opKpush_alien (h : Hdr) (f : Form) (s : State) (hs : s.cur.seq ≠ .group) : procClass s.cur.seq 0xb1 = false ∧
    opKpush h f s = if curBusy s then procFault cILLEGAL 0x02 0 s else s := ⟨rfl, groupIssue_proc h f _ hs⟩
/-- `kpop` is of a class that groups alone execute. -/
theorem opKpop_alien (h : Hdr) (f : Form) (s : State) (hs : s.cur.seq ≠ .group) : procClass s.cur.seq 0xb2 = false ∧
    opKpop h f s = if curBusy s then procFault cILLEGAL 0x02 0 s else s := ⟨rfl, groupIssue_proc h f _ hs⟩
/-- `kdone` is of a class that groups alone execute. -/
theorem opKdone_alien (h : Hdr) (f : Form) (s : State) (hs : s.cur.seq ≠ .group) : procClass s.cur.seq 0xb3 = false ∧
    opKdone h f s = if curBusy s then procFault cILLEGAL 0x02 0 s else s := ⟨rfl, groupIssue_proc h f _ hs⟩
/-- `kcfg` is of a class that groups alone execute. -/
theorem opKcfg_alien (h : Hdr) (f : Form) (s : State) (hs : s.cur.seq ≠ .group) : procClass s.cur.seq 0xb4 = false ∧
    opKcfg h f s = if curBusy s then procFault cILLEGAL 0x02 0 s else s := ⟨rfl, groupIssue_proc h f _ hs⟩
/-- `kstat` is of a class that groups alone execute. -/
theorem opKstat_alien (h : Hdr) (f : Form) (s : State) (hs : s.cur.seq ≠ .group) : procClass s.cur.seq 0xb5 = false ∧
    opKstat h f s = if curBusy s then procFault cILLEGAL 0x02 0 s else s := ⟨rfl, groupIssue_proc h f _ hs⟩
/-- `rtrap` is of a class that groups alone execute. -/
theorem opRtrap_alien (h : Hdr) (f : Form) (s : State) (hs : s.cur.seq ≠ .group) : procClass s.cur.seq 0xe0 = false ∧
    opRtrap h f s = if curBusy s then procFault cILLEGAL 0x02 0 s else s := ⟨rfl, groupIssue_proc h f _ hs⟩
/-- `pgmode` is of a class that groups alone execute. -/
theorem opPgmode_alien (h : Hdr) (f : Form) (s : State) (hs : s.cur.seq ≠ .group) : procClass s.cur.seq 0xe1 = false ∧
    opPgmode h f s = if curBusy s then procFault cILLEGAL 0x02 0 s else s := ⟨rfl, groupIssue_proc h f _ hs⟩
/-- `tlbinv` is of a class that groups alone execute. -/
theorem opTlbinv_alien (h : Hdr) (f : Form) (s : State) (hs : s.cur.seq ≠ .group) : procClass s.cur.seq 0xe2 = false ∧
    opTlbinv h f s = if curBusy s then procFault cILLEGAL 0x02 0 s else s := ⟨rfl, groupIssue_proc h f _ hs⟩
/-- `sleep` is of a class that groups alone execute. -/
theorem opSleep_alien (h : Hdr) (f : Form) (s : State) (hs : s.cur.seq ≠ .group) : procClass s.cur.seq 0xe3 = false ∧
    opSleep h f s = if curBusy s then procFault cILLEGAL 0x02 0 s else s := ⟨rfl, groupIssue_proc h f _ hs⟩

/-- On a sequencer without lanes every instruction is one issue of a context, or is of a class that groups alone execute. -/
theorem exec_is_proc {i : Instr} {opc : Nat} {h : Hdr} {f : Form} (s : State) (hv : view i = some (opc, h, f))
    (hs : s.cur.seq ≠ .group) : (∃ eff, exec i s = .next (procIssue opc h f eff s)) ∨
      (procClass s.cur.seq opc = false ∧ exec i s = .next (if curBusy s then procFault cILLEGAL 0x02 0 s else s)) := by
  have up {t : State} : (∃ eff, t = procIssue opc h f eff s) →
      ∃ eff, (Host.Outcome.next t : Host.Outcome State Fault Refusal) = .next (procIssue opc h f eff s) :=
    fun x => x.imp fun _ e => congrArg _ e
  have no {t u : State} : procClass s.cur.seq opc = false ∧ t = u → procClass s.cur.seq opc = false ∧
      (Host.Outcome.next t : Host.Outcome State Fault Refusal) = .next u := fun x => ⟨x.1, congrArg _ x.2⟩
  cases i <;> cases hv
  · exact .inl (up (opNop_proc _ _ s hs))
  · exact .inl (up (opSli_proc _ _ s hs))
  · exact .inl (up (opSli_proc _ _ s hs))
  · exact .inl (up (opSmov_proc _ _ s hs))
  · exact .inl (up (opSmov_proc _ _ s hs))
  · exact .inl (up (opSadd_proc _ _ s hs))
  · exact .inl (up (opSadd_proc _ _ s hs))
  · exact .inl (up (opSsub_proc _ _ s hs))
  · exact .inl (up (opSsub_proc _ _ s hs))
  · exact .inl (up (opSmul_proc _ _ s hs))
  · exact .inl (up (opSmul_proc _ _ s hs))
  · exact .inl (up (opSmulh_proc _ _ s hs))
  · exact .inl (up (opSmulh_proc _ _ s hs))
  · exact .inl (up (opSdiv_proc _ _ s hs))
  · exact .inl (up (opSdiv_proc _ _ s hs))
  · exact .inl (up (opSrem_proc _ _ s hs))
  · exact .inl (up (opSrem_proc _ _ s hs))
  · exact .inl (up (opSand_proc _ _ s hs))
  · exact .inl (up (opSand_proc _ _ s hs))
  · exact .inl (up (opSor_proc _ _ s hs))
  · exact .inl (up (opSor_proc _ _ s hs))
  · exact .inl (up (opSxor_proc _ _ s hs))
  · exact .inl (up (opSxor_proc _ _ s hs))
  · exact .inl (up (opSandn_proc _ _ s hs))
  · exact .inl (up (opSandn_proc _ _ s hs))
  · exact .inl (up (opSshl_proc _ _ s hs))
  · exact .inl (up (opSshl_proc _ _ s hs))
  · exact .inl (up (opSshr_proc _ _ s hs))
  · exact .inl (up (opSshr_proc _ _ s hs))
  · exact .inl (up (opSsra_proc _ _ s hs))
  · exact .inl (up (opSsra_proc _ _ s hs))
  · exact .inl (up (opSmin_proc _ _ s hs))
  · exact .inl (up (opSmin_proc _ _ s hs))
  · exact .inl (up (opSmax_proc _ _ s hs))
  · exact .inl (up (opSmax_proc _ _ s hs))
  · exact .inl (up (opScmp_proc _ _ s hs))
  · exact .inl (up (opScmp_proc _ _ s hs))
  · exact .inl (up (opSsel_proc _ _ s hs))
  · exact .inl (up (opSclz_proc _ _ s hs))
  · exact .inl (up (opSclz_proc _ _ s hs))
  · exact .inl (up (opSpopc_proc _ _ s hs))
  · exact .inl (up (opSpopc_proc _ _ s hs))
  · exact .inl (up (opSbfx_proc _ _ s hs))
  · exact .inl (up (opSbfx_proc _ _ s hs))
  · exact .inl (up (opSbfi_proc _ _ s hs))
  · exact .inl (up (opSld_proc _ _ s hs))
  · exact .inl (up (opSst_proc _ _ s hs))
  · exact .inl (up (opSread_proc _ _ s hs))
  · exact .inl (up (opSwrite_proc _ _ s hs))
  · exact .inl (up (opSfromv_proc _ _ s hs))
  · exact .inl (up (opSatom_proc _ _ s hs))
  · exact .inl (up (opBra_proc _ _ s hs))
  · exact .inl (up (opBra_proc _ _ s hs))
  · exact .inl (up (opSbra_proc _ _ s hs))
  · exact .inl (up (opBrx_proc _ _ s hs))
  · exact .inl (up (opBrx_proc _ _ s hs))
  · exact .inl (up (opCall_proc _ _ s hs))
  · exact .inl (up (opCall_proc _ _ s hs))
  · exact .inr (no (opCallx_alien _ _ s hs))
  · exact .inr (no (opCallx_alien _ _ s hs))
  · exact .inl (up (opRet_proc _ _ s hs))
  · exact .inr (no (opRset_alien _ _ s hs))
  · exact .inr (no (opRjoin_alien _ _ s hs))
  · exact .inr (no (opBar_alien _ _ s hs))
  · exact .inr (no (opExit_alien _ _ s hs))
  · exact .inr (no (opMon_alien _ _ s hs))
  · exact .inr (no (opMwait_alien _ _ s hs))
  · exact .inr (no (opMwait_alien _ _ s hs))
  · exact .inr (no (opTrap_alien _ _ s hs))
  · exact .inr (no (opYield_alien _ _ s hs))
  · exact .inr (no (opIfence_alien _ _ s hs))
  · exact .inr (no (opIcinv_alien _ _ s hs))
  · exact .inr (no (opElect_alien _ _ s hs))
  · exact .inr (no (opJmov_alien _ _ s hs))
  · exact .inr (no (opPlog_alien _ _ s hs))
  · exact .inr (no (opPlog_alien _ _ s hs))
  · exact .inr (no (opPmov_alien _ _ s hs))
  · exact .inr (no (opPmov_alien _ _ s hs))
  · exact .inr (no (opVadd_alien _ _ s hs))
  · exact .inr (no (opVadd_alien _ _ s hs))
  · exact .inr (no (opVsub_alien _ _ s hs))
  · exact .inr (no (opVsub_alien _ _ s hs))
  · exact .inr (no (opVmul_alien _ _ s hs))
  · exact .inr (no (opVmul_alien _ _ s hs))
  · exact .inr (no (opVmulh_alien _ _ s hs))
  · exact .inr (no (opVmulh_alien _ _ s hs))
  · exact .inr (no (opVmad_alien _ _ s hs))
  · exact .inr (no (opVabs_alien _ _ s hs))
  · exact .inr (no (opVabs_alien _ _ s hs))
  · exact .inr (no (opVneg_alien _ _ s hs))
  · exact .inr (no (opVneg_alien _ _ s hs))
  · exact .inr (no (opVmin_alien _ _ s hs))
  · exact .inr (no (opVmin_alien _ _ s hs))
  · exact .inr (no (opVmax_alien _ _ s hs))
  · exact .inr (no (opVmax_alien _ _ s hs))
  · exact .inr (no (opVand_alien _ _ s hs))
  · exact .inr (no (opVand_alien _ _ s hs))
  · exact .inr (no (opVor_alien _ _ s hs))
  · exact .inr (no (opVor_alien _ _ s hs))
  · exact .inr (no (opVxor_alien _ _ s hs))
  · exact .inr (no (opVxor_alien _ _ s hs))
  · exact .inr (no (opVandn_alien _ _ s hs))
  · exact .inr (no (opVandn_alien _ _ s hs))
  · exact .inr (no (opVshl_alien _ _ s hs))
  · exact .inr (no (opVshl_alien _ _ s hs))
  · exact .inr (no (opVshr_alien _ _ s hs))
  · exact .inr (no (opVshr_alien _ _ s hs))
  · exact .inr (no (opVsra_alien _ _ s hs))
  · exact .inr (no (opVsra_alien _ _ s hs))
  · exact .inr (no (opVclz_alien _ _ s hs))
  · exact .inr (no (opVclz_alien _ _ s hs))
  · exact .inr (no (opVpopc_alien _ _ s hs))
  · exact .inr (no (opVpopc_alien _ _ s hs))
  · exact .inr (no (opVbfx_alien _ _ s hs))
  · exact .inr (no (opVbfx_alien _ _ s hs))
  · exact .inr (no (opVbfi_alien _ _ s hs))
  · exact .inr (no (opVcmp_alien _ _ s hs))
  · exact .inr (no (opVsel_alien _ _ s hs))
  · exact .inr (no (opVaddsat_alien _ _ s hs))
  · exact .inr (no (opVaddsat_alien _ _ s hs))
  · exact .inr (no (opVsubsat_alien _ _ s hs))
  · exact .inr (no (opVsubsat_alien _ _ s hs))
  · exact .inr (no (opVmov_alien _ _ s hs))
  · exact .inr (no (opVmov_alien _ _ s hs))
  · exact .inr (no (opVli_alien _ _ s hs))
  · exact .inr (no (opVli_alien _ _ s hs))
  · exact .inr (no (opVfroms_alien _ _ s hs))
  · exact .inr (no (opVfroms_alien _ _ s hs))
  · exact .inr (no (opVlane_alien _ _ s hs))
  · exact .inr (no (opVlane_alien _ _ s hs))
  · exact .inr (no (opVfadd_alien _ _ s hs))
  · exact .inr (no (opVfadd_alien _ _ s hs))
  · exact .inr (no (opVfsub_alien _ _ s hs))
  · exact .inr (no (opVfsub_alien _ _ s hs))
  · exact .inr (no (opVfmul_alien _ _ s hs))
  · exact .inr (no (opVfmul_alien _ _ s hs))
  · exact .inr (no (opVfma_alien _ _ s hs))
  · exact .inr (no (opVfmin_alien _ _ s hs))
  · exact .inr (no (opVfmin_alien _ _ s hs))
  · exact .inr (no (opVfmax_alien _ _ s hs))
  · exact .inr (no (opVfmax_alien _ _ s hs))
  · exact .inr (no (opVfabs_alien _ _ s hs))
  · exact .inr (no (opVfabs_alien _ _ s hs))
  · exact .inr (no (opVfneg_alien _ _ s hs))
  · exact .inr (no (opVfneg_alien _ _ s hs))
  · exact .inr (no (opVfcmp_alien _ _ s hs))
  · exact .inr (no (opVfdiv_alien _ _ s hs))
  · exact .inr (no (opVfdiv_alien _ _ s hs))
  · exact .inr (no (opVfsqrt_alien _ _ s hs))
  · exact .inr (no (opVfsqrt_alien _ _ s hs))
  · exact .inr (no (opVrcpa_alien _ _ s hs))
  · exact .inr (no (opVrcpa_alien _ _ s hs))
  · exact .inr (no (opVrsqa_alien _ _ s hs))
  · exact .inr (no (opVrsqa_alien _ _ s hs))
  · exact .inr (no (opVfexp2a_alien _ _ s hs))
  · exact .inr (no (opVfexp2a_alien _ _ s hs))
  · exact .inr (no (opVflog2a_alien _ _ s hs))
  · exact .inr (no (opVflog2a_alien _ _ s hs))
  · exact .inr (no (opVfclass_alien _ _ s hs))
  · exact .inr (no (opVfclass_alien _ _ s hs))
  · exact .inr (no (opVfround_alien _ _ s hs))
  · exact .inr (no (opVfround_alien _ _ s hs))
  · exact .inr (no (opVfldexp_alien _ _ s hs))
  · exact .inr (no (opVfldexp_alien _ _ s hs))
  · exact .inr (no (opVcvt_alien _ _ s hs))
  · exact .inr (no (opVquant_alien _ _ s hs))
  · exact .inr (no (opVdequant_alien _ _ s hs))
  · exact .inr (no (opVshfl_alien _ _ s hs))
  · exact .inr (no (opVrot_alien _ _ s hs))
  · exact .inr (no (opVbcast_alien _ _ s hs))
  · exact .inr (no (opVred_alien _ _ s hs))
  · exact .inr (no (opVscan_alien _ _ s hs))
  · exact .inr (no (opVballot_alien _ _ s hs))
  · exact .inr (no (opVcompact_alien _ _ s hs))
  · exact .inr (no (opLd_alien _ _ s hs))
  · exact .inr (no (opSt_alien _ _ s hs))
  · exact .inr (no (opLds_alien _ _ s hs))
  · exact .inr (no (opSts_alien _ _ s hs))
  · exact .inr (no (opAtom_alien _ _ s hs))
  · exact .inr (no (opAcas_alien _ _ s hs))
  · exact .inr (no (opAtoms_alien _ _ s hs))
  · exact .inr (no (opFence_alien _ _ s hs))
  · exact .inr (no (opStash_alien _ _ s hs))
  · exact .inr (no (opPref_alien _ _ s hs))
  · exact .inr (no (opCpy_alien _ _ s hs))
  · exact .inr (no (opMfill_alien _ _ s hs))
  · exact .inr (no (opXpush_alien _ _ s hs))
  · exact .inr (no (opXpull_alien _ _ s hs))
  · exact .inr (no (opCtrset_alien _ _ s hs))
  · exact .inr (no (opCtrwait_alien _ _ s hs))
  · exact .inr (no (opQcw_alien _ _ s hs))
  · exact .inr (no (opSbind_alien _ _ s hs))
  · exact .inr (no (opSunbind_alien _ _ s hs))
  · exact .inr (no (opStamp_alien _ _ s hs))
  · exact .inr (no (opStampw_alien _ _ s hs))
  · exact .inr (no (opMsend_alien _ _ s hs))
  · exact .inr (no (opQpost_alien _ _ s hs))
  · exact .inr (no (opMset_alien _ _ s hs))
  · exact .inr (no (opMma_alien _ _ s hs))
  · exact .inr (no (opTclr_alien _ _ s hs))
  · exact .inr (no (opTrd_alien _ _ s hs))
  · exact .inr (no (opTwr_alien _ _ s hs))
  · exact .inr (no (opTst_alien _ _ s hs))
  · exact .inr (no (opTld_alien _ _ s hs))
  · exact .inr (no (opTfree_alien _ _ s hs))
  · exact .inr (no (opQdual_alien _ _ s hs))
  · exact .inr (no (opTwait_alien _ _ s hs))
  · exact .inr (no (opSpawn_alien _ _ s hs))
  · exact .inr (no (opKpush_alien _ _ s hs))
  · exact .inr (no (opKpop_alien _ _ s hs))
  · exact .inr (no (opKdone_alien _ _ s hs))
  · exact .inr (no (opKcfg_alien _ _ s hs))
  · exact .inr (no (opKstat_alien _ _ s hs))
  · exact .inl (up (opHlrd_proc _ _ s))
  · exact .inl (up (opHlwr_proc _ _ s))
  · exact .inl (up (opHpref_proc _ _ s))
  · exact .inl (up (opHresp_proc _ _ s))
  · exact .inl (up (opHmsg_proc _ _ s))
  · exact .inl (up (opHkpush_proc _ _ s))
  · exact .inl (up (opHend_proc _ _ s))
  · exact .inl (up (opHbudget_proc _ _ s))
  · exact .inl (up (opCreq_proc _ _ s))
  · exact .inl ⟨_, rfl⟩
  · exact .inl ⟨_, rfl⟩
  · exact .inl (up (opCbar_proc _ _ s))
  · exact .inl (up (opCrel_proc _ _ s))
  · exact .inl (up (opCstat_proc _ _ s))
  · exact .inl (up (opEmsg_proc _ _ s))
  · exact .inl (up (opErecv_proc _ _ s))
  · exact .inl (up (opCtime_proc _ _ s))
  · exact .inl (up (opCstamp_proc _ _ s))
  · exact .inr (no (opRtrap_alien _ _ s hs))
  · exact .inr (no (opPgmode_alien _ _ s hs))
  · exact .inr (no (opTlbinv_alien _ _ s hs))
  · exact .inr (no (opSleep_alien _ _ s hs))

end Sys2Proof.Laws
end

