-- ==== Sys2Proof/Laws/Lanes.lean ====
section
/-!
SUPPORT. Lanes of a group: what changing the lanes of a mask does, and what an issue leaves of them.
-/

namespace Sys2Proof.Laws

open Sys2Proof.Machine

/-- Changing lanes keeps their number. -/
@[simp] theorem length_updLanes (g : Group) (m : W64) (f : Nat → Lane → Lane) : (g.updLanes m f).lanes.length = g.lanes.length := by
  simp [Group.updLanes]

/-- A lane after the lanes of a mask have changed. -/
theorem lane_updLanes (g : Group) (m : W64) (f : Nat → Lane → Lane) (l : Nat) (h : l < g.lanes.length) :
    (g.updLanes m f).lane l = if m.getLsbD l then f l (g.lane l) else g.lane l := by
  simp [Group.updLanes, Group.lane, h]

/-- Changing the lanes of no mask changes nothing. -/
theorem updLanes_zero (g : Group) (f : Nat → Lane → Lane) : g.updLanes 0 f = g := by
  have e : (g.updLanes 0 f).lanes = g.lanes := by
    apply List.ext_getElem
    · simp
    · intro i h1 h2; simp [Group.updLanes]
  show { g with lanes := (g.updLanes 0 f).lanes } = g
  rw [e]

/-- The bundles that an issue leaves are all that it changes of a group at its end. -/
theorem settle_shape (g : Group) (c : Cursor) (b : Bundle) (n : Nat) : ∃ bs, g.settle c b n = { g with bundles := bs } := ⟨_, rfl⟩

/-- The end of an issue leaves lanes as they are. -/
@[simp] theorem settle_lane (g : Group) (c : Cursor) (b : Bundle) (n l : Nat) : (g.settle c b n).lane l = g.lane l := rfl

/-- What an issue changes of its group before its effect. -/
theorem begun_shape (g : Group) (s : State) : ∃ ls bs c, g.begun s = { g with lanes := ls, bundles := bs, lastIssue := c } :=
  ⟨_, _, _, rfl⟩

/-- The bundle's lanes stand at *next* when the effect is computed. -/
theorem begun_lane (g : Group) (s : State) (l : Nat) (h : l < g.lanes.length) :
    (g.begun s).lane l = if s.cur.lanes.getLsbD l then { g.lane l with pc := nextPc s.cur } else g.lane l :=
  lane_updLanes g s.cur.lanes (fun _ x => { x with pc := nextPc s.cur }) l h

/-- An issue keeps the number of lanes. -/
@[simp] theorem length_begun (g : Group) (s : State) : (g.begun s).lanes.length = g.lanes.length :=
  length_updLanes g s.cur.lanes fun _ x => { x with pc := nextPc s.cur }

/-- An effect that changes the issuing group and one thing beside it. -/
theorem issued_beside (g G : Group) (h : Hdr) (s : State) (c : Cursor) :
    issued g h s ({ s with cur := c }.setGroup s.cur.key G) =
      { s with cur := c }.setGroup s.cur.key (G.settle c (g.bundle s.cur.lanes) h.stall.toNat) := by
  simp [issued, complete, State.updGroup, State.setGroup, State.group]

end Sys2Proof.Laws
end

