-- ==== Sys2Proof/Laws/Memory.lean ====
section
/-!
SUPPORT. The bytes of memory: every operation on them keeps the canonical form and leaves the bytes outside its range.
-/

namespace Sys2Proof.Laws

open Sys2Proof.Machine

/-- Writing bytes keeps the canonical form. -/
theorem wf_writeBytes {m : ZMap 8} (h : Memory.wf m = true) (a : Nat) (bs : List Byte) : Memory.wf (writeBytes m a bs) = true := by
  induction bs generalizing m a with
  | nil => exact h
  | cons b bs ih => exact ih (wfFrom_setZ h) (a + 1)

/-- Writing some of the bytes of a range keeps the canonical form. -/
theorem wf_writeMasked {m : ZMap 8} (h : Memory.wf m = true) (a : Nat) (bs : List (Option Byte)) :
    Memory.wf (writeMasked m a bs) = true := by
  induction bs generalizing m a with
  | nil => exact h
  | cons b bs ih => cases b with
    | none => exact ih h (a + 1)
    | some b => exact ih (wfFrom_setZ h) (a + 1)

/-- Keeping the entries of some addresses keeps the canonical form. -/
theorem wfFrom_filter {w lo : Nat} {m : ZMap w} (p : Nat × BitVec w → Bool) (h : wfFrom lo m = true) :
    wfFrom lo (m.filter p) = true := by
  induction m generalizing lo with
  | nil => rfl
  | cons e m ih =>
    obtain ⟨k, v⟩ := e
    have h' := h
    simp only [wfFrom, Bool.and_eq_true, decide_eq_true_eq] at h'
    simp only [List.filter]
    split
    · simp only [wfFrom, Bool.and_eq_true, decide_eq_true_eq]; exact ⟨h'.1, ih h'.2⟩
    · exact wfFrom_mono (ih h'.2) (by omega)

/-- Bytes below a write stay. -/
theorem getZ_writeBytes_below (m : ZMap 8) (a x : Nat) (bs : List Byte) (h : x < a) :
    getZ (writeBytes m a bs) x = getZ m x := by
  induction bs generalizing m a with
  | nil => rfl
  | cons b bs ih => rw [writeBytes, ih _ _ (by omega), getZ_setZ_ne _ _ _ _ (by omega)]

/-- Bytes below a masked write stay. -/
theorem getZ_writeMasked_below (m : ZMap 8) (a x : Nat) (bs : List (Option Byte)) (h : x < a) :
    getZ (writeMasked m a bs) x = getZ m x := by
  induction bs generalizing m a with
  | nil => rfl
  | cons b bs ih => cases b with
    | none => rw [writeMasked, ih _ _ (by omega)]
    | some b => rw [writeMasked, ih _ _ (by omega), getZ_setZ_ne _ _ _ _ (by omega)]

/-- Posting a fault record keeps the canonical form of memory. -/
theorem wf_postRec {s : State} (h : Memory.wf s.mem = true) (r : FaultRec) : Memory.wf (postRec r s).mem = true := by
  unfold postRec
  split
  · split <;> exact h
  · exact wf_writeBytes h _ _

/-- Performing a write keeps the canonical form of memory. -/
theorem wf_performWrite {s : State} (h : Memory.wf s.mem = true) (pa : Nat) (bs : List (Option Byte)) (c : Option Nat) (hc : Bool) :
    Memory.wf (performWrite pa bs c hc s).mem = true := by
  unfold performWrite
  split
  · exact h
  · cases hc <;> exact wf_writeMasked h _ _

/-- Setting bytes one by one keeps the canonical form. -/
theorem wf_sets {m : ZMap 8} (h : Memory.wf m = true) (a : Nat) (p : List (Nat × Byte)) :
    Memory.wf (p.foldl (fun m (i, v) => setZ m (a + i) v) m) = true := by
  induction p generalizing m with
  | nil => exact h
  | cons x p ih => exact ih (wfFrom_setZ h)

/-- Writing the parts of a saved image keeps the canonical form. -/
theorem wf_writeParts {m : ZMap 8} (h : Memory.wf m = true) (a : Nat) (ps : List (Nat × List (Nat × Byte))) :
    Memory.wf (writeParts a ps m) = true := by
  induction ps generalizing m a with
  | nil => exact h
  | cons x ps ih => exact ih (wf_sets (wfFrom_filter _ h) _ _) _

/-- Reset memory is in canonical form. -/
theorem wf_reset : Memory.wf State.reset.mem = true := rfl

end Sys2Proof.Laws
end

