-- ==== Sys2Proof/Laws/State.lean ====
section
/-!
SUPPORT. The small lemmas of State: what each update of one unit leaves as it was, field by field, what it puts where, and the
same for the plainest changes of a group.
-/

namespace Sys2Proof.Laws

open Sys2Proof.Machine

/-! ## An update of one kind of unit leaves every other field -/

@[simp] theorem setCore_mem (s : State) (c : Nat) (x : Core) : (s.setCore c x).mem = s.mem := rfl
@[simp] theorem setCore_groups (s : State) (c : Nat) (x : Core) : (s.setCore c x).groups = s.groups := rfl
@[simp] theorem setCore_blocks (s : State) (c : Nat) (x : Core) : (s.setCore c x).blocks = s.blocks := rfl
@[simp] theorem setCore_launches (s : State) (c : Nat) (x : Core) : (s.setCore c x).launches = s.launches := rfl
@[simp] theorem setCore_reserves (s : State) (c : Nat) (x : Core) : (s.setCore c x).reserves = s.reserves := rfl
@[simp] theorem setCore_job (s : State) (c : Nat) (x : Core) : (s.setCore c x).job = s.job := rfl
@[simp] theorem setCore_saved (s : State) (c : Nat) (x : Core) : (s.setCore c x).saved = s.saved := rfl
@[simp] theorem setCore_dies (s : State) (c : Nat) (x : Core) : (s.setCore c x).dies = s.dies := rfl
@[simp] theorem setCore_accs (s : State) (c : Nat) (x : Core) : (s.setCore c x).accs = s.accs := rfl
@[simp] theorem setCore_l2 (s : State) (c : Nat) (x : Core) : (s.setCore c x).l2 = s.l2 := rfl
@[simp] theorem setCore_slices (s : State) (c : Nat) (x : Core) : (s.setCore c x).slices = s.slices := rfl
@[simp] theorem setCore_fabric (s : State) (c : Nat) (x : Core) : (s.setCore c x).fabric = s.fabric := rfl
@[simp] theorem setCore_regs (s : State) (c : Nat) (x : Core) : (s.setCore c x).regs = s.regs := rfl
@[simp] theorem setCore_demandHeld (s : State) (c : Nat) (x : Core) : (s.setCore c x).demandHeld = s.demandHeld := rfl
@[simp] theorem setCore_flash (s : State) (c : Nat) (x : Core) : (s.setCore c x).flash = s.flash := rfl
@[simp] theorem setCore_hostWait (s : State) (c : Nat) (x : Core) : (s.setCore c x).hostWait = s.hostWait := rfl
@[simp] theorem setCore_priLate (s : State) (c : Nat) (x : Core) : (s.setCore c x).priLate = s.priLate := rfl
@[simp] theorem setCore_qturn (s : State) (c : Nat) (x : Core) : (s.setCore c x).qturn = s.qturn := rfl
@[simp] theorem setCore_msix (s : State) (c : Nat) (x : Core) : (s.setCore c x).msix = s.msix := rfl
@[simp] theorem setCore_ecc (s : State) (c : Nat) (x : Core) : (s.setCore c x).ecc = s.ecc := rfl
@[simp] theorem setCore_errs (s : State) (c : Nat) (x : Core) : (s.setCore c x).errs = s.errs := rfl
@[simp] theorem setCore_handlers (s : State) (c : Nat) (x : Core) : (s.setCore c x).handlers = s.handlers := rfl
@[simp] theorem setCore_ops (s : State) (c : Nat) (x : Core) : (s.setCore c x).ops = s.ops := rfl
@[simp] theorem setCore_queues (s : State) (c : Nat) (x : Core) : (s.setCore c x).queues = s.queues := rfl
@[simp] theorem setCore_kcqs (s : State) (c : Nat) (x : Core) : (s.setCore c x).kcqs = s.kcqs := rfl
@[simp] theorem setCore_spawned (s : State) (c : Nat) (x : Core) : (s.setCore c x).spawned = s.spawned := rfl
@[simp] theorem setCore_mats (s : State) (c : Nat) (x : Core) : (s.setCore c x).mats = s.mats := rfl
@[simp] theorem setCore_homeMaps (s : State) (c : Nat) (x : Core) : (s.setCore c x).homeMaps = s.homeMaps := rfl
@[simp] theorem setCore_stations (s : State) (c : Nat) (x : Core) : (s.setCore c x).stations = s.stations := rfl
@[simp] theorem setCore_comms (s : State) (c : Nat) (x : Core) : (s.setCore c x).comms = s.comms := rfl
@[simp] theorem setCore_adrift (s : State) (c : Nat) (x : Core) : (s.setCore c x).adrift = s.adrift := rfl
@[simp] theorem setCore_lost (s : State) (c : Nat) (x : Core) : (s.setCore c x).lost = s.lost := rfl
@[simp] theorem setCore_custody (s : State) (c : Nat) (x : Core) : (s.setCore c x).custody = s.custody := rfl
@[simp] theorem setCore_net (s : State) (c : Nat) (x : Core) : (s.setCore c x).net = s.net := rfl
@[simp] theorem setCore_ats (s : State) (c : Nat) (x : Core) : (s.setCore c x).ats = s.ats := rfl
@[simp] theorem setCore_pri (s : State) (c : Nat) (x : Core) : (s.setCore c x).pri = s.pri := rfl
@[simp] theorem setCore_atsAsk (s : State) (c : Nat) (x : Core) : (s.setCore c x).atsAsk = s.atsAsk := rfl
@[simp] theorem setCore_priWait (s : State) (c : Nat) (x : Core) : (s.setCore c x).priWait = s.priWait := rfl
@[simp] theorem setCore_atsInv (s : State) (c : Nat) (x : Core) : (s.setCore c x).atsInv = s.atsInv := rfl
@[simp] theorem setCore_hole (s : State) (c : Nat) (x : Core) : (s.setCore c x).hole = s.hole := rfl
@[simp] theorem setCore_l2Tick (s : State) (c : Nat) (x : Core) : (s.setCore c x).l2Tick = s.l2Tick := rfl
@[simp] theorem setCore_nextId (s : State) (c : Nat) (x : Core) : (s.setCore c x).nextId = s.nextId := rfl
@[simp] theorem setCore_schedule (s : State) (c : Nat) (x : Core) : (s.setCore c x).schedule = s.schedule := rfl
@[simp] theorem setCore_turn (s : State) (c : Nat) (x : Core) : (s.setCore c x).turn = s.turn := rfl
@[simp] theorem setCore_cur (s : State) (c : Nat) (x : Core) : (s.setCore c x).cur = s.cur := rfl
@[simp] theorem setCore_input (s : State) (c : Nat) (x : Core) : (s.setCore c x).input = s.input := rfl
@[simp] theorem setCore_freeCtr (s : State) (c : Nat) (x : Core) : (s.setCore c x).freeCtr = s.freeCtr := rfl

@[simp] theorem updCore_mem (s : State) (c : Nat) (f : Core → Core) : (s.updCore c f).mem = s.mem := rfl
@[simp] theorem updCore_groups (s : State) (c : Nat) (f : Core → Core) : (s.updCore c f).groups = s.groups := rfl
@[simp] theorem updCore_blocks (s : State) (c : Nat) (f : Core → Core) : (s.updCore c f).blocks = s.blocks := rfl
@[simp] theorem updCore_launches (s : State) (c : Nat) (f : Core → Core) : (s.updCore c f).launches = s.launches := rfl
@[simp] theorem updCore_reserves (s : State) (c : Nat) (f : Core → Core) : (s.updCore c f).reserves = s.reserves := rfl
@[simp] theorem updCore_job (s : State) (c : Nat) (f : Core → Core) : (s.updCore c f).job = s.job := rfl
@[simp] theorem updCore_saved (s : State) (c : Nat) (f : Core → Core) : (s.updCore c f).saved = s.saved := rfl
@[simp] theorem updCore_dies (s : State) (c : Nat) (f : Core → Core) : (s.updCore c f).dies = s.dies := rfl
@[simp] theorem updCore_accs (s : State) (c : Nat) (f : Core → Core) : (s.updCore c f).accs = s.accs := rfl
@[simp] theorem updCore_l2 (s : State) (c : Nat) (f : Core → Core) : (s.updCore c f).l2 = s.l2 := rfl
@[simp] theorem updCore_slices (s : State) (c : Nat) (f : Core → Core) : (s.updCore c f).slices = s.slices := rfl
@[simp] theorem updCore_fabric (s : State) (c : Nat) (f : Core → Core) : (s.updCore c f).fabric = s.fabric := rfl
@[simp] theorem updCore_regs (s : State) (c : Nat) (f : Core → Core) : (s.updCore c f).regs = s.regs := rfl
@[simp] theorem updCore_demandHeld (s : State) (c : Nat) (f : Core → Core) : (s.updCore c f).demandHeld = s.demandHeld := rfl
@[simp] theorem updCore_flash (s : State) (c : Nat) (f : Core → Core) : (s.updCore c f).flash = s.flash := rfl
@[simp] theorem updCore_hostWait (s : State) (c : Nat) (f : Core → Core) : (s.updCore c f).hostWait = s.hostWait := rfl
@[simp] theorem updCore_priLate (s : State) (c : Nat) (f : Core → Core) : (s.updCore c f).priLate = s.priLate := rfl
@[simp] theorem updCore_qturn (s : State) (c : Nat) (f : Core → Core) : (s.updCore c f).qturn = s.qturn := rfl
@[simp] theorem updCore_msix (s : State) (c : Nat) (f : Core → Core) : (s.updCore c f).msix = s.msix := rfl
@[simp] theorem updCore_ecc (s : State) (c : Nat) (f : Core → Core) : (s.updCore c f).ecc = s.ecc := rfl
@[simp] theorem updCore_errs (s : State) (c : Nat) (f : Core → Core) : (s.updCore c f).errs = s.errs := rfl
@[simp] theorem updCore_handlers (s : State) (c : Nat) (f : Core → Core) : (s.updCore c f).handlers = s.handlers := rfl
@[simp] theorem updCore_ops (s : State) (c : Nat) (f : Core → Core) : (s.updCore c f).ops = s.ops := rfl
@[simp] theorem updCore_queues (s : State) (c : Nat) (f : Core → Core) : (s.updCore c f).queues = s.queues := rfl
@[simp] theorem updCore_kcqs (s : State) (c : Nat) (f : Core → Core) : (s.updCore c f).kcqs = s.kcqs := rfl
@[simp] theorem updCore_spawned (s : State) (c : Nat) (f : Core → Core) : (s.updCore c f).spawned = s.spawned := rfl
@[simp] theorem updCore_mats (s : State) (c : Nat) (f : Core → Core) : (s.updCore c f).mats = s.mats := rfl
@[simp] theorem updCore_homeMaps (s : State) (c : Nat) (f : Core → Core) : (s.updCore c f).homeMaps = s.homeMaps := rfl
@[simp] theorem updCore_stations (s : State) (c : Nat) (f : Core → Core) : (s.updCore c f).stations = s.stations := rfl
@[simp] theorem updCore_comms (s : State) (c : Nat) (f : Core → Core) : (s.updCore c f).comms = s.comms := rfl
@[simp] theorem updCore_adrift (s : State) (c : Nat) (f : Core → Core) : (s.updCore c f).adrift = s.adrift := rfl
@[simp] theorem updCore_lost (s : State) (c : Nat) (f : Core → Core) : (s.updCore c f).lost = s.lost := rfl
@[simp] theorem updCore_custody (s : State) (c : Nat) (f : Core → Core) : (s.updCore c f).custody = s.custody := rfl
@[simp] theorem updCore_net (s : State) (c : Nat) (f : Core → Core) : (s.updCore c f).net = s.net := rfl
@[simp] theorem updCore_ats (s : State) (c : Nat) (f : Core → Core) : (s.updCore c f).ats = s.ats := rfl
@[simp] theorem updCore_pri (s : State) (c : Nat) (f : Core → Core) : (s.updCore c f).pri = s.pri := rfl
@[simp] theorem updCore_atsAsk (s : State) (c : Nat) (f : Core → Core) : (s.updCore c f).atsAsk = s.atsAsk := rfl
@[simp] theorem updCore_priWait (s : State) (c : Nat) (f : Core → Core) : (s.updCore c f).priWait = s.priWait := rfl
@[simp] theorem updCore_atsInv (s : State) (c : Nat) (f : Core → Core) : (s.updCore c f).atsInv = s.atsInv := rfl
@[simp] theorem updCore_hole (s : State) (c : Nat) (f : Core → Core) : (s.updCore c f).hole = s.hole := rfl
@[simp] theorem updCore_l2Tick (s : State) (c : Nat) (f : Core → Core) : (s.updCore c f).l2Tick = s.l2Tick := rfl
@[simp] theorem updCore_nextId (s : State) (c : Nat) (f : Core → Core) : (s.updCore c f).nextId = s.nextId := rfl
@[simp] theorem updCore_schedule (s : State) (c : Nat) (f : Core → Core) : (s.updCore c f).schedule = s.schedule := rfl
@[simp] theorem updCore_turn (s : State) (c : Nat) (f : Core → Core) : (s.updCore c f).turn = s.turn := rfl
@[simp] theorem updCore_cur (s : State) (c : Nat) (f : Core → Core) : (s.updCore c f).cur = s.cur := rfl
@[simp] theorem updCore_input (s : State) (c : Nat) (f : Core → Core) : (s.updCore c f).input = s.input := rfl
@[simp] theorem updCore_freeCtr (s : State) (c : Nat) (f : Core → Core) : (s.updCore c f).freeCtr = s.freeCtr := rfl

@[simp] theorem updDie_mem (s : State) (d : Nat) (f : Die → Die) : (s.updDie d f).mem = s.mem := rfl
@[simp] theorem updDie_cores (s : State) (d : Nat) (f : Die → Die) : (s.updDie d f).cores = s.cores := rfl
@[simp] theorem updDie_groups (s : State) (d : Nat) (f : Die → Die) : (s.updDie d f).groups = s.groups := rfl
@[simp] theorem updDie_blocks (s : State) (d : Nat) (f : Die → Die) : (s.updDie d f).blocks = s.blocks := rfl
@[simp] theorem updDie_launches (s : State) (d : Nat) (f : Die → Die) : (s.updDie d f).launches = s.launches := rfl
@[simp] theorem updDie_reserves (s : State) (d : Nat) (f : Die → Die) : (s.updDie d f).reserves = s.reserves := rfl
@[simp] theorem updDie_job (s : State) (d : Nat) (f : Die → Die) : (s.updDie d f).job = s.job := rfl
@[simp] theorem updDie_saved (s : State) (d : Nat) (f : Die → Die) : (s.updDie d f).saved = s.saved := rfl
@[simp] theorem updDie_accs (s : State) (d : Nat) (f : Die → Die) : (s.updDie d f).accs = s.accs := rfl
@[simp] theorem updDie_l2 (s : State) (d : Nat) (f : Die → Die) : (s.updDie d f).l2 = s.l2 := rfl
@[simp] theorem updDie_slices (s : State) (d : Nat) (f : Die → Die) : (s.updDie d f).slices = s.slices := rfl
@[simp] theorem updDie_fabric (s : State) (d : Nat) (f : Die → Die) : (s.updDie d f).fabric = s.fabric := rfl
@[simp] theorem updDie_regs (s : State) (d : Nat) (f : Die → Die) : (s.updDie d f).regs = s.regs := rfl
@[simp] theorem updDie_demandHeld (s : State) (d : Nat) (f : Die → Die) : (s.updDie d f).demandHeld = s.demandHeld := rfl
@[simp] theorem updDie_flash (s : State) (d : Nat) (f : Die → Die) : (s.updDie d f).flash = s.flash := rfl
@[simp] theorem updDie_hostWait (s : State) (d : Nat) (f : Die → Die) : (s.updDie d f).hostWait = s.hostWait := rfl
@[simp] theorem updDie_priLate (s : State) (d : Nat) (f : Die → Die) : (s.updDie d f).priLate = s.priLate := rfl
@[simp] theorem updDie_qturn (s : State) (d : Nat) (f : Die → Die) : (s.updDie d f).qturn = s.qturn := rfl
@[simp] theorem updDie_msix (s : State) (d : Nat) (f : Die → Die) : (s.updDie d f).msix = s.msix := rfl
@[simp] theorem updDie_ecc (s : State) (d : Nat) (f : Die → Die) : (s.updDie d f).ecc = s.ecc := rfl
@[simp] theorem updDie_errs (s : State) (d : Nat) (f : Die → Die) : (s.updDie d f).errs = s.errs := rfl
@[simp] theorem updDie_handlers (s : State) (d : Nat) (f : Die → Die) : (s.updDie d f).handlers = s.handlers := rfl
@[simp] theorem updDie_ops (s : State) (d : Nat) (f : Die → Die) : (s.updDie d f).ops = s.ops := rfl
@[simp] theorem updDie_queues (s : State) (d : Nat) (f : Die → Die) : (s.updDie d f).queues = s.queues := rfl
@[simp] theorem updDie_kcqs (s : State) (d : Nat) (f : Die → Die) : (s.updDie d f).kcqs = s.kcqs := rfl
@[simp] theorem updDie_spawned (s : State) (d : Nat) (f : Die → Die) : (s.updDie d f).spawned = s.spawned := rfl
@[simp] theorem updDie_mats (s : State) (d : Nat) (f : Die → Die) : (s.updDie d f).mats = s.mats := rfl
@[simp] theorem updDie_homeMaps (s : State) (d : Nat) (f : Die → Die) : (s.updDie d f).homeMaps = s.homeMaps := rfl
@[simp] theorem updDie_stations (s : State) (d : Nat) (f : Die → Die) : (s.updDie d f).stations = s.stations := rfl
@[simp] theorem updDie_comms (s : State) (d : Nat) (f : Die → Die) : (s.updDie d f).comms = s.comms := rfl
@[simp] theorem updDie_adrift (s : State) (d : Nat) (f : Die → Die) : (s.updDie d f).adrift = s.adrift := rfl
@[simp] theorem updDie_lost (s : State) (d : Nat) (f : Die → Die) : (s.updDie d f).lost = s.lost := rfl
@[simp] theorem updDie_custody (s : State) (d : Nat) (f : Die → Die) : (s.updDie d f).custody = s.custody := rfl
@[simp] theorem updDie_net (s : State) (d : Nat) (f : Die → Die) : (s.updDie d f).net = s.net := rfl
@[simp] theorem updDie_ats (s : State) (d : Nat) (f : Die → Die) : (s.updDie d f).ats = s.ats := rfl
@[simp] theorem updDie_pri (s : State) (d : Nat) (f : Die → Die) : (s.updDie d f).pri = s.pri := rfl
@[simp] theorem updDie_atsAsk (s : State) (d : Nat) (f : Die → Die) : (s.updDie d f).atsAsk = s.atsAsk := rfl
@[simp] theorem updDie_priWait (s : State) (d : Nat) (f : Die → Die) : (s.updDie d f).priWait = s.priWait := rfl
@[simp] theorem updDie_atsInv (s : State) (d : Nat) (f : Die → Die) : (s.updDie d f).atsInv = s.atsInv := rfl
@[simp] theorem updDie_hole (s : State) (d : Nat) (f : Die → Die) : (s.updDie d f).hole = s.hole := rfl
@[simp] theorem updDie_l2Tick (s : State) (d : Nat) (f : Die → Die) : (s.updDie d f).l2Tick = s.l2Tick := rfl
@[simp] theorem updDie_nextId (s : State) (d : Nat) (f : Die → Die) : (s.updDie d f).nextId = s.nextId := rfl
@[simp] theorem updDie_schedule (s : State) (d : Nat) (f : Die → Die) : (s.updDie d f).schedule = s.schedule := rfl
@[simp] theorem updDie_turn (s : State) (d : Nat) (f : Die → Die) : (s.updDie d f).turn = s.turn := rfl
@[simp] theorem updDie_cur (s : State) (d : Nat) (f : Die → Die) : (s.updDie d f).cur = s.cur := rfl
@[simp] theorem updDie_input (s : State) (d : Nat) (f : Die → Die) : (s.updDie d f).input = s.input := rfl
@[simp] theorem updDie_freeCtr (s : State) (d : Nat) (f : Die → Die) : (s.updDie d f).freeCtr = s.freeCtr := rfl

@[simp] theorem setGroup_mem (s : State) (k : Nat) (g : Group) : (s.setGroup k g).mem = s.mem := rfl
@[simp] theorem setGroup_cores (s : State) (k : Nat) (g : Group) : (s.setGroup k g).cores = s.cores := rfl
@[simp] theorem setGroup_blocks (s : State) (k : Nat) (g : Group) : (s.setGroup k g).blocks = s.blocks := rfl
@[simp] theorem setGroup_launches (s : State) (k : Nat) (g : Group) : (s.setGroup k g).launches = s.launches := rfl
@[simp] theorem setGroup_reserves (s : State) (k : Nat) (g : Group) : (s.setGroup k g).reserves = s.reserves := rfl
@[simp] theorem setGroup_job (s : State) (k : Nat) (g : Group) : (s.setGroup k g).job = s.job := rfl
@[simp] theorem setGroup_saved (s : State) (k : Nat) (g : Group) : (s.setGroup k g).saved = s.saved := rfl
@[simp] theorem setGroup_dies (s : State) (k : Nat) (g : Group) : (s.setGroup k g).dies = s.dies := rfl
@[simp] theorem setGroup_accs (s : State) (k : Nat) (g : Group) : (s.setGroup k g).accs = s.accs := rfl
@[simp] theorem setGroup_l2 (s : State) (k : Nat) (g : Group) : (s.setGroup k g).l2 = s.l2 := rfl
@[simp] theorem setGroup_slices (s : State) (k : Nat) (g : Group) : (s.setGroup k g).slices = s.slices := rfl
@[simp] theorem setGroup_fabric (s : State) (k : Nat) (g : Group) : (s.setGroup k g).fabric = s.fabric := rfl
@[simp] theorem setGroup_regs (s : State) (k : Nat) (g : Group) : (s.setGroup k g).regs = s.regs := rfl
@[simp] theorem setGroup_demandHeld (s : State) (k : Nat) (g : Group) : (s.setGroup k g).demandHeld = s.demandHeld := rfl
@[simp] theorem setGroup_flash (s : State) (k : Nat) (g : Group) : (s.setGroup k g).flash = s.flash := rfl
@[simp] theorem setGroup_hostWait (s : State) (k : Nat) (g : Group) : (s.setGroup k g).hostWait = s.hostWait := rfl
@[simp] theorem setGroup_priLate (s : State) (k : Nat) (g : Group) : (s.setGroup k g).priLate = s.priLate := rfl
@[simp] theorem setGroup_qturn (s : State) (k : Nat) (g : Group) : (s.setGroup k g).qturn = s.qturn := rfl
@[simp] theorem setGroup_msix (s : State) (k : Nat) (g : Group) : (s.setGroup k g).msix = s.msix := rfl
@[simp] theorem setGroup_ecc (s : State) (k : Nat) (g : Group) : (s.setGroup k g).ecc = s.ecc := rfl
@[simp] theorem setGroup_errs (s : State) (k : Nat) (g : Group) : (s.setGroup k g).errs = s.errs := rfl
@[simp] theorem setGroup_handlers (s : State) (k : Nat) (g : Group) : (s.setGroup k g).handlers = s.handlers := rfl
@[simp] theorem setGroup_ops (s : State) (k : Nat) (g : Group) : (s.setGroup k g).ops = s.ops := rfl
@[simp] theorem setGroup_queues (s : State) (k : Nat) (g : Group) : (s.setGroup k g).queues = s.queues := rfl
@[simp] theorem setGroup_kcqs (s : State) (k : Nat) (g : Group) : (s.setGroup k g).kcqs = s.kcqs := rfl
@[simp] theorem setGroup_spawned (s : State) (k : Nat) (g : Group) : (s.setGroup k g).spawned = s.spawned := rfl
@[simp] theorem setGroup_mats (s : State) (k : Nat) (g : Group) : (s.setGroup k g).mats = s.mats := rfl
@[simp] theorem setGroup_homeMaps (s : State) (k : Nat) (g : Group) : (s.setGroup k g).homeMaps = s.homeMaps := rfl
@[simp] theorem setGroup_stations (s : State) (k : Nat) (g : Group) : (s.setGroup k g).stations = s.stations := rfl
@[simp] theorem setGroup_comms (s : State) (k : Nat) (g : Group) : (s.setGroup k g).comms = s.comms := rfl
@[simp] theorem setGroup_adrift (s : State) (k : Nat) (g : Group) : (s.setGroup k g).adrift = s.adrift := rfl
@[simp] theorem setGroup_lost (s : State) (k : Nat) (g : Group) : (s.setGroup k g).lost = s.lost := rfl
@[simp] theorem setGroup_custody (s : State) (k : Nat) (g : Group) : (s.setGroup k g).custody = s.custody := rfl
@[simp] theorem setGroup_net (s : State) (k : Nat) (g : Group) : (s.setGroup k g).net = s.net := rfl
@[simp] theorem setGroup_ats (s : State) (k : Nat) (g : Group) : (s.setGroup k g).ats = s.ats := rfl
@[simp] theorem setGroup_pri (s : State) (k : Nat) (g : Group) : (s.setGroup k g).pri = s.pri := rfl
@[simp] theorem setGroup_atsAsk (s : State) (k : Nat) (g : Group) : (s.setGroup k g).atsAsk = s.atsAsk := rfl
@[simp] theorem setGroup_priWait (s : State) (k : Nat) (g : Group) : (s.setGroup k g).priWait = s.priWait := rfl
@[simp] theorem setGroup_atsInv (s : State) (k : Nat) (g : Group) : (s.setGroup k g).atsInv = s.atsInv := rfl
@[simp] theorem setGroup_hole (s : State) (k : Nat) (g : Group) : (s.setGroup k g).hole = s.hole := rfl
@[simp] theorem setGroup_l2Tick (s : State) (k : Nat) (g : Group) : (s.setGroup k g).l2Tick = s.l2Tick := rfl
@[simp] theorem setGroup_nextId (s : State) (k : Nat) (g : Group) : (s.setGroup k g).nextId = s.nextId := rfl
@[simp] theorem setGroup_schedule (s : State) (k : Nat) (g : Group) : (s.setGroup k g).schedule = s.schedule := rfl
@[simp] theorem setGroup_turn (s : State) (k : Nat) (g : Group) : (s.setGroup k g).turn = s.turn := rfl
@[simp] theorem setGroup_cur (s : State) (k : Nat) (g : Group) : (s.setGroup k g).cur = s.cur := rfl
@[simp] theorem setGroup_input (s : State) (k : Nat) (g : Group) : (s.setGroup k g).input = s.input := rfl
@[simp] theorem setGroup_freeCtr (s : State) (k : Nat) (g : Group) : (s.setGroup k g).freeCtr = s.freeCtr := rfl

@[simp] theorem updGroup_mem (s : State) (k : Nat) (f : Group → Group) : (s.updGroup k f).mem = s.mem := by unfold State.updGroup; split <;> rfl
@[simp] theorem updGroup_cores (s : State) (k : Nat) (f : Group → Group) : (s.updGroup k f).cores = s.cores := by unfold State.updGroup; split <;> rfl
@[simp] theorem updGroup_blocks (s : State) (k : Nat) (f : Group → Group) : (s.updGroup k f).blocks = s.blocks := by unfold State.updGroup; split <;> rfl
@[simp] theorem updGroup_launches (s : State) (k : Nat) (f : Group → Group) : (s.updGroup k f).launches = s.launches := by unfold State.updGroup; split <;> rfl
@[simp] theorem updGroup_reserves (s : State) (k : Nat) (f : Group → Group) : (s.updGroup k f).reserves = s.reserves := by unfold State.updGroup; split <;> rfl
@[simp] theorem updGroup_job (s : State) (k : Nat) (f : Group → Group) : (s.updGroup k f).job = s.job := by unfold State.updGroup; split <;> rfl
@[simp] theorem updGroup_saved (s : State) (k : Nat) (f : Group → Group) : (s.updGroup k f).saved = s.saved := by unfold State.updGroup; split <;> rfl
@[simp] theorem updGroup_dies (s : State) (k : Nat) (f : Group → Group) : (s.updGroup k f).dies = s.dies := by unfold State.updGroup; split <;> rfl
@[simp] theorem updGroup_accs (s : State) (k : Nat) (f : Group → Group) : (s.updGroup k f).accs = s.accs := by unfold State.updGroup; split <;> rfl
@[simp] theorem updGroup_l2 (s : State) (k : Nat) (f : Group → Group) : (s.updGroup k f).l2 = s.l2 := by unfold State.updGroup; split <;> rfl
@[simp] theorem updGroup_slices (s : State) (k : Nat) (f : Group → Group) : (s.updGroup k f).slices = s.slices := by unfold State.updGroup; split <;> rfl
@[simp] theorem updGroup_fabric (s : State) (k : Nat) (f : Group → Group) : (s.updGroup k f).fabric = s.fabric := by unfold State.updGroup; split <;> rfl
@[simp] theorem updGroup_regs (s : State) (k : Nat) (f : Group → Group) : (s.updGroup k f).regs = s.regs := by unfold State.updGroup; split <;> rfl
@[simp] theorem updGroup_demandHeld (s : State) (k : Nat) (f : Group → Group) : (s.updGroup k f).demandHeld = s.demandHeld := by unfold State.updGroup; split <;> rfl
@[simp] theorem updGroup_flash (s : State) (k : Nat) (f : Group → Group) : (s.updGroup k f).flash = s.flash := by unfold State.updGroup; split <;> rfl
@[simp] theorem updGroup_hostWait (s : State) (k : Nat) (f : Group → Group) : (s.updGroup k f).hostWait = s.hostWait := by unfold State.updGroup; split <;> rfl
@[simp] theorem updGroup_priLate (s : State) (k : Nat) (f : Group → Group) : (s.updGroup k f).priLate = s.priLate := by unfold State.updGroup; split <;> rfl
@[simp] theorem updGroup_qturn (s : State) (k : Nat) (f : Group → Group) : (s.updGroup k f).qturn = s.qturn := by unfold State.updGroup; split <;> rfl
@[simp] theorem updGroup_msix (s : State) (k : Nat) (f : Group → Group) : (s.updGroup k f).msix = s.msix := by unfold State.updGroup; split <;> rfl
@[simp] theorem updGroup_ecc (s : State) (k : Nat) (f : Group → Group) : (s.updGroup k f).ecc = s.ecc := by unfold State.updGroup; split <;> rfl
@[simp] theorem updGroup_errs (s : State) (k : Nat) (f : Group → Group) : (s.updGroup k f).errs = s.errs := by unfold State.updGroup; split <;> rfl
@[simp] theorem updGroup_handlers (s : State) (k : Nat) (f : Group → Group) : (s.updGroup k f).handlers = s.handlers := by unfold State.updGroup; split <;> rfl
@[simp] theorem updGroup_ops (s : State) (k : Nat) (f : Group → Group) : (s.updGroup k f).ops = s.ops := by unfold State.updGroup; split <;> rfl
@[simp] theorem updGroup_queues (s : State) (k : Nat) (f : Group → Group) : (s.updGroup k f).queues = s.queues := by unfold State.updGroup; split <;> rfl
@[simp] theorem updGroup_kcqs (s : State) (k : Nat) (f : Group → Group) : (s.updGroup k f).kcqs = s.kcqs := by unfold State.updGroup; split <;> rfl
@[simp] theorem updGroup_spawned (s : State) (k : Nat) (f : Group → Group) : (s.updGroup k f).spawned = s.spawned := by unfold State.updGroup; split <;> rfl
@[simp] theorem updGroup_mats (s : State) (k : Nat) (f : Group → Group) : (s.updGroup k f).mats = s.mats := by unfold State.updGroup; split <;> rfl
@[simp] theorem updGroup_homeMaps (s : State) (k : Nat) (f : Group → Group) : (s.updGroup k f).homeMaps = s.homeMaps := by unfold State.updGroup; split <;> rfl
@[simp] theorem updGroup_stations (s : State) (k : Nat) (f : Group → Group) : (s.updGroup k f).stations = s.stations := by unfold State.updGroup; split <;> rfl
@[simp] theorem updGroup_comms (s : State) (k : Nat) (f : Group → Group) : (s.updGroup k f).comms = s.comms := by unfold State.updGroup; split <;> rfl
@[simp] theorem updGroup_adrift (s : State) (k : Nat) (f : Group → Group) : (s.updGroup k f).adrift = s.adrift := by unfold State.updGroup; split <;> rfl
@[simp] theorem updGroup_lost (s : State) (k : Nat) (f : Group → Group) : (s.updGroup k f).lost = s.lost := by unfold State.updGroup; split <;> rfl
@[simp] theorem updGroup_custody (s : State) (k : Nat) (f : Group → Group) : (s.updGroup k f).custody = s.custody := by unfold State.updGroup; split <;> rfl
@[simp] theorem updGroup_net (s : State) (k : Nat) (f : Group → Group) : (s.updGroup k f).net = s.net := by unfold State.updGroup; split <;> rfl
@[simp] theorem updGroup_ats (s : State) (k : Nat) (f : Group → Group) : (s.updGroup k f).ats = s.ats := by unfold State.updGroup; split <;> rfl
@[simp] theorem updGroup_pri (s : State) (k : Nat) (f : Group → Group) : (s.updGroup k f).pri = s.pri := by unfold State.updGroup; split <;> rfl
@[simp] theorem updGroup_atsAsk (s : State) (k : Nat) (f : Group → Group) : (s.updGroup k f).atsAsk = s.atsAsk := by unfold State.updGroup; split <;> rfl
@[simp] theorem updGroup_priWait (s : State) (k : Nat) (f : Group → Group) : (s.updGroup k f).priWait = s.priWait := by unfold State.updGroup; split <;> rfl
@[simp] theorem updGroup_atsInv (s : State) (k : Nat) (f : Group → Group) : (s.updGroup k f).atsInv = s.atsInv := by unfold State.updGroup; split <;> rfl
@[simp] theorem updGroup_hole (s : State) (k : Nat) (f : Group → Group) : (s.updGroup k f).hole = s.hole := by unfold State.updGroup; split <;> rfl
@[simp] theorem updGroup_l2Tick (s : State) (k : Nat) (f : Group → Group) : (s.updGroup k f).l2Tick = s.l2Tick := by unfold State.updGroup; split <;> rfl
@[simp] theorem updGroup_nextId (s : State) (k : Nat) (f : Group → Group) : (s.updGroup k f).nextId = s.nextId := by unfold State.updGroup; split <;> rfl
@[simp] theorem updGroup_schedule (s : State) (k : Nat) (f : Group → Group) : (s.updGroup k f).schedule = s.schedule := by unfold State.updGroup; split <;> rfl
@[simp] theorem updGroup_turn (s : State) (k : Nat) (f : Group → Group) : (s.updGroup k f).turn = s.turn := by unfold State.updGroup; split <;> rfl
@[simp] theorem updGroup_cur (s : State) (k : Nat) (f : Group → Group) : (s.updGroup k f).cur = s.cur := by unfold State.updGroup; split <;> rfl
@[simp] theorem updGroup_input (s : State) (k : Nat) (f : Group → Group) : (s.updGroup k f).input = s.input := by unfold State.updGroup; split <;> rfl
@[simp] theorem updGroup_freeCtr (s : State) (k : Nat) (f : Group → Group) : (s.updGroup k f).freeCtr = s.freeCtr := by unfold State.updGroup; split <;> rfl

@[simp] theorem updBlock_mem (s : State) (b : Nat) (f : Block → Block) : (s.updBlock b f).mem = s.mem := by unfold State.updBlock; split <;> rfl
@[simp] theorem updBlock_cores (s : State) (b : Nat) (f : Block → Block) : (s.updBlock b f).cores = s.cores := by unfold State.updBlock; split <;> rfl
@[simp] theorem updBlock_groups (s : State) (b : Nat) (f : Block → Block) : (s.updBlock b f).groups = s.groups := by unfold State.updBlock; split <;> rfl
@[simp] theorem updBlock_launches (s : State) (b : Nat) (f : Block → Block) : (s.updBlock b f).launches = s.launches := by unfold State.updBlock; split <;> rfl
@[simp] theorem updBlock_reserves (s : State) (b : Nat) (f : Block → Block) : (s.updBlock b f).reserves = s.reserves := by unfold State.updBlock; split <;> rfl
@[simp] theorem updBlock_job (s : State) (b : Nat) (f : Block → Block) : (s.updBlock b f).job = s.job := by unfold State.updBlock; split <;> rfl
@[simp] theorem updBlock_saved (s : State) (b : Nat) (f : Block → Block) : (s.updBlock b f).saved = s.saved := by unfold State.updBlock; split <;> rfl
@[simp] theorem updBlock_dies (s : State) (b : Nat) (f : Block → Block) : (s.updBlock b f).dies = s.dies := by unfold State.updBlock; split <;> rfl
@[simp] theorem updBlock_accs (s : State) (b : Nat) (f : Block → Block) : (s.updBlock b f).accs = s.accs := by unfold State.updBlock; split <;> rfl
@[simp] theorem updBlock_l2 (s : State) (b : Nat) (f : Block → Block) : (s.updBlock b f).l2 = s.l2 := by unfold State.updBlock; split <;> rfl
@[simp] theorem updBlock_slices (s : State) (b : Nat) (f : Block → Block) : (s.updBlock b f).slices = s.slices := by unfold State.updBlock; split <;> rfl
@[simp] theorem updBlock_fabric (s : State) (b : Nat) (f : Block → Block) : (s.updBlock b f).fabric = s.fabric := by unfold State.updBlock; split <;> rfl
@[simp] theorem updBlock_regs (s : State) (b : Nat) (f : Block → Block) : (s.updBlock b f).regs = s.regs := by unfold State.updBlock; split <;> rfl
@[simp] theorem updBlock_demandHeld (s : State) (b : Nat) (f : Block → Block) : (s.updBlock b f).demandHeld = s.demandHeld := by unfold State.updBlock; split <;> rfl
@[simp] theorem updBlock_flash (s : State) (b : Nat) (f : Block → Block) : (s.updBlock b f).flash = s.flash := by unfold State.updBlock; split <;> rfl
@[simp] theorem updBlock_hostWait (s : State) (b : Nat) (f : Block → Block) : (s.updBlock b f).hostWait = s.hostWait := by unfold State.updBlock; split <;> rfl
@[simp] theorem updBlock_priLate (s : State) (b : Nat) (f : Block → Block) : (s.updBlock b f).priLate = s.priLate := by unfold State.updBlock; split <;> rfl
@[simp] theorem updBlock_qturn (s : State) (b : Nat) (f : Block → Block) : (s.updBlock b f).qturn = s.qturn := by unfold State.updBlock; split <;> rfl
@[simp] theorem updBlock_msix (s : State) (b : Nat) (f : Block → Block) : (s.updBlock b f).msix = s.msix := by unfold State.updBlock; split <;> rfl
@[simp] theorem updBlock_ecc (s : State) (b : Nat) (f : Block → Block) : (s.updBlock b f).ecc = s.ecc := by unfold State.updBlock; split <;> rfl
@[simp] theorem updBlock_errs (s : State) (b : Nat) (f : Block → Block) : (s.updBlock b f).errs = s.errs := by unfold State.updBlock; split <;> rfl
@[simp] theorem updBlock_handlers (s : State) (b : Nat) (f : Block → Block) : (s.updBlock b f).handlers = s.handlers := by unfold State.updBlock; split <;> rfl
@[simp] theorem updBlock_ops (s : State) (b : Nat) (f : Block → Block) : (s.updBlock b f).ops = s.ops := by unfold State.updBlock; split <;> rfl
@[simp] theorem updBlock_queues (s : State) (b : Nat) (f : Block → Block) : (s.updBlock b f).queues = s.queues := by unfold State.updBlock; split <;> rfl
@[simp] theorem updBlock_kcqs (s : State) (b : Nat) (f : Block → Block) : (s.updBlock b f).kcqs = s.kcqs := by unfold State.updBlock; split <;> rfl
@[simp] theorem updBlock_spawned (s : State) (b : Nat) (f : Block → Block) : (s.updBlock b f).spawned = s.spawned := by unfold State.updBlock; split <;> rfl
@[simp] theorem updBlock_mats (s : State) (b : Nat) (f : Block → Block) : (s.updBlock b f).mats = s.mats := by unfold State.updBlock; split <;> rfl
@[simp] theorem updBlock_homeMaps (s : State) (b : Nat) (f : Block → Block) : (s.updBlock b f).homeMaps = s.homeMaps := by unfold State.updBlock; split <;> rfl
@[simp] theorem updBlock_stations (s : State) (b : Nat) (f : Block → Block) : (s.updBlock b f).stations = s.stations := by unfold State.updBlock; split <;> rfl
@[simp] theorem updBlock_comms (s : State) (b : Nat) (f : Block → Block) : (s.updBlock b f).comms = s.comms := by unfold State.updBlock; split <;> rfl
@[simp] theorem updBlock_adrift (s : State) (b : Nat) (f : Block → Block) : (s.updBlock b f).adrift = s.adrift := by unfold State.updBlock; split <;> rfl
@[simp] theorem updBlock_lost (s : State) (b : Nat) (f : Block → Block) : (s.updBlock b f).lost = s.lost := by unfold State.updBlock; split <;> rfl
@[simp] theorem updBlock_custody (s : State) (b : Nat) (f : Block → Block) : (s.updBlock b f).custody = s.custody := by unfold State.updBlock; split <;> rfl
@[simp] theorem updBlock_net (s : State) (b : Nat) (f : Block → Block) : (s.updBlock b f).net = s.net := by unfold State.updBlock; split <;> rfl
@[simp] theorem updBlock_ats (s : State) (b : Nat) (f : Block → Block) : (s.updBlock b f).ats = s.ats := by unfold State.updBlock; split <;> rfl
@[simp] theorem updBlock_pri (s : State) (b : Nat) (f : Block → Block) : (s.updBlock b f).pri = s.pri := by unfold State.updBlock; split <;> rfl
@[simp] theorem updBlock_atsAsk (s : State) (b : Nat) (f : Block → Block) : (s.updBlock b f).atsAsk = s.atsAsk := by unfold State.updBlock; split <;> rfl
@[simp] theorem updBlock_priWait (s : State) (b : Nat) (f : Block → Block) : (s.updBlock b f).priWait = s.priWait := by unfold State.updBlock; split <;> rfl
@[simp] theorem updBlock_atsInv (s : State) (b : Nat) (f : Block → Block) : (s.updBlock b f).atsInv = s.atsInv := by unfold State.updBlock; split <;> rfl
@[simp] theorem updBlock_hole (s : State) (b : Nat) (f : Block → Block) : (s.updBlock b f).hole = s.hole := by unfold State.updBlock; split <;> rfl
@[simp] theorem updBlock_l2Tick (s : State) (b : Nat) (f : Block → Block) : (s.updBlock b f).l2Tick = s.l2Tick := by unfold State.updBlock; split <;> rfl
@[simp] theorem updBlock_nextId (s : State) (b : Nat) (f : Block → Block) : (s.updBlock b f).nextId = s.nextId := by unfold State.updBlock; split <;> rfl
@[simp] theorem updBlock_schedule (s : State) (b : Nat) (f : Block → Block) : (s.updBlock b f).schedule = s.schedule := by unfold State.updBlock; split <;> rfl
@[simp] theorem updBlock_turn (s : State) (b : Nat) (f : Block → Block) : (s.updBlock b f).turn = s.turn := by unfold State.updBlock; split <;> rfl
@[simp] theorem updBlock_cur (s : State) (b : Nat) (f : Block → Block) : (s.updBlock b f).cur = s.cur := by unfold State.updBlock; split <;> rfl
@[simp] theorem updBlock_input (s : State) (b : Nat) (f : Block → Block) : (s.updBlock b f).input = s.input := by unfold State.updBlock; split <;> rfl
@[simp] theorem updBlock_freeCtr (s : State) (b : Nat) (f : Block → Block) : (s.updBlock b f).freeCtr = s.freeCtr := by unfold State.updBlock; split <;> rfl

@[simp] theorem setHeld_mem (s : State) : (s.setHeld).mem = s.mem := rfl
@[simp] theorem setHeld_cores (s : State) : (s.setHeld).cores = s.cores := rfl
@[simp] theorem setHeld_groups (s : State) : (s.setHeld).groups = s.groups := rfl
@[simp] theorem setHeld_blocks (s : State) : (s.setHeld).blocks = s.blocks := rfl
@[simp] theorem setHeld_launches (s : State) : (s.setHeld).launches = s.launches := rfl
@[simp] theorem setHeld_reserves (s : State) : (s.setHeld).reserves = s.reserves := rfl
@[simp] theorem setHeld_job (s : State) : (s.setHeld).job = s.job := rfl
@[simp] theorem setHeld_saved (s : State) : (s.setHeld).saved = s.saved := rfl
@[simp] theorem setHeld_dies (s : State) : (s.setHeld).dies = s.dies := rfl
@[simp] theorem setHeld_accs (s : State) : (s.setHeld).accs = s.accs := rfl
@[simp] theorem setHeld_l2 (s : State) : (s.setHeld).l2 = s.l2 := rfl
@[simp] theorem setHeld_slices (s : State) : (s.setHeld).slices = s.slices := rfl
@[simp] theorem setHeld_fabric (s : State) : (s.setHeld).fabric = s.fabric := rfl
@[simp] theorem setHeld_regs (s : State) : (s.setHeld).regs = s.regs := rfl
@[simp] theorem setHeld_demandHeld (s : State) : (s.setHeld).demandHeld = s.demandHeld := rfl
@[simp] theorem setHeld_flash (s : State) : (s.setHeld).flash = s.flash := rfl
@[simp] theorem setHeld_hostWait (s : State) : (s.setHeld).hostWait = s.hostWait := rfl
@[simp] theorem setHeld_priLate (s : State) : (s.setHeld).priLate = s.priLate := rfl
@[simp] theorem setHeld_qturn (s : State) : (s.setHeld).qturn = s.qturn := rfl
@[simp] theorem setHeld_msix (s : State) : (s.setHeld).msix = s.msix := rfl
@[simp] theorem setHeld_ecc (s : State) : (s.setHeld).ecc = s.ecc := rfl
@[simp] theorem setHeld_errs (s : State) : (s.setHeld).errs = s.errs := rfl
@[simp] theorem setHeld_handlers (s : State) : (s.setHeld).handlers = s.handlers := rfl
@[simp] theorem setHeld_ops (s : State) : (s.setHeld).ops = s.ops := rfl
@[simp] theorem setHeld_queues (s : State) : (s.setHeld).queues = s.queues := rfl
@[simp] theorem setHeld_kcqs (s : State) : (s.setHeld).kcqs = s.kcqs := rfl
@[simp] theorem setHeld_spawned (s : State) : (s.setHeld).spawned = s.spawned := rfl
@[simp] theorem setHeld_mats (s : State) : (s.setHeld).mats = s.mats := rfl
@[simp] theorem setHeld_homeMaps (s : State) : (s.setHeld).homeMaps = s.homeMaps := rfl
@[simp] theorem setHeld_stations (s : State) : (s.setHeld).stations = s.stations := rfl
@[simp] theorem setHeld_comms (s : State) : (s.setHeld).comms = s.comms := rfl
@[simp] theorem setHeld_adrift (s : State) : (s.setHeld).adrift = s.adrift := rfl
@[simp] theorem setHeld_lost (s : State) : (s.setHeld).lost = s.lost := rfl
@[simp] theorem setHeld_custody (s : State) : (s.setHeld).custody = s.custody := rfl
@[simp] theorem setHeld_net (s : State) : (s.setHeld).net = s.net := rfl
@[simp] theorem setHeld_ats (s : State) : (s.setHeld).ats = s.ats := rfl
@[simp] theorem setHeld_pri (s : State) : (s.setHeld).pri = s.pri := rfl
@[simp] theorem setHeld_atsAsk (s : State) : (s.setHeld).atsAsk = s.atsAsk := rfl
@[simp] theorem setHeld_priWait (s : State) : (s.setHeld).priWait = s.priWait := rfl
@[simp] theorem setHeld_atsInv (s : State) : (s.setHeld).atsInv = s.atsInv := rfl
@[simp] theorem setHeld_hole (s : State) : (s.setHeld).hole = s.hole := rfl
@[simp] theorem setHeld_l2Tick (s : State) : (s.setHeld).l2Tick = s.l2Tick := rfl
@[simp] theorem setHeld_nextId (s : State) : (s.setHeld).nextId = s.nextId := rfl
@[simp] theorem setHeld_schedule (s : State) : (s.setHeld).schedule = s.schedule := rfl
@[simp] theorem setHeld_turn (s : State) : (s.setHeld).turn = s.turn := rfl
@[simp] theorem setHeld_input (s : State) : (s.setHeld).input = s.input := rfl
@[simp] theorem setHeld_freeCtr (s : State) : (s.setHeld).freeCtr = s.freeCtr := rfl

@[simp] theorem updSlice_mem (s : State) (n : Nat) (f : Slice → Slice) : (s.updSlice n f).mem = s.mem := rfl
@[simp] theorem updSlice_cores (s : State) (n : Nat) (f : Slice → Slice) : (s.updSlice n f).cores = s.cores := rfl
@[simp] theorem updSlice_groups (s : State) (n : Nat) (f : Slice → Slice) : (s.updSlice n f).groups = s.groups := rfl
@[simp] theorem updSlice_blocks (s : State) (n : Nat) (f : Slice → Slice) : (s.updSlice n f).blocks = s.blocks := rfl
@[simp] theorem updSlice_launches (s : State) (n : Nat) (f : Slice → Slice) : (s.updSlice n f).launches = s.launches := rfl
@[simp] theorem updSlice_reserves (s : State) (n : Nat) (f : Slice → Slice) : (s.updSlice n f).reserves = s.reserves := rfl
@[simp] theorem updSlice_job (s : State) (n : Nat) (f : Slice → Slice) : (s.updSlice n f).job = s.job := rfl
@[simp] theorem updSlice_saved (s : State) (n : Nat) (f : Slice → Slice) : (s.updSlice n f).saved = s.saved := rfl
@[simp] theorem updSlice_dies (s : State) (n : Nat) (f : Slice → Slice) : (s.updSlice n f).dies = s.dies := rfl
@[simp] theorem updSlice_accs (s : State) (n : Nat) (f : Slice → Slice) : (s.updSlice n f).accs = s.accs := rfl
@[simp] theorem updSlice_l2 (s : State) (n : Nat) (f : Slice → Slice) : (s.updSlice n f).l2 = s.l2 := rfl
@[simp] theorem updSlice_fabric (s : State) (n : Nat) (f : Slice → Slice) : (s.updSlice n f).fabric = s.fabric := rfl
@[simp] theorem updSlice_regs (s : State) (n : Nat) (f : Slice → Slice) : (s.updSlice n f).regs = s.regs := rfl
@[simp] theorem updSlice_demandHeld (s : State) (n : Nat) (f : Slice → Slice) : (s.updSlice n f).demandHeld = s.demandHeld := rfl
@[simp] theorem updSlice_flash (s : State) (n : Nat) (f : Slice → Slice) : (s.updSlice n f).flash = s.flash := rfl
@[simp] theorem updSlice_hostWait (s : State) (n : Nat) (f : Slice → Slice) : (s.updSlice n f).hostWait = s.hostWait := rfl
@[simp] theorem updSlice_priLate (s : State) (n : Nat) (f : Slice → Slice) : (s.updSlice n f).priLate = s.priLate := rfl
@[simp] theorem updSlice_qturn (s : State) (n : Nat) (f : Slice → Slice) : (s.updSlice n f).qturn = s.qturn := rfl
@[simp] theorem updSlice_msix (s : State) (n : Nat) (f : Slice → Slice) : (s.updSlice n f).msix = s.msix := rfl
@[simp] theorem updSlice_ecc (s : State) (n : Nat) (f : Slice → Slice) : (s.updSlice n f).ecc = s.ecc := rfl
@[simp] theorem updSlice_errs (s : State) (n : Nat) (f : Slice → Slice) : (s.updSlice n f).errs = s.errs := rfl
@[simp] theorem updSlice_handlers (s : State) (n : Nat) (f : Slice → Slice) : (s.updSlice n f).handlers = s.handlers := rfl
@[simp] theorem updSlice_ops (s : State) (n : Nat) (f : Slice → Slice) : (s.updSlice n f).ops = s.ops := rfl
@[simp] theorem updSlice_queues (s : State) (n : Nat) (f : Slice → Slice) : (s.updSlice n f).queues = s.queues := rfl
@[simp] theorem updSlice_kcqs (s : State) (n : Nat) (f : Slice → Slice) : (s.updSlice n f).kcqs = s.kcqs := rfl
@[simp] theorem updSlice_spawned (s : State) (n : Nat) (f : Slice → Slice) : (s.updSlice n f).spawned = s.spawned := rfl
@[simp] theorem updSlice_mats (s : State) (n : Nat) (f : Slice → Slice) : (s.updSlice n f).mats = s.mats := rfl
@[simp] theorem updSlice_homeMaps (s : State) (n : Nat) (f : Slice → Slice) : (s.updSlice n f).homeMaps = s.homeMaps := rfl
@[simp] theorem updSlice_stations (s : State) (n : Nat) (f : Slice → Slice) : (s.updSlice n f).stations = s.stations := rfl
@[simp] theorem updSlice_comms (s : State) (n : Nat) (f : Slice → Slice) : (s.updSlice n f).comms = s.comms := rfl
@[simp] theorem updSlice_adrift (s : State) (n : Nat) (f : Slice → Slice) : (s.updSlice n f).adrift = s.adrift := rfl
@[simp] theorem updSlice_lost (s : State) (n : Nat) (f : Slice → Slice) : (s.updSlice n f).lost = s.lost := rfl
@[simp] theorem updSlice_custody (s : State) (n : Nat) (f : Slice → Slice) : (s.updSlice n f).custody = s.custody := rfl
@[simp] theorem updSlice_net (s : State) (n : Nat) (f : Slice → Slice) : (s.updSlice n f).net = s.net := rfl
@[simp] theorem updSlice_ats (s : State) (n : Nat) (f : Slice → Slice) : (s.updSlice n f).ats = s.ats := rfl
@[simp] theorem updSlice_pri (s : State) (n : Nat) (f : Slice → Slice) : (s.updSlice n f).pri = s.pri := rfl
@[simp] theorem updSlice_atsAsk (s : State) (n : Nat) (f : Slice → Slice) : (s.updSlice n f).atsAsk = s.atsAsk := rfl
@[simp] theorem updSlice_priWait (s : State) (n : Nat) (f : Slice → Slice) : (s.updSlice n f).priWait = s.priWait := rfl
@[simp] theorem updSlice_atsInv (s : State) (n : Nat) (f : Slice → Slice) : (s.updSlice n f).atsInv = s.atsInv := rfl
@[simp] theorem updSlice_hole (s : State) (n : Nat) (f : Slice → Slice) : (s.updSlice n f).hole = s.hole := rfl
@[simp] theorem updSlice_l2Tick (s : State) (n : Nat) (f : Slice → Slice) : (s.updSlice n f).l2Tick = s.l2Tick := rfl
@[simp] theorem updSlice_nextId (s : State) (n : Nat) (f : Slice → Slice) : (s.updSlice n f).nextId = s.nextId := rfl
@[simp] theorem updSlice_schedule (s : State) (n : Nat) (f : Slice → Slice) : (s.updSlice n f).schedule = s.schedule := rfl
@[simp] theorem updSlice_turn (s : State) (n : Nat) (f : Slice → Slice) : (s.updSlice n f).turn = s.turn := rfl
@[simp] theorem updSlice_cur (s : State) (n : Nat) (f : Slice → Slice) : (s.updSlice n f).cur = s.cur := rfl
@[simp] theorem updSlice_input (s : State) (n : Nat) (f : Slice → Slice) : (s.updSlice n f).input = s.input := rfl
@[simp] theorem updSlice_freeCtr (s : State) (n : Nat) (f : Slice → Slice) : (s.updSlice n f).freeCtr = s.freeCtr := rfl

@[simp] theorem updCtx_mem (s : State) (n k : Nat) (f : FolbelCtx → FolbelCtx) : (s.updCtx n k f).mem = s.mem := rfl
@[simp] theorem updCtx_cores (s : State) (n k : Nat) (f : FolbelCtx → FolbelCtx) : (s.updCtx n k f).cores = s.cores := rfl
@[simp] theorem updCtx_groups (s : State) (n k : Nat) (f : FolbelCtx → FolbelCtx) : (s.updCtx n k f).groups = s.groups := rfl
@[simp] theorem updCtx_blocks (s : State) (n k : Nat) (f : FolbelCtx → FolbelCtx) : (s.updCtx n k f).blocks = s.blocks := rfl
@[simp] theorem updCtx_launches (s : State) (n k : Nat) (f : FolbelCtx → FolbelCtx) : (s.updCtx n k f).launches = s.launches := rfl
@[simp] theorem updCtx_reserves (s : State) (n k : Nat) (f : FolbelCtx → FolbelCtx) : (s.updCtx n k f).reserves = s.reserves := rfl
@[simp] theorem updCtx_job (s : State) (n k : Nat) (f : FolbelCtx → FolbelCtx) : (s.updCtx n k f).job = s.job := rfl
@[simp] theorem updCtx_saved (s : State) (n k : Nat) (f : FolbelCtx → FolbelCtx) : (s.updCtx n k f).saved = s.saved := rfl
@[simp] theorem updCtx_dies (s : State) (n k : Nat) (f : FolbelCtx → FolbelCtx) : (s.updCtx n k f).dies = s.dies := rfl
@[simp] theorem updCtx_accs (s : State) (n k : Nat) (f : FolbelCtx → FolbelCtx) : (s.updCtx n k f).accs = s.accs := rfl
@[simp] theorem updCtx_l2 (s : State) (n k : Nat) (f : FolbelCtx → FolbelCtx) : (s.updCtx n k f).l2 = s.l2 := rfl
@[simp] theorem updCtx_fabric (s : State) (n k : Nat) (f : FolbelCtx → FolbelCtx) : (s.updCtx n k f).fabric = s.fabric := rfl
@[simp] theorem updCtx_regs (s : State) (n k : Nat) (f : FolbelCtx → FolbelCtx) : (s.updCtx n k f).regs = s.regs := rfl
@[simp] theorem updCtx_demandHeld (s : State) (n k : Nat) (f : FolbelCtx → FolbelCtx) : (s.updCtx n k f).demandHeld = s.demandHeld := rfl
@[simp] theorem updCtx_flash (s : State) (n k : Nat) (f : FolbelCtx → FolbelCtx) : (s.updCtx n k f).flash = s.flash := rfl
@[simp] theorem updCtx_hostWait (s : State) (n k : Nat) (f : FolbelCtx → FolbelCtx) : (s.updCtx n k f).hostWait = s.hostWait := rfl
@[simp] theorem updCtx_priLate (s : State) (n k : Nat) (f : FolbelCtx → FolbelCtx) : (s.updCtx n k f).priLate = s.priLate := rfl
@[simp] theorem updCtx_qturn (s : State) (n k : Nat) (f : FolbelCtx → FolbelCtx) : (s.updCtx n k f).qturn = s.qturn := rfl
@[simp] theorem updCtx_msix (s : State) (n k : Nat) (f : FolbelCtx → FolbelCtx) : (s.updCtx n k f).msix = s.msix := rfl
@[simp] theorem updCtx_ecc (s : State) (n k : Nat) (f : FolbelCtx → FolbelCtx) : (s.updCtx n k f).ecc = s.ecc := rfl
@[simp] theorem updCtx_errs (s : State) (n k : Nat) (f : FolbelCtx → FolbelCtx) : (s.updCtx n k f).errs = s.errs := rfl
@[simp] theorem updCtx_handlers (s : State) (n k : Nat) (f : FolbelCtx → FolbelCtx) : (s.updCtx n k f).handlers = s.handlers := rfl
@[simp] theorem updCtx_ops (s : State) (n k : Nat) (f : FolbelCtx → FolbelCtx) : (s.updCtx n k f).ops = s.ops := rfl
@[simp] theorem updCtx_queues (s : State) (n k : Nat) (f : FolbelCtx → FolbelCtx) : (s.updCtx n k f).queues = s.queues := rfl
@[simp] theorem updCtx_kcqs (s : State) (n k : Nat) (f : FolbelCtx → FolbelCtx) : (s.updCtx n k f).kcqs = s.kcqs := rfl
@[simp] theorem updCtx_spawned (s : State) (n k : Nat) (f : FolbelCtx → FolbelCtx) : (s.updCtx n k f).spawned = s.spawned := rfl
@[simp] theorem updCtx_mats (s : State) (n k : Nat) (f : FolbelCtx → FolbelCtx) : (s.updCtx n k f).mats = s.mats := rfl
@[simp] theorem updCtx_homeMaps (s : State) (n k : Nat) (f : FolbelCtx → FolbelCtx) : (s.updCtx n k f).homeMaps = s.homeMaps := rfl
@[simp] theorem updCtx_stations (s : State) (n k : Nat) (f : FolbelCtx → FolbelCtx) : (s.updCtx n k f).stations = s.stations := rfl
@[simp] theorem updCtx_comms (s : State) (n k : Nat) (f : FolbelCtx → FolbelCtx) : (s.updCtx n k f).comms = s.comms := rfl
@[simp] theorem updCtx_adrift (s : State) (n k : Nat) (f : FolbelCtx → FolbelCtx) : (s.updCtx n k f).adrift = s.adrift := rfl
@[simp] theorem updCtx_lost (s : State) (n k : Nat) (f : FolbelCtx → FolbelCtx) : (s.updCtx n k f).lost = s.lost := rfl
@[simp] theorem updCtx_custody (s : State) (n k : Nat) (f : FolbelCtx → FolbelCtx) : (s.updCtx n k f).custody = s.custody := rfl
@[simp] theorem updCtx_net (s : State) (n k : Nat) (f : FolbelCtx → FolbelCtx) : (s.updCtx n k f).net = s.net := rfl
@[simp] theorem updCtx_ats (s : State) (n k : Nat) (f : FolbelCtx → FolbelCtx) : (s.updCtx n k f).ats = s.ats := rfl
@[simp] theorem updCtx_pri (s : State) (n k : Nat) (f : FolbelCtx → FolbelCtx) : (s.updCtx n k f).pri = s.pri := rfl
@[simp] theorem updCtx_atsAsk (s : State) (n k : Nat) (f : FolbelCtx → FolbelCtx) : (s.updCtx n k f).atsAsk = s.atsAsk := rfl
@[simp] theorem updCtx_priWait (s : State) (n k : Nat) (f : FolbelCtx → FolbelCtx) : (s.updCtx n k f).priWait = s.priWait := rfl
@[simp] theorem updCtx_atsInv (s : State) (n k : Nat) (f : FolbelCtx → FolbelCtx) : (s.updCtx n k f).atsInv = s.atsInv := rfl
@[simp] theorem updCtx_hole (s : State) (n k : Nat) (f : FolbelCtx → FolbelCtx) : (s.updCtx n k f).hole = s.hole := rfl
@[simp] theorem updCtx_l2Tick (s : State) (n k : Nat) (f : FolbelCtx → FolbelCtx) : (s.updCtx n k f).l2Tick = s.l2Tick := rfl
@[simp] theorem updCtx_nextId (s : State) (n k : Nat) (f : FolbelCtx → FolbelCtx) : (s.updCtx n k f).nextId = s.nextId := rfl
@[simp] theorem updCtx_schedule (s : State) (n k : Nat) (f : FolbelCtx → FolbelCtx) : (s.updCtx n k f).schedule = s.schedule := rfl
@[simp] theorem updCtx_turn (s : State) (n k : Nat) (f : FolbelCtx → FolbelCtx) : (s.updCtx n k f).turn = s.turn := rfl
@[simp] theorem updCtx_cur (s : State) (n k : Nat) (f : FolbelCtx → FolbelCtx) : (s.updCtx n k f).cur = s.cur := rfl
@[simp] theorem updCtx_input (s : State) (n k : Nat) (f : FolbelCtx → FolbelCtx) : (s.updCtx n k f).input = s.input := rfl
@[simp] theorem updCtx_freeCtr (s : State) (n k : Nat) (f : FolbelCtx → FolbelCtx) : (s.updCtx n k f).freeCtr = s.freeCtr := rfl

@[simp] theorem updScript_mem (s : State) (k : Nat) (f : ScriptCtx → ScriptCtx) : (s.updScript k f).mem = s.mem := rfl
@[simp] theorem updScript_cores (s : State) (k : Nat) (f : ScriptCtx → ScriptCtx) : (s.updScript k f).cores = s.cores := rfl
@[simp] theorem updScript_groups (s : State) (k : Nat) (f : ScriptCtx → ScriptCtx) : (s.updScript k f).groups = s.groups := rfl
@[simp] theorem updScript_blocks (s : State) (k : Nat) (f : ScriptCtx → ScriptCtx) : (s.updScript k f).blocks = s.blocks := rfl
@[simp] theorem updScript_launches (s : State) (k : Nat) (f : ScriptCtx → ScriptCtx) : (s.updScript k f).launches = s.launches := rfl
@[simp] theorem updScript_reserves (s : State) (k : Nat) (f : ScriptCtx → ScriptCtx) : (s.updScript k f).reserves = s.reserves := rfl
@[simp] theorem updScript_job (s : State) (k : Nat) (f : ScriptCtx → ScriptCtx) : (s.updScript k f).job = s.job := rfl
@[simp] theorem updScript_saved (s : State) (k : Nat) (f : ScriptCtx → ScriptCtx) : (s.updScript k f).saved = s.saved := rfl
@[simp] theorem updScript_dies (s : State) (k : Nat) (f : ScriptCtx → ScriptCtx) : (s.updScript k f).dies = s.dies := rfl
@[simp] theorem updScript_accs (s : State) (k : Nat) (f : ScriptCtx → ScriptCtx) : (s.updScript k f).accs = s.accs := rfl
@[simp] theorem updScript_l2 (s : State) (k : Nat) (f : ScriptCtx → ScriptCtx) : (s.updScript k f).l2 = s.l2 := rfl
@[simp] theorem updScript_slices (s : State) (k : Nat) (f : ScriptCtx → ScriptCtx) : (s.updScript k f).slices = s.slices := rfl
@[simp] theorem updScript_regs (s : State) (k : Nat) (f : ScriptCtx → ScriptCtx) : (s.updScript k f).regs = s.regs := rfl
@[simp] theorem updScript_demandHeld (s : State) (k : Nat) (f : ScriptCtx → ScriptCtx) : (s.updScript k f).demandHeld = s.demandHeld := rfl
@[simp] theorem updScript_flash (s : State) (k : Nat) (f : ScriptCtx → ScriptCtx) : (s.updScript k f).flash = s.flash := rfl
@[simp] theorem updScript_hostWait (s : State) (k : Nat) (f : ScriptCtx → ScriptCtx) : (s.updScript k f).hostWait = s.hostWait := rfl
@[simp] theorem updScript_priLate (s : State) (k : Nat) (f : ScriptCtx → ScriptCtx) : (s.updScript k f).priLate = s.priLate := rfl
@[simp] theorem updScript_qturn (s : State) (k : Nat) (f : ScriptCtx → ScriptCtx) : (s.updScript k f).qturn = s.qturn := rfl
@[simp] theorem updScript_msix (s : State) (k : Nat) (f : ScriptCtx → ScriptCtx) : (s.updScript k f).msix = s.msix := rfl
@[simp] theorem updScript_ecc (s : State) (k : Nat) (f : ScriptCtx → ScriptCtx) : (s.updScript k f).ecc = s.ecc := rfl
@[simp] theorem updScript_errs (s : State) (k : Nat) (f : ScriptCtx → ScriptCtx) : (s.updScript k f).errs = s.errs := rfl
@[simp] theorem updScript_handlers (s : State) (k : Nat) (f : ScriptCtx → ScriptCtx) : (s.updScript k f).handlers = s.handlers := rfl
@[simp] theorem updScript_ops (s : State) (k : Nat) (f : ScriptCtx → ScriptCtx) : (s.updScript k f).ops = s.ops := rfl
@[simp] theorem updScript_queues (s : State) (k : Nat) (f : ScriptCtx → ScriptCtx) : (s.updScript k f).queues = s.queues := rfl
@[simp] theorem updScript_kcqs (s : State) (k : Nat) (f : ScriptCtx → ScriptCtx) : (s.updScript k f).kcqs = s.kcqs := rfl
@[simp] theorem updScript_spawned (s : State) (k : Nat) (f : ScriptCtx → ScriptCtx) : (s.updScript k f).spawned = s.spawned := rfl
@[simp] theorem updScript_mats (s : State) (k : Nat) (f : ScriptCtx → ScriptCtx) : (s.updScript k f).mats = s.mats := rfl
@[simp] theorem updScript_homeMaps (s : State) (k : Nat) (f : ScriptCtx → ScriptCtx) : (s.updScript k f).homeMaps = s.homeMaps := rfl
@[simp] theorem updScript_stations (s : State) (k : Nat) (f : ScriptCtx → ScriptCtx) : (s.updScript k f).stations = s.stations := rfl
@[simp] theorem updScript_comms (s : State) (k : Nat) (f : ScriptCtx → ScriptCtx) : (s.updScript k f).comms = s.comms := rfl
@[simp] theorem updScript_adrift (s : State) (k : Nat) (f : ScriptCtx → ScriptCtx) : (s.updScript k f).adrift = s.adrift := rfl
@[simp] theorem updScript_lost (s : State) (k : Nat) (f : ScriptCtx → ScriptCtx) : (s.updScript k f).lost = s.lost := rfl
@[simp] theorem updScript_custody (s : State) (k : Nat) (f : ScriptCtx → ScriptCtx) : (s.updScript k f).custody = s.custody := rfl
@[simp] theorem updScript_net (s : State) (k : Nat) (f : ScriptCtx → ScriptCtx) : (s.updScript k f).net = s.net := rfl
@[simp] theorem updScript_ats (s : State) (k : Nat) (f : ScriptCtx → ScriptCtx) : (s.updScript k f).ats = s.ats := rfl
@[simp] theorem updScript_pri (s : State) (k : Nat) (f : ScriptCtx → ScriptCtx) : (s.updScript k f).pri = s.pri := rfl
@[simp] theorem updScript_atsAsk (s : State) (k : Nat) (f : ScriptCtx → ScriptCtx) : (s.updScript k f).atsAsk = s.atsAsk := rfl
@[simp] theorem updScript_priWait (s : State) (k : Nat) (f : ScriptCtx → ScriptCtx) : (s.updScript k f).priWait = s.priWait := rfl
@[simp] theorem updScript_atsInv (s : State) (k : Nat) (f : ScriptCtx → ScriptCtx) : (s.updScript k f).atsInv = s.atsInv := rfl
@[simp] theorem updScript_hole (s : State) (k : Nat) (f : ScriptCtx → ScriptCtx) : (s.updScript k f).hole = s.hole := rfl
@[simp] theorem updScript_l2Tick (s : State) (k : Nat) (f : ScriptCtx → ScriptCtx) : (s.updScript k f).l2Tick = s.l2Tick := rfl
@[simp] theorem updScript_nextId (s : State) (k : Nat) (f : ScriptCtx → ScriptCtx) : (s.updScript k f).nextId = s.nextId := rfl
@[simp] theorem updScript_schedule (s : State) (k : Nat) (f : ScriptCtx → ScriptCtx) : (s.updScript k f).schedule = s.schedule := rfl
@[simp] theorem updScript_turn (s : State) (k : Nat) (f : ScriptCtx → ScriptCtx) : (s.updScript k f).turn = s.turn := rfl
@[simp] theorem updScript_cur (s : State) (k : Nat) (f : ScriptCtx → ScriptCtx) : (s.updScript k f).cur = s.cur := rfl
@[simp] theorem updScript_input (s : State) (k : Nat) (f : ScriptCtx → ScriptCtx) : (s.updScript k f).input = s.input := rfl
@[simp] theorem updScript_freeCtr (s : State) (k : Nat) (f : ScriptCtx → ScriptCtx) : (s.updScript k f).freeCtr = s.freeCtr := rfl

@[simp] theorem updL2_mem (s : State) (p : Nat) (f : L2Line → L2Line) : (s.updL2 p f).mem = s.mem := by unfold State.updL2; split <;> rfl
@[simp] theorem updL2_cores (s : State) (p : Nat) (f : L2Line → L2Line) : (s.updL2 p f).cores = s.cores := by unfold State.updL2; split <;> rfl
@[simp] theorem updL2_groups (s : State) (p : Nat) (f : L2Line → L2Line) : (s.updL2 p f).groups = s.groups := by unfold State.updL2; split <;> rfl
@[simp] theorem updL2_blocks (s : State) (p : Nat) (f : L2Line → L2Line) : (s.updL2 p f).blocks = s.blocks := by unfold State.updL2; split <;> rfl
@[simp] theorem updL2_launches (s : State) (p : Nat) (f : L2Line → L2Line) : (s.updL2 p f).launches = s.launches := by unfold State.updL2; split <;> rfl
@[simp] theorem updL2_reserves (s : State) (p : Nat) (f : L2Line → L2Line) : (s.updL2 p f).reserves = s.reserves := by unfold State.updL2; split <;> rfl
@[simp] theorem updL2_job (s : State) (p : Nat) (f : L2Line → L2Line) : (s.updL2 p f).job = s.job := by unfold State.updL2; split <;> rfl
@[simp] theorem updL2_saved (s : State) (p : Nat) (f : L2Line → L2Line) : (s.updL2 p f).saved = s.saved := by unfold State.updL2; split <;> rfl
@[simp] theorem updL2_dies (s : State) (p : Nat) (f : L2Line → L2Line) : (s.updL2 p f).dies = s.dies := by unfold State.updL2; split <;> rfl
@[simp] theorem updL2_accs (s : State) (p : Nat) (f : L2Line → L2Line) : (s.updL2 p f).accs = s.accs := by unfold State.updL2; split <;> rfl
@[simp] theorem updL2_slices (s : State) (p : Nat) (f : L2Line → L2Line) : (s.updL2 p f).slices = s.slices := by unfold State.updL2; split <;> rfl
@[simp] theorem updL2_fabric (s : State) (p : Nat) (f : L2Line → L2Line) : (s.updL2 p f).fabric = s.fabric := by unfold State.updL2; split <;> rfl
@[simp] theorem updL2_regs (s : State) (p : Nat) (f : L2Line → L2Line) : (s.updL2 p f).regs = s.regs := by unfold State.updL2; split <;> rfl
@[simp] theorem updL2_demandHeld (s : State) (p : Nat) (f : L2Line → L2Line) : (s.updL2 p f).demandHeld = s.demandHeld := by unfold State.updL2; split <;> rfl
@[simp] theorem updL2_flash (s : State) (p : Nat) (f : L2Line → L2Line) : (s.updL2 p f).flash = s.flash := by unfold State.updL2; split <;> rfl
@[simp] theorem updL2_hostWait (s : State) (p : Nat) (f : L2Line → L2Line) : (s.updL2 p f).hostWait = s.hostWait := by unfold State.updL2; split <;> rfl
@[simp] theorem updL2_priLate (s : State) (p : Nat) (f : L2Line → L2Line) : (s.updL2 p f).priLate = s.priLate := by unfold State.updL2; split <;> rfl
@[simp] theorem updL2_qturn (s : State) (p : Nat) (f : L2Line → L2Line) : (s.updL2 p f).qturn = s.qturn := by unfold State.updL2; split <;> rfl
@[simp] theorem updL2_msix (s : State) (p : Nat) (f : L2Line → L2Line) : (s.updL2 p f).msix = s.msix := by unfold State.updL2; split <;> rfl
@[simp] theorem updL2_ecc (s : State) (p : Nat) (f : L2Line → L2Line) : (s.updL2 p f).ecc = s.ecc := by unfold State.updL2; split <;> rfl
@[simp] theorem updL2_errs (s : State) (p : Nat) (f : L2Line → L2Line) : (s.updL2 p f).errs = s.errs := by unfold State.updL2; split <;> rfl
@[simp] theorem updL2_handlers (s : State) (p : Nat) (f : L2Line → L2Line) : (s.updL2 p f).handlers = s.handlers := by unfold State.updL2; split <;> rfl
@[simp] theorem updL2_ops (s : State) (p : Nat) (f : L2Line → L2Line) : (s.updL2 p f).ops = s.ops := by unfold State.updL2; split <;> rfl
@[simp] theorem updL2_queues (s : State) (p : Nat) (f : L2Line → L2Line) : (s.updL2 p f).queues = s.queues := by unfold State.updL2; split <;> rfl
@[simp] theorem updL2_kcqs (s : State) (p : Nat) (f : L2Line → L2Line) : (s.updL2 p f).kcqs = s.kcqs := by unfold State.updL2; split <;> rfl
@[simp] theorem updL2_spawned (s : State) (p : Nat) (f : L2Line → L2Line) : (s.updL2 p f).spawned = s.spawned := by unfold State.updL2; split <;> rfl
@[simp] theorem updL2_mats (s : State) (p : Nat) (f : L2Line → L2Line) : (s.updL2 p f).mats = s.mats := by unfold State.updL2; split <;> rfl
@[simp] theorem updL2_homeMaps (s : State) (p : Nat) (f : L2Line → L2Line) : (s.updL2 p f).homeMaps = s.homeMaps := by unfold State.updL2; split <;> rfl
@[simp] theorem updL2_stations (s : State) (p : Nat) (f : L2Line → L2Line) : (s.updL2 p f).stations = s.stations := by unfold State.updL2; split <;> rfl
@[simp] theorem updL2_comms (s : State) (p : Nat) (f : L2Line → L2Line) : (s.updL2 p f).comms = s.comms := by unfold State.updL2; split <;> rfl
@[simp] theorem updL2_adrift (s : State) (p : Nat) (f : L2Line → L2Line) : (s.updL2 p f).adrift = s.adrift := by unfold State.updL2; split <;> rfl
@[simp] theorem updL2_lost (s : State) (p : Nat) (f : L2Line → L2Line) : (s.updL2 p f).lost = s.lost := by unfold State.updL2; split <;> rfl
@[simp] theorem updL2_custody (s : State) (p : Nat) (f : L2Line → L2Line) : (s.updL2 p f).custody = s.custody := by unfold State.updL2; split <;> rfl
@[simp] theorem updL2_net (s : State) (p : Nat) (f : L2Line → L2Line) : (s.updL2 p f).net = s.net := by unfold State.updL2; split <;> rfl
@[simp] theorem updL2_ats (s : State) (p : Nat) (f : L2Line → L2Line) : (s.updL2 p f).ats = s.ats := by unfold State.updL2; split <;> rfl
@[simp] theorem updL2_pri (s : State) (p : Nat) (f : L2Line → L2Line) : (s.updL2 p f).pri = s.pri := by unfold State.updL2; split <;> rfl
@[simp] theorem updL2_atsAsk (s : State) (p : Nat) (f : L2Line → L2Line) : (s.updL2 p f).atsAsk = s.atsAsk := by unfold State.updL2; split <;> rfl
@[simp] theorem updL2_priWait (s : State) (p : Nat) (f : L2Line → L2Line) : (s.updL2 p f).priWait = s.priWait := by unfold State.updL2; split <;> rfl
@[simp] theorem updL2_atsInv (s : State) (p : Nat) (f : L2Line → L2Line) : (s.updL2 p f).atsInv = s.atsInv := by unfold State.updL2; split <;> rfl
@[simp] theorem updL2_hole (s : State) (p : Nat) (f : L2Line → L2Line) : (s.updL2 p f).hole = s.hole := by unfold State.updL2; split <;> rfl
@[simp] theorem updL2_l2Tick (s : State) (p : Nat) (f : L2Line → L2Line) : (s.updL2 p f).l2Tick = s.l2Tick := by unfold State.updL2; split <;> rfl
@[simp] theorem updL2_nextId (s : State) (p : Nat) (f : L2Line → L2Line) : (s.updL2 p f).nextId = s.nextId := by unfold State.updL2; split <;> rfl
@[simp] theorem updL2_schedule (s : State) (p : Nat) (f : L2Line → L2Line) : (s.updL2 p f).schedule = s.schedule := by unfold State.updL2; split <;> rfl
@[simp] theorem updL2_turn (s : State) (p : Nat) (f : L2Line → L2Line) : (s.updL2 p f).turn = s.turn := by unfold State.updL2; split <;> rfl
@[simp] theorem updL2_cur (s : State) (p : Nat) (f : L2Line → L2Line) : (s.updL2 p f).cur = s.cur := by unfold State.updL2; split <;> rfl
@[simp] theorem updL2_input (s : State) (p : Nat) (f : L2Line → L2Line) : (s.updL2 p f).input = s.input := by unfold State.updL2; split <;> rfl
@[simp] theorem updL2_freeCtr (s : State) (p : Nat) (f : L2Line → L2Line) : (s.updL2 p f).freeCtr = s.freeCtr := by unfold State.updL2; split <;> rfl

@[simp] theorem updHandler_mem (s : State) (t : Nat) (f : HandlerTab → HandlerTab) : (s.updHandler t f).mem = s.mem := rfl
@[simp] theorem updHandler_cores (s : State) (t : Nat) (f : HandlerTab → HandlerTab) : (s.updHandler t f).cores = s.cores := rfl
@[simp] theorem updHandler_groups (s : State) (t : Nat) (f : HandlerTab → HandlerTab) : (s.updHandler t f).groups = s.groups := rfl
@[simp] theorem updHandler_blocks (s : State) (t : Nat) (f : HandlerTab → HandlerTab) : (s.updHandler t f).blocks = s.blocks := rfl
@[simp] theorem updHandler_launches (s : State) (t : Nat) (f : HandlerTab → HandlerTab) : (s.updHandler t f).launches = s.launches := rfl
@[simp] theorem updHandler_reserves (s : State) (t : Nat) (f : HandlerTab → HandlerTab) : (s.updHandler t f).reserves = s.reserves := rfl
@[simp] theorem updHandler_job (s : State) (t : Nat) (f : HandlerTab → HandlerTab) : (s.updHandler t f).job = s.job := rfl
@[simp] theorem updHandler_saved (s : State) (t : Nat) (f : HandlerTab → HandlerTab) : (s.updHandler t f).saved = s.saved := rfl
@[simp] theorem updHandler_dies (s : State) (t : Nat) (f : HandlerTab → HandlerTab) : (s.updHandler t f).dies = s.dies := rfl
@[simp] theorem updHandler_accs (s : State) (t : Nat) (f : HandlerTab → HandlerTab) : (s.updHandler t f).accs = s.accs := rfl
@[simp] theorem updHandler_l2 (s : State) (t : Nat) (f : HandlerTab → HandlerTab) : (s.updHandler t f).l2 = s.l2 := rfl
@[simp] theorem updHandler_slices (s : State) (t : Nat) (f : HandlerTab → HandlerTab) : (s.updHandler t f).slices = s.slices := rfl
@[simp] theorem updHandler_fabric (s : State) (t : Nat) (f : HandlerTab → HandlerTab) : (s.updHandler t f).fabric = s.fabric := rfl
@[simp] theorem updHandler_regs (s : State) (t : Nat) (f : HandlerTab → HandlerTab) : (s.updHandler t f).regs = s.regs := rfl
@[simp] theorem updHandler_demandHeld (s : State) (t : Nat) (f : HandlerTab → HandlerTab) : (s.updHandler t f).demandHeld = s.demandHeld := rfl
@[simp] theorem updHandler_flash (s : State) (t : Nat) (f : HandlerTab → HandlerTab) : (s.updHandler t f).flash = s.flash := rfl
@[simp] theorem updHandler_hostWait (s : State) (t : Nat) (f : HandlerTab → HandlerTab) : (s.updHandler t f).hostWait = s.hostWait := rfl
@[simp] theorem updHandler_priLate (s : State) (t : Nat) (f : HandlerTab → HandlerTab) : (s.updHandler t f).priLate = s.priLate := rfl
@[simp] theorem updHandler_qturn (s : State) (t : Nat) (f : HandlerTab → HandlerTab) : (s.updHandler t f).qturn = s.qturn := rfl
@[simp] theorem updHandler_msix (s : State) (t : Nat) (f : HandlerTab → HandlerTab) : (s.updHandler t f).msix = s.msix := rfl
@[simp] theorem updHandler_ecc (s : State) (t : Nat) (f : HandlerTab → HandlerTab) : (s.updHandler t f).ecc = s.ecc := rfl
@[simp] theorem updHandler_errs (s : State) (t : Nat) (f : HandlerTab → HandlerTab) : (s.updHandler t f).errs = s.errs := rfl
@[simp] theorem updHandler_ops (s : State) (t : Nat) (f : HandlerTab → HandlerTab) : (s.updHandler t f).ops = s.ops := rfl
@[simp] theorem updHandler_queues (s : State) (t : Nat) (f : HandlerTab → HandlerTab) : (s.updHandler t f).queues = s.queues := rfl
@[simp] theorem updHandler_kcqs (s : State) (t : Nat) (f : HandlerTab → HandlerTab) : (s.updHandler t f).kcqs = s.kcqs := rfl
@[simp] theorem updHandler_spawned (s : State) (t : Nat) (f : HandlerTab → HandlerTab) : (s.updHandler t f).spawned = s.spawned := rfl
@[simp] theorem updHandler_mats (s : State) (t : Nat) (f : HandlerTab → HandlerTab) : (s.updHandler t f).mats = s.mats := rfl
@[simp] theorem updHandler_homeMaps (s : State) (t : Nat) (f : HandlerTab → HandlerTab) : (s.updHandler t f).homeMaps = s.homeMaps := rfl
@[simp] theorem updHandler_stations (s : State) (t : Nat) (f : HandlerTab → HandlerTab) : (s.updHandler t f).stations = s.stations := rfl
@[simp] theorem updHandler_comms (s : State) (t : Nat) (f : HandlerTab → HandlerTab) : (s.updHandler t f).comms = s.comms := rfl
@[simp] theorem updHandler_adrift (s : State) (t : Nat) (f : HandlerTab → HandlerTab) : (s.updHandler t f).adrift = s.adrift := rfl
@[simp] theorem updHandler_lost (s : State) (t : Nat) (f : HandlerTab → HandlerTab) : (s.updHandler t f).lost = s.lost := rfl
@[simp] theorem updHandler_custody (s : State) (t : Nat) (f : HandlerTab → HandlerTab) : (s.updHandler t f).custody = s.custody := rfl
@[simp] theorem updHandler_net (s : State) (t : Nat) (f : HandlerTab → HandlerTab) : (s.updHandler t f).net = s.net := rfl
@[simp] theorem updHandler_ats (s : State) (t : Nat) (f : HandlerTab → HandlerTab) : (s.updHandler t f).ats = s.ats := rfl
@[simp] theorem updHandler_pri (s : State) (t : Nat) (f : HandlerTab → HandlerTab) : (s.updHandler t f).pri = s.pri := rfl
@[simp] theorem updHandler_atsAsk (s : State) (t : Nat) (f : HandlerTab → HandlerTab) : (s.updHandler t f).atsAsk = s.atsAsk := rfl
@[simp] theorem updHandler_priWait (s : State) (t : Nat) (f : HandlerTab → HandlerTab) : (s.updHandler t f).priWait = s.priWait := rfl
@[simp] theorem updHandler_atsInv (s : State) (t : Nat) (f : HandlerTab → HandlerTab) : (s.updHandler t f).atsInv = s.atsInv := rfl
@[simp] theorem updHandler_hole (s : State) (t : Nat) (f : HandlerTab → HandlerTab) : (s.updHandler t f).hole = s.hole := rfl
@[simp] theorem updHandler_l2Tick (s : State) (t : Nat) (f : HandlerTab → HandlerTab) : (s.updHandler t f).l2Tick = s.l2Tick := rfl
@[simp] theorem updHandler_nextId (s : State) (t : Nat) (f : HandlerTab → HandlerTab) : (s.updHandler t f).nextId = s.nextId := rfl
@[simp] theorem updHandler_schedule (s : State) (t : Nat) (f : HandlerTab → HandlerTab) : (s.updHandler t f).schedule = s.schedule := rfl
@[simp] theorem updHandler_turn (s : State) (t : Nat) (f : HandlerTab → HandlerTab) : (s.updHandler t f).turn = s.turn := rfl
@[simp] theorem updHandler_cur (s : State) (t : Nat) (f : HandlerTab → HandlerTab) : (s.updHandler t f).cur = s.cur := rfl
@[simp] theorem updHandler_input (s : State) (t : Nat) (f : HandlerTab → HandlerTab) : (s.updHandler t f).input = s.input := rfl
@[simp] theorem updHandler_freeCtr (s : State) (t : Nat) (f : HandlerTab → HandlerTab) : (s.updHandler t f).freeCtr = s.freeCtr := rfl

@[simp] theorem updComm_mem (s : State) (k : Nat) (f : Comm → Comm) : (s.updComm k f).mem = s.mem := by unfold State.updComm; split <;> rfl
@[simp] theorem updComm_cores (s : State) (k : Nat) (f : Comm → Comm) : (s.updComm k f).cores = s.cores := by unfold State.updComm; split <;> rfl
@[simp] theorem updComm_groups (s : State) (k : Nat) (f : Comm → Comm) : (s.updComm k f).groups = s.groups := by unfold State.updComm; split <;> rfl
@[simp] theorem updComm_blocks (s : State) (k : Nat) (f : Comm → Comm) : (s.updComm k f).blocks = s.blocks := by unfold State.updComm; split <;> rfl
@[simp] theorem updComm_launches (s : State) (k : Nat) (f : Comm → Comm) : (s.updComm k f).launches = s.launches := by unfold State.updComm; split <;> rfl
@[simp] theorem updComm_reserves (s : State) (k : Nat) (f : Comm → Comm) : (s.updComm k f).reserves = s.reserves := by unfold State.updComm; split <;> rfl
@[simp] theorem updComm_job (s : State) (k : Nat) (f : Comm → Comm) : (s.updComm k f).job = s.job := by unfold State.updComm; split <;> rfl
@[simp] theorem updComm_saved (s : State) (k : Nat) (f : Comm → Comm) : (s.updComm k f).saved = s.saved := by unfold State.updComm; split <;> rfl
@[simp] theorem updComm_dies (s : State) (k : Nat) (f : Comm → Comm) : (s.updComm k f).dies = s.dies := by unfold State.updComm; split <;> rfl
@[simp] theorem updComm_accs (s : State) (k : Nat) (f : Comm → Comm) : (s.updComm k f).accs = s.accs := by unfold State.updComm; split <;> rfl
@[simp] theorem updComm_l2 (s : State) (k : Nat) (f : Comm → Comm) : (s.updComm k f).l2 = s.l2 := by unfold State.updComm; split <;> rfl
@[simp] theorem updComm_slices (s : State) (k : Nat) (f : Comm → Comm) : (s.updComm k f).slices = s.slices := by unfold State.updComm; split <;> rfl
@[simp] theorem updComm_fabric (s : State) (k : Nat) (f : Comm → Comm) : (s.updComm k f).fabric = s.fabric := by unfold State.updComm; split <;> rfl
@[simp] theorem updComm_regs (s : State) (k : Nat) (f : Comm → Comm) : (s.updComm k f).regs = s.regs := by unfold State.updComm; split <;> rfl
@[simp] theorem updComm_demandHeld (s : State) (k : Nat) (f : Comm → Comm) : (s.updComm k f).demandHeld = s.demandHeld := by unfold State.updComm; split <;> rfl
@[simp] theorem updComm_flash (s : State) (k : Nat) (f : Comm → Comm) : (s.updComm k f).flash = s.flash := by unfold State.updComm; split <;> rfl
@[simp] theorem updComm_hostWait (s : State) (k : Nat) (f : Comm → Comm) : (s.updComm k f).hostWait = s.hostWait := by unfold State.updComm; split <;> rfl
@[simp] theorem updComm_priLate (s : State) (k : Nat) (f : Comm → Comm) : (s.updComm k f).priLate = s.priLate := by unfold State.updComm; split <;> rfl
@[simp] theorem updComm_qturn (s : State) (k : Nat) (f : Comm → Comm) : (s.updComm k f).qturn = s.qturn := by unfold State.updComm; split <;> rfl
@[simp] theorem updComm_msix (s : State) (k : Nat) (f : Comm → Comm) : (s.updComm k f).msix = s.msix := by unfold State.updComm; split <;> rfl
@[simp] theorem updComm_ecc (s : State) (k : Nat) (f : Comm → Comm) : (s.updComm k f).ecc = s.ecc := by unfold State.updComm; split <;> rfl
@[simp] theorem updComm_errs (s : State) (k : Nat) (f : Comm → Comm) : (s.updComm k f).errs = s.errs := by unfold State.updComm; split <;> rfl
@[simp] theorem updComm_handlers (s : State) (k : Nat) (f : Comm → Comm) : (s.updComm k f).handlers = s.handlers := by unfold State.updComm; split <;> rfl
@[simp] theorem updComm_ops (s : State) (k : Nat) (f : Comm → Comm) : (s.updComm k f).ops = s.ops := by unfold State.updComm; split <;> rfl
@[simp] theorem updComm_queues (s : State) (k : Nat) (f : Comm → Comm) : (s.updComm k f).queues = s.queues := by unfold State.updComm; split <;> rfl
@[simp] theorem updComm_kcqs (s : State) (k : Nat) (f : Comm → Comm) : (s.updComm k f).kcqs = s.kcqs := by unfold State.updComm; split <;> rfl
@[simp] theorem updComm_spawned (s : State) (k : Nat) (f : Comm → Comm) : (s.updComm k f).spawned = s.spawned := by unfold State.updComm; split <;> rfl
@[simp] theorem updComm_mats (s : State) (k : Nat) (f : Comm → Comm) : (s.updComm k f).mats = s.mats := by unfold State.updComm; split <;> rfl
@[simp] theorem updComm_homeMaps (s : State) (k : Nat) (f : Comm → Comm) : (s.updComm k f).homeMaps = s.homeMaps := by unfold State.updComm; split <;> rfl
@[simp] theorem updComm_stations (s : State) (k : Nat) (f : Comm → Comm) : (s.updComm k f).stations = s.stations := by unfold State.updComm; split <;> rfl
@[simp] theorem updComm_adrift (s : State) (k : Nat) (f : Comm → Comm) : (s.updComm k f).adrift = s.adrift := by unfold State.updComm; split <;> rfl
@[simp] theorem updComm_lost (s : State) (k : Nat) (f : Comm → Comm) : (s.updComm k f).lost = s.lost := by unfold State.updComm; split <;> rfl
@[simp] theorem updComm_custody (s : State) (k : Nat) (f : Comm → Comm) : (s.updComm k f).custody = s.custody := by unfold State.updComm; split <;> rfl
@[simp] theorem updComm_net (s : State) (k : Nat) (f : Comm → Comm) : (s.updComm k f).net = s.net := by unfold State.updComm; split <;> rfl
@[simp] theorem updComm_ats (s : State) (k : Nat) (f : Comm → Comm) : (s.updComm k f).ats = s.ats := by unfold State.updComm; split <;> rfl
@[simp] theorem updComm_pri (s : State) (k : Nat) (f : Comm → Comm) : (s.updComm k f).pri = s.pri := by unfold State.updComm; split <;> rfl
@[simp] theorem updComm_atsAsk (s : State) (k : Nat) (f : Comm → Comm) : (s.updComm k f).atsAsk = s.atsAsk := by unfold State.updComm; split <;> rfl
@[simp] theorem updComm_priWait (s : State) (k : Nat) (f : Comm → Comm) : (s.updComm k f).priWait = s.priWait := by unfold State.updComm; split <;> rfl
@[simp] theorem updComm_atsInv (s : State) (k : Nat) (f : Comm → Comm) : (s.updComm k f).atsInv = s.atsInv := by unfold State.updComm; split <;> rfl
@[simp] theorem updComm_hole (s : State) (k : Nat) (f : Comm → Comm) : (s.updComm k f).hole = s.hole := by unfold State.updComm; split <;> rfl
@[simp] theorem updComm_l2Tick (s : State) (k : Nat) (f : Comm → Comm) : (s.updComm k f).l2Tick = s.l2Tick := by unfold State.updComm; split <;> rfl
@[simp] theorem updComm_nextId (s : State) (k : Nat) (f : Comm → Comm) : (s.updComm k f).nextId = s.nextId := by unfold State.updComm; split <;> rfl
@[simp] theorem updComm_schedule (s : State) (k : Nat) (f : Comm → Comm) : (s.updComm k f).schedule = s.schedule := by unfold State.updComm; split <;> rfl
@[simp] theorem updComm_turn (s : State) (k : Nat) (f : Comm → Comm) : (s.updComm k f).turn = s.turn := by unfold State.updComm; split <;> rfl
@[simp] theorem updComm_cur (s : State) (k : Nat) (f : Comm → Comm) : (s.updComm k f).cur = s.cur := by unfold State.updComm; split <;> rfl
@[simp] theorem updComm_input (s : State) (k : Nat) (f : Comm → Comm) : (s.updComm k f).input = s.input := by unfold State.updComm; split <;> rfl
@[simp] theorem updComm_freeCtr (s : State) (k : Nat) (f : Comm → Comm) : (s.updComm k f).freeCtr = s.freeCtr := by unfold State.updComm; split <;> rfl

@[simp] theorem updQueue_mem (s : State) (q : Nat) (f : Queue → Queue) : (s.updQueue q f).mem = s.mem := rfl
@[simp] theorem updQueue_cores (s : State) (q : Nat) (f : Queue → Queue) : (s.updQueue q f).cores = s.cores := rfl
@[simp] theorem updQueue_groups (s : State) (q : Nat) (f : Queue → Queue) : (s.updQueue q f).groups = s.groups := rfl
@[simp] theorem updQueue_blocks (s : State) (q : Nat) (f : Queue → Queue) : (s.updQueue q f).blocks = s.blocks := rfl
@[simp] theorem updQueue_launches (s : State) (q : Nat) (f : Queue → Queue) : (s.updQueue q f).launches = s.launches := rfl
@[simp] theorem updQueue_reserves (s : State) (q : Nat) (f : Queue → Queue) : (s.updQueue q f).reserves = s.reserves := rfl
@[simp] theorem updQueue_job (s : State) (q : Nat) (f : Queue → Queue) : (s.updQueue q f).job = s.job := rfl
@[simp] theorem updQueue_saved (s : State) (q : Nat) (f : Queue → Queue) : (s.updQueue q f).saved = s.saved := rfl
@[simp] theorem updQueue_dies (s : State) (q : Nat) (f : Queue → Queue) : (s.updQueue q f).dies = s.dies := rfl
@[simp] theorem updQueue_accs (s : State) (q : Nat) (f : Queue → Queue) : (s.updQueue q f).accs = s.accs := rfl
@[simp] theorem updQueue_l2 (s : State) (q : Nat) (f : Queue → Queue) : (s.updQueue q f).l2 = s.l2 := rfl
@[simp] theorem updQueue_slices (s : State) (q : Nat) (f : Queue → Queue) : (s.updQueue q f).slices = s.slices := rfl
@[simp] theorem updQueue_fabric (s : State) (q : Nat) (f : Queue → Queue) : (s.updQueue q f).fabric = s.fabric := rfl
@[simp] theorem updQueue_regs (s : State) (q : Nat) (f : Queue → Queue) : (s.updQueue q f).regs = s.regs := rfl
@[simp] theorem updQueue_demandHeld (s : State) (q : Nat) (f : Queue → Queue) : (s.updQueue q f).demandHeld = s.demandHeld := rfl
@[simp] theorem updQueue_flash (s : State) (q : Nat) (f : Queue → Queue) : (s.updQueue q f).flash = s.flash := rfl
@[simp] theorem updQueue_hostWait (s : State) (q : Nat) (f : Queue → Queue) : (s.updQueue q f).hostWait = s.hostWait := rfl
@[simp] theorem updQueue_priLate (s : State) (q : Nat) (f : Queue → Queue) : (s.updQueue q f).priLate = s.priLate := rfl
@[simp] theorem updQueue_qturn (s : State) (q : Nat) (f : Queue → Queue) : (s.updQueue q f).qturn = s.qturn := rfl
@[simp] theorem updQueue_msix (s : State) (q : Nat) (f : Queue → Queue) : (s.updQueue q f).msix = s.msix := rfl
@[simp] theorem updQueue_ecc (s : State) (q : Nat) (f : Queue → Queue) : (s.updQueue q f).ecc = s.ecc := rfl
@[simp] theorem updQueue_errs (s : State) (q : Nat) (f : Queue → Queue) : (s.updQueue q f).errs = s.errs := rfl
@[simp] theorem updQueue_handlers (s : State) (q : Nat) (f : Queue → Queue) : (s.updQueue q f).handlers = s.handlers := rfl
@[simp] theorem updQueue_ops (s : State) (q : Nat) (f : Queue → Queue) : (s.updQueue q f).ops = s.ops := rfl
@[simp] theorem updQueue_kcqs (s : State) (q : Nat) (f : Queue → Queue) : (s.updQueue q f).kcqs = s.kcqs := rfl
@[simp] theorem updQueue_spawned (s : State) (q : Nat) (f : Queue → Queue) : (s.updQueue q f).spawned = s.spawned := rfl
@[simp] theorem updQueue_mats (s : State) (q : Nat) (f : Queue → Queue) : (s.updQueue q f).mats = s.mats := rfl
@[simp] theorem updQueue_homeMaps (s : State) (q : Nat) (f : Queue → Queue) : (s.updQueue q f).homeMaps = s.homeMaps := rfl
@[simp] theorem updQueue_stations (s : State) (q : Nat) (f : Queue → Queue) : (s.updQueue q f).stations = s.stations := rfl
@[simp] theorem updQueue_comms (s : State) (q : Nat) (f : Queue → Queue) : (s.updQueue q f).comms = s.comms := rfl
@[simp] theorem updQueue_adrift (s : State) (q : Nat) (f : Queue → Queue) : (s.updQueue q f).adrift = s.adrift := rfl
@[simp] theorem updQueue_lost (s : State) (q : Nat) (f : Queue → Queue) : (s.updQueue q f).lost = s.lost := rfl
@[simp] theorem updQueue_custody (s : State) (q : Nat) (f : Queue → Queue) : (s.updQueue q f).custody = s.custody := rfl
@[simp] theorem updQueue_net (s : State) (q : Nat) (f : Queue → Queue) : (s.updQueue q f).net = s.net := rfl
@[simp] theorem updQueue_ats (s : State) (q : Nat) (f : Queue → Queue) : (s.updQueue q f).ats = s.ats := rfl
@[simp] theorem updQueue_pri (s : State) (q : Nat) (f : Queue → Queue) : (s.updQueue q f).pri = s.pri := rfl
@[simp] theorem updQueue_atsAsk (s : State) (q : Nat) (f : Queue → Queue) : (s.updQueue q f).atsAsk = s.atsAsk := rfl
@[simp] theorem updQueue_priWait (s : State) (q : Nat) (f : Queue → Queue) : (s.updQueue q f).priWait = s.priWait := rfl
@[simp] theorem updQueue_atsInv (s : State) (q : Nat) (f : Queue → Queue) : (s.updQueue q f).atsInv = s.atsInv := rfl
@[simp] theorem updQueue_hole (s : State) (q : Nat) (f : Queue → Queue) : (s.updQueue q f).hole = s.hole := rfl
@[simp] theorem updQueue_l2Tick (s : State) (q : Nat) (f : Queue → Queue) : (s.updQueue q f).l2Tick = s.l2Tick := rfl
@[simp] theorem updQueue_nextId (s : State) (q : Nat) (f : Queue → Queue) : (s.updQueue q f).nextId = s.nextId := rfl
@[simp] theorem updQueue_schedule (s : State) (q : Nat) (f : Queue → Queue) : (s.updQueue q f).schedule = s.schedule := rfl
@[simp] theorem updQueue_turn (s : State) (q : Nat) (f : Queue → Queue) : (s.updQueue q f).turn = s.turn := rfl
@[simp] theorem updQueue_cur (s : State) (q : Nat) (f : Queue → Queue) : (s.updQueue q f).cur = s.cur := rfl
@[simp] theorem updQueue_input (s : State) (q : Nat) (f : Queue → Queue) : (s.updQueue q f).input = s.input := rfl
@[simp] theorem updQueue_freeCtr (s : State) (q : Nat) (f : Queue → Queue) : (s.updQueue q f).freeCtr = s.freeCtr := rfl

@[simp] theorem updMat_mem (s : State) (c : Nat) (f : Matrix → Matrix) : (s.updMat c f).mem = s.mem := rfl
@[simp] theorem updMat_cores (s : State) (c : Nat) (f : Matrix → Matrix) : (s.updMat c f).cores = s.cores := rfl
@[simp] theorem updMat_groups (s : State) (c : Nat) (f : Matrix → Matrix) : (s.updMat c f).groups = s.groups := rfl
@[simp] theorem updMat_blocks (s : State) (c : Nat) (f : Matrix → Matrix) : (s.updMat c f).blocks = s.blocks := rfl
@[simp] theorem updMat_launches (s : State) (c : Nat) (f : Matrix → Matrix) : (s.updMat c f).launches = s.launches := rfl
@[simp] theorem updMat_reserves (s : State) (c : Nat) (f : Matrix → Matrix) : (s.updMat c f).reserves = s.reserves := rfl
@[simp] theorem updMat_job (s : State) (c : Nat) (f : Matrix → Matrix) : (s.updMat c f).job = s.job := rfl
@[simp] theorem updMat_saved (s : State) (c : Nat) (f : Matrix → Matrix) : (s.updMat c f).saved = s.saved := rfl
@[simp] theorem updMat_dies (s : State) (c : Nat) (f : Matrix → Matrix) : (s.updMat c f).dies = s.dies := rfl
@[simp] theorem updMat_accs (s : State) (c : Nat) (f : Matrix → Matrix) : (s.updMat c f).accs = s.accs := rfl
@[simp] theorem updMat_l2 (s : State) (c : Nat) (f : Matrix → Matrix) : (s.updMat c f).l2 = s.l2 := rfl
@[simp] theorem updMat_slices (s : State) (c : Nat) (f : Matrix → Matrix) : (s.updMat c f).slices = s.slices := rfl
@[simp] theorem updMat_fabric (s : State) (c : Nat) (f : Matrix → Matrix) : (s.updMat c f).fabric = s.fabric := rfl
@[simp] theorem updMat_regs (s : State) (c : Nat) (f : Matrix → Matrix) : (s.updMat c f).regs = s.regs := rfl
@[simp] theorem updMat_demandHeld (s : State) (c : Nat) (f : Matrix → Matrix) : (s.updMat c f).demandHeld = s.demandHeld := rfl
@[simp] theorem updMat_flash (s : State) (c : Nat) (f : Matrix → Matrix) : (s.updMat c f).flash = s.flash := rfl
@[simp] theorem updMat_hostWait (s : State) (c : Nat) (f : Matrix → Matrix) : (s.updMat c f).hostWait = s.hostWait := rfl
@[simp] theorem updMat_priLate (s : State) (c : Nat) (f : Matrix → Matrix) : (s.updMat c f).priLate = s.priLate := rfl
@[simp] theorem updMat_qturn (s : State) (c : Nat) (f : Matrix → Matrix) : (s.updMat c f).qturn = s.qturn := rfl
@[simp] theorem updMat_msix (s : State) (c : Nat) (f : Matrix → Matrix) : (s.updMat c f).msix = s.msix := rfl
@[simp] theorem updMat_ecc (s : State) (c : Nat) (f : Matrix → Matrix) : (s.updMat c f).ecc = s.ecc := rfl
@[simp] theorem updMat_errs (s : State) (c : Nat) (f : Matrix → Matrix) : (s.updMat c f).errs = s.errs := rfl
@[simp] theorem updMat_handlers (s : State) (c : Nat) (f : Matrix → Matrix) : (s.updMat c f).handlers = s.handlers := rfl
@[simp] theorem updMat_ops (s : State) (c : Nat) (f : Matrix → Matrix) : (s.updMat c f).ops = s.ops := rfl
@[simp] theorem updMat_queues (s : State) (c : Nat) (f : Matrix → Matrix) : (s.updMat c f).queues = s.queues := rfl
@[simp] theorem updMat_kcqs (s : State) (c : Nat) (f : Matrix → Matrix) : (s.updMat c f).kcqs = s.kcqs := rfl
@[simp] theorem updMat_spawned (s : State) (c : Nat) (f : Matrix → Matrix) : (s.updMat c f).spawned = s.spawned := rfl
@[simp] theorem updMat_homeMaps (s : State) (c : Nat) (f : Matrix → Matrix) : (s.updMat c f).homeMaps = s.homeMaps := rfl
@[simp] theorem updMat_stations (s : State) (c : Nat) (f : Matrix → Matrix) : (s.updMat c f).stations = s.stations := rfl
@[simp] theorem updMat_comms (s : State) (c : Nat) (f : Matrix → Matrix) : (s.updMat c f).comms = s.comms := rfl
@[simp] theorem updMat_adrift (s : State) (c : Nat) (f : Matrix → Matrix) : (s.updMat c f).adrift = s.adrift := rfl
@[simp] theorem updMat_lost (s : State) (c : Nat) (f : Matrix → Matrix) : (s.updMat c f).lost = s.lost := rfl
@[simp] theorem updMat_custody (s : State) (c : Nat) (f : Matrix → Matrix) : (s.updMat c f).custody = s.custody := rfl
@[simp] theorem updMat_net (s : State) (c : Nat) (f : Matrix → Matrix) : (s.updMat c f).net = s.net := rfl
@[simp] theorem updMat_ats (s : State) (c : Nat) (f : Matrix → Matrix) : (s.updMat c f).ats = s.ats := rfl
@[simp] theorem updMat_pri (s : State) (c : Nat) (f : Matrix → Matrix) : (s.updMat c f).pri = s.pri := rfl
@[simp] theorem updMat_atsAsk (s : State) (c : Nat) (f : Matrix → Matrix) : (s.updMat c f).atsAsk = s.atsAsk := rfl
@[simp] theorem updMat_priWait (s : State) (c : Nat) (f : Matrix → Matrix) : (s.updMat c f).priWait = s.priWait := rfl
@[simp] theorem updMat_atsInv (s : State) (c : Nat) (f : Matrix → Matrix) : (s.updMat c f).atsInv = s.atsInv := rfl
@[simp] theorem updMat_hole (s : State) (c : Nat) (f : Matrix → Matrix) : (s.updMat c f).hole = s.hole := rfl
@[simp] theorem updMat_l2Tick (s : State) (c : Nat) (f : Matrix → Matrix) : (s.updMat c f).l2Tick = s.l2Tick := rfl
@[simp] theorem updMat_nextId (s : State) (c : Nat) (f : Matrix → Matrix) : (s.updMat c f).nextId = s.nextId := rfl
@[simp] theorem updMat_schedule (s : State) (c : Nat) (f : Matrix → Matrix) : (s.updMat c f).schedule = s.schedule := rfl
@[simp] theorem updMat_turn (s : State) (c : Nat) (f : Matrix → Matrix) : (s.updMat c f).turn = s.turn := rfl
@[simp] theorem updMat_cur (s : State) (c : Nat) (f : Matrix → Matrix) : (s.updMat c f).cur = s.cur := rfl
@[simp] theorem updMat_input (s : State) (c : Nat) (f : Matrix → Matrix) : (s.updMat c f).input = s.input := rfl
@[simp] theorem updMat_freeCtr (s : State) (c : Nat) (f : Matrix → Matrix) : (s.updMat c f).freeCtr = s.freeCtr := rfl

@[simp] theorem updStation_mem (s : State) (d : Nat) (f : Station → Station) : (s.updStation d f).mem = s.mem := rfl
@[simp] theorem updStation_cores (s : State) (d : Nat) (f : Station → Station) : (s.updStation d f).cores = s.cores := rfl
@[simp] theorem updStation_groups (s : State) (d : Nat) (f : Station → Station) : (s.updStation d f).groups = s.groups := rfl
@[simp] theorem updStation_blocks (s : State) (d : Nat) (f : Station → Station) : (s.updStation d f).blocks = s.blocks := rfl
@[simp] theorem updStation_launches (s : State) (d : Nat) (f : Station → Station) : (s.updStation d f).launches = s.launches := rfl
@[simp] theorem updStation_reserves (s : State) (d : Nat) (f : Station → Station) : (s.updStation d f).reserves = s.reserves := rfl
@[simp] theorem updStation_job (s : State) (d : Nat) (f : Station → Station) : (s.updStation d f).job = s.job := rfl
@[simp] theorem updStation_saved (s : State) (d : Nat) (f : Station → Station) : (s.updStation d f).saved = s.saved := rfl
@[simp] theorem updStation_dies (s : State) (d : Nat) (f : Station → Station) : (s.updStation d f).dies = s.dies := rfl
@[simp] theorem updStation_accs (s : State) (d : Nat) (f : Station → Station) : (s.updStation d f).accs = s.accs := rfl
@[simp] theorem updStation_l2 (s : State) (d : Nat) (f : Station → Station) : (s.updStation d f).l2 = s.l2 := rfl
@[simp] theorem updStation_slices (s : State) (d : Nat) (f : Station → Station) : (s.updStation d f).slices = s.slices := rfl
@[simp] theorem updStation_fabric (s : State) (d : Nat) (f : Station → Station) : (s.updStation d f).fabric = s.fabric := rfl
@[simp] theorem updStation_regs (s : State) (d : Nat) (f : Station → Station) : (s.updStation d f).regs = s.regs := rfl
@[simp] theorem updStation_demandHeld (s : State) (d : Nat) (f : Station → Station) : (s.updStation d f).demandHeld = s.demandHeld := rfl
@[simp] theorem updStation_flash (s : State) (d : Nat) (f : Station → Station) : (s.updStation d f).flash = s.flash := rfl
@[simp] theorem updStation_hostWait (s : State) (d : Nat) (f : Station → Station) : (s.updStation d f).hostWait = s.hostWait := rfl
@[simp] theorem updStation_priLate (s : State) (d : Nat) (f : Station → Station) : (s.updStation d f).priLate = s.priLate := rfl
@[simp] theorem updStation_qturn (s : State) (d : Nat) (f : Station → Station) : (s.updStation d f).qturn = s.qturn := rfl
@[simp] theorem updStation_msix (s : State) (d : Nat) (f : Station → Station) : (s.updStation d f).msix = s.msix := rfl
@[simp] theorem updStation_ecc (s : State) (d : Nat) (f : Station → Station) : (s.updStation d f).ecc = s.ecc := rfl
@[simp] theorem updStation_errs (s : State) (d : Nat) (f : Station → Station) : (s.updStation d f).errs = s.errs := rfl
@[simp] theorem updStation_handlers (s : State) (d : Nat) (f : Station → Station) : (s.updStation d f).handlers = s.handlers := rfl
@[simp] theorem updStation_ops (s : State) (d : Nat) (f : Station → Station) : (s.updStation d f).ops = s.ops := rfl
@[simp] theorem updStation_queues (s : State) (d : Nat) (f : Station → Station) : (s.updStation d f).queues = s.queues := rfl
@[simp] theorem updStation_kcqs (s : State) (d : Nat) (f : Station → Station) : (s.updStation d f).kcqs = s.kcqs := rfl
@[simp] theorem updStation_spawned (s : State) (d : Nat) (f : Station → Station) : (s.updStation d f).spawned = s.spawned := rfl
@[simp] theorem updStation_mats (s : State) (d : Nat) (f : Station → Station) : (s.updStation d f).mats = s.mats := rfl
@[simp] theorem updStation_homeMaps (s : State) (d : Nat) (f : Station → Station) : (s.updStation d f).homeMaps = s.homeMaps := rfl
@[simp] theorem updStation_comms (s : State) (d : Nat) (f : Station → Station) : (s.updStation d f).comms = s.comms := rfl
@[simp] theorem updStation_adrift (s : State) (d : Nat) (f : Station → Station) : (s.updStation d f).adrift = s.adrift := rfl
@[simp] theorem updStation_lost (s : State) (d : Nat) (f : Station → Station) : (s.updStation d f).lost = s.lost := rfl
@[simp] theorem updStation_custody (s : State) (d : Nat) (f : Station → Station) : (s.updStation d f).custody = s.custody := rfl
@[simp] theorem updStation_net (s : State) (d : Nat) (f : Station → Station) : (s.updStation d f).net = s.net := rfl
@[simp] theorem updStation_ats (s : State) (d : Nat) (f : Station → Station) : (s.updStation d f).ats = s.ats := rfl
@[simp] theorem updStation_pri (s : State) (d : Nat) (f : Station → Station) : (s.updStation d f).pri = s.pri := rfl
@[simp] theorem updStation_atsAsk (s : State) (d : Nat) (f : Station → Station) : (s.updStation d f).atsAsk = s.atsAsk := rfl
@[simp] theorem updStation_priWait (s : State) (d : Nat) (f : Station → Station) : (s.updStation d f).priWait = s.priWait := rfl
@[simp] theorem updStation_atsInv (s : State) (d : Nat) (f : Station → Station) : (s.updStation d f).atsInv = s.atsInv := rfl
@[simp] theorem updStation_hole (s : State) (d : Nat) (f : Station → Station) : (s.updStation d f).hole = s.hole := rfl
@[simp] theorem updStation_l2Tick (s : State) (d : Nat) (f : Station → Station) : (s.updStation d f).l2Tick = s.l2Tick := rfl
@[simp] theorem updStation_nextId (s : State) (d : Nat) (f : Station → Station) : (s.updStation d f).nextId = s.nextId := rfl
@[simp] theorem updStation_schedule (s : State) (d : Nat) (f : Station → Station) : (s.updStation d f).schedule = s.schedule := rfl
@[simp] theorem updStation_turn (s : State) (d : Nat) (f : Station → Station) : (s.updStation d f).turn = s.turn := rfl
@[simp] theorem updStation_cur (s : State) (d : Nat) (f : Station → Station) : (s.updStation d f).cur = s.cur := rfl
@[simp] theorem updStation_input (s : State) (d : Nat) (f : Station → Station) : (s.updStation d f).input = s.input := rfl
@[simp] theorem updStation_freeCtr (s : State) (d : Nat) (f : Station → Station) : (s.updStation d f).freeCtr = s.freeCtr := rfl

@[simp] theorem updKcq_mem (s : State) (q : Nat) (f : Kcq → Kcq) : (s.updKcq q f).mem = s.mem := rfl
@[simp] theorem updKcq_cores (s : State) (q : Nat) (f : Kcq → Kcq) : (s.updKcq q f).cores = s.cores := rfl
@[simp] theorem updKcq_groups (s : State) (q : Nat) (f : Kcq → Kcq) : (s.updKcq q f).groups = s.groups := rfl
@[simp] theorem updKcq_blocks (s : State) (q : Nat) (f : Kcq → Kcq) : (s.updKcq q f).blocks = s.blocks := rfl
@[simp] theorem updKcq_launches (s : State) (q : Nat) (f : Kcq → Kcq) : (s.updKcq q f).launches = s.launches := rfl
@[simp] theorem updKcq_reserves (s : State) (q : Nat) (f : Kcq → Kcq) : (s.updKcq q f).reserves = s.reserves := rfl
@[simp] theorem updKcq_job (s : State) (q : Nat) (f : Kcq → Kcq) : (s.updKcq q f).job = s.job := rfl
@[simp] theorem updKcq_saved (s : State) (q : Nat) (f : Kcq → Kcq) : (s.updKcq q f).saved = s.saved := rfl
@[simp] theorem updKcq_dies (s : State) (q : Nat) (f : Kcq → Kcq) : (s.updKcq q f).dies = s.dies := rfl
@[simp] theorem updKcq_accs (s : State) (q : Nat) (f : Kcq → Kcq) : (s.updKcq q f).accs = s.accs := rfl
@[simp] theorem updKcq_l2 (s : State) (q : Nat) (f : Kcq → Kcq) : (s.updKcq q f).l2 = s.l2 := rfl
@[simp] theorem updKcq_slices (s : State) (q : Nat) (f : Kcq → Kcq) : (s.updKcq q f).slices = s.slices := rfl
@[simp] theorem updKcq_fabric (s : State) (q : Nat) (f : Kcq → Kcq) : (s.updKcq q f).fabric = s.fabric := rfl
@[simp] theorem updKcq_regs (s : State) (q : Nat) (f : Kcq → Kcq) : (s.updKcq q f).regs = s.regs := rfl
@[simp] theorem updKcq_demandHeld (s : State) (q : Nat) (f : Kcq → Kcq) : (s.updKcq q f).demandHeld = s.demandHeld := rfl
@[simp] theorem updKcq_flash (s : State) (q : Nat) (f : Kcq → Kcq) : (s.updKcq q f).flash = s.flash := rfl
@[simp] theorem updKcq_hostWait (s : State) (q : Nat) (f : Kcq → Kcq) : (s.updKcq q f).hostWait = s.hostWait := rfl
@[simp] theorem updKcq_priLate (s : State) (q : Nat) (f : Kcq → Kcq) : (s.updKcq q f).priLate = s.priLate := rfl
@[simp] theorem updKcq_qturn (s : State) (q : Nat) (f : Kcq → Kcq) : (s.updKcq q f).qturn = s.qturn := rfl
@[simp] theorem updKcq_msix (s : State) (q : Nat) (f : Kcq → Kcq) : (s.updKcq q f).msix = s.msix := rfl
@[simp] theorem updKcq_ecc (s : State) (q : Nat) (f : Kcq → Kcq) : (s.updKcq q f).ecc = s.ecc := rfl
@[simp] theorem updKcq_errs (s : State) (q : Nat) (f : Kcq → Kcq) : (s.updKcq q f).errs = s.errs := rfl
@[simp] theorem updKcq_handlers (s : State) (q : Nat) (f : Kcq → Kcq) : (s.updKcq q f).handlers = s.handlers := rfl
@[simp] theorem updKcq_ops (s : State) (q : Nat) (f : Kcq → Kcq) : (s.updKcq q f).ops = s.ops := rfl
@[simp] theorem updKcq_queues (s : State) (q : Nat) (f : Kcq → Kcq) : (s.updKcq q f).queues = s.queues := rfl
@[simp] theorem updKcq_spawned (s : State) (q : Nat) (f : Kcq → Kcq) : (s.updKcq q f).spawned = s.spawned := rfl
@[simp] theorem updKcq_mats (s : State) (q : Nat) (f : Kcq → Kcq) : (s.updKcq q f).mats = s.mats := rfl
@[simp] theorem updKcq_homeMaps (s : State) (q : Nat) (f : Kcq → Kcq) : (s.updKcq q f).homeMaps = s.homeMaps := rfl
@[simp] theorem updKcq_stations (s : State) (q : Nat) (f : Kcq → Kcq) : (s.updKcq q f).stations = s.stations := rfl
@[simp] theorem updKcq_comms (s : State) (q : Nat) (f : Kcq → Kcq) : (s.updKcq q f).comms = s.comms := rfl
@[simp] theorem updKcq_adrift (s : State) (q : Nat) (f : Kcq → Kcq) : (s.updKcq q f).adrift = s.adrift := rfl
@[simp] theorem updKcq_lost (s : State) (q : Nat) (f : Kcq → Kcq) : (s.updKcq q f).lost = s.lost := rfl
@[simp] theorem updKcq_custody (s : State) (q : Nat) (f : Kcq → Kcq) : (s.updKcq q f).custody = s.custody := rfl
@[simp] theorem updKcq_net (s : State) (q : Nat) (f : Kcq → Kcq) : (s.updKcq q f).net = s.net := rfl
@[simp] theorem updKcq_ats (s : State) (q : Nat) (f : Kcq → Kcq) : (s.updKcq q f).ats = s.ats := rfl
@[simp] theorem updKcq_pri (s : State) (q : Nat) (f : Kcq → Kcq) : (s.updKcq q f).pri = s.pri := rfl
@[simp] theorem updKcq_atsAsk (s : State) (q : Nat) (f : Kcq → Kcq) : (s.updKcq q f).atsAsk = s.atsAsk := rfl
@[simp] theorem updKcq_priWait (s : State) (q : Nat) (f : Kcq → Kcq) : (s.updKcq q f).priWait = s.priWait := rfl
@[simp] theorem updKcq_atsInv (s : State) (q : Nat) (f : Kcq → Kcq) : (s.updKcq q f).atsInv = s.atsInv := rfl
@[simp] theorem updKcq_hole (s : State) (q : Nat) (f : Kcq → Kcq) : (s.updKcq q f).hole = s.hole := rfl
@[simp] theorem updKcq_l2Tick (s : State) (q : Nat) (f : Kcq → Kcq) : (s.updKcq q f).l2Tick = s.l2Tick := rfl
@[simp] theorem updKcq_nextId (s : State) (q : Nat) (f : Kcq → Kcq) : (s.updKcq q f).nextId = s.nextId := rfl
@[simp] theorem updKcq_schedule (s : State) (q : Nat) (f : Kcq → Kcq) : (s.updKcq q f).schedule = s.schedule := rfl
@[simp] theorem updKcq_turn (s : State) (q : Nat) (f : Kcq → Kcq) : (s.updKcq q f).turn = s.turn := rfl
@[simp] theorem updKcq_cur (s : State) (q : Nat) (f : Kcq → Kcq) : (s.updKcq q f).cur = s.cur := rfl
@[simp] theorem updKcq_input (s : State) (q : Nat) (f : Kcq → Kcq) : (s.updKcq q f).input = s.input := rfl
@[simp] theorem updKcq_freeCtr (s : State) (q : Nat) (f : Kcq → Kcq) : (s.updKcq q f).freeCtr = s.freeCtr := rfl

@[simp] theorem updPort_mem (s : State) (p : Nat) (f : Port → Port) : (s.updPort p f).mem = s.mem := rfl
@[simp] theorem updPort_cores (s : State) (p : Nat) (f : Port → Port) : (s.updPort p f).cores = s.cores := rfl
@[simp] theorem updPort_groups (s : State) (p : Nat) (f : Port → Port) : (s.updPort p f).groups = s.groups := rfl
@[simp] theorem updPort_blocks (s : State) (p : Nat) (f : Port → Port) : (s.updPort p f).blocks = s.blocks := rfl
@[simp] theorem updPort_launches (s : State) (p : Nat) (f : Port → Port) : (s.updPort p f).launches = s.launches := rfl
@[simp] theorem updPort_reserves (s : State) (p : Nat) (f : Port → Port) : (s.updPort p f).reserves = s.reserves := rfl
@[simp] theorem updPort_job (s : State) (p : Nat) (f : Port → Port) : (s.updPort p f).job = s.job := rfl
@[simp] theorem updPort_saved (s : State) (p : Nat) (f : Port → Port) : (s.updPort p f).saved = s.saved := rfl
@[simp] theorem updPort_dies (s : State) (p : Nat) (f : Port → Port) : (s.updPort p f).dies = s.dies := rfl
@[simp] theorem updPort_accs (s : State) (p : Nat) (f : Port → Port) : (s.updPort p f).accs = s.accs := rfl
@[simp] theorem updPort_l2 (s : State) (p : Nat) (f : Port → Port) : (s.updPort p f).l2 = s.l2 := rfl
@[simp] theorem updPort_slices (s : State) (p : Nat) (f : Port → Port) : (s.updPort p f).slices = s.slices := rfl
@[simp] theorem updPort_regs (s : State) (p : Nat) (f : Port → Port) : (s.updPort p f).regs = s.regs := rfl
@[simp] theorem updPort_demandHeld (s : State) (p : Nat) (f : Port → Port) : (s.updPort p f).demandHeld = s.demandHeld := rfl
@[simp] theorem updPort_flash (s : State) (p : Nat) (f : Port → Port) : (s.updPort p f).flash = s.flash := rfl
@[simp] theorem updPort_hostWait (s : State) (p : Nat) (f : Port → Port) : (s.updPort p f).hostWait = s.hostWait := rfl
@[simp] theorem updPort_priLate (s : State) (p : Nat) (f : Port → Port) : (s.updPort p f).priLate = s.priLate := rfl
@[simp] theorem updPort_qturn (s : State) (p : Nat) (f : Port → Port) : (s.updPort p f).qturn = s.qturn := rfl
@[simp] theorem updPort_msix (s : State) (p : Nat) (f : Port → Port) : (s.updPort p f).msix = s.msix := rfl
@[simp] theorem updPort_ecc (s : State) (p : Nat) (f : Port → Port) : (s.updPort p f).ecc = s.ecc := rfl
@[simp] theorem updPort_errs (s : State) (p : Nat) (f : Port → Port) : (s.updPort p f).errs = s.errs := rfl
@[simp] theorem updPort_handlers (s : State) (p : Nat) (f : Port → Port) : (s.updPort p f).handlers = s.handlers := rfl
@[simp] theorem updPort_ops (s : State) (p : Nat) (f : Port → Port) : (s.updPort p f).ops = s.ops := rfl
@[simp] theorem updPort_queues (s : State) (p : Nat) (f : Port → Port) : (s.updPort p f).queues = s.queues := rfl
@[simp] theorem updPort_kcqs (s : State) (p : Nat) (f : Port → Port) : (s.updPort p f).kcqs = s.kcqs := rfl
@[simp] theorem updPort_spawned (s : State) (p : Nat) (f : Port → Port) : (s.updPort p f).spawned = s.spawned := rfl
@[simp] theorem updPort_mats (s : State) (p : Nat) (f : Port → Port) : (s.updPort p f).mats = s.mats := rfl
@[simp] theorem updPort_homeMaps (s : State) (p : Nat) (f : Port → Port) : (s.updPort p f).homeMaps = s.homeMaps := rfl
@[simp] theorem updPort_stations (s : State) (p : Nat) (f : Port → Port) : (s.updPort p f).stations = s.stations := rfl
@[simp] theorem updPort_comms (s : State) (p : Nat) (f : Port → Port) : (s.updPort p f).comms = s.comms := rfl
@[simp] theorem updPort_adrift (s : State) (p : Nat) (f : Port → Port) : (s.updPort p f).adrift = s.adrift := rfl
@[simp] theorem updPort_lost (s : State) (p : Nat) (f : Port → Port) : (s.updPort p f).lost = s.lost := rfl
@[simp] theorem updPort_custody (s : State) (p : Nat) (f : Port → Port) : (s.updPort p f).custody = s.custody := rfl
@[simp] theorem updPort_net (s : State) (p : Nat) (f : Port → Port) : (s.updPort p f).net = s.net := rfl
@[simp] theorem updPort_ats (s : State) (p : Nat) (f : Port → Port) : (s.updPort p f).ats = s.ats := rfl
@[simp] theorem updPort_pri (s : State) (p : Nat) (f : Port → Port) : (s.updPort p f).pri = s.pri := rfl
@[simp] theorem updPort_atsAsk (s : State) (p : Nat) (f : Port → Port) : (s.updPort p f).atsAsk = s.atsAsk := rfl
@[simp] theorem updPort_priWait (s : State) (p : Nat) (f : Port → Port) : (s.updPort p f).priWait = s.priWait := rfl
@[simp] theorem updPort_atsInv (s : State) (p : Nat) (f : Port → Port) : (s.updPort p f).atsInv = s.atsInv := rfl
@[simp] theorem updPort_hole (s : State) (p : Nat) (f : Port → Port) : (s.updPort p f).hole = s.hole := rfl
@[simp] theorem updPort_l2Tick (s : State) (p : Nat) (f : Port → Port) : (s.updPort p f).l2Tick = s.l2Tick := rfl
@[simp] theorem updPort_nextId (s : State) (p : Nat) (f : Port → Port) : (s.updPort p f).nextId = s.nextId := rfl
@[simp] theorem updPort_schedule (s : State) (p : Nat) (f : Port → Port) : (s.updPort p f).schedule = s.schedule := rfl
@[simp] theorem updPort_turn (s : State) (p : Nat) (f : Port → Port) : (s.updPort p f).turn = s.turn := rfl
@[simp] theorem updPort_cur (s : State) (p : Nat) (f : Port → Port) : (s.updPort p f).cur = s.cur := rfl
@[simp] theorem updPort_input (s : State) (p : Nat) (f : Port → Port) : (s.updPort p f).input = s.input := rfl
@[simp] theorem updPort_freeCtr (s : State) (p : Nat) (f : Port → Port) : (s.updPort p f).freeCtr = s.freeCtr := rfl

@[simp] theorem fresh_mem (s : State) : s.fresh.2.mem = s.mem := rfl
@[simp] theorem fresh_cores (s : State) : s.fresh.2.cores = s.cores := rfl
@[simp] theorem fresh_groups (s : State) : s.fresh.2.groups = s.groups := rfl
@[simp] theorem fresh_blocks (s : State) : s.fresh.2.blocks = s.blocks := rfl
@[simp] theorem fresh_launches (s : State) : s.fresh.2.launches = s.launches := rfl
@[simp] theorem fresh_reserves (s : State) : s.fresh.2.reserves = s.reserves := rfl
@[simp] theorem fresh_job (s : State) : s.fresh.2.job = s.job := rfl
@[simp] theorem fresh_saved (s : State) : s.fresh.2.saved = s.saved := rfl
@[simp] theorem fresh_dies (s : State) : s.fresh.2.dies = s.dies := rfl
@[simp] theorem fresh_accs (s : State) : s.fresh.2.accs = s.accs := rfl
@[simp] theorem fresh_l2 (s : State) : s.fresh.2.l2 = s.l2 := rfl
@[simp] theorem fresh_slices (s : State) : s.fresh.2.slices = s.slices := rfl
@[simp] theorem fresh_fabric (s : State) : s.fresh.2.fabric = s.fabric := rfl
@[simp] theorem fresh_regs (s : State) : s.fresh.2.regs = s.regs := rfl
@[simp] theorem fresh_demandHeld (s : State) : s.fresh.2.demandHeld = s.demandHeld := rfl
@[simp] theorem fresh_flash (s : State) : s.fresh.2.flash = s.flash := rfl
@[simp] theorem fresh_hostWait (s : State) : s.fresh.2.hostWait = s.hostWait := rfl
@[simp] theorem fresh_priLate (s : State) : s.fresh.2.priLate = s.priLate := rfl
@[simp] theorem fresh_qturn (s : State) : s.fresh.2.qturn = s.qturn := rfl
@[simp] theorem fresh_msix (s : State) : s.fresh.2.msix = s.msix := rfl
@[simp] theorem fresh_ecc (s : State) : s.fresh.2.ecc = s.ecc := rfl
@[simp] theorem fresh_errs (s : State) : s.fresh.2.errs = s.errs := rfl
@[simp] theorem fresh_handlers (s : State) : s.fresh.2.handlers = s.handlers := rfl
@[simp] theorem fresh_ops (s : State) : s.fresh.2.ops = s.ops := rfl
@[simp] theorem fresh_queues (s : State) : s.fresh.2.queues = s.queues := rfl
@[simp] theorem fresh_kcqs (s : State) : s.fresh.2.kcqs = s.kcqs := rfl
@[simp] theorem fresh_spawned (s : State) : s.fresh.2.spawned = s.spawned := rfl
@[simp] theorem fresh_mats (s : State) : s.fresh.2.mats = s.mats := rfl
@[simp] theorem fresh_homeMaps (s : State) : s.fresh.2.homeMaps = s.homeMaps := rfl
@[simp] theorem fresh_stations (s : State) : s.fresh.2.stations = s.stations := rfl
@[simp] theorem fresh_comms (s : State) : s.fresh.2.comms = s.comms := rfl
@[simp] theorem fresh_adrift (s : State) : s.fresh.2.adrift = s.adrift := rfl
@[simp] theorem fresh_lost (s : State) : s.fresh.2.lost = s.lost := rfl
@[simp] theorem fresh_custody (s : State) : s.fresh.2.custody = s.custody := rfl
@[simp] theorem fresh_net (s : State) : s.fresh.2.net = s.net := rfl
@[simp] theorem fresh_ats (s : State) : s.fresh.2.ats = s.ats := rfl
@[simp] theorem fresh_pri (s : State) : s.fresh.2.pri = s.pri := rfl
@[simp] theorem fresh_atsAsk (s : State) : s.fresh.2.atsAsk = s.atsAsk := rfl
@[simp] theorem fresh_priWait (s : State) : s.fresh.2.priWait = s.priWait := rfl
@[simp] theorem fresh_atsInv (s : State) : s.fresh.2.atsInv = s.atsInv := rfl
@[simp] theorem fresh_hole (s : State) : s.fresh.2.hole = s.hole := rfl
@[simp] theorem fresh_l2Tick (s : State) : s.fresh.2.l2Tick = s.l2Tick := rfl
@[simp] theorem fresh_schedule (s : State) : s.fresh.2.schedule = s.schedule := rfl
@[simp] theorem fresh_turn (s : State) : s.fresh.2.turn = s.turn := rfl
@[simp] theorem fresh_cur (s : State) : s.fresh.2.cur = s.cur := rfl
@[simp] theorem fresh_input (s : State) : s.fresh.2.input = s.input := rfl
@[simp] theorem fresh_freeCtr (s : State) : s.fresh.2.freeCtr = s.freeCtr := rfl

@[simp] theorem freeWord_mem (s : State) : s.freeWord.2.mem = s.mem := rfl
@[simp] theorem freeWord_cores (s : State) : s.freeWord.2.cores = s.cores := rfl
@[simp] theorem freeWord_groups (s : State) : s.freeWord.2.groups = s.groups := rfl
@[simp] theorem freeWord_blocks (s : State) : s.freeWord.2.blocks = s.blocks := rfl
@[simp] theorem freeWord_launches (s : State) : s.freeWord.2.launches = s.launches := rfl
@[simp] theorem freeWord_reserves (s : State) : s.freeWord.2.reserves = s.reserves := rfl
@[simp] theorem freeWord_job (s : State) : s.freeWord.2.job = s.job := rfl
@[simp] theorem freeWord_saved (s : State) : s.freeWord.2.saved = s.saved := rfl
@[simp] theorem freeWord_dies (s : State) : s.freeWord.2.dies = s.dies := rfl
@[simp] theorem freeWord_accs (s : State) : s.freeWord.2.accs = s.accs := rfl
@[simp] theorem freeWord_l2 (s : State) : s.freeWord.2.l2 = s.l2 := rfl
@[simp] theorem freeWord_slices (s : State) : s.freeWord.2.slices = s.slices := rfl
@[simp] theorem freeWord_fabric (s : State) : s.freeWord.2.fabric = s.fabric := rfl
@[simp] theorem freeWord_regs (s : State) : s.freeWord.2.regs = s.regs := rfl
@[simp] theorem freeWord_demandHeld (s : State) : s.freeWord.2.demandHeld = s.demandHeld := rfl
@[simp] theorem freeWord_flash (s : State) : s.freeWord.2.flash = s.flash := rfl
@[simp] theorem freeWord_hostWait (s : State) : s.freeWord.2.hostWait = s.hostWait := rfl
@[simp] theorem freeWord_priLate (s : State) : s.freeWord.2.priLate = s.priLate := rfl
@[simp] theorem freeWord_qturn (s : State) : s.freeWord.2.qturn = s.qturn := rfl
@[simp] theorem freeWord_msix (s : State) : s.freeWord.2.msix = s.msix := rfl
@[simp] theorem freeWord_ecc (s : State) : s.freeWord.2.ecc = s.ecc := rfl
@[simp] theorem freeWord_errs (s : State) : s.freeWord.2.errs = s.errs := rfl
@[simp] theorem freeWord_handlers (s : State) : s.freeWord.2.handlers = s.handlers := rfl
@[simp] theorem freeWord_ops (s : State) : s.freeWord.2.ops = s.ops := rfl
@[simp] theorem freeWord_queues (s : State) : s.freeWord.2.queues = s.queues := rfl
@[simp] theorem freeWord_kcqs (s : State) : s.freeWord.2.kcqs = s.kcqs := rfl
@[simp] theorem freeWord_spawned (s : State) : s.freeWord.2.spawned = s.spawned := rfl
@[simp] theorem freeWord_mats (s : State) : s.freeWord.2.mats = s.mats := rfl
@[simp] theorem freeWord_homeMaps (s : State) : s.freeWord.2.homeMaps = s.homeMaps := rfl
@[simp] theorem freeWord_stations (s : State) : s.freeWord.2.stations = s.stations := rfl
@[simp] theorem freeWord_comms (s : State) : s.freeWord.2.comms = s.comms := rfl
@[simp] theorem freeWord_adrift (s : State) : s.freeWord.2.adrift = s.adrift := rfl
@[simp] theorem freeWord_lost (s : State) : s.freeWord.2.lost = s.lost := rfl
@[simp] theorem freeWord_custody (s : State) : s.freeWord.2.custody = s.custody := rfl
@[simp] theorem freeWord_net (s : State) : s.freeWord.2.net = s.net := rfl
@[simp] theorem freeWord_ats (s : State) : s.freeWord.2.ats = s.ats := rfl
@[simp] theorem freeWord_pri (s : State) : s.freeWord.2.pri = s.pri := rfl
@[simp] theorem freeWord_atsAsk (s : State) : s.freeWord.2.atsAsk = s.atsAsk := rfl
@[simp] theorem freeWord_priWait (s : State) : s.freeWord.2.priWait = s.priWait := rfl
@[simp] theorem freeWord_atsInv (s : State) : s.freeWord.2.atsInv = s.atsInv := rfl
@[simp] theorem freeWord_hole (s : State) : s.freeWord.2.hole = s.hole := rfl
@[simp] theorem freeWord_l2Tick (s : State) : s.freeWord.2.l2Tick = s.l2Tick := rfl
@[simp] theorem freeWord_nextId (s : State) : s.freeWord.2.nextId = s.nextId := rfl
@[simp] theorem freeWord_schedule (s : State) : s.freeWord.2.schedule = s.schedule := rfl
@[simp] theorem freeWord_turn (s : State) : s.freeWord.2.turn = s.turn := rfl
@[simp] theorem freeWord_cur (s : State) : s.freeWord.2.cur = s.cur := rfl
@[simp] theorem freeWord_input (s : State) : s.freeWord.2.input = s.input := rfl

@[simp] theorem freeChoice_mem (s : State) (n : Nat) : (s.freeChoice n).2.mem = s.mem := rfl
@[simp] theorem freeChoice_cores (s : State) (n : Nat) : (s.freeChoice n).2.cores = s.cores := rfl
@[simp] theorem freeChoice_groups (s : State) (n : Nat) : (s.freeChoice n).2.groups = s.groups := rfl
@[simp] theorem freeChoice_blocks (s : State) (n : Nat) : (s.freeChoice n).2.blocks = s.blocks := rfl
@[simp] theorem freeChoice_launches (s : State) (n : Nat) : (s.freeChoice n).2.launches = s.launches := rfl
@[simp] theorem freeChoice_reserves (s : State) (n : Nat) : (s.freeChoice n).2.reserves = s.reserves := rfl
@[simp] theorem freeChoice_job (s : State) (n : Nat) : (s.freeChoice n).2.job = s.job := rfl
@[simp] theorem freeChoice_saved (s : State) (n : Nat) : (s.freeChoice n).2.saved = s.saved := rfl
@[simp] theorem freeChoice_dies (s : State) (n : Nat) : (s.freeChoice n).2.dies = s.dies := rfl
@[simp] theorem freeChoice_accs (s : State) (n : Nat) : (s.freeChoice n).2.accs = s.accs := rfl
@[simp] theorem freeChoice_l2 (s : State) (n : Nat) : (s.freeChoice n).2.l2 = s.l2 := rfl
@[simp] theorem freeChoice_slices (s : State) (n : Nat) : (s.freeChoice n).2.slices = s.slices := rfl
@[simp] theorem freeChoice_fabric (s : State) (n : Nat) : (s.freeChoice n).2.fabric = s.fabric := rfl
@[simp] theorem freeChoice_regs (s : State) (n : Nat) : (s.freeChoice n).2.regs = s.regs := rfl
@[simp] theorem freeChoice_demandHeld (s : State) (n : Nat) : (s.freeChoice n).2.demandHeld = s.demandHeld := rfl
@[simp] theorem freeChoice_flash (s : State) (n : Nat) : (s.freeChoice n).2.flash = s.flash := rfl
@[simp] theorem freeChoice_hostWait (s : State) (n : Nat) : (s.freeChoice n).2.hostWait = s.hostWait := rfl
@[simp] theorem freeChoice_priLate (s : State) (n : Nat) : (s.freeChoice n).2.priLate = s.priLate := rfl
@[simp] theorem freeChoice_qturn (s : State) (n : Nat) : (s.freeChoice n).2.qturn = s.qturn := rfl
@[simp] theorem freeChoice_msix (s : State) (n : Nat) : (s.freeChoice n).2.msix = s.msix := rfl
@[simp] theorem freeChoice_ecc (s : State) (n : Nat) : (s.freeChoice n).2.ecc = s.ecc := rfl
@[simp] theorem freeChoice_errs (s : State) (n : Nat) : (s.freeChoice n).2.errs = s.errs := rfl
@[simp] theorem freeChoice_handlers (s : State) (n : Nat) : (s.freeChoice n).2.handlers = s.handlers := rfl
@[simp] theorem freeChoice_ops (s : State) (n : Nat) : (s.freeChoice n).2.ops = s.ops := rfl
@[simp] theorem freeChoice_queues (s : State) (n : Nat) : (s.freeChoice n).2.queues = s.queues := rfl
@[simp] theorem freeChoice_kcqs (s : State) (n : Nat) : (s.freeChoice n).2.kcqs = s.kcqs := rfl
@[simp] theorem freeChoice_spawned (s : State) (n : Nat) : (s.freeChoice n).2.spawned = s.spawned := rfl
@[simp] theorem freeChoice_mats (s : State) (n : Nat) : (s.freeChoice n).2.mats = s.mats := rfl
@[simp] theorem freeChoice_homeMaps (s : State) (n : Nat) : (s.freeChoice n).2.homeMaps = s.homeMaps := rfl
@[simp] theorem freeChoice_stations (s : State) (n : Nat) : (s.freeChoice n).2.stations = s.stations := rfl
@[simp] theorem freeChoice_comms (s : State) (n : Nat) : (s.freeChoice n).2.comms = s.comms := rfl
@[simp] theorem freeChoice_adrift (s : State) (n : Nat) : (s.freeChoice n).2.adrift = s.adrift := rfl
@[simp] theorem freeChoice_lost (s : State) (n : Nat) : (s.freeChoice n).2.lost = s.lost := rfl
@[simp] theorem freeChoice_custody (s : State) (n : Nat) : (s.freeChoice n).2.custody = s.custody := rfl
@[simp] theorem freeChoice_net (s : State) (n : Nat) : (s.freeChoice n).2.net = s.net := rfl
@[simp] theorem freeChoice_ats (s : State) (n : Nat) : (s.freeChoice n).2.ats = s.ats := rfl
@[simp] theorem freeChoice_pri (s : State) (n : Nat) : (s.freeChoice n).2.pri = s.pri := rfl
@[simp] theorem freeChoice_atsAsk (s : State) (n : Nat) : (s.freeChoice n).2.atsAsk = s.atsAsk := rfl
@[simp] theorem freeChoice_priWait (s : State) (n : Nat) : (s.freeChoice n).2.priWait = s.priWait := rfl
@[simp] theorem freeChoice_atsInv (s : State) (n : Nat) : (s.freeChoice n).2.atsInv = s.atsInv := rfl
@[simp] theorem freeChoice_hole (s : State) (n : Nat) : (s.freeChoice n).2.hole = s.hole := rfl
@[simp] theorem freeChoice_l2Tick (s : State) (n : Nat) : (s.freeChoice n).2.l2Tick = s.l2Tick := rfl
@[simp] theorem freeChoice_nextId (s : State) (n : Nat) : (s.freeChoice n).2.nextId = s.nextId := rfl
@[simp] theorem freeChoice_schedule (s : State) (n : Nat) : (s.freeChoice n).2.schedule = s.schedule := rfl
@[simp] theorem freeChoice_turn (s : State) (n : Nat) : (s.freeChoice n).2.turn = s.turn := rfl
@[simp] theorem freeChoice_cur (s : State) (n : Nat) : (s.freeChoice n).2.cur = s.cur := rfl
@[simp] theorem freeChoice_input (s : State) (n : Nat) : (s.freeChoice n).2.input = s.input := rfl

@[simp] theorem putOp_mem (o : Op) (s : State) : (putOp o s).mem = s.mem := rfl
@[simp] theorem putOp_cores (o : Op) (s : State) : (putOp o s).cores = s.cores := rfl
@[simp] theorem putOp_groups (o : Op) (s : State) : (putOp o s).groups = s.groups := rfl
@[simp] theorem putOp_blocks (o : Op) (s : State) : (putOp o s).blocks = s.blocks := rfl
@[simp] theorem putOp_launches (o : Op) (s : State) : (putOp o s).launches = s.launches := rfl
@[simp] theorem putOp_reserves (o : Op) (s : State) : (putOp o s).reserves = s.reserves := rfl
@[simp] theorem putOp_job (o : Op) (s : State) : (putOp o s).job = s.job := rfl
@[simp] theorem putOp_saved (o : Op) (s : State) : (putOp o s).saved = s.saved := rfl
@[simp] theorem putOp_dies (o : Op) (s : State) : (putOp o s).dies = s.dies := rfl
@[simp] theorem putOp_accs (o : Op) (s : State) : (putOp o s).accs = s.accs := rfl
@[simp] theorem putOp_l2 (o : Op) (s : State) : (putOp o s).l2 = s.l2 := rfl
@[simp] theorem putOp_slices (o : Op) (s : State) : (putOp o s).slices = s.slices := rfl
@[simp] theorem putOp_fabric (o : Op) (s : State) : (putOp o s).fabric = s.fabric := rfl
@[simp] theorem putOp_regs (o : Op) (s : State) : (putOp o s).regs = s.regs := rfl
@[simp] theorem putOp_demandHeld (o : Op) (s : State) : (putOp o s).demandHeld = s.demandHeld := rfl
@[simp] theorem putOp_flash (o : Op) (s : State) : (putOp o s).flash = s.flash := rfl
@[simp] theorem putOp_hostWait (o : Op) (s : State) : (putOp o s).hostWait = s.hostWait := rfl
@[simp] theorem putOp_priLate (o : Op) (s : State) : (putOp o s).priLate = s.priLate := rfl
@[simp] theorem putOp_qturn (o : Op) (s : State) : (putOp o s).qturn = s.qturn := rfl
@[simp] theorem putOp_msix (o : Op) (s : State) : (putOp o s).msix = s.msix := rfl
@[simp] theorem putOp_ecc (o : Op) (s : State) : (putOp o s).ecc = s.ecc := rfl
@[simp] theorem putOp_errs (o : Op) (s : State) : (putOp o s).errs = s.errs := rfl
@[simp] theorem putOp_handlers (o : Op) (s : State) : (putOp o s).handlers = s.handlers := rfl
@[simp] theorem putOp_queues (o : Op) (s : State) : (putOp o s).queues = s.queues := rfl
@[simp] theorem putOp_kcqs (o : Op) (s : State) : (putOp o s).kcqs = s.kcqs := rfl
@[simp] theorem putOp_spawned (o : Op) (s : State) : (putOp o s).spawned = s.spawned := rfl
@[simp] theorem putOp_mats (o : Op) (s : State) : (putOp o s).mats = s.mats := rfl
@[simp] theorem putOp_homeMaps (o : Op) (s : State) : (putOp o s).homeMaps = s.homeMaps := rfl
@[simp] theorem putOp_stations (o : Op) (s : State) : (putOp o s).stations = s.stations := rfl
@[simp] theorem putOp_comms (o : Op) (s : State) : (putOp o s).comms = s.comms := rfl
@[simp] theorem putOp_adrift (o : Op) (s : State) : (putOp o s).adrift = s.adrift := rfl
@[simp] theorem putOp_lost (o : Op) (s : State) : (putOp o s).lost = s.lost := rfl
@[simp] theorem putOp_custody (o : Op) (s : State) : (putOp o s).custody = s.custody := rfl
@[simp] theorem putOp_net (o : Op) (s : State) : (putOp o s).net = s.net := rfl
@[simp] theorem putOp_ats (o : Op) (s : State) : (putOp o s).ats = s.ats := rfl
@[simp] theorem putOp_pri (o : Op) (s : State) : (putOp o s).pri = s.pri := rfl
@[simp] theorem putOp_atsAsk (o : Op) (s : State) : (putOp o s).atsAsk = s.atsAsk := rfl
@[simp] theorem putOp_priWait (o : Op) (s : State) : (putOp o s).priWait = s.priWait := rfl
@[simp] theorem putOp_atsInv (o : Op) (s : State) : (putOp o s).atsInv = s.atsInv := rfl
@[simp] theorem putOp_hole (o : Op) (s : State) : (putOp o s).hole = s.hole := rfl
@[simp] theorem putOp_l2Tick (o : Op) (s : State) : (putOp o s).l2Tick = s.l2Tick := rfl
@[simp] theorem putOp_nextId (o : Op) (s : State) : (putOp o s).nextId = s.nextId := rfl
@[simp] theorem putOp_schedule (o : Op) (s : State) : (putOp o s).schedule = s.schedule := rfl
@[simp] theorem putOp_turn (o : Op) (s : State) : (putOp o s).turn = s.turn := rfl
@[simp] theorem putOp_cur (o : Op) (s : State) : (putOp o s).cur = s.cur := rfl
@[simp] theorem putOp_input (o : Op) (s : State) : (putOp o s).input = s.input := rfl
@[simp] theorem putOp_freeCtr (o : Op) (s : State) : (putOp o s).freeCtr = s.freeCtr := rfl

@[simp] theorem putAcc_mem (a : Access) (s : State) : (putAcc a s).mem = s.mem := rfl
@[simp] theorem putAcc_cores (a : Access) (s : State) : (putAcc a s).cores = s.cores := rfl
@[simp] theorem putAcc_groups (a : Access) (s : State) : (putAcc a s).groups = s.groups := rfl
@[simp] theorem putAcc_blocks (a : Access) (s : State) : (putAcc a s).blocks = s.blocks := rfl
@[simp] theorem putAcc_launches (a : Access) (s : State) : (putAcc a s).launches = s.launches := rfl
@[simp] theorem putAcc_reserves (a : Access) (s : State) : (putAcc a s).reserves = s.reserves := rfl
@[simp] theorem putAcc_job (a : Access) (s : State) : (putAcc a s).job = s.job := rfl
@[simp] theorem putAcc_saved (a : Access) (s : State) : (putAcc a s).saved = s.saved := rfl
@[simp] theorem putAcc_dies (a : Access) (s : State) : (putAcc a s).dies = s.dies := rfl
@[simp] theorem putAcc_l2 (a : Access) (s : State) : (putAcc a s).l2 = s.l2 := rfl
@[simp] theorem putAcc_slices (a : Access) (s : State) : (putAcc a s).slices = s.slices := rfl
@[simp] theorem putAcc_fabric (a : Access) (s : State) : (putAcc a s).fabric = s.fabric := rfl
@[simp] theorem putAcc_regs (a : Access) (s : State) : (putAcc a s).regs = s.regs := rfl
@[simp] theorem putAcc_demandHeld (a : Access) (s : State) : (putAcc a s).demandHeld = s.demandHeld := rfl
@[simp] theorem putAcc_flash (a : Access) (s : State) : (putAcc a s).flash = s.flash := rfl
@[simp] theorem putAcc_hostWait (a : Access) (s : State) : (putAcc a s).hostWait = s.hostWait := rfl
@[simp] theorem putAcc_priLate (a : Access) (s : State) : (putAcc a s).priLate = s.priLate := rfl
@[simp] theorem putAcc_qturn (a : Access) (s : State) : (putAcc a s).qturn = s.qturn := rfl
@[simp] theorem putAcc_msix (a : Access) (s : State) : (putAcc a s).msix = s.msix := rfl
@[simp] theorem putAcc_ecc (a : Access) (s : State) : (putAcc a s).ecc = s.ecc := rfl
@[simp] theorem putAcc_errs (a : Access) (s : State) : (putAcc a s).errs = s.errs := rfl
@[simp] theorem putAcc_handlers (a : Access) (s : State) : (putAcc a s).handlers = s.handlers := rfl
@[simp] theorem putAcc_ops (a : Access) (s : State) : (putAcc a s).ops = s.ops := rfl
@[simp] theorem putAcc_queues (a : Access) (s : State) : (putAcc a s).queues = s.queues := rfl
@[simp] theorem putAcc_kcqs (a : Access) (s : State) : (putAcc a s).kcqs = s.kcqs := rfl
@[simp] theorem putAcc_spawned (a : Access) (s : State) : (putAcc a s).spawned = s.spawned := rfl
@[simp] theorem putAcc_mats (a : Access) (s : State) : (putAcc a s).mats = s.mats := rfl
@[simp] theorem putAcc_homeMaps (a : Access) (s : State) : (putAcc a s).homeMaps = s.homeMaps := rfl
@[simp] theorem putAcc_stations (a : Access) (s : State) : (putAcc a s).stations = s.stations := rfl
@[simp] theorem putAcc_comms (a : Access) (s : State) : (putAcc a s).comms = s.comms := rfl
@[simp] theorem putAcc_adrift (a : Access) (s : State) : (putAcc a s).adrift = s.adrift := rfl
@[simp] theorem putAcc_lost (a : Access) (s : State) : (putAcc a s).lost = s.lost := rfl
@[simp] theorem putAcc_custody (a : Access) (s : State) : (putAcc a s).custody = s.custody := rfl
@[simp] theorem putAcc_net (a : Access) (s : State) : (putAcc a s).net = s.net := rfl
@[simp] theorem putAcc_ats (a : Access) (s : State) : (putAcc a s).ats = s.ats := rfl
@[simp] theorem putAcc_pri (a : Access) (s : State) : (putAcc a s).pri = s.pri := rfl
@[simp] theorem putAcc_atsAsk (a : Access) (s : State) : (putAcc a s).atsAsk = s.atsAsk := rfl
@[simp] theorem putAcc_priWait (a : Access) (s : State) : (putAcc a s).priWait = s.priWait := rfl
@[simp] theorem putAcc_atsInv (a : Access) (s : State) : (putAcc a s).atsInv = s.atsInv := rfl
@[simp] theorem putAcc_hole (a : Access) (s : State) : (putAcc a s).hole = s.hole := rfl
@[simp] theorem putAcc_l2Tick (a : Access) (s : State) : (putAcc a s).l2Tick = s.l2Tick := rfl
@[simp] theorem putAcc_nextId (a : Access) (s : State) : (putAcc a s).nextId = s.nextId := rfl
@[simp] theorem putAcc_schedule (a : Access) (s : State) : (putAcc a s).schedule = s.schedule := rfl
@[simp] theorem putAcc_turn (a : Access) (s : State) : (putAcc a s).turn = s.turn := rfl
@[simp] theorem putAcc_cur (a : Access) (s : State) : (putAcc a s).cur = s.cur := rfl
@[simp] theorem putAcc_input (a : Access) (s : State) : (putAcc a s).input = s.input := rfl
@[simp] theorem putAcc_freeCtr (a : Access) (s : State) : (putAcc a s).freeCtr = s.freeCtr := rfl

@[simp] theorem dropOp_mem (i : Nat) (s : State) : (dropOp i s).mem = s.mem := rfl
@[simp] theorem dropOp_cores (i : Nat) (s : State) : (dropOp i s).cores = s.cores := rfl
@[simp] theorem dropOp_groups (i : Nat) (s : State) : (dropOp i s).groups = s.groups := rfl
@[simp] theorem dropOp_blocks (i : Nat) (s : State) : (dropOp i s).blocks = s.blocks := rfl
@[simp] theorem dropOp_launches (i : Nat) (s : State) : (dropOp i s).launches = s.launches := rfl
@[simp] theorem dropOp_reserves (i : Nat) (s : State) : (dropOp i s).reserves = s.reserves := rfl
@[simp] theorem dropOp_job (i : Nat) (s : State) : (dropOp i s).job = s.job := rfl
@[simp] theorem dropOp_saved (i : Nat) (s : State) : (dropOp i s).saved = s.saved := rfl
@[simp] theorem dropOp_dies (i : Nat) (s : State) : (dropOp i s).dies = s.dies := rfl
@[simp] theorem dropOp_accs (i : Nat) (s : State) : (dropOp i s).accs = s.accs := rfl
@[simp] theorem dropOp_l2 (i : Nat) (s : State) : (dropOp i s).l2 = s.l2 := rfl
@[simp] theorem dropOp_slices (i : Nat) (s : State) : (dropOp i s).slices = s.slices := rfl
@[simp] theorem dropOp_fabric (i : Nat) (s : State) : (dropOp i s).fabric = s.fabric := rfl
@[simp] theorem dropOp_regs (i : Nat) (s : State) : (dropOp i s).regs = s.regs := rfl
@[simp] theorem dropOp_demandHeld (i : Nat) (s : State) : (dropOp i s).demandHeld = s.demandHeld := rfl
@[simp] theorem dropOp_flash (i : Nat) (s : State) : (dropOp i s).flash = s.flash := rfl
@[simp] theorem dropOp_hostWait (i : Nat) (s : State) : (dropOp i s).hostWait = s.hostWait := rfl
@[simp] theorem dropOp_priLate (i : Nat) (s : State) : (dropOp i s).priLate = s.priLate := rfl
@[simp] theorem dropOp_qturn (i : Nat) (s : State) : (dropOp i s).qturn = s.qturn := rfl
@[simp] theorem dropOp_msix (i : Nat) (s : State) : (dropOp i s).msix = s.msix := rfl
@[simp] theorem dropOp_ecc (i : Nat) (s : State) : (dropOp i s).ecc = s.ecc := rfl
@[simp] theorem dropOp_errs (i : Nat) (s : State) : (dropOp i s).errs = s.errs := rfl
@[simp] theorem dropOp_handlers (i : Nat) (s : State) : (dropOp i s).handlers = s.handlers := rfl
@[simp] theorem dropOp_queues (i : Nat) (s : State) : (dropOp i s).queues = s.queues := rfl
@[simp] theorem dropOp_kcqs (i : Nat) (s : State) : (dropOp i s).kcqs = s.kcqs := rfl
@[simp] theorem dropOp_spawned (i : Nat) (s : State) : (dropOp i s).spawned = s.spawned := rfl
@[simp] theorem dropOp_mats (i : Nat) (s : State) : (dropOp i s).mats = s.mats := rfl
@[simp] theorem dropOp_homeMaps (i : Nat) (s : State) : (dropOp i s).homeMaps = s.homeMaps := rfl
@[simp] theorem dropOp_stations (i : Nat) (s : State) : (dropOp i s).stations = s.stations := rfl
@[simp] theorem dropOp_comms (i : Nat) (s : State) : (dropOp i s).comms = s.comms := rfl
@[simp] theorem dropOp_adrift (i : Nat) (s : State) : (dropOp i s).adrift = s.adrift := rfl
@[simp] theorem dropOp_lost (i : Nat) (s : State) : (dropOp i s).lost = s.lost := rfl
@[simp] theorem dropOp_custody (i : Nat) (s : State) : (dropOp i s).custody = s.custody := rfl
@[simp] theorem dropOp_net (i : Nat) (s : State) : (dropOp i s).net = s.net := rfl
@[simp] theorem dropOp_ats (i : Nat) (s : State) : (dropOp i s).ats = s.ats := rfl
@[simp] theorem dropOp_pri (i : Nat) (s : State) : (dropOp i s).pri = s.pri := rfl
@[simp] theorem dropOp_atsAsk (i : Nat) (s : State) : (dropOp i s).atsAsk = s.atsAsk := rfl
@[simp] theorem dropOp_priWait (i : Nat) (s : State) : (dropOp i s).priWait = s.priWait := rfl
@[simp] theorem dropOp_atsInv (i : Nat) (s : State) : (dropOp i s).atsInv = s.atsInv := rfl
@[simp] theorem dropOp_hole (i : Nat) (s : State) : (dropOp i s).hole = s.hole := rfl
@[simp] theorem dropOp_l2Tick (i : Nat) (s : State) : (dropOp i s).l2Tick = s.l2Tick := rfl
@[simp] theorem dropOp_nextId (i : Nat) (s : State) : (dropOp i s).nextId = s.nextId := rfl
@[simp] theorem dropOp_schedule (i : Nat) (s : State) : (dropOp i s).schedule = s.schedule := rfl
@[simp] theorem dropOp_turn (i : Nat) (s : State) : (dropOp i s).turn = s.turn := rfl
@[simp] theorem dropOp_cur (i : Nat) (s : State) : (dropOp i s).cur = s.cur := rfl
@[simp] theorem dropOp_input (i : Nat) (s : State) : (dropOp i s).input = s.input := rfl
@[simp] theorem dropOp_freeCtr (i : Nat) (s : State) : (dropOp i s).freeCtr = s.freeCtr := rfl

/-! ## What an update puts where -/

/-- The unit that `updCore` changes. -/
@[simp] theorem core_updCore (s : State) (i : Nat) (f : Core → Core) : (s.updCore i f).core i = f (s.core i) := by simp [State.updCore, State.core, State.setCore]
/-- The units that `updCore` leaves. -/
theorem core_updCore_ne (s : State) (i j : Nat) (f : Core → Core) (h : i ≠ j) : (s.updCore i f).core j = s.core j := by
  simp [State.updCore, State.core, State.setCore, getN_putN_ne _ _ _ _ h]
/-- The unit that `updDie` changes. -/
@[simp] theorem die_updDie (s : State) (i : Nat) (f : Die → Die) : (s.updDie i f).die i = f (s.die i) := by simp [State.updDie, State.die]
/-- The units that `updDie` leaves. -/
theorem die_updDie_ne (s : State) (i j : Nat) (f : Die → Die) (h : i ≠ j) : (s.updDie i f).die j = s.die j := by
  simp [State.updDie, State.die, getN_putN_ne _ _ _ _ h]
/-- The unit that `updSlice` changes. -/
@[simp] theorem slice_updSlice (s : State) (i : Nat) (f : Slice → Slice) : (s.updSlice i f).slice i = f (s.slice i) := by simp [State.updSlice, State.slice]
/-- The units that `updSlice` leaves. -/
theorem slice_updSlice_ne (s : State) (i j : Nat) (f : Slice → Slice) (h : i ≠ j) : (s.updSlice i f).slice j = s.slice j := by
  simp [State.updSlice, State.slice, getN_putN_ne _ _ _ _ h]
/-- The unit that `updHandler` changes. -/
@[simp] theorem handler_updHandler (s : State) (i : Nat) (f : HandlerTab → HandlerTab) : (s.updHandler i f).handler i = f (s.handler i) := by simp [State.updHandler, State.handler]
/-- The units that `updHandler` leaves. -/
theorem handler_updHandler_ne (s : State) (i j : Nat) (f : HandlerTab → HandlerTab) (h : i ≠ j) : (s.updHandler i f).handler j = s.handler j := by
  simp [State.updHandler, State.handler, getN_putN_ne _ _ _ _ h]
/-- The unit that `updQueue` changes. -/
@[simp] theorem queue_updQueue (s : State) (i : Nat) (f : Queue → Queue) : (s.updQueue i f).queue i = f (s.queue i) := by simp [State.updQueue, State.queue]
/-- The units that `updQueue` leaves. -/
theorem queue_updQueue_ne (s : State) (i j : Nat) (f : Queue → Queue) (h : i ≠ j) : (s.updQueue i f).queue j = s.queue j := by
  simp [State.updQueue, State.queue, getN_putN_ne _ _ _ _ h]
/-- The unit that `updMat` changes. -/
@[simp] theorem mat_updMat (s : State) (i : Nat) (f : Matrix → Matrix) : (s.updMat i f).mat i = f (s.mat i) := by simp [State.updMat, State.mat]
/-- The units that `updMat` leaves. -/
theorem mat_updMat_ne (s : State) (i j : Nat) (f : Matrix → Matrix) (h : i ≠ j) : (s.updMat i f).mat j = s.mat j := by
  simp [State.updMat, State.mat, getN_putN_ne _ _ _ _ h]
/-- The unit that `updStation` changes. -/
@[simp] theorem station_updStation (s : State) (i : Nat) (f : Station → Station) : (s.updStation i f).station i = f (s.station i) := by simp [State.updStation, State.station]
/-- The units that `updStation` leaves. -/
theorem station_updStation_ne (s : State) (i j : Nat) (f : Station → Station) (h : i ≠ j) : (s.updStation i f).station j = s.station j := by
  simp [State.updStation, State.station, getN_putN_ne _ _ _ _ h]
/-- The unit that `updKcq` changes. -/
@[simp] theorem kcq_updKcq (s : State) (i : Nat) (f : Kcq → Kcq) : (s.updKcq i f).kcq i = f (s.kcq i) := by simp [State.updKcq, State.kcq]
/-- The units that `updKcq` leaves. -/
theorem kcq_updKcq_ne (s : State) (i j : Nat) (f : Kcq → Kcq) (h : i ≠ j) : (s.updKcq i f).kcq j = s.kcq j := by
  simp [State.updKcq, State.kcq, getN_putN_ne _ _ _ _ h]
/-- The group that `setGroup` puts. -/
@[simp] theorem group_setGroup (s : State) (k : Nat) (g : Group) : (s.setGroup k g).group k = some g := by simp [State.setGroup, State.group]
/-- The groups that `setGroup` leaves. -/
theorem group_setGroup_ne (s : State) (k j : Nat) (g : Group) (h : k ≠ j) : (s.setGroup k g).group j = s.group j := by
  simp [State.setGroup, State.group, getN_putN_ne _ _ _ _ h]
/-- A change of a resident group. -/
theorem updGroup_of (s : State) (k : Nat) (f : Group → Group) {g : Group} (h : s.group k = some g) :
    s.updGroup k f = s.setGroup k (f g) := by simp [State.updGroup, h]
/-- The groups that `updGroup` leaves. -/
theorem group_updGroup_ne (s : State) (k j : Nat) (f : Group → Group) (h : k ≠ j) : (s.updGroup k f).group j = s.group j := by
  unfold State.updGroup; split <;> simp [group_setGroup_ne _ _ _ _ h]
/-- A change of a resident group, read back. -/
@[simp] theorem group_updGroup (s : State) (k : Nat) (f : Group → Group) : (s.updGroup k f).group k = (s.group k).map f := by
  unfold State.updGroup; split <;> simp_all
/-- Setting a group twice is setting it last. -/
@[simp] theorem setGroup_setGroup (s : State) (k : Nat) (g x : Group) : (s.setGroup k g).setGroup k x = s.setGroup k x := by
  simp [State.setGroup]

/-! ## The plainest changes of a group -/

@[simp] theorem group_updLane_block (g : Group) (l : Nat) (f : Lane → Lane) : (g.updLane l f).block = g.block := rfl
@[simp] theorem group_updLane_groupIdx (g : Group) (l : Nat) (f : Lane → Lane) : (g.updLane l f).groupIdx = g.groupIdx := rfl
@[simp] theorem group_updLane_stage (g : Group) (l : Nat) (f : Lane → Lane) : (g.updLane l f).stage = g.stage := rfl
@[simp] theorem group_updLane_first (g : Group) (l : Nat) (f : Lane → Lane) : (g.updLane l f).first = g.first := rfl
@[simp] theorem group_updLane_rolen (g : Group) (l : Nat) (f : Lane → Lane) : (g.updLane l f).rolen = g.rolen := rfl
@[simp] theorem group_updLane_prio (g : Group) (l : Nat) (f : Lane → Lane) : (g.updLane l f).prio = g.prio := rfl
@[simp] theorem group_updLane_persist (g : Group) (l : Nat) (f : Lane → Lane) : (g.updLane l f).persist = g.persist := rfl
@[simp] theorem group_updLane_supervisor (g : Group) (l : Nat) (f : Lane → Lane) : (g.updLane l f).supervisor = g.supervisor := rfl
@[simp] theorem group_updLane_tenant (g : Group) (l : Nat) (f : Lane → Lane) : (g.updLane l f).tenant = g.tenant := rfl
@[simp] theorem group_updLane_nv (g : Group) (l : Nat) (f : Lane → Lane) : (g.updLane l f).nv = g.nv := rfl
@[simp] theorem group_updLane_ns (g : Group) (l : Nat) (f : Lane → Lane) : (g.updLane l f).ns = g.ns := rfl
@[simp] theorem group_updLane_nt (g : Group) (l : Nat) (f : Lane → Lane) : (g.updLane l f).nt = g.nt := rfl
@[simp] theorem group_updLane_trapEntry (g : Group) (l : Nat) (f : Lane → Lane) : (g.updLane l f).trapEntry = g.trapEntry := rfl
@[simp] theorem group_updLane_tlsBase (g : Group) (l : Nat) (f : Lane → Lane) : (g.updLane l f).tlsBase = g.tlsBase := rfl
@[simp] theorem group_updLane_tlsStride (g : Group) (l : Nat) (f : Lane → Lane) : (g.updLane l f).tlsStride = g.tlsStride := rfl
@[simp] theorem group_updLane_exited (g : Group) (l : Nat) (f : Lane → Lane) : (g.updLane l f).exited = g.exited := rfl
@[simp] theorem group_updLane_bundles (g : Group) (l : Nat) (f : Lane → Lane) : (g.updLane l f).bundles = g.bundles := rfl
@[simp] theorem group_updLane_vregs (g : Group) (l : Nat) (f : Lane → Lane) : (g.updLane l f).vregs = g.vregs := rfl
@[simp] theorem group_updLane_sregs (g : Group) (l : Nat) (f : Lane → Lane) : (g.updLane l f).sregs = g.sregs := rfl
@[simp] theorem group_updLane_pregs (g : Group) (l : Nat) (f : Lane → Lane) : (g.updLane l f).pregs = g.pregs := rfl
@[simp] theorem group_updLane_jexp (g : Group) (l : Nat) (f : Lane → Lane) : (g.updLane l f).jexp = g.jexp := rfl
@[simp] theorem group_updLane_jarr (g : Group) (l : Nat) (f : Lane → Lane) : (g.updLane l f).jarr = g.jarr := rfl
@[simp] theorem group_updLane_mrecs (g : Group) (l : Nat) (f : Lane → Lane) : (g.updLane l f).mrecs = g.mrecs := rfl
@[simp] theorem group_updLane_tiles (g : Group) (l : Nat) (f : Lane → Lane) : (g.updLane l f).tiles = g.tiles := rfl
@[simp] theorem group_updLane_fpstat (g : Group) (l : Nat) (f : Lane → Lane) : (g.updLane l f).fpstat = g.fpstat := rfl
@[simp] theorem group_updLane_fpctl (g : Group) (l : Nat) (f : Lane → Lane) : (g.updLane l f).fpctl = g.fpctl := rfl
@[simp] theorem group_updLane_mode (g : Group) (l : Nat) (f : Lane → Lane) : (g.updLane l f).mode = g.mode := rfl
@[simp] theorem group_updLane_pend (g : Group) (l : Nat) (f : Lane → Lane) : (g.updLane l f).pend = g.pend := rfl
@[simp] theorem group_updLane_score (g : Group) (l : Nat) (f : Lane → Lane) : (g.updLane l f).score = g.score := rfl
@[simp] theorem group_updLane_storeQ (g : Group) (l : Nat) (f : Lane → Lane) : (g.updLane l f).storeQ = g.storeQ := rfl
@[simp] theorem group_updLane_memHold (g : Group) (l : Nat) (f : Lane → Lane) : (g.updLane l f).memHold = g.memHold := rfl
@[simp] theorem group_updLane_monitor (g : Group) (l : Nat) (f : Lane → Lane) : (g.updLane l f).monitor = g.monitor := rfl
@[simp] theorem group_updLane_mwaitTill (g : Group) (l : Nat) (f : Lane → Lane) : (g.updLane l f).mwaitTill = g.mwaitTill := rfl
@[simp] theorem group_updLane_binds (g : Group) (l : Nat) (f : Lane → Lane) : (g.updLane l f).binds = g.binds := rfl
@[simp] theorem group_updLane_ahead (g : Group) (l : Nat) (f : Lane → Lane) : (g.updLane l f).ahead = g.ahead := rfl
@[simp] theorem group_updLane_forks (g : Group) (l : Nat) (f : Lane → Lane) : (g.updLane l f).forks = g.forks := rfl
@[simp] theorem group_updLane_kwaits (g : Group) (l : Nat) (f : Lane → Lane) : (g.updLane l f).kwaits = g.kwaits := rfl
@[simp] theorem group_updLane_naps (g : Group) (l : Nat) (f : Lane → Lane) : (g.updLane l f).naps = g.naps := rfl
@[simp] theorem group_updLane_endSeen (g : Group) (l : Nat) (f : Lane → Lane) : (g.updLane l f).endSeen = g.endSeen := rfl
@[simp] theorem group_updLane_lastIssue (g : Group) (l : Nat) (f : Lane → Lane) : (g.updLane l f).lastIssue = g.lastIssue := rfl
@[simp] theorem group_updLane_yieldUntil (g : Group) (l : Nat) (f : Lane → Lane) : (g.updLane l f).yieldUntil = g.yieldUntil := rfl
@[simp] theorem group_updLane_badRegs (g : Group) (l : Nat) (f : Lane → Lane) : (g.updLane l f).badRegs = g.badRegs := rfl

@[simp] theorem group_updLanes_block (g : Group) (m : W64) (f : Nat → Lane → Lane) : (g.updLanes m f).block = g.block := rfl
@[simp] theorem group_updLanes_groupIdx (g : Group) (m : W64) (f : Nat → Lane → Lane) : (g.updLanes m f).groupIdx = g.groupIdx := rfl
@[simp] theorem group_updLanes_stage (g : Group) (m : W64) (f : Nat → Lane → Lane) : (g.updLanes m f).stage = g.stage := rfl
@[simp] theorem group_updLanes_first (g : Group) (m : W64) (f : Nat → Lane → Lane) : (g.updLanes m f).first = g.first := rfl
@[simp] theorem group_updLanes_rolen (g : Group) (m : W64) (f : Nat → Lane → Lane) : (g.updLanes m f).rolen = g.rolen := rfl
@[simp] theorem group_updLanes_prio (g : Group) (m : W64) (f : Nat → Lane → Lane) : (g.updLanes m f).prio = g.prio := rfl
@[simp] theorem group_updLanes_persist (g : Group) (m : W64) (f : Nat → Lane → Lane) : (g.updLanes m f).persist = g.persist := rfl
@[simp] theorem group_updLanes_supervisor (g : Group) (m : W64) (f : Nat → Lane → Lane) : (g.updLanes m f).supervisor = g.supervisor := rfl
@[simp] theorem group_updLanes_tenant (g : Group) (m : W64) (f : Nat → Lane → Lane) : (g.updLanes m f).tenant = g.tenant := rfl
@[simp] theorem group_updLanes_nv (g : Group) (m : W64) (f : Nat → Lane → Lane) : (g.updLanes m f).nv = g.nv := rfl
@[simp] theorem group_updLanes_ns (g : Group) (m : W64) (f : Nat → Lane → Lane) : (g.updLanes m f).ns = g.ns := rfl
@[simp] theorem group_updLanes_nt (g : Group) (m : W64) (f : Nat → Lane → Lane) : (g.updLanes m f).nt = g.nt := rfl
@[simp] theorem group_updLanes_trapEntry (g : Group) (m : W64) (f : Nat → Lane → Lane) : (g.updLanes m f).trapEntry = g.trapEntry := rfl
@[simp] theorem group_updLanes_tlsBase (g : Group) (m : W64) (f : Nat → Lane → Lane) : (g.updLanes m f).tlsBase = g.tlsBase := rfl
@[simp] theorem group_updLanes_tlsStride (g : Group) (m : W64) (f : Nat → Lane → Lane) : (g.updLanes m f).tlsStride = g.tlsStride := rfl
@[simp] theorem group_updLanes_exited (g : Group) (m : W64) (f : Nat → Lane → Lane) : (g.updLanes m f).exited = g.exited := rfl
@[simp] theorem group_updLanes_bundles (g : Group) (m : W64) (f : Nat → Lane → Lane) : (g.updLanes m f).bundles = g.bundles := rfl
@[simp] theorem group_updLanes_vregs (g : Group) (m : W64) (f : Nat → Lane → Lane) : (g.updLanes m f).vregs = g.vregs := rfl
@[simp] theorem group_updLanes_sregs (g : Group) (m : W64) (f : Nat → Lane → Lane) : (g.updLanes m f).sregs = g.sregs := rfl
@[simp] theorem group_updLanes_pregs (g : Group) (m : W64) (f : Nat → Lane → Lane) : (g.updLanes m f).pregs = g.pregs := rfl
@[simp] theorem group_updLanes_jexp (g : Group) (m : W64) (f : Nat → Lane → Lane) : (g.updLanes m f).jexp = g.jexp := rfl
@[simp] theorem group_updLanes_jarr (g : Group) (m : W64) (f : Nat → Lane → Lane) : (g.updLanes m f).jarr = g.jarr := rfl
@[simp] theorem group_updLanes_mrecs (g : Group) (m : W64) (f : Nat → Lane → Lane) : (g.updLanes m f).mrecs = g.mrecs := rfl
@[simp] theorem group_updLanes_tiles (g : Group) (m : W64) (f : Nat → Lane → Lane) : (g.updLanes m f).tiles = g.tiles := rfl
@[simp] theorem group_updLanes_fpstat (g : Group) (m : W64) (f : Nat → Lane → Lane) : (g.updLanes m f).fpstat = g.fpstat := rfl
@[simp] theorem group_updLanes_fpctl (g : Group) (m : W64) (f : Nat → Lane → Lane) : (g.updLanes m f).fpctl = g.fpctl := rfl
@[simp] theorem group_updLanes_mode (g : Group) (m : W64) (f : Nat → Lane → Lane) : (g.updLanes m f).mode = g.mode := rfl
@[simp] theorem group_updLanes_pend (g : Group) (m : W64) (f : Nat → Lane → Lane) : (g.updLanes m f).pend = g.pend := rfl
@[simp] theorem group_updLanes_score (g : Group) (m : W64) (f : Nat → Lane → Lane) : (g.updLanes m f).score = g.score := rfl
@[simp] theorem group_updLanes_storeQ (g : Group) (m : W64) (f : Nat → Lane → Lane) : (g.updLanes m f).storeQ = g.storeQ := rfl
@[simp] theorem group_updLanes_memHold (g : Group) (m : W64) (f : Nat → Lane → Lane) : (g.updLanes m f).memHold = g.memHold := rfl
@[simp] theorem group_updLanes_monitor (g : Group) (m : W64) (f : Nat → Lane → Lane) : (g.updLanes m f).monitor = g.monitor := rfl
@[simp] theorem group_updLanes_mwaitTill (g : Group) (m : W64) (f : Nat → Lane → Lane) : (g.updLanes m f).mwaitTill = g.mwaitTill := rfl
@[simp] theorem group_updLanes_binds (g : Group) (m : W64) (f : Nat → Lane → Lane) : (g.updLanes m f).binds = g.binds := rfl
@[simp] theorem group_updLanes_ahead (g : Group) (m : W64) (f : Nat → Lane → Lane) : (g.updLanes m f).ahead = g.ahead := rfl
@[simp] theorem group_updLanes_forks (g : Group) (m : W64) (f : Nat → Lane → Lane) : (g.updLanes m f).forks = g.forks := rfl
@[simp] theorem group_updLanes_kwaits (g : Group) (m : W64) (f : Nat → Lane → Lane) : (g.updLanes m f).kwaits = g.kwaits := rfl
@[simp] theorem group_updLanes_naps (g : Group) (m : W64) (f : Nat → Lane → Lane) : (g.updLanes m f).naps = g.naps := rfl
@[simp] theorem group_updLanes_endSeen (g : Group) (m : W64) (f : Nat → Lane → Lane) : (g.updLanes m f).endSeen = g.endSeen := rfl
@[simp] theorem group_updLanes_lastIssue (g : Group) (m : W64) (f : Nat → Lane → Lane) : (g.updLanes m f).lastIssue = g.lastIssue := rfl
@[simp] theorem group_updLanes_yieldUntil (g : Group) (m : W64) (f : Nat → Lane → Lane) : (g.updLanes m f).yieldUntil = g.yieldUntil := rfl
@[simp] theorem group_updLanes_badRegs (g : Group) (m : W64) (f : Nat → Lane → Lane) : (g.updLanes m f).badRegs = g.badRegs := rfl

@[simp] theorem group_unbundle_block (g : Group) (m : W64) : (g.unbundle m).block = g.block := rfl
@[simp] theorem group_unbundle_groupIdx (g : Group) (m : W64) : (g.unbundle m).groupIdx = g.groupIdx := rfl
@[simp] theorem group_unbundle_stage (g : Group) (m : W64) : (g.unbundle m).stage = g.stage := rfl
@[simp] theorem group_unbundle_first (g : Group) (m : W64) : (g.unbundle m).first = g.first := rfl
@[simp] theorem group_unbundle_rolen (g : Group) (m : W64) : (g.unbundle m).rolen = g.rolen := rfl
@[simp] theorem group_unbundle_prio (g : Group) (m : W64) : (g.unbundle m).prio = g.prio := rfl
@[simp] theorem group_unbundle_persist (g : Group) (m : W64) : (g.unbundle m).persist = g.persist := rfl
@[simp] theorem group_unbundle_supervisor (g : Group) (m : W64) : (g.unbundle m).supervisor = g.supervisor := rfl
@[simp] theorem group_unbundle_tenant (g : Group) (m : W64) : (g.unbundle m).tenant = g.tenant := rfl
@[simp] theorem group_unbundle_nv (g : Group) (m : W64) : (g.unbundle m).nv = g.nv := rfl
@[simp] theorem group_unbundle_ns (g : Group) (m : W64) : (g.unbundle m).ns = g.ns := rfl
@[simp] theorem group_unbundle_nt (g : Group) (m : W64) : (g.unbundle m).nt = g.nt := rfl
@[simp] theorem group_unbundle_trapEntry (g : Group) (m : W64) : (g.unbundle m).trapEntry = g.trapEntry := rfl
@[simp] theorem group_unbundle_tlsBase (g : Group) (m : W64) : (g.unbundle m).tlsBase = g.tlsBase := rfl
@[simp] theorem group_unbundle_tlsStride (g : Group) (m : W64) : (g.unbundle m).tlsStride = g.tlsStride := rfl
@[simp] theorem group_unbundle_lanes (g : Group) (m : W64) : (g.unbundle m).lanes = g.lanes := rfl
@[simp] theorem group_unbundle_exited (g : Group) (m : W64) : (g.unbundle m).exited = g.exited := rfl
@[simp] theorem group_unbundle_vregs (g : Group) (m : W64) : (g.unbundle m).vregs = g.vregs := rfl
@[simp] theorem group_unbundle_sregs (g : Group) (m : W64) : (g.unbundle m).sregs = g.sregs := rfl
@[simp] theorem group_unbundle_pregs (g : Group) (m : W64) : (g.unbundle m).pregs = g.pregs := rfl
@[simp] theorem group_unbundle_jexp (g : Group) (m : W64) : (g.unbundle m).jexp = g.jexp := rfl
@[simp] theorem group_unbundle_jarr (g : Group) (m : W64) : (g.unbundle m).jarr = g.jarr := rfl
@[simp] theorem group_unbundle_mrecs (g : Group) (m : W64) : (g.unbundle m).mrecs = g.mrecs := rfl
@[simp] theorem group_unbundle_tiles (g : Group) (m : W64) : (g.unbundle m).tiles = g.tiles := rfl
@[simp] theorem group_unbundle_fpstat (g : Group) (m : W64) : (g.unbundle m).fpstat = g.fpstat := rfl
@[simp] theorem group_unbundle_fpctl (g : Group) (m : W64) : (g.unbundle m).fpctl = g.fpctl := rfl
@[simp] theorem group_unbundle_mode (g : Group) (m : W64) : (g.unbundle m).mode = g.mode := rfl
@[simp] theorem group_unbundle_pend (g : Group) (m : W64) : (g.unbundle m).pend = g.pend := rfl
@[simp] theorem group_unbundle_score (g : Group) (m : W64) : (g.unbundle m).score = g.score := rfl
@[simp] theorem group_unbundle_storeQ (g : Group) (m : W64) : (g.unbundle m).storeQ = g.storeQ := rfl
@[simp] theorem group_unbundle_memHold (g : Group) (m : W64) : (g.unbundle m).memHold = g.memHold := rfl
@[simp] theorem group_unbundle_monitor (g : Group) (m : W64) : (g.unbundle m).monitor = g.monitor := rfl
@[simp] theorem group_unbundle_mwaitTill (g : Group) (m : W64) : (g.unbundle m).mwaitTill = g.mwaitTill := rfl
@[simp] theorem group_unbundle_binds (g : Group) (m : W64) : (g.unbundle m).binds = g.binds := rfl
@[simp] theorem group_unbundle_ahead (g : Group) (m : W64) : (g.unbundle m).ahead = g.ahead := rfl
@[simp] theorem group_unbundle_forks (g : Group) (m : W64) : (g.unbundle m).forks = g.forks := rfl
@[simp] theorem group_unbundle_kwaits (g : Group) (m : W64) : (g.unbundle m).kwaits = g.kwaits := rfl
@[simp] theorem group_unbundle_naps (g : Group) (m : W64) : (g.unbundle m).naps = g.naps := rfl
@[simp] theorem group_unbundle_endSeen (g : Group) (m : W64) : (g.unbundle m).endSeen = g.endSeen := rfl
@[simp] theorem group_unbundle_lastIssue (g : Group) (m : W64) : (g.unbundle m).lastIssue = g.lastIssue := rfl
@[simp] theorem group_unbundle_yieldUntil (g : Group) (m : W64) : (g.unbundle m).yieldUntil = g.yieldUntil := rfl
@[simp] theorem group_unbundle_badRegs (g : Group) (m : W64) : (g.unbundle m).badRegs = g.badRegs := rfl

@[simp] theorem group_unpark_block (g : Group) (m : W64) : (g.unpark m).block = g.block := rfl
@[simp] theorem group_unpark_groupIdx (g : Group) (m : W64) : (g.unpark m).groupIdx = g.groupIdx := rfl
@[simp] theorem group_unpark_stage (g : Group) (m : W64) : (g.unpark m).stage = g.stage := rfl
@[simp] theorem group_unpark_first (g : Group) (m : W64) : (g.unpark m).first = g.first := rfl
@[simp] theorem group_unpark_rolen (g : Group) (m : W64) : (g.unpark m).rolen = g.rolen := rfl
@[simp] theorem group_unpark_prio (g : Group) (m : W64) : (g.unpark m).prio = g.prio := rfl
@[simp] theorem group_unpark_persist (g : Group) (m : W64) : (g.unpark m).persist = g.persist := rfl
@[simp] theorem group_unpark_supervisor (g : Group) (m : W64) : (g.unpark m).supervisor = g.supervisor := rfl
@[simp] theorem group_unpark_tenant (g : Group) (m : W64) : (g.unpark m).tenant = g.tenant := rfl
@[simp] theorem group_unpark_nv (g : Group) (m : W64) : (g.unpark m).nv = g.nv := rfl
@[simp] theorem group_unpark_ns (g : Group) (m : W64) : (g.unpark m).ns = g.ns := rfl
@[simp] theorem group_unpark_nt (g : Group) (m : W64) : (g.unpark m).nt = g.nt := rfl
@[simp] theorem group_unpark_trapEntry (g : Group) (m : W64) : (g.unpark m).trapEntry = g.trapEntry := rfl
@[simp] theorem group_unpark_tlsBase (g : Group) (m : W64) : (g.unpark m).tlsBase = g.tlsBase := rfl
@[simp] theorem group_unpark_tlsStride (g : Group) (m : W64) : (g.unpark m).tlsStride = g.tlsStride := rfl
@[simp] theorem group_unpark_exited (g : Group) (m : W64) : (g.unpark m).exited = g.exited := rfl
@[simp] theorem group_unpark_bundles (g : Group) (m : W64) : (g.unpark m).bundles = g.bundles := rfl
@[simp] theorem group_unpark_vregs (g : Group) (m : W64) : (g.unpark m).vregs = g.vregs := rfl
@[simp] theorem group_unpark_sregs (g : Group) (m : W64) : (g.unpark m).sregs = g.sregs := rfl
@[simp] theorem group_unpark_pregs (g : Group) (m : W64) : (g.unpark m).pregs = g.pregs := rfl
@[simp] theorem group_unpark_jexp (g : Group) (m : W64) : (g.unpark m).jexp = g.jexp := rfl
@[simp] theorem group_unpark_jarr (g : Group) (m : W64) : (g.unpark m).jarr = g.jarr := rfl
@[simp] theorem group_unpark_mrecs (g : Group) (m : W64) : (g.unpark m).mrecs = g.mrecs := rfl
@[simp] theorem group_unpark_tiles (g : Group) (m : W64) : (g.unpark m).tiles = g.tiles := rfl
@[simp] theorem group_unpark_fpstat (g : Group) (m : W64) : (g.unpark m).fpstat = g.fpstat := rfl
@[simp] theorem group_unpark_fpctl (g : Group) (m : W64) : (g.unpark m).fpctl = g.fpctl := rfl
@[simp] theorem group_unpark_mode (g : Group) (m : W64) : (g.unpark m).mode = g.mode := rfl
@[simp] theorem group_unpark_pend (g : Group) (m : W64) : (g.unpark m).pend = g.pend := rfl
@[simp] theorem group_unpark_score (g : Group) (m : W64) : (g.unpark m).score = g.score := rfl
@[simp] theorem group_unpark_storeQ (g : Group) (m : W64) : (g.unpark m).storeQ = g.storeQ := rfl
@[simp] theorem group_unpark_memHold (g : Group) (m : W64) : (g.unpark m).memHold = g.memHold := rfl
@[simp] theorem group_unpark_monitor (g : Group) (m : W64) : (g.unpark m).monitor = g.monitor := rfl
@[simp] theorem group_unpark_mwaitTill (g : Group) (m : W64) : (g.unpark m).mwaitTill = g.mwaitTill := rfl
@[simp] theorem group_unpark_binds (g : Group) (m : W64) : (g.unpark m).binds = g.binds := rfl
@[simp] theorem group_unpark_ahead (g : Group) (m : W64) : (g.unpark m).ahead = g.ahead := rfl
@[simp] theorem group_unpark_forks (g : Group) (m : W64) : (g.unpark m).forks = g.forks := rfl
@[simp] theorem group_unpark_kwaits (g : Group) (m : W64) : (g.unpark m).kwaits = g.kwaits := rfl
@[simp] theorem group_unpark_naps (g : Group) (m : W64) : (g.unpark m).naps = g.naps := rfl
@[simp] theorem group_unpark_endSeen (g : Group) (m : W64) : (g.unpark m).endSeen = g.endSeen := rfl
@[simp] theorem group_unpark_lastIssue (g : Group) (m : W64) : (g.unpark m).lastIssue = g.lastIssue := rfl
@[simp] theorem group_unpark_yieldUntil (g : Group) (m : W64) : (g.unpark m).yieldUntil = g.yieldUntil := rfl
@[simp] theorem group_unpark_badRegs (g : Group) (m : W64) : (g.unpark m).badRegs = g.badRegs := rfl

@[simp] theorem group_orFlags_block (g : Group) (x : Nat) : (g.orFlags x).block = g.block := rfl
@[simp] theorem group_orFlags_groupIdx (g : Group) (x : Nat) : (g.orFlags x).groupIdx = g.groupIdx := rfl
@[simp] theorem group_orFlags_stage (g : Group) (x : Nat) : (g.orFlags x).stage = g.stage := rfl
@[simp] theorem group_orFlags_first (g : Group) (x : Nat) : (g.orFlags x).first = g.first := rfl
@[simp] theorem group_orFlags_rolen (g : Group) (x : Nat) : (g.orFlags x).rolen = g.rolen := rfl
@[simp] theorem group_orFlags_prio (g : Group) (x : Nat) : (g.orFlags x).prio = g.prio := rfl
@[simp] theorem group_orFlags_persist (g : Group) (x : Nat) : (g.orFlags x).persist = g.persist := rfl
@[simp] theorem group_orFlags_supervisor (g : Group) (x : Nat) : (g.orFlags x).supervisor = g.supervisor := rfl
@[simp] theorem group_orFlags_tenant (g : Group) (x : Nat) : (g.orFlags x).tenant = g.tenant := rfl
@[simp] theorem group_orFlags_nv (g : Group) (x : Nat) : (g.orFlags x).nv = g.nv := rfl
@[simp] theorem group_orFlags_ns (g : Group) (x : Nat) : (g.orFlags x).ns = g.ns := rfl
@[simp] theorem group_orFlags_nt (g : Group) (x : Nat) : (g.orFlags x).nt = g.nt := rfl
@[simp] theorem group_orFlags_trapEntry (g : Group) (x : Nat) : (g.orFlags x).trapEntry = g.trapEntry := rfl
@[simp] theorem group_orFlags_tlsBase (g : Group) (x : Nat) : (g.orFlags x).tlsBase = g.tlsBase := rfl
@[simp] theorem group_orFlags_tlsStride (g : Group) (x : Nat) : (g.orFlags x).tlsStride = g.tlsStride := rfl
@[simp] theorem group_orFlags_lanes (g : Group) (x : Nat) : (g.orFlags x).lanes = g.lanes := rfl
@[simp] theorem group_orFlags_exited (g : Group) (x : Nat) : (g.orFlags x).exited = g.exited := rfl
@[simp] theorem group_orFlags_bundles (g : Group) (x : Nat) : (g.orFlags x).bundles = g.bundles := rfl
@[simp] theorem group_orFlags_vregs (g : Group) (x : Nat) : (g.orFlags x).vregs = g.vregs := rfl
@[simp] theorem group_orFlags_sregs (g : Group) (x : Nat) : (g.orFlags x).sregs = g.sregs := rfl
@[simp] theorem group_orFlags_pregs (g : Group) (x : Nat) : (g.orFlags x).pregs = g.pregs := rfl
@[simp] theorem group_orFlags_jexp (g : Group) (x : Nat) : (g.orFlags x).jexp = g.jexp := rfl
@[simp] theorem group_orFlags_jarr (g : Group) (x : Nat) : (g.orFlags x).jarr = g.jarr := rfl
@[simp] theorem group_orFlags_mrecs (g : Group) (x : Nat) : (g.orFlags x).mrecs = g.mrecs := rfl
@[simp] theorem group_orFlags_tiles (g : Group) (x : Nat) : (g.orFlags x).tiles = g.tiles := rfl
@[simp] theorem group_orFlags_fpctl (g : Group) (x : Nat) : (g.orFlags x).fpctl = g.fpctl := rfl
@[simp] theorem group_orFlags_mode (g : Group) (x : Nat) : (g.orFlags x).mode = g.mode := rfl
@[simp] theorem group_orFlags_pend (g : Group) (x : Nat) : (g.orFlags x).pend = g.pend := rfl
@[simp] theorem group_orFlags_score (g : Group) (x : Nat) : (g.orFlags x).score = g.score := rfl
@[simp] theorem group_orFlags_storeQ (g : Group) (x : Nat) : (g.orFlags x).storeQ = g.storeQ := rfl
@[simp] theorem group_orFlags_memHold (g : Group) (x : Nat) : (g.orFlags x).memHold = g.memHold := rfl
@[simp] theorem group_orFlags_monitor (g : Group) (x : Nat) : (g.orFlags x).monitor = g.monitor := rfl
@[simp] theorem group_orFlags_mwaitTill (g : Group) (x : Nat) : (g.orFlags x).mwaitTill = g.mwaitTill := rfl
@[simp] theorem group_orFlags_binds (g : Group) (x : Nat) : (g.orFlags x).binds = g.binds := rfl
@[simp] theorem group_orFlags_ahead (g : Group) (x : Nat) : (g.orFlags x).ahead = g.ahead := rfl
@[simp] theorem group_orFlags_forks (g : Group) (x : Nat) : (g.orFlags x).forks = g.forks := rfl
@[simp] theorem group_orFlags_kwaits (g : Group) (x : Nat) : (g.orFlags x).kwaits = g.kwaits := rfl
@[simp] theorem group_orFlags_naps (g : Group) (x : Nat) : (g.orFlags x).naps = g.naps := rfl
@[simp] theorem group_orFlags_endSeen (g : Group) (x : Nat) : (g.orFlags x).endSeen = g.endSeen := rfl
@[simp] theorem group_orFlags_lastIssue (g : Group) (x : Nat) : (g.orFlags x).lastIssue = g.lastIssue := rfl
@[simp] theorem group_orFlags_yieldUntil (g : Group) (x : Nat) : (g.orFlags x).yieldUntil = g.yieldUntil := rfl
@[simp] theorem group_orFlags_badRegs (g : Group) (x : Nat) : (g.orFlags x).badRegs = g.badRegs := rfl

@[simp] theorem group_mark_block (g : Group) (o : Nat) (f : RFile) (r : Nat) (m : W64) (t : Option Nat) : (g.mark o f r m t).block = g.block := rfl
@[simp] theorem group_mark_groupIdx (g : Group) (o : Nat) (f : RFile) (r : Nat) (m : W64) (t : Option Nat) : (g.mark o f r m t).groupIdx = g.groupIdx := rfl
@[simp] theorem group_mark_stage (g : Group) (o : Nat) (f : RFile) (r : Nat) (m : W64) (t : Option Nat) : (g.mark o f r m t).stage = g.stage := rfl
@[simp] theorem group_mark_first (g : Group) (o : Nat) (f : RFile) (r : Nat) (m : W64) (t : Option Nat) : (g.mark o f r m t).first = g.first := rfl
@[simp] theorem group_mark_rolen (g : Group) (o : Nat) (f : RFile) (r : Nat) (m : W64) (t : Option Nat) : (g.mark o f r m t).rolen = g.rolen := rfl
@[simp] theorem group_mark_prio (g : Group) (o : Nat) (f : RFile) (r : Nat) (m : W64) (t : Option Nat) : (g.mark o f r m t).prio = g.prio := rfl
@[simp] theorem group_mark_persist (g : Group) (o : Nat) (f : RFile) (r : Nat) (m : W64) (t : Option Nat) : (g.mark o f r m t).persist = g.persist := rfl
@[simp] theorem group_mark_supervisor (g : Group) (o : Nat) (f : RFile) (r : Nat) (m : W64) (t : Option Nat) : (g.mark o f r m t).supervisor = g.supervisor := rfl
@[simp] theorem group_mark_tenant (g : Group) (o : Nat) (f : RFile) (r : Nat) (m : W64) (t : Option Nat) : (g.mark o f r m t).tenant = g.tenant := rfl
@[simp] theorem group_mark_nv (g : Group) (o : Nat) (f : RFile) (r : Nat) (m : W64) (t : Option Nat) : (g.mark o f r m t).nv = g.nv := rfl
@[simp] theorem group_mark_ns (g : Group) (o : Nat) (f : RFile) (r : Nat) (m : W64) (t : Option Nat) : (g.mark o f r m t).ns = g.ns := rfl
@[simp] theorem group_mark_nt (g : Group) (o : Nat) (f : RFile) (r : Nat) (m : W64) (t : Option Nat) : (g.mark o f r m t).nt = g.nt := rfl
@[simp] theorem group_mark_trapEntry (g : Group) (o : Nat) (f : RFile) (r : Nat) (m : W64) (t : Option Nat) : (g.mark o f r m t).trapEntry = g.trapEntry := rfl
@[simp] theorem group_mark_tlsBase (g : Group) (o : Nat) (f : RFile) (r : Nat) (m : W64) (t : Option Nat) : (g.mark o f r m t).tlsBase = g.tlsBase := rfl
@[simp] theorem group_mark_tlsStride (g : Group) (o : Nat) (f : RFile) (r : Nat) (m : W64) (t : Option Nat) : (g.mark o f r m t).tlsStride = g.tlsStride := rfl
@[simp] theorem group_mark_lanes (g : Group) (o : Nat) (f : RFile) (r : Nat) (m : W64) (t : Option Nat) : (g.mark o f r m t).lanes = g.lanes := rfl
@[simp] theorem group_mark_exited (g : Group) (o : Nat) (f : RFile) (r : Nat) (m : W64) (t : Option Nat) : (g.mark o f r m t).exited = g.exited := rfl
@[simp] theorem group_mark_bundles (g : Group) (o : Nat) (f : RFile) (r : Nat) (m : W64) (t : Option Nat) : (g.mark o f r m t).bundles = g.bundles := rfl
@[simp] theorem group_mark_vregs (g : Group) (o : Nat) (f : RFile) (r : Nat) (m : W64) (t : Option Nat) : (g.mark o f r m t).vregs = g.vregs := rfl
@[simp] theorem group_mark_sregs (g : Group) (o : Nat) (f : RFile) (r : Nat) (m : W64) (t : Option Nat) : (g.mark o f r m t).sregs = g.sregs := rfl
@[simp] theorem group_mark_pregs (g : Group) (o : Nat) (f : RFile) (r : Nat) (m : W64) (t : Option Nat) : (g.mark o f r m t).pregs = g.pregs := rfl
@[simp] theorem group_mark_jexp (g : Group) (o : Nat) (f : RFile) (r : Nat) (m : W64) (t : Option Nat) : (g.mark o f r m t).jexp = g.jexp := rfl
@[simp] theorem group_mark_jarr (g : Group) (o : Nat) (f : RFile) (r : Nat) (m : W64) (t : Option Nat) : (g.mark o f r m t).jarr = g.jarr := rfl
@[simp] theorem group_mark_mrecs (g : Group) (o : Nat) (f : RFile) (r : Nat) (m : W64) (t : Option Nat) : (g.mark o f r m t).mrecs = g.mrecs := rfl
@[simp] theorem group_mark_tiles (g : Group) (o : Nat) (f : RFile) (r : Nat) (m : W64) (t : Option Nat) : (g.mark o f r m t).tiles = g.tiles := rfl
@[simp] theorem group_mark_fpstat (g : Group) (o : Nat) (f : RFile) (r : Nat) (m : W64) (t : Option Nat) : (g.mark o f r m t).fpstat = g.fpstat := rfl
@[simp] theorem group_mark_fpctl (g : Group) (o : Nat) (f : RFile) (r : Nat) (m : W64) (t : Option Nat) : (g.mark o f r m t).fpctl = g.fpctl := rfl
@[simp] theorem group_mark_mode (g : Group) (o : Nat) (f : RFile) (r : Nat) (m : W64) (t : Option Nat) : (g.mark o f r m t).mode = g.mode := rfl
@[simp] theorem group_mark_pend (g : Group) (o : Nat) (f : RFile) (r : Nat) (m : W64) (t : Option Nat) : (g.mark o f r m t).pend = g.pend := rfl
@[simp] theorem group_mark_storeQ (g : Group) (o : Nat) (f : RFile) (r : Nat) (m : W64) (t : Option Nat) : (g.mark o f r m t).storeQ = g.storeQ := rfl
@[simp] theorem group_mark_memHold (g : Group) (o : Nat) (f : RFile) (r : Nat) (m : W64) (t : Option Nat) : (g.mark o f r m t).memHold = g.memHold := rfl
@[simp] theorem group_mark_monitor (g : Group) (o : Nat) (f : RFile) (r : Nat) (m : W64) (t : Option Nat) : (g.mark o f r m t).monitor = g.monitor := rfl
@[simp] theorem group_mark_mwaitTill (g : Group) (o : Nat) (f : RFile) (r : Nat) (m : W64) (t : Option Nat) : (g.mark o f r m t).mwaitTill = g.mwaitTill := rfl
@[simp] theorem group_mark_binds (g : Group) (o : Nat) (f : RFile) (r : Nat) (m : W64) (t : Option Nat) : (g.mark o f r m t).binds = g.binds := rfl
@[simp] theorem group_mark_ahead (g : Group) (o : Nat) (f : RFile) (r : Nat) (m : W64) (t : Option Nat) : (g.mark o f r m t).ahead = g.ahead := rfl
@[simp] theorem group_mark_forks (g : Group) (o : Nat) (f : RFile) (r : Nat) (m : W64) (t : Option Nat) : (g.mark o f r m t).forks = g.forks := rfl
@[simp] theorem group_mark_kwaits (g : Group) (o : Nat) (f : RFile) (r : Nat) (m : W64) (t : Option Nat) : (g.mark o f r m t).kwaits = g.kwaits := rfl
@[simp] theorem group_mark_naps (g : Group) (o : Nat) (f : RFile) (r : Nat) (m : W64) (t : Option Nat) : (g.mark o f r m t).naps = g.naps := rfl
@[simp] theorem group_mark_endSeen (g : Group) (o : Nat) (f : RFile) (r : Nat) (m : W64) (t : Option Nat) : (g.mark o f r m t).endSeen = g.endSeen := rfl
@[simp] theorem group_mark_lastIssue (g : Group) (o : Nat) (f : RFile) (r : Nat) (m : W64) (t : Option Nat) : (g.mark o f r m t).lastIssue = g.lastIssue := rfl
@[simp] theorem group_mark_yieldUntil (g : Group) (o : Nat) (f : RFile) (r : Nat) (m : W64) (t : Option Nat) : (g.mark o f r m t).yieldUntil = g.yieldUntil := rfl
@[simp] theorem group_mark_badRegs (g : Group) (o : Nat) (f : RFile) (r : Nat) (m : W64) (t : Option Nat) : (g.mark o f r m t).badRegs = g.badRegs := rfl

@[simp] theorem group_updBind_block (g : Group) (r : Nat) (f : Bind → Bind) : (g.updBind r f).block = g.block := rfl
@[simp] theorem group_updBind_groupIdx (g : Group) (r : Nat) (f : Bind → Bind) : (g.updBind r f).groupIdx = g.groupIdx := rfl
@[simp] theorem group_updBind_stage (g : Group) (r : Nat) (f : Bind → Bind) : (g.updBind r f).stage = g.stage := rfl
@[simp] theorem group_updBind_first (g : Group) (r : Nat) (f : Bind → Bind) : (g.updBind r f).first = g.first := rfl
@[simp] theorem group_updBind_rolen (g : Group) (r : Nat) (f : Bind → Bind) : (g.updBind r f).rolen = g.rolen := rfl
@[simp] theorem group_updBind_prio (g : Group) (r : Nat) (f : Bind → Bind) : (g.updBind r f).prio = g.prio := rfl
@[simp] theorem group_updBind_persist (g : Group) (r : Nat) (f : Bind → Bind) : (g.updBind r f).persist = g.persist := rfl
@[simp] theorem group_updBind_supervisor (g : Group) (r : Nat) (f : Bind → Bind) : (g.updBind r f).supervisor = g.supervisor := rfl
@[simp] theorem group_updBind_tenant (g : Group) (r : Nat) (f : Bind → Bind) : (g.updBind r f).tenant = g.tenant := rfl
@[simp] theorem group_updBind_nv (g : Group) (r : Nat) (f : Bind → Bind) : (g.updBind r f).nv = g.nv := rfl
@[simp] theorem group_updBind_ns (g : Group) (r : Nat) (f : Bind → Bind) : (g.updBind r f).ns = g.ns := rfl
@[simp] theorem group_updBind_nt (g : Group) (r : Nat) (f : Bind → Bind) : (g.updBind r f).nt = g.nt := rfl
@[simp] theorem group_updBind_trapEntry (g : Group) (r : Nat) (f : Bind → Bind) : (g.updBind r f).trapEntry = g.trapEntry := rfl
@[simp] theorem group_updBind_tlsBase (g : Group) (r : Nat) (f : Bind → Bind) : (g.updBind r f).tlsBase = g.tlsBase := rfl
@[simp] theorem group_updBind_tlsStride (g : Group) (r : Nat) (f : Bind → Bind) : (g.updBind r f).tlsStride = g.tlsStride := rfl
@[simp] theorem group_updBind_lanes (g : Group) (r : Nat) (f : Bind → Bind) : (g.updBind r f).lanes = g.lanes := rfl
@[simp] theorem group_updBind_exited (g : Group) (r : Nat) (f : Bind → Bind) : (g.updBind r f).exited = g.exited := rfl
@[simp] theorem group_updBind_bundles (g : Group) (r : Nat) (f : Bind → Bind) : (g.updBind r f).bundles = g.bundles := rfl
@[simp] theorem group_updBind_vregs (g : Group) (r : Nat) (f : Bind → Bind) : (g.updBind r f).vregs = g.vregs := rfl
@[simp] theorem group_updBind_sregs (g : Group) (r : Nat) (f : Bind → Bind) : (g.updBind r f).sregs = g.sregs := rfl
@[simp] theorem group_updBind_pregs (g : Group) (r : Nat) (f : Bind → Bind) : (g.updBind r f).pregs = g.pregs := rfl
@[simp] theorem group_updBind_jexp (g : Group) (r : Nat) (f : Bind → Bind) : (g.updBind r f).jexp = g.jexp := rfl
@[simp] theorem group_updBind_jarr (g : Group) (r : Nat) (f : Bind → Bind) : (g.updBind r f).jarr = g.jarr := rfl
@[simp] theorem group_updBind_mrecs (g : Group) (r : Nat) (f : Bind → Bind) : (g.updBind r f).mrecs = g.mrecs := rfl
@[simp] theorem group_updBind_tiles (g : Group) (r : Nat) (f : Bind → Bind) : (g.updBind r f).tiles = g.tiles := rfl
@[simp] theorem group_updBind_fpstat (g : Group) (r : Nat) (f : Bind → Bind) : (g.updBind r f).fpstat = g.fpstat := rfl
@[simp] theorem group_updBind_fpctl (g : Group) (r : Nat) (f : Bind → Bind) : (g.updBind r f).fpctl = g.fpctl := rfl
@[simp] theorem group_updBind_mode (g : Group) (r : Nat) (f : Bind → Bind) : (g.updBind r f).mode = g.mode := rfl
@[simp] theorem group_updBind_pend (g : Group) (r : Nat) (f : Bind → Bind) : (g.updBind r f).pend = g.pend := rfl
@[simp] theorem group_updBind_score (g : Group) (r : Nat) (f : Bind → Bind) : (g.updBind r f).score = g.score := rfl
@[simp] theorem group_updBind_storeQ (g : Group) (r : Nat) (f : Bind → Bind) : (g.updBind r f).storeQ = g.storeQ := rfl
@[simp] theorem group_updBind_memHold (g : Group) (r : Nat) (f : Bind → Bind) : (g.updBind r f).memHold = g.memHold := rfl
@[simp] theorem group_updBind_monitor (g : Group) (r : Nat) (f : Bind → Bind) : (g.updBind r f).monitor = g.monitor := rfl
@[simp] theorem group_updBind_mwaitTill (g : Group) (r : Nat) (f : Bind → Bind) : (g.updBind r f).mwaitTill = g.mwaitTill := rfl
@[simp] theorem group_updBind_ahead (g : Group) (r : Nat) (f : Bind → Bind) : (g.updBind r f).ahead = g.ahead := rfl
@[simp] theorem group_updBind_forks (g : Group) (r : Nat) (f : Bind → Bind) : (g.updBind r f).forks = g.forks := rfl
@[simp] theorem group_updBind_kwaits (g : Group) (r : Nat) (f : Bind → Bind) : (g.updBind r f).kwaits = g.kwaits := rfl
@[simp] theorem group_updBind_naps (g : Group) (r : Nat) (f : Bind → Bind) : (g.updBind r f).naps = g.naps := rfl
@[simp] theorem group_updBind_endSeen (g : Group) (r : Nat) (f : Bind → Bind) : (g.updBind r f).endSeen = g.endSeen := rfl
@[simp] theorem group_updBind_lastIssue (g : Group) (r : Nat) (f : Bind → Bind) : (g.updBind r f).lastIssue = g.lastIssue := rfl
@[simp] theorem group_updBind_yieldUntil (g : Group) (r : Nat) (f : Bind → Bind) : (g.updBind r f).yieldUntil = g.yieldUntil := rfl
@[simp] theorem group_updBind_badRegs (g : Group) (r : Nat) (f : Bind → Bind) : (g.updBind r f).badRegs = g.badRegs := rfl

@[simp] theorem group_dropScore_block (g : Group) (o : Nat) (m : W64) : (g.dropScore o m).block = g.block := rfl
@[simp] theorem group_dropScore_groupIdx (g : Group) (o : Nat) (m : W64) : (g.dropScore o m).groupIdx = g.groupIdx := rfl
@[simp] theorem group_dropScore_stage (g : Group) (o : Nat) (m : W64) : (g.dropScore o m).stage = g.stage := rfl
@[simp] theorem group_dropScore_first (g : Group) (o : Nat) (m : W64) : (g.dropScore o m).first = g.first := rfl
@[simp] theorem group_dropScore_rolen (g : Group) (o : Nat) (m : W64) : (g.dropScore o m).rolen = g.rolen := rfl
@[simp] theorem group_dropScore_prio (g : Group) (o : Nat) (m : W64) : (g.dropScore o m).prio = g.prio := rfl
@[simp] theorem group_dropScore_persist (g : Group) (o : Nat) (m : W64) : (g.dropScore o m).persist = g.persist := rfl
@[simp] theorem group_dropScore_supervisor (g : Group) (o : Nat) (m : W64) : (g.dropScore o m).supervisor = g.supervisor := rfl
@[simp] theorem group_dropScore_tenant (g : Group) (o : Nat) (m : W64) : (g.dropScore o m).tenant = g.tenant := rfl
@[simp] theorem group_dropScore_nv (g : Group) (o : Nat) (m : W64) : (g.dropScore o m).nv = g.nv := rfl
@[simp] theorem group_dropScore_ns (g : Group) (o : Nat) (m : W64) : (g.dropScore o m).ns = g.ns := rfl
@[simp] theorem group_dropScore_nt (g : Group) (o : Nat) (m : W64) : (g.dropScore o m).nt = g.nt := rfl
@[simp] theorem group_dropScore_trapEntry (g : Group) (o : Nat) (m : W64) : (g.dropScore o m).trapEntry = g.trapEntry := rfl
@[simp] theorem group_dropScore_tlsBase (g : Group) (o : Nat) (m : W64) : (g.dropScore o m).tlsBase = g.tlsBase := rfl
@[simp] theorem group_dropScore_tlsStride (g : Group) (o : Nat) (m : W64) : (g.dropScore o m).tlsStride = g.tlsStride := rfl
@[simp] theorem group_dropScore_lanes (g : Group) (o : Nat) (m : W64) : (g.dropScore o m).lanes = g.lanes := rfl
@[simp] theorem group_dropScore_exited (g : Group) (o : Nat) (m : W64) : (g.dropScore o m).exited = g.exited := rfl
@[simp] theorem group_dropScore_bundles (g : Group) (o : Nat) (m : W64) : (g.dropScore o m).bundles = g.bundles := rfl
@[simp] theorem group_dropScore_vregs (g : Group) (o : Nat) (m : W64) : (g.dropScore o m).vregs = g.vregs := rfl
@[simp] theorem group_dropScore_sregs (g : Group) (o : Nat) (m : W64) : (g.dropScore o m).sregs = g.sregs := rfl
@[simp] theorem group_dropScore_pregs (g : Group) (o : Nat) (m : W64) : (g.dropScore o m).pregs = g.pregs := rfl
@[simp] theorem group_dropScore_jexp (g : Group) (o : Nat) (m : W64) : (g.dropScore o m).jexp = g.jexp := rfl
@[simp] theorem group_dropScore_jarr (g : Group) (o : Nat) (m : W64) : (g.dropScore o m).jarr = g.jarr := rfl
@[simp] theorem group_dropScore_mrecs (g : Group) (o : Nat) (m : W64) : (g.dropScore o m).mrecs = g.mrecs := rfl
@[simp] theorem group_dropScore_tiles (g : Group) (o : Nat) (m : W64) : (g.dropScore o m).tiles = g.tiles := rfl
@[simp] theorem group_dropScore_fpstat (g : Group) (o : Nat) (m : W64) : (g.dropScore o m).fpstat = g.fpstat := rfl
@[simp] theorem group_dropScore_fpctl (g : Group) (o : Nat) (m : W64) : (g.dropScore o m).fpctl = g.fpctl := rfl
@[simp] theorem group_dropScore_mode (g : Group) (o : Nat) (m : W64) : (g.dropScore o m).mode = g.mode := rfl
@[simp] theorem group_dropScore_pend (g : Group) (o : Nat) (m : W64) : (g.dropScore o m).pend = g.pend := rfl
@[simp] theorem group_dropScore_storeQ (g : Group) (o : Nat) (m : W64) : (g.dropScore o m).storeQ = g.storeQ := rfl
@[simp] theorem group_dropScore_memHold (g : Group) (o : Nat) (m : W64) : (g.dropScore o m).memHold = g.memHold := rfl
@[simp] theorem group_dropScore_monitor (g : Group) (o : Nat) (m : W64) : (g.dropScore o m).monitor = g.monitor := rfl
@[simp] theorem group_dropScore_mwaitTill (g : Group) (o : Nat) (m : W64) : (g.dropScore o m).mwaitTill = g.mwaitTill := rfl
@[simp] theorem group_dropScore_binds (g : Group) (o : Nat) (m : W64) : (g.dropScore o m).binds = g.binds := rfl
@[simp] theorem group_dropScore_ahead (g : Group) (o : Nat) (m : W64) : (g.dropScore o m).ahead = g.ahead := rfl
@[simp] theorem group_dropScore_forks (g : Group) (o : Nat) (m : W64) : (g.dropScore o m).forks = g.forks := rfl
@[simp] theorem group_dropScore_kwaits (g : Group) (o : Nat) (m : W64) : (g.dropScore o m).kwaits = g.kwaits := rfl
@[simp] theorem group_dropScore_naps (g : Group) (o : Nat) (m : W64) : (g.dropScore o m).naps = g.naps := rfl
@[simp] theorem group_dropScore_endSeen (g : Group) (o : Nat) (m : W64) : (g.dropScore o m).endSeen = g.endSeen := rfl
@[simp] theorem group_dropScore_lastIssue (g : Group) (o : Nat) (m : W64) : (g.dropScore o m).lastIssue = g.lastIssue := rfl
@[simp] theorem group_dropScore_yieldUntil (g : Group) (o : Nat) (m : W64) : (g.dropScore o m).yieldUntil = g.yieldUntil := rfl
@[simp] theorem group_dropScore_badRegs (g : Group) (o : Nat) (m : W64) : (g.dropScore o m).badRegs = g.badRegs := rfl

@[simp] theorem group_park_block (g : Group) (m : W64) (why : Nat → Park) (pc : Nat → W64) : (g.park m why pc).block = g.block := rfl
@[simp] theorem group_park_groupIdx (g : Group) (m : W64) (why : Nat → Park) (pc : Nat → W64) : (g.park m why pc).groupIdx = g.groupIdx := rfl
@[simp] theorem group_park_stage (g : Group) (m : W64) (why : Nat → Park) (pc : Nat → W64) : (g.park m why pc).stage = g.stage := rfl
@[simp] theorem group_park_first (g : Group) (m : W64) (why : Nat → Park) (pc : Nat → W64) : (g.park m why pc).first = g.first := rfl
@[simp] theorem group_park_rolen (g : Group) (m : W64) (why : Nat → Park) (pc : Nat → W64) : (g.park m why pc).rolen = g.rolen := rfl
@[simp] theorem group_park_prio (g : Group) (m : W64) (why : Nat → Park) (pc : Nat → W64) : (g.park m why pc).prio = g.prio := rfl
@[simp] theorem group_park_persist (g : Group) (m : W64) (why : Nat → Park) (pc : Nat → W64) : (g.park m why pc).persist = g.persist := rfl
@[simp] theorem group_park_supervisor (g : Group) (m : W64) (why : Nat → Park) (pc : Nat → W64) : (g.park m why pc).supervisor = g.supervisor := rfl
@[simp] theorem group_park_tenant (g : Group) (m : W64) (why : Nat → Park) (pc : Nat → W64) : (g.park m why pc).tenant = g.tenant := rfl
@[simp] theorem group_park_nv (g : Group) (m : W64) (why : Nat → Park) (pc : Nat → W64) : (g.park m why pc).nv = g.nv := rfl
@[simp] theorem group_park_ns (g : Group) (m : W64) (why : Nat → Park) (pc : Nat → W64) : (g.park m why pc).ns = g.ns := rfl
@[simp] theorem group_park_nt (g : Group) (m : W64) (why : Nat → Park) (pc : Nat → W64) : (g.park m why pc).nt = g.nt := rfl
@[simp] theorem group_park_trapEntry (g : Group) (m : W64) (why : Nat → Park) (pc : Nat → W64) : (g.park m why pc).trapEntry = g.trapEntry := rfl
@[simp] theorem group_park_tlsBase (g : Group) (m : W64) (why : Nat → Park) (pc : Nat → W64) : (g.park m why pc).tlsBase = g.tlsBase := rfl
@[simp] theorem group_park_tlsStride (g : Group) (m : W64) (why : Nat → Park) (pc : Nat → W64) : (g.park m why pc).tlsStride = g.tlsStride := rfl
@[simp] theorem group_park_exited (g : Group) (m : W64) (why : Nat → Park) (pc : Nat → W64) : (g.park m why pc).exited = g.exited := rfl
@[simp] theorem group_park_vregs (g : Group) (m : W64) (why : Nat → Park) (pc : Nat → W64) : (g.park m why pc).vregs = g.vregs := rfl
@[simp] theorem group_park_sregs (g : Group) (m : W64) (why : Nat → Park) (pc : Nat → W64) : (g.park m why pc).sregs = g.sregs := rfl
@[simp] theorem group_park_pregs (g : Group) (m : W64) (why : Nat → Park) (pc : Nat → W64) : (g.park m why pc).pregs = g.pregs := rfl
@[simp] theorem group_park_jexp (g : Group) (m : W64) (why : Nat → Park) (pc : Nat → W64) : (g.park m why pc).jexp = g.jexp := rfl
@[simp] theorem group_park_jarr (g : Group) (m : W64) (why : Nat → Park) (pc : Nat → W64) : (g.park m why pc).jarr = g.jarr := rfl
@[simp] theorem group_park_mrecs (g : Group) (m : W64) (why : Nat → Park) (pc : Nat → W64) : (g.park m why pc).mrecs = g.mrecs := rfl
@[simp] theorem group_park_tiles (g : Group) (m : W64) (why : Nat → Park) (pc : Nat → W64) : (g.park m why pc).tiles = g.tiles := rfl
@[simp] theorem group_park_fpstat (g : Group) (m : W64) (why : Nat → Park) (pc : Nat → W64) : (g.park m why pc).fpstat = g.fpstat := rfl
@[simp] theorem group_park_fpctl (g : Group) (m : W64) (why : Nat → Park) (pc : Nat → W64) : (g.park m why pc).fpctl = g.fpctl := rfl
@[simp] theorem group_park_mode (g : Group) (m : W64) (why : Nat → Park) (pc : Nat → W64) : (g.park m why pc).mode = g.mode := rfl
@[simp] theorem group_park_pend (g : Group) (m : W64) (why : Nat → Park) (pc : Nat → W64) : (g.park m why pc).pend = g.pend := rfl
@[simp] theorem group_park_score (g : Group) (m : W64) (why : Nat → Park) (pc : Nat → W64) : (g.park m why pc).score = g.score := rfl
@[simp] theorem group_park_storeQ (g : Group) (m : W64) (why : Nat → Park) (pc : Nat → W64) : (g.park m why pc).storeQ = g.storeQ := rfl
@[simp] theorem group_park_memHold (g : Group) (m : W64) (why : Nat → Park) (pc : Nat → W64) : (g.park m why pc).memHold = g.memHold := rfl
@[simp] theorem group_park_monitor (g : Group) (m : W64) (why : Nat → Park) (pc : Nat → W64) : (g.park m why pc).monitor = g.monitor := rfl
@[simp] theorem group_park_mwaitTill (g : Group) (m : W64) (why : Nat → Park) (pc : Nat → W64) : (g.park m why pc).mwaitTill = g.mwaitTill := rfl
@[simp] theorem group_park_binds (g : Group) (m : W64) (why : Nat → Park) (pc : Nat → W64) : (g.park m why pc).binds = g.binds := rfl
@[simp] theorem group_park_ahead (g : Group) (m : W64) (why : Nat → Park) (pc : Nat → W64) : (g.park m why pc).ahead = g.ahead := rfl
@[simp] theorem group_park_forks (g : Group) (m : W64) (why : Nat → Park) (pc : Nat → W64) : (g.park m why pc).forks = g.forks := rfl
@[simp] theorem group_park_kwaits (g : Group) (m : W64) (why : Nat → Park) (pc : Nat → W64) : (g.park m why pc).kwaits = g.kwaits := rfl
@[simp] theorem group_park_naps (g : Group) (m : W64) (why : Nat → Park) (pc : Nat → W64) : (g.park m why pc).naps = g.naps := rfl
@[simp] theorem group_park_endSeen (g : Group) (m : W64) (why : Nat → Park) (pc : Nat → W64) : (g.park m why pc).endSeen = g.endSeen := rfl
@[simp] theorem group_park_lastIssue (g : Group) (m : W64) (why : Nat → Park) (pc : Nat → W64) : (g.park m why pc).lastIssue = g.lastIssue := rfl
@[simp] theorem group_park_yieldUntil (g : Group) (m : W64) (why : Nat → Park) (pc : Nat → W64) : (g.park m why pc).yieldUntil = g.yieldUntil := rfl
@[simp] theorem group_park_badRegs (g : Group) (m : W64) (why : Nat → Park) (pc : Nat → W64) : (g.park m why pc).badRegs = g.badRegs := rfl

end Sys2Proof.Laws
end

