-- ==== Sys2Proof/Tests/Slice0.lean ====
section
/-!
SUPPORT. The author's own tests. Words written out from the tables of the spec decode to their instructions (R143 to R147); each check
of WellFormed refuses a term (R419); the hypotheses of every statement, clause by clause, are met by a concrete state (`wit_…`).
-/

namespace Sys2Proof.Tests

open Sys2Proof.Machine

set_option Elab.async false

/-! ## Small states and forms -/

/-- A header with predicate p0 and no stall. -/
def h0 : Hdr := { pneg := false, psel := 0, stall := 0 }

/-- An extended form. -/
def e (d a b c typ : Nat := 0) (opt rm bm type2 rows cols : Nat := 0) : Form :=
  .multi (.ext { type2 := BitVec.ofNat 5 type2, pitch := 0, bm := BitVec.ofNat 2 bm, b := BitVec.ofNat 10 b, a := BitVec.ofNat 10 a,
                 d := BitVec.ofNat 10 d, cols := BitVec.ofNat 3 cols, rows := BitVec.ofNat 3 rows,
                 mod := BitVec.ofNat 8 (8 * opt + rm), typ := BitVec.ofNat 5 typ, c := BitVec.ofNat 10 c })

/-- A single form. -/
def s1 (d a : Nat := 0) : Form := .single (BitVec.ofNat 7 d) (BitVec.ofNat 7 a)

/-- A buffer record: base, extent, ESIZE, and the rights R and W (R71). -/
def mrec (base ext esize : Nat) (rw : Nat := 3) : W128 := BitVec.ofNat 128 (base + ext * 2 ^ 64 + esize * 2 ^ 112 + rw * 2 ^ 120)

/-- A group with registers, tile names and buffer records, one bundle of all its lanes. -/
def grp : Group :=
  { nv := 64, ns := 64, nt := 8, block := 0, supervisor := true, bundles := [{ mask := BitVec.allOnes 64 }],
    mrecs := [(1, mrec 0x10000 1024 3), (2, mrec 0x10000 1024 2), (3, mrec 0x10000 1024 4)] }

/-- A block of one core: every scratchpad area, 8 counters, three rings. -/
def blk : Block :=
  { launch := 1, index := 0, tenant := 0, cluster := 0, n := 1, live := [0], shares := [{ core := 0, low := 0, slots := [0] }],
    qcws := [(0, BitVec.ofNat 128 (2 ^ 112 + 4 * 2 ^ 48 + 0x40 * 2 ^ 8)), (1, BitVec.ofNat 128 (4 * 2 ^ 48 + 0x44 * 2 ^ 8))] }

/-- The launch of the block. -/
def lau : Launch :=
  { queue := 0, pos := 0, tenant := 0, gang := false, prio := 0, gx := 1, gy := 1, gz := 1, roles := [], trapEntry := 0, tileKb := 16,
    ringKb := 16, stashKb := 16, nctr := 8, tlsStride := 32, tlsBase := 0, args := 0, supervisor := true }

/-- The group's bundle of all lanes issues, on core 0 in slot 0. -/
def at0 (g : Group := grp) (b : Block := blk) : State :=
  { groups := [(0, g)], blocks := [(0, b)], launches := [(1, lau)], nextId := 10,
    cur := { lanes := BitVec.allOnes 64, pc := 0x1000, clock := 100 } }

/-- The group with scalar registers. -/
def regs (xs : List (Nat × W64)) : Group := { grp with sregs := xs }

/-! ## When an instruction issues -/

/-- `Issues`, as a test. -/
def issuesB (opc : Nat) (f : Form) (g : Group) (s : State) : Bool :=
  decide (s.cur.seq = .group) && decide (s.group s.cur.key = some g) && decide (activeOf g h0 s ≠ 0) &&
  (staticCheck g (inTrap g s) opc h0 f).isNone &&
  !(sources g s.cur.clock (operands g opc f)).any (srcScored g s.cur.clock s.cur.lanes) &&
  !datapathBusy s opc && (step11 g s.cur.clock (activeOf g h0 s) s.cur.lanes h0 (operands g opc f)).isNone &&
  (errorRead s s.cur.key g s.cur.clock (activeOf g h0 s) s.cur.lanes h0 (operands g opc f)).isNone

theorem issues_of {opc : Nat} {f : Form} {g : Group} {s : State} (t : issuesB opc f g s = true) : Issues opc h0 f g s := by
  simp only [issuesB, Bool.and_eq_true, decide_eq_true_eq, Bool.not_eq_true', Option.isNone_iff_eq_none] at t
  obtain ⟨⟨⟨⟨⟨⟨⟨a, b⟩, c⟩, d⟩, e⟩, f⟩, g⟩, h⟩ := t
  exact ⟨a, b, c, d, e, f, g, h⟩

/-- An instruction of an opcode in a form issues in a state, and its group meets more. -/
def Meets (opc : Nat) (f : Form) (s : State) (p : Group → Bool) : Prop :=
  ∃ i g, view i = some (opc, h0, f) ∧ Issues opc h0 f g s ∧ p g = true

/-- `Meets`, as a test. -/
def meets (opc : Nat) (f : Form) (s : State) (p : Group → Bool := fun _ => true) : Bool :=
  match build opc h0 f, s.group s.cur.key with
  | some i, some g => decide (view i = some (opc, h0, f)) && issuesB opc f g s && p g
  | _, _ => false

theorem meets_of {opc : Nat} {f : Form} {s : State} {p : Group → Bool} (t : meets opc f s p = true) : Meets opc f s p := by
  unfold meets at t
  split at t
  · next i g _ _ =>
    simp only [Bool.and_eq_true, decide_eq_true_eq] at t
    exact ⟨i, g, t.1.1, issues_of t.1.2, t.2⟩
  · cases t

/-- An extended form of an opcode on small registers, with its first permitted TYPE, OPT and BM. -/
def plain (opc : Nat) : Form :=
  let p := opSpec opc
  let t := p.typs.headD 0
  e (d := 4) (a := if p.a = .none then 0 else 8) (b := if p.b = .none ∨ p.bms.headD 0 ≠ 0 then 0 else 12)
    (c := match p.c with | .v => 16 | .s _ => 16 | .p => 3 | _ => 0) (typ := t) (opt := p.opts.headD 0) (bm := p.bms.headD 0)
    (type2 := (p.typ2s.filter (· ≠ t)).headD 0)

theorem meets_each {α : Type} {xs : List α} {opc : α → Nat} {f : α → Form} {s : α → State} {p : α → Group → Bool}
    (t : (xs.all fun x => meets (opc x) (f x) (s x) (p x)) = true) : ∀ x ∈ xs, Meets (opc x) (f x) (s x) (p x) :=
  fun _ h => meets_of (List.all_eq_true.mp t _ h)

/-! ## Registers, lanes and control -/

theorem wit_ScalarResult : ∀ opc ∈ (List.range 0x17).map (· + 1), Meets opc (plain opc) at0 fun _ => true :=
  meets_each (by decide +kernel)

theorem wit_VectorIntegerResult : ∀ opc ∈ Rules.intElementwise, Meets opc (plain opc) at0 fun g => g.binds = [] :=
  meets_each (by decide +kernel)

theorem wit_VectorFloatResult : ∀ opc ∈ Rules.floatElementwise, Meets opc (plain opc) at0 fun g => g.binds = [] :=
  meets_each (by decide +kernel)

theorem wit_LaneResult : ∀ opc ∈ [0x70, 0x73, 0x74, 0x75, 0x76, 0x77, 0x79], Meets opc (plain opc) at0 fun g => g.binds = [] :=
  meets_each (by decide +kernel)

theorem wit_MaskResults : ∀ opc ∈ [0x4c, 0x60, 0x1c, 0x78, 0x31], Meets opc (plain opc) at0 fun g => g.binds = [] :=
  meets_each (by decide +kernel)

/-- The last OPT that reads a mask, and the one that writes it. -/
theorem wit_MaskResults_jmov :
    Meets 0x31 (e (d := 4) (a := 15) (opt := 1)) at0 (fun g => (operands g 0x31 (e (d := 4) (a := 15) (opt := 1))).opt < 2) ∧
    Meets 0x31 (e (d := 15) (a := 4) (opt := 2)) at0 (fun g => 2 ≤ (operands g 0x31 (e (d := 15) (a := 4) (opt := 2))).opt) :=
  ⟨meets_of (by decide +kernel), meets_of (by decide +kernel)⟩

theorem wit_MovesOn : ∀ opc ∈ [0x00, 0x2d, 0x2e], Meets opc s1 at0 fun _ => true := meets_each (by decide +kernel)

/-- `sleep` for 0 clocks, and for one; a sleep of which a save has left 7 clocks. -/
theorem wit_MovesOn_sleep :
    Meets 0xe3 (e (bm := 2)) at0 (fun g => g.naps.isEmpty) ∧ Meets 0xe3 (e (bm := 2) (c := 1)) at0 (fun g => g.naps.isEmpty) ∧
    Meets 0xe3 (e (bm := 2)) (at0 { grp with naps := [(1, 7)] })
      (fun g => g.naps.find? (fun x => x.1 &&& BitVec.allOnes 64 ≠ 0) == some (1, 7)) :=
  ⟨meets_of (by decide +kernel), meets_of (by decide +kernel), meets_of (by decide +kernel)⟩

/-- A form with a literal. -/
def lit (d a : Nat) (v : W64) : Form := .multi (.lit (BitVec.ofNat 7 d) (BitVec.ofNat 7 a) v)

theorem wit_BranchesAndCalls_branch :
    Meets 0x20 (s1 4 0) at0 (fun g => !dispBad (operands g 0x20 (s1 4 0))) ∧
    Meets 0x21 (lit 1 4 (-4)) at0 (fun g => !dispBad (operands g 0x21 (lit 1 4 (-4)))) ∧
    Meets 0x22 (s1 0 4) (at0 (regs [(4, 0x2004)]))
      (fun g => (lanesOf (BitVec.allOnes 64)).all fun l => (Rules.indirectTarget (operands g 0x22 (s1 0 4)) g 100 l).toNat % 4 = 0) :=
  ⟨meets_of (by decide +kernel), meets_of (by decide +kernel), meets_of (by decide +kernel)⟩

/-- The group with seven return addresses on each lane's stack. -/
def deep (n : Nat) : Group := { grp with lanes := List.replicate 64 { stack := List.replicate n 0x2000 } }

theorem wit_BranchesAndCalls_call :
    Meets 0x23 (s1 4 0) (at0 (deep 7)) (fun g => !dispBad (operands g 0x23 (s1 4 0)) &&
      (lanesOf (BitVec.allOnes 64)).all fun l => !(g.lane l).stackBusy && decide ((g.lane l).stack.length < 8)) ∧
    Meets 0x24 (s1 0 4) (at0 (deep 7)) (fun g => (lanesOf (BitVec.allOnes 64)).all fun l =>
      decide ((Rules.indirectTarget (operands g 0x24 (s1 0 4)) g 100 l).toNat % 4 = 0) &&
      !(g.lane l).stackBusy && decide ((g.lane l).stack.length < 8)) ∧
    Meets 0x25 s1 (at0 (deep 1)) (fun g => (lanesOf (BitVec.allOnes 64)).all fun l =>
      !(g.lane l).stackBusy && decide ((g.lane l).stack ≠ []) && decide ((g.lane l).stack.length = 1 → (g.lane l).spilled = 0)) :=
  ⟨meets_of (by decide +kernel), meets_of (by decide +kernel), meets_of (by decide +kernel)⟩

/-- The group with return addresses on each lane's stack and blocks spilled. -/
def spilt (n k : Nat) : Group := { grp with tlsStride := 32, lanes := List.replicate 64 { stack := List.replicate n 0x2000, spilled := k } }

/-- The group's memory instructions may run. -/
def movesB (g : Group) (s : State) : Bool :=
  decide (s.cur.sub < 128) && decide (g.memHold = []) && !walksFull (s.begun g) s.cur.unit && decide (g.storeQ.length < 32)

/-- A call of a full stack, a return that takes the last entry, one that waits for its refill, one of an empty stack; a literal and an
indirect target that are misaligned. -/
theorem wit_BranchesAndCalls_stack :
    Meets 0x23 (s1 4 0) (at0 (spilt 8 0)) (fun g => movesB g (at0 (spilt 8 0)) && !dispBad (operands g 0x23 (s1 4 0)) &&
      (lanesOf (BitVec.allOnes 64)).all fun l => decide ((g.lane l).stack.length = 8) && decide (32 * ((g.lane l).spilled + 1) ≤ g.tlsStride.toNat)) ∧
    Meets 0x25 s1 (at0 (spilt 1 1)) (fun g => movesB g (at0 (spilt 1 1)) &&
      (lanesOf (BitVec.allOnes 64)).all fun l => !(g.lane l).stackBusy && decide ((g.lane l).stack.length = 1) && decide ((g.lane l).spilled ≠ 0)) ∧
    Meets 0x25 s1 (at0 (spilt 0 1)) (fun g => movesB g (at0 (spilt 0 1)) &&
      (lanesOf (BitVec.allOnes 64)).all fun l => decide ((g.lane l).stack = []) && decide ((g.lane l).spilled ≠ 0)) ∧
    Meets 0x25 s1 at0 (fun g => (lanesOf (BitVec.allOnes 64)).all fun l =>
      !(g.lane l).stackBusy && decide ((g.lane l).stack = []) && decide ((g.lane l).spilled = 0)) ∧
    Meets 0x21 (lit 1 4 2) at0 (fun g => dispBad (operands g 0x21 (lit 1 4 2))) ∧
    Meets 0x22 (s1 0 4) (at0 (regs [(4, 0x2006)]))
      (fun g => (lanesOf (BitVec.allOnes 64)).any fun l => decide ((Rules.indirectTarget (operands g 0x22 (s1 0 4)) g 100 l).toNat % 4 ≠ 0)) :=
  ⟨meets_of (by decide +kernel), meets_of (by decide +kernel), meets_of (by decide +kernel), meets_of (by decide +kernel),
   meets_of (by decide +kernel), meets_of (by decide +kernel)⟩

/-- A persistent group that has not seen its end; a group of which a push port has moved part of an element. -/
def stays : Group := { grp with persist := true }
def bound : Group := { grp with binds := [{ reg := 5, q := 1, push := true, last := some 0 }] }

theorem wit_LaneGrouping :
    Meets 0x26 (s1 15) at0 (fun _ => true) ∧
    Meets 0x27 (s1 15) (at0 { grp with jexp := [(15, 1)] }) (fun g => g.lanes.length = 64) ∧
    Meets 0x29 s1 at0 (fun g => !g.persist && (exitStream (at0.begun g) g (BitVec.allOnes 64)).isNone) ∧
    Meets 0x29 s1 (at0 stays) (fun g => g.persist && !g.endSeen && !Rules.leadInTrap g h0 (at0 stays)) ∧
    Meets 0x29 s1 (at0 bound { blk with pushed := [(1, 1)] })
      (fun g => !g.persist && (exitStream ((at0 bound { blk with pushed := [(1, 1)] }).begun g) g (BitVec.allOnes 64)).isSome) :=
  ⟨meets_of (by decide +kernel), meets_of (by decide +kernel), meets_of (by decide +kernel), meets_of (by decide +kernel),
   meets_of (by decide +kernel)⟩

/-- A group in trap mode. -/
def trapped : Group := { grp with lanes := List.replicate 64 { trap := true, trapPc := 0x3000 } }

theorem wit_SoftwareTraps :
    Meets 0x2c (s1 5 0) at0 (fun g => !Rules.leadInTrap g h0 at0) ∧
    Meets 0x2c (s1 5 0) (at0 trapped) (fun g => Rules.leadInTrap g h0 (at0 trapped)) ∧
    Meets 0xe0 e at0 (fun g => !Rules.leadInTrap g h0 at0) ∧
    Meets 0xe0 e (at0 trapped) (fun g => Rules.leadInTrap g h0 (at0 trapped)) :=
  ⟨meets_of (by decide +kernel), meets_of (by decide +kernel), meets_of (by decide +kernel), meets_of (by decide +kernel)⟩

/-- Lane 63 alone faults, of a group none of whose lanes is in trap mode. -/
theorem wit_TrapEntry : at0.group 0 = some grp ∧ grp.lanes.length = 64 ∧ laneBit 63 ≠ 0 ∧ laneBit 63 &&& grp.exited = 0 ∧
    ∀ l, (laneBit 63).getLsbD l → (grp.lane l).trap = false := by
  refine ⟨by decide +kernel, by decide, by decide, by decide, fun l _ => ?_⟩
  by_cases h : l < 64
  · have h : ∀ l, l < 64 → (grp.lane l).trap = false := by decide +kernel
    exact h l ‹_›
  · simp [Group.lane, grp, Nat.not_lt.mp h]

/-- An undefined TYPE; a supervisor instruction of a group that is not one; no active lane, the datapath free and held. -/
theorem wit_StaticFaults : at0.group at0.cur.key = some grp ∧ activeOf grp h0 at0 ≠ 0 ∧
    (build 0x38 h0 (e (typ := 13))).isSome ∧ staticCheck grp (inTrap grp at0) 0x38 h0 (e (typ := 13)) = some (0x01, 0x05) ∧
    (build 0xe3 h0 (e (bm := 2))).isSome ∧
    staticCheck { grp with supervisor := false } (inTrap { grp with supervisor := false } at0) 0xe3 h0 (e (bm := 2)) = some (0x02, 0) ∧
    activeOf grp { h0 with psel := 1 } at0 = 0 ∧ grp.mode.getLsbD 0 = false ∧ datapathBusy at0 0x38 = false ∧
    datapathBusy { at0 with cores := [(0, { vbusy := [(0, 101)] })] } 0x38 = true := by decide +kernel

/-- STALLCHK is set: a source is read early, and the predicate register that PSEL names, with active lanes and with none. -/
theorem wit_StaticFaults_early :
    let early (f : RFile) (r : Nat) (v : W64) : Group :=
      { grp with mode := 1, pregs := [(1, 1)], pend := [{ file := f, reg := r, lanes := BitVec.allOnes 64, olds := List.replicate 64 v, ready := 200 }] }
    let g := early .v 8 0
    let o := operands g 0x38 (plain 0x38)
    (step11 g 100 (activeOf g h0 (at0 g)) (at0 g).cur.lanes h0 o).isSome = true ∧
      (sources g 100 o).any (srcScored g 100 (at0 g).cur.lanes) = false ∧
      (let h := { h0 with psel := 1 }
       let g := early .p 1 1
       let z := early .p 1 0
       activeOf g h (at0 g) ≠ 0 ∧ (step11 g 100 (activeOf g h (at0 g)) (at0 g).cur.lanes h o).isSome = true ∧
        activeOf z h (at0 z) = 0 ∧ z.early 100 .p 1 0 = true) ∧
      errorRead.badPred g (BitVec.allOnes 64) h0 = false := by decide +kernel

theorem wit_ElectResult : Meets 0x30 (s1 15) at0 (fun _ => true) ∧
    staticCheck grp false 0x30 h0 (s1 15) = none := ⟨meets_of (by decide +kernel), by decide +kernel⟩

theorem wit_PredicateRules :
    (∀ opt ∈ List.range 6, Meets 0x32 (e (d := 15) (a := 2) (b := if opt < 4 then 3 else 0) (opt := opt)) at0 fun _ => true) ∧
    Meets 0x32 (s1 15 2) at0 (fun _ => true) ∧ Meets 0x33 (s1 15 2) at0 (fun _ => true) ∧
    Meets 0x33 (e (d := 15) (a := 2)) at0 (fun _ => true) ∧ Meets 0x33 (e (d := 5) (a := 15) (opt := 1)) at0 (fun _ => true) :=
  ⟨meets_each (by decide +kernel), meets_of (by decide +kernel), meets_of (by decide +kernel), meets_of (by decide +kernel),
    meets_of (by decide +kernel)⟩

/-! ## System registers, synchronisation and memory -/

/-- No fence holds the group's memory instructions, no operand is a port, and the walker takes requests. -/
def free (opc : Nat) (f : Form) (s : State) (g : Group) : Bool :=
  decide (g.memHold = []) && (boundOperand (issueOf opc h0 f g s) g).isNone && !walksFull (s.begun g) s.cur.unit

/-- The first and the last register that `sread` names, and a code that names none; `swrite` of each register, and of none. -/
theorem wit_SystemRegisters :
    (∀ c ∈ [0x00, 0x1b, 0x0e], Meets 0x1a (s1 4 c) at0 fun g =>
      (Rules.systemRegister at0 g (g.lane 0) 0 c).isSome = decide (c ≠ 0x0e)) ∧
    (∀ d ∈ [0x10, 0x11, 0x12, 0x14, 0x15, 0x18, 0x13], Meets 0x1b (s1 d 4) (at0 (regs [(4, 7)])) fun _ => true) ∧
    Meets 0x1b (s1 0x18 4) (at0 trapped) (fun g => Rules.leadInTrap g h0 (at0 trapped)) :=
  ⟨meets_each (by decide +kernel), meets_each (by decide +kernel), meets_of (by decide +kernel)⟩

/-- The record that `mset` takes in the witness: ESIZE 4 and SWZ 7, the last that are defined. -/
def recRegs : Group := regs [(8, 0x1000), (9, 0x20), (10, 64), (11, 0x03740000)]

/-- A free place in the ring area: DEPTH 2, BASE at the area's start, one element waiting. -/
def ringWord : W128 := BitVec.ofNat 128 (2 ^ 112 + 2 * 2 ^ 48 + 0x40 * 2 ^ 8)

theorem wit_RecordsAndStreams_mset : Meets 0x97 (e (d := 15) (a := 8)) (at0 recRegs) fun g =>
    let word (j : Nat) : Nat := (g.readS 100 (8 + j)).toNat % 2 ^ 32
    let r := word 0 + word 1 * 2 ^ 32 + word 2 * 2 ^ 64 + word 3 * 2 ^ 96
    decide (recEsize r < 5) && decide (bitsOf r 119 116 < 8) && decide (bitsOf r 127 124 = 0) && !bitAt r 63 :=
  meets_of (by decide +kernel)

/-- The last place for a port, and a port of which no element is in part. -/
theorem wit_RecordsAndStreams_ports :
    Meets 0x91 (e (d := 63) (a := 1) (opt := 1))
      (at0 { grp with binds := (List.range 15).map fun n => { reg := n, q := 0, push := false } })
      (fun g => (g.binds.all fun b => b.reg ≠ 63) && decide (g.binds.length < 16)) ∧
    Meets 0x92 (e (d := 5)) (at0 bound)
      (fun g => (g.binds.find? fun b => b.reg = 5).isSome && !partStream blk { reg := 5, q := 1, push := true, last := some 0 }) :=
  ⟨meets_of (by decide +kernel), meets_of (by decide +kernel)⟩

theorem wit_RecordsAndStreams_qcw :
    Meets 0x90 (e (d := 31) (a := 8) (opt := 1)) at0 (fun g => (blockOf at0 g).isSome) ∧
    let s := at0 (regs [(8, BitVec.ofNat 64 ringWord.toNat), (9, BitVec.ofNat 64 (ringWord.toNat / 2 ^ 64))])
    Meets 0x90 (e (d := 0) (a := 8)) s (fun g => (blockOf s g).isSome &&
      decide (BitVec.ofNat 128 ((g.readS 100 8).toNat + 2 ^ 64 * (g.readS 100 9).toNat) = ringWord) &&
      (blk.live.all fun k => ((s.begun g).group k).all fun x => x.binds.all fun y => y.q ≠ 0) &&
      decide ((ringOf ringWord).count ≤ (ringOf ringWord).depth) && !ringBad (s.begun g) blk ringWord) :=
  ⟨meets_of (by decide +kernel), meets_of (by decide +kernel)⟩

/-- Tenant 0 has one page of 256 MiB: addresses below 2^28 at the near addresses from 2^28 on. -/
def mapped (s : State) : State :=
  { s with
    mem := [(0x100000, 0x01), (0x100002, 0x11), (0x110000, 0x1f), (0x110001, 0x04), (0x110003, 0x10)]
    regs := { s.regs with asctx := [(0, 0x100001)] } }

/-- The same page, in migration. -/
def migrating (s : State) : State :=
  { mapped s with mem := [(0x100000, 0x01), (0x100002, 0x11), (0x110000, 0x1f), (0x110001, 0x06), (0x110003, 0x10)] }

/-- The last byte of the address space ends an `icinv` range. -/
theorem wit_InvalidationResult :
    (∀ opt ∈ [0, 1, 2], Meets 0xe2 (e (d := 4) (a := 8) (opt := opt)) at0 fun _ => true) ∧
    (let s := at0 (regs [(8, 2 ^ 64 - 128), (9, 128)])
     Meets 0x2f (e (a := 8) (b := 9) (opt := 4)) s fun g => decide ((g.readS 100 8).toNat + (g.readS 100 9).toNat ≤ 2 ^ 64)) ∧
    (∀ opt ∈ [1, 2, 3], Meets 0xe1 (e (d := 4) (a := 8) (opt := opt)) (migrating at0) fun g =>
      match leafAt (migrating at0) g.tenant 0 with | some (_, p) => p.getLsbD 9 | none => false) :=
  ⟨meets_each (by decide +kernel), meets_of (by decide +kernel), meets_each (by decide +kernel)⟩

/-- The last barrier; `mwait` with and without a limit, its monitor armed and not; `mon` of an element within bounds. -/
theorem wit_Waiting :
    Meets 0x28 (s1 0 15) at0 (fun g => g.lanes.length = 64) ∧
    Meets 0x2b (lit 0 0 0) (at0 { grp with monitor := .armed 5 }) (fun g => decide (g.monitor = .armed 5) && decide (g.lanes.length = 64)) ∧
    Meets 0x2b (lit 0 0 7) (at0 { grp with monitor := .armed 5 }) (fun g => decide (g.monitor = .armed 5) && decide (g.mwaitTill = none)) ∧
    Meets 0x2b (lit 0 0 7) (at0) (fun g => decide (g.monitor = .disarmed)) ∧
    Meets 0x2a (e (a := 8) (b := 9) (c := 1)) (at0 (regs [(8, 1000), (9, 23)])) (fun g =>
      let s := at0 (regs [(8, 1000), (9, 23)])
      let f := e (a := 8) (b := 9) (c := 1)
      free 0x2a f s g &&
        match placeElem ((issueOf 0x2a h0 f g s).brec g) (((g.readS 100 8).toNat + (g.readS 100 9).toNat) % 2 ^ 64) 1 true false with
        | .here _ va => decide (nodeOf va = s.regs.nodeId) | _ => false) :=
  ⟨meets_of (by decide +kernel), meets_of (by decide +kernel), meets_of (by decide +kernel), meets_of (by decide +kernel),
   meets_of (by decide +kernel)⟩

/-- The last counter of the block: `ctrset`; `ctrwait` where it has not reached its target, with and without `.test`. -/
theorem wit_CounterResult :
    Meets 0x8e (e (d := 7) (a := 8) (bm := 1)) at0 (fun g => let f := e (d := 7) (a := 8) (bm := 1)
      free 0x8e f at0 g && decide (counterOf (at0.begun g) (issueOf 0x8e h0 f g at0) g = .ok 0)) ∧
    ∀ opt ∈ [0, 1], Meets 0x8f (e (d := 7) (a := 8) (opt := opt)) (at0 grp { blk with shares := [{ core := 0, low := 0, slots := [0], ctrTgt := [(7, 5)] }] })
      fun g => let s := at0 grp { blk with shares := [{ core := 0, low := 0, slots := [0], ctrTgt := [(7, 5)] }] }
        let i := issueOf 0x8f h0 (e (d := 7) (a := 8) (opt := opt)) g s
        free 0x8f (e (d := 7) (a := 8) (opt := opt)) s g && decide (counterOf (s.begun g) i g = .ok 0) &&
          !ctrPending (s.begun g) i 0 7 && !counterMet (s.begun g) g.block 0 7 :=
  ⟨meets_of (by decide +kernel), meets_each (by decide +kernel)⟩

/-- The plan of a vector access of the group's small state. -/
def planOf (opc : Nat) (f : Form) (g : Group) (s : State) : Plan :=
  let x := issueOf opc h0 f g s
  let scratch := opc = 0x82 ∨ opc = 0x83 ∨ opc = 0x86
  planLanes x.act x.o.n (if scratch then placeLocal x g (s.begun g) (opc ≠ 0x82) else placeGlobal x g (x.brec g) (opc ≠ 0x81) (opc ≠ 0x80))


theorem wit_VectorMemory : ∀ x ∈ [(0x80, 2), (0x81, 2), (0x82, 0), (0x83, 0), (0x84, 2), (0x85, 1), (0x86, 0)],
    Meets x.1 (e (d := 4) (a := 8) (b := if x.1 = 0x84 ∨ x.1 = 0x85 then 12 else 0) (c := x.2) (typ := if x.1 = 0x85 then 7 else 2)) at0 fun g =>
      let f := e (d := 4) (a := 8) (b := if x.1 = 0x84 ∨ x.1 = 0x85 then 12 else 0) (c := x.2) (typ := if x.1 = 0x85 then 7 else 2)
      free x.1 f at0 g && (planOf x.1 f g at0).faults.isEmpty &&
        (x.2 = 0 || x.1 = 0x85 || typeFits ((issueOf x.1 h0 f g at0).brec g) 2) &&
        (x.1 ≠ 0x85 || recEsize ((issueOf x.1 h0 f g at0).brec g) = 3) :=
  meets_each (by decide +kernel)

/-- A `ld` and a `st` whose lanes fault: no element is in bounds of a strict record. -/
theorem wit_VectorMemory_faults : ∀ opc ∈ [0x80, 0x81],
    let g : Group := { grp with mrecs := [(5, mrec 0x10000 0 2 7)] }
    Meets opc (e (d := 4) (a := 8) (c := 5) (typ := 2)) (at0 g) fun g =>
      let f := e (d := 4) (a := 8) (c := 5) (typ := 2)
      free opc f (at0 g) g && !(planOf opc f g (at0 g)).faults.isEmpty && typeFits ((issueOf opc h0 f g (at0 g)).brec g) 2 :=
  meets_each (by decide +kernel)

/-- A scalar access in bounds (record 1, a whole element), and one outside a record of no extent. -/
theorem wit_ScalarAccess : (∀ opc ∈ [0x18, 0x19, 0x1d], Meets opc (e (d := 4) (a := 8) (b := 9) (c := 1) (typ := 7)) (at0 (regs [(8, 1000), (9, 23)]))
      fun g =>
        let f := e (d := 4) (a := 8) (b := 9) (c := 1) (typ := 7)
        let s := at0 (regs [(8, 1000), (9, 23)])
        free opc f s g && decide (g.storeQ.length < 32) &&
          match placeElem ((issueOf opc h0 f g s).brec g) (((g.readS 100 8).toNat + if opc = 0x1d then 0 else (g.readS 100 9).toNat) % 2 ^ 64) 8
            (opc ≠ 0x19) (opc ≠ 0x18) with | .here _ _ => true | _ => false) ∧
    ∀ opc ∈ [0x18, 0x19, 0x1d], Meets opc (e (d := 4) (a := 8) (b := 9) (typ := 7)) at0 fun g =>
      let f := e (d := 4) (a := 8) (b := 9) (typ := 7)
      free opc f at0 g && decide (placeElem ((issueOf opc h0 f g at0).brec g) 0 8 (opc ≠ 0x19) (opc ≠ 0x18) = .out) :=
  ⟨meets_each (by decide +kernel), meets_each (by decide +kernel)⟩

theorem wit_FencesAndHints :
    (∀ c ∈ [0x8 * 0x10 + 0x60, 0x100 + 0x60, 0x180 + 0x60], Meets 0x87 (e (c := c)) at0 fun g => free 0x87 (e (c := c)) at0 g) ∧
    (∀ opt ∈ [0, 1], Meets 0x89 (e (a := 8) (c := 2) (typ := 2) (opt := opt)) at0 fun g =>
      let f := e (a := 8) (c := 2) (typ := 2) (opt := opt)
      free 0x89 f at0 g && typeFits ((issueOf 0x89 h0 f g at0).brec g) 2) ∧
    (∀ opt ∈ [0, 1, 2, 3], Meets 0x88 (e (d := 7) (a := 8) (c := 1) (opt := opt)) (at0 (regs [(8, 16256), (10, 128)])) fun g =>
      let f := e (d := 7) (a := 8) (c := 1) (opt := opt)
      let s := at0 (regs [(8, 16256), (10, 128)])
      free 0x88 f s g && (stashMap (s.begun g) (issueOf 0x88 h0 f g s) g).isSome && !windowBusy (s.begun g) g.block 0 7 &&
        decide (nodeOf ((recBase ((issueOf 0x88 h0 f g s).brec g) + (g.readS 100 9).toNat) % 2 ^ 64) = s.regs.nodeId)) :=
  ⟨meets_each (by decide +kernel), meets_each (by decide +kernel), meets_each (by decide +kernel)⟩

/-! ## Engine commands, keyed queues and the matrix engine -/

/-- A command's parameters pass their checks and its engine has room. -/
def okB {α ε : Type} (x : Except ε α) : Bool := match x with | .ok _ => true | .error _ => false

/-- Registers of a `cpy` of one row of 128 bytes of record 1 to the last bytes that the block's scratchpad lends, and to the record. -/
def cpyRegs : Group := regs [(8, 8064), (9, 128), (11, 49152 - 128)]

theorem wit_EngineCommand :
    (let s := at0 cpyRegs
     Meets 0x8a (e (a := 8) (c := 1)) s fun g => free 0x8a (e (a := 8) (c := 1)) s g &&
      okB (copyCmd (issueOf 0x8a h0 (e (a := 8) (c := 1)) g s) g (s.begun g)) && !engineFull (s.begun g) 0 [0]) ∧
    (let s := at0 (regs [(8, 8064), (9, 128), (11, 0)])
     Meets 0x8a (e (a := 8) (b := 1) (c := 1) (opt := 1)) s fun g => free 0x8a (e (a := 8) (b := 1) (c := 1) (opt := 1)) s g &&
      okB (copyCmd (issueOf 0x8a h0 (e (a := 8) (b := 1) (c := 1) (opt := 1)) g s) g (s.begun g))) ∧
    (let s := { at0 (regs [(8, 0), (9, 128), (11, 2 ^ 53), (15, 2 ^ 23)]) with
        fabric := { ports := [(31, { st := 3, peerNode := 1 })], bars := [(0, { tenant := 0, peerNode := 1, mask := 2 ^ 31 })] } }
     Meets 0x8a (e (a := 8) (c := 1) (opt := 2)) s fun g => free 0x8a (e (a := 8) (c := 1) (opt := 2)) s g &&
      okB (copyCmd (issueOf 0x8a h0 (e (a := 8) (c := 1) (opt := 2)) g s) g (s.begun g))) ∧
    (let s := at0 (regs [(8, 0), (9, 4096 * 2 ^ 32), (10, 0x07000100)])
     Meets 0x8b (e (a := 8) (c := 1)) s fun g => free 0x8b (e (a := 8) (c := 1)) s g &&
      okB (fillCmd (issueOf 0x8b h0 (e (a := 8) (c := 1)) g s) g (s.begun g)) && !engineFull (s.begun g) 0 [1]) ∧
    (let s := at0 (regs [(8, 0), (9, 1), (10, 1), (11, 0)])
     ∀ opt ∈ [0, 1], Meets 0x8c (e (a := 8) (c := opt) (opt := opt)) s fun g => free 0x8c (e (a := 8) (c := opt) (opt := opt)) s g &&
      match pushCmd (issueOf 0x8c h0 (e (a := 8) (c := opt) (opt := opt)) g s) g (s.begun g) with
      | .ok c => !engineFull (s.begun g) 0 c.engines | .error _ => false) ∧
    (let s := at0 (regs [(8, 0), (9, 1), (10, 2 ^ 53), (11, 0)])
     Meets 0x8d (e (a := 8)) s fun g => free 0x8d (e (a := 8)) s g &&
      match pullCmd (issueOf 0x8d h0 (e (a := 8)) g s) g (s.begun g) with | .ok c => !engineFull (s.begun g) 0 c.engines | .error _ => false) ∧
    (let s := at0 (regs [(8, 1023)])
     Meets 0x95 (e (d := 4) (a := 8) (c := 1)) s fun g => free 0x95 (e (d := 4) (a := 8) (c := 1)) s g &&
      match elemOf (issueOf 0x95 h0 (e (d := 4) (a := 8) (c := 1)) g s) g 0 false true false with
      | .ok (some va) => decide (nodeOf va = s.regs.nodeId) | _ => false) ∧
    (let s := at0 (regs [(20, 63)])
     Meets 0x96 (e (d := 4) (a := 8) (b := 20) (bm := 1)) s fun g => free 0x96 (e (d := 4) (a := 8) (b := 20) (bm := 1)) s g &&
      decide (memOffset (issueOf 0x96 h0 (e (d := 4) (a := 8) (b := 20) (bm := 1)) g s) g = 63) && decide ((s.queue 63).tenant = g.tenant)) :=
  ⟨meets_of (by decide +kernel), meets_of (by decide +kernel), meets_of (by decide +kernel), meets_of (by decide +kernel),
   meets_each (by decide +kernel), meets_of (by decide +kernel), meets_of (by decide +kernel), meets_of (by decide +kernel)⟩

/-- `stamp` with and without `.all`, `stampw`: the last element of record 1. -/
theorem wit_StampResult :
    (∀ opt ∈ [0, 1], Meets 0x93 (e (d := 4) (a := 8) (c := 0x161) (opt := opt)) (at0 (regs [(8, 1023)])) fun g =>
      let f := e (d := 4) (a := 8) (c := 0x161) (opt := opt)
      let s := at0 (regs [(8, 1023)])
      free 0x93 f s g && decide (elemOf (issueOf 0x93 h0 f g s) g (memOffset (issueOf 0x93 h0 f g s) g) false true true = .ok (some (0x10000 + 8 * 1023))) &&
        decide (g.storeQ.length < 32)) ∧
    Meets 0x94 (e (d := 4) (a := 8) (c := 1)) (at0 (regs [(8, 1023)])) fun g =>
      let f := e (d := 4) (a := 8) (c := 1)
      let s := at0 (regs [(8, 1023)])
      free 0x94 f s g && decide (elemOf (issueOf 0x94 h0 f g s) g 0 true false true = .ok (some (0x10000 + 8 * 1023))) &&
        decide (nodeOf (0x10000 + 8 * 1023) = s.regs.nodeId) :=
  ⟨meets_each (by decide +kernel), meets_of (by decide +kernel)⟩

/-- Cluster 31 belongs to tenant 0, and a queue of its own cluster holds a record. -/
def owned (s : State) : State :=
  { s with regs := { s.regs with cluown := [(0, 16), (31, 16)] } }

/-- A record of key 5. -/
def rec5 : KRec := { key := 5, pay := 7, ptype := 1, op := 0 }
/-- A queue of one record, not bypassed. -/
def oneRec : Kcq := { sets := [(khash 5 % 512, [(0, rec5)])], entry := 1 }

/-- `spawn` and `kpush` to the three queues that DEST names, with and without a release; `kcfg`; `kdone` of the last ticket; `kstat`. -/
theorem wit_KeyedQueues :
    (∀ dest ∈ [0, 1, 2], Meets 0xb0 (e (d := 7) (a := 8) (c := 256 * dest)) (at0 (regs [(8, 5)])) fun g =>
      let s := at0 (regs [(8, 5)])
      free 0xb0 (e (d := 7) (a := 8) (c := 256 * dest)) s g && (ctrBad (s.begun g) g 7).isNone && decide (g.readS 100 8 ≠ BitVec.allOnes 64) &&
        decide (pushesOut (s.begun g) 0 (pushTo (s.begun g) 0 0 dest 5) < 32)) ∧
    (∀ opt ∈ [0, 8, 14], Meets 0xb1 (e (a := 8) (opt := opt)) (at0 (regs [(8, 5)])) fun g =>
      let s := at0 (regs [(8, 5)])
      free 0xb1 (e (a := 8) (opt := opt)) s g && decide (g.readS 100 8 ≠ BitVec.allOnes 64) && decide (pushesOut (s.begun g) 0 0 < 32)) ∧
    (∀ opt ∈ [0, 1], Meets 0xb4 (e (a := 8) (opt := opt)) (owned (at0 (regs [(8, 31)]))) fun g =>
      let s := owned (at0 (regs [(8, 31)]))
      free 0xb4 (e (a := 8) (opt := opt)) s g && decide (clusterTenant s (g.readS 100 8).toNat = some g.tenant)) ∧
    (let s := { at0 (regs [(14, 31 * 2 ^ 16 + 4095)]) with kcqs := [(31, { tickets := [(4095, 0)] })] }
     Meets 0xb3 (e (a := 8)) s fun g => free 0xb3 (e (a := 8)) s g && ticketOut (s.begun g) 31 4095 &&
      decide ((g.readS 100 14).toNat = 31 * 2 ^ 16 + 4095)) ∧
    (∀ opt ∈ List.range 8, Meets 0xb5 (e (d := 4) (a := 8) (opt := opt)) (owned (at0 (regs [(8, 31)]))) fun g =>
      decide (clusterTenant (owned (at0 (regs [(8, 31)]))) (g.readS 100 8).toNat = some g.tenant)) :=
  ⟨meets_each (by decide +kernel), meets_each (by decide +kernel), meets_each (by decide +kernel), meets_of (by decide +kernel),
   meets_each (by decide +kernel)⟩

/-- `kpop` of a queue that has ended, and of one that holds a record, polling and blocking. -/
theorem wit_KeyedQueues_kpop :
    Meets 0xb2 (e (d := 8)) at0 (fun g => free 0xb2 (e (d := 8)) at0 g && kqEnded at0 0) ∧
    ∀ c ∈ [0, 1], Meets 0xb2 (e (d := 8) (c := c)) { at0 with kcqs := [(0, oneRec)] } fun g =>
      free 0xb2 (e (d := 8) (c := c)) { at0 with kcqs := [(0, oneRec)] } g && !kqEnded { at0 with kcqs := [(0, oneRec)] } 0 :=
  ⟨meets_of (by decide +kernel), meets_each (by decide +kernel)⟩

/-- The group with tile name 7 bound to a tile of a format. -/
def tiled (fmt : Nat) (g : Group := grp) : Group := { g with tiles := [(7, if fmt = 11 then [0, 1] else [0], fmt)] }

/-- The block with the parameters of an `mma` of two f16 operands of depth 32 at the first 64 bytes of its scratchpad. -/
def mmaBlk : Block :=
  { blk with shares := [{ core := 0, low := 0, slots := [0], scratch := [(16, 32), (20, 64), (24, 64), (32, 8), (33, 8)] }] }

theorem wit_MatrixCommand_mma : ∀ x ∈ [(0, tiled 10), (1, grp)], Meets 0xa0 (e (d := 7) (a := 8) (opt := x.1)) (at0 x.2 mmaBlk) fun g =>
    let f := e (d := 7) (a := 8) (opt := x.1)
    let s := at0 x.2 mmaBlk
    let i := issueOf 0xa0 h0 f g s
    let b := s.begun g
    free 0xa0 f s g && decide (areaOf b g 0 0 64 = .ok (0, 0)) && (staleEntry b g.block (blockReq i 0 0)).isNone &&
      !scratchBad b g.block 0 0 64 && !tableFull b 0 &&
      (match paramBlock i g b 0 0 with | some bs => (match mmaCmd i g b bs with | .ok m => decide (m.atype = 8) | .error _ => false) | none => false) &&
      (if x.1 = 1 then (bindTiles i 7 10 b).isSome else decide (g.tile 7 = some ([0], 10))) :=
  meets_each (by decide +kernel)

/-- `tclr`, `tst`, `tld` and `qdual`, on areas that end with the block's scratchpad. -/
theorem wit_MatrixCommand :
    (∀ t ∈ [10, 11], Meets 0xa1 (e (d := 7) (typ := t)) at0 fun g =>
      (bindTiles (issueOf 0xa1 h0 (e (d := 7) (typ := t)) g at0) 7 t (at0.begun g)).isSome) ∧
    (let s := at0 (tiled 10 (regs [(8, 256 * 2 ^ 32 + 16384), (9, 0x107)]))
     Meets 0xa4 (e (d := 7) (a := 8) (typ := 8)) s fun g =>
      let f := e (d := 7) (a := 8) (typ := 8)
      free 0xa4 f s g && storeType 10 8 && decide (g.tile 7 = some ([0], 10)) && okB (tileArea (issueOf 0xa4 h0 f g s) g (s.begun g)) &&
        decide (tileCtr (s.begun g) g (g.readS 100 9).toNat = .ok (some 7))) ∧
    (let s := at0 (regs [(8, 256 * 2 ^ 32 + 16384)])
     Meets 0xa5 (e (d := 7) (a := 8) (typ := 8)) s fun g =>
      let f := e (d := 7) (a := 8) (typ := 8)
      free 0xa5 f s g && okB (tileArea (issueOf 0xa5 h0 f g s) g (s.begun g)) && (bindTiles (issueOf 0xa5 h0 f g s) 7 10 (s.begun g)).isSome) ∧
    (let s := at0 (tiled 10 (regs [(8, 16384 * 2 ^ 32), (9, 16384 * 2 ^ 32)]))
     ∀ opt ∈ [1, 2, 3], Meets 0xa7 (e (d := 7) (a := 8) (typ := 0x10) (opt := opt)) s fun g =>
      let i := issueOf 0xa7 h0 (e (d := 7) (a := 8) (typ := 0x10) (opt := opt)) g s
      free 0xa7 (e (d := 7) (a := 8) (typ := 0x10) (opt := opt)) s g && decide (g.tile 7 = some ([0], 10)) &&
        okB (quantArea i g (s.begun g) (bitAt opt 0) (g.readS 100 8).toNat) && okB (quantArea i g (s.begun g) (bitAt opt 1) (g.readS 100 9).toNat) &&
        decide (tileCtr (s.begun g) g (g.readS 100 10).toNat = .ok none)) :=
  ⟨meets_each (by decide +kernel), meets_of (by decide +kernel), meets_of (by decide +kernel), meets_each (by decide +kernel)⟩

/-- An operation on tile 0 of cluster 0, from the group. -/
def onTile0 : Op := { id := 3, core := 0, slot := 0, tenant := 0, ready := true, kind := .mat [0] .clear }
/-- The group's state with that operation. -/
def busyTile (g : Group) (b : Block := blk) : State := { at0 g b with ops := [(3, onTile0)] }

/-- Row 127, the last, of a free tile and of one that is owned, with a push port and without; row 128. -/
theorem wit_TilesAndRows_trd :
    (∀ r ∈ [127, 128], Meets 0xa2 (e (d := 4) (a := 7) (b := 20) (bm := 1) (typ := 10)) (at0 (tiled 10 (regs [(20, w64 r)]))) fun g =>
      decide (g.tile 7 = some ([0], 10)) && !tileBusy ((at0 (tiled 10 (regs [(20, w64 r)]))).begun g) 0 10 [0]) ∧
    ∀ n ∈ [1, 2], Meets 0xa2 (e (d := 4) (a := 7) (bm := 2) (typ := 10))
      (busyTile (tiled 10 { grp with binds := [{ reg := 3 + n, q := 1, push := true }] })) fun g =>
      decide (g.tile 7 = some ([0], 10)) &&
        tileBusy ((busyTile (tiled 10 { grp with binds := [{ reg := 3 + n, q := 1, push := true }] })).begun g) 0 10 [0] :=
  ⟨meets_each (by decide +kernel), meets_each (by decide +kernel)⟩

/-- `twr` of registers, and of a pop port whose ring is empty; row 128; `tfree`; `twait` of a tile at rest and of one that is not. -/
theorem wit_TilesAndRows :
    (∀ r ∈ [127, 128], Meets 0xa3 (e (d := 7) (a := 4) (b := 20) (bm := 1) (typ := 10)) (at0 (tiled 10 (regs [(20, w64 r)]))) fun g =>
      decide (g.tile 7 = some ([0], 10)) && decide ((Rules.taken g (at0 (tiled 10 (regs [(20, w64 r)]))) [4]).wait = none)) ∧
    (let s := at0 (tiled 10 { grp with binds := [{ reg := 4, q := 1, push := false }] })
     Meets 0xa3 (e (d := 7) (a := 4) (bm := 2) (typ := 10)) s fun g => decide ((Rules.taken g s [4]).wait = some 1)) ∧
    Meets 0xa6 (e (d := 7)) (at0 (tiled 10)) (fun _ => true) ∧
    Meets 0xa8 (e (d := 7)) (at0 (tiled 10)) (fun g => decide (g.tile 7 = some ([0], 10)) && (lastOn ((at0 (tiled 10)).begun g) 0 [0]).isNone) ∧
    Meets 0xa8 (e (d := 7)) (busyTile (tiled 10)) (fun g => decide (lastOn ((busyTile (tiled 10)).begun g) 0 [0] = some 3)) :=
  ⟨meets_each (by decide +kernel), meets_of (by decide +kernel), meets_of (by decide +kernel), meets_of (by decide +kernel),
   meets_of (by decide +kernel)⟩

/-! ## Quantised blocks and stream ports -/

theorem wit_QuantisedBlocks :
    Meets 0x71 (e (d := 4) (a := 8) (c := 16) (typ := 0x10) (type2 := 10) (opt := 7)) at0 (fun g => g.binds = []) ∧
    Meets 0x72 (e (d := 4) (a := 8) (c := 16) (typ := 10) (type2 := 0x10) (opt := 7)) at0 (fun g => g.binds = []) :=
  ⟨meets_of (by decide +kernel), meets_of (by decide +kernel)⟩

/-- The group with a pop port on register 8 (ring 0 has an element, ring 1 none) and a push port on register 4. -/
def ported (q : Nat) : Group := { grp with binds := [{ reg := 8, q, push := false }, { reg := 4, q := 1, push := true }] }

/-- A source waits on a ring, or all are there: every vector instruction. -/
theorem wit_StreamPorts : ∀ opc ∈ Rules.intElementwise ++ Rules.floatElementwise ++ [0x70, 0x73, 0x74, 0x75, 0x76, 0x77, 0x79] ++
      [0x1c, 0x4c, 0x60, 0x71, 0x72, 0x78],
    Meets opc (plain opc) (at0 (ported 0)) fun g =>
      (Rules.taken g (at0 (ported 0)) (Rules.sourceRegs (operands g opc (plain opc)))).wait.isNone && (opc ≠ 0x71 || decide (4 ≠ 16)) :=
  meets_each (by decide +kernel)

theorem wit_StreamPorts_waits : ∀ opc ∈ [0x50, 0x5b, 0x70, 0x1c, 0x4c, 0x71, 0x72, 0x78],
    Meets opc (plain opc) (at0 (ported 1)) fun g =>
      decide ((Rules.taken g (at0 (ported 1)) (Rules.sourceRegs (operands g opc (plain opc)))).wait = some 1) :=
  meets_each (by decide +kernel)

/-- One read and one write of a port: an element is there, none is, another bundle waits before it; a place is free, none is. -/
theorem wit_StreamPorts_port :
    let a : Gather := { g := ported 0, blk := some blk, key := 0, lanes := 1 }
    let ready (b : Block) : Bool := decide ((ringOf (getZ b.qcws 0)).count ≠ 0) && decide (b.pops 0 = [])
    let place (b : Block) : Bool := (getN b.pushed 1).isSome ||
      decide ((ringOf (getZ b.qcws 1)).count + (b.unrel 1).length < (ringOf (getZ b.qcws 1)).depth)
    a.wait = none ∧ (a.g.binds.find? fun x => x.reg = 8 && !x.push) = some { reg := 8, q := 0, push := false } ∧
    (a.g.binds.find? fun x => x.reg = 4 && x.push) = some { reg := 4, q := 1, push := true } ∧
    (blk.share (coreOfCluster blk.cluster 0)).isSome = true ∧ ready blk = true ∧
    ready { blk with popQ := [(0, [{ key := 1, lanes := 1, reg := 8 }])] } = false ∧ place blk = true ∧
    place { blk with unreleased := [(1, [(0, false), (1, false), (2, false), (3, false)])] } = false := by decide +kernel

/-! ## Handlers and scripts -/

/-- An instruction of an opcode in a form runs in a context, which meets more. -/
def Acts (opc : Nat) (f : Form) (s : State) (p : Bool) : Prop := ∃ i, view i = some (opc, h0, f) ∧ Runs opc h0 f s ∧ p = true

/-- `Acts`, as a test. -/
def acts (opc : Nat) (f : Form) (s : State) (p : Bool) : Bool :=
  match build opc h0 f with
  | some i => decide (view i = some (opc, h0, f)) && decide (s.cur.seq ≠ .group) && curBusy s && (procCheck s.cur.seq opc h0 f).isNone &&
      (s.cur.seq ≠ .folbel || decide (((s.slice s.cur.unit).ctx s.cur.sub).budget ≠ 0)) && p
  | none => false

theorem acts_of {opc : Nat} {f : Form} {s : State} {p : Bool} (t : acts opc f s p = true) : Acts opc f s p := by
  unfold acts at t
  split at t
  · next i _ =>
    simp only [Bool.and_eq_true, Bool.or_eq_true, decide_eq_true_eq, Option.isNone_iff_eq_none] at t
    obtain ⟨⟨⟨⟨⟨a, b⟩, c⟩, d⟩, e⟩, g⟩ := t
    exact ⟨i, a, ⟨b, c, d, fun h => e.resolve_left fun n => n h⟩, g⟩
  · cases t

theorem acts_each {α : Type} {xs : List α} {opc : α → Nat} {f : α → Form} {s : α → State} {p : α → Bool}
    (t : (xs.all fun x => acts (opc x) (f x) (s x) (p x)) = true) : ∀ x ∈ xs, Acts (opc x) (f x) (s x) (p x) :=
  fun _ h => acts_of (List.all_eq_true.mp t _ h)

/-- An invocation on a MSG event of the line at 0x10000, with registers. -/
def inv (xs : List (Nat × W64)) : FolbelCtx :=
  { busy := true, proc := { sregs := xs }, kind := 3, line := 0x200, pline := 0x200200, size := 4096, budget := 5, origin := some (0, 0) }

/-- The invocation runs, in context 3 of slice 0. -/
def folbel (c : FolbelCtx) : State :=
  mapped { at0 with cur := { seq := .folbel, unit := 0, sub := 3, clock := 100 }, slices := [(0, { ctxs := [{}, {}, {}, c] })] }

/-- A script runs, in context 3, with registers. -/
def script (xs : List (Nat × W64)) : State :=
  mapped { at0 with
    cur := { seq := .fabric, sub := 3, clock := 100 }
    fabric := { ctxs := [{}, {}, {}, { busy := true, proc := { sregs := xs } }], ports := [(31, { optown := 16 })] } }

/-- A context of either sequencer with registers. -/
def context (fol : Bool) (xs : List (Nat × W64)) : State := if fol then folbel (inv xs) else script xs

theorem wit_ContextScalarResult : ∀ x ∈ [true, false].flatMap fun q => ((List.range 0x17).map (· + 1)).map fun o => (q, o),
    Acts x.2 (plain x.2) (context x.1 []) true := acts_each (by decide +kernel)

theorem wit_ContextSystemRead : ∀ x ∈ [(true, 0x00), (true, 0x08), (false, 0x09), (true, 0x0a), (false, 0x0a), (true, 0x13), (false, 0x13)],
    Acts 0x1a (s1 4 x.2) (context x.1 []) true := acts_each (by decide +kernel)

theorem wit_ContextBranchResult : ∀ q ∈ [true, false],
    Acts 0x20 (s1 4 0) (context q []) (!dispBad (opndOf 0x20 (s1 4 0))) ∧ Acts 0x21 (lit 1 4 8) (context q []) (!dispBad (opndOf 0x21 (lit 1 4 8))) ∧
    Acts 0x22 (s1 0 4) (context q [(4, 0x20)]) (decide (((curProc (context q [(4, 0x20)])).get 4).toNat % 4 = 0)) ∧
    Acts 0x23 (s1 4 0) (context q []) (!dispBad (opndOf 0x23 (s1 4 0)) && decide ((curProc (context q [])).stack.length < 8)) := by
  intro q _
  cases q <;> exact ⟨acts_of (by decide +kernel), acts_of (by decide +kernel), acts_of (by decide +kernel), acts_of (by decide +kernel)⟩

theorem wit_ContextBranchResult_ret :
    let c : FolbelCtx := { inv [] with proc := { stack := [0x40] } }
    Acts 0x25 s1 (folbel c) (decide ((curProc (folbel c)).stack = [0x40])) := acts_of (by decide +kernel)

theorem wit_StaticFaults_context : ∀ q ∈ [true, false], (build 0x38 h0 e).isSome = true ∧ (context q []).cur.seq ≠ .group ∧
    curBusy (context q []) = true ∧ (procCheck (context q []).cur.seq 0x38 h0 e).isSome = true := by decide +kernel

/-- The last element of a region, of 8 bytes, sound and in error; an offset past the region, a misaligned one, one that passes its end. -/
theorem wit_ContextMemory : ∀ opc ∈ [0x18, 0x19, 0x1d],
    (let s := folbel (inv [(8, 4088)])
     let f := e (d := 4) (a := 8) (b := 9) (typ := 7)
     Acts opc f s (decide ((procRegion s).1 + 4088 = 4088) && decide (4088 + 8 ≤ (procRegion s).2) && !procBad s 4088 8)) ∧
    (let s := { folbel (inv [(8, 4088)]) with errs := [.store 0 511] }
     let f := e (d := 4) (a := 8) (b := 9) (typ := 6)
     Acts opc f s (procBad s 4088 4)) ∧
    Acts opc (e (d := 4) (a := 8) (b := 9) (typ := 7)) (folbel (inv [(8, 4096)])) (decide ((procRegion (folbel (inv [(8, 4096)]))).2 ≤ 4096)) ∧
    Acts opc (e (d := 4) (a := 8) (b := 9) (typ := 7)) (script [(8, 65533)]) (decide (65533 % 8 ≠ 0)) ∧
    Acts opc (e (d := 4) (a := 8) (b := 9) (typ := 7)) (script [(8, 65536)]) (decide ((procRegion (script [(8, 65536)])).2 < 65536 + 8)) := by
  intro opc h
  simp only [List.mem_cons, List.not_mem_nil, or_false] at h
  rcases h with rfl | rfl | rfl <;>
    exact ⟨acts_of (by decide +kernel), acts_of (by decide +kernel), acts_of (by decide +kernel), acts_of (by decide +kernel),
      acts_of (by decide +kernel)⟩

/-- Where a handler's access goes. -/
def placeIs (p : HPlace) (k : Nat) : Bool :=
  match p, k with | .mem _ _, 0 => true | .snap _, 1 => true | _, _ => false

/-- The invocation's own line and another of its tenant's; the snapshot of an EVICT event. -/
theorem wit_HandlerInstructions_memory : (∀ a ∈ [0x10078, 0x10080],
      Acts 0xc0 (e (d := 4) (a := 8) (typ := 7)) (folbel (inv [(8, w64 a)])) (placeIs (handlerPlace (folbel (inv [(8, w64 a)])) a false) 0) ∧
      Acts 0xc1 (e (d := 4) (a := 8) (typ := 7)) (folbel (inv [(8, w64 a)])) (placeIs (handlerPlace (folbel (inv [(8, w64 a)])) a true) 0)) ∧
    (let s := folbel { inv [(8, 0x10078)] with kind := 2, snap := List.replicate 128 0 }
     Acts 0xc0 (e (d := 4) (a := 8) (typ := 7)) s (placeIs (handlerPlace s 0x10078 false) 1)) := by
  refine ⟨?_, acts_of (by decide +kernel)⟩
  intro a h
  simp only [List.mem_cons, List.not_mem_nil, or_false] at h
  rcases h with rfl | rfl <;> exact ⟨acts_of (by decide +kernel), acts_of (by decide +kernel)⟩

/-- `hpref` beyond eight, of the own line, of an absent one and of a present one. -/
theorem wit_HandlerInstructions_hpref :
    Acts 0xc2 (e (a := 8)) (folbel { inv [(8, 0x10000)] with hprefs := 8 }) true ∧
    Acts 0xc2 (e (a := 8)) (folbel { inv [(8, 0x10000)] with hprefs := 7 }) true ∧
    (let s := folbel (inv [(8, 0x20000000)])
     Acts 0xc2 (e (a := 8)) s (handlerWalks s 0 0 0x20000000 && (handlerLeaf s 0 0 0x20000000 false).isNone)) ∧
    (let s := folbel (inv [(8, 0x20000)])
     Acts 0xc2 (e (a := 8)) s (handlerWalks s 0 0 0x20000 && (handlerLeaf s 0 0 0x20000 false).any fun x => x.there 0x20000)) :=
  ⟨acts_of (by decide +kernel), acts_of (by decide +kernel), acts_of (by decide +kernel), acts_of (by decide +kernel)⟩

/-- The tenant's table sends MSG events of its page to a handler. -/
def handled (s : State) : State :=
  { s with handlers := [(0, { ranges := [{ vbase := 0, vlen := 2 ^ 28, ents := [0, 0, 0, 0], budget := 9 }], size := 4096 })] }

theorem wit_HandlerInstructions_messages :
    (∀ opc ∈ [0xc3, 0xc4, 0xc5], Acts opc (e (d := 4) (a := 8) (b := if opc = 0xc3 then 9 else 0) (bm := if opc = 0xc3 then 1 else 0)
        (c := if opc = 0xc4 then 12 else if opc = 0xc5 then 0x100 else 0))
      (folbel { inv [(8, 0x10000)] with msgs := 4 }) true) ∧
    (let s := folbel { inv [(8, 1), (9, 7)] with msgs := 3 }
     Acts 0xc3 (e (d := 4) (a := 8) (b := 9) (bm := 1)) s (decide (parentBlock s 0 0 = some 0) && decide (7 < (layoutOf s blk).nctr))) ∧
    (∀ a ∈ [0x10000, 0x20000],
      let s := handled (folbel (inv [(8, w64 a)]))
      let e1 : SliceEvent := { kind := 3, tenant := 0, line := a / 128, pline := (2 ^ 28 + a) / 128, pay := (0, 0) }
      Acts 0xc4 (e (d := 4) (a := 8) (c := 12)) s (decide ((postMsg e1 s).1 = .taken) && handlerWalks s 0 0 a &&
        (handlerLeaf s 0 0 a true).any fun x => x.there a)) ∧
    (let s := folbel (inv [(8, 5)])
     Acts 0xc5 (e (d := 4) (a := 8) (c := 0x100)) s ((pushWaits (pushTo s 0 0 1 5) 0 { rec5 with pay := 0, ptype := 0, homed := true } s).isNone &&
      (kqPush (pushTo s 0 0 1 5) 0 { rec5 with pay := 0, ptype := 0, homed := true } s).isSome)) := by
  refine ⟨acts_each (by decide +kernel), acts_of (by decide +kernel), ?_, acts_of (by decide +kernel)⟩
  intro a h
  simp only [List.mem_cons, List.not_mem_nil, or_false] at h
  rcases h with rfl | rfl <;> exact acts_of (by decide +kernel)

theorem wit_HandlerInstructions_ends : Acts 0xc6 e (folbel (inv [])) true ∧ Acts 0xc7 (e (d := 4)) (folbel (inv [])) true ∧
    Acts 0xc7 (e (a := 8) (opt := 1)) (folbel (inv [])) true := ⟨acts_of (by decide +kernel), acts_of (by decide +kernel), acts_of (by decide +kernel)⟩

/-- Port 31 is the tenant's: `creq` of it and of another port; `cbar`, `crel`, `cstat`, `emsg`, `erecv`, `ctime`. -/
theorem wit_CircuitInstructions :
    (let s := script [(8, 31 * 2 ^ 28)]
     Acts 0xd0 (e (d := 4) (a := 8)) s (decide (fld ((curProc s).get 8) 27 0 = 0) && (portOf s 31).idle && decide ((portOf s 31).owner = some 0))) ∧
    (let s := script [(8, 30 * 2 ^ 28)]
     Acts 0xd0 (e (d := 4) (a := 8)) s (decide ((portOf s 30).owner ≠ some 0))) ∧
    (∀ m ∈ [0, 2 ^ 31], let s := script [(8, 63), (9, w64 m)]
     Acts 0xd2 (e (d := 4) (a := 8)) s (!foreign s m && decide ((barrierOf s 63).mask = 0) && !barBusy s 63)) ∧
    (let s := script [(8, 2 ^ 31)]
     Acts 0xd3 (e (d := 4) (a := 8)) s (!foreign s (2 ^ 31))) ∧
    Acts 0xd4 (e (d := 4) (a := 8)) (script []) true ∧
    (let s := script [(8, 1)]
     Acts 0xd5 (e (d := 4) (a := 8) (c := 12)) s (decide (fld ((curProc s).get 8) 9 0 ≠ s.regs.nodeId))) ∧
    (let s := { script [] with fabric := { (script []).fabric with recvq := [(1, { src := 1, tag := 2, p0 := 3, p1 := 4 }), (0, { src := 5, tag := 6, p0 := 7, p1 := 8 })] } }
     Acts 0xd6 (e (d := 4)) s (decide (s.fabric.recvq.findIdx? (fun m => m.1 = 0) = some 1) && !recvBehind s && !s.fabric.recvBad.contains 1)) ∧
    Acts 0xd7 (e (d := 4)) (script []) true := by
  refine ⟨acts_of (by decide +kernel), acts_of (by decide +kernel), ?_, acts_of (by decide +kernel), acts_of (by decide +kernel),
    acts_of (by decide +kernel), acts_of (by decide +kernel), acts_of (by decide +kernel)⟩
  intro m h
  simp only [List.mem_cons, List.not_mem_nil, or_false] at h
  rcases h with rfl | rfl <;> exact acts_of (by decide +kernel)

/-- `cstamp` with and without `.end`; `cawait.live` and `.dark` of no port, `.mem` of an element that has its value. -/
theorem wit_CircuitInstructions_memory :
    (∀ opt ∈ [0, 1], Acts 0xd8 (e (d := 4) (a := 8) (opt := opt)) (script [(8, 0x10000)]) (okB (scriptElem (script [(8, 0x10000)]) 0x10000 .write).1)) ∧
    (∀ opt ∈ [0, 1], Acts 0xd1 (e (d := 4) (a := 8) (opt := opt)) (script [(8, 2 ^ 31)]) (!foreign (script [(8, 2 ^ 31)]) (2 ^ 31)) ∧
      Acts 0xd1 (e (d := 4) (a := 8) (opt := opt)) (script []) true) ∧
    (let s := script [(30, 0x10000)]
     Acts 0xd1 (e (d := 4) (a := 30) (opt := 2)) s (match scriptElem s 0x10000 .read with
      | (.ok (pa, _), t) => !eccIn t pa 8 && decide (0 ≤ readNat t.mem pa 8) | _ => false)) := by
  refine ⟨acts_each (by decide +kernel), ?_, acts_of (by decide +kernel)⟩
  intro opt h
  simp only [List.mem_cons, List.not_mem_nil, or_false] at h
  rcases h with rfl | rfl <;> exact ⟨acts_of (by decide +kernel), acts_of (by decide +kernel)⟩

/-! ## Packets -/

/-- The bytes of a number, as memory from an address on. -/
def cells (at_ n v : Nat) : ZMap 8 :=
  ((List.range n).map fun i => (at_ + i, BitVec.ofNat 8 (v / 256 ^ i))).filter fun c => c.2 ≠ 0

/-- Command queue 5 of tenant 0, enabled, its ring in host memory from address 0, has one packet; `again`: the packet has been met. -/
def queued (v : Nat) (again : Bool := false) (s : State := mapped at0) : State :=
  let s := { s with regs := { s.regs with cluown := [(0, 16)], booted := true } }
  { s with
    mem := s.mem ++ cells (2 ^ 64) 64 v
    queues := [(5, { base := 1, ctl := 1, write := 1, waiting := again })]
    input := { unit := 5 } }

/-- A packet of a kind stands at the head of queue 5, and more holds of it and of the state in which it has been read. -/
def Heads (k : Nat) (again : Bool) (s : State) (q : Pkt → State → Bool) : Prop := ∃ p t, Rules.Meets k again p s t ∧ q p t = true

/-- `Heads`, as a test. -/
def heads (k : Nat) (again : Bool) (s : State) (q : Pkt → State → Bool) : Bool :=
  match readHead s.input.unit s with
  | (some p, t) => onTurn s s.input.unit && (s.queue s.input.unit).waiting == again && decide (pkind p.v = k) && wellKind p.v && stampGood t p.v &&
      (k = 5 || orderedOk p t) && q p t
  | _ => false

theorem heads_of {k : Nat} {again : Bool} {s : State} {q : Pkt → State → Bool} (h : heads k again s q = true) : Heads k again s q := by
  unfold heads at h
  split at h
  · next p t e =>
    simp only [Bool.and_eq_true, Bool.or_eq_true, decide_eq_true_eq, beq_iff_eq] at h
    obtain ⟨⟨⟨⟨⟨⟨a, b⟩, c⟩, d⟩, f⟩, g⟩, i⟩ := h
    exact ⟨p, t, ⟨a, b, e, c, d, f, g⟩, i⟩
  · cases h

theorem heads_each {α : Type} {xs : List α} {k : α → Nat} {again : α → Bool} {s : α → State} {q : α → Pkt → State → Bool}
    (t : (xs.all fun x => heads (k x) (again x) (s x) (q x)) = true) : ∀ x ∈ xs, Heads (k x) (again x) (s x) (q x) :=
  fun _ h => heads_of (List.all_eq_true.mp t _ h)

/-- A LAUNCH of one group of 16 scalar registers; a GANG of one role, read at 0x10000; a COPY of one byte; a KCQ_CFG that resets. -/
def launchPkt : Nat := 1 + 2 ^ 96 + 2 ^ 112
def gangPkt : Nat := 2 + 2 ^ 112 + 0x10000 * 2 ^ 128
def copyPkt : Nat := 6 + 2 ^ 64 + 0x10000 * 2 ^ 128 + 0x20000 * 2 ^ 192
def kcqPkt : Nat := 10 + 2 ^ 24 + 2 ^ 25 + 2 ^ 26 + 12 * 2 ^ 128

/-- The bytes of a tenant's address are read. -/
def reads (t : State) (va n : Nat) (q : List Byte → State → Bool) : Bool :=
  match readSpan 0 va n t with | (.ok bs, u) => q bs u | _ => false

theorem wit_PacketStarts :
    Heads 0 false (queued 0) (fun _ _ => true) ∧
    Heads 1 false (queued launchPkt) (fun p t => launchOk (packetLaunch p t [Rules.soleRole p] 0) && everFits t (packetLaunch p t [Rules.soleRole p] 0)) ∧
    Heads 2 false (queued gangPkt false { mapped at0 with mem := (mapped at0).mem ++ [(0x1001000a, 1)] }) (fun p t =>
      packetHere t 0x10000 && reads t 0x10000 16 fun bs u => match (wordsOf 16 1 bs).map roleEntry with
        | [some r] => launchOk (packetLaunch p u [r] 0) && everFits u (packetLaunch p u [r] 0) | _ => false) ∧
    Heads 6 false (queued copyPkt) (fun p t => decide (pfld p.v 64 32 = 1) && packetHere t (pfld p.v 128 64) && packetHere t (pfld p.v 192 64)) ∧
    Heads 10 false (queued kcqPkt) (fun p t => !kcqBad t p.tenant p.v) :=
  ⟨heads_of (by decide +kernel), heads_of (by decide +kernel), heads_of (by decide +kernel), heads_of (by decide +kernel),
   heads_of (by decide +kernel)⟩

/-- A WAIT of each condition, that holds and that does not, on a word of host memory and on one of the tenant. -/
def waitPkt (cond host ref : Nat) : Nat := 3 + cond * 2 ^ 16 + host * 2 ^ 19 + 0x10000 * 2 ^ 64 + ref * 2 ^ 128

theorem wit_PacketWaits_wait : ∀ x ∈ [true, false].flatMap fun again => [0, 1, 2, 3].flatMap fun cond => [0, 1].flatMap fun host =>
      [0, 1].map fun ref => (again, cond, host, ref),
    Heads 3 x.1 (queued (waitPkt x.2.1 x.2.2.1 x.2.2.2) x.1) fun p t =>
      decide (pfld p.v 16 3 = x.2.1) && (x.2.2.1 = 1 || (packetHere t 0x10000 && reads t 0x10000 8 fun _ _ => true)) :=
  heads_each (by decide +kernel)

/-- A word of the tenant can be written. -/
def writes (t : State) (va : Nat) (bs : List Byte) : Bool := match writeSpan 0 va bs t with | (.ok _, _) => true | _ => false

theorem wit_PacketWaits_signal :
    Heads 4 false (queued (4 + 2 ^ 18 + 7 * 2 ^ 128)) (fun p _ => decide (pfld p.v 18 1 = 1)) ∧
    Heads 4 false (queued (4 + 0x10000 * 2 ^ 64 + 7 * 2 ^ 128)) (fun _ t => packetHere t 0x10000 && writes t 0x10000 (toBytes 8 7)) ∧
    Heads 4 false (queued (4 + 2 ^ 16 + 0x10000 * 2 ^ 64 + 7 * 2 ^ 128))
      (fun _ t => packetHere t 0x10000 && reads t 0x10000 8 fun bs u => writes u 0x10000 (toBytes 8 (ofBytes bs + 7))) :=
  ⟨heads_of (by decide +kernel), heads_of (by decide +kernel), heads_of (by decide +kernel)⟩

/-- The head of the queue is read, and more holds. -/
def headIs (s : State) (q : Pkt → State → Bool) : Bool := match readHead s.input.unit s with | (some p, t) => q p t | _ => false

/-- A FENCE met, and one whose set has completed; a packet that has been held and is met again. -/
theorem wit_PacketWaits_fence :
    Heads 5 false (queued 5) (fun _ _ => true) ∧
    (let s := { queued 5 true with queues := [(5, { base := 1, ctl := 1, write := 1, waiting := true, fence := some [(5, 3)] })] }
     (s.queue s.input.unit).fence ≠ none ∧ onTurn s s.input.unit = true ∧ headIs s (fun p t =>
      decide (pkind p.v = 5) && decide ((t.queue p.q).fence = some [(5, 3)]) && orderedOk p t && !(openRuns t 5).contains (5, 3)) = true) ∧
    Heads 0 true (queued 0x100 true) (fun _ t => decide ((t.queue 5).fence = none)) :=
  ⟨heads_of (by decide +kernel), by decide +kernel, heads_of (by decide +kernel)⟩

/-- A packet with a reserved field; one that has completed, without a stamp and with one; a LAUNCH, a COLL and a DESTROY that are over. -/
theorem wit_PacketEnds :
    (let s := queued 0x10000
     onTurn s s.input.unit = true ∧ headIs s (fun p _ => !wellKind p.v) = true) ∧
    (let r : Run := { id := 3, pos := 0, kind := 0, stamp := none, addr := 0, done := true }
     let s := { mapped at0 with queues := [(5, { ctl := 1, runs := [r] })], input := { unit := 5 } }
     (s.queue 5).runs[s.input.idx]? = some r ∧ r.done = true) ∧
    writes (mapped at0) 0x10000 (toBytes 8 1) = true ∧
    launchEnded 0 3 { at0 with launches := [(1, { lau with gx := 1, gy := 1, gz := 1, pos := 3, next := lau.total, done := lau.total })] } = some 1 ∧
    (let c : Comm := { tenant := 0, id := 7, nroute := 1, stage := 0, rt := 0, rtlen := 1, failed := true, colls := [
        { seq := 0, queue := 5, pos := 3, addr := 0, orig := false, rop := 0, wtype := 2, nvisit := 1, count := 1, stype := 2, src := 0, dst := 0,
          recAddr := 0x10000, digest := 0 }] }
     let s := { mapped at0 with comms := [(7, c)] }
     collOf 5 3 s = some (7, 0) ∧ (endColl 7 0 s).1 = true) ∧
    destroyed 5 3 { at0 with comms := [(7, { tenant := 0, id := 7, nroute := 1, stage := 0, rt := 0, rtlen := 1, destroy := some (5, 3) })] } = some 7 := by
  decide +kernel

/-- A COLL of one i32 of communicator 7, of any member and of the origin. -/
def collPkt (orig : Nat) : Nat := 7 + orig * 2 ^ 16 + 7 * 2 ^ 32 + 2 * 2 ^ 48 + 2 ^ 56 + 2 ^ 64 + 2 * 2 ^ 120

theorem wit_CollectivePackets :
    (∀ o ∈ [0, 1], Heads 7 false (queued (collPkt o) false { mapped at0 with comms := [(7, { tenant := 0, id := 7, nroute := 1, stage := 0, rt := 0, rtlen := 1 })] })
      fun p t => (getN t.comms (commKey p.tenant 7)).isSome && !collBad t p.v) ∧
    Heads 8 false (queued (8 + 7 * 2 ^ 32 + 16 * 2 ^ 48 + 0x10000 * 2 ^ 64 + 0x800000 * 2 ^ 128 + 2 ^ 192)) (fun p t =>
      (getN t.comms (commKey p.tenant 7)).isNone && packetHere t 0x10000 && packetHere t 0x800000 &&
        match pagesBad p.tenant .write true (pagesOf 0x10000 (16 * 131072)) t with
        | (none, u) => (pagesBad p.tenant .read false (pagesOf 0x800000 64) u).1.isNone | _ => false) ∧
    Heads 8 false (queued (8 + 2 ^ 16 + 7 * 2 ^ 32) false { mapped at0 with comms := [(7, { tenant := 0, id := 7, nroute := 1, stage := 0, rt := 0, rtlen := 1 })] })
      (fun p t => match getN t.comms (commKey p.tenant 7) with | some c => decide (c.destroy = none) | none => false) ∧
    Heads 9 false (queued (9 + 4 * 2 ^ 32 + 0x10000 * 2 ^ 64)) (fun _ t => packetHere t 0x10000 &&
      decide (t.fabric.ctxs.findIdx? (fun c => !c.busy) = some 0) && reads t 0x10000 4 fun _ _ => true) :=
  ⟨heads_each (by decide +kernel), heads_of (by decide +kernel), heads_of (by decide +kernel), heads_of (by decide +kernel)⟩

theorem wit_UnknownCommunicator : Heads 7 false (queued (collPkt 0)) (fun p t => (getN t.comms (commKey p.tenant (pfld p.v 32 16))).isNone) :=
  heads_of (by decide +kernel)

/-! ## The host -/

/-- Registers after boot. -/
def up : HostRegs := { booted := true }

/-- A doorbell within the ring and one beyond it; QCTL with EN set on an idle and on an enabled queue, and cleared; FQCTL; a refusal of
demands, of an address here and of one elsewhere; a held record that has room. -/
theorem wit_HostRegisters :
    (let x : Queue := { ctl := 1 }
     x.enabled = true ∧ (1 + 2 ^ 32 - x.write) % 2 ^ 32 ≤ 2 ^ 31 ∧ (1 + 2 ^ 32 - x.read % 2 ^ 32) % 2 ^ 32 ≤ x.size ∧
      (2 + 2 ^ 32 - x.write) % 2 ^ 32 ≤ 2 ^ 31 ∧ ¬ (2 + 2 ^ 32 - x.read % 2 ^ 32) % 2 ^ 32 ≤ x.size) ∧
    2 ^ 31 < (0 + 2 ^ 32 - ({ ctl := 1, write := 1 } : Queue).write) % 2 ^ 32 ∧
    (up.booted = true ∧ up.bootStat = 0 ∧ ({} : Queue).enabled = false ∧ ({ ctl := 1 } : Queue).enabled = true) ∧
    up.dead = false ∧ (∀ d y, (d, y) ∈ ([(0, {})] : NMap Station) → y.enabled = false) ∧
    refusing { at0 with dies := [(3, {})] } = false ∧
    (({ at0 with dies := [(3, { refusal := some 7 })] } : State).die 3).refusal = some 7 ∧
    nodeOf (fld (0 : W64) 63 16 * 65536) = at0.regs.nodeId ∧ nodeOf (fld (2 ^ 53 : W64) 63 16 * 65536) ≠ at0.regs.nodeId ∧
    ({ fqCtl := 1 } : HostRegs).fqBlocked = false := by
  refine ⟨by decide, by decide, by decide, by decide, ?_, by decide +kernel, by decide +kernel, by decide, by decide, by decide⟩
  intro d y h
  simp only [List.mem_singleton, Prod.mk.injEq] at h
  obtain ⟨-, rfl⟩ := h
  decide

/-- Three images in flash; GO of an idle unit, and a report that is due. -/
theorem wit_PowerAndBoot :
    (∃ a b c, ({ boot := List.replicate 3 { body := [], digest := [], version := 0, signature := [], key := [] } } : Input).boot = [a, b, c]) ∧
    up.repBusy = false ∧ up.dead = false ∧ ({ repBusy := true } : HostRegs).repBusy = true :=
  ⟨⟨_, _, _, rfl⟩, by decide, by decide, by decide⟩

/-- A line that a handler holds. -/
def heldLine : L2Line := { held := true }

/-- The last byte of the window's first line, read and written, free and held; host translations and their invalidation. -/
theorem wit_HostMemory :
    (127 + 1 ≤ 2 ^ 28 ∧ nearPA 127 = true ∧ (∀ i, i = 0 → l2Free at0 i = true)) ∧
    (windowServe (.read 127 1) { at0 with l2 := [(0, heldLine)] }).isNone = true ∧ (windowServe (.read 127 1) at0).isSome = true ∧
    (∃ e ∈ [(5, 6)], ([(5, 6)] : List (Nat × Nat)).find? (fun e => e.1 = 5) = some e ∧ hostPageUsed at0 e.2 = false) :=
  ⟨⟨by decide, by decide, fun i h => by subst h; decide +kernel⟩, by decide +kernel, by decide +kernel, _, List.mem_singleton.mpr rfl, by decide +kernel⟩

/-! ## Launches and pre-emption -/

/-- A launch of one group, and a gang; core 0 of cluster 0 for tenant 0. -/
def tiny : Launch := { lau with roles := [{ entry := 0, ng := 1, vg := 16, sg := 16, nt := 0, persist := false }] }
def ready : State := { launches := [(1, tiny)], regs := { up with cluown := [(0, 16)] } }

/-- A state in which no launch is before launch 1. -/
theorem placeable_one {l : Launch} {s : State} (h : getN s.launches 1 = some l) (t : l.next < l.total) (k : l.ticket = none)
    (st : stopped s l.tenant = false) (o : s.launches.all fun x => decide (1 ≤ x.1)) : Rules.placeable 1 l s := by
  refine ⟨h, t, k, st, fun j m hm hj => ?_⟩
  exact absurd (of_decide_eq_true (List.all_eq_true.mp o (j, m) hm)) (by omega)

theorem wit_LaunchEvents_place :
    (Rules.placeable 1 tiny ready ∧ (arrange ready 1 tiny).isSome = true) ∧
    (let s := { ready with regs := up }
     Rules.placeable 1 tiny s ∧ arrange s 1 tiny = none) ∧
    (let s := { ready with regs := up, launches := [(1, { tiny with gang := true })] }
     Rules.placeable 1 { tiny with gang := true } s ∧ arrange s 1 { tiny with gang := true } = none) ∧
    (claimsMet { ready with reserves := [(0, { launch := 1, cores := [0] })] } 1 tiny [0] 0 1).isSome = true ∧
    clusterTenant { ready with regs := up } (clusterOf 0) ≠ some 0 :=
  ⟨⟨placeable_one (by decide) (by decide) (by decide) (by decide) (by decide), by decide +kernel⟩,
   ⟨placeable_one (by decide) (by decide) (by decide) (by decide) (by decide), by decide +kernel⟩,
   ⟨placeable_one (by decide) (by decide) (by decide) (by decide) (by decide), by decide +kernel⟩, by decide +kernel, by decide +kernel⟩

/-- A block with no group left; a clock that is a multiple of 4 and one that is not; a block whose lanes have all been parked for 65536
clocks. -/
theorem wit_LaunchEvents :
    (let s := at0 grp { blk with live := [] }
     getN s.blocks 0 = some { blk with live := [] } ∧ scratchLeft s 0 = false ∧ getN s.launches 1 = some lau) ∧
    (let b : Block := { blk with stall := { since := some 0 } }
     let g : Group := { grp with bundles := [], lanes := List.replicate 64 { park := some .kpop } }
     let s : State := { at0 g b with cores := [(0, { cycle := 65536 })] }
     getN s.blocks 0 = some b ∧ blockStalled s 0 b = true ∧ 0 + 65536 ≤ (s.core 0).cycle) := by decide +kernel

/-- A save, one merged into it and one that comes during a restore; a block that is quiet, a save that is over, a restore of an area with
a block to place, and one whose image is in error. -/
theorem wit_Preemption :
    (let j : Preempt := { restore := false, tenants := [0], area := 0 }
     let g : Group := { grp with supervisor := false }
     let s := { at0 g with job := some j }
     getN s.blocks 0 = some blk ∧ blk.tenant ∈ j.tenants ∧ canSeal s 0 blk = true) ∧
    (∀ k b, (k, b) ∈ (at0 grp { blk with image := some [] }).blocks → b.tenant ∈ [0] → b.image.isSome = true) ∧
    (let b : Block := { blk with image := some [(0, grp)], live := [0], area := 65536 }
     let s : State := { (at0 grp b) with groups := [], job := some { restore := true, tenants := [0], area := 65536 }, ecc := [8192] }
     restoring s b = true ∧ imageError s b = none ∧ placesFree s b [(0, grp)] = true ∧
      imageError s { b with span := (65536, 8) } = some 65536) := by
  refine ⟨by decide +kernel, ?_, by decide +kernel⟩
  intro k b h _
  have h : (k, b) = (0, { blk with image := some [] }) := List.mem_singleton.mp h
  cases h
  rfl

/-! ## Memory events -/

/-- The page of tenant 0 in a TLB. -/
def page0 : Xlat := { tenant := 0, vpage := 0, large := true, pte := 0x1000041f, pteAt := 0x110000 }

/-- An access of lane 0 to the 8 bytes at 0x10000, translated, or to scratchpad offset 0. -/
def access (kind : AccKind) (scratch : Bool := false) : Access :=
  { id := 5, owner := 5, core := 0, slot := 0, tenant := 0, kind, pc := 0x1000, lanes := 1, typ := 7, scalar := true,
    reqs := [{ lane := 0, pos := 0, va := if scratch then 0 else 0x10000, size := 8, dst := 4, tr := if scratch then .scratch else .found page0 }] }

/-- The key of an access's one line. -/
def keyOf (a : Access) : Nat := (a.reqs.map Req.key).headD 0

/-- The line of that address. -/
def line0 : Nat := (2 ^ 28 + 0x10000) / 128

/-- A state with the access, and the line in L2 where it is there. -/
def accessing (a : Access) (there : Bool := true) : State :=
  { mapped at0 with accs := [(5, a)], l2 := if there then [(line0, {})] else [], cores := [(0, { cycle := 256 })] }

/-- Requests of the access may be performed, and more holds. -/
def Performing (key : Nat) (s : State) (q : Access → Req → State → Bool) : Prop :=
  ∃ a r rs t, Rules.Performs 5 key a (r :: rs) s t ∧ q a r t = true

/-- `Performing`, as a test. -/
def performing (key : Nat) (s : State) (q : Access → Req → State → Bool) : Bool :=
  match getN (settleAccess 5 s).accs 5 with
  | some a => !a.parked && a.released && !stampwOpen (settleAccess 5 s) a.core a.slot a.tenant a.id &&
      match readyReqs a key with | r :: _ => q a r (settleAccess 5 s) | [] => false
  | none => false

theorem performing_of {key : Nat} {s : State} {q : Access → Req → State → Bool} (h : performing key s q = true) : Performing key s q := by
  unfold performing at h
  split at h
  · next a e =>
    simp only [Bool.and_eq_true, Bool.not_eq_true'] at h
    obtain ⟨⟨⟨b, c⟩, d⟩, g⟩ := h
    split at g
    · next r rs f => exact ⟨a, r, rs, _, ⟨rfl, e, b, c, d, f⟩, g⟩
    · cases g
  · cases h

/-- A line of an access is in its slice. -/
def lineThere (s : State) (pline : Nat) : Bool := l2Ready s pline

/-- A queued store of the group: 8 bytes of the same line, from virtual addresses, and a marker. -/
def store0 : Store := { id := 3, dest := .virt 0x200, parts := [{ lane := 0, pos := 0, va := 0x10000, bytes := toBytes 8 7 }], tr := .found page0, lanes := 1, fate := true }

theorem wit_StoresAndLoads_commit :
    (∃ g rest, ({ at0 { grp with storeQ := [store0] } with accs := [] } : State).group (gkey 0 0) = some g ∧ g.storeQ = store0 :: rest ∧
      Rules.Commits 0 0 g store0 (at0 { grp with storeQ := [store0] })) ∧
    (let e : Store := { store0 with pline := line0, bytes := [some 7] }
     let s := { accessing (access .load) with cores := [(0, { commitQ := [e] })] }
     (s.core 0).commitQ[0]? = some e ∧ mayPerform s 0 ((s.core 0).commitQ.take 0) e = true) := by
  refine ⟨⟨{ grp with storeQ := [store0] }, [], by decide +kernel, by decide +kernel, ⟨by decide, ?_, by decide +kernel, by decide +kernel,
    by decide +kernel, ?_, fun _ => by decide +kernel, by decide +kernel⟩⟩, by decide +kernel⟩
  · intro o h; cases h
  · intro l h
    have e : store0.loc (at0 { grp with storeQ := [store0] }) 0 = some line0 := by decide +kernel
    cases (show some line0 = some l from e ▸ h)
    decide +kernel

/-- Operations that have been released: `ctrset`, `qpost`, `kdone`. -/
theorem wit_StoresAndLoads_ops : ∀ k ∈ [OpKind.ctr 0 7 0 1 2, .post 5 (List.replicate 8 0) 4, .kdone 31 4095 0],
    getN ({ at0 with ops := [(3, { id := 3, core := 0, slot := 0, tenant := 0, ready := true, kind := k })] } : State).ops 3 =
      some { id := 3, core := 0, slot := 0, tenant := 0, ready := true, kind := k } := fun _ _ => rfl

theorem wit_StoresAndLoads_reads :
    Performing (keyOf (access .load true)) (accessing (access .load true)) (fun a r t =>
      decide (r.tr = .scratch) && orderFree t a (scratchLoc t (accBlock t a) r.core (r.va / 128)) &&
        !scratchBusy t a.core (accBlock t a) r.core (r.va / 128) && !commitBusy t a.core (scratchLoc t (accBlock t a) r.core (r.va / 128))) ∧
    (∀ k ∈ [AccKind.load, .pref true, .pref false, .stampw 7 1 false], Performing (keyOf (access k)) (accessing (access k)) fun a r t =>
      decide (r.tr = .found page0) && decide (page0.pa (128 * (keyOf (access k))) / 128 = line0) && loadFree t a line0 && lineThere t line0) ∧
    Performing (keyOf (access (.stampw 7 1 false))) { accessing (access (.stampw 7 1 false)) with ecc := [16 * line0] } (fun a r t =>
      loadFree t a line0 && reqBad t a r) :=
  ⟨performing_of (by decide +kernel), fun k h => performing_of (by
      have t : ([AccKind.load, .pref true, .pref false, .stampw 7 1 false].all fun k => performing (keyOf (access k)) (accessing (access k)) fun a r t =>
        decide (r.tr = .found page0) && decide (page0.pa (128 * (keyOf (access k))) / 128 = line0) && loadFree t a line0 && lineThere t line0) = true := by
        decide +kernel
      exact List.all_eq_true.mp t _ h), performing_of (by decide +kernel)⟩

theorem wit_StoresAndLoads_atomics : ∀ k ∈ [AccKind.cas, .atom 0],
    Performing (keyOf (access k)) (accessing (access k)) (fun a r t => decide (ownStores t a = []) && decide (olderLoads t a.core a.slot a.id = []) &&
      decide ((inLaneOrder a [r]).head? = some r) && !commitBusy t a.core line0 && !aheadAt t a.core line0 && l2Ready t line0) ∧
    Performing (keyOf (access k true)) (accessing (access k true)) (fun a r t => decide (r.tr = .scratch) && decide (ownStores t a = []) &&
      !combShut t a.core (accBlock t a) { id := 5, tenant := a.tenant, dest := .scratch r.core 0 } && !scratchBusy t a.core (accBlock t a) r.core 0 && !commitBusy t a.core (scratchLoc t (accBlock t a) r.core 0)) := by
  intro k h
  simp only [List.mem_cons, List.not_mem_nil, or_false] at h
  rcases h with rfl | rfl <;> exact ⟨performing_of (by decide +kernel), performing_of (by decide +kernel)⟩

/-- Walks of tenant 0 that end in a leaf, in a wait and in a fault; a miss with a tag and without; fills of either; a prefetch; an old
line of a combining buffer. -/
theorem wit_LinesAndWalks :
    (let w : WalkReq := { tenant := 0, vpage := 1 }
     let s := { mapped at0 with dies := [(0, { walks := [w] })] }
     (s.die 0).walks[0]? = some w ∧ w.wait = none ∧ walkOpen s 0 0 0x10000 = true ∧ (walk s 0 0 0x10000 matches .found _) = true ∧
      (walk s 0 0 (2 ^ 28) matches .wait _ _) = true ∧ (walk at0 0 0 0x10000 matches .fault _) = true) ∧
    (missOf (accessing (access .load) false) { idx := 5, aux := (keyOf (access .load)) } = some (line0, some (0, 0x200), false) ∧
      missOf (accessing (access (.pref true)) false) { idx := 5, aux := (keyOf (access .load)) } = some (line0, none, false) ∧
      getN (accessing (access .load) false).l2 line0 = none) ∧
    (getN [(line0, { filling := true, tag := some (0, 0x200) })] line0 = some ({ filling := true, tag := some (0, 0x200) } : L2Line) ∧
      (postEvent 0 { kind := 1, tenant := 0, line := 0x200, pline := 16 } at0).1 = .unmatched ∧
      (postEvent 0 { kind := 1, tenant := 0, line := 0x200, pline := 16 } (handled at0)).1 = .taken ∧
      (postEvent 0 { kind := 1, tenant := 0, line := 0x200, pline := 16 }
        { handled at0 with slices := [(0, { queue := List.replicate 64 { kind := 0, tenant := 0, line := 0, pline := 0 } })] }).1 = .full) ∧
    nodeOf 0 = at0.regs.nodeId ∧
    (let l : CombLine := { core := 0, tenant := 0, line := 5, bytes := [], since := 0 }
     l.since + 256 ≤ ((accessing (access .load)).core l.core).cycle) := by decide +kernel

/-- A stash window of one entry at the stash area's start, which is being filled. -/
def stashBlk : Block :=
  { blk with shares := [{ core := 0, low := 0, slots := [0], windows := [(7, { off := 32768, base := 0x10000, len := 128, entries := [{ filling := true }] })] }] }

/-- A lane waits for its refill: four return addresses at 0x10000. -/
def refill : Access :=
  { (access .refill) with reqs := (List.range 4).map fun n => { lane := 0, pos := n, va := 0x10000 + 8 * n, size := 8, dst := 0, tr := .found page0 } }

theorem wit_TimersAndFills :
    (let g : Group := { grp with mwaitTill := some 256 }
     g.mwaitTill = some 256 ∧ 256 ≤ ((accessing (access .load)).core 0).cycle) ∧
    (let s := accessing refill
     let t := settleAccess 5 s
     getN t.accs 5 = some refill ∧ refill.parked = false ∧ refill.reqs ≠ [] ∧ stampwOpen t 0 0 0 5 = false ∧
      (refill.reqs.all fun r => loadFree t refill (page0.pa r.va / 128) && !reqBad t refill r && lineThere t (page0.pa r.va / 128)) = true) ∧
    (let a := access (.stashFill 0 7 0)
     let s := { accessing a with blocks := [(0, stashBlk)] }
     getN s.accs 5 = some a ∧ (stashBlk.share 0).isSome = true ∧ commitBusy s 0 line0 = false ∧ lineThere s line0 = true ∧
      (a.reqs.all fun r => !reqBad s a r) = true ∧ (a.reqs.all fun r => reqBad { s with ecc := [16 * line0] } a r) = true) ∧
    (let s := accessing (access .load)
     touchesPage s 0 (pageSpan true 0x20000000).1 (pageSpan true 0x20000000).2 (lineOfPage s true 0x50000000 0x20000000) = false ∧
      (pageWriteBack (lineOfPage s true 0x10000400 0) s).1 = []) ∧
    (let l : L1Line := { pline := line0, mode := 0, tenant := 0, data := List.replicate 128 0, dirty := true :: List.replicate 127 false }
     let s := { accessing (access .load) with cores := [(0, { l1 := [l] })], errs := [.l1 0 line0 0] }
     (pageWriteBack (lineOfPage s true 0x10000400 0) s).1 ≠ []) := by decide +kernel

/-! ## Engines and queues -/

/-- An operation of the group that has been released. -/
def op (k : OpKind) : Op := { id := 3, core := 0, slot := 0, tenant := 0, ready := true, kind := k }
/-- The mapped state with that operation. -/
def opState (k : OpKind) : State := { mapped at0 with ops := [(3, op k)] }

/-- A copy of one row of 4097 bytes, and a slice of it that has been pushed. -/
def copy0 (dst : CopyTo) : Copy := { unit := 0, src := 0x10000, dst, rows := 1, rowBytes := 4097, sstride := 0, dstride := 0 }
def slice0 : Slice4K := { idx := 0, len := 4096, pieces := [{ place := 0x20000, va := 0x20000, hc := false, bytes := [some 7, none] }], va := 0x20000 }

/-- A copy may act. -/
theorem copyActs_of {c : Copy} (stopped : c.stopped = false) (bar : c.bar = none) : Rules.copyActs (op (.copy c)) c (opState (.copy c)) :=
  ⟨rfl, rfl, rfl, rfl, stopped, fun b h => by rw [bar] at h; cases h⟩

theorem wit_EngineEvents_push :
    (let c : Copy := { copy0 (.gl 0x20000) with out := [{ slice0 with flying := false }] }
     Rules.copyActs (op (.copy c)) c (opState (.copy c)) ∧ c.out.find? (fun y => !y.flying) = some { slice0 with flying := false } ∧
      Rules.undrained (opState (.copy c)) none) ∧
    (let c : Copy := { copy0 (.gl 0x20000) with next := 2 }
     Rules.copyActs (op (.copy c)) c (opState (.copy c)) ∧ c.out = [] ∧ c.slices ≤ c.next) ∧
    (∀ dst ∈ [CopyTo.sp 0 0, .gl 0x20000], let c : Copy := copy0 dst
     let s := opState (.copy c)
     Rules.copyActs (op (.copy c)) c s ∧ c.next < c.slices ∧ permitFree s (op (.copy c)) c = true ∧ slicePort s c c.next = none ∧
      (prepSlice (op (.copy c)) c (c.cut 4096 4096 0) [] s).1 matches .ok _) ∧
    (let c : Copy := { copy0 (.gl 0x20000) with src := 0x10000 }
     (prepSlice (op (.copy c)) c (c.cut 4096 4096 0) [] { opState (.copy c) with ecc := [16 * line0] }).1 matches .bad _ _ _) := by
  refine ⟨⟨copyActs_of rfl rfl, by decide, fun _ h => by cases h⟩, ⟨copyActs_of rfl rfl, by decide, by decide⟩, fun dst h => ?_, by decide +kernel⟩
  simp only [List.mem_cons, List.not_mem_nil, or_false] at h
  rcases h with rfl | rfl <;> exact ⟨copyActs_of rfl rfl, by decide, by decide +kernel, by decide +kernel, by decide +kernel⟩

/-- A line of a slice that is sound, and one that covers part of a granule in error, in the scratchpad and in memory. -/
theorem wit_EngineEvents_written : ∀ dst ∈ [CopyTo.sp 0 0, .gl 0x20000],
    let c : Copy := { copy0 dst with out := [slice0] }
    let s := opState (.copy c)
    let p : Piece := { place := 0x20000, va := 0x20000, hc := false, bytes := [some 7, none] }
    c.out.find? (fun z => z.idx = 0) = some slice0 ∧ slice0.pieces[0]? = some p ∧ shareOpen s 0 0 = true ∧ l2Free s (p.place / 128) = true ∧
      pieceBad s (op (.copy c)) c p = false ∧
      pieceBad { s with ecc := [0x4000], errs := [.scratch 0 0 0x4000] } (op (.copy c)) c p = true := by
  intro dst h
  simp only [List.mem_cons, List.not_mem_nil, or_false] at h
  rcases h with rfl | rfl <;> decide +kernel

/-- A fill that has read its lines, one that reads them, one that meets an error and one whose page is not there. -/
theorem wit_EngineEvents_fill :
    let f : Fill := { launch := 1, va := 0x10000, len := 128, doff := 0, ictr := 7, tctr := 7, cores := [0], lines := some [some []] }
    let vas := (List.range (f.len / 128)).map fun n => f.va + 128 * n
    0 ∈ f.cores ∧ (launchBlocks (opState (.fill f)) 1 0).all (shareOpen (opState (.fill f)) · 0) = true ∧
      ((fillLines (op (.fill f)) vas [] (opState (.fill f))).1 matches .ok [some _]) = true ∧
      ((fillLines (op (.fill f)) vas [] { opState (.fill f) with ecc := [16 * line0] }).1 matches .ok [none]) = true ∧
      ((fillLines (op (.fill f)) vas [] { opState (.fill f) with regs := {} }).1 matches .error (.bad _ _ _)) = true := by decide +kernel

/-- An acknowledged slice of a peer copy; a barrier that has not been live for 4 ms; a pass and a tile-port operation that are over. -/
theorem wit_EngineEvents_ends :
    (let c : Copy := { copy0 (.peer (2 ^ 53)) with out := [slice0], bar := some 0 }
     let s := { opState (.copy c) with fabric := { clock := 4000000 } }
     c.out.find? (fun z => z.idx = 0) = some slice0 ∧ slice0.flying = true ∧ opActive s (op (.copy c)) = true ∧ barLive s 0 = false ∧
      c.since + 4000000 ≤ s.fabric.clock) ∧
    (let m : Mma := { a := (0, 0, 64), b := (0, 0, 64), sa := none, sb := none, k := 32, inf := false, atype := 8, btype := 8, prio := 0, passes := 1 }
     let s := { opState (.mat [0] (.mma m)) with mats := [(0, { pass := some (3, 0), port := some (3, 0) })] }
     (s.mat 0).pass = some (3, 0) ∧ (s.mat 0).port = some (3, 0) ∧ 0 ≤ (s.core 0).cycle) := by decide +kernel

/-- A `kpop` that waits. -/
def waiter : KWait := { id := 5, lanes := 1, d := 8, acq := none, pc := 0x1000 }

theorem wit_QueueEvents_arrival :
    (let s := { opState (.push 0 rec5 0) with kcqs := [] }
     queuedBefore s (op (.push 0 rec5 0)) 0 = false ∧ pushWaits 0 0 rec5 s = none ∧ (kqPush 0 0 rec5 s).isSome = true) ∧
    (let full : Kcq := { sets := [(kset 100000, (List.range 8).map fun j => (j, { rec5 with key := w64 j }))] }
     let r : KRec := { rec5 with key := 100000 }
     let s := { opState (.push 0 r 0) with kcqs := [(0, full)] }
     pushWaits 0 0 r s = none ∧ kqPush 0 0 r s = none) ∧
    (∀ x ∈ [(true, 1), (false, 65534), (true, 0), (false, 65535)],
      let s := { opState (.khold 0 x.1 0) with kcqs := [(0, { hold := x.2 })] }
      queuedBefore s (op (.khold 0 x.1 0)) 0 = false ∧ (s.kcq 0).hold = x.2) := by decide +kernel

/-- A waiter finds nothing, a record, a record in error; the queue has ended. -/
theorem wit_QueueEvents_claim :
    let s := { at0 { grp with kwaits := [waiter] } with kcqs := [(0, oneRec)] }
    popWaiters s 0 = [(0, waiter)] ∧ (s.kcq 0).saved = false ∧ (s.kcq 0).tickets.length < 4096 ∧
      (claim 0 0 { s with kcqs := [] } matches .nothing) = true ∧ (claim 0 0 s matches .record _ _) = true ∧
      (claim 0 0 { s with errs := [.krec 0 0 0] } matches .bad _ _) = true ∧ (takeTicket 0 0 s).isSome = true ∧
      kqEnded { s with kcqs := [] } 0 = true := by decide +kernel

/-- A `qpost` to a queue that is disabled, full, of host memory, and of a tenant's. -/
theorem wit_QueueEvents_post :
    let o := op (.post 5 (List.replicate 8 0) 4)
    let s := opState (.post 5 (List.replicate 8 0) 4)
    o.ready = true ∧ opActive s o = true ∧ (s.queue 5).ctl.getLsbD 0 = false ∧
      (let y : Queue := { ctl := 1, write := 1 }
       y.ctl.getLsbD 0 = true ∧ y.ctl.getLsbD 1 = false ∧ y.count = y.size) ∧
      (let y : Queue := { ctl := 1, base := 1 }
       y.count ≠ y.size ∧ y.base.getLsbD 0 = true) ∧
      (let y : Queue := { ctl := 1, base := 0x10000 }
       let s := s.updQueue 5 fun _ => y
       y.count ≠ y.size ∧ (match engineDst 0 none (y.at y.write) s with
        | (.ok (pa, _), t) => l2Free t (pa / 128) && decide (t.queue 5 = y) | _ => false) = true) := by decide +kernel

/-! ## Handlers -/

/-- A MISS event whose record is sound, and one in error, that match a range; one that matches none. -/
theorem wit_HandlerEvents_dispatch : ∀ bad ∈ [true, false],
    let ev : SliceEvent := { kind := 0, tenant := 0, line := 0x200, pline := 16, bad }
    let s := { handled at0 with slices := [(0, { queue := [ev] })] }
    let t := refillMsgs 0 s
    (t.slice 0).ctxs.findIdx? (fun c => !c.busy) = some 0 ∧ nextEvent t 0 (t.slice 0).queue [] 0 = some (0, ev) ∧
      (matchEvent t ev).isSome = true ∧ matchEvent { t with handlers := [] } ev = none := by decide +kernel

theorem wit_HandlerEvents :
    (let s := opState (.msg 0x10000 (1, 2) 0)
     opActive s (op (.msg 0x10000 (1, 2) 0)) = true ∧ ((walkNow s 0 0x10000 (op (.msg 0x10000 (1, 2) 0)).issuer .write).1 matches .found _) = true) ∧
    (let s : State := { at0 with slices := [(0, { clock := 8192, ctxs := [{ inv [] with waitSince := some (0, 5) }] })] }
     ((s.slice 0).ctx 0).busy = true ∧ 0 + 8192 ≤ (s.slice 0).clock) ∧
    (at0.handler 0).busy = false ∧ handlersBusy at0 0 = false ∧ handlersBusy (folbel (inv [])) 0 = true ∧
    (checkTable 0 { at0 with mem := [(0, 1)] }) = none ∧ (checkTable 0 at0).isSome = true ∧
    (let s : State := { at0 with handlers := [(0, { busy := true, checked := some ([], 0, 0, 0) })] }
     (s.handler 0).busy = true ∧ handlersBusy s 0 = false ∧ (s.handler 0).checked = some ([], 0, 0, 0)) := by decide +kernel

/-! ## Stations, hoists and circuits -/

/-- A request of 64 bytes of a station to node 1, in a state. -/
def pkt (st : PktState) (tc : Nat := 1) : Packet :=
  { id := 9, node := 1, tc, count := 64, podasid := 0, tenant := 0, kind := some (.read 0x10000 64), cargo := .part 3 0 64, st }
/-- Station 1, enabled, its link up, with packets. -/
def station (ps : List Packet) : State := { mapped at0 with stations := [(1, { ctl := 1, up := true, pkts := ps, clock := 2000000 })] }
/-- A peer's request. -/
def request (k : RemoteKind) : RemoteRequest := { podasid := 0, src := 1, tag := 3, kind := k }

theorem wit_Stations_send :
    ((station [pkt .queued 0]).station 1).head 0 = some (pkt .queued 0) ∧
    (let y := (station [pkt .queued]).station 1
     y.enabled = true ∧ y.up = true ∧ y.head 0 = none ∧ (y.pick 64 y.deficit y.drr).isSome = true ∧ (∀ p ∈ y.pkts, p.doom = none)) ∧
    (let y := ({ station [{ pkt .queued with doom := some 0x30 }] with lost := [1] } : State).station 1
     { y with up := false }.up = false ∧ (y.pkts.filter fun p => p.doom.isSome).length = 1) ∧
    (pktOf (station [pkt .replay]) 1 9 = some (pkt .replay) ∧ (pkt .replay).reply = false ∧
      ({ pkt .replay with cargo := .response 3 [] } : Packet).reply = true) := by decide +kernel

/-- An access to a line of node 1. -/
def remoteAccess (kind : AccKind) : Access :=
  { (access kind) with reqs := [{ lane := 0, pos := 0, va := 2 ^ 53, size := 8, dst := 4, tr := .remote }] }

theorem wit_Stations_piece : ∀ k ∈ [AccKind.load, .refill, .atom 0],
    ∃ a r t, Rules.PieceReady 5 (2 ^ 53 / 128) a r [] (accessing (remoteAccess k)) t ∧
      ((atomicKind a r).isNone = true ∨ (ownStores t a = [] ∧ olderLoads t a.core a.slot a.id = [] ∧ aheadAt t a.core (remoteLoc (r.va / 128)) = false)) := by
  intro k h
  refine ⟨remoteAccess k, { lane := 0, pos := 0, va := 2 ^ 53, size := 8, dst := 4, tr := .remote }, settleAccess 5 (accessing (remoteAccess k)), ?_⟩
  simp only [List.mem_cons, List.not_mem_nil, or_false] at h
  rcases h with rfl | rfl | rfl <;>
    exact ⟨⟨rfl, by decide +kernel, by decide, by decide, by decide +kernel, by decide +kernel, by decide +kernel, by decide +kernel,
      by decide +kernel⟩, by decide +kernel⟩

/-- A pull of 256 bytes whose packet is next at its station, and one that has none left there. -/
theorem wit_Stations_xfer :
    let y : Xfer := { pull := true, core := some 0, off := 0, va := 2 ^ 53, len := 256, tc := 2, node := 1, ctr := none, left := 256 }
    let o := op (.xfer y)
    let s := opState (.xfer y)
    getN s.ops 3 = some o ∧ o.ready = true ∧ opActive s o = true ∧ saving s 0 = false ∧ (s.station 0).pkts = [] ∧
      (y.seek (stationOf (2 ^ 53)) 5 0).isSome = true ∧ y.seek (stationOf (2 ^ 53)) 5 256 = none := by decide +kernel

/-- A slice of a peer over a circuit that is live. -/
theorem wit_Stations_slice :
    let s := { accessing (access .load) with fabric := { ports := [(31, { st := 3, peerNode := 1, optown := 16 })] } }
    let ps : List (W64 × List (Option Byte)) := [(0x10000, List.replicate 128 (some 7))]
    (portOf s 31).st = 3 ∧ (portOf s 31).peerNode = (request (.slice ps)).src ∧ ps ≠ [] ∧ (∀ p ∈ ps, p.2 ≠ []) ∧
      ps.foldl (fun n p => n + p.2.length) 0 ≤ 4096 ∧ tenantOf (heardFrom 1 s) 0 = some 0 ∧ tenantOf (heardFrom 1 s) 5 = none ∧
      (serve { req := request (.slice ps), tenant := 0, port := some 31 } s matches .answer _ _) = true := by decide +kernel

/-- A peer's request of 256 bytes, of a tenant that is here and of one that is not, is taken; it is answered, refused, and waits. -/
theorem wit_Stations_serve :
    (kindSize (.read 0x10000 256) = 256 ∧ tenantOf (station []) 0 = some 0 ∧ tenantOf (station []) 5 = none) ∧
    (∀ q ∈ (([{ req := request (.read 0x10000 64), tenant := 0 }] : List Incoming).take 0), ({ req := request (.read 0x10000 64), tenant := 0 } : Incoming).meets q = false) ∧
    (serve { req := request (.read 0x10000 64), tenant := 0 } (accessing (access .load)) matches .answer _ _) = true ∧
    (serve { req := request (.read 0x20000000 64), tenant := 1 } (station []) matches .refuse _ _) = true ∧
    (serve { req := request (.read 0x20000000 64), tenant := 0 } (station []) matches .wait _ _) = true ∧
    (let p := pkt .custody
     pktOf (station [p]) 1 9 = some p ∧ ((p.kind.map answerSpan).getD (0, 0)).2 = 64 ∧ answerOpen (station [p]) p = true) ∧
    pktOf (station []) 1 9 = none := by decide +kernel

/-- A hoist of communicator 7 on its way over port 31. -/
def hoist : Hoist :=
  { tenant := 0, satcnt := 0, count := 4, digest := 0, seq := 0, comm := 7, tc := 1, wtype := 2, origin := 1, pens := [0], payload := toBytes 4 5 }
def comm : Comm := { tenant := 0, id := 7, nroute := 1, stage := 0x10000, rt := 0, rtlen := 1 }
/-- Its communicator, with a copy in a state and a COLL. -/
def hoisting (st : HState) : State :=
  { mapped at0 with
    comms := [(7, { comm with
      copies := [{ id := 4, h := hoist, x := [5], st }]
      colls := [{ seq := 0, queue := 5, pos := 3, addr := 0, orig := true, rop := 0, wtype := 2, nvisit := 1, count := 1, stype := 2, src := 0x10000,
                  dst := 0x20000, recAddr := 0x30000, digest := 0 }] })]
    fabric := { clock := 4000000, ports := [(31, { st := 3, peerNode := 1, optown := 16 })] } }

theorem wit_Stations_links :
    (let c : Comm := { comm with copies := [{ id := 4, h := hoist, x := [5], st := .flying 31 1 0 }] }
     getN [(commKey 0 7, c)] (commKey 0 7) = some c ∧ (flightOf { mapped at0 with comms := [(7, c)] } (commKey 0 7) 4).isSome = true) ∧
    (let s := station [{ pkt .replay with sentAt := 0 }]
     pktOf s 1 9 = some (pkt .replay) ∧ (pkt .replay).sentAt + 2000000 ≤ (s.station 1).clock ∧ 1 ∉ s.lost) ∧
    (let p : Packet := { pkt .queued with count := 70000, waited := 1000000 }
     let s := station [p, { pkt .replay with id := 10 }]
     (s.station 1).permits p = false ∧ 1000000 ≤ p.waited ∧ ((s.station 1).win 1).posted = false) ∧
    (let y : Station := { ctl := 1, downAt := some 0, clock := 1000000 }
     y.enabled = true ∧ y.up = false ∧ y.dead = false ∧ 0 + 1000000 ≤ y.clock) := by decide +kernel

/-- A hoist's arrival: behind another of its sender, of no tenant, of no communicator, of a failed one, whole over a circuit, its message and
its write packet. -/
theorem wit_HoistEvents_arrival :
    (let x : Input := { hoist := some hoist, word := 1 }
     [x].any (sameHoist x) = true) ∧
    tenantOf (mapped at0) 5 = none ∧ getN (mapped at0).comms (commKey 0 7) = none ∧
    (hoist.pens ≠ [] ∧ hoist.pens.length ≤ 6 ∧ hoist.count * (widthOf (hoistType hoist) / 8) = 4 ∧ hoist.payload.length = 4) ∧
    (comm.holds 0 0 = false ∧ comm.arrival 1 0 0 = none ∧ (stagingAt comm 0 0 0 4 (mapped at0)).1.isSome = true) ∧
    (let b : Arrival := { id := 6, slot := 0, src := 1, tags := [2], msgs := [0], h := { hoist with payload := [] } }
     ({ comm with arrivals := [b] } : Comm).arrival 1 0 0 = some b ∧ 0 / 4096 ∈ b.msgs) := by decide +kernel

/-- An arrival that is whole; a copy to be struck, the origin's, one to be sent over stations, and over a circuit that is live or not. -/
theorem wit_HoistEvents :
    (let b : Arrival := { id := 6, slot := 0, src := 1, tags := [2], msgs := [0], got := [0], h := hoist }
     b.full = true ∧ b.struck = false) ∧
    (∀ st ∈ [HState.strike, .origin 0, .send 1 0 false 0, .send 1 0 true 0],
      ∃ c y, getN (hoisting st).comms (commKey 0 7) = some c ∧ c.failed = false ∧ c.copies.find? (fun y => y.id = 4) = some y ∧ y.st = st ∧
        (c.coll y.h.seq).isSome = true ∧ ∀ z ∈ c.copies, ¬ z.id < y.id) ∧
    circuitPort (hoisting .strike) 0 1 = some 31 ∧ circuitPort (hoisting .strike) 0 2 = none ∧ 0 + 4000000 ≤ (hoisting .strike).fabric.clock := by
  refine ⟨by decide +kernel, fun st h => ?_, by decide +kernel, by decide +kernel, by decide +kernel⟩
  refine ⟨_, _, rfl, rfl, rfl, rfl, rfl, fun z h => ?_⟩
  cases List.mem_singleton.mp h
  exact Nat.lt_irrefl 4

/-- A port in each state, at the limits of its times; a message of a tenant, with room and without; a wait whose limit has come. -/
theorem wit_CircuitEvents :
    (let w : W64 := 2 + 31 * 2 ^ 28 + 5 * 2 ^ 48
     let y : Port := { pend := true, handle := 5 }
     fld w 32 28 = 31 ∧ y.st = 0 ∧ y.pend = true ∧ fld w 7 0 = 2 ∧ fld w 27 18 = at0.regs.nodeId ∧ fld w 63 48 = y.handle ∧
      fld w 47 38 = y.peerNode ∧ fld w 37 33 = y.peerPort) ∧
    fld (3 + 31 * 2 ^ 28 : W64) 7 0 = 3 ∧
    (let y : Port := { st := 1, since := 0 }
     40000 ≤ y.since + 40000 ∧ y.since + 40000 < 40001) ∧
    (({ st := 2, peerNode := 1 } : Port).peerNode = 1 ∧ ({ st := 2 } : Port).peerPort = 0) ∧
    portCarries at0 31 = false ∧
    (([] : List Input).any (fun y => y.msg.isSome) = false ∧ tenantOf (mapped at0) 0 = some 0 ∧ tenantOf (mapped at0) 5 = none ∧
      (List.replicate 64 (0, ({ src := 1, tag := 2, p0 := 3, p1 := 4 } : Emsg))).length = 64 ∧
      [({ msg := some { src := 1, tag := 2, p0 := 3, p1 := 4 } } : Input)].any (fun y => y.msg.isSome) = true) ∧
    (let s := { at0 with fabric := { clock := 9, ctxs := [{ waitSince := some (0, 9, true) }] } }
     (s.script 0).waitSince = some (0, 9, true) ∧ 0 + 9 ≤ s.fabric.clock) := by decide +kernel

/-! ## Memory, records and words -/

/-- A memory of two bytes, one of them the last; one that is not in order, and one that lists what an unlisted address reads as. -/
theorem wit_BytesOfMemory : Memory.wf [(3, 5), (2 ^ 64 - 1, 1)] = true ∧ Memory.wf [(3, 5), (2, 1)] = false ∧ Memory.wf [(3, 0)] = false := by
  decide +kernel

/-- The fault queue is disabled, has room, has none, and has room across the wrap of READ. -/
theorem wit_FaultRecords :
    let room (h : HostRegs) : Bool :=
      h.fqCtl.getLsbD 0 && decide ((h.fqWrite.toNat + 2 ^ 32 - h.fqRead.toNat % 2 ^ 32) % 2 ^ 32 ≠ 2 ^ fld h.fqCtl 7 4)
    Memory.wf State.reset.mem = true ∧ room State.reset.regs = false ∧ room { fqCtl := 0x41 } = true ∧
      room { fqCtl := 0x41, fqWrite := 16 } = false ∧ room { fqCtl := 0x41, fqWrite := 14, fqRead := 2 ^ 32 - 1 } = true := by decide +kernel

theorem wit_RegisterInstructionsLeaveMemory :
    view (.sadd h0 1 2) = some (3, h0, .single 1 2) ∧ 3 ∈ Rules.registerOnly ∧ (exec (.sadd h0 1 2) at0 matches .next _) = true := by decide +kernel

theorem wit_EncodeDecode : wellFormed (.sadd h0 1 2) = true ∧ wellFormed (.kpop h0 (.ext (Rules.plainExt 8 0 0 0))) = true := by decide +kernel

theorem wit_DecodeEncode : (decode [0x0404000c] matches .ok (_, 1)) = true ∧ (decode [0x000c0006, 0x55667788, 0x11223344] matches .ok (_, 3)) = true ∧
    (decode [0x000000e3, 0xc0001404, 0x00000c00, 1, 0x80000000] matches .ok (_, 5)) = true := by decide +kernel

theorem wit_MemoryStaysCanonical :
    Memory.wf (State.reset.withFetchWord 32 0).mem = true ∧ (step (State.reset.withFetchWord 32 0) matches .next _) = true := by decide +kernel

/-! ## The step -/

/-- An instruction of one word issues in a bundle; so does a word that is no instruction. -/
theorem wit_StepRuns_core : ∀ w ∈ [(0 : Nat), 0xfffffffc],
    let s := State.reset.withFetchWord 32 w
    let u := (withheld (regroupAt 0 0 s)).2
    s.schedule = [] ∧ s.turn = .core 0 ∧ s.regs.thermStat.getLsbD 0 = false ∧ (s.core 0).phase = 0 ∧
      (withheld (regroupAt 0 0 s)).1 = false ∧ candidates u 0 0 = [(0, BitVec.allOnes 64)] ∧
      (match u.group (gkey 0 0) with
        | some g =>
          lowest (BitVec.allOnes 64) = some 0 &&
          (match fetchWords 0 g.tenant (g.lane 0).pc (g.bundle (BitVec.allOnes 64)).lines
              { u with cur := { unit := 0, sub := 0, lanes := BitVec.allOnes 64, pc := (g.lane 0).pc, clock := (u.core 0).cycle } } with
            | (.words ws line line2, v) =>
              let x := Rules.fetched ws (holdLine 0 0 (BitVec.allOnes 64) line line2 v)
              (match decode ws with
                | .ok (i, _) =>
                  (match exec i x with | .next t => !t.cur.held && !(nextPhase 0 t).hole | _ => false) && decide (w = 0)
                | .error e => !(reject e ws x).cur.held && !(nextPhase 0 (reject e ws x)).hole && decide (w ≠ 0))
            | _ => false)
        | none => false) = true := by decide +kernel

/-- A context of a Folbel core and one of the fabric processor issue; the contexts before it are idle. -/
theorem wit_StepRuns_contexts :
    (let s := State.reset.withFetchWord 96 (0x00000000000000000000000000000319)
     let s := s.updSlice 0 fun y => { y with next := 3, ctxs := y.ctxs }
     let x := Rules.contextTurn .folbel 0 (s.slice 0).clock 0 s
     s.schedule = [] ∧ s.turn = .folbel 0 ∧ s.regs.thermStat.getLsbD 0 = false ∧ rounds (s.slice 0).next = [3] ++ 0 :: [1, 2] ∧
      curBusy { s with cur := { seq := .folbel, unit := 0, sub := 3, clock := (s.slice 0).clock } } = false ∧
      curBusy x = true ∧ ¬ (s.slice 0).clock < (curProc x).readyAt ∧
      (match procWords x with
        | some ws => !procWordsBad ws x &&
            (match decode ws with
              | .ok (i, _) => (match exec i (Rules.fetched ws x) with | .next t => !t.cur.held && !t.hole | _ => false)
              | .error _ => false)
        | none => false) = true) ∧
    (let s := State.reset.withFetchWord 96 0x0000000000000005_0000035d
     let x := Rules.contextTurn .fabric 0 s.fabric.clock 0 s
     s.schedule = [] ∧ s.turn = .fabric ∧ s.regs.thermStat.getLsbD 0 = false ∧ rounds s.fabric.next = [] ++ 0 :: [1, 2, 3] ∧
      curBusy x = true ∧ ¬ s.fabric.clock < (curProc x).readyAt ∧
      (match procWords x with
        | some ws => !procWordsBad ws x &&
            (match decode ws with
              | .ok (i, _) => (match exec i (Rules.fetched ws x) with | .next t => !t.cur.held && !(drainLimits t).hole | _ => false)
              | .error _ => false)
        | none => false) = true) := by decide +kernel

/-- An event of a running device, one of the host's on a stopped one, an upset, and a stopped device with nothing to do. -/
theorem wit_StepRuns_events :
    view .registerWrite = none ∧ State.reset.regs.thermStat.getLsbD 0 = false ∧ fromOutside .registerWrite {} = true ∧
      (exec .registerWrite State.reset matches .next _) = true ∧
      (∀ u ∈ [Upset.corrected, .memory 5], (applyUpset u State.reset).hole = false) ∧
      (let s : State := { State.reset with regs := { State.reset.regs with thermStat := 1 } }
       s.schedule = [] ∧ s.regs.thermStat.getLsbD 0 = true ∧ s.hole = false) ∧
      ({ State.reset with schedule := [.turn .fabric] } : State).schedule = [.turn .fabric] := by decide +kernel

theorem wit_StepAnswers : ∀ a ∈ [Turn.core 127, .folbel 63, .fabric, .station 3],
    ({ State.reset with turn := a } : State).schedule = [] ∧
      (match a with | .core c => c < 128 | .folbel n => n < 64 | .fabric => True | .station d => d < 4) := by
  intro a h
  simp only [List.mem_cons, List.not_mem_nil, or_false] at h
  rcases h with rfl | rfl | rfl | rfl <;> exact ⟨rfl, by simp⟩

/-! ## What WellFormed refuses (R419 steps 2 and 5 to 9) -/

/-- An extended form of a test. -/
def ex (d a b c typ : Nat := 0) (opt rm bm type2 : Nat := 0) : Multi :=
  .ext { type2 := BitVec.ofNat 5 type2, pitch := 0, bm := BitVec.ofNat 2 bm, b := BitVec.ofNat 10 b, a := BitVec.ofNat 10 a,
         d := BitVec.ofNat 10 d, cols := 0, rows := 0, mod := BitVec.ofNat 8 (8 * opt + rm), typ := BitVec.ofNat 5 typ, c := BitVec.ofNat 10 c }

/-- `vcvt` has no single form (R220). -/
theorem test_wf_form : wellFormed (.vcvt h0 (.lit 1 2 3)) = false := by decide +kernel
/-- C is unused in `vadd` with BM 00 (R147). -/
theorem test_wf_field : wellFormed (.vaddExt h0 (ex 4 5 6 1 2)) = false ∧ wellFormed (.vaddExt h0 (ex 4 5 6 0 2)) = true := by decide +kernel
/-- `vadd` takes no floating TYPE (R209), and no TYPE is reserved code 0x0D (R152). -/
theorem test_wf_type : wellFormed (.vaddExt h0 (ex 4 5 6 0 0x0a)) = false ∧ wellFormed (.vfaddExt h0 (ex 4 5 6 0 0x0d)) = false := by decide +kernel
/-- RM 5 is reserved (R127), and INF stands for binary8 alone (R153). -/
theorem test_wf_rounding : wellFormed (.vfaddExt h0 (ex 4 5 6 0 0x0a 0 5)) = false ∧ wellFormed (.vfaddExt h0 (ex 4 5 6 0 0x0a 16 0)) = false := by
  decide +kernel
/-- `pgmode` defines OPT 1 to 3 (R201). -/
theorem test_wf_opt : wellFormed (.pgmode h0 (ex 4 5 0 0 0 4)) = false ∧ wellFormed (.pgmode h0 (ex 4 5 0 0 0 3)) = true := by decide +kernel
/-- BM 11 needs a form with a literal (R148). -/
theorem test_wf_bm : wellFormed (.vaddExt h0 (ex 4 5 0 0 2 0 0 3)) = false := by decide +kernel
/-- OPT 2 of 0xD1 is `cawait.mem` and no other row (R357). -/
theorem test_wf_row : wellFormed (.cawait h0 (ex 4 5 0 0 0 2)) = false ∧ wellFormed (.cawaitMem h0 (ex 4 5 0 0 0 2)) = true := by decide +kernel
/-- Reserved bits 31:29 of word 2, a reserved opcode, a word too few (R147, R159, R143). -/
theorem test_decode_refuses : decode [0x000000e1, 0x00601404, 0x20000800] = .error .nonzeroField ∧ decode [0x34 * 4] = .error .reservedOpcode ∧
    decode [0x000000e3, 0xc0001404, 0x00000c00, 1] = .error .truncated := by decide +kernel
/-- An event has no words. -/
theorem test_wf_event : wellFormed .registerWrite = false := by decide +kernel

/-! ## Words written out from R143 to R159 -/

/-- `bra` by −1 word: OFFSET in bits 31:18 (R146); `yield`, opcode 0x2D. -/
theorem test_decode_control : decode [0xfffc0080] = .ok (.bra h0 (-1), 1) ∧ decode [0x2d * 4] = .ok (.yieldI h0, 1) := by decide +kernel
/-- `vadd.i64 v4, v5, 0x8000000000000001` (LEN 11, BM 11). -/
theorem test_decode_literal : decode [0x000000e3, 0xc0001404, 0x00000c00, 1, 0x80000000] = .ok (.vaddExt h0 (.extLit
    { type2 := 0, pitch := 0, bm := 3, b := 0, a := 5, d := 4, cols := 0, rows := 0, mod := 0, typ := 3, c := 0 } 0x8000000000000001), 5) := by
  decide +kernel
/-- `vfma.f32 v4, v5, v6, v7`, opcode 0x5B. -/
theorem test_decode_float : decode [0x0000016d, 0x00601404, 0x00002807] = .ok (.vfma h0 (ex 4 5 6 7 0x0a), 3) := by decide +kernel
/-- `vcvt` from f32 to f16: TYPE2 in bits 28:24 of word 0. -/
theorem test_decode_convert : decode [0x0a0001c1, 0x00001404, 0x00002000] = .ok (.vcvt h0 (ex 4 5 0 0 8 0 0 0 0x0a), 3) := by decide +kernel
/-- `vquant` with `.sel3`, to format 0x12 from f32, scales in v7: OPT in bits 21:18 of word 2. -/
theorem test_decode_quant : decode [0x0a0001c5, 0x00001404, 0x000c4807] = .ok (.vquant h0 (ex 4 5 0 7 0x12 3 0 0 0x0a), 3) := by decide +kernel
/-- `ld.i32 v4, m1[v5]`: MREC in bits 3:0 of C (R232). -/
theorem test_decode_load : decode [0x00000201, 0x00001404, 0x00000801] = .ok (.ld h0 (ex 4 5 0 1 2), 3) := by decide +kernel
/-- `mma t2, s5`. -/
theorem test_decode_matrix : decode [0x00000281, 0x00001402, 0x00000000] = .ok (.mma h0 (ex 2 5), 3) := by decide +kernel
/-- `hlrd.i32 s4, ln[s5+8]`: BM 10, the immediate in C. -/
theorem test_decode_slice : decode [0x00000301, 0x80001404, 0x00000808] = .ok (.hlrd h0 (ex 4 5 0 8 2 0 0 2), 3) := by decide +kernel
/-- `creq s4, s5`, and `cawait.mem s4, s5`: OPT 2. -/
theorem test_decode_circuit : decode [0x00000341, 0x00001404, 0x00000000] = .ok (.creq h0 (ex 4 5), 3) ∧
    decode [0x00000345, 0x00001404, 0x00080000] = .ok (.cawaitMem h0 (ex 4 5 0 0 0 2), 3) := by decide +kernel
/-- `pgmode.2 s4, s5`, WBACK. -/
theorem test_decode_supervisor : decode [0x00000385, 0x00001404, 0x00080000] = .ok (.pgmode h0 (ex 4 5 0 0 0 2), 3) := by decide +kernel

/-! ## One instruction -/

/-- `sadd` of −1 and 1 wraps to 0, in the lanes' scalar register (R168). -/
theorem test_sadd_wraps :
    (match exec (.sadd h0 1 2) (at0 (regs [(1, -1), (2, 1)])) with | .next t => (t.group 0).map fun g => getZ g.sregs 1 | _ => none) = some 0 := by
  decide +kernel

/-- FIPS 180-4: SHA-256 of "abc" (R366). -/
theorem test_sha256 : sha256 [0x61, 0x62, 0x63] =
    [0xba, 0x78, 0x16, 0xbf, 0x8f, 0x01, 0xcf, 0xea, 0x41, 0x41, 0x40, 0xde, 0x5d, 0xae, 0x22, 0x23,
     0xb0, 0x03, 0x61, 0xa3, 0x96, 0x17, 0x7a, 0x9c, 0xb4, 0x10, 0xff, 0x61, 0xf2, 0x00, 0x15, 0xad] := by decide +kernel

end Sys2Proof.Tests
end

section
/-!
SUPPORT. The memory of a state is canonical (R2, R69): the predicate on a state, and on what an operation may answer instead of a state.
-/

namespace Sys2Proof.Laws

open Sys2Proof.Machine

/-- The memory of a state is in its canonical form. -/
def MemWf (s : State) : Prop := Memory.wf s.mem = true

/-- The memory of an optional state is in its canonical form. -/
def OptWf (o : Option State) : Prop := ∀ t, o = some t → MemWf t

/-- The memory of an optional state beside another value is in its canonical form. -/
def OptPairWf {β : Type} (o : Option (β × State)) : Prop := ∀ b t, o = some (b, t) → MemWf t

/-- The state that the effect of a context's instruction leaves; a fault leaves the state as it was. -/
def leftBy : PRes → Option State
  | .done _ t => some t
  | .wait t => some t
  | .over t => some t
  | .fault _ _ _ => none

/-- The memory that the effect of a context's instruction leaves is in its canonical form. -/
def PResWf (r : PRes) : Prop := OptWf (leftBy r)

/-- The state that a claim of an entry leaves. -/
def leftByClaim : Claimed → Option State
  | .nothing => none
  | .wait t => some t
  | .record _ t => some t
  | .bad _ t => some t

/-- The memory that a claim of an entry leaves is in its canonical form. -/
def ClaimedWf (c : Claimed) : Prop := OptWf (leftByClaim c)

/-- The state that a served request leaves. -/
def leftByServed : Served → State
  | .answer _ t => t
  | .wait _ t => t
  | .refuse _ t => t

/-- The memory that a served request leaves is in its canonical form. -/
def ServedWf (r : Served) : Prop := MemWf (leftByServed r)

/-! ## One rule per answer -/

theorem optWf_some {t : State} (h : MemWf t) : OptWf (some t) := fun _ e => Option.some.inj e ▸ h
theorem optWf_none : OptWf none := fun _ e => absurd e.symm (Option.some_ne_none _)
theorem optPairWf_some {β : Type} {p : β × State} (h : MemWf p.2) : OptPairWf (some p) := by
  intro b t e
  obtain rfl := Option.some.inj e
  exact h
theorem optPairWf_none {β : Type} : OptPairWf (β := β) none := fun _ _ e => absurd e.symm (Option.some_ne_none _)
theorem presWf_done {p : Proc} {t : State} (h : MemWf t) : PResWf (.done p t) := optWf_some h
theorem presWf_wait {t : State} (h : MemWf t) : PResWf (.wait t) := optWf_some h
theorem presWf_over {t : State} (h : MemWf t) : PResWf (.over t) := optWf_some h
theorem presWf_fault {c n : Nat} {a : W64} : PResWf (.fault c n a) := optWf_none
theorem claimedWf_nothing : ClaimedWf .nothing := optWf_none
theorem claimedWf_wait {t : State} (h : MemWf t) : ClaimedWf (.wait t) := optWf_some h
theorem claimedWf_record {r} {t : State} (h : MemWf t) : ClaimedWf (.record r t) := optWf_some h
theorem claimedWf_bad {r} {t : State} (h : MemWf t) : ClaimedWf (.bad r t) := optWf_some h
theorem servedWf_answer {r} {t : State} (h : MemWf t) : ServedWf (.answer r t) := h
theorem servedWf_wait {r} {t : State} (h : MemWf t) : ServedWf (.wait r t) := h
theorem servedWf_refuse {r} {t : State} (h : MemWf t) : ServedWf (.refuse r t) := h

theorem memWf_snd {β : Type} {b : β} {t : State} (h : MemWf t) : MemWf (b, t).2 := h
/-! ## The state that an equation names -/

theorem MemWf.of_eq {β : Type} {p : β × State} {b : β} {t : State} (hp : MemWf p.2) (e : p = (b, t)) : MemWf t := by
  subst e; exact hp
theorem OptWf.of_eq {o : Option State} {t : State} (ho : OptWf o) (e : o = some t) : MemWf t := ho t e
theorem OptPairWf.of_eq {β : Type} {o : Option (β × State)} {b : β} {t : State} (ho : OptPairWf o) (e : o = some (b, t)) :
    MemWf t := ho b t e
theorem PResWf.of_done {o : PRes} {p : Proc} {t : State} (ho : PResWf o) (e : o = .done p t) : MemWf t := by
  subst e; exact ho t rfl
theorem PResWf.of_wait {o : PRes} {t : State} (ho : PResWf o) (e : o = .wait t) : MemWf t := by
  subst e; exact ho t rfl
theorem PResWf.of_over {o : PRes} {t : State} (ho : PResWf o) (e : o = .over t) : MemWf t := by
  subst e; exact ho t rfl
theorem ClaimedWf.of_wait {o : Claimed} {t : State} (ho : ClaimedWf o) (e : o = .wait t) : MemWf t := by
  subst e; exact ho t rfl
theorem ClaimedWf.of_record {o : Claimed} {r} {t : State} (ho : ClaimedWf o) (e : o = .record r t) : MemWf t := by
  subst e; exact ho t rfl
theorem ClaimedWf.of_bad {o : Claimed} {r} {t : State} (ho : ClaimedWf o) (e : o = .bad r t) : MemWf t := by
  subst e; exact ho t rfl
theorem ServedWf.of_answer {o : Served} {r} {t : State} (ho : ServedWf o) (e : o = .answer r t) : MemWf t := by
  subst e; exact ho
theorem ServedWf.of_refuse {o : Served} {r} {t : State} (ho : ServedWf o) (e : o = .refuse r t) : MemWf t := by
  subst e; exact ho

/-! ## Folds and options -/

/-- A fold of steps that keep memory canonical keeps it. -/
theorem memWf_foldl {α : Type} {f : State → α → State} {l : List α} (hf : ∀ s x, MemWf s → MemWf (f s x))
    {s : State} (h : MemWf s) : MemWf (l.foldl f s) := by
  induction l generalizing s with
  | nil => exact h
  | cons x l ih => exact ih (hf _ x h)

/-- The same for a fold that gathers a value beside the state. -/
theorem memWf_foldl_snd {α β : Type} {f : β × State → α → β × State} {l : List α} (hf : ∀ r x, MemWf r.2 → MemWf (f r x).2)
    {r : β × State} (h : MemWf r.2) : MemWf (l.foldl f r).2 := by
  induction l generalizing r with
  | nil => exact h
  | cons x l ih => exact ih (hf _ x h)

theorem optWf_map {g : State → State} {o : Option State} (hg : ∀ t, MemWf t → MemWf (g t)) (ho : OptWf o) : OptWf (o.map g) := by
  cases o with
  | none => exact optWf_none
  | some t => exact optWf_some (hg t (ho t rfl))

theorem optWf_map_pair {β : Type} {g : β × State → State} {o : Option (β × State)} (hg : ∀ p, MemWf p.2 → MemWf (g p))
    (ho : OptPairWf o) : OptWf (o.map g) := by
  cases o with
  | none => exact optWf_none
  | some p => exact optWf_some (hg p (ho p.1 p.2 rfl))

theorem optWf_map_of_forall {α : Type} {g : α → State} {o : Option α} (hg : ∀ x, MemWf (g x)) : OptWf (o.map g) := by
  cases o with
  | none => exact optWf_none
  | some x => exact optWf_some (hg x)

theorem memWf_getD {o : Option State} {d : State} (ho : OptWf o) (hd : MemWf d) : MemWf (o.getD d) := by
  cases o with
  | none => exact hd
  | some t => exact ho t rfl

/-- A fact about every value, at one value: hides the value from the kernel. -/
theorem of_forall {α : Type} {P : α → Prop} (H : ∀ x, P x) (a : α) : P a := H a

/-- A record update that leaves memory, or that puts a canonical one: the fields stand apart, as an update leaves them. -/
theorem memWf_mk {m a1 a2 a3 a4 a5 a6 a7 a8 a9 a10 a11 a12 a13 a14 a15 a16 a17 a18 a19 a20 a21 a22 a23 a24
    a25 a26 a27 a28 a29 a30 a31 a32 a33 a34 a35 a36 a37 a38 a39 a40 a41 a42 a43 a44 a45 a46 a47}
    (h : Memory.wf m = true) :
    MemWf ⟨m, a1, a2, a3, a4, a5, a6, a7, a8, a9, a10, a11, a12, a13, a14, a15, a16, a17, a18, a19, a20, a21, a22, a23, a24,
      a25, a26, a27, a28, a29, a30, a31, a32, a33, a34, a35, a36, a37, a38, a39, a40, a41, a42, a43, a44, a45, a46, a47⟩ := h

end Sys2Proof.Laws
end

section
/-!
SUPPORT. The rules of the named changes of the state: none but a write, a record and a reset touches memory.
-/

namespace Sys2Proof.Laws

open Sys2Proof.Machine

variable {s : State} (h : MemWf s)
include h

theorem memWf_updCore {c f} : MemWf (s.updCore c f) := h
theorem memWf_updDie {d f} : MemWf (s.updDie d f) := h
theorem memWf_setGroup {k g} : MemWf (s.setGroup k g) := h
theorem memWf_updGroup {k f} : MemWf (s.updGroup k f) := by rw [MemWf, updGroup_mem]; exact h
theorem memWf_updBlock {b f} : MemWf (s.updBlock b f) := by rw [MemWf, updBlock_mem]; exact h
theorem memWf_setHeld : MemWf s.setHeld := h
theorem memWf_updSlice {n f} : MemWf (s.updSlice n f) := h
theorem memWf_updCtx {n k f} : MemWf (s.updCtx n k f) := h
theorem memWf_updScript {k f} : MemWf (s.updScript k f) := h
theorem memWf_updL2 {p f} : MemWf (s.updL2 p f) := by rw [MemWf, updL2_mem]; exact h
theorem memWf_updHandler {t f} : MemWf (s.updHandler t f) := h
theorem memWf_updComm {k f} : MemWf (s.updComm k f) := by rw [MemWf, updComm_mem]; exact h
theorem memWf_updQueue {q f} : MemWf (s.updQueue q f) := h
theorem memWf_updMat {c f} : MemWf (s.updMat c f) := h
theorem memWf_updStation {d f} : MemWf (s.updStation d f) := h
theorem memWf_updKcq {q f} : MemWf (s.updKcq q f) := h
theorem memWf_updPort {p f} : MemWf (s.updPort p f) := h
theorem memWf_putOp {o} : MemWf (putOp o s) := h
theorem memWf_putAcc {a} : MemWf (putAcc a s) := h
theorem memWf_dropOp {i} : MemWf (dropOp i s) := h
theorem memWf_fresh : MemWf s.fresh.2 := h
theorem memWf_freeWord : MemWf s.freeWord.2 := h
theorem memWf_freeChoice {n} : MemWf (s.freeChoice n).2 := h
theorem memWf_writeRec {r} : MemWf (writeRec r s) := memWf_mk (wf_writeBytes h _ _)
theorem memWf_postRec {r} : MemWf (postRec r s) := wf_postRec h r
theorem memWf_performWrite {pa bs c hc} : MemWf (performWrite pa bs c hc s) := wf_performWrite h pa bs c hc

end Sys2Proof.Laws
end

section
/-!
SUPPORT. Issue keeps memory canonical: barriers, exit and traps, the checks of an issue, and the instructions that touch no
memory (R22, R195, R419).
-/

namespace Sys2Proof.Laws

open Sys2Proof.Machine

variable {s : State} (h : MemWf s)
include h

theorem memWf_acquireAt {core scope} : MemWf (acquireAt core scope s) := by
  unfold acquireAt
  split
  · exact h
  · exact memWf_mk (memWf_updCore h)

theorem memWf_barrierTest {blk j} : MemWf (barrierTest blk j s) := by
  unfold barrierTest
  split
  · exact h
  split
  · exact memWf_updBlock (memWf_foldl (fun _ _ ht => memWf_acquireAt (memWf_updGroup ht)) h)
  · exact h

theorem memWf_barrierAll {blk} : MemWf (barrierAll blk s) :=
  memWf_foldl (fun _ _ ht => memWf_barrierTest ht) h

theorem memWf_exitLanes {k m} : MemWf (exitLanes k m s) := by
  unfold exitLanes
  split
  · exact h
  · exact memWf_barrierAll (memWf_updBlock (memWf_setGroup h))

theorem memWf_leaveBehind {k g} : MemWf (leaveBehind k g s) := by
  unfold leaveBehind
  split
  next e => exact memWf_mk (memWf_mk (memWf_updCore (MemWf.of_eq (memWf_fresh h) e)))

theorem memWf_retireGroup {k} : MemWf (retireGroup k s) := by
  unfold retireGroup
  split
  · exact h
  split
  · exact h
  split
  · split
    · exact h
    · exact memWf_mk h
  extract_lets
  split
  · exact memWf_leaveBehind (memWf_updBlock (memWf_mk h))
  · exact memWf_mk (memWf_updBlock (memWf_mk h))

theorem memWf_sweep : MemWf (sweep s) :=
  memWf_mk h

theorem memWf_countError {cause} : MemWf (countError cause s) := by
  unfold countError
  split
  · exact memWf_mk h
  · exact h

theorem memWf_errorAt {pa} : MemWf (errorAt pa s) := by
  unfold errorAt
  split
  · exact memWf_mk h
  · exact memWf_countError h

theorem memWf_takeTrap {k c fs} : MemWf (takeTrap k c fs s) := by
  unfold takeTrap
  split
  · exact h
  extract_lets _ _ _ _ _ _ s₂
  have h₂ : MemWf s₂ := by
    dsimp only [s₂]
    refine memWf_foldl (fun _ _ ht => ?_) (memWf_setGroup h)
    split
    · exact ht
    · exact memWf_postRec ht
  split
  · exact memWf_foldl (fun _ _ ht => memWf_postRec ht) h₂
  · exact memWf_retireGroup (memWf_exitLanes (memWf_foldl (fun _ _ ht => memWf_postRec ht) (memWf_foldl
      (fun _ _ ht => memWf_postRec ht) h₂)))

theorem memWf_returnTrap {k m} : MemWf (returnTrap k m s) :=
  memWf_updGroup h

theorem memWf_precise {k fs} : MemWf (precise k fs s) := by
  unfold precise
  split
  · exact h
  · exact memWf_takeTrap h

theorem memWf_illegal {i m sub} : MemWf (illegal i m sub s) :=
  memWf_precise h

theorem memWf_holdDatapath {n} : MemWf (holdDatapath n s) :=
  memWf_updCore h

theorem memWf_occupy {opc o} : MemWf (occupy opc o s) := by
  unfold occupy
  split
  · exact memWf_holdDatapath h
  · exact h

theorem memWf_endHandler {n k} : MemWf (endHandler n k s) := by
  unfold endHandler
  refine memWf_updCtx ?_
  split
  · exact memWf_updL2 h
  · exact h

theorem memWf_handlerFault {n k cause sub addr} : MemWf (handlerFault n k cause sub addr s) :=
  memWf_endHandler (memWf_postRec (memWf_countError h))

theorem memWf_scriptFault {k cause sub addr} : MemWf (scriptFault k cause sub addr s) :=
  memWf_updScript (memWf_postRec (memWf_countError h))

theorem memWf_procFault {cause sub addr} : MemWf (procFault cause sub addr s) := by
  unfold procFault
  split
  · exact memWf_handlerFault h
  · exact memWf_scriptFault h

theorem memWf_complete {k b hd} : MemWf (complete k b hd s) :=
  memWf_updGroup h

/-- One issue of a bundle keeps memory canonical when its effect does. -/
theorem memWf_groupIssue {opc : Nat} {hd : Hdr} {f : Form} {eff : Iss → Group → State → Option State}
    (heff : ∀ i g t, MemWf t → OptWf (eff i g t)) : MemWf (groupIssue opc hd f eff s) := by
  unfold groupIssue
  split
  · split
    · exact memWf_procFault h
    · exact h
  dsimp only
  split
  · exact h
  split
  · split
    · exact memWf_setHeld h
    split
    · exact memWf_complete (memWf_precise (memWf_countError (memWf_occupy (memWf_setGroup h))))
    · exact memWf_complete (memWf_occupy (memWf_setGroup h))
  split
  · exact memWf_complete (memWf_precise (memWf_setGroup h))
  split
  · exact memWf_setHeld h
  split
  · exact memWf_complete (memWf_precise (memWf_occupy (memWf_setGroup h)))
  split
  · exact memWf_complete (memWf_precise (memWf_countError (memWf_occupy (memWf_updBlock (memWf_setGroup h)))))
  split
  · exact memWf_setHeld h
  next e => exact memWf_complete (OptWf.of_eq (heff _ _ _ (memWf_setGroup h)) e)

theorem memWf_scalarResult {i d x} : MemWf (scalarResult i d x s) :=
  memWf_updGroup h

theorem memWf_markGroup {k scope m} : MemWf (markGroup k scope m s) := by
  unfold markGroup
  split
  next e => exact memWf_updGroup (MemWf.of_eq (memWf_fresh h) e)

theorem optWf_ringMove {blk q} : OptWf (ringMove blk q s) := by
  unfold ringMove
  split
  · exact optWf_none
  extract_lets
  split
  · split
    · extract_lets
      split
      · exact optWf_none
      · exact optWf_some (memWf_updGroup h)
    refine optWf_some (memWf_updGroup ?_)
    split
    · exact memWf_acquireAt (memWf_mk h)
    · exact memWf_mk h
  split
  · exact optWf_none
  split
  · exact optWf_none
  split
  · refine optWf_some (memWf_updGroup ?_)
    split
    · exact memWf_markGroup (memWf_mk (memWf_mk h))
    · exact memWf_mk (memWf_mk h)

theorem memWf_ringMoves {blk q n} : MemWf (ringMoves blk q n s) := by
  induction n generalizing s with
  | zero => exact h
  | succ n ih =>
    unfold ringMoves
    split
    next e => exact ih (OptWf.of_eq (optWf_ringMove h) e)
    · exact h

theorem memWf_wakeStreams {blk} : MemWf (wakeStreams blk s) := by
  unfold wakeStreams
  refine memWf_foldl (fun _ _ ht => ?_) h
  split
  · exact ht
  · exact memWf_ringMoves ht

theorem memWf_ungather {i a} : MemWf (ungather i a s) := by
  unfold ungather
  extract_lets
  split
  · exact memWf_setGroup h
  split
  · exact memWf_setGroup h
  refine memWf_wakeStreams ?_
  split
  · refine memWf_foldl (fun _ _ ht => memWf_markGroup ht) ?_
    split
    · exact memWf_acquireAt (memWf_mk (memWf_setGroup h))
    · exact memWf_mk (memWf_setGroup h)
  refine memWf_mk (memWf_updGroup (memWf_foldl (fun _ _ ht => memWf_markGroup ht) ?_))
  split
  · exact memWf_acquireAt (memWf_mk (memWf_setGroup h))
  · exact memWf_mk (memWf_setGroup h)

theorem memWf_parkStream {i q regs a} : MemWf (parkStream i q regs a s) :=
  memWf_occupy (memWf_ungather (memWf_mk h))

theorem optWf_vectorEff {asInt fn i g} : OptWf (vectorEff asInt fn i g s) := by
  unfold vectorEff
  dsimp only
  split
  · exact optWf_some (memWf_parkStream h)
  · exact optWf_some (memWf_holdDatapath (memWf_ungather h))

@[simp] theorem memWf_vecInt {fn opc hd f} : MemWf (vecInt fn opc hd f s) :=
  memWf_groupIssue h (fun _ _ _ ht => optWf_vectorEff ht)

@[simp] theorem memWf_vecFp {asInt fn opc hd f} : MemWf (vecFp asInt fn opc hd f s) :=
  memWf_groupIssue h (fun _ _ _ ht => optWf_vectorEff ht)

@[simp] theorem memWf_opVli {hd f} : MemWf (opVli hd f s) :=
  memWf_groupIssue h (fun _ _ _ ht => optWf_vectorEff ht)

@[simp] theorem memWf_opVfroms {hd f} : MemWf (opVfroms hd f s) :=
  memWf_groupIssue h (fun _ _ _ ht => optWf_vectorEff ht)

@[simp] theorem memWf_opVlane {hd f} : MemWf (opVlane hd f s) :=
  memWf_groupIssue h (fun _ _ _ ht => optWf_vectorEff ht)

@[simp] theorem memWf_opVsel {hd f} : MemWf (opVsel hd f s) :=
  memWf_groupIssue h (fun _ _ _ ht => optWf_vectorEff ht)

theorem optWf_compareEff {rel i g} : OptWf (compareEff rel i g s) := by
  unfold compareEff
  extract_lets
  split
  · exact optWf_some (memWf_parkStream h)
  · exact optWf_some (memWf_holdDatapath (memWf_ungather h))

@[simp] theorem memWf_opVcmp {hd f} : MemWf (opVcmp hd f s) :=
  memWf_groupIssue h (fun _ _ _ ht => optWf_compareEff ht)

@[simp] theorem memWf_opVfround {hd f} : MemWf (opVfround hd f s) :=
  memWf_groupIssue h (fun _ _ _ ht => optWf_vectorEff ht)

@[simp] theorem memWf_opVfcmp {hd f} : MemWf (opVfcmp hd f s) :=
  memWf_groupIssue h (fun _ _ _ ht => optWf_compareEff ht)

@[simp] theorem memWf_opVcvt {hd f} : MemWf (opVcvt hd f s) :=
  memWf_groupIssue h (fun _ _ _ ht => optWf_vectorEff ht)

theorem optWf_quantEff {i g} : OptWf (quantEff i g s) := by
  unfold quantEff
  extract_lets
  split
  · exact optWf_some (memWf_illegal (memWf_occupy h))
  split
  · exact optWf_some (memWf_parkStream h)
  · exact optWf_some (memWf_holdDatapath (memWf_ungather h))

@[simp] theorem memWf_opVquant {hd f} : MemWf (opVquant hd f s) :=
  memWf_groupIssue h (fun _ _ _ ht => optWf_quantEff ht)

theorem optWf_dequantEff {i g} : OptWf (dequantEff i g s) := by
  unfold dequantEff
  extract_lets
  split
  · exact optWf_some (memWf_parkStream h)
  · exact optWf_some (memWf_holdDatapath (memWf_ungather h))

@[simp] theorem memWf_opVdequant {hd f} : MemWf (opVdequant hd f s) :=
  memWf_groupIssue h (fun _ _ _ ht => optWf_dequantEff ht)

@[simp] theorem memWf_opVshfl {hd f} : MemWf (opVshfl hd f s) :=
  memWf_groupIssue h (fun _ _ _ ht => optWf_vectorEff ht)

@[simp] theorem memWf_opVrot {hd f} : MemWf (opVrot hd f s) :=
  memWf_groupIssue h (fun _ _ _ ht => optWf_vectorEff ht)

@[simp] theorem memWf_opVbcast {hd f} : MemWf (opVbcast hd f s) :=
  memWf_groupIssue h (fun _ _ _ ht => optWf_vectorEff ht)

@[simp] theorem memWf_opVred {hd f} : MemWf (opVred hd f s) :=
  memWf_groupIssue h (fun _ _ _ ht => optWf_vectorEff ht)

@[simp] theorem memWf_opVscan {hd f} : MemWf (opVscan hd f s) :=
  memWf_groupIssue h (fun _ _ _ ht => optWf_vectorEff ht)

theorem optWf_ballotEff {i g} : OptWf (ballotEff i g s) := by
  unfold ballotEff
  extract_lets
  split
  · exact optWf_some (memWf_parkStream h)
  · exact optWf_some (memWf_holdDatapath (memWf_ungather h))

@[simp] theorem memWf_opVballot {hd f} : MemWf (opVballot hd f s) :=
  memWf_groupIssue h (fun _ _ _ ht => optWf_ballotEff ht)

@[simp] theorem memWf_opVcompact {hd f} : MemWf (opVcompact hd f s) :=
  memWf_groupIssue h (fun _ _ _ ht => optWf_vectorEff ht)

theorem memWf_procRetire {p hd} : MemWf (procRetire p hd s) := by
  unfold procRetire
  extract_lets
  split
  · exact memWf_updCtx h
  · exact memWf_updScript h

/-- One issue of a context, or of a bundle in the form of a context, keeps memory canonical when its effect does. -/
theorem memWf_procIssue {opc : Nat} {hd : Hdr} {f : Form} {eff : Opnd → Proc → State → PRes}
    (heff : ∀ o p t, MemWf t → PResWf (eff o p t)) : MemWf (procIssue opc hd f eff s) := by
  unfold procIssue
  split
  · exact memWf_groupIssue h (fun _ _ _ ht => optWf_some ht)
  split
  · exact h
  extract_lets
  split
  · exact memWf_procFault h
  split
  · exact memWf_procFault h
  split
  next e => exact memWf_procRetire (PResWf.of_done (heff _ _ _ h) e)
  next e => exact memWf_setHeld (PResWf.of_wait (heff _ _ _ h) e)
  · exact memWf_procFault h
  next e => exact PResWf.of_over (heff _ _ _ h) e

@[simp] theorem memWf_scalarOp {fn opc hd f} : MemWf (scalarOp fn opc hd f s) := by
  unfold scalarOp
  split
  · exact memWf_groupIssue h (fun _ _ _ ht => optWf_some (memWf_scalarResult ht))
  · exact memWf_procIssue h (fun _ _ _ ht => presWf_done ht)

@[simp] theorem memWf_opNop {hd f} : MemWf (opNop hd f s) := by
  unfold opNop
  split
  · exact memWf_groupIssue h (fun _ _ _ ht => optWf_some ht)
  · exact memWf_procIssue h (fun _ _ _ ht => presWf_done ht)

@[simp] theorem memWf_opSfromv {hd f} : MemWf (opSfromv hd f s) := by
  unfold opSfromv
  split
  · refine memWf_groupIssue h (fun _ _ _ ht => ?_)
    extract_lets
    split
    · exact optWf_some (memWf_parkStream ht)
    · exact optWf_some (memWf_ungather ht)
  · exact memWf_procIssue h (fun _ _ _ ht => presWf_done ht)

@[simp] theorem memWf_opSread {hd f} : MemWf (opSread hd f s) := by
  unfold opSread
  split
  · refine memWf_groupIssue h (fun _ _ _ ht => ?_)
    split
    · exact optWf_some (memWf_scalarResult ht)
    · exact optWf_some (memWf_illegal ht)
  refine memWf_procIssue h (fun _ _ _ ht => ?_)
  split
  · exact presWf_done ht
  · exact presWf_fault

theorem optWf_sysWrite {i trap code x} : OptWf (sysWrite s i trap code x) := by
  unfold sysWrite
  split
  · exact optWf_some (memWf_updGroup h)
  · exact optWf_some (memWf_updGroup h)
  · exact optWf_some (memWf_updGroup h)
  · exact optWf_some (memWf_updCore h)
  · exact optWf_some (memWf_updCore h)
  · split
    · exact optWf_some (memWf_updGroup h)
    · exact optWf_none
  · exact optWf_none

@[simp] theorem memWf_opSwrite {hd f} : MemWf (opSwrite hd f s) := by
  unfold opSwrite
  split
  · refine memWf_groupIssue h (fun _ _ _ ht => ?_)
    extract_lets
    split
    next e => exact optWf_some (OptWf.of_eq (optWf_sysWrite ht) e)
    · exact optWf_some (memWf_illegal ht)
  · exact memWf_procIssue h (fun _ _ _ _ => presWf_fault)

@[simp] theorem memWf_opElect {hd f} : MemWf (opElect hd f s) :=
  memWf_groupIssue h (fun _ _ _ ht => optWf_some (memWf_updGroup ht))

@[simp] theorem memWf_opJmov {hd f} : MemWf (opJmov hd f s) := by
  unfold opJmov
  refine memWf_groupIssue h (fun _ _ _ ht => ?_)
  extract_lets
  split <;> exact optWf_some (memWf_updGroup ht)

@[simp] theorem memWf_opPlog {hd f} : MemWf (opPlog hd f s) :=
  memWf_groupIssue h (fun _ _ _ ht => optWf_some (memWf_updGroup ht))

@[simp] theorem memWf_opPmov {hd f} : MemWf (opPmov hd f s) := by
  unfold opPmov
  refine memWf_groupIssue h (fun _ _ _ ht => ?_)
  extract_lets
  split <;> exact optWf_some (memWf_updGroup ht)

theorem memWf_sendLanes {i m pc} : MemWf (sendLanes i m pc s) :=
  memWf_updGroup h

@[simp] theorem memWf_opBra {hd f} : MemWf (opBra hd f s) := by
  unfold opBra
  split
  · refine memWf_groupIssue h (fun _ _ _ ht => ?_)
    split
    · exact optWf_some (memWf_illegal ht)
    · exact optWf_some (memWf_sendLanes ht)
  refine memWf_procIssue h (fun _ _ _ ht => ?_)
  split
  · exact presWf_fault
  · exact presWf_done ht

@[simp] theorem memWf_opSbra {hd f} : MemWf (opSbra hd f s) := by
  unfold opSbra
  split
  · refine memWf_groupIssue h (fun _ _ _ ht => ?_)
    split
    · exact optWf_some (memWf_illegal ht)
    split
    · exact optWf_some (memWf_sendLanes ht)
    · exact optWf_some ht
  refine memWf_procIssue h (fun _ _ _ ht => ?_)
  split
  · exact presWf_fault
  · split <;> exact presWf_done ht

@[simp] theorem memWf_opBrx {hd f} : MemWf (opBrx hd f s) := by
  unfold opBrx
  split
  · exact memWf_groupIssue h (fun _ _ _ ht => optWf_some (memWf_precise (memWf_sendLanes ht)))
  refine memWf_procIssue h (fun _ _ _ ht => ?_)
  extract_lets
  split
  · exact presWf_fault
  · exact presWf_done ht

@[simp] theorem memWf_opRset {hd f} : MemWf (opRset hd f s) :=
  memWf_groupIssue h (fun _ _ _ ht => optWf_some (memWf_updGroup ht))

@[simp] theorem memWf_opRjoin {hd f} : MemWf (opRjoin hd f s) :=
  memWf_groupIssue h (fun _ _ _ ht => optWf_some (memWf_mk (memWf_updGroup ht)))

@[simp] theorem memWf_opExit {hd f} : MemWf (opExit hd f s) := by
  have hx {t : State} (ht : MemWf t) : MemWf (groupIssue 0x29 hd f (fun i g s =>
      let trap := (g.lane ((lowest i.act).getD 0)).trap
      if g.persist && !g.endSeen && !trap then some (illegal i i.act 0x0e s)
      else match exitStream s g i.act with
        | some b => some (precise i.k (sameFault i.act cSTREAM 0x06 0 (w64 (b.q + 2 ^ 16 * b.reg))) s)
        | none => some (exitLanes i.k i.act s)) t) := by
    refine memWf_groupIssue ht (fun _ _ _ ht₁ => ?_)
    extract_lets
    split
    · exact optWf_some (memWf_illegal ht₁)
    split
    · exact optWf_some (memWf_precise ht₁)
    · exact optWf_some (memWf_exitLanes ht₁)
  unfold opExit
  split
  · exact memWf_retireGroup (hx h)
  · exact hx h

@[simp] theorem memWf_opTrap {hd f} : MemWf (opTrap hd f s) := by
  unfold opTrap
  refine memWf_groupIssue h (fun _ _ _ ht => ?_)
  extract_lets
  split
  · exact optWf_some (memWf_illegal ht)
  · exact optWf_some (memWf_takeTrap ht)

@[simp] theorem memWf_opYield {hd f} : MemWf (opYield hd f s) := by
  unfold opYield
  refine memWf_groupIssue h (fun _ _ _ ht => ?_)
  split
  · exact optWf_some ht
  · exact optWf_some (memWf_updGroup ht)

@[simp] theorem memWf_opIfence {hd f} : MemWf (opIfence hd f s) :=
  memWf_groupIssue h (fun _ _ _ ht => optWf_some (memWf_mk ht))

@[simp] theorem memWf_opRtrap {hd f} : MemWf (opRtrap hd f s) := by
  unfold opRtrap
  refine memWf_groupIssue h (fun _ _ _ ht => ?_)
  split
  · exact optWf_some (memWf_mk (memWf_returnTrap ht))
  · exact optWf_some (memWf_precise ht)

@[simp] theorem memWf_opSleep {hd f} : MemWf (opSleep hd f s) := by
  unfold opSleep
  refine memWf_groupIssue h (fun _ _ _ ht => ?_)
  extract_lets _ _ _ s₁
  have h₁ : MemWf s₁ := by
    dsimp only [s₁]
    split
    · exact memWf_updGroup ht
    · exact ht
  split
  · exact optWf_some h₁
  · exact optWf_some (memWf_mk h₁)

end Sys2Proof.Laws
end

section
/-!
SUPPORT. L2, translation and accesses in flight keep memory canonical: lines, walks, parking, store queues and releases (R70,
R76, R91, R110, R408).
-/

namespace Sys2Proof.Laws

open Sys2Proof.Machine

variable {s : State} (h : MemWf s)
include h

theorem memWf_postEvent {n e} : MemWf (postEvent n e s).2 := by
  unfold postEvent
  extract_lets
  split
  · split
    · exact memWf_snd (memWf_updSlice h)
    · exact h
  split
  · exact h
  split
  · exact memWf_snd (memWf_updSlice h)
  · exact h

theorem memWf_evictL2 {pline} : MemWf (evictL2 pline s) := by
  unfold evictL2
  split
  · exact h
  split
  · exact h
  extract_lets
  split
  · exact memWf_mk h
  · exact memWf_postEvent (memWf_mk h)

theorem memWf_l2Room {pline} : MemWf (l2Room pline s) := by
  unfold l2Room
  split
  · split
    · exact memWf_evictL2 h
    · exact h
  · exact h

theorem memWf_useL2 {pline nt} : MemWf (useL2 pline nt s) := by
  unfold useL2
  split
  · exact h
  split
  · exact memWf_mk h
  · exact h

theorem memWf_installL2 {pline tag filling nt} : MemWf (installL2 pline tag filling nt s) :=
  memWf_useL2 (memWf_mk (memWf_l2Room h))

theorem memWf_evictChoice {v pline} : MemWf (evictChoice v pline s) := by
  unfold evictChoice
  split
  · split
    · exact h
    · exact memWf_evictL2 h
  · exact h

theorem memWf_startFill {pline tag v nt} : MemWf (startFill pline tag v s nt) := by
  unfold startFill
  split
  · exact h
  extract_lets
  split
  · exact memWf_evictChoice h
  split
  · exact memWf_installL2 (memWf_evictChoice h)
  · exact memWf_postEvent (memWf_installL2 (memWf_evictChoice h))

theorem memWf_fillArrives {pline} : MemWf (fillArrives pline s) := by
  unfold fillArrives
  split
  · exact h
  split
  · exact h
  split
  · exact memWf_updL2 h
  extract_lets
  split
  next e => exact memWf_updL2 (MemWf.of_eq (memWf_postEvent h) e)
  next e => exact memWf_updL2 (MemWf.of_eq (memWf_postEvent h) e)
  next e => exact memWf_updSlice (memWf_updL2 (MemWf.of_eq (memWf_postEvent h) e))

theorem memWf_touchL2 {pline nt} : MemWf (touchL2 pline s nt) := by
  unfold touchL2
  split
  · exact memWf_useL2 h
  split
  · exact h
  · exact memWf_installL2 h

theorem memWf_noteWalk {d tenant va top} : MemWf (noteWalk d tenant va s top) :=
  memWf_updDie (memWf_foldl (fun _ _ ht => memWf_touchL2 ht) h)

theorem memWf_performBytes {pa bs core hc} : MemWf (performBytes pa bs core hc s) :=
  memWf_performWrite h

theorem memWf_fillTlbs {core x} : MemWf (fillTlbs core x s) :=
  memWf_updDie (memWf_updCore h)

theorem memWf_setAD {x write} : MemWf (setAD x write s).2 := by
  unfold setAD
  extract_lets
  split
  · exact h
  · exact memWf_snd (memWf_touchL2 (memWf_performBytes h))

theorem memWf_askWalk {core tenant va} : MemWf (askWalk core tenant va s) :=
  memWf_updDie h

theorem memWf_beginTr {core tenant va want} : MemWf (beginTr core tenant va want s).2 := by
  unfold beginTr
  split
  · split
    · exact h
    · exact memWf_snd (memWf_askWalk h)
  · exact h

theorem memWf_walkNow {tenant va core want} : MemWf (walkNow s tenant va core want).2 := by
  unfold walkNow
  extract_lets
  split
  · exact h
  split
  · exact h
  split
  · exact memWf_snd (memWf_countError (memWf_noteWalk h))
  · exact memWf_snd (memWf_noteWalk h)
  split
  · exact memWf_snd (memWf_noteWalk h)
  split
  · split
    next e => exact memWf_snd (MemWf.of_eq (memWf_setAD (memWf_noteWalk h)) e)
  · exact memWf_snd (memWf_mk (memWf_noteWalk h))
  · exact memWf_snd (memWf_mk (memWf_noteWalk h))
  · exact memWf_snd (memWf_noteWalk h)

theorem memWf_agentWait {d tenant va r} : MemWf (agentWait d tenant va r s) := by
  unfold agentWait
  split
  · dsimp only
    split
    · exact memWf_updDie h
    split
    · exact h
    refine memWf_updDie ?_
    split
    · exact memWf_postRec h
    · exact h
  · split
    · split
      · exact h
      · exact memWf_mk h
    · exact h
  · exact h

theorem memWf_updEntry {blk core win e f} : MemWf (updEntry blk core win e f s) :=
  memWf_updBlock h

theorem memWf_clearErrs {p} : MemWf (clearErrs p s) := by
  unfold clearErrs
  split
  · exact h
  · exact memWf_mk h

theorem memWf_writeScratch {blk core off bs} : MemWf (writeScratch blk core off bs s) :=
  memWf_clearErrs (memWf_updBlock h)

theorem memWf_putStash {core pline bs} : MemWf (putStash core pline bs s) := by
  unfold putStash
  refine memWf_foldl (fun _ _ ht => ?_) h
  split
  · exact memWf_updEntry (memWf_writeScratch ht)

theorem memWf_putStashClean {core pline data} : MemWf (putStashClean core pline data s) := by
  unfold putStashClean
  refine memWf_foldl (fun _ _ ht => ?_) h
  split
  · split
    · exact memWf_writeScratch ht
    · exact ht

theorem memWf_clearL1 {core pline bs} : MemWf (clearL1 core pline bs s) :=
  memWf_clearErrs h

theorem memWf_putL1 {core pline bs} : MemWf (putL1 core pline bs s) :=
  memWf_clearL1 (memWf_updCore h)

theorem memWf_updAccGroup {a f} : MemWf (updAccGroup a f s) := by
  unfold updAccGroup
  split
  · exact memWf_updGroup h
  · exact h

theorem memWf_accessFault {a fs} : MemWf (Access.fault a fs s) := by
  unfold Access.fault
  split
  · exact h
  · exact memWf_foldl (fun _ _ ht => memWf_takeTrap ht) h

theorem memWf_deliver {a r x} : MemWf (deliver a r x s) :=
  memWf_updAccGroup h

theorem memWf_pruneAhead {core slot} : MemWf (pruneAhead core slot s) :=
  memWf_updGroup h

theorem memWf_dropAccess {a} : MemWf (dropAccess a s) := by
  unfold dropAccess
  extract_lets _ _ s₃
  have h₃ : MemWf s₃ := by
    dsimp only [s₃]
    split
    · exact memWf_acquireAt (memWf_updAccGroup (memWf_mk h))
    · exact memWf_updAccGroup (memWf_mk h)
  split
  · exact memWf_retireGroup (memWf_pruneAhead h₃)
  · exact h₃

theorem memWf_landLanes {id} : MemWf (landLanes id s) := by
  unfold landLanes
  split
  · exact h
  extract_lets
  split
  · exact h
  · exact memWf_putAcc (memWf_updAccGroup (memWf_foldl (fun _ _ ht => memWf_deliver ht) h))

theorem memWf_pumpFences {core slot} : MemWf (pumpFences core slot s) := by
  unfold pumpFences
  refine memWf_foldl (fun _ _ ht => ?_) h
  split
  · exact memWf_dropAccess ht
  · exact ht

theorem memWf_finishIfDone {id} : MemWf (finishIfDone id s) := by
  unfold finishIfDone
  extract_lets
  split
  · exact memWf_landLanes h
  split
  · exact memWf_pumpFences (memWf_dropAccess (memWf_landLanes h))
  · exact memWf_landLanes h

theorem memWf_forgetPage {core tenant va} : MemWf (forgetPage core tenant va s) :=
  memWf_updDie (memWf_updCore h)

theorem memWf_stashWrite {blk r} : MemWf (stashWrite blk r s).2 := by
  unfold stashWrite
  split
  · exact h
  split
  · exact h
  split
  · exact h
  split
  · exact h
  split
  · exact h
  dsimp only
  split
  · exact memWf_snd (memWf_updEntry (memWf_setAD h))
  · exact memWf_snd (memWf_updEntry (memWf_forgetPage h))

theorem memWf_noteAts {t va} : MemWf (noteAts t va s) := by
  unfold noteAts
  split
  · exact memWf_mk h
  · exact h

theorem memWf_trReqs {a x1} : MemWf (trReqs a x1 s).2 := by
  induction x1 generalizing s with
  | nil => exact h
  | cons x xs ih =>
    unfold trReqs
    split
    · split
      next e₁ =>
        split
        next e₂ =>
          refine memWf_snd (MemWf.of_eq (ih (MemWf.of_eq ?_ e₁)) e₂)
          split
          · exact memWf_stashWrite h
          · exact h
    split
    next e₁ =>
      split
      next e₂ => exact memWf_snd (MemWf.of_eq (ih (memWf_noteAts (MemWf.of_eq (memWf_beginTr h) e₁))) e₂)

theorem memWf_parkAccess {a rs m stash} : MemWf (parkAccess a rs m stash s) := by
  unfold parkAccess
  split
  next e => exact memWf_updAccGroup (memWf_putAcc (MemWf.of_eq (memWf_fresh h) e))

theorem memWf_startStashFill {blk core tenant win e pc} : MemWf (startStashFill blk core tenant win e pc s) := by
  unfold startStashFill
  split
  · exact h
  split
  · exact h
  dsimp only
  exact memWf_putAcc (memWf_trReqs (memWf_fresh (memWf_updEntry h)))

theorem memWf_fillEntries {a rs} : MemWf (fillEntries a rs s) := by
  unfold fillEntries
  refine memWf_foldl (fun _ _ ht => ?_) h
  split
  · exact memWf_startStashFill ht
  · exact ht

theorem memWf_countDropped {core n} : MemWf (countDropped core n s) :=
  memWf_updCore h

theorem memWf_wakeLanes {a m} : MemWf (wakeLanes a m s) :=
  memWf_updAccGroup h

theorem memWf_wakeAccess {a} : MemWf (wakeAccess a s) :=
  memWf_wakeLanes h

theorem memWf_wakeSpills {k} : MemWf (wakeSpills k s) :=
  memWf_updGroup h

theorem memWf_countOob {core n} : MemWf (countOob core n s) :=
  memWf_updCore h

theorem memWf_stopRefill {a m} : MemWf (stopRefill a m s) := by
  unfold stopRefill
  split
  · exact memWf_updAccGroup h
  · exact h

theorem memWf_failParked {a cause bad info} : MemWf (failParked a cause bad info s) := by
  unfold failParked
  extract_lets
  split
  · exact memWf_pumpFences (memWf_dropAccess (memWf_accessFault (memWf_stopRefill (memWf_wakeLanes h))))
  · exact memWf_accessFault (memWf_updAccGroup (memWf_putAcc (memWf_stopRefill (memWf_wakeLanes h))))

theorem memWf_failFill {a blk win e cause} : MemWf (failFill a blk win e cause s) :=
  memWf_foldl (fun _ _ ht => memWf_failParked ht) (memWf_updEntry (memWf_mk h))

/-- An access is settled in steps: the lanes that fault, the lanes that park, the entries that fill, and the rest. -/
theorem memWf_settleAccess {id} : MemWf (settleAccess id s) := by
  unfold settleAccess
  split
  · exact h
  split
  · exact h
  extract_lets s₁ out gone₁ keep₁ fates faulted waiting blk dry wreqs dreqs gone later keep s₂ fm left s₃ s₄ s₅ s₆ s₇
  have h₁ : MemWf s₁ := by
    dsimp only [s₁]
    split
    · exact memWf_mk h
    · exact h
  split
  · exact memWf_finishIfDone (memWf_putAcc (memWf_countDropped h₁))
  · split
    · exact memWf_failFill h₁
    · exact memWf_putAcc h₁
    · exact h₁
  have h₅ : MemWf s₅ := memWf_accessFault (memWf_stopRefill (memWf_putAcc (memWf_updAccGroup (memWf_countOob h₁))))
  clear_value s₅
  have h₆ : MemWf s₆ := by
    dsimp only [s₆]
    split
    · exact h₅
    · exact memWf_parkAccess h₅
  clear_value s₆
  have h₇ : MemWf s₇ := by
    dsimp only [s₇]
    split
    · exact h₆
    · exact memWf_fillEntries (memWf_parkAccess h₆)
  clear_value s₇
  split
  · split
    · exact memWf_finishIfDone (memWf_putAcc (memWf_updAccGroup h₇))
    · exact memWf_finishIfDone h₇
  · split
    · exact memWf_finishIfDone (memWf_putAcc h₇)
    · exact memWf_finishIfDone h₇
  · exact memWf_finishIfDone h₇

/-- The same steps as for an access, on the entries of a store queue. -/
theorem memWf_decideStore {core slot id} : MemWf (decideStore core slot id s) := by
  unfold decideStore
  split
  · exact h
  extract_lets es s₁ rs all a fates faulted waiting dry gone later clean forks oob s₂ s₃ s₄ wreqs dreqs a' s₅ s₆
  split
  · exact h
  have h₁ : MemWf s₁ := by
    dsimp only [s₁]
    split
    · exact memWf_mk h
    · exact h
  have h₄ : MemWf s₄ := memWf_accessFault (memWf_updGroup (memWf_countOob h₁))
  clear_value s₄
  have h₅ : MemWf s₅ := by
    dsimp only [s₅]
    split
    · exact h₄
    · exact memWf_parkAccess h₄
  clear_value s₅
  have h₆ : MemWf s₆ := by
    dsimp only [s₆]
    split
    · exact h₅
    · exact memWf_fillEntries (memWf_parkAccess h₅)
  clear_value s₆
  refine memWf_retireGroup ?_
  split
  · exact h₆
  · exact memWf_wakeSpills h₆

theorem memWf_enqueueStore {a rs} : MemWf (enqueueStore a rs s) := by
  unfold enqueueStore
  split
  next e => exact memWf_decideStore (memWf_updAccGroup (MemWf.of_eq (memWf_trReqs h) e))

theorem memWf_enqueueMark {core slot scope m} : MemWf (enqueueMark core slot scope m s) := by
  unfold enqueueMark
  split
  next e => exact memWf_updGroup (MemWf.of_eq (memWf_fresh h) e)

theorem memWf_replay {id} : MemWf (replay id s) := by
  unfold replay
  split
  · exact h
  split
  · exact h
  dsimp only
  split
  · exact memWf_fresh (memWf_wakeAccess (memWf_mk h))
  · exact memWf_enqueueStore (memWf_updAccGroup (memWf_fresh (memWf_wakeAccess (memWf_mk h))))
  · exact memWf_settleAccess (memWf_putAcc (memWf_updAccGroup (memWf_trReqs (memWf_fresh (memWf_wakeAccess (memWf_mk h))))))

theorem memWf_enqueuePkt {d p} : MemWf (enqueuePkt d p s) := by
  unfold enqueuePkt
  split
  next e => exact memWf_updStation (MemWf.of_eq (memWf_fresh h) e)

theorem memWf_sendLine {core tenant line bytes} : MemWf (sendLine core tenant line bytes s) :=
  memWf_enqueuePkt h

theorem memWf_sendStore {core line e} : MemWf (sendStore core line e s) :=
  memWf_enqueuePkt h

theorem memWf_flushComb {d p} : MemWf (flushComb d p s) :=
  memWf_foldl (fun _ _ ht => memWf_sendLine ht) (memWf_updStation h)

theorem memWf_flushCore {core} : MemWf (flushCore core s) :=
  memWf_foldl (fun _ _ ht => memWf_flushComb ht) h

theorem memWf_combine {core tenant line bytes} : MemWf (combine core tenant line bytes s) := by
  unfold combine
  extract_lets
  split <;> exact memWf_updStation h

theorem memWf_wbFault {core w va} : MemWf (wbFault core w va s) := by
  unfold wbFault
  extract_lets
  split
  · exact memWf_postRec (memWf_countError h)
  · exact memWf_takeTrap (memWf_countError h)

theorem memWf_wbNow {core pline va bs bad} : MemWf (wbNow core pline va bs bad s).2 :=
  memWf_snd (memWf_performWrite h)

theorem memWf_pushWriteBack {core w pline va bytes bad} {drop : State → State} (hdrop : ∀ t, MemWf t → MemWf (drop t)) :
    MemWf (pushWriteBack core w pline va bytes bad drop s) := by
  unfold pushWriteBack
  split
  · exact h
  refine memWf_updCore ?_
  split
  · exact memWf_wbFault (hdrop _ h)
  · exact h

theorem memWf_flushLine {core tenant pline va} : MemWf (flushLine core tenant pline va s) := by
  unfold flushLine
  refine memWf_putStash (memWf_updCore (memWf_foldl (fun _ _ ht => ?_) ?_))
  · split
    · exact memWf_updEntry (memWf_writeScratch ht)
  · dsimp only
    split
    · refine memWf_wbFault (memWf_wbNow (memWf_foldl (fun _ _ ht => ?_) h))
      split
      · exact memWf_wbFault (memWf_wbNow ht)
      · exact memWf_wbNow ht
    refine memWf_wbNow (memWf_foldl (fun _ _ ht => ?_) h)
    split
    · exact memWf_wbFault (memWf_wbNow ht)
    · exact memWf_wbNow ht

theorem memWf_flushStash {core w p} : MemWf (flushStash core w p s) := by
  unfold flushStash
  refine memWf_foldl (fun _ _ ht => ?_) h
  split
  · exact memWf_pushWriteBack (memWf_updEntry ht) (fun _ ht₁ => memWf_updEntry ht₁)

theorem memWf_dropL1 {core pline} : MemWf (dropL1 core pline s) :=
  memWf_updCore h

theorem memWf_flushL1 {core w p} : MemWf (flushL1 core w p s) :=
  memWf_foldl (fun _ _ ht => memWf_pushWriteBack ht (fun _ ht₁ => memWf_dropL1 ht₁)) (memWf_updCore h)

theorem memWf_releaseAt {core w scope} : MemWf (releaseAt core w scope s) := by
  unfold releaseAt
  extract_lets
  split
  · exact memWf_flushCore (memWf_flushL1 (memWf_flushStash h))
  · exact memWf_flushL1 (memWf_flushStash h)

theorem memWf_evictL1 {core v} : MemWf (evictL1 core v s) := by
  unfold evictL1
  split
  · exact h
  · exact memWf_dropL1 (memWf_flushL1 h)

theorem memWf_dropBadLanes {core slot id} : MemWf (dropBadLanes core slot id s) := by
  unfold dropBadLanes
  split
  · exact h
  extract_lets
  split
  · exact h
  · exact memWf_accessFault (memWf_errorAt (memWf_updGroup h))

theorem memWf_commitVirt {core e x} : MemWf (commitVirt core e x s) := by
  unfold commitVirt
  extract_lets
  split
  · exact memWf_updCore (memWf_putStash (memWf_clearL1 (memWf_updCore h)))
  · exact memWf_putStash (memWf_clearL1 (memWf_updCore h))

theorem memWf_combYield {blk e} : MemWf (combYield blk e s) := by
  unfold combYield
  split
  · extract_lets
    split
    · exact h
    split
    · exact memWf_flushComb h
    · exact h
  · exact h

theorem memWf_commitPeer {core e line} : MemWf (commitPeer core e line s) := by
  unfold commitPeer
  split
  · exact memWf_updCore (memWf_flushComb h)
  · exact memWf_combine h

theorem memWf_commitScratch {core blk e c line} : MemWf (commitScratch core blk e c line s) := by
  unfold commitScratch
  dsimp only
  split
  · split
    · exact memWf_writeScratch h
    · exact memWf_updCore h
  split
  · exact memWf_commitPeer (memWf_writeScratch h)
  split
  · exact memWf_updCore (memWf_putL1 (memWf_putStash h))
  split
  · exact memWf_updCore (memWf_putL1 (memWf_putStash (memWf_putL1 (memWf_putStash (memWf_writeScratch h)))))
  · exact memWf_updEntry (memWf_putL1 (memWf_putStash (memWf_putL1 (memWf_putStash (memWf_writeScratch h)))))

theorem memWf_commitEntry {core blk e0} : MemWf (commitEntry core blk e0 s) := by
  unfold commitEntry
  extract_lets s₁
  have h₁ : MemWf s₁ := by
    dsimp only [s₁]
    split
    · exact memWf_releaseAt h
    · exact h
  split
  next e =>
    extract_lets
    split
    · exact memWf_updCore (MemWf.of_eq (memWf_fresh h₁) e)
    split
    · exact memWf_commitScratch (MemWf.of_eq (memWf_fresh h₁) e)
    · exact memWf_commitVirt (MemWf.of_eq (memWf_fresh h₁) e)
    · exact memWf_commitPeer (MemWf.of_eq (memWf_fresh h₁) e)
    · exact MemWf.of_eq (memWf_fresh h₁) e

end Sys2Proof.Laws
end

section
/-!
SUPPORT. Loads, stores, atomics, fences and synchronisation keep memory canonical (R74 to R81, R91 to R97, R232 to R243).
-/

namespace Sys2Proof.Laws

open Sys2Proof.Machine

variable {s : State} (h : MemWf s)
include h

theorem optWf_memEff {body : Iss → Group → State → Option State} (hbody : ∀ i g t, MemWf t → OptWf (body i g t)) {i g} :
    OptWf (memEff body i g s) := by
  unfold memEff
  split
  · exact optWf_none
  split
  · exact optWf_some (memWf_precise h)
  · exact hbody _ _ _ h

theorem memWf_startLoad {i g kind p scratch size val cmp} : MemWf (startLoad i g kind p scratch size val cmp s) := by
  unfold startLoad
  split
  next e =>
    dsimp only
    refine memWf_settleAccess (memWf_putAcc (memWf_trReqs (memWf_updGroup ?_)))
    split
    · exact memWf_enqueueMark (memWf_precise (memWf_updGroup (MemWf.of_eq (memWf_fresh h) e)))
    · exact memWf_precise (memWf_updGroup (MemWf.of_eq (memWf_fresh h) e))

theorem memWf_startStore {i g p scratch size} : MemWf (startStore i g p scratch size s) := by
  unfold startStore
  split
  next e =>
    extract_lets
    split
    · exact memWf_precise (memWf_countOob (MemWf.of_eq (memWf_fresh h) e))
    · exact memWf_enqueueStore (memWf_precise (memWf_countOob (MemWf.of_eq (memWf_fresh h) e)))

@[simp] theorem memWf_opLd {hd f} : MemWf (opLd hd f s) := by
  unfold opLd
  refine memWf_groupIssue h (fun _ _ _ ht => optWf_memEff ht (fun _ _ _ ht₁ => ?_))
  extract_lets
  split
  · exact optWf_some (memWf_illegal ht₁)
  split
  · exact optWf_none
  · exact optWf_some (memWf_startLoad ht₁)

@[simp] theorem memWf_opSt {hd f} : MemWf (opSt hd f s) := by
  unfold opSt
  refine memWf_groupIssue h (fun _ _ _ ht => optWf_memEff ht (fun _ _ _ ht₁ => ?_))
  extract_lets
  split
  · exact optWf_some (memWf_illegal ht₁)
  split
  · exact optWf_none
  split
  · exact optWf_none
  · exact optWf_some (memWf_startStore ht₁)

@[simp] theorem memWf_opLds {hd f} : MemWf (opLds hd f s) := by
  unfold opLds
  refine memWf_groupIssue h (fun _ _ _ ht => optWf_memEff ht (fun _ _ _ ht₁ => ?_))
  extract_lets
  split
  · exact optWf_none
  · exact optWf_some (memWf_startLoad ht₁)

@[simp] theorem memWf_opSts {hd f} : MemWf (opSts hd f s) := by
  unfold opSts
  refine memWf_groupIssue h (fun _ _ _ ht => optWf_memEff ht (fun _ _ _ ht₁ => ?_))
  extract_lets
  split
  · exact optWf_none
  · exact optWf_some (memWf_startStore ht₁)

@[simp] theorem memWf_opAtom {hd f} : MemWf (opAtom hd f s) := by
  unfold opAtom
  refine memWf_groupIssue h (fun _ _ _ ht => optWf_memEff ht (fun _ _ _ ht₁ => ?_))
  extract_lets
  split
  · exact optWf_some (memWf_illegal ht₁)
  split
  · exact optWf_none
  · exact optWf_some (memWf_startLoad ht₁)

@[simp] theorem memWf_opAcas {hd f} : MemWf (opAcas hd f s) := by
  unfold opAcas
  refine memWf_groupIssue h (fun _ _ _ ht => optWf_memEff ht (fun _ _ _ ht₁ => ?_))
  extract_lets
  split
  · exact optWf_some (memWf_illegal ht₁)
  split
  · exact optWf_none
  · exact optWf_some (memWf_startLoad ht₁)

@[simp] theorem memWf_opAtoms {hd f} : MemWf (opAtoms hd f s) := by
  unfold opAtoms
  refine memWf_groupIssue h (fun _ _ _ ht => optWf_memEff ht (fun _ _ _ ht₁ => ?_))
  extract_lets
  split
  · exact optWf_none
  · exact optWf_some (memWf_startLoad ht₁)

@[simp] theorem memWf_opFence {hd f} : MemWf (opFence hd f s) := by
  unfold opFence
  refine memWf_groupIssue h (fun _ _ _ ht => optWf_memEff ht (fun _ _ _ ht₁ => ?_))
  split
  next e =>
    refine optWf_some (memWf_pumpFences (memWf_putAcc (memWf_updGroup ?_)))
    split
    · exact memWf_enqueueMark (MemWf.of_eq (memWf_fresh ht₁) e)
    · exact MemWf.of_eq (memWf_fresh ht₁) e

@[simp] theorem memWf_opPref {hd f} : MemWf (opPref hd f s) := by
  unfold opPref
  refine memWf_groupIssue h (fun _ _ _ ht => optWf_memEff ht (fun _ _ _ ht₁ => ?_))
  dsimp only
  split
  · exact optWf_some (memWf_illegal ht₁)
  split
  · exact optWf_none
  · exact optWf_some (memWf_settleAccess (memWf_putAcc (memWf_trReqs (memWf_fresh ht₁))))

theorem memWf_scalarFault {i c sub info} : MemWf (scalarFault i c sub info s) :=
  memWf_precise h

theorem memWf_startScalar {i g kind va val cmp} : MemWf (startScalar i g kind va val cmp s) := by
  unfold startScalar
  split
  next e =>
    dsimp only
    exact memWf_settleAccess (memWf_putAcc (memWf_trReqs (memWf_updGroup (MemWf.of_eq (memWf_fresh h) e))))

theorem optWf_scalarLoad {kind reads writes off val cmp i g} : OptWf (scalarLoad kind reads writes off val cmp i g s) := by
  unfold scalarLoad
  split
  · exact optWf_some (memWf_scalarFault h)
  · exact optWf_some (memWf_scalarResult (memWf_countOob h))
  split
  · exact optWf_none
  · exact optWf_some (memWf_startScalar h)

theorem memWf_setProcStore {m} : MemWf (setProcStore m s) := by
  unfold setProcStore
  split
  · exact memWf_updSlice h
  · exact memWf_mk h

theorem memWf_procClear {at_ n} : MemWf (procClear at_ n s) := by
  unfold procClear
  split
  · exact h
  · exact memWf_clearErrs h

omit h in
theorem presWf_procMem {o off full} {go : Nat → PRes} (hgo : ∀ n, PResWf (go n)) : PResWf (procMem o off s full go) := by
  unfold procMem
  dsimp only
  split
  · exact presWf_fault
  split
  · exact presWf_fault
  split
  · exact presWf_fault
  split
  · exact presWf_fault
  · exact hgo _

@[simp] theorem memWf_opSld {hd f} : MemWf (opSld hd f s) := by
  unfold opSld
  split
  · exact memWf_groupIssue h (fun _ _ _ ht => optWf_memEff ht (fun _ _ _ ht₁ => optWf_scalarLoad ht₁))
  · exact memWf_procIssue h (fun _ _ _ ht => presWf_procMem (fun _ => presWf_done ht))

@[simp] theorem memWf_opSst {hd f} : MemWf (opSst hd f s) := by
  unfold opSst
  split
  · refine memWf_groupIssue h (fun _ _ _ ht => optWf_memEff ht (fun _ _ _ ht₁ => ?_))
    split
    · exact optWf_none
    split
    · exact optWf_some (memWf_scalarFault ht₁)
    · exact optWf_some (memWf_countOob ht₁)
    split
    · exact optWf_none
    split
    next e => exact optWf_some (memWf_enqueueStore (MemWf.of_eq (memWf_fresh ht₁) e))
  · exact memWf_procIssue h (fun _ _ _ ht => presWf_procMem (fun _ => presWf_done (memWf_procClear (memWf_setProcStore ht))))

@[simp] theorem memWf_opSatom {hd f} : MemWf (opSatom hd f s) := by
  unfold opSatom
  split
  · exact memWf_groupIssue h (fun _ _ _ ht => optWf_memEff ht (fun _ _ _ ht₁ => optWf_scalarLoad ht₁))
  · exact memWf_procIssue h (fun _ _ _ ht => presWf_procMem (fun _ => presWf_done (memWf_setProcStore ht)))

theorem memWf_setWindow {blk core w x} : MemWf (setWindow blk core w x s) :=
  memWf_updBlock h

theorem memWf_stashEffect {i g m} : MemWf (stashEffect i g m s) := by
  unfold stashEffect
  dsimp only
  split
  · split
    · exact memWf_setWindow h
    · exact h
  · exact h
  · split
    · exact memWf_setWindow h
    · exact h
  · exact memWf_setWindow h

@[simp] theorem memWf_opStash {hd f} : MemWf (opStash hd f s) := by
  unfold opStash
  refine memWf_groupIssue h (fun _ _ _ ht => optWf_memEff ht (fun _ _ _ ht₁ => ?_))
  extract_lets
  split
  · exact optWf_some (memWf_illegal ht₁)
  split
  · exact optWf_none
  split
  next e =>
    exact optWf_some (memWf_putAcc (memWf_updCore (memWf_updGroup (MemWf.of_eq (memWf_fresh (memWf_stashEffect
        (memWf_flushStash ht₁))) e))))

theorem memWf_answerReqs {d tenant page f} : MemWf (answerReqs d tenant page f s) :=
  memWf_mk h

theorem memWf_answerStores {d tenant page f} : MemWf (answerStores d tenant page f s) :=
  memWf_mk h

theorem memWf_settleDie {d} : MemWf (settleDie d s) := by
  unfold settleDie
  refine memWf_foldl (fun _ _ ht => ?_) (memWf_foldl (fun _ _ ht => ?_) h)
  · split
    · exact memWf_foldl (fun _ _ ht₁ => memWf_decideStore ht₁) ht
  · split
    · split
      · exact memWf_settleAccess ht
      · exact ht
    · exact ht

theorem memWf_setWalk {d k w} : MemWf (setWalk d k w s) :=
  memWf_updDie h

theorem memWf_dropWalk {d tenant page} : MemWf (dropWalk d tenant page s) :=
  memWf_updDie h

theorem memWf_askAgain {d tenant page} : MemWf (askAgain d tenant page s) :=
  memWf_updDie h

theorem memWf_admitWalks {d} : MemWf (admitWalks d s) := by
  unfold admitWalks
  refine memWf_foldl (fun _ _ ht => ?_) (memWf_foldl (fun _ _ ht => ?_) h)
  · split
    · exact memWf_askAgain ht
  · split
    · exact memWf_askWalk ht

theorem memWf_walkFaults {d w cause} : MemWf (walkFaults d w cause s) := by
  unfold walkFaults
  refine memWf_settleDie (memWf_admitWalks (memWf_foldl (fun _ _ ht => ?_) (memWf_dropWalk (memWf_answerStores (memWf_answerReqs
      (memWf_countError h))))))
  split
  · exact memWf_failFill ht
  · exact memWf_replay ht
  · exact memWf_failParked ht

theorem memWf_walkWaits {d k w pline v0} : MemWf (walkWaits d k w pline v0 s) := by
  unfold walkWaits
  dsimp only
  split
  · exact memWf_settleDie (memWf_admitWalks (memWf_dropWalk (memWf_answerStores (memWf_answerReqs h))))
  refine memWf_settleDie (memWf_answerStores (memWf_answerReqs (memWf_setWalk ?_)))
  split
  · exact memWf_postRec h
  · exact h

theorem memWf_walkFinds {d w x} : MemWf (walkFinds d w x s) := by
  unfold walkFinds
  dsimp only
  refine memWf_settleDie (memWf_admitWalks (memWf_foldl (fun _ _ ht => memWf_replay ht) (memWf_dropWalk (memWf_answerStores
      (memWf_answerReqs (memWf_foldl (fun _ _ ht => memWf_noteAts ht) ?_))))))
  split
  · split
    · exact memWf_foldl (fun _ _ ht => memWf_fillTlbs ht) h
    · exact h
  split
  · exact memWf_foldl (fun _ _ ht => memWf_fillTlbs ht) (memWf_setAD h)
  · exact memWf_setAD h

theorem memWf_walkDone {d k} : MemWf (walkDone d k s) := by
  unfold walkDone
  split
  · exact h
  extract_lets
  split
  · exact h
  split
  · exact memWf_walkFaults (memWf_noteWalk h)
  · exact memWf_walkWaits (memWf_noteWalk h)
  · exact memWf_walkFinds (memWf_noteWalk h)

theorem memWf_landFill {a blk win e data tr} : MemWf (landFill a blk win e data tr s) :=
  memWf_foldl (fun _ _ ht => memWf_replay ht) (memWf_updEntry (memWf_writeScratch (memWf_mk h)))

theorem memWf_failLanes {a bad} : MemWf (failLanes a bad s) := by
  unfold failLanes
  split
  · exact h
  refine memWf_accessFault ?_
  split
  · exact memWf_putAcc (memWf_stopRefill (memWf_updAccGroup (memWf_errorAt h)))
  · exact memWf_stopRefill (memWf_updAccGroup (memWf_errorAt h))

theorem memWf_l1Room {core} : MemWf (l1Room core s) := by
  unfold l1Room
  split
  · exact h
  split
  next e => exact memWf_evictL1 (MemWf.of_eq (memWf_freeChoice h) e)

theorem memWf_allocL1 {a x pline} : MemWf (allocL1 a x pline s) := by
  unfold allocL1
  split
  · exact h
  · exact memWf_updCore (memWf_putStashClean (memWf_clearL1 (memWf_l1Room h)))

theorem memWf_removeReqs {id rs} : MemWf (removeReqs id rs s) := by
  unfold removeReqs
  split
  · exact memWf_putAcc h
  · exact h

theorem memWf_noteAhead {a loc} : MemWf (noteAhead a loc s) := by
  unfold noteAhead
  split
  · exact h
  · exact memWf_updAccGroup h

theorem memWf_stampwReads {a r x want} : MemWf (stampwReads a r x want s) := by
  unfold stampwReads
  split
  · exact h
  · exact memWf_finishIfDone (memWf_removeReqs (memWf_deliver h))

theorem memWf_gotReqs {id rs x} : MemWf (gotReqs id rs x s) := by
  unfold gotReqs
  split
  · exact memWf_putAcc h
  · exact h

theorem memWf_prefReturn {a rs l1 x pline} : MemWf (prefReturn a rs l1 x pline s) := by
  unfold prefReturn
  refine memWf_finishIfDone (memWf_removeReqs ?_)
  split
  · exact memWf_countError h
  split
  · exact memWf_allocL1 h
  · exact h

theorem memWf_returnGlobal {a rs x pline v} : MemWf (returnGlobal a rs x pline v s) := by
  unfold returnGlobal
  split
  · exact h
  extract_lets _ s₂
  have h₂ : MemWf s₂ := by
    dsimp only [s₂]
    split
    · exact memWf_evictL1 h
    · exact memWf_useL2 (memWf_evictL1 h)
  split
  · exact memWf_prefReturn h₂
  · split
    · exact memWf_finishIfDone (memWf_failLanes h₂)
    split
    · exact memWf_stampwReads h₂
    · exact h₂
  · exact memWf_finishIfDone (memWf_failLanes (memWf_noteAhead (memWf_allocL1 (memWf_gotReqs h₂))))

theorem memWf_returnScratch {a rs c line} : MemWf (returnScratch a rs c line s) := by
  unfold returnScratch
  extract_lets
  split
  · exact h
  · exact memWf_finishIfDone (memWf_failLanes (memWf_noteAhead (memWf_gotReqs h)))

theorem memWf_loadReturn {id key v} : MemWf (loadReturn id key v s) := by
  unfold loadReturn
  extract_lets t
  have ht : MemWf t := memWf_settleAccess h
  clear_value t
  split
  · exact ht
  extract_lets ok rs
  split
  · exact ht
  clear_value rs
  split
  · exact ht
  split
  · exact memWf_returnScratch ht
  · exact memWf_returnGlobal ht
  · exact ht

theorem memWf_atomGlobal {a x r} : MemWf (atomGlobal a x s r) := by
  unfold atomGlobal
  refine memWf_gotReqs ?_
  split
  · exact memWf_putStash (memWf_performBytes h)
  · exact h

theorem memWf_atomScratch {a blk r} : MemWf (atomScratch a blk s r) := by
  unfold atomScratch
  refine memWf_gotReqs ?_
  split
  · exact h
  dsimp only
  split
  · exact memWf_writeScratch h
  split
  · exact memWf_combine (memWf_writeScratch h)
  split
  · exact memWf_performWrite (memWf_putL1 (memWf_putL1 (memWf_putStash (memWf_writeScratch h))))
  · exact memWf_updEntry (memWf_putL1 (memWf_putL1 (memWf_putStash (memWf_writeScratch h))))

theorem memWf_atomicPerform {id key} : MemWf (atomicPerform id key s) := by
  unfold atomicPerform
  extract_lets t
  have ht : MemWf t := memWf_settleAccess h
  clear_value t
  split
  · exact ht
  extract_lets ok rs
  split
  · exact ht
  clear_value rs
  split
  · exact ht
  split
  · extract_lets
    split
    · exact ht
    split
    · exact memWf_combYield ht
    · exact memWf_finishIfDone (memWf_failLanes (memWf_foldl (fun _ _ hu => memWf_atomScratch hu) ht))
  · extract_lets
    split
    · exact ht
    · refine memWf_finishIfDone (memWf_failLanes (memWf_foldl (fun _ _ hu => memWf_atomGlobal hu) ?_))
      exact memWf_useL2 (memWf_flushLine ht)
  · exact ht

theorem memWf_decideAnew {core slot g id} : MemWf (decideAnew core slot g id s) :=
  memWf_decideStore (memWf_updGroup h)

theorem memWf_storeCommit {core slot v} : MemWf (storeCommit core slot v s) := by
  unfold storeCommit
  extract_lets
  split
  · exact h
  split
  · exact h
  split
  · exact h
  split
  · exact memWf_decideAnew h
  extract_lets s₁
  have h₁ : MemWf s₁ := by
    dsimp only [s₁]
    split
    · exact memWf_dropBadLanes h
    · exact h
  split
  · exact memWf_retireGroup (memWf_wakeSpills h₁)
  split
  · exact memWf_retireGroup (memWf_wakeSpills h₁)
  split
  · exact memWf_retireGroup (memWf_wakeSpills (memWf_combYield h₁))
  · exact memWf_retireGroup (memWf_wakeSpills (memWf_commitEntry (memWf_evictL1 (memWf_updCore (memWf_setGroup h₁)))))

theorem memWf_invalidateIbuf {core tenant lo hi scope} : MemWf (invalidateIbuf s core tenant lo hi scope) := by
  unfold invalidateIbuf
  split
  · exact h
  · exact memWf_mk h

theorem memWf_releaseHold {k op} : MemWf (releaseHold k op s) :=
  memWf_updGroup h

theorem memWf_arrive {blk b lanes} : MemWf (arrive blk b lanes s) :=
  memWf_barrierTest (memWf_updBlock h)

theorem optWf_callLanes {i g m target} : OptWf (callLanes i g m target s) := by
  unfold callLanes
  extract_lets
  split
  · exact optWf_none
  split
  next e =>
    refine optWf_some ?_
    split
    · exact memWf_precise (memWf_updGroup (memWf_updGroup (MemWf.of_eq (memWf_fresh h) e)))
    · exact memWf_enqueueStore (memWf_precise (memWf_updGroup (memWf_updGroup (MemWf.of_eq (memWf_fresh h) e))))

theorem presWf_procCall {p target} : PResWf (procCall p target s) := by
  unfold procCall
  split
  · exact presWf_fault
  · exact presWf_done h

@[simp] theorem memWf_opCall {hd f} : MemWf (opCall hd f s) := by
  unfold opCall
  split
  · refine memWf_groupIssue h (fun _ _ _ ht => ?_)
    split
    · exact optWf_some (memWf_illegal ht)
    · exact optWf_callLanes ht
  refine memWf_procIssue h (fun _ _ _ ht => ?_)
  split
  · exact presWf_fault
  · exact presWf_procCall ht

@[simp] theorem memWf_opCallx {hd f} : MemWf (opCallx hd f s) :=
  memWf_groupIssue h (fun _ _ _ ht => optWf_map (fun _ ht₁ => memWf_precise ht₁) (optWf_callLanes ht))

/-- The address of the refill is kept opaque, or the kernel would evaluate its arithmetic modulo 2^64. -/
theorem memWf_startRefill {i g l} : MemWf (startRefill i g l s) := by
  generalize hf : startRefill = f
  delta startRefill at hf
  subst hf
  generalize spillAddr = addr
  induction addr using of_forall with | H addr =>
  dsimp only
  exact memWf_settleAccess (memWf_putAcc (memWf_trReqs (memWf_updGroup (memWf_fresh h))))

@[simp] theorem memWf_opRet {hd f} : MemWf (opRet hd f s) := by
  unfold opRet
  split
  · refine memWf_groupIssue h (fun _ _ _ ht => ?_)
    extract_lets
    split
    · exact optWf_none
    · exact optWf_some (memWf_foldl (fun _ _ ht₁ => memWf_startRefill ht₁) (memWf_precise (memWf_updGroup (memWf_updGroup ht))))
  refine memWf_procIssue h (fun _ _ _ ht => ?_)
  split
  · exact presWf_fault
  · exact presWf_done ht

theorem memWf_refillLands {id} : MemWf (refillLands id s) := by
  unfold refillLands
  dsimp only
  split
  · exact memWf_settleAccess h
  split
  · exact memWf_settleAccess h
  split
  · exact memWf_finishIfDone (memWf_failLanes (memWf_settleAccess h))
  · exact memWf_finishIfDone (memWf_removeReqs (memWf_updAccGroup (memWf_settleAccess h)))

theorem memWf_stashFillDone {id} : MemWf (stashFillDone id s) := by
  unfold stashFillDone
  split
  · exact h
  split
  · split
    · extract_lets
      split
      · exact h
      split
      · exact memWf_failFill (memWf_countError h)
      · exact memWf_landFill (memWf_useL2 h)
    · exact h
  · exact h

@[simp] theorem memWf_opBar {hd f} : MemWf (opBar hd f s) :=
  memWf_groupIssue h (fun _ _ _ ht => optWf_some (memWf_enqueueMark (memWf_updGroup ht)))

@[simp] theorem memWf_opMon {hd f} : MemWf (opMon hd f s) := by
  unfold opMon
  refine memWf_groupIssue h (fun _ _ _ ht => optWf_memEff ht (fun _ _ _ ht₁ => ?_))
  split
  · exact optWf_some (memWf_scalarFault ht₁)
  · exact optWf_some (memWf_countOob ht₁)
  split
  · exact optWf_some (memWf_illegal ht₁)
  split
  · exact optWf_none
  split
  next e =>
    dsimp only
    exact optWf_some (memWf_settleAccess (memWf_putAcc (memWf_trReqs (MemWf.of_eq (memWf_fresh ht₁) e))))

theorem memWf_wakeMwait {k} : MemWf (wakeMwait k s) :=
  memWf_updGroup h

@[simp] theorem memWf_opMwait {hd f} : MemWf (opMwait hd f s) := by
  unfold opMwait
  refine memWf_groupIssue h (fun _ _ _ ht => ?_)
  extract_lets
  split
  · exact optWf_none
  · split <;> exact optWf_some (memWf_updGroup ht)

theorem memWf_mwaitTimeout {core slot} : MemWf (mwaitTimeout core slot s) := by
  unfold mwaitTimeout
  split
  · split
    · split
      · exact memWf_wakeMwait h
      · exact h
    · exact h
  · exact h

theorem memWf_sleepExpiry {core slot} : MemWf (sleepExpiry core slot s) :=
  memWf_updGroup h

@[simp] theorem memWf_opIcinv {hd f} : MemWf (opIcinv hd f s) := by
  unfold opIcinv
  refine memWf_groupIssue h (fun _ _ _ ht => ?_)
  dsimp only
  split
  · exact optWf_some (memWf_illegal ht)
  · exact optWf_some (memWf_mk (memWf_enqueueMark (memWf_fresh ht)))

@[simp] theorem memWf_opTlbinv {hd f} : MemWf (opTlbinv hd f s) :=
  memWf_groupIssue h (fun _ _ _ ht => optWf_some (memWf_scalarResult (memWf_mk ht)))

theorem memWf_counterTest {blk core c} : MemWf (counterTest blk core c s) := by
  unfold counterTest
  split
  · exact h
  split
  · exact h
  split
  · exact h
  refine memWf_foldl (fun _ _ ht => ?_) h
  split
  · exact ht
  extract_lets
  split
  · exact ht
  · exact memWf_acquireAt (memWf_setGroup ht)

theorem memWf_changeCounter {blk core c val tgt} : MemWf (changeCounter blk core c val tgt s) :=
  memWf_counterTest (memWf_updBlock h)

theorem memWf_arriveCounter {blk core c n} : MemWf (arriveCounter blk core c n s) :=
  memWf_changeCounter h

@[simp] theorem memWf_opCtrset {hd f} : MemWf (opCtrset hd f s) := by
  unfold opCtrset
  refine memWf_groupIssue h (fun _ _ _ ht => optWf_memEff ht (fun _ _ _ ht₁ => ?_))
  split
  · exact optWf_some (memWf_precise ht₁)
  split
  next e => exact optWf_some (memWf_mk (memWf_enqueueMark (memWf_mk (MemWf.of_eq (memWf_fresh ht₁) e))))

theorem memWf_applyCtr {blk core c opt val tgt} : MemWf (applyCtr blk core c opt val tgt s) := by
  unfold applyCtr
  split <;> exact memWf_changeCounter h

@[simp] theorem memWf_opCtrwait {hd f} : MemWf (opCtrwait hd f s) := by
  unfold opCtrwait
  refine memWf_groupIssue h (fun _ _ _ ht => optWf_memEff ht (fun _ _ _ ht₁ => ?_))
  split
  · exact optWf_some (memWf_precise ht₁)
  split
  · exact optWf_none
  dsimp only
  split
  · refine optWf_some (memWf_scalarResult ?_)
    split
    · exact memWf_acquireAt ht₁
    · exact ht₁
  split
  · exact optWf_some (memWf_acquireAt ht₁)
  · exact optWf_some (memWf_updGroup ht₁)

theorem memWf_setRing {blk q w} : MemWf (setRing blk q w s) :=
  memWf_updBlock (memWf_mk h)

@[simp] theorem memWf_opQcw {hd f} : MemWf (opQcw hd f s) := by
  unfold opQcw
  refine memWf_groupIssue h (fun _ _ _ ht => ?_)
  split
  · exact optWf_some ht
  extract_lets
  split
  · exact optWf_some (memWf_scalarResult (memWf_scalarResult ht))
  split
  · exact optWf_some (memWf_precise ht)
  split
  · exact optWf_some (memWf_precise ht)
  split
  · exact optWf_some (memWf_precise ht)
  · exact optWf_some (memWf_wakeStreams (memWf_setRing ht))

@[simp] theorem memWf_opSbind {hd f} : MemWf (opSbind hd f s) := by
  unfold opSbind
  refine memWf_groupIssue h (fun _ _ _ ht => ?_)
  extract_lets
  split
  · exact optWf_some (memWf_precise ht)
  split
  · exact optWf_some (memWf_precise ht)
  · exact optWf_some (memWf_updGroup ht)

@[simp] theorem memWf_opSunbind {hd f} : MemWf (opSunbind hd f s) := by
  unfold opSunbind
  refine memWf_groupIssue h (fun _ _ _ ht => ?_)
  extract_lets
  split
  · exact optWf_some (memWf_precise ht)
  split
  · exact optWf_some (memWf_precise ht)
  · exact optWf_some (memWf_updGroup ht)

@[simp] theorem memWf_opMset {hd f} : MemWf (opMset hd f s) := by
  unfold opMset
  refine memWf_groupIssue h (fun _ _ _ ht => ?_)
  extract_lets
  split
  · exact optWf_some (memWf_illegal ht)
  · exact optWf_some (memWf_updGroup ht)

theorem memWf_l2Miss : MemWf (l2Miss s) := by
  unfold l2Miss
  split
  · exact memWf_startFill h
  · exact h

theorem memWf_hardwarePrefetch {core tenant va} : MemWf (hardwarePrefetch core tenant va s) := by
  unfold hardwarePrefetch
  split
  · exact h
  split
  next e =>
    dsimp only
    exact memWf_settleAccess (memWf_putAcc (memWf_trReqs (MemWf.of_eq (memWf_fresh h) e)))

end Sys2Proof.Laws
end

section
/-!
SUPPORT. Keyed queues, the matrix engine, the engines of copies and fills, and page changes keep memory canonical (R262 to R300,
R101, R201).
-/

namespace Sys2Proof.Laws

open Sys2Proof.Machine

variable {s : State} (h : MemWf s)
include h

theorem optWf_spill {q tenant r} : OptWf (spill q tenant r s) := by
  unfold spill
  extract_lets
  split
  · exact optWf_none
  split
  next e => exact optWf_some (memWf_updKcq (memWf_performBytes (MemWf.of_eq (memWf_walkNow h) e)))
  · exact optWf_none

theorem memWf_countSpawn {p f} : MemWf (countSpawn p f s) := by
  unfold countSpawn
  split
  · exact memWf_mk h
  · exact h

theorem memWf_loseRecord {r} : MemWf (loseRecord r s) :=
  memWf_countSpawn h

theorem optWf_ringBusy {q tenant n want} : OptWf (ringBusy q tenant n want s) := by
  unfold ringBusy
  split
  · split
    · exact optWf_none
    · exact optWf_some h
  next e => exact optWf_some (MemWf.of_eq (memWf_walkNow h) e)
  · exact optWf_some h
  · exact optWf_none

theorem optWf_pushWaits {q tenant r} : OptWf (pushWaits q tenant r s) := by
  unfold pushWaits
  split
  · exact optWf_ringBusy h
  · exact optWf_none

theorem optWf_kqPush {q tenant r} : OptWf (kqPush q tenant r s) := by
  unfold kqPush
  dsimp only
  split
  · exact optWf_spill h
  split
  · split
    · exact optWf_some (memWf_updKcq h)
    · exact optWf_spill (memWf_updKcq h)
  split
  · split
    · exact optWf_some (memWf_updKcq (memWf_updKcq h))
    · exact optWf_spill (memWf_updKcq (memWf_updKcq h))
  · exact optWf_some (memWf_updKcq h)

theorem claimedWf_claim {q tenant} : ClaimedWf (claim q tenant s) := by
  unfold claim
  dsimp only
  split
  · split
    next e₁ => exact claimedWf_wait (OptWf.of_eq (optWf_ringBusy h) e₁)
    split
    next e₂ =>
      split
      · exact claimedWf_bad (memWf_loseRecord (memWf_countError (memWf_updKcq (MemWf.of_eq (memWf_walkNow h) e₂))))
      · exact claimedWf_record (memWf_updKcq (MemWf.of_eq (memWf_walkNow h) e₂))
    · exact claimedWf_nothing
  split
  · exact claimedWf_nothing
  split
  · exact claimedWf_bad (memWf_loseRecord (memWf_countError (memWf_clearErrs (memWf_updKcq h))))
  · exact claimedWf_record (memWf_updKcq h)

/-- The list of the 4096 tickets is kept opaque, or the case split would evaluate it. -/
theorem optPairWf_takeTicket {q blk} : OptPairWf (takeTicket q blk s) := by
  unfold takeTicket
  generalize List.range 4096 = names
  dsimp only
  split
  · exact optPairWf_none
  · exact optPairWf_some (memWf_updKcq (memWf_freeChoice h))

theorem memWf_wakePop {k w ws} : MemWf (wakePop k w ws s) :=
  memWf_updGroup h

theorem memWf_dispatchClaim {q} : MemWf (dispatchClaim q s) := by
  unfold dispatchClaim
  split
  · exact h
  split
  · exact h
  split
  · exact h
  split
  · exact h
  next e₁ => exact ClaimedWf.of_wait (claimedWf_claim h) e₁
  next e₁ => exact memWf_takeTrap (memWf_updGroup (ClaimedWf.of_bad (claimedWf_claim h) e₁))
  next e₁ =>
    split
    · exact ClaimedWf.of_record (claimedWf_claim h) e₁
    next e₂ =>
      extract_lets
      split
      · exact memWf_acquireAt (memWf_wakePop (OptPairWf.of_eq (optPairWf_takeTicket (ClaimedWf.of_record (claimedWf_claim h) e₁)) e₂))
      · exact memWf_wakePop (OptPairWf.of_eq (optPairWf_takeTicket (ClaimedWf.of_record (claimedWf_claim h) e₁)) e₂)

theorem memWf_endToken {q} : MemWf (endToken q s) := by
  unfold endToken
  split
  · refine memWf_foldl (fun _ _ ht => ?_) h
    split
    · exact memWf_updGroup (memWf_wakePop ht)
  · exact h

theorem memWf_parentAdd {p f} : MemWf (parentAdd p f s) := by
  unfold parentAdd
  extract_lets
  split
  · exact h
  split
  · exact memWf_countSpawn h
  split
  · split
    · exact memWf_changeCounter (memWf_countSpawn h)
    · exact memWf_countSpawn h
  · exact memWf_countSpawn h

theorem memWf_applyDone {q t word} : MemWf (applyDone q t word s) :=
  memWf_updKcq (memWf_parentAdd h)

theorem memWf_healTiles {cl ts} : MemWf (healTiles cl ts s) :=
  memWf_clearErrs h

theorem memWf_healCells {cl ts keys} : MemWf (healCells cl ts keys s) :=
  memWf_clearErrs h

theorem memWf_matError {o bad} : MemWf (matError o bad s) := by
  unfold matError
  split
  · exact memWf_postRec (memWf_countError h)
  · exact h

theorem memWf_runPass {o ts m} : MemWf (runPass o ts m s) := by
  unfold runPass
  exact memWf_updMat (memWf_healTiles (memWf_matError h))

theorem memWf_passDelay : MemWf (passDelay s).2 := by
  unfold passDelay
  split
  · exact h
  split
  next e => exact memWf_snd (MemWf.of_eq (memWf_freeWord h) e)

theorem memWf_startPass {cl} : MemWf (startPass cl s) := by
  unfold startPass
  split
  · split
    next e => exact memWf_updMat (MemWf.of_eq (memWf_passDelay h) e)
  · exact h

theorem memWf_startPort {cl} : MemWf (startPort cl s) := by
  unfold startPort
  split
  · split
    · exact memWf_updMat h
    · exact h
  · exact h

theorem memWf_rowError {k x m} : MemWf (rowError k x m s) := by
  unfold rowError
  split
  next e => exact memWf_takeTrap (memWf_countError (MemWf.of_eq (memWf_freeWord h) e))

theorem memWf_deliverRows {o ts regs row} : MemWf (deliverRows o ts regs row s) := by
  unfold deliverRows
  refine memWf_dropOp ?_
  split
  · exact memWf_foldl (fun _ _ ht => memWf_foldl (fun _ _ ht₁ => memWf_updGroup ht₁) ht) h
  · exact memWf_rowError (memWf_updGroup (memWf_foldl (fun _ _ ht => memWf_foldl (fun _ _ ht₁ => memWf_updGroup ht₁) ht) h))

theorem memWf_serveReads {cl} : MemWf (serveReads cl s) := by
  unfold serveReads
  refine memWf_foldl (fun _ _ ht => ?_) h
  split
  · split
    · split
      · exact ht
      · exact memWf_deliverRows ht
    · exact ht

theorem memWf_pumpMatrix {cl} : MemWf (pumpMatrix cl s) :=
  memWf_startPort (memWf_startPass (memWf_serveReads h))

theorem memWf_matDone {o} : MemWf (matDone o s) := by
  unfold matDone
  extract_lets
  split
  · exact memWf_acquireAt (memWf_updGroup (memWf_dropOp h))
  · exact memWf_updGroup (memWf_dropOp h)

theorem memWf_passEnd {cl} : MemWf (passEnd cl s) := by
  unfold passEnd
  split
  · exact h
  split
  · exact memWf_pumpMatrix (memWf_updMat h)
  split
  · split
    · exact h
    refine memWf_pumpMatrix ?_
    split
    · exact memWf_matDone (memWf_runPass (memWf_updMat h))
    · exact memWf_putOp (memWf_runPass (memWf_updMat h))
  · exact h

theorem memWf_storeTile {o ts core off pitch typ rm ctr} : MemWf (storeTile o ts core off pitch typ rm ctr s) := by
  unfold storeTile
  extract_lets
  split
  · exact memWf_arriveCounter (memWf_foldl (fun _ _ ht => memWf_writeScratch ht) h)
  · exact memWf_foldl (fun _ _ ht => memWf_writeScratch ht) h

theorem memWf_quantHalf {o ts typ inf at_ half ctr} : MemWf (quantHalf o ts typ inf at_ half ctr s) := by
  unfold quantHalf
  split
  · exact h
  extract_lets
  split
  · exact memWf_arriveCounter (memWf_foldl (fun _ _ ht => memWf_writeScratch (memWf_writeScratch ht)) h)
  · exact memWf_foldl (fun _ _ ht => memWf_writeScratch (memWf_writeScratch ht)) h

theorem memWf_portEffect {o ts c} : MemWf (portEffect o ts c s) := by
  unfold portEffect
  extract_lets
  split
  · exact memWf_updMat (memWf_healTiles h)
  · exact memWf_updMat (memWf_healTiles (memWf_matError h))
  · exact memWf_storeTile (memWf_matError h)
  · exact memWf_updMat (memWf_matError (memWf_healCells h))
  · exact memWf_quantHalf (memWf_quantHalf (memWf_matError h))
  · exact h

theorem memWf_portDone {cl} : MemWf (portDone cl s) := by
  unfold portDone
  split
  · exact h
  split
  · exact memWf_pumpMatrix (memWf_updMat h)
  split
  · split
    · exact h
    · exact memWf_pumpMatrix (memWf_matDone (memWf_portEffect (memWf_updMat h)))
  · exact h

theorem memWf_postOp {i g scope kind} : MemWf (postOp i g scope kind s) := by
  unfold postOp
  split
  next e => exact memWf_enqueueMark (memWf_putOp (memWf_updGroup (MemWf.of_eq (memWf_fresh h) e)))

theorem optWf_engineFault {i c sub info} : OptWf (engineFault i c sub info s) :=
  optWf_some (memWf_precise h)

@[simp] theorem memWf_opCpy {hd f} : MemWf (opCpy hd f s) := by
  unfold opCpy
  refine memWf_groupIssue h (fun _ _ _ ht => optWf_memEff ht (fun _ _ _ ht₁ => ?_))
  split
  · exact optWf_engineFault ht₁
  split
  · exact optWf_none
  · exact optWf_some (memWf_postOp ht₁)

theorem memWf_engineRead {tenant core va n} : MemWf (engineRead tenant core va n s).2 := by
  unfold engineRead
  split
  next e =>
    extract_lets
    split
    · exact memWf_snd (MemWf.of_eq (memWf_walkNow h) e)
    split
    · exact memWf_snd (memWf_errorAt (MemWf.of_eq (memWf_walkNow h) e))
    · exact memWf_snd (memWf_touchL2 (MemWf.of_eq (memWf_walkNow h) e))
  next e => exact memWf_snd (MemWf.of_eq (memWf_walkNow h) e)
  next e => exact memWf_snd (MemWf.of_eq (memWf_walkNow h) e)

theorem memWf_engineDst {tenant core va} : MemWf (engineDst tenant core va s).2 := by
  unfold engineDst
  split
  next e => exact memWf_snd (MemWf.of_eq (memWf_walkNow h) e)
  next e => exact memWf_snd (MemWf.of_eq (memWf_walkNow h) e)
  next e => exact memWf_snd (MemWf.of_eq (memWf_walkNow h) e)

theorem memWf_prepSlice {o c x2 x3} : MemWf (prepSlice o c x2 x3 s).2 := by
  induction x2 generalizing x3 s with
  | nil => exact h
  | cons x xs ih =>
    unfold prepSlice
    split
    next e₁ => exact memWf_snd (MemWf.of_eq (memWf_engineRead h) e₁)
    next e₁ =>
      extract_lets
      split
      · split
        next e₂ => exact memWf_snd (MemWf.of_eq (memWf_engineDst (MemWf.of_eq (memWf_engineRead h) e₁)) e₂)
        next e₂ => exact ih (MemWf.of_eq (memWf_engineDst (MemWf.of_eq (memWf_engineRead h) e₁)) e₂)
      · exact ih (MemWf.of_eq (memWf_engineRead h) e₁)

theorem memWf_endCopy {o c} : MemWf (endCopy o c s) := by
  unfold endCopy
  dsimp only
  split
  · split
    · exact memWf_dropOp h
    split
    · exact memWf_mk (memWf_dropOp h)
    · exact memWf_dropOp h
  · exact memWf_dropOp h

theorem memWf_stopCopy {o c cause va write info} : MemWf (stopCopy o c cause va write s info) := by
  unfold stopCopy
  extract_lets s₁
  have h₁ : MemWf s₁ := by
    dsimp only [s₁]
    split
    · exact h
    · exact memWf_postRec h
  split
  · exact memWf_endCopy h₁
  · exact memWf_putOp h₁

theorem memWf_stampCopy {o c} : MemWf (stampCopy o c s) := by
  unfold stampCopy
  split
  · exact memWf_endCopy h
  split
  next e =>
    split
    · exact memWf_endCopy (memWf_touchL2 (memWf_performBytes (MemWf.of_eq (memWf_engineDst h) e)))
    · exact MemWf.of_eq (memWf_engineDst h) e
  next e => exact memWf_stopCopy (MemWf.of_eq (memWf_engineDst h) e)
  next e => exact memWf_agentWait (MemWf.of_eq (memWf_engineDst h) e)

theorem memWf_sendSlice {o _c x} : MemWf (sendSlice o _c x s) := by
  unfold sendSlice
  split
  · exact memWf_mk h
  · exact h

theorem memWf_copyPush {id} : MemWf (copyPush id s) := by
  unfold copyPush
  split
  · exact h
  split
  · extract_lets
    split
    · exact h
    split
    · extract_lets
      split
      · exact h
      · exact memWf_putOp (memWf_sendSlice h)
    split
    · split
      · exact memWf_stampCopy h
      · exact h
    split
    · exact h
    split
    next e => exact memWf_sendSlice (memWf_putOp (MemWf.of_eq (memWf_prepSlice h) e))
    next e => exact memWf_agentWait (MemWf.of_eq (memWf_prepSlice h) e)
    next e => exact memWf_stopCopy (MemWf.of_eq (memWf_prepSlice h) e)
  · exact h

theorem memWf_sliceDone {o c x} : MemWf (sliceDone o c x s) := by
  unfold sliceDone
  extract_lets _ _ s₂
  have h₂ : MemWf s₂ := by
    dsimp only [s₂]
    split
    · exact memWf_arriveCounter (memWf_putOp h)
    · exact memWf_putOp h
  split
  · split
    · exact memWf_endCopy h₂
    · exact memWf_stampCopy h₂
  · exact h₂

theorem memWf_copyWritten {id n k} : MemWf (copyWritten id n k s) := by
  unfold copyWritten
  split
  · exact h
  split
  · split
    · exact h
    split
    · exact h
    extract_lets _ s₁
    have h₁ : MemWf s₁ := by
      dsimp only [s₁]
      split
      · exact memWf_writeScratch h
      · exact memWf_touchL2 (memWf_performWrite h)
    split
    · exact h
    split
    · exact memWf_stopCopy (memWf_errorAt h)
    split
    · exact memWf_sliceDone h₁
    · exact memWf_putOp h₁
  · exact h

theorem memWf_sliceRefused {o c x word} : MemWf (sliceRefused o c x word s) :=
  memWf_stopCopy h

theorem memWf_sliceAck {x} : MemWf (sliceAck x s) := by
  unfold sliceAck
  split
  · exact h
  split
  · split
    · split
      · exact h
      split
      · exact memWf_sliceRefused h
      · exact memWf_sliceDone h
    · exact h
  · exact h

theorem memWf_copyTimeout {id} : MemWf (copyTimeout id s) := by
  unfold copyTimeout
  split
  · exact h
  split
  · split
    · split
      · exact h
      · exact memWf_stopCopy h
    · exact h
  · exact h

@[simp] theorem memWf_opMfill {hd f} : MemWf (opMfill hd f s) := by
  unfold opMfill
  refine memWf_groupIssue h (fun _ _ _ ht => optWf_memEff ht (fun _ _ _ ht₁ => ?_))
  split
  · exact optWf_engineFault ht₁
  split
  · exact optWf_none
  · exact optWf_some (memWf_postOp ht₁)

theorem memWf_fillLines {o x1 x2} : MemWf (fillLines o x1 x2 s).2 := by
  induction x1 generalizing x2 s with
  | nil => exact h
  | cons x xs ih =>
    unfold fillLines
    split
    next e => exact ih (MemWf.of_eq (memWf_engineRead h) e)
    next e =>
      split
      · exact ih (MemWf.of_eq (memWf_engineRead h) e)
      · exact memWf_snd (MemWf.of_eq (memWf_engineRead h) e)
    next e => exact memWf_snd (MemWf.of_eq (memWf_engineRead h) e)

theorem memWf_fillBlock {f lines core blk} : MemWf (fillBlock f lines core s blk) := by
  unfold fillBlock
  refine memWf_arriveCounter (memWf_foldl (fun _ _ ht => ?_) h)
  split
  · split
    · exact memWf_writeScratch ht
    · exact ht

theorem memWf_fillCore {o f lines core} : MemWf (fillCore o f lines core s) := by
  unfold fillCore
  extract_lets
  split
  · exact memWf_dropOp (memWf_arriveCounter (memWf_foldl (fun _ _ ht => memWf_fillBlock ht) h))
  · exact memWf_putOp (memWf_arriveCounter (memWf_foldl (fun _ _ ht => memWf_fillBlock ht) h))

theorem memWf_fillDelivery {id core} : MemWf (fillDelivery id core s) := by
  unfold fillDelivery
  split
  · exact h
  split
  · split
    · exact h
    split
    · exact memWf_dropOp h
    split
    · exact h
    split
    · exact memWf_fillCore h
    split
    next e =>
      refine memWf_fillCore ?_
      split
      · exact memWf_postRec (MemWf.of_eq (memWf_fillLines h) e)
      · exact MemWf.of_eq (memWf_fillLines h) e
    next e => exact memWf_dropOp (memWf_postRec (MemWf.of_eq (memWf_fillLines h) e))
    next e => exact memWf_agentWait (MemWf.of_eq (memWf_fillLines h) e)
    next e => exact MemWf.of_eq (memWf_fillLines h) e
  · exact h

@[simp] theorem memWf_opXpush {hd f} : MemWf (opXpush hd f s) := by
  unfold opXpush
  refine memWf_groupIssue h (fun _ _ _ ht => optWf_memEff ht (fun _ _ _ ht₁ => ?_))
  split
  · exact optWf_engineFault ht₁
  split
  · exact optWf_none
  · exact optWf_some (memWf_postOp ht₁)

@[simp] theorem memWf_opXpull {hd f} : MemWf (opXpull hd f s) := by
  unfold opXpull
  refine memWf_groupIssue h (fun _ _ _ ht => optWf_memEff ht (fun _ _ _ ht₁ => ?_))
  split
  · exact optWf_engineFault ht₁
  split
  · exact optWf_none
  · exact optWf_some (memWf_postOp ht₁)

@[simp] theorem memWf_opStamp {hd f} : MemWf (opStamp hd f s) := by
  unfold opStamp
  refine memWf_groupIssue h (fun _ _ _ ht => optWf_memEff ht (fun _ _ _ ht₁ => ?_))
  split
  · exact optWf_engineFault ht₁
  · exact optWf_some ht₁
  split
  · exact optWf_none
  split
  next e => exact optWf_some (memWf_updGroup (memWf_enqueueStore (MemWf.of_eq (memWf_fresh ht₁) e)))

@[simp] theorem memWf_opStampw {hd f} : MemWf (opStampw hd f s) := by
  unfold opStampw
  refine memWf_groupIssue h (fun _ _ _ ht => optWf_memEff ht (fun _ _ _ ht₁ => ?_))
  split
  · exact optWf_engineFault ht₁
  · exact optWf_some ht₁
  split
  · exact optWf_engineFault ht₁
  split
  · exact optWf_none
  split
  next e =>
    dsimp only
    exact optWf_some (memWf_settleAccess (memWf_putAcc (memWf_trReqs (memWf_updGroup (MemWf.of_eq (memWf_fresh ht₁) e)))))

@[simp] theorem memWf_opMsend {hd f} : MemWf (opMsend hd f s) := by
  unfold opMsend
  refine memWf_groupIssue h (fun _ _ _ ht => optWf_memEff ht (fun _ _ _ ht₁ => ?_))
  split
  · exact optWf_engineFault ht₁
  · exact optWf_some (memWf_countOob ht₁)
  split
  · exact optWf_engineFault ht₁
  · exact optWf_some (memWf_postOp ht₁)

@[simp] theorem memWf_opQpost {hd f} : MemWf (opQpost hd f s) := by
  unfold opQpost
  refine memWf_groupIssue h (fun _ _ _ ht => optWf_memEff ht (fun _ _ _ ht₁ => ?_))
  extract_lets
  split
  · exact optWf_engineFault ht₁
  split
  · exact optWf_engineFault ht₁
  · exact optWf_some (memWf_updGroup (memWf_postOp ht₁))

theorem memWf_postStatus {o d x} : MemWf (postStatus o d x s) :=
  memWf_dropOp (memWf_updGroup h)

theorem memWf_doPost {o q words d} : MemWf (doPost o q words d s) := by
  unfold doPost
  extract_lets
  split
  · exact h
  split
  · exact memWf_postStatus h
  split
  · exact memWf_postStatus h
  split
  · exact memWf_postStatus (memWf_updQueue (memWf_performBytes h))
  split
  next e =>
    split
    · exact memWf_postStatus (memWf_updQueue (memWf_touchL2 (memWf_performBytes (MemWf.of_eq (memWf_engineDst h) e))))
    · exact MemWf.of_eq (memWf_engineDst h) e
  next e => exact memWf_takeTrap (memWf_dropOp (memWf_updGroup (MemWf.of_eq (memWf_engineDst h) e)))
  next e => exact memWf_agentWait (MemWf.of_eq (memWf_engineDst h) e)

theorem memWf_runOp {id} : MemWf (runOp id s) := by
  unfold runOp
  split
  · exact h
  split
  · exact h
  split
  · exact memWf_releaseHold (memWf_applyCtr (memWf_dropOp h))
  · exact memWf_doPost h
  · exact memWf_applyDone (memWf_dropOp h)
  · exact h

theorem memWf_opReady {id} : MemWf (opReady id s) := by
  unfold opReady
  split
  · exact h
  extract_lets s₁
  have h₁ : MemWf s₁ := by
    dsimp only [s₁]
    split
    · exact memWf_parentAdd h
    · exact h
  split
  · exact memWf_pumpMatrix (memWf_putOp h₁)
  · exact memWf_runOp (memWf_putOp h₁)

theorem memWf_markDone {core e m} : MemWf (markDone core e m s) := by
  unfold markDone
  split
  · split
    · exact memWf_pumpFences (memWf_putAcc h)
    · exact h
  · exact memWf_opReady h
  · exact memWf_wakeStreams (memWf_updBlock h)
  · split
    · exact memWf_mk h
    · exact h
  · split
    · exact memWf_arrive h
    · exact h
  · exact memWf_releaseHold (memWf_invalidateIbuf h)

theorem memWf_storeGoodBytes {e core} : MemWf (Store.goodBytes e core s).2 := by
  unfold Store.goodBytes
  split
  · exact h
  refine memWf_snd (memWf_wbFault ?_)
  split
  · refine memWf_foldl (fun _ _ ht => ?_) (memWf_dropL1 h)
    split
    · exact memWf_updEntry ht
  · exact h

theorem memWf_performEntry {core e} : MemWf (performEntry core e s) := by
  unfold performEntry
  split
  · exact memWf_markDone h
  split
  · exact memWf_writeScratch h
  · exact memWf_sendStore h
  · split
    next e => exact memWf_performWrite (memWf_useL2 (MemWf.of_eq (memWf_storeGoodBytes h) e))
  · split
    next e => exact memWf_touchL2 (memWf_performWrite (MemWf.of_eq (memWf_storeGoodBytes h) e))
  · exact h

theorem memWf_l2Write {x} : MemWf (l2Write x s) := by
  unfold l2Write
  split
  · exact memWf_runOp h
  extract_lets
  split
  · exact h
  split
  · split
    · exact memWf_combYield h
    · exact h
  · exact memWf_performEntry (memWf_updCore h)

theorem memWf_postPgmode {i g va large leaf} : MemWf (postPgmode i g va large leaf s) := by
  unfold postPgmode
  split
  next e => exact memWf_mk (memWf_updGroup (MemWf.of_eq (memWf_fresh h) e))

@[simp] theorem memWf_opPgmode {hd f} : MemWf (opPgmode hd f s) := by
  unfold opPgmode
  refine memWf_groupIssue h (fun _ _ _ ht => ?_)
  extract_lets
  split
  · exact optWf_none
  split
  · exact optWf_some (memWf_postPgmode ht)
  split
  · split
    · exact optWf_some (memWf_illegal ht)
    · exact optWf_some (memWf_postPgmode ht)
  · exact optWf_some (memWf_illegal ht)

theorem memWf_pageWriteBack {p} : MemWf (pageWriteBack p s).2 := by
  unfold pageWriteBack
  extract_lets r clean
  have hr : MemWf r.2 := by
    refine memWf_foldl_snd (fun _ _ ht => memWf_foldl_snd (fun _ _ ht' => ?_) ht) (r := (_, s)) h
    split
    · split
      · dsimp only
        exact memWf_updEntry (memWf_wbNow ht')
      · exact ht'
  refine memWf_foldl_snd (fun _ _ ht => ?_) hr
  refine memWf_foldl_snd (fun _ _ ht' => ?_) (r := (_, _)) (memWf_updCore ht)
  dsimp only
  exact memWf_wbNow ht'

theorem memWf_pageInvalidate {p} : MemWf (pageInvalidate p s) :=
  memWf_mk h

theorem memWf_pgmodeDone {id} : MemWf (pgmodeDone id s) := by
  unfold pgmodeDone
  split
  · exact h
  split
  · split
    · extract_lets
      split
      · exact h
      split
      · exact memWf_takeTrap (memWf_updGroup (memWf_mk h))
      split
      · split
        · exact h
        · exact memWf_updGroup (memWf_mk h)
      · split
        · exact h
        split
        next e => exact memWf_updGroup (memWf_mk (MemWf.of_eq (memWf_pageWriteBack h) e))
        next e => exact memWf_takeTrap (memWf_updGroup (memWf_mk (MemWf.of_eq (memWf_pageWriteBack h) e)))
      · exact memWf_updGroup (memWf_mk (memWf_pageInvalidate h))
  · exact h

theorem memWf_holdOn {id} : MemWf (holdOn id s) :=
  memWf_mk h

theorem memWf_postQueued {i g rel kind} : MemWf (postQueued i g rel kind s) := by
  unfold postQueued
  dsimp only
  split
  · exact memWf_holdOn (memWf_postOp h)
  · exact memWf_holdOn (memWf_putOp (memWf_fresh h))

theorem optWf_pushEff {parent rel i g} : OptWf (pushEff parent rel i g s) := by
  unfold pushEff
  extract_lets
  split
  · exact optWf_engineFault h
  split
  · exact optWf_none
  · exact optWf_some (memWf_postQueued h)

@[simp] theorem memWf_opKpush {hd f} : MemWf (opKpush hd f s) :=
  memWf_groupIssue h (fun _ _ _ ht => optWf_memEff ht (fun _ _ _ ht₁ => optWf_pushEff ht₁))

@[simp] theorem memWf_opSpawn {hd f} : MemWf (opSpawn hd f s) := by
  unfold opSpawn
  refine memWf_groupIssue h (fun _ _ _ ht => optWf_memEff ht (fun _ _ _ ht₁ => ?_))
  split
  · exact optWf_engineFault ht₁
  · exact optWf_pushEff ht₁

theorem memWf_popResult {i ws} : MemWf (popResult i ws s) := by
  unfold popResult
  refine memWf_foldl (fun _ _ ht => ?_) h
  split
  · exact memWf_scalarResult ht

theorem optWf_pollPop {i g q} : OptWf (pollPop i g q s) := by
  unfold pollPop
  extract_lets
  split
  · exact optWf_some (memWf_popResult h)
  split
  · exact optWf_some (memWf_popResult h)
  next e₁ =>
    split
    · exact optWf_none
    · exact optWf_some (memWf_popResult (ClaimedWf.of_wait (claimedWf_claim h) e₁))
  next e₁ => exact optWf_some (memWf_takeTrap (ClaimedWf.of_bad (claimedWf_claim h) e₁))
  next e₁ =>
    split
    · exact optWf_some (memWf_popResult (ClaimedWf.of_record (claimedWf_claim h) e₁))
    next e₂ =>
      refine optWf_some ?_
      split
      · exact memWf_acquireAt (memWf_popResult (OptPairWf.of_eq (optPairWf_takeTicket (ClaimedWf.of_record (claimedWf_claim h) e₁)) e₂))
      · exact memWf_popResult (OptPairWf.of_eq (optPairWf_takeTicket (ClaimedWf.of_record (claimedWf_claim h) e₁)) e₂)

@[simp] theorem memWf_opKpop {hd f} : MemWf (opKpop hd f s) := by
  unfold opKpop
  refine memWf_groupIssue h (fun _ _ _ ht => optWf_memEff ht (fun _ _ _ ht₁ => ?_))
  dsimp only
  split
  · exact optWf_some (memWf_updGroup (memWf_popResult ht₁))
  split
  · exact optWf_pollPop ht₁
  · exact optWf_some (memWf_updGroup (memWf_fresh ht₁))

@[simp] theorem memWf_opKdone {hd f} : MemWf (opKdone hd f s) := by
  unfold opKdone
  refine memWf_groupIssue h (fun _ _ _ ht => optWf_memEff ht (fun _ _ _ ht₁ => ?_))
  extract_lets
  split
  · exact optWf_engineFault ht₁
  · exact optWf_some (memWf_postOp ht₁)

theorem optWf_clusterPerm {i} : OptWf (clusterPerm i s) := by
  unfold clusterPerm
  split
  next e => exact optWf_engineFault (MemWf.of_eq (memWf_freeWord h) e)

@[simp] theorem memWf_opKcfg {hd f} : MemWf (opKcfg hd f s) := by
  unfold opKcfg
  refine memWf_groupIssue h (fun _ _ _ ht => optWf_memEff ht (fun _ _ _ ht₁ => ?_))
  extract_lets
  split
  · exact optWf_clusterPerm ht₁
  · exact optWf_some (memWf_postQueued ht₁)

@[simp] theorem memWf_opKstat {hd f} : MemWf (opKstat hd f s) := by
  unfold opKstat
  refine memWf_groupIssue h (fun _ _ _ ht => ?_)
  extract_lets
  split
  · exact optWf_clusterPerm ht
  · exact optWf_some (memWf_scalarResult ht)

theorem memWf_endQueued {o} : MemWf (endQueued o s) :=
  memWf_releaseHold (memWf_dropOp h)

theorem memWf_failQueued {o word0 cause sub info} : MemWf (failQueued o word0 cause sub info s) :=
  memWf_takeTrap (memWf_endQueued h)

theorem memWf_pushArrives {id} : MemWf (pushArrives id s) := by
  unfold pushArrives
  split
  · exact h
  split
  · split
    · exact h
    split
    next e₁ => exact OptWf.of_eq (optWf_pushWaits h) e₁
    split
    next e₂ => exact memWf_endQueued (OptWf.of_eq (optWf_kqPush h) e₂)
    · exact memWf_failQueued (memWf_parentAdd h)
  · extract_lets
    split
    · exact h
    split
    · exact memWf_failQueued h
    · exact memWf_endQueued (memWf_updKcq h)
  · exact h

theorem optPairWf_bindTiles {i name typ} : OptPairWf (bindTiles i name typ s) := by
  unfold bindTiles
  dsimp only
  cases freeTiles _ _ _ with
  | none => exact optPairWf_none
  | some ts => exact optPairWf_some (memWf_updGroup (memWf_updGroup h))

theorem memWf_postTile {i g ts c} : MemWf (postTile i g ts c s) := by
  unfold postTile
  split
  next e => exact memWf_pumpMatrix (memWf_putOp (MemWf.of_eq (memWf_fresh h) e))

theorem optWf_matIllegal {i sub} : OptWf (matIllegal i sub s) :=
  optWf_engineFault h

theorem memWf_zeroTiles {cl ts} : MemWf (zeroTiles cl ts s) :=
  memWf_updMat (memWf_healTiles h)

theorem memWf_parkOnEntry {i g r} : MemWf (parkOnEntry i g r s) := by
  unfold parkOnEntry
  split
  next e => exact memWf_fillEntries (memWf_putAcc (memWf_updGroup (MemWf.of_eq (memWf_fresh h) e)))

theorem memWf_blockError {i off} : MemWf (blockError i off s) :=
  memWf_takeTrap (memWf_countError h)

@[simp] theorem memWf_opMma {hd f} : MemWf (opMma hd f s) := by
  unfold opMma
  refine memWf_groupIssue h (fun _ _ _ ht => optWf_memEff ht (fun _ _ _ ht₁ => ?_))
  extract_lets
  split
  · exact optWf_matIllegal ht₁
  split
  · exact optWf_engineFault ht₁
  split
  · exact optWf_some (memWf_parkOnEntry ht₁)
  split
  · exact optWf_none
  split
  · exact optWf_some (memWf_blockError ht₁)
  split
  · exact optWf_engineFault ht₁
  extract_lets
  split
  · split
    · exact optWf_none
    refine optWf_map_pair (fun _ ht₂ => ?_) (optPairWf_bindTiles ht₁)
    split
    · exact memWf_postOp (memWf_zeroTiles ht₂)
  split
  · split
    · exact optWf_matIllegal ht₁
    split
    · exact optWf_none
    · exact optWf_some (memWf_postOp ht₁)
  · exact optWf_matIllegal ht₁

@[simp] theorem memWf_opTclr {hd f} : MemWf (opTclr hd f s) := by
  unfold opTclr
  refine memWf_groupIssue h (fun _ _ _ ht => optWf_map_pair (fun _ ht₁ => ?_) (optPairWf_bindTiles ht))
  split
  · exact memWf_postTile ht₁

@[simp] theorem memWf_opTld {hd f} : MemWf (opTld hd f s) := by
  unfold opTld
  refine memWf_groupIssue h (fun _ _ _ ht => optWf_memEff ht (fun _ _ _ ht₁ => ?_))
  split
  · exact optWf_engineFault ht₁
  refine optWf_map_pair (fun _ ht₂ => ?_) (optPairWf_bindTiles ht₁)
  split
  · exact memWf_postOp ht₂

@[simp] theorem memWf_opTst {hd f} : MemWf (opTst hd f s) := by
  unfold opTst
  refine memWf_groupIssue h (fun _ _ _ ht => optWf_memEff ht (fun _ _ _ ht₁ => ?_))
  split
  · exact optWf_matIllegal ht₁
  split
  · exact optWf_matIllegal ht₁
  split
  · exact optWf_engineFault ht₁
  split
  · exact optWf_engineFault ht₁
  · exact optWf_some (memWf_postOp ht₁)

@[simp] theorem memWf_opQdual {hd f} : MemWf (opQdual hd f s) := by
  unfold opQdual
  refine memWf_groupIssue h (fun _ _ _ ht => optWf_memEff ht (fun _ _ _ ht₁ => ?_))
  extract_lets
  split
  · exact optWf_matIllegal ht₁
  split
  · exact optWf_matIllegal ht₁
  split
  · exact optWf_engineFault ht₁
  · exact optWf_engineFault ht₁
  · exact optWf_engineFault ht₁
  · exact optWf_some (memWf_postOp ht₁)

theorem memWf_readRows {i g ts row} : MemWf (readRows i g ts row s) := by
  unfold readRows
  refine memWf_ungather ?_
  split
  · exact h
  · exact memWf_rowError h

@[simp] theorem memWf_opTrd {hd f} : MemWf (opTrd hd f s) := by
  unfold opTrd
  refine memWf_groupIssue h (fun _ _ _ ht => ?_)
  extract_lets
  split
  · exact optWf_matIllegal ht
  split
  · split
    · exact optWf_none
    · exact optWf_some (memWf_postTile (memWf_updGroup ht))
  · exact optWf_some (memWf_readRows ht)

@[simp] theorem memWf_opTwr {hd f} : MemWf (opTwr hd f s) := by
  unfold opTwr
  refine memWf_groupIssue h (fun _ _ _ ht => ?_)
  extract_lets
  split
  · exact optWf_matIllegal ht
  split
  · exact optWf_some (memWf_parkStream ht)
  · exact optWf_some (memWf_postTile (memWf_ungather ht))

@[simp] theorem memWf_opTfree {hd f} : MemWf (opTfree hd f s) :=
  memWf_groupIssue h (fun _ _ _ ht => optWf_some (memWf_updGroup ht))

@[simp] theorem memWf_opTwait {hd f} : MemWf (opTwait hd f s) := by
  unfold opTwait
  refine memWf_groupIssue h (fun _ _ _ ht => ?_)
  split
  · exact optWf_matIllegal ht
  split
  · exact optWf_some (memWf_mk ht)
  · exact optWf_some (memWf_acquireAt ht)

end Sys2Proof.Laws
end

section
/-!
SUPPORT. Folbel handlers and stations keep memory canonical (R301 to R336, R430 to R438).
-/

namespace Sys2Proof.Laws

open Sys2Proof.Machine

variable {s : State} (h : MemWf s)
include h

theorem memWf_handlerWalked {n tenant va} : MemWf (handlerWalked n tenant va s) := by
  unfold handlerWalked
  split
  · exact h
  extract_lets
  split
  · split
    · exact memWf_updDie (memWf_noteWalk h)
    · exact memWf_noteWalk h
  · exact memWf_noteWalk h

theorem memWf_handlerWait {limited va} : MemWf (handlerWait limited va s) :=
  memWf_updCtx h

theorem presWf_handlerAccess {o p write} {go : HPlace → Nat → State → PRes} (hgo : ∀ x n t, MemWf t → PResWf (go x n t)) :
    PResWf (handlerAccess o p write s go) := by
  unfold handlerAccess
  extract_lets
  split
  · exact presWf_fault
  split
  · exact presWf_fault
  · exact presWf_fault
  · exact presWf_wait (memWf_handlerWait h)
  · exact presWf_wait (memWf_mk h)
  refine hgo _ _ _ ?_
  split
  · exact h
  · exact memWf_handlerWalked h

@[simp] theorem memWf_opHlrd {hd f} : MemWf (opHlrd hd f s) := by
  unfold opHlrd
  refine memWf_procIssue h (fun _ _ _ ht => presWf_handlerAccess ht (fun _ _ _ ht₁ => ?_))
  extract_lets
  split
  · split
    · exact presWf_fault
    · exact presWf_done (memWf_touchL2 ht₁)
  · split
    · exact presWf_fault
    · exact presWf_done ht₁
  · exact presWf_wait ht₁

@[simp] theorem memWf_opHlwr {hd f} : MemWf (opHlwr hd f s) := by
  unfold opHlwr
  refine memWf_procIssue h (fun _ _ _ ht => presWf_handlerAccess ht (fun _ _ _ ht₁ => ?_))
  extract_lets
  split
  · split
    · exact presWf_fault
    · exact presWf_done (memWf_touchL2 (memWf_performBytes ht₁))
  · exact presWf_wait ht₁

@[simp] theorem memWf_opHpref {hd f} : MemWf (opHpref hd f s) := by
  unfold opHpref
  refine memWf_procIssue h (fun _ _ _ ht => ?_)
  extract_lets
  split
  · exact presWf_done ht
  split
  · exact presWf_done (memWf_updCtx ht)
  split
  · exact presWf_done (memWf_countError (memWf_updCtx ht))
  split
  · split
    · exact presWf_done (memWf_startFill (memWf_handlerWalked (memWf_updCtx ht)))
    · exact presWf_done (memWf_mk (memWf_handlerWalked (memWf_updCtx ht)))
  · exact presWf_done (memWf_updCtx ht)

theorem presWf_messaging {d p} {go : State → Nat × State} (hgo : ∀ t, MemWf t → MemWf (go t).2) : PResWf (messaging d p s go) := by
  unfold messaging
  split
  · exact presWf_done h
  split
  next e => exact presWf_done (MemWf.of_eq (hgo _ (memWf_updCtx h)) e)

@[simp] theorem memWf_opHresp {hd f} : MemWf (opHresp hd f s) := by
  unfold opHresp
  refine memWf_procIssue h (fun _ _ _ ht => ?_)
  split
  · exact presWf_fault
  refine presWf_messaging ht (fun _ ht₁ => ?_)
  split
  · exact ht₁
  extract_lets
  split
  · split
    · exact ht₁
    · exact memWf_snd (memWf_changeCounter ht₁)
  · exact ht₁

theorem memWf_postMsg {e} : MemWf (postMsg e s).2 := by
  unfold postMsg
  split
  next e =>
    refine memWf_snd ?_
    split
    · exact MemWf.of_eq (memWf_postEvent h) e
    · exact memWf_startFill (MemWf.of_eq (memWf_postEvent h) e)
  · exact memWf_postEvent h

@[simp] theorem memWf_opHmsg {hd f} : MemWf (opHmsg hd f s) := by
  unfold opHmsg
  refine memWf_procIssue h (fun _ _ _ ht => ?_)
  dsimp only
  split
  · exact presWf_wait (memWf_handlerWait ht)
  split
  · exact presWf_fault
  refine presWf_messaging ?_ (fun _ ht₁ => ?_)
  · split
    · exact memWf_handlerWalked ht
    · exact ht
  · split
    · exact ht₁
    · exact memWf_snd (memWf_mk ht₁)
    split
    next e => exact memWf_snd (MemWf.of_eq (memWf_postMsg ht₁) e)
    next e => exact memWf_snd (MemWf.of_eq (memWf_postMsg ht₁) e)

@[simp] theorem memWf_opHkpush {hd f} : MemWf (opHkpush hd f s) := by
  unfold opHkpush
  refine memWf_procIssue h (fun _ _ _ ht => ?_)
  extract_lets
  split
  next e₁ =>
    refine presWf_wait (memWf_handlerWait (OptWf.of_eq ?_ e₁))
    split
    · exact optWf_pushWaits ht
    · exact optWf_none
  refine presWf_messaging ht (fun _ ht₁ => ?_)
  split
  · exact ht₁
  split
  next e₂ => exact memWf_snd (OptWf.of_eq (optWf_kqPush ht₁) e₂)
  · exact ht₁

@[simp] theorem memWf_opHend {hd f} : MemWf (opHend hd f s) :=
  memWf_procIssue h (fun _ _ _ ht => presWf_over (memWf_endHandler ht))

@[simp] theorem memWf_opHbudget {hd f} : MemWf (opHbudget hd f s) := by
  unfold opHbudget
  refine memWf_procIssue h (fun _ _ _ ht => ?_)
  extract_lets
  split
  · exact presWf_done ht
  · exact presWf_done (memWf_updCtx ht)

theorem memWf_rematch {n e} : MemWf (rematch n s e) := by
  unfold rematch
  split
  next e =>
    split
    · exact memWf_startFill (MemWf.of_eq (memWf_postEvent h) e)
    · exact MemWf.of_eq (memWf_postEvent h) e
  next e =>
    split
    · exact memWf_updL2 (MemWf.of_eq (memWf_postEvent h) e)
    · exact MemWf.of_eq (memWf_postEvent h) e
  next e =>
    split
    · exact memWf_updSlice (MemWf.of_eq (memWf_postEvent h) e)
    · exact MemWf.of_eq (memWf_postEvent h) e

theorem memWf_drainOne {n e} : MemWf (drainOne n s e) := by
  unfold drainOne
  extract_lets
  split
  · split
    · split <;> exact memWf_updSlice h
    · exact memWf_rematch h
  · split <;> exact memWf_updSlice h

theorem memWf_drainLate {n} : MemWf (drainLate n s) :=
  memWf_foldl (fun _ _ ht => memWf_drainOne ht) (memWf_updSlice h)

theorem memWf_refillMsgs {n} : MemWf (refillMsgs n s) :=
  memWf_foldl (fun _ _ ht => memWf_startFill ht) h

theorem memWf_handlerDispatch {n} : MemWf (handlerDispatch n s) := by
  unfold handlerDispatch
  extract_lets
  split
  · split
    · refine memWf_drainLate (memWf_updSlice ?_)
      split
      · exact memWf_updL2 (memWf_refillMsgs h)
      · exact memWf_refillMsgs h
    refine memWf_drainLate ?_
    split
    · refine memWf_handlerFault (memWf_mk ?_)
      split
      · exact memWf_updL2 (memWf_updSlice (memWf_refillMsgs h))
      · exact memWf_updSlice (memWf_refillMsgs h)
    split
    · exact memWf_updL2 (memWf_updSlice (memWf_refillMsgs h))
    · exact memWf_updSlice (memWf_refillMsgs h)
  · exact memWf_refillMsgs h

theorem memWf_msgArrives {id} : MemWf (msgArrives id s) := by
  unfold msgArrives
  split
  · exact h
  split
  · split
    · exact h
    split
    next e₁ =>
      extract_lets
      split
      · exact MemWf.of_eq (memWf_walkNow h) e₁
      split
      next e₂ => exact MemWf.of_eq (memWf_postMsg (MemWf.of_eq (memWf_walkNow h) e₁)) e₂
      next e₂ => exact memWf_dropOp (MemWf.of_eq (memWf_postMsg (MemWf.of_eq (memWf_walkNow h) e₁)) e₂)
    next e₁ => exact memWf_takeTrap (memWf_dropOp (MemWf.of_eq (memWf_walkNow h) e₁))
    next e₁ => exact memWf_agentWait (MemWf.of_eq (memWf_walkNow h) e₁)
  · exact h

theorem memWf_heldTimeout {n k} : MemWf (heldTimeout n k s) := by
  unfold heldTimeout
  extract_lets
  split
  · exact h
  split
  · exact h
  · exact memWf_handlerFault (memWf_mk h)

theorem memWf_endLoad {t} : MemWf (endLoad t s) :=
  memWf_foldl (fun _ _ ht => memWf_drainLate (memWf_foldl (fun _ _ ht₁ => memWf_rematch ht₁) (memWf_updSlice ht))) (memWf_updHandler h)

theorem memWf_tryCheck {t} : MemWf (tryCheck t s) := by
  unfold tryCheck
  split
  · exact h
  split
  · exact memWf_updHandler h
  · exact memWf_endLoad (memWf_postRec h)

theorem memWf_tableLoad {t w} : MemWf (tableLoad t w s) := by
  unfold tableLoad
  split
  · exact h
  split
  · exact memWf_updHandler h
  · exact memWf_tryCheck (memWf_updHandler h)

theorem memWf_copyImage {base size image} : MemWf (copyImage base size image s) :=
  memWf_foldl (fun _ _ ht => memWf_updSlice ht) (memWf_clearErrs h)

theorem memWf_tableLoadDone {t} : MemWf (tableLoadDone t s) := by
  unfold tableLoadDone
  split
  · exact h
  extract_lets
  split
  · exact memWf_tryCheck h
  · exact memWf_endLoad (memWf_updHandler (memWf_copyImage (memWf_tryCheck h)))

theorem memWf_respond {d node tc tag data} : MemWf (respond d node tc tag data s) :=
  memWf_enqueuePkt h

theorem memWf_notify {d node tc tag code} : MemWf (notify d node tc tag code s) :=
  memWf_enqueuePkt h

theorem memWf_updPkt {d id f} : MemWf (updPkt d id f s) :=
  memWf_updStation h

theorem memWf_dropPkt {d id} : MemWf (dropPkt d id s) :=
  memWf_updStation h

theorem memWf_markSent {id rs fwd} : MemWf (markSent id rs fwd s) := by
  unfold markSent
  extract_lets
  split
  · exact memWf_putAcc h
  · exact h

theorem memWf_handPiece {id key} : MemWf (handPiece id key s) := by
  unfold handPiece
  dsimp only
  split
  · exact memWf_settleAccess h
  split
  · exact memWf_settleAccess h
  split
  · exact memWf_settleAccess h
  split
  · exact memWf_settleAccess h
  split
  · split
    · exact memWf_settleAccess h
    · exact memWf_markSent (memWf_enqueuePkt (memWf_flushComb (memWf_settleAccess h)))
  split
  · exact memWf_markSent (memWf_enqueuePkt (memWf_flushComb (memWf_noteAhead (memWf_settleAccess h))))
  · exact memWf_markSent (memWf_enqueuePkt (memWf_noteAhead (memWf_settleAccess h)))

theorem memWf_readSource {o x1 x2 x3 x4} : MemWf (readSource o x1 x2 x3 x4 s).2 := by
  induction x1 generalizing x2 x3 x4 s with
  | zero => exact h
  | succ n ih =>
    unfold readSource
    split
    · exact h
    extract_lets
    split
    next e => exact ih (MemWf.of_eq (memWf_engineRead h) e)
    next e => exact memWf_snd (MemWf.of_eq (memWf_engineRead h) e)

theorem memWf_endXfer {o x} : MemWf (endXfer o x s) := by
  unfold endXfer
  split
  · exact memWf_dropOp h
  · exact memWf_putOp h

theorem memWf_stopXfer {o x d cause info1 addr write} : MemWf (stopXfer o x d cause info1 addr write s) := by
  unfold stopXfer
  refine memWf_endXfer (memWf_mk ?_)
  split
  · exact h
  · exact memWf_postRec h

theorem memWf_handXfer {d id} : MemWf (handXfer d id s) := by
  unfold handXfer
  split
  · exact h
  split
  · dsimp only
    split
    · exact h
    split
    · exact memWf_putOp h
    split
    · exact memWf_enqueuePkt (memWf_putOp h)
    split
    · split
      · exact memWf_stopXfer (memWf_countError h)
      · exact memWf_enqueuePkt (memWf_putOp h)
    split
    next e => exact memWf_enqueuePkt (memWf_putOp (MemWf.of_eq (memWf_readSource h) e))
    next e => exact memWf_stopXfer (MemWf.of_eq (memWf_readSource h) e)
    next e => exact memWf_agentWait (MemWf.of_eq (memWf_readSource h) e)
    next e => exact MemWf.of_eq (memWf_readSource h) e
  · exact h

theorem memWf_launchPkt {d p} : MemWf (launchPkt d p s) :=
  memWf_mk (memWf_updPkt h)

theorem memWf_failPiece {acc parts cause} : MemWf (failPiece acc parts cause s) := by
  unfold failPiece
  split
  · exact h
  extract_lets
  split
  · exact h
  · exact memWf_failFill h
  · exact memWf_finishIfDone (memWf_accessFault (memWf_updAccGroup (memWf_stopRefill (memWf_removeReqs h))))

theorem memWf_answerArrival {c a code} : MemWf (answerArrival c a code s) := by
  unfold answerArrival
  split
  · exact memWf_mk h
  refine memWf_foldl (fun _ _ ht => ?_) h
  split
  · exact memWf_notify ht
  · exact memWf_respond ht

theorem memWf_failComm {k} : MemWf (failComm k s) := by
  unfold failComm
  split
  · exact h
  · exact memWf_updComm (memWf_foldl (fun _ _ ht => memWf_answerArrival ht) h)

theorem memWf_hoistNotice {tenant id seq step first ncode cause} : MemWf (hoistNotice tenant id seq step first ncode cause s) := by
  unfold hoistNotice
  refine memWf_failComm ?_
  split
  · exact memWf_postRec h
  split
  · exact memWf_postRec h
  · exact h

theorem memWf_mapCopies {f} : MemWf (mapCopies f s) :=
  memWf_mk h

theorem memWf_countCircuits {t : State} : MemWf (countCircuits t s) :=
  memWf_mk h

theorem memWf_darken {p cause} : MemWf (darken p cause s) :=
  memWf_countCircuits (memWf_mk (memWf_mapCopies (memWf_updPort h)))

theorem memWf_refusePort {port} : MemWf (refusePort port s) :=
  memWf_darken h

theorem memWf_endRequest {d p code cause} : MemWf (endRequest d p code cause s) := by
  unfold endRequest
  dsimp only
  split
  · exact memWf_failPiece (memWf_dropPkt h)
  · split <;> exact memWf_postRec (memWf_dropPkt h)
  · exact memWf_accessFault (memWf_dropPkt h)
  · split
    · exact memWf_dropPkt h
    split
    · split <;> exact memWf_stopXfer (memWf_dropPkt h)
    · exact memWf_dropPkt h
  · exact memWf_hoistNotice (memWf_dropPkt h)
  · split
    · exact memWf_postRec (memWf_refusePort (memWf_dropPkt h))
    · exact memWf_postRec (memWf_dropPkt h)
  · exact memWf_postRec (memWf_dropPkt h)
  · exact memWf_dropPkt h
  · exact memWf_dropPkt h

theorem memWf_endDoomed {d} : MemWf (endDoomed d s) :=
  memWf_foldl (fun _ _ ht => memWf_endRequest ht) h

theorem memWf_tickStation {d} : MemWf (tickStation d s) :=
  memWf_endDoomed (memWf_updStation h)

theorem memWf_stationSend {x} : MemWf (stationSend x s) := by
  unfold stationSend
  split
  · exact h
  split
  · exact memWf_handPiece h
  · exact memWf_handXfer h
  extract_lets
  split
  · exact memWf_endDoomed h
  split
  · exact memWf_launchPkt (memWf_endDoomed h)
  split
  · exact memWf_launchPkt (memWf_updStation (memWf_endDoomed h))
  · exact memWf_endDoomed h

theorem memWf_copyAway {k copy} : MemWf (copyAway k copy s) := by
  unfold copyAway
  split
  · exact h
  · exact memWf_updComm h

theorem memWf_inCustody {p} : MemWf (inCustody p s) := by
  unfold inCustody
  split
  · split
    · exact h
    split
    · split
      · exact h
      split
      · exact memWf_arriveCounter h
      · exact h
    · exact h
  · dsimp only
    split
    · exact h
    split
    · split
      · exact memWf_copyAway h
      · exact memWf_updComm h
    · exact h
  · exact h

theorem memWf_heardFrom {node} : MemWf (heardFrom node s) :=
  memWf_mk h

theorem memWf_landFlight {k copy} : MemWf (landFlight k copy s) :=
  memWf_copyAway (memWf_mk h)

theorem memWf_linkAck {x} : MemWf (linkAck x s) := by
  unfold linkAck
  split
  · split
    · exact memWf_landFlight h
    · exact h
  split
  · split
    · exact h
    split
    · exact memWf_dropPkt h
    · exact memWf_inCustody (memWf_updPkt h)
  · exact h

theorem memWf_moveWindow {d p} : MemWf (moveWindow d p s) := by
  unfold moveWindow
  extract_lets
  split
  · exact h
  · exact memWf_updStation h

theorem memWf_deliverPiece {acc parts base data} : MemWf (deliverPiece acc parts base data s) := by
  unfold deliverPiece
  split
  · exact h
  dsimp only
  split
  · exact memWf_putAcc h
  · split
    · exact memWf_landFill h
    · exact h
  · exact memWf_finishIfDone (memWf_removeReqs (memWf_foldl (fun _ _ ht => memWf_deliver ht) h))

theorem memWf_answered {p data} : MemWf (answered p data s) := by
  unfold answered
  split
  · exact memWf_deliverPiece h
  · split
    · exact h
    split
    · split
      · split
        · exact memWf_stopXfer (memWf_countError h)
        refine memWf_endXfer ?_
        split
        · exact memWf_arriveCounter (memWf_writeScratch h)
        · exact memWf_writeScratch h
      · exact memWf_endXfer h
    · exact h
  · exact h

theorem memWf_remoteResponse {x} : MemWf (remoteResponse x s) := by
  unfold remoteResponse
  split
  · exact memWf_heardFrom h
  dsimp only
  split
  · exact h
  refine memWf_answered (memWf_dropPkt (memWf_moveWindow ?_))
  split
  · exact memWf_inCustody (memWf_heardFrom h)
  · exact memWf_heardFrom h

theorem memWf_errorNotice {x} : MemWf (errorNotice x s) := by
  unfold errorNotice
  split
  · extract_lets
    split
    · exact memWf_hoistNotice (memWf_landFlight h)
    · exact h
  split
  · split
    · exact h
    · exact memWf_heardFrom h
  split
  · exact h
  refine memWf_endRequest ?_
  split
  · refine memWf_inCustody ?_
    split
    · exact h
    · exact memWf_heardFrom h
  split
  · exact h
  · exact memWf_heardFrom h

theorem memWf_endAll {d pick cause} : MemWf (endAll d pick cause s) := by
  unfold endAll
  refine memWf_foldl (fun _ _ ht => ?_) h
  split
  · exact memWf_endRequest ht
  · exact ht

theorem memWf_peerLost {d id} : MemWf (peerLost d id s) := by
  unfold peerLost
  split
  · exact h
  split
  · exact h
  · exact memWf_mk (memWf_foldl (fun _ _ ht => memWf_endAll ht) (memWf_postRec (memWf_mk h)))

theorem memWf_windowStall {d node} : MemWf (windowStall d node s) := by
  unfold windowStall
  extract_lets
  split
  · exact h
  · exact memWf_postRec (memWf_updStation h)

theorem memWf_linkDown {d} : MemWf (linkDown d s) := by
  unfold linkDown
  split
  · exact memWf_updStation h
  · exact h

theorem memWf_linkTrained {d} : MemWf (linkTrained d s) := by
  unfold linkTrained
  split
  · exact memWf_updStation h
  · exact h

theorem memWf_retrainTimeout {d} : MemWf (retrainTimeout d s) := by
  unfold retrainTimeout
  split
  · exact h
  split
  · exact h
  · exact memWf_endAll (memWf_postRec (memWf_updStation h))

theorem memWf_stationWrite {d v} : MemWf (stationWrite d v s) := by
  unfold stationWrite
  split
  · exact h
  extract_lets
  split
  · exact memWf_mk (memWf_updStation h)
  · exact memWf_updStation h

theorem memWf_combineTimeout {d k} : MemWf (combineTimeout d k s) := by
  unfold combineTimeout
  split
  · exact h
  split
  · exact h
  · exact memWf_flushComb h

theorem servedWf_serveRead {tenant fuel va n acc} : ServedWf (serveRead tenant fuel va n acc s) := by
  induction fuel generalizing va n acc s with
  | zero => exact h
  | succ fuel ih =>
    unfold serveRead
    split
    · exact servedWf_answer h
    dsimp only
    split
    next e =>
      split
      · exact servedWf_wait (MemWf.of_eq (memWf_walkNow h) e)
      split
      · exact servedWf_refuse (memWf_countError (MemWf.of_eq (memWf_walkNow h) e))
      · exact ih (MemWf.of_eq (memWf_walkNow h) e)
    next e => exact servedWf_refuse (MemWf.of_eq (memWf_walkNow h) e)
    next e => exact servedWf_wait (MemWf.of_eq (memWf_walkNow h) e)

theorem servedWf_serveWrite {tenant fuel va bs} : ServedWf (serveWrite tenant fuel va bs s) := by
  induction fuel generalizing va bs s with
  | zero => exact h
  | succ fuel ih =>
    unfold serveWrite
    split
    · exact servedWf_answer h
    dsimp only
    split
    next e =>
      split
      · exact servedWf_wait (MemWf.of_eq (memWf_walkNow h) e)
      split
      · exact servedWf_refuse (memWf_countError (MemWf.of_eq (memWf_walkNow h) e))
      · exact ih (memWf_performWrite (MemWf.of_eq (memWf_walkNow h) e))
    next e => exact servedWf_refuse (MemWf.of_eq (memWf_walkNow h) e)
    next e => exact servedWf_wait (MemWf.of_eq (memWf_walkNow h) e)

theorem servedWf_serveAtomic {tenant va n new} : ServedWf (serveAtomic tenant va n new s) := by
  unfold serveAtomic
  split
  next e =>
    extract_lets
    split
    · exact servedWf_wait (MemWf.of_eq (memWf_walkNow h) e)
    split
    · exact servedWf_refuse (memWf_countError (MemWf.of_eq (memWf_walkNow h) e))
    refine servedWf_answer ?_
    split
    · exact memWf_performBytes (MemWf.of_eq (memWf_walkNow h) e)
    · exact MemWf.of_eq (memWf_walkNow h) e
  next e => exact servedWf_refuse (MemWf.of_eq (memWf_walkNow h) e)
  next e => exact servedWf_wait (MemWf.of_eq (memWf_walkNow h) e)

theorem servedWf_servePush {tenant core slot off ctr data} : ServedWf (servePush tenant core slot off ctr data s) := by
  unfold servePush
  split
  · exact servedWf_refuse h
  split
  · exact servedWf_refuse h
  extract_lets
  split
  · split
    · exact servedWf_refuse h
    split
    · exact servedWf_wait h
    split
    · exact servedWf_refuse (memWf_countError h)
    · exact servedWf_answer (memWf_arriveCounter (memWf_writeScratch h))
  split
  · exact servedWf_refuse h
  split
  · exact servedWf_wait h
  split
  · exact servedWf_refuse (memWf_countError h)
  · exact servedWf_answer (memWf_writeScratch h)

theorem servedWf_servePieces {tenant ps} : ServedWf (servePieces tenant ps s) := by
  induction ps generalizing s with
  | nil => exact h
  | cons p ps ih =>
    obtain ⟨va, bs⟩ := p
    unfold servePieces
    split
    next e => exact ih (ServedWf.of_answer (servedWf_serveWrite h) e)
    · exact servedWf_serveWrite h

theorem servedWf_serve {r} : ServedWf (serve r s) := by
  unfold serve
  split
  · exact servedWf_serveRead h
  · exact servedWf_serveWrite h
  · exact servedWf_serveAtomic h
  · exact servedWf_serveAtomic h
  · exact servedWf_servePush h
  · exact servedWf_servePieces h

theorem memWf_answerPeer {d port r x} : MemWf (answerPeer d port r x s) := by
  unfold answerPeer
  split
  · exact memWf_respond h
  · exact memWf_notify h
  · exact memWf_mk h
  · exact memWf_mk h

theorem memWf_requestReceive {x} : MemWf (requestReceive x s) := by
  unfold requestReceive
  split
  · extract_lets
    split
    · exact h
    split
    · exact memWf_answerPeer (memWf_heardFrom h)
    · exact memWf_updStation (memWf_heardFrom h)
  extract_lets
  split
  · exact h
  split
  · exact h
  split
  next e => exact memWf_answerPeer (memWf_updStation (ServedWf.of_answer (servedWf_serve h) e))
  next e => exact memWf_answerPeer (memWf_updStation (ServedWf.of_refuse (servedWf_serve h) e))
  · exact memWf_agentWait h
  · exact h

end Sys2Proof.Laws
end

section
/-!
SUPPORT. Communicators, hoists, ports and circuit scripts keep memory canonical (R337 to R359, R439 to R446).
-/

namespace Sys2Proof.Laws

open Sys2Proof.Machine

variable {s : State} (h : MemWf s)
include h

theorem memWf_spanRead {tenant x1 x2 x3 x4} : MemWf (spanRead tenant x1 x2 x3 x4 s).2 := by
  induction x1 generalizing x2 x3 x4 s with
  | zero => exact h
  | succ n ih =>
    unfold spanRead
    split
    · exact h
    extract_lets
    split
    next e => exact ih (MemWf.of_eq (memWf_engineRead h) e)
    next e => exact memWf_snd (MemWf.of_eq (memWf_engineRead h) e)

theorem memWf_readSpan {tenant va n} : MemWf (readSpan tenant va n s).2 :=
  memWf_spanRead h

theorem memWf_spanWrite {tenant x1 x2 x3} : MemWf (spanWrite tenant x1 x2 x3 s).2 := by
  induction x1 generalizing x2 x3 s with
  | zero => exact h
  | succ n ih =>
    unfold spanWrite
    split
    · exact h
    extract_lets
    split
    next e =>
      split
      · exact memWf_snd (MemWf.of_eq (memWf_engineDst h) e)
      · exact ih (memWf_touchL2 (memWf_performBytes (MemWf.of_eq (memWf_engineDst h) e)))
    next e => exact memWf_snd (MemWf.of_eq (memWf_engineDst h) e)

theorem memWf_spanReady {tenant x1 x2 x3} : MemWf (spanReady tenant x1 x2 x3 s).2 := by
  induction x1 generalizing x2 x3 s with
  | zero => exact h
  | succ n ih =>
    unfold spanReady
    split
    · exact h
    extract_lets
    split
    next e =>
      split
      · exact memWf_snd (MemWf.of_eq (memWf_engineDst h) e)
      split
      · exact memWf_snd (memWf_errorAt (MemWf.of_eq (memWf_engineDst h) e))
      · exact ih (MemWf.of_eq (memWf_engineDst h) e)
    next e => exact memWf_snd (MemWf.of_eq (memWf_engineDst h) e)

theorem memWf_writeSpan {tenant va bs} : MemWf (writeSpan tenant va bs s).2 := by
  unfold writeSpan
  split
  next e => exact memWf_spanWrite (MemWf.of_eq (memWf_spanReady h) e)
  · exact memWf_spanReady h

theorem memWf_routeAt {c i} : MemWf (routeAt c i s).2 := by
  unfold routeAt
  dsimp only
  split
  · exact h
  split
  next e =>
    split <;> exact memWf_snd (MemWf.of_eq (memWf_readSpan h) e)
  next e => exact memWf_snd (MemWf.of_eq (memWf_readSpan h) e)

theorem memWf_stagingAt {c slot seq off n} : MemWf (stagingAt c slot seq off n s).2 := by
  unfold stagingAt
  dsimp only
  split
  next e =>
    split <;> exact memWf_snd (MemWf.of_eq (memWf_walkNow h) e)
  next e => exact memWf_snd (MemWf.of_eq (memWf_walkNow h) e)

theorem optWf_stagePart {k c slot off hd f} : OptWf (stagePart k c slot off hd f s) := by
  unfold stagePart
  split
  next e => exact optWf_some (memWf_updComm (memWf_performBytes (MemWf.of_eq (memWf_stagingAt h) e)))
  · exact optWf_none

theorem optWf_hoistTake {x h0} : OptWf (hoistTake x h0 s) := by
  unfold hoistTake
  extract_lets _ src _ t d say
  have ht : MemWf t := memWf_heardFrom h
  have hsay (n : Nat) : OptWf (some (say n)) := by
    dsimp only [say]
    split
    · exact optWf_some (memWf_mk ht)
    · exact optWf_some (memWf_notify ht)
  clear_value t say
  split
  · exact hsay 5
  extract_lets
  split
  · exact hsay 8
  split
  · exact hsay 8
  split
  · exact hsay 7
  split
  · split
    · exact hsay 7
    split
    · exact optWf_none
    · exact optWf_stagePart (memWf_fresh ht)
  split
  · split
    · exact optWf_some (memWf_updComm ht)
    split
    · exact optWf_none
    · exact optWf_some (memWf_updComm (memWf_fresh ht))
  split
  · exact hsay 7
  split
  · split
    · exact optWf_none
    · exact optWf_map (fun _ hu => memWf_respond hu) (optWf_stagePart ht)
  · exact optWf_none

theorem memWf_hoistArrival {x} : MemWf (hoistArrival x s) := by
  unfold hoistArrival
  split
  · extract_lets
    split
    · exact memWf_mk (memWf_heardFrom h)
    · exact memWf_getD (optWf_hoistTake h) (memWf_mk (memWf_heardFrom h))
  split
  · split
    · exact h
    split
    · exact memWf_getD (optWf_hoistTake (memWf_mk h)) h
    · exact h
  · exact h

theorem memWf_updColl {k seq f} : MemWf (updColl k seq f s) :=
  memWf_updComm h

theorem memWf_putCopy {k y} : MemWf (putCopy k y s) :=
  memWf_updComm h

theorem memWf_addCopy {k y} : MemWf (addCopy k y s) := by
  unfold addCopy
  split
  next e => exact memWf_updComm (MemWf.of_eq (memWf_fresh h) e)

theorem memWf_failStep {k seq cause} : MemWf (failStep k seq cause s) := by
  unfold failStep
  split
  · exact memWf_failComm (memWf_postRec h)
  · exact h

theorem memWf_stall {α : Type} {k seq} {g : Got α} : MemWf (stall k seq g s) := by
  unfold stall
  split
  · exact memWf_agentWait h
  · exact memWf_failStep h
  · exact h

theorem optWf_toSend {k y node slot circ} : OptWf (toSend k y node slot circ s) := by
  unfold toSend
  extract_lets
  split
  · exact optWf_none
  · exact optWf_some (memWf_putCopy h)

theorem memWf_localX {tenant q} : MemWf (localX tenant q s).2 := by
  unfold localX
  extract_lets
  split
  next e => exact memWf_snd (MemWf.of_eq (memWf_readSpan h) e)
  next e => exact memWf_snd (MemWf.of_eq (memWf_readSpan h) e)

theorem memWf_actOn {tenant q act x} : MemWf (actOn tenant q act x s).2 := by
  unfold actOn
  split
  next g t e =>
  have ht : MemWf t := by
    refine MemWf.of_eq ?_ e
    split
    · split
      next e' => exact MemWf.of_eq (memWf_localX h) e'
      · exact memWf_localX h
    · exact h
  split
  · split
    · split
      next e' => exact MemWf.of_eq (memWf_writeSpan ht) e'
      next e' => exact MemWf.of_eq (memWf_writeSpan ht) e'
    · exact ht
  · exact ht

theorem optWf_moveOn {k node y pen} : OptWf (moveOn k node y pen s) := by
  unfold moveOn
  split
  · exact optWf_some (memWf_copyAway h)
  split
  · split
    · exact optWf_none
    · exact optWf_some (memWf_putCopy h)
  · exact optWf_toSend h

theorem memWf_strikeCopy {k c q y} : MemWf (strikeCopy k c q y s) := by
  unfold strikeCopy
  extract_lets seq struck
  have hstruck {t : State} (ht : MemWf t) : MemWf (struck t) := memWf_updColl ht
  clear_value struck
  split
  · exact memWf_failStep h
  extract_lets act
  split
  · exact memWf_failStep h
  split
  next r t e =>
  have ht : MemWf t := by
    refine MemWf.of_eq ?_ e
    split
    · exact memWf_routeAt h
    · exact h
  split
  · split
    · exact memWf_putCopy (hstruck ht)
    split
    next e' =>
      have hu := hstruck (MemWf.of_eq (memWf_actOn ht) e')
      extract_lets u _ _ fork v
      have hv : MemWf v := by
        dsimp only [v]
        split
        · exact memWf_addCopy hu
        · exact hu
      exact memWf_getD (optWf_moveOn hv) (memWf_failStep hu)
    next e' => exact memWf_stall (MemWf.of_eq (memWf_actOn ht) e')
  · exact memWf_stall ht

theorem memWf_buildOrigin {k c q y rt} : MemWf (buildOrigin k c q y rt s) := by
  unfold buildOrigin
  split
  next e₁ =>
    split
    next e₂ =>
      split
      next e₃ =>
        exact OptWf.of_eq (optWf_toSend (MemWf.of_eq (memWf_localX (MemWf.of_eq (memWf_routeAt h) e₁)) e₂)) e₃
      · exact memWf_failStep (MemWf.of_eq (memWf_localX (MemWf.of_eq (memWf_routeAt h) e₁)) e₂)
    next e₂ => exact memWf_stall (MemWf.of_eq (memWf_localX (MemWf.of_eq (memWf_routeAt h) e₁)) e₂)
  next e₁ => exact memWf_stall (MemWf.of_eq (memWf_routeAt h) e₁)

theorem memWf_strikeArrival {k c q a} : MemWf (strikeArrival k c q a s) := by
  unfold strikeArrival
  extract_lets
  split
  · exact memWf_failStep (memWf_updComm (memWf_answerArrival h))
  split
  · exact memWf_failStep (memWf_updComm (memWf_answerArrival h))
  split
  next e => exact MemWf.of_eq (memWf_stagingAt h) e
  next e =>
    split
    · exact memWf_failStep (memWf_countError (memWf_updComm (memWf_answerArrival (MemWf.of_eq (memWf_stagingAt h) e))))
    · exact memWf_addCopy (memWf_updComm (memWf_answerArrival (MemWf.of_eq (memWf_stagingAt h) e)))

theorem memWf_hoistStrike {x} : MemWf (hoistStrike x s) := by
  unfold hoistStrike
  extract_lets
  split
  · exact h
  split
  · exact h
  split
  · split
    · split
      · exact memWf_strikeArrival h
      · exact h
    · exact h
  split
  · split
    · exact h
    split
    · split
      · exact memWf_strikeCopy h
      · exact memWf_buildOrigin h
      · exact h
    · exact h
  · exact h

theorem memWf_hoistSend {x} : MemWf (hoistSend x s) := by
  unfold hoistSend
  extract_lets
  split
  · exact h
  split
  · exact h
  split
  · split
    · exact h
    split
    · split
      · exact memWf_putCopy (memWf_mk h)
      · exact h
    · exact memWf_foldl (fun _ _ ht => memWf_enqueuePkt ht) (memWf_putCopy h)
  · exact h

theorem memWf_hoistTimeout {x} : MemWf (hoistTimeout x s) := by
  unfold hoistTimeout
  extract_lets
  split
  · exact h
  split
  · split
    · exact h
    · exact memWf_failStep h
  · exact h

theorem memWf_endColl {k seq} : MemWf (endColl k seq s).2 := by
  unfold endColl
  split
  · exact h
  split
  · exact h
  extract_lets
  split
  · exact h
  split
  next e => exact memWf_snd (memWf_updComm (MemWf.of_eq (memWf_writeSpan h) e))
  next e => exact memWf_snd (memWf_updComm (memWf_postRec (MemWf.of_eq (memWf_writeSpan h) e)))
  next e => exact memWf_snd (memWf_stall (MemWf.of_eq (memWf_writeSpan h) e))

theorem memWf_tellOcs {kind p tenant} : MemWf (tellOcs kind p tenant s) :=
  memWf_enqueuePkt h

theorem memWf_darkRec {p cause} : MemWf (darkRec p cause s) :=
  memWf_postRec h

theorem memWf_failPort {p why cause release} : MemWf (failPort p why cause release s) := by
  unfold failPort
  extract_lets _ _ s₂
  have h₂ : MemWf s₂ := by
    dsimp only [s₂]
    split
    · exact memWf_tellOcs (memWf_darken h)
    · exact memWf_darken h
  split
  · exact h₂
  · exact memWf_darkRec h₂

theorem memWf_circuitMade {w} : MemWf (circuitMade w s) := by
  unfold circuitMade
  extract_lets
  split
  · exact memWf_updPort (memWf_heardFrom h)
  · exact memWf_heardFrom h

theorem memWf_circuitBroken {w} : MemWf (circuitBroken w s) := by
  unfold circuitBroken
  extract_lets
  split
  · exact memWf_heardFrom h
  · exact memWf_failPort (memWf_heardFrom h)

theorem memWf_portTrained {p} : MemWf (portTrained p s) := by
  unfold portTrained
  extract_lets
  split
  · exact memWf_updPort h
  · exact h

theorem memWf_lockTimeout {p} : MemWf (lockTimeout p s) := by
  unfold lockTimeout
  extract_lets
  split
  · exact memWf_failPort h
  · exact h

theorem memWf_handshake {p node port} : MemWf (handshake p node port s) := by
  unfold handshake
  extract_lets
  split
  · exact h
  split
  · exact memWf_updPort h
  · exact memWf_failPort h

theorem memWf_lossOfLock {p} : MemWf (lossOfLock p s) := by
  unfold lossOfLock
  split
  · exact memWf_failPort h
  · exact h

theorem memWf_releasePort {p} : MemWf (releasePort p s) :=
  memWf_tellOcs (memWf_darken h)

theorem memWf_drainLimits : MemWf (drainLimits s) := by
  unfold drainLimits
  refine memWf_foldl (fun _ _ ht => ?_) h
  split
  · exact memWf_releasePort ht

theorem memWf_drainDone {p} : MemWf (drainDone p s) := by
  unfold drainDone
  split
  · exact memWf_releasePort h
  · exact h

@[simp] theorem memWf_opCreq {hd f} : MemWf (opCreq hd f s) := by
  unfold opCreq
  refine memWf_procIssue h (fun _ _ _ ht => ?_)
  extract_lets
  split
  · exact presWf_fault
  split
  · exact presWf_done (memWf_tellOcs (memWf_updPort ht))
  · exact presWf_done ht

theorem memWf_scriptWait {limit recv} : MemWf (scriptWait limit recv s) := by
  unfold scriptWait
  split
  next e => exact memWf_updScript (MemWf.of_eq (memWf_fresh h) e)

@[simp] theorem memWf_opCawait {hd f} : MemWf (opCawait hd f s) := by
  unfold opCawait
  refine memWf_procIssue h (fun _ _ _ ht => ?_)
  extract_lets
  split
  · exact presWf_done ht
  split
  · exact presWf_done ht
  split
  · exact presWf_done ht
  split
  · exact presWf_done ht
  · exact presWf_wait (memWf_scriptWait ht)

theorem memWf_scriptElem {va want} : MemWf (scriptElem s va want).2 := by
  unfold scriptElem
  extract_lets
  split
  · exact h
  split
  · exact h
  split
  · exact h
  split
  next e =>
    split <;> exact memWf_snd (MemWf.of_eq (memWf_walkNow h) e)
  next e => exact memWf_snd (MemWf.of_eq (memWf_walkNow h) e)
  next e => exact memWf_snd (MemWf.of_eq (memWf_walkNow h) e)
  next e => exact memWf_snd (MemWf.of_eq (memWf_walkNow h) e)
  next e => exact memWf_snd (MemWf.of_eq (memWf_walkNow h) e)
  next e => exact memWf_snd (MemWf.of_eq (memWf_walkNow h) e)

@[simp] theorem memWf_opCawaitMem {hd f} : MemWf (opCawaitMem hd f s) := by
  unfold opCawaitMem
  refine memWf_procIssue h (fun _ _ _ ht => ?_)
  split
  · exact presWf_fault
  extract_lets
  split
  · exact presWf_fault
  next e =>
    split
    · exact presWf_done (MemWf.of_eq (memWf_scriptElem ht) e)
    · exact presWf_wait (memWf_scriptWait (MemWf.of_eq (memWf_scriptElem ht) e))
  next e =>
    split
    · exact presWf_fault
    split
    · exact presWf_done (memWf_touchL2 (MemWf.of_eq (memWf_scriptElem ht) e))
    split
    · exact presWf_done (MemWf.of_eq (memWf_scriptElem ht) e)
    · exact presWf_wait (memWf_scriptWait (MemWf.of_eq (memWf_scriptElem ht) e))

@[simp] theorem memWf_opCbar {hd f} : MemWf (opCbar hd f s) := by
  unfold opCbar
  refine memWf_procIssue h (fun _ _ _ ht => ?_)
  extract_lets
  split
  · exact presWf_done ht
  · exact presWf_done (memWf_mk ht)

theorem memWf_crelPort {p} : MemWf (crelPort s p) := by
  unfold crelPort
  extract_lets
  split
  · exact h
  split
  · split
    · exact h
    · exact memWf_countCircuits (memWf_updPort h)
  · exact memWf_releasePort h

@[simp] theorem memWf_opCrel {hd f} : MemWf (opCrel hd f s) := by
  unfold opCrel
  refine memWf_procIssue h (fun _ _ _ ht => ?_)
  extract_lets
  split
  · exact presWf_done ht
  · exact presWf_done (memWf_foldl (fun _ _ ht₁ => memWf_crelPort ht₁) ht)

@[simp] theorem memWf_opCstat {hd f} : MemWf (opCstat hd f s) :=
  memWf_procIssue h (fun _ _ _ ht => presWf_done ht)

@[simp] theorem memWf_opEmsg {hd f} : MemWf (opEmsg hd f s) := by
  unfold opEmsg
  refine memWf_procIssue h (fun _ _ _ ht => ?_)
  extract_lets
  split
  · exact presWf_done ht
  · exact presWf_done (memWf_enqueuePkt ht)

@[simp] theorem memWf_opErecv {hd f} : MemWf (opErecv hd f s) := by
  unfold opErecv
  refine memWf_procIssue h (fun _ _ _ ht => ?_)
  extract_lets
  split
  · split
    · exact presWf_wait (memWf_scriptWait ht)
    split
    · exact presWf_fault
    · exact presWf_done (memWf_mk ht)
  split
  · exact presWf_done ht
  · exact presWf_wait (memWf_scriptWait ht)

@[simp] theorem memWf_opCtime {hd f} : MemWf (opCtime hd f s) :=
  memWf_procIssue h (fun _ _ _ ht => presWf_done ht)

theorem memWf_runDone {q pos} : MemWf (runDone q pos s) :=
  memWf_updQueue h

theorem memWf_endScript {k} : MemWf (endScript k s) :=
  memWf_runDone (memWf_updScript h)

@[simp] theorem memWf_opCstamp {hd f} : MemWf (opCstamp hd f s) := by
  unfold opCstamp
  refine memWf_procIssue h (fun _ _ _ ht => ?_)
  dsimp only
  split
  · exact presWf_fault
  next e => exact presWf_wait (MemWf.of_eq (memWf_scriptElem ht) e)
  next e =>
    split
    · exact presWf_over (memWf_endScript (memWf_touchL2 (memWf_performBytes (MemWf.of_eq (memWf_scriptElem ht) e))))
    · exact presWf_done (memWf_touchL2 (memWf_performBytes (MemWf.of_eq (memWf_scriptElem ht) e)))

theorem optWf_emsgTake {x m} : OptWf (emsgTake x m s) := by
  unfold emsgTake
  split
  · exact optWf_some (memWf_notify (memWf_heardFrom h))
  split
  · exact optWf_none
  · exact optWf_some (memWf_mk (memWf_respond (memWf_heardFrom h)))

theorem memWf_emsgReceive {x} : MemWf (emsgReceive x s) := by
  unfold emsgReceive
  dsimp only
  split
  · split
    · exact memWf_mk (memWf_heardFrom h)
    · exact memWf_getD (optWf_emsgTake h) (memWf_mk (memWf_heardFrom h))
  split
  · split
    · exact h
    split
    · exact memWf_getD (optWf_emsgTake (memWf_mk h)) h
    · exact h
  · exact h

theorem memWf_scriptTimeout {k} : MemWf (scriptTimeout k s) := by
  unfold scriptTimeout
  split
  · split
    · exact h
    · exact memWf_updScript h
  · exact h

end Sys2Proof.Laws
end

section
/-!
SUPPORT. Launches, pre-emption and the command processor keep memory canonical (R37 to R66, R392 to R401).
-/

namespace Sys2Proof.Laws

open Sys2Proof.Machine

variable {s : State} (h : MemWf s)
include h

theorem memWf_placeBlock {id l a} : MemWf (placeBlock id l a s) := by
  unfold placeBlock
  split
  next e => exact memWf_mk (MemWf.of_eq (memWf_fresh h) e)

theorem memWf_passReserve {t} : MemWf (passReserve t s) := by
  unfold passReserve
  dsimp only
  split
  · exact memWf_mk h
  · split <;> exact memWf_mk h

theorem memWf_blockPlace {id} : MemWf (blockPlace id s) := by
  unfold blockPlace
  split
  · exact h
  dsimp only
  split
  · exact h
  split
  · exact memWf_placeBlock h
  split
  · exact h
  split
  · exact memWf_mk (memWf_fresh h)
  · exact memWf_passReserve (memWf_mk (memWf_fresh h))

theorem memWf_gangClaim {t} : MemWf (gangClaim t s) := by
  unfold gangClaim
  split
  · exact h
  split
  · exact memWf_passReserve h
  split
  · exact memWf_passReserve h
  split
  · exact h
  split
  · exact memWf_passReserve (memWf_placeBlock h)
  · exact h

theorem memWf_blockComplete {id} : MemWf (blockComplete id s) := by
  unfold blockComplete
  split
  · exact h
  split
  · exact h
  dsimp only
  split <;> exact memWf_mk (memWf_foldl (fun _ _ ht => memWf_updGroup ht) (memWf_foldl (fun _ _ ht => memWf_commitEntry ht)
      (memWf_sweep h)))

theorem memWf_regroupAt {core part} : MemWf (regroupAt core part s) := by
  unfold regroupAt
  extract_lets
  split
  · exact h
  · exact memWf_mk h

theorem memWf_stallTick {core} : MemWf (stallTick core s) :=
  memWf_mk h

theorem memWf_blockStall {id} : MemWf (blockStall id s) := by
  unfold blockStall
  split
  · exact h
  extract_lets
  split
  · exact h
  split
  · exact h
  · exact memWf_postRec (memWf_updBlock h)

theorem memWf_preemptBusy {b} : MemWf (preemptBusy b s) :=
  memWf_mk h

theorem memWf_preemptReads {w} : MemWf (preemptReads w s) :=
  memWf_mk h

theorem memWf_askSave {w} : MemWf (askSave w s) := by
  unfold askSave
  extract_lets
  split
  · exact memWf_preemptBusy (memWf_preemptReads (memWf_mk h))
  · split <;> exact memWf_mk h

theorem memWf_withdraw {o} : MemWf (withdraw o s) := by
  unfold withdraw
  split
  · split
    · exact memWf_parentAdd h
    · exact h
  · exact h

theorem memWf_saveErrors {id b} : MemWf (saveErrors id b s) := by
  unfold saveErrors
  extract_lets
  split
  · exact memWf_clearErrs (memWf_postRec (memWf_countError h))
  · exact h

/-- Sealing writes the image of a block to its save area: the only save that writes memory. -/
theorem memWf_sealBlock {id b j} : MemWf (sealBlock id b j s) := by
  unfold sealBlock
  refine memWf_mk (wf_writeParts ?_ _ _)
  exact memWf_foldl (fun _ _ ht => memWf_withdraw ht) (memWf_saveErrors (memWf_updMat h))

theorem memWf_endSave {j} : MemWf (endSave j s) := by
  unfold endSave
  split
  · exact h
  · exact memWf_preemptBusy (memWf_mk (memWf_foldl (fun _ _ ht => memWf_updKcq ht) h))

theorem memWf_preemptSave {x} : MemWf (preemptSave x s) := by
  unfold preemptSave
  split
  · split
    · exact h
    · exact memWf_askSave h
  · split
    · split
      · exact h
      · exact memWf_sealBlock h
    · exact h
  split
  · split
    · exact h
    · exact memWf_endSave h
  · exact h

theorem memWf_timeSlice {t area} : MemWf (timeSlice t area s) := by
  unfold timeSlice
  split
  · exact h
  · exact memWf_askSave h

theorem memWf_endRestore : MemWf (endRestore s) := by
  unfold endRestore
  split
  · exact h
  extract_lets
  split
  · exact memWf_preemptBusy (memWf_preemptReads (memWf_mk (memWf_mk h)))
  · exact memWf_preemptBusy (memWf_mk h)

theorem memWf_restoreQueue {q} : MemWf (restoreQueue q s) :=
  memWf_clearErrs (memWf_mk (memWf_updKcq (memWf_foldl (fun _ _ ht => memWf_loseRecord ht) h)))

theorem memWf_beginRestore : MemWf (beginRestore s) := by
  unfold beginRestore
  split
  · split
    · exact h
    · exact memWf_endRestore (memWf_foldl (fun _ _ ht => memWf_restoreQueue ht) (memWf_mk h))
  · exact h

theorem memWf_preemptRestore {w} : MemWf (preemptRestore w s) := by
  unfold preemptRestore
  split
  · exact h
  extract_lets
  split
  · exact memWf_preemptBusy (memWf_preemptReads (memWf_mk h))
  · exact memWf_beginRestore (memWf_preemptBusy (memWf_preemptReads (memWf_mk h)))

theorem memWf_rewalk {a} : MemWf (rewalk a s) := by
  unfold rewalk
  refine memWf_foldl (fun _ _ ht => ?_) h
  split
  · exact memWf_askAgain ht
  · exact ht

theorem memWf_failSaved {a} : MemWf (failSaved a s) := by
  unfold failSaved
  split
  · exact h
  split
  · exact memWf_failFill h
  · exact memWf_failParked h

theorem memWf_restoreBlock {id b img} : MemWf (restoreBlock id b img s) := by
  unfold restoreBlock
  extract_lets
  split
  · exact h
  · exact memWf_endRestore (memWf_pumpMatrix (memWf_barrierAll (memWf_foldl (fun _ _ ht => memWf_foldl
      (fun _ _ ht₁ => memWf_counterTest ht₁) ht) (memWf_foldl (fun _ _ ht => memWf_failSaved (memWf_rewalk ht)) (memWf_mk
      (memWf_updMat h))))))

theorem memWf_loseBlock {id b granule} : MemWf (loseBlock id b granule s) :=
  memWf_endRestore (memWf_mk (memWf_postRec (memWf_countError h)))

theorem memWf_restorePlace {x} : MemWf (restorePlace x s) := by
  unfold restorePlace
  split
  · exact h
  split
  · exact h
  split
  · exact h
  split
  · exact memWf_loseBlock h
  split
  · exact memWf_restoreBlock h
  · exact h

theorem memWf_haltQueue {q cause pc addr} : MemWf (haltQueue q cause pc addr s) :=
  memWf_mk (memWf_postRec (memWf_updQueue h))

theorem memWf_holdHead {q} : MemWf (holdHead q s) :=
  memWf_updQueue h

theorem memWf_headWaits {p va write} : MemWf (headWaits p va write s) :=
  memWf_agentWait (memWf_holdHead h)

theorem memWf_headBad {α : Type} {p} {e : Except Prep α} : MemWf (headBad p e s) := by
  unfold headBad
  split
  · exact memWf_headWaits h
  · exact h
  · exact memWf_haltQueue h
  · exact h

theorem memWf_passTurn {q} : MemWf (passTurn q s) :=
  memWf_mk h

theorem memWf_readHead {q} : MemWf (readHead q s).2 := by
  unfold readHead
  extract_lets
  split
  · exact h
  split
  · exact h
  split
  · exact memWf_snd (memWf_haltQueue h)
  split
  next e => exact memWf_snd (MemWf.of_eq (memWf_readSpan h) e)
  next e => exact memWf_snd (memWf_headBad (MemWf.of_eq (memWf_readSpan h) e))

theorem memWf_serveHead {q pick} {act : Pkt → State → State} (hact : ∀ p t, MemWf t → MemWf (act p t)) :
    MemWf (serveHead q pick act s) := by
  unfold serveHead
  split
  · exact h
  split
  next e => exact memWf_passTurn (MemWf.of_eq (memWf_readHead h) e)
  next e =>
    split
    · exact memWf_passTurn (hact _ _ (MemWf.of_eq (memWf_readHead h) e))
    · exact h

theorem memWf_packetBad {p} : MemWf (packetBad p s) :=
  memWf_haltQueue h

theorem memWf_startRun {p done} : MemWf (startRun p done s).2 := by
  unfold startRun
  split
  next e => exact memWf_snd (memWf_updQueue (MemWf.of_eq (memWf_fresh h) e))

theorem memWf_startDone {p} : MemWf (startDone p s) :=
  memWf_startRun h

theorem memWf_startWait {p} : MemWf (startWait p s) := by
  unfold startWait
  dsimp only
  split
  · exact memWf_packetBad h
  split
  · split
    · exact memWf_startDone h
    · exact memWf_holdHead h
  split
  next e =>
    split
    · exact memWf_startDone (MemWf.of_eq (memWf_readSpan h) e)
    · exact memWf_holdHead (MemWf.of_eq (memWf_readSpan h) e)
  next e => exact memWf_headBad (MemWf.of_eq (memWf_readSpan h) e)

theorem memWf_startSignal {p} : MemWf (startSignal p s) := by
  unfold startSignal
  dsimp only
  split
  · exact memWf_packetBad h
  split
  · exact memWf_startDone (memWf_performBytes h)
  split
  next e₁ =>
    split
    next e₂ =>
      refine memWf_startDone (MemWf.of_eq (memWf_writeSpan (MemWf.of_eq ?_ e₁)) e₂)
      split
      · exact memWf_readSpan h
      · exact h
    next e₂ =>
      refine memWf_headBad (MemWf.of_eq (memWf_writeSpan (MemWf.of_eq ?_ e₁)) e₂)
      split
      · exact memWf_readSpan h
      · exact h
  next e₁ =>
    refine memWf_headBad (MemWf.of_eq ?_ e₁)
    split
    · exact memWf_readSpan h
    · exact h

theorem memWf_startFence {p} : MemWf (startFence p s) :=
  memWf_updQueue h

theorem memWf_endFence {p} : MemWf (endFence p s) := by
  unfold endFence
  split
  · split
    · exact memWf_startDone h
    · exact h
  · exact h

theorem memWf_clearCounts {t} : MemWf (clearCounts t s) :=
  memWf_foldl (fun _ _ ht => memWf_updCore ht) h

theorem memWf_startRoles {p roles} : MemWf (startRoles p roles s) := by
  unfold startRoles
  dsimp only
  split
  · exact memWf_packetBad h
  split
  · exact memWf_haltQueue h
  · exact memWf_clearCounts (memWf_mk (memWf_fresh (memWf_startRun h)))

theorem memWf_startLaunch {p} : MemWf (startLaunch p s) :=
  memWf_startRoles h

theorem memWf_startGang {p} : MemWf (startGang p s) := by
  unfold startGang
  dsimp only
  split
  · exact memWf_packetBad h
  split
  next e =>
    split
    · exact memWf_packetBad (MemWf.of_eq (memWf_readSpan h) e)
    · exact memWf_startRoles (MemWf.of_eq (memWf_readSpan h) e)
  next e =>
    split
    · exact memWf_haltQueue (MemWf.of_eq (memWf_readSpan h) e)
    · split
      · exact memWf_haltQueue (MemWf.of_eq (memWf_readSpan h) e)
      · exact memWf_holdHead (MemWf.of_eq (memWf_readSpan h) e)
    · exact memWf_holdHead (MemWf.of_eq (memWf_readSpan h) e)
  next e => exact memWf_headBad (MemWf.of_eq (memWf_readSpan h) e)

theorem memWf_startCopy {p} : MemWf (startCopy p s) := by
  unfold startCopy
  dsimp only
  split
  · exact memWf_packetBad h
  · exact memWf_putOp (memWf_fresh (memWf_startRun h))

theorem memWf_pagesBad {tenant want near x3} : MemWf (pagesBad tenant want near x3 s).2 := by
  induction x3 generalizing s with
  | nil => exact h
  | cons x xs ih =>
    unfold pagesBad
    split
    next e =>
      split
      · exact memWf_snd (MemWf.of_eq (memWf_walkNow h) e)
      · exact ih (MemWf.of_eq (memWf_walkNow h) e)
    next e => exact memWf_snd (MemWf.of_eq (memWf_walkNow h) e)
    next e => exact memWf_snd (MemWf.of_eq (memWf_walkNow h) e)

theorem memWf_startComm {p} : MemWf (startComm p s) := by
  unfold startComm
  extract_lets
  split
  · exact memWf_packetBad h
  split
  next e₁ => exact memWf_packetBad (MemWf.of_eq (memWf_pagesBad h) e₁)
  next e₁ => exact memWf_headWaits (MemWf.of_eq (memWf_pagesBad h) e₁)
  next e₁ =>
    split
    next e₂ => exact memWf_packetBad (MemWf.of_eq (memWf_pagesBad (MemWf.of_eq (memWf_pagesBad h) e₁)) e₂)
    next e₂ => exact memWf_headWaits (MemWf.of_eq (memWf_pagesBad (MemWf.of_eq (memWf_pagesBad h) e₁)) e₂)
    next e₂ => exact memWf_startDone (memWf_mk (MemWf.of_eq (memWf_pagesBad (MemWf.of_eq (memWf_pagesBad h) e₁)) e₂))

theorem memWf_startDestroy {p} : MemWf (startDestroy p s) := by
  unfold startDestroy
  dsimp only
  split
  · exact memWf_packetBad h
  split
  · exact memWf_packetBad h
  · exact memWf_updComm (memWf_failComm (memWf_startRun h))

theorem memWf_startColl {p} : MemWf (startColl p s) := by
  unfold startColl
  dsimp only
  split
  · exact memWf_packetBad h
  split
  · exact memWf_packetBad h
  split
  · exact memWf_addCopy (memWf_updComm (memWf_startRun h))
  · exact memWf_updComm (memWf_startRun h)

theorem memWf_beginScript {p k run image} : MemWf (beginScript p k run image s) :=
  memWf_updScript (memWf_mk (memWf_clearErrs h))

theorem memWf_startCirc {p} : MemWf (startCirc p s) := by
  unfold startCirc
  dsimp only
  split
  · exact memWf_packetBad h
  split
  · exact memWf_holdHead h
  split
  next e => exact memWf_beginScript (memWf_startRun (MemWf.of_eq (memWf_readSpan h) e))
  next e => exact memWf_headBad (MemWf.of_eq (memWf_readSpan h) e)

theorem memWf_startKcq {p} : MemWf (startKcq p s) := by
  unfold startKcq
  extract_lets _ _ _ _ s₂
  have h₂ : MemWf s₂ := by
    dsimp only [s₂]
    split
    · exact memWf_clearErrs (memWf_updKcq h)
    · exact memWf_updKcq h
  split
  · exact memWf_packetBad h
  refine memWf_startDone ?_
  split
  · exact memWf_mk h₂
  · exact h₂

theorem memWf_startKind {p} : MemWf (startKind p s) := by
  unfold startKind
  split
  · exact memWf_startDone h
  · exact memWf_startLaunch h
  · exact memWf_startGang h
  · exact memWf_startWait h
  · exact memWf_startSignal h
  · exact memWf_startCopy h
  · exact memWf_startColl h
  · split
    · exact memWf_startDestroy h
    · exact memWf_startComm h
  · exact memWf_startCirc h
  · exact memWf_startKcq h

theorem memWf_meetHead {p} : MemWf (meetHead p s) := by
  unfold meetHead
  split
  · exact memWf_packetBad h
  split
  · exact memWf_startFence h
  split
  · exact memWf_holdHead h
  · exact memWf_startKind h

theorem memWf_kindEvent {kind destroy q} : MemWf (kindEvent kind destroy q s) := by
  unfold kindEvent
  split
  · exact h
  · exact memWf_serveHead h (fun _ _ ht => memWf_meetHead ht)

theorem memWf_illegalEvent {q} : MemWf (illegalEvent q s) :=
  memWf_serveHead h (fun _ _ ht => memWf_packetBad ht)

theorem memWf_deferredEvent {q} : MemWf (deferredEvent q s) := by
  unfold deferredEvent
  split
  · exact h
  · exact memWf_serveHead h (fun _ _ ht => memWf_meetHead ht)

theorem memWf_recheckEvent {q} : MemWf (recheckEvent q s) := by
  unfold recheckEvent
  split
  · exact h
  · exact memWf_serveHead h (fun _ _ ht => memWf_meetHead ht)

theorem memWf_fenceEvent {q} : MemWf (fenceEvent q s) := by
  unfold fenceEvent
  split
  · exact h
  · exact memWf_serveHead h (fun _ _ ht => memWf_endFence ht)

theorem memWf_deleteComm {k} : MemWf (deleteComm k s) :=
  memWf_mk h

theorem memWf_tryComplete {q r} : MemWf (tryComplete q r s) := by
  unfold tryComplete
  split
  · split
    · split
      next e =>
        split
        · exact memWf_runDone (MemWf.of_eq (memWf_endColl h) e)
        · exact MemWf.of_eq (memWf_endColl h) e
    · exact h
  · split
    · exact memWf_runDone (memWf_deleteComm h)
    · exact h
  · exact h
  · exact h
  split
  · exact memWf_runDone (memWf_mk h)
  · exact h

theorem memWf_stampRun {q r} : MemWf (stampRun q r s) := by
  unfold stampRun
  dsimp only
  split
  · exact memWf_updQueue h
  split
  next e => exact memWf_updQueue (MemWf.of_eq (memWf_writeSpan h) e)
  next e => exact MemWf.of_eq (memWf_writeSpan h) e
  next e => exact memWf_updQueue (memWf_postRec (MemWf.of_eq (memWf_writeSpan h) e))
  next e => exact memWf_agentWait (MemWf.of_eq (memWf_writeSpan h) e)

theorem memWf_packetComplete {q i} : MemWf (packetComplete q i s) := by
  unfold packetComplete
  split
  · exact h
  split
  · exact memWf_stampRun h
  · exact memWf_tryComplete h

end Sys2Proof.Laws
end

section
/-!
SUPPORT. What the host does, and the fetch of instructions, keep memory canonical (R143, R194, R360 to R369, R388 to R391).
-/

namespace Sys2Proof.Laws

open Sys2Proof.Machine

variable {s : State} (h : MemWf s)
include h

theorem memWf_queueControl {q v} : MemWf (queueControl q v s) := by
  unfold queueControl
  split
  · exact h
  extract_lets
  split
  · split
    · exact memWf_haltQueue (memWf_updQueue h)
    · exact memWf_updQueue h
  · exact memWf_updQueue h

theorem memWf_doorbell {q v} : MemWf (doorbell q v s) := by
  unfold doorbell
  extract_lets
  split
  · exact h
  split
  · exact memWf_haltQueue h
  split
  · exact memWf_haltQueue (memWf_updQueue h)
  · exact memWf_updQueue h

theorem memWf_faultControl {v} : MemWf (faultControl v s) :=
  memWf_mk h

theorem memWf_postHeld : MemWf (postHeld s) := by
  unfold postHeld
  split
  · exact h
  split
  · exact h
  · exact memWf_writeRec (memWf_mk h)

theorem memWf_refuse {v} : MemWf (refuse v s) := by
  unfold refuse
  split
  · exact h
  extract_lets
  split
  · exact memWf_mk h
  · exact memWf_foldl (fun _ _ ht => memWf_updDie ht) (memWf_mk h)

theorem memWf_refuseOp {o cause va write} : MemWf (refuseOp o cause va write s) := by
  unfold refuseOp
  split
  · exact memWf_stopCopy h
  · exact memWf_stopXfer h
  · exact memWf_dropOp (memWf_postRec h)
  · exact memWf_takeTrap (memWf_dropOp (memWf_updGroup h))

theorem memWf_admitPri : MemWf (admitPri s) :=
  memWf_mk h

theorem memWf_refusePeer {d r cause} : MemWf (refusePeer d r cause s) :=
  memWf_foldl (fun _ _ ht => memWf_answerPeer ht) (memWf_updStation h)

theorem memWf_refuseCommand {r cause} : MemWf (refuseCommand r cause s) := by
  unfold refuseCommand
  extract_lets
  split
  · exact memWf_failStep h
  split
  · split
    · split
      · exact memWf_packetBad h
      · exact memWf_haltQueue h
    · exact memWf_haltQueue h
  split
  · exact memWf_postRec (memWf_updQueue h)
  · exact h

theorem memWf_refuseAgent {cause r0} : MemWf (refuseAgent cause s r0) := by
  unfold refuseAgent
  extract_lets
  split
  · exact memWf_refuseOp h
  split
  · exact memWf_refusePeer h
  split
  · exact memWf_refuseCommand h
  · exact h

theorem memWf_refuseParked {cause bad} : MemWf (refuseParked cause bad s) := by
  unfold refuseParked
  refine memWf_foldl (fun _ _ ht => ?_) h
  split
  · exact memWf_failFill ht
  · exact memWf_failParked ht

theorem memWf_refuseOpen {cause bad entry} : MemWf (refuseOpen cause bad entry s) :=
  memWf_foldl (fun _ _ ht => memWf_settleDie ht) (memWf_mk h)

theorem memWf_askOpen {on} : MemWf (askOpen on s) := by
  unfold askOpen
  refine memWf_foldl (fun _ _ ht => memWf_settleDie ht) (memWf_foldl (fun _ _ ht => ?_) (memWf_foldl (fun _ _ ht => ?_) h))
  · split
    · dsimp only
      refine memWf_updGroup (memWf_foldl_snd (fun _ _ ht₁ => ?_) ht)
      split
      · exact memWf_snd (memWf_noteAts (memWf_beginTr ht₁))
      · exact ht₁
  · split
    next e₁ =>
      refine memWf_putAcc (MemWf.of_eq (memWf_foldl_snd (fun _ _ ht₁ => ?_) ht) e₁)
      split
      · split
        · split
          next e₂ => exact memWf_snd (memWf_noteAts (MemWf.of_eq (memWf_beginTr ht₁) e₂))
        · exact ht₁

theorem memWf_refuseSaved {cause bad} : MemWf (refuseSaved cause bad s) :=
  memWf_mk h

theorem memWf_dieRefuses {d} : MemWf (dieRefuses d s) := by
  unfold dieRefuses
  split
  · exact h
  dsimp only
  split
  · exact memWf_updDie h
  refine memWf_admitPri (memWf_foldl (fun _ _ ht => memWf_refuseAgent ht) (memWf_admitWalks (memWf_refuseOpen (memWf_refuseSaved
      (memWf_refuseParked ?_)))))
  split
  · exact memWf_dropWalk (memWf_mk (memWf_updDie h))
  · exact memWf_mk (memWf_updDie h)

theorem memWf_answerAts {page f} : MemWf (answerAts page f s) :=
  memWf_mk h

theorem memWf_atsComplete {page r} : MemWf (atsComplete page r s) := by
  unfold atsComplete
  split
  · exact h
  refine memWf_foldl (fun _ _ ht => memWf_settleDie ht) ?_
  split
  · exact memWf_answerAts (memWf_mk (memWf_mk h))
  · exact memWf_answerAts (memWf_admitPri (memWf_mk (memWf_mk h)))

theorem memWf_priResponse {page ok} : MemWf (priResponse page ok s) := by
  unfold priResponse
  split
  · exact h
  extract_lets
  split
  · exact memWf_askOpen (memWf_foldl (fun _ _ ht => memWf_replay ht) (memWf_admitPri (memWf_mk h)))
  · exact memWf_foldl (fun _ _ ht => memWf_refuseAgent ht) (memWf_refuseOpen (memWf_refuseSaved (memWf_refuseParked (memWf_admitPri
      (memWf_mk h)))))

theorem memWf_atsInvalidate {page done} : MemWf (atsInvalidate page done s) := by
  unfold atsInvalidate
  split
  · split
    · exact h
    · exact memWf_mk h
  split
  · exact h
  split
  · exact h
  · exact memWf_mk h

/-- A reset of the device keeps host memory alone, which is what remains of a canonical memory. -/
theorem memWf_powerOn {flash} : MemWf (powerOn flash s) := by
  have hm : Memory.wf (s.mem.filter fun (a, _) => decide (2 ^ 64 ≤ a)) = true := wfFrom_filter _ h
  unfold powerOn
  dsimp only
  split
  · exact memWf_mk hm
  · exact memWf_mk hm

theorem memWf_attestGo {v} : MemWf (attestGo v s) := by
  unfold attestGo
  split
  · exact h
  · exact memWf_mk h

theorem memWf_attestDone : MemWf (attestDone s) := by
  unfold attestDone
  split
  · exact h
  · exact memWf_mk (memWf_performBytes h)

theorem memWf_windowEnd {watts depth hot} : MemWf (windowEnd watts depth hot s) :=
  memWf_mk h

theorem memWf_junctionHot {depth} : MemWf (junctionHot depth s) :=
  memWf_mk h

theorem memWf_thermalStop : MemWf (thermalStop s) :=
  memWf_mk h

theorem memWf_thermalResume {v cool} : MemWf (thermalResume v cool s) := by
  unfold thermalResume
  split
  · exact h
  · exact memWf_beginRestore (memWf_mk h)

theorem memWf_windowWrite {x0 x1 x2} : MemWf (windowWrite x0 x1 x2 s) := by
  induction x0 generalizing x1 x2 s with
  | zero => exact h
  | succ n ih =>
    unfold windowWrite
    split
    · exact h
    · exact ih (memWf_performBytes h)

theorem optWf_windowServe {r} : OptWf (windowServe r s) := by
  unfold windowServe
  extract_lets
  split
  · exact optWf_some h
  split
  · exact optWf_some (memWf_mk h)
  refine optWf_map_of_forall (fun _ => ?_)
  split
  · exact memWf_mk h
  · exact memWf_windowWrite h

theorem memWf_windowAccess {again r} : MemWf (windowAccess again r s) := by
  unfold windowAccess
  split
  · split
    · exact h
    · exact memWf_getD (optWf_windowServe (memWf_mk h)) h
  split
  · exact memWf_mk h
  · exact memWf_getD (optWf_windowServe h) (memWf_mk h)

theorem memWf_writeArray {off v} : MemWf (writeArray off v s) := by
  unfold writeArray
  extract_lets
  split
  · split
    · exact memWf_updQueue h
    · exact memWf_queueControl h
    · exact memWf_doorbell h
    · exact h
  split
  · split
    · exact memWf_mk h
    · exact memWf_tableLoad h
    · exact h
  split
  · exact memWf_stationWrite h
  split
  · split
    · exact memWf_mk h
    · exact h
  split
  · split
    · exact h
    · exact memWf_mk h
  split
  · exact memWf_mk h
  · exact h

theorem memWf_writeReg {off v} : MemWf (writeReg off v s) := by
  unfold writeReg
  extract_lets
  split
  · exact memWf_mk h
  · split
    · exact h
    · exact memWf_mk h
  · exact memWf_mk h
  · exact memWf_mk h
  · exact memWf_mk h
  · exact memWf_mk h
  · exact memWf_attestGo h
  · split
    · exact memWf_preemptRestore h
    · exact memWf_askSave h
  · exact memWf_mk h
  · exact memWf_faultControl h
  · exact memWf_mk h
  · exact memWf_mk h
  · split
    · exact h
    · exact memWf_mk h
  · exact memWf_refuse h
  · exact memWf_mk h
  · exact memWf_mk h
  · exact memWf_writeArray h

theorem memWf_registerWrite {x} : MemWf (registerWrite x s) := by
  unfold registerWrite
  split
  · exact memWf_admitPri (memWf_mk h)
  split
  · split
    · exact h
    split
    · split
      · exact memWf_thermalResume h
      · exact h
    · split <;> exact memWf_writeReg h
  split
  · exact h
  split
  · split
    · exact memWf_thermalResume h
    · exact h
  · split <;> exact memWf_writeReg h

theorem optWf_ibufRoom {core} : OptWf (ibufRoom core s) := by
  unfold ibufRoom
  split
  · exact optWf_some h
  dsimp only
  exact optWf_map_of_forall (fun _ => memWf_updCore (memWf_freeChoice h))

theorem memWf_readLine {core tenant vline x} : MemWf (readLine core tenant vline x s).2 := by
  unfold readLine
  dsimp only
  split
  · exact h
  split
  next e =>
    refine memWf_snd (memWf_updCore (memWf_fresh (OptWf.of_eq ?_ e)))
    split
    · exact optWf_ibufRoom (memWf_touchL2 h)
    · exact optWf_none
  · exact memWf_snd (memWf_touchL2 h)

theorem memWf_fetchLine {core tenant vline} : MemWf (fetchLine core tenant vline s).2 := by
  unfold fetchLine
  extract_lets
  split
  · exact memWf_readLine h
  · exact memWf_snd (memWf_mk h)
  · exact h
  · split
    · exact h
    split
    · exact h
    split
    next e => exact memWf_readLine (memWf_fillTlbs (MemWf.of_eq (memWf_walkNow h) e))
    next e => exact memWf_snd (MemWf.of_eq (memWf_walkNow h) e)
    next e => exact memWf_snd (MemWf.of_eq (memWf_walkNow h) e)
    next e => exact memWf_snd (MemWf.of_eq (memWf_walkNow h) e)
    next e => exact memWf_snd (MemWf.of_eq (memWf_walkNow h) e)
    next e => exact memWf_snd (MemWf.of_eq (memWf_walkNow h) e)
  · exact h
  · exact h
  · exact memWf_snd (memWf_noteAts h)
  · exact h

theorem memWf_lineFor {core tenant vline held} : MemWf (lineFor core tenant vline held s).2 := by
  unfold lineFor
  extract_lets
  split
  · exact h
  · exact memWf_fetchLine h

theorem memWf_fetchWords {core tenant pc held} : MemWf (fetchWords core tenant pc held s).2 := by
  unfold fetchWords
  dsimp only
  split
  next e₁ => exact memWf_snd (MemWf.of_eq (memWf_lineFor h) e₁)
  next e₁ => exact memWf_snd (MemWf.of_eq (memWf_lineFor h) e₁)
  next e₁ => exact memWf_snd (MemWf.of_eq (memWf_lineFor h) e₁)
  next e₁ =>
    split
    · exact memWf_snd (memWf_countError (MemWf.of_eq (memWf_lineFor h) e₁))
    split
    · exact memWf_snd (MemWf.of_eq (memWf_lineFor h) e₁)
    split
    next e₂ => exact memWf_snd (MemWf.of_eq (memWf_lineFor (MemWf.of_eq (memWf_lineFor h) e₁)) e₂)
    next e₂ => exact memWf_snd (MemWf.of_eq (memWf_lineFor (MemWf.of_eq (memWf_lineFor h) e₁)) e₂)
    next e₂ => exact memWf_snd (MemWf.of_eq (memWf_lineFor (MemWf.of_eq (memWf_lineFor h) e₁)) e₂)
    next e₂ =>
      split
      · exact memWf_snd (memWf_countError (MemWf.of_eq (memWf_lineFor (MemWf.of_eq (memWf_lineFor h) e₁)) e₂))
      · exact memWf_snd (MemWf.of_eq (memWf_lineFor (MemWf.of_eq (memWf_lineFor h) e₁)) e₂)

theorem memWf_fetchFault {cause va} : MemWf (fetchFault cause va s) := by
  unfold fetchFault
  extract_lets
  split
  · exact h
  · exact memWf_updGroup (memWf_precise (memWf_setGroup h))

theorem memWf_fetchParks {t va} : MemWf (fetchParks t va s) := by
  unfold fetchParks
  dsimp only
  split
  · exact h
  split
  · exact memWf_askWalk (memWf_putAcc (memWf_updGroup (memWf_fresh h)))
  · exact memWf_putAcc (memWf_updGroup (memWf_fresh h))

theorem memWf_groupReject {e w0} : MemWf (groupReject e w0 s) := by
  unfold groupReject
  dsimp only
  split
  · exact h
  split
  · split
    · exact memWf_complete (memWf_precise (memWf_countError (memWf_setGroup h)))
    · exact memWf_complete (memWf_setGroup h)
  · exact memWf_complete (memWf_precise (memWf_setGroup h))

theorem memWf_procReject {e ws} : MemWf (procReject e ws s) :=
  memWf_procFault h

theorem memWf_reject {e ws} : MemWf (reject e ws s) := by
  unfold reject
  split
  · exact memWf_groupReject h
  · exact memWf_procReject h

theorem memWf_regionFault : MemWf (regionFault s) :=
  memWf_procFault h

theorem memWf_holdLine {core slot m line line2} : MemWf (holdLine core slot m line line2 s) :=
  memWf_updGroup h

theorem memWf_nextPhase {core} : MemWf (nextPhase core s) := by
  unfold nextPhase
  refine memWf_updCore ?_
  split
  · exact memWf_stallTick h
  · exact h

theorem memWf_withheld : MemWf (withheld s).2 := by
  unfold withheld
  split
  · exact h
  split
  next e => exact memWf_snd (MemWf.of_eq (memWf_freeChoice h) e)

theorem memWf_applyUpset {u} : MemWf (applyUpset u s) := by
  unfold applyUpset
  split
  · exact memWf_mk h
  · exact memWf_mk h
  · exact memWf_updGroup h
  · exact memWf_mk h
  · exact memWf_mk h
  · exact memWf_updSlice h
  · split
    · exact h
    · exact memWf_mk h
  · exact memWf_updCore h
  · exact memWf_updDie h
  · exact memWf_updDie h
  · exact memWf_updCore h

end Sys2Proof.Laws
end

section
/-!
SUPPORT. An instruction, an event, a turn and a step keep memory canonical (R2, R69).
-/

namespace Sys2Proof.Laws

open Sys2Proof.Machine

/-- The memory of the next state, if there is one, is in its canonical form. -/
def OutWf (o : Host.Outcome State Fault Refusal) : Prop := ∀ t, o = .next t → MemWf t

theorem outWf_next {t : State} (h : MemWf t) : OutWf (.next t) := fun _ e => Host.Outcome.next.inj e ▸ h
theorem outWf_fault {f : Fault} : OutWf (.fault f) := fun _ e => by cases e
theorem outWf_refused {r : Refusal} : OutWf (.refused r) := fun _ e => by cases e
theorem OutWf.of_eq {o : Host.Outcome State Fault Refusal} {t : State} (ho : OutWf o) (e : o = .next t) : MemWf t := ho t e

section
variable {s : State} (h : MemWf s)
include h

/-- Every opcode of `opOf` is one of the operations above; those named here are an issue of one shared form. -/
theorem memWf_opOf {opc hd f} : MemWf (opOf opc hd f s) := by
  fun_cases opOf opc hd f s <;> simp [h,
    opVadd, opVsub, opVmul, opVmulh, opVmad, opVabs, opVneg, opVmin, opVmax, opVand, opVor, opVxor, opVandn, opVshl, opVshr, opVsra,
    opVclz, opVpopc, opVbfx, opVbfi, opVaddsat, opVsubsat, opVmov, opVfadd, opVfsub, opVfmul, opVfma, opVfmin, opVfmax, opVfabs,
    opVfneg, opVfdiv, opVfsqrt, opVrcpa, opVrsqa, opVfexp2a, opVflog2a, opVfclass, opVfldexp, opSli, opSmov, opSadd, opSsub, opSmul,
    opSmulh, opSdiv, opSrem, opSand, opSor, opSxor, opSandn, opSshl, opSshr, opSsra, opSmin, opSmax, opScmp, opSsel, opSclz,
    opSpopc, opSbfx, opSbfi]

/-- An instruction: every opcode is one operation but 0xD1, which is two. -/
theorem outWf_exec_of_view {i : Instr} {opc : Nat} {hd : Hdr} {f : Form} (hv : view i = some (opc, hd, f)) : OutWf (exec i s) := by
  by_cases hc : opc = 0xd1
  · subst hc
    cases i with
    | cawait hd m => exact outWf_next (memWf_opCawait h)
    | cawaitMem hd m => exact outWf_next (memWf_opCawaitMem h)
    | _ => cases hv
  · rw [exec_of_view s hv hc]
    exact outWf_next (memWf_opOf h)

/-- An event: one operation each. -/
theorem outWf_exec_event {i : Instr} (hv : view i = none) : OutWf (exec i s) := by
  cases i with
  | doorbell => exact outWf_next (memWf_doorbell h)
  | queueEnable => exact outWf_next (memWf_queueControl h)
  | registerWrite => exact outWf_next (memWf_registerWrite h)
  | handlerTableLoad => exact outWf_next (memWf_tableLoad h)
  | handlerTableLoadDone => exact outWf_next (memWf_tableLoadDone h)
  | stationEnable => exact outWf_next (memWf_stationWrite h)
  | preemptSave => exact outWf_next (memWf_preemptSave h)
  | preemptRestore => exact outWf_next (memWf_preemptRestore h)
  | restoreBlockPlace => exact outWf_next (memWf_restorePlace h)
  | timeSliceExpiry => exact outWf_next (memWf_timeSlice h)
  | attestationGo => exact outWf_next (memWf_attestGo h)
  | attestationReportDone => exact outWf_next (memWf_attestDone h)
  | faultQueueEnable => exact outWf_next (memWf_faultControl h)
  | demandRefuse => exact outWf_next (memWf_refuse h)
  | dieTakesRefusal => exact outWf_next (memWf_dieRefuses h)
  | demandRecordPost => exact outWf_next (memWf_postHeld h)
  | powerOnReset => exact outWf_next (memWf_powerOn h)
  | powerWindowEnd => exact outWf_next (memWf_windowEnd h)
  | thermalStop => exact outWf_next (memWf_thermalStop h)
  | thermalResume => exact outWf_next (memWf_thermalResume h)
  | hostBar4Access => exact outWf_next (memWf_windowAccess h)
  | atsCompletion => exact outWf_next (memWf_atsComplete h)
  | priResponse => exact outWf_next (memWf_priResponse h)
  | atsInvalidation => exact outWf_next (memWf_atsInvalidate h)
  | nopPacket => exact outWf_next (memWf_kindEvent h)
  | launch => exact outWf_next (memWf_kindEvent h)
  | gang => exact outWf_next (memWf_kindEvent h)
  | wait => exact outWf_next (memWf_kindEvent h)
  | waitRecheck => exact outWf_next (memWf_recheckEvent h)
  | signal => exact outWf_next (memWf_kindEvent h)
  | fencePacket => exact outWf_next (memWf_kindEvent h)
  | fencePacketStart => exact outWf_next (memWf_fenceEvent h)
  | copy => exact outWf_next (memWf_kindEvent h)
  | coll => exact outWf_next (memWf_kindEvent h)
  | commCreate => exact outWf_next (memWf_kindEvent h)
  | commDestroy => exact outWf_next (memWf_kindEvent h)
  | circ => exact outWf_next (memWf_kindEvent h)
  | kcqCfg => exact outWf_next (memWf_kindEvent h)
  | packetIllegal => exact outWf_next (memWf_illegalEvent h)
  | packetDeferredStart => exact outWf_next (memWf_deferredEvent h)
  | packetComplete => exact outWf_next (memWf_packetComplete h)
  | blockPlace => exact outWf_next (memWf_blockPlace h)
  | gangClaim => exact outWf_next (memWf_gangClaim h)
  | blockComplete => exact outWf_next (memWf_blockComplete h)
  | regroup => exact outWf_next (memWf_regroupAt h)
  | mwaitTimeout => exact outWf_next (memWf_mwaitTimeout h)
  | sleepExpiry => exact outWf_next (memWf_sleepExpiry h)
  | blockStall => exact outWf_next (memWf_blockStall h)
  | storeCommit => exact outWf_next (memWf_storeCommit h)
  | l2Write => exact outWf_next (memWf_l2Write h)
  | atomicPerform => exact outWf_next (memWf_atomicPerform h)
  | loadReturn => exact outWf_next (memWf_loadReturn h)
  | l2Miss => exact outWf_next (memWf_l2Miss h)
  | l2FillData => exact outWf_next (memWf_fillArrives h)
  | combineLineTimeout => exact outWf_next (memWf_combineTimeout h)
  | returnStackRefillLands => exact outWf_next (memWf_refillLands h)
  | stashFillDone => exact outWf_next (memWf_stashFillDone h)
  | pageWalkDone => exact outWf_next (memWf_walkDone h)
  | pgmodeStepComplete => exact outWf_next (memWf_pgmodeDone h)
  | copySlicePush => exact outWf_next (memWf_copyPush h)
  | copySliceWritten => exact outWf_next (memWf_copyWritten h)
  | mfillDelivery => exact outWf_next (memWf_fillDelivery h)
  | passEnd => exact outWf_next (memWf_passEnd h)
  | tilePortOpDone => exact outWf_next (memWf_portDone h)
  | kcqPushArrival => exact outWf_next (memWf_pushArrives h)
  | kcqDispatchClaim => exact outWf_next (memWf_dispatchClaim h)
  | kcqEndToken => exact outWf_next (memWf_endToken h)
  | handlerDispatch => exact outWf_next (memWf_handlerDispatch h)
  | msgEventArrival => exact outWf_next (memWf_msgArrives h)
  | heldLineWaitTimeout => exact outWf_next (memWf_heldTimeout h)
  | stationSend => exact outWf_next (memWf_stationSend h)
  | linkAck => exact outWf_next (memWf_linkAck h)
  | remoteRequestReceive => exact outWf_next (memWf_requestReceive h)
  | remoteResponse => exact outWf_next (memWf_remoteResponse h)
  | errorNotice => exact outWf_next (memWf_errorNotice h)
  | peerLost => exact outWf_next (memWf_peerLost h)
  | windowStall => exact outWf_next (memWf_windowStall h)
  | linkDown => exact outWf_next (memWf_linkDown h)
  | linkTrained => exact outWf_next (memWf_linkTrained h)
  | linkRetrainTimeout => exact outWf_next (memWf_retrainTimeout h)
  | hoistArrival => exact outWf_next (memWf_hoistArrival h)
  | hoistStrike => exact outWf_next (memWf_hoistStrike h)
  | hoistSend => exact outWf_next (memWf_hoistSend h)
  | hoistCircuitTimeout => exact outWf_next (memWf_hoistTimeout h)
  | circuitMade => exact outWf_next (memWf_circuitMade h)
  | circuitBroken => exact outWf_next (memWf_circuitBroken h)
  | portTrained => exact outWf_next (memWf_portTrained h)
  | lockTimeout => exact outWf_next (memWf_lockTimeout h)
  | identityHandshake => exact outWf_next (memWf_handshake h)
  | lossOfLock => exact outWf_next (memWf_lossOfLock h)
  | portDrainDone => exact outWf_next (memWf_drainDone h)
  | opticalSliceAck => exact outWf_next (memWf_sliceAck h)
  | barrierCopyTimeout => exact outWf_next (memWf_copyTimeout h)
  | emsgReceive => exact outWf_next (memWf_emsgReceive h)
  | scriptWaitTimeout => exact outWf_next (memWf_scriptTimeout h)
  | junctionThrottle => exact outWf_next (memWf_junctionHot h)
  | hardwarePrefetch => exact outWf_next (memWf_hardwarePrefetch h)
  | _ => cases hv

theorem outWf_exec {i : Instr} : OutWf (exec i s) := by
  cases hv : view i with
  | none => exact outWf_exec_event h hv
  | some v => exact outWf_exec_of_view h hv

theorem outWf_runWords {ws : List W32} : OutWf (runWords ws s) := by
  unfold runWords
  split
  · exact outWf_exec h
  · exact outWf_next (memWf_reject h)

/-- A partition tries its bundles: by induction on the bundles left to try. -/
theorem outWf_issueFirst {core : Nat} {bs : List (Nat × W64)} : OutWf (issueFirst core bs s) := by
  induction bs generalizing s with
  | nil => exact outWf_next h
  | cons b rest ih =>
    obtain ⟨slot, m⟩ := b
    unfold issueFirst
    split
    next g l _ _ =>
      extract_lets pc s₁
      have hf : MemWf (fetchWords core g.tenant pc (g.bundle m).lines s₁).2 := memWf_fetchWords (memWf_mk h)
      split
      next e => exact ih (hf.of_eq e)
      next e => exact ih (memWf_fetchParks (hf.of_eq e))
      next e => exact outWf_next (memWf_fetchFault (memWf_mk (hf.of_eq e)))
      next e =>
        extract_lets t
        have ht : MemWf t := memWf_holdLine (hf.of_eq e)
        clear_value t
        split
        next e' =>
          split
          · exact ih ht
          · exact outWf_next (OutWf.of_eq (outWf_runWords (memWf_mk ht)) e')
        · exact outWf_fault
        · exact outWf_refused
    next => exact ih h

/-- A sequencer without lanes tries its contexts: by induction on the contexts left to try. -/
theorem outWf_issueProc {seq : Seq} {unit clock : Nat} {won : Nat → State → State} (hw : ∀ k t, MemWf t → MemWf (won k t))
    {ks : List Nat} : OutWf (issueProc seq unit clock won ks s) := by
  induction ks generalizing s with
  | nil => exact outWf_next h
  | cons k rest ih =>
    unfold issueProc
    extract_lets s₁ p _ s₂
    have h₁ : MemWf s₁ := memWf_mk h
    have h₂ : MemWf s₂ := memWf_mk h₁
    clear_value s₂
    split
    · exact ih h₁
    split
    · exact outWf_next (memWf_regionFault (hw k _ h₂))
    split
    · exact outWf_next (memWf_procFault (hw k _ h₂))
    split
    next t e =>
      have ht := OutWf.of_eq (outWf_runWords (memWf_mk h₂)) e
      split
      · exact ih (memWf_mk ht)
      · exact outWf_next (hw k t ht)
    · exact outWf_fault
    · exact outWf_refused

theorem outWf_coreTurn {core : Nat} : OutWf (coreTurn core s) := by
  unfold coreTurn
  extract_lets part s₁
  split
  next e =>
    have ht := (memWf_withheld (memWf_regroupAt h)).of_eq e
    split
    · exact outWf_next (memWf_nextPhase ht)
    split
    next e' => exact outWf_next (memWf_nextPhase ((outWf_issueFirst ht).of_eq e'))
    · exact outWf_fault
    · exact outWf_refused

theorem outWf_folbelTurn {n : Nat} : OutWf (folbelTurn n s) := by
  unfold folbelTurn
  extract_lets x tick
  split
  next e => exact outWf_next (memWf_updSlice ((outWf_issueProc h fun _ _ ht => memWf_updSlice ht).of_eq e))
  · exact outWf_fault
  · exact outWf_refused

theorem outWf_fabricTurn : OutWf (fabricTurn s) := by
  unfold fabricTurn
  extract_lets x tick
  split
  next e => exact outWf_next (memWf_drainLimits (memWf_mk ((outWf_issueProc h fun _ _ ht => memWf_mk ht).of_eq e)))
  · exact outWf_fault
  · exact outWf_refused

theorem outWf_turnStep {t : Turn} : OutWf (turnStep t s) := by
  unfold turnStep
  split
  · exact outWf_next h
  split
  · split
    · exact outWf_coreTurn h
    · exact outWf_fault
  · split
    · exact outWf_folbelTurn h
    · exact outWf_fault
  · exact outWf_fabricTurn h
  · split
    · exact outWf_next (memWf_tickStation h)
    · exact outWf_fault

theorem outWf_eventStep {i : Instr} {x : Input} : OutWf (eventStep i x s) := by
  unfold eventStep
  split
  · exact outWf_next h
  split
  · exact outWf_next h
  · exact outWf_exec (memWf_mk h)

theorem outWf_act : OutWf (act s) := by
  unfold act
  split
  · exact outWf_turnStep h
  · exact outWf_turnStep (memWf_mk h)
  · exact outWf_eventStep (memWf_mk h)
  · exact outWf_next (memWf_applyUpset (memWf_mk h))

end

theorem outWf_checkHole {o : Host.Outcome State Fault Refusal} (ho : OutWf o) : OutWf (checkHole o) := by
  unfold checkHole
  split
  · split
    · exact outWf_fault
    · exact ho
  · exact outWf_fault
  · exact outWf_refused

/-- Settles O58: every operation keeps memory canonical, so every instruction, event and turn does, and so does a step. -/
theorem memoryStaysCanonical : Obligations.MemoryStaysCanonical := by
  unfold Obligations.MemoryStaysCanonical
  intro s t h e
  exact (outWf_checkHole (outWf_act h)).of_eq e

end Sys2Proof.Laws
end

section
/-!
SUPPORT. One step: the clock of each kind of agent, and the sequencers' choice of who issues (R24, R58, R301, R355).
-/

namespace Sys2Proof.Laws

open Sys2Proof.Machine

/-- A next state that reaches no missing address stands. -/
theorem checkHole_next {t : State} (h : t.hole = false) : checkHole (.next t) = .next t := by simp [checkHole, h]

/-- With no event left the clock is that of the agent whose turn it is. -/
theorem step_of_turn {s : State} (hs : s.schedule = []) : step s = checkHole (turnStep s.turn s) := by
  rw [step, act, hs]

/-- While the device is not stopped, a core's clock is one of its partitions'. -/
theorem turnStep_core {c : Nat} {s : State} (hc : c < 128) (cool : s.regs.thermStat.getLsbD 0 = false) :
    turnStep (.core c) s = coreTurn c s := by
  rw [turnStep, State.stoppedHot, cool, if_neg Bool.false_ne_true, if_pos hc]

theorem turnStep_folbel {n : Nat} {s : State} (hn : n < 64) (cool : s.regs.thermStat.getLsbD 0 = false) :
    turnStep (.folbel n) s = folbelTurn n s := by
  rw [turnStep, State.stoppedHot, cool, if_neg Bool.false_ne_true, if_pos hn]

theorem turnStep_fabric {s : State} (cool : s.regs.thermStat.getLsbD 0 = false) :
    turnStep .fabric s = fabricTurn s := by
  rw [turnStep, State.stoppedHot, cool, if_neg Bool.false_ne_true]

theorem turnStep_station {d : Nat} {s : State} (hd : d < 4) (cool : s.regs.thermStat.getLsbD 0 = false) :
    turnStep (.station d) s = .next (tickStation d s) := by
  rw [turnStep, State.stoppedHot, cool, if_neg Bool.false_ne_true, if_pos hd]

theorem turnStep_stopped {a : Turn} {s : State} (hot : s.regs.thermStat.getLsbD 0 = true) : turnStep a s = .next s := by
  unfold turnStep
  exact if_pos hot

theorem runWords_ok {ws : List W32} {i : Instr} {n : Nat} (s : State) (hd : decode ws = .ok (i, n)) :
    runWords ws s = exec i s := by rw [runWords, hd]

theorem runWords_error {ws : List W32} {e : Reject} (s : State) (hd : decode ws = .error e) :
    runWords ws s = .next (reject e ws s) := by rw [runWords, hd]

/-- A bundle whose words are fetched issues, unless R58 holds it. -/
theorem issueFirst_words {c slot : Nat} {m : W64} {rest : List (Nat × W64)} {g : Group} {l : Nat} {ws : List W32}
    {line line2 : Option Nat} {u v t : State} (hg : u.group (gkey c slot) = some g) (hl : lowest m = some l)
    (hf : fetchWords c g.tenant (g.lane l).pc (g.bundle m).lines
      { u with cur := { unit := c, sub := slot, lanes := m, pc := (g.lane l).pc, clock := (u.core c).cycle } } =
        (.words ws line line2, v))
    (hr : runWords ws (Rules.fetched ws (holdLine c slot m line line2 v)) = .next t) (ht : t.cur.held = false) :
    issueFirst c ((slot, m) :: rest) u = .next t := by
  rw [issueFirst, hg, hl]
  dsimp only
  rw [hf]
  dsimp only
  rw [Rules.fetched] at hr
  rw [hr]
  simp [ht]

/-- A core's clock in which its first candidate issues. -/
theorem step_core_of_words {c slot : Nat} {m : W64} {rest : List (Nat × W64)} {g : Group} {l : Nat} {ws : List W32}
    {line line2 : Option Nat} {s u v t : State} (hs : s.schedule = []) (hturn : s.turn = .core c) (hc : c < 128)
    (cool : s.regs.thermStat.getLsbD 0 = false) (hw : withheld (regroupAt c (s.core c).phase s) = (false, u))
    (hcand : candidates u c (s.core c).phase = (slot, m) :: rest) (hg : u.group (gkey c slot) = some g)
    (hl : lowest m = some l)
    (hf : fetchWords c g.tenant (g.lane l).pc (g.bundle m).lines
      { u with cur := { unit := c, sub := slot, lanes := m, pc := (g.lane l).pc, clock := (u.core c).cycle } } =
        (.words ws line line2, v))
    (hr : runWords ws (Rules.fetched ws (holdLine c slot m line line2 v)) = .next t) (ht : t.cur.held = false)
    (hh : (nextPhase c t).hole = false) : step s = .next (nextPhase c t) := by
  have hi : issueFirst c (candidates u c (s.core c).phase) u = .next t := by
    rw [hcand]; exact issueFirst_words hg hl hf hr ht
  rw [step_of_turn hs, hturn, turnStep_core hc cool, coreTurn]
  simp [hw, hi, checkHole_next hh]

/-- Contexts that do not issue are passed over: each replaces the cursor alone. -/
theorem issueProc_skip {seq : Seq} {unit clock : Nat} {won : Nat → State → State} {k : Nat} {post pre : List Nat} {s : State}
    (hp : ∀ j ∈ pre, Rules.idle seq unit clock s j) :
    issueProc seq unit clock won (pre ++ k :: post) s = issueProc seq unit clock won (k :: post) s := by
  induction pre generalizing s with
  | nil => rfl
  | cons j pre ih =>
    have hj := hp j (by simp)
    have hrest : ∀ i ∈ pre, Rules.idle seq unit clock { s with cur := { seq, unit, sub := j, clock } } i :=
      fun i hi => hp i (by simp [hi])
    rw [List.cons_append, issueProc]
    dsimp only
    rw [if_pos (by simpa [Rules.idle] using hj), ih hrest]
    rfl

/-- The context whose turn it is executes its words. -/
theorem issueProc_words {seq : Seq} {unit clock : Nat} {won : Nat → State → State} {k : Nat} {post pre : List Nat} {ws : List W32}
    {s t : State} (hp : ∀ j ∈ pre, Rules.idle seq unit clock s j) (hk : ¬Rules.idle seq unit clock s k)
    (hw : procWords (Rules.contextTurn seq unit clock k s) = some ws)
    (hb : procWordsBad ws (Rules.contextTurn seq unit clock k s) = false)
    (hr : runWords ws (Rules.fetched ws (Rules.contextTurn seq unit clock k s)) = .next t) (ht : t.cur.held = false) :
    issueProc seq unit clock won (pre ++ k :: post) s = .next (won k t) := by
  rw [issueProc_skip hp, issueProc]
  dsimp only
  rw [if_neg (by simpa [Rules.idle] using hk)]
  rw [Rules.contextTurn] at hw hb hr
  dsimp only at hw hb hr
  rw [hw]
  dsimp only
  rw [hb, if_neg Bool.false_ne_true]
  rw [Rules.fetched] at hr
  rw [hr]
  simp [ht]

/-- Two changes of one slice are one. -/
theorem updSlice_updSlice (s : State) (n : Nat) (f f' : Slice → Slice) :
    (s.updSlice n f).updSlice n f' = s.updSlice n fun y => f' (f y) := by
  simp [State.updSlice, State.slice]

/-- Settles O56, clause by clause: an agent's clock is `turnStep`, an event is `exec`, and no address is missing. -/
theorem stepRuns : Obligations.StepRuns := by
  unfold Obligations.StepRuns
  refine ⟨?core, ?folbel, ?fabric, ?event, ?upset, ?stopped, ?station, ?turn⟩
  case core =>
    intro c slot m rest g l ws line line2 s u v t hs hturn hc cool part hw hcand hg hl pc hf x hh
    constructor
    · intro i n hd he ht
      exact step_core_of_words hs hturn hc cool hw hcand hg hl hf ((runWords_ok x hd).trans he) ht hh
    · intro e hd he ht
      subst he
      exact step_core_of_words hs hturn hc cool hw hcand hg hl hf (runWords_error x hd) ht hh
  case folbel =>
    intro n k pre post ws i len s t hs hturn hn cool hr hp hk x hw hb hd he ht u hh
    rw [step_of_turn hs, hturn, turnStep_folbel hn cool, folbelTurn]
    dsimp only
    rw [hr, issueProc_words hp hk hw hb ((runWords_ok _ hd).trans he) ht]
    dsimp only
    rw [updSlice_updSlice, checkHole_next hh]
  case fabric =>
    intro k pre post ws i len s t hs hturn cool hr hp hk x hw hb hd he ht u hh
    rw [step_of_turn hs, hturn, turnStep_fabric cool, fabricTurn]
    dsimp only
    rw [hr, issueProc_words hp hk hw hb ((runWords_ok _ hd).trans he) ht]
    exact checkHole_next hh
  case event =>
    intro i x rest s t hs hv hot he hh
    have hgo : (({ s with schedule := rest } : State).stoppedHot && !fromOutside i x) = false := by
      rw [State.stoppedHot]
      rcases hot with h | h
      · rw [h, Bool.false_and]
      · rw [h, Bool.not_true, Bool.and_false]
    rw [step, act, hs]
    dsimp only
    rw [eventStep, hv]
    dsimp only
    rw [hgo, if_neg Bool.false_ne_true, he, checkHole_next hh]
  case upset =>
    intro u rest s hs t hh
    rw [step, act, hs]
    exact checkHole_next hh
  case stopped =>
    intro s hs hot hh
    rw [step_of_turn hs, turnStep_stopped hot, checkHole_next hh]
  case station =>
    intro d s hs hturn hd cool t hh
    rw [step_of_turn hs, hturn, turnStep_station hd cool, checkHole_next hh]
  case turn =>
    intro a s hs
    rw [step_of_turn (s := { s with schedule := [], turn := a }) rfl, step, act, hs]

end Sys2Proof.Laws
end

section
/-!
SUPPORT. The events of launches and blocks: what each answers (R23, R37, R43, R54 to R56, R392 to R394).
-/

namespace Sys2Proof.Laws

open Sys2Proof.Machine

/-- A block that a launch places is the one that the rules name. -/
theorem placeBlock_eq (id : Nat) (l : Launch) (a : Arrangement) (s : State) : placeBlock id l a s = Rules.placed id l a s := rfl

/-- No launch started earlier by the tenant has a next block that fits. -/
theorem no_earlier_of_placeable {id : Nat} {l : Launch} {s : State} (h : Rules.placeable id l s) :
    (s.launches.any fun (j, m) =>
      decide (j < id) && m.tenant = l.tenant && decide (m.next < m.total) && m.ticket.isNone && (arrange s j m).isSome) = false := by
  obtain ⟨-, -, -, -, hfirst⟩ := h
  rw [List.any_eq_false]
  rintro ⟨j, m⟩ hm hall
  simp only [Bool.and_eq_true, decide_eq_true_eq, Option.isNone_iff_eq_none] at hall
  obtain ⟨⟨⟨⟨hj, ht⟩, hn⟩, hk⟩, ha⟩ := hall
  rw [hfirst j m hm hj ht hn hk] at ha
  exact absurd ha Bool.false_ne_true

/-- A launch whose turn it is places its next block where it fits, and takes a ticket for it where it is a gang's and does not. -/
theorem blockPlace_of_placeable {id : Nat} {l : Launch} {s : State} (h : Rules.placeable id l s) :
    blockPlace id s = match arrange s id l with
      | some a => placeBlock id l a s
      | none =>
        if !l.gang then s
        else
          let s' : State := { s with nextId := s.nextId + 1, launches := putN s.launches id { l with ticket := some s.nextId } }
          if (getN s'.reserves l.tenant).isSome then s' else passReserve l.tenant s' := by
  have hnone := no_earlier_of_placeable h
  obtain ⟨hl, hnext, hticket, hstop, -⟩ := h
  unfold blockPlace
  rw [hl]
  dsimp only
  rw [hnone, hticket, hstop, if_neg (by simpa using hnext)]
  rfl

/-- A reservation whose target is partly another tenant's is passed on (R365). -/
theorem gangClaim_of_lost {t : Nat} {r : Reserve} {l : Launch} {s : State} (hr : getN s.reserves t = some r)
    (hl : getN s.launches r.launch = some l) (hc : ∃ c ∈ r.cores, clusterTenant s (clusterOf c) ≠ some t) :
    gangClaim t s = passReserve t s := by
  have hall : r.cores.all (fun c => clusterTenant s (clusterOf c) = some t) = false := by
    rw [List.all_eq_false]
    obtain ⟨c, hc, hne⟩ := hc
    exact ⟨c, hc, by simpa using hne⟩
  unfold gangClaim
  rw [hr]
  dsimp only
  rw [hl]
  dsimp only
  rw [hall, Bool.not_false, if_pos rfl]

/-- A reservation with every claim met places its block and is passed on (R56). -/
theorem gangClaim_of_met {t : Nat} {r : Reserve} {l : Launch} {a : Arrangement} {s : State} (hr : getN s.reserves t = some r)
    (hl : getN s.launches r.launch = some l) (hstop : stopped s t = false)
    (hc : ∀ c ∈ r.cores, clusterTenant s (clusterOf c) = some t)
    (ha : claimsMet s r.launch l r.cores 0 r.cores.length = some a) :
    gangClaim t s = passReserve t (placeBlock r.launch l a s) := by
  have hall : r.cores.all (fun c => clusterTenant s (clusterOf c) = some t) = true := by
    simpa [List.all_eq_true] using hc
  unfold gangClaim
  rw [hr]
  dsimp only
  rw [hl]
  dsimp only
  rw [hall, hstop, ha, Bool.not_true, if_neg Bool.false_ne_true, if_neg Bool.false_ne_true]

/-- A block without a group and without a store to its scratchpad is complete: it marks the ends of its writes, and counts for its
launch (R37, R43). -/
theorem blockComplete_of_empty {id : Nat} {b : Block} {l : Launch} {s u : State} (hb : getN s.blocks id = some b)
    (hi : b.image = none) (hlive : b.live = []) (hscratch : scratchLeft s id = false)
    (hu : u = (leftOf (sweep s) id).foldl
      (fun s x => s.updGroup x.1 fun g => { g with storeQ := g.storeQ ++ [drainMark b (slotOf x.1)] })
      (b.shares.foldl (fun s sh => commitEntry sh.core id (drainMark b 128) s) (sweep s)))
    (hl : getN u.launches b.launch = some l) :
    blockComplete id s = { u with
      blocks := delN u.blocks id
      launches := putN u.launches b.launch
        { l with done := l.done + 1, pending := l.pending + b.shares.length + (leftOf (sweep s) id).length } } := by
  unfold blockComplete
  rw [hb]
  dsimp only
  rw [hi, hlive, hscratch, if_neg (by decide), ← hu, hl]

/-- A change of a block that exists. -/
theorem updBlock_of {s : State} {k : Nat} {b : Block} (f : Block → Block) (h : getN s.blocks k = some b) :
    s.updBlock k f = { s with blocks := putN s.blocks k (f b) } := by rw [State.updBlock, h]

/-- A block that has been stalled for 65536 clocks is reported once (R393). -/
theorem blockStall_of_due {id t core : Nat} {b : Block} {s : State} (hb : getN s.blocks id = some b)
    (hcore : (b.shares.headD { core := 128, low := 0, slots := [] }).core = core) (ht : b.stall.since = some t)
    (hrep : b.stall.reported = false) (hst : blockStalled s id b = true) (hdue : t + 65536 ≤ (s.core core).cycle) :
    blockStall id s = postRec (stallRec s b core)
      { s with blocks := putN s.blocks id { b with stall := { b.stall with reported := true, seen := parkedNow s b } } } := by
  unfold blockStall
  rw [hb]
  dsimp only
  rw [ht]
  dsimp only
  rw [hcore, hrep, hst, if_neg (by simpa using hdue), updBlock_of _ hb, ← ht]

/-- A core's partition is regrouped at every fourth clock (R23). -/
theorem regroupAt_eq (core part : Nat) (s : State) :
    regroupAt core part s = if (s.core core).cycle % 4 = 0 then
      { s with groups := s.groups.map fun x =>
          (x.1, if x.1 / 128 = core ∧ x.1 % 8 = part then x.2.regroup (s.core core).cycle (s.core core) else x.2) }
    else s := by
  unfold regroupAt
  by_cases h : (s.core core).cycle % 4 = 0 <;> simp [h]

/-- Settles O36: each clause is the rule of its event. -/
theorem launchEvents : Obligations.LaunchEvents := by
  unfold Obligations.LaunchEvents
  intro s id goes
  refine ⟨?fits, ?waits, ?ticket, ?lost, ?met, ?complete, ?regroup, ?stall⟩
  case fits =>
    intro l hl a ha
    have e : blockPlace id s = Rules.placed id l a s := by rw [blockPlace_of_placeable hl, ha]; rfl
    exact congrArg _ e
  case waits =>
    intro l hl ha hg
    have e : blockPlace id s = s := by rw [blockPlace_of_placeable hl, ha, hg]; rfl
    exact congrArg _ e
  case ticket =>
    intro l hl ha hg u
    have e : blockPlace id s = if (getN s.reserves l.tenant).isSome then u else passReserve l.tenant u := by
      have hn : (!l.gang) = false := by rw [hg]; rfl
      rw [blockPlace_of_placeable hl, ha]
      dsimp only
      rw [hn, if_neg Bool.false_ne_true]
    exact congrArg _ e
  case lost =>
    intro r l hr hl hc
    exact congrArg _ (gangClaim_of_lost hr hl hc)
  case met =>
    intro r l a hr hl hstop hc ha
    exact congrArg _ (gangClaim_of_met hr hl hstop hc ha)
  case complete =>
    intro b l hb hi hlive hscratch e t left u hl
    exact congrArg _ (blockComplete_of_empty hb hi hlive hscratch rfl hl)
  case regroup =>
    exact congrArg _ (regroupAt_eq _ _ s)
  case stall =>
    intro b t hb core ht hrep hst hdue
    exact congrArg _ (blockStall_of_due hb rfl ht hrep hst hdue)

end Sys2Proof.Laws
end

section
/-!
SUPPORT. A group with an empty bundle, which a call drops.
-/

namespace Sys2Proof.Laws

open Sys2Proof.Machine

/-- A `call` of the next word. -/
def callNext : Instr := .call Rules.plainHdr 1

/-- The form of that call. -/
def callForm : Form := Form.ofOff 1

/-- A group whose lane 0 stands in a bundle, beside a bundle of no lanes. -/
def hollowGroup : Group := { bundles := [{ mask := 1 }, { mask := 0 }] }

/-- That group's bundle of lane 0 is the one that issues. -/
def hollowState : State := { groups := [(0, hollowGroup)], cur := { lanes := 1 } }

theorem issues_hollow : Issues 0x23 Rules.plainHdr callForm hollowGroup hollowState where
  seq := rfl
  here := rfl
  lanes := by decide
  words := by decide
  ready := by decide
  free := by decide
  early := rfl
  sound := by decide

/-- Parking the lanes that wait, here none, takes the empty bundle away: what remains after the call is lane 0's bundle. -/
theorem exec_callNext_bundles :
    ∃ t g, exec callNext hollowState = .next t ∧ t.group 0 = some g ∧ ∀ b ∈ g.bundles, b.mask ≠ 0 := by
  refine ⟨_, _, rfl, rfl, ?_⟩
  decide

/-- The displacement of the call is whole words. -/
theorem targetsOk_hollow : Rules.targetsOk 0x23 callForm hollowGroup Rules.plainHdr hollowState := by
  unfold Rules.targetsOk
  rw [if_neg (by decide)]
  decide

/-- Refutes O7 at its second clause, a call with room on every stack: `othersStay` says that every bundle of other lanes stays, but parking
the lanes that wait, here none, takes out a bundle that has no lanes (`Group.unbundle`). The fourth and fifth clauses except such
bundles (`sameBundles`); the second and third do not. -/
theorem not_branchesAndCalls : ¬ Obligations.BranchesAndCalls := by
  unfold Obligations.BranchesAndCalls
  intro h
  obtain ⟨-, hcall, -⟩ := h callNext 0x23 Rules.plainHdr callForm hollowGroup hollowState rfl issues_hollow
  obtain ⟨g', hexec, -, ⟨-, hstay⟩, -⟩ := hcall (.inl rfl) targetsOk_hollow (by decide)
  obtain ⟨t, g, hnext, hg, hfull⟩ := exec_callNext_bundles
  obtain rfl := Host.Outcome.next.inj (hnext.symm.trans hexec)
  obtain rfl := Option.some.inj (hg.symm.trans (group_setGroup _ _ g'))
  have hempty : { mask := 0, age := 1 } ∈ (hollowGroup.begun hollowState).bundles := by decide
  exact hfull _ (hstay _ hempty) rfl

end Sys2Proof.Laws
end

section
/-!
SUPPORT. A stash fill that stands under another number than its own.
-/

namespace Sys2Proof.Laws

open Sys2Proof.Machine

/-- A leaf that maps a page of the near tier. -/
def nearLeaf : Xlat := { tenant := 0, vpage := 0, large := false, pte := 0, pteAt := 0 }

/-- A fill of entry 0 of window 0, with the number 1. -/
def strayFill : Access :=
  { id := 1, owner := 1, core := 0, slot := 128, tenant := 0, kind := .stashFill 0 0 0, pc := 0, lanes := 0, typ := 0,
    reqs := [{ lane := 0, pos := 0, va := 0, size := 128, dst := 0, tr := .found nearLeaf }] }

/-- The window, whose one entry is being filled. -/
def fillWindow : Window := { off := 0, base := 0, len := 128, entries := [{ filling := true }] }

/-- The share of core 0 that holds the window. -/
def fillShare : Share := { core := 0, low := 0, slots := [], windows := [(0, fillWindow)] }

/-- The block of that share. -/
def fillBlock : Block := { launch := 0, index := 0, tenant := 0, cluster := 0, n := 1, live := [], shares := [fillShare] }

/-- The fill stands under the number 0, and its line is in L2. -/
def strayState : State := { accs := [(0, strayFill)], blocks := [(0, fillBlock)], l2 := [(nearLeaf.pa 0 / 128, {})] }

/-- Refutes O40 at its fourth clause: the event is given the number 0 under which the fill stands, but what leaves the accesses is what
stands under the fill's own number 1 (`landFill`); the clause does not say that the two are one. -/
theorem not_timersAndFills : ¬ Obligations.TimersAndFills := by
  unfold Obligations.TimersAndFills
  intro h
  obtain ⟨-, -, -, hfill, -⟩ := h strayState
  obtain ⟨hland, -⟩ := hfill strayFill _ 0 0 0 nearLeaf fillWindow fillShare fillBlock rfl rfl rfl rfl rfl rfl rfl (by decide)
    (.inr (by decide))
  have hnext := Host.Outcome.next.inj (hland (by decide))
  have hstays : getN (stashFillDone 0 strayState).accs 0 = some strayFill := rfl
  have hgoes := hstays.symm.trans (congrArg (fun t : State => getN t.accs 0) hnext)
  exact absurd hgoes (by decide)

end Sys2Proof.Laws
end

section
/-!
SUPPORT. Masks, bundles and parked lanes: which lanes a mask names, which lanes the bundles at the end of an issue hold (R22, R23, R31).
-/

namespace Sys2Proof.Laws

open Sys2Proof.Machine

/-- The lanes of a mask are its bits. -/
@[simp] theorem mem_lanesOf {m : W64} {l : Nat} : l ∈ lanesOf m ↔ m.getLsbD l = true := by
  simp only [lanesOf, lanesBelow, List.mem_filter, List.mem_range, and_iff_right_iff_imp]
  exact BitVec.lt_of_getLsbD

/-- The mask of one lane has that bit. -/
theorem getLsbD_laneBit (k l : Nat) : (laneBit k).getLsbD l = decide (l < 64 ∧ k = l) := by
  rw [laneBit, w64, BitVec.getLsbD_ofNat, Nat.testBit_two_pow, Bool.decide_and]

/-- The mask of a list has the bits of its lanes. -/
theorem getLsbD_maskOf (ls : List Nat) (l : Nat) : (maskOf ls).getLsbD l = decide (l < 64 ∧ l ∈ ls) := by
  induction ls with
  | nil => simp [maskOf]
  | cons k ls ih =>
    rw [maskOf, BitVec.getLsbD_or, getLsbD_laneBit, ih, ← Bool.decide_or, decide_eq_decide, List.mem_cons, eq_comm (a := k)]
    tauto

/-- Two masks have no lane in common. -/
theorem and_eq_zero_iff {a b : W64} : a &&& b = 0 ↔ ∀ l, a.getLsbD l = true → b.getLsbD l = false := by
  constructor
  · intro h l ha
    have hl : (a &&& b).getLsbD l = false := by rw [h]; exact BitVec.getLsbD_zero
    rwa [BitVec.getLsbD_and, ha, Bool.true_and] at hl
  · intro h
    refine BitVec.eq_of_getLsbD_eq fun l _ => ?_
    rw [BitVec.getLsbD_and]
    cases ha : a.getLsbD l with
    | false => exact Bool.false_and _ |>.trans BitVec.getLsbD_zero.symm
    | true => rw [h l ha]; exact BitVec.getLsbD_zero.symm

/-- The lanes parked with a cause are those of the 64 that have such a cause. -/
theorem getLsbD_parkedOn (g : Group) (p : Park → Bool) (l : Nat) :
    (g.parkedOn p).getLsbD l = true ↔ l < 64 ∧ ∃ c, (g.lane l).park = some c ∧ p c = true := by
  rw [Group.parkedOn, getLsbD_maskOf, decide_eq_true_eq, List.mem_filter, List.mem_range]
  cases (g.lane l).park <;> simp

/-- A class of lanes holds none but the lanes given (R22). -/
theorem getLsbD_classes {g : Group} {ls : List Nat} {c : (W64 × Bool) × W64} {l : Nat} (hc : c ∈ classes g ls)
    (hl : c.2.getLsbD l = true) : l ∈ ls := by
  induction ls generalizing c with
  | nil => cases hc
  | cons k ls ih =>
    have hbit : ∀ x, (laneBit k ||| x).getLsbD l = true → l = k ∨ x.getLsbD l = true := by
      intro x hx
      rw [BitVec.getLsbD_or, getLsbD_laneBit, Bool.or_eq_true, decide_eq_true_eq] at hx
      exact hx.imp_left fun h => h.2.symm
    rw [List.mem_cons]
    rw [classes] at hc
    split at hc
    · obtain ⟨d, hd, rfl⟩ := List.mem_map.mp hc
      split at hl
      · rw [BitVec.or_comm] at hl
        exact (hbit _ hl).imp_right (ih hd)
      · exact .inr (ih hd hl)
    · rcases List.mem_cons.mp hc with rfl | hd
      · rw [← BitVec.or_zero (x := laneBit k)] at hl
        exact (hbit _ hl).imp_right fun h => absurd h (by simp)
      · exact .inr (ih hd hl)

/-- A bundle at the end of an issue is one that stood, or one of lanes of the issue that have not gone: neither exited, nor away, nor
parked. -/
theorem mem_settle {G : Group} {c : Cursor} {b₀ b : Bundle} {n : Nat} (h : b ∈ (G.settle c b₀ n).bundles) :
    b ∈ G.bundles ∨ ∀ l, b.mask.getLsbD l = true → (c.away ||| G.parkedOn fun _ => true).getLsbD l = false := by
  rcases List.mem_append.mp h with h | h
  · exact .inl h
  · obtain ⟨x, hx, rfl⟩ := List.mem_map.mp h
    refine .inr fun l hl => ?_
    have hrest := mem_lanesOf.mp (getLsbD_classes hx hl)
    rw [BitVec.getLsbD_and, BitVec.getLsbD_not, Bool.and_eq_true, Bool.and_eq_true, Bool.not_eq_true'] at hrest
    obtain ⟨-, -, hgone⟩ := hrest
    rw [BitVec.or_assoc, BitVec.getLsbD_or, Bool.or_eq_false_iff] at hgone
    exact hgone.2

/-- Lanes that stand in no bundle, and are away or parked, stand in none at the end of the issue. -/
theorem settle_apart {G : Group} {c : Cursor} {b₀ : Bundle} {n : Nat} {m : W64} (hb : ∀ b ∈ G.bundles, b.mask &&& m = 0)
    (hm : ∀ l, m.getLsbD l = true → (c.away ||| G.parkedOn fun _ => true).getLsbD l = true) :
    ∀ b ∈ (G.settle c b₀ n).bundles, b.mask &&& m = 0 := by
  intro b h
  rcases mem_settle h with h | h
  · exact hb b h
  · rw [and_eq_zero_iff]
    intro l hl
    by_contra hne
    exact absurd (hm l (Bool.not_eq_false _ ▸ hne)) (by rw [h l hl]; exact Bool.false_ne_true)

/-- No bundle holds a lane that was taken out. -/
theorem unbundle_apart (g : Group) (m : W64) : ∀ b ∈ (g.unbundle m).bundles, b.mask &&& m = 0 := by
  intro b h
  obtain ⟨c, -, rfl⟩ := List.mem_map.mp (List.mem_filter.mp h).1
  rw [BitVec.and_assoc, BitVec.and_comm (~~~m), BitVec.and_not_self]
  exact BitVec.and_zero

/-- A lane after lanes have parked. -/
theorem lane_park (g : Group) (m : W64) (why : Nat → Park) (pc : Nat → W64) {l : Nat} (h : l < g.lanes.length) :
    (g.park m why pc).lane l = if m.getLsbD l then { g.lane l with park := some (why l), pc := pc l } else g.lane l :=
  lane_updLanes g m (fun l x => { x with park := some (why l), pc := pc l }) l h

/-- A group's lane is that of its list. -/
theorem lane_congr {g g' : Group} (h : g'.lanes = g.lanes) (l : Nat) : g'.lane l = g.lane l := by rw [Group.lane, Group.lane, h]

/-- Parked lanes stand in no bundle at the end of the issue. -/
theorem settle_park_apart {g G : Group} {c : Cursor} {b₀ : Bundle} {n : Nat} {m : W64} {why : Nat → Park} {pc : Nat → W64}
    (hlen : g.lanes.length = 64) (hl : G.lanes = (g.park m why pc).lanes) (hb : G.bundles = (g.park m why pc).bundles) :
    ∀ b ∈ (G.settle c b₀ n).bundles, b.mask &&& m = 0 := by
  refine settle_apart (hb ▸ unbundle_apart _ m) fun l hm => ?_
  have hlt : l < 64 := BitVec.lt_of_getLsbD hm
  have hpark : (G.lane l).park = some (why l) := by rw [lane_congr hl, lane_park _ _ _ _ (hlen ▸ hlt), if_pos hm]
  rw [BitVec.getLsbD_or, (getLsbD_parkedOn G _ l).mpr ⟨hlt, _, hpark, rfl⟩, Bool.or_true]

end Sys2Proof.Laws
end

section
/-!
SUPPORT. Barriers, monitors and `mwait` (R32, R103, R186 to R189): one issue of each, from the rules of parking.
-/

namespace Sys2Proof.Laws

open Sys2Proof.Machine

/-- An instruction that is one issue of a group, and passes its checks, is its effect and the end of the issue. -/
theorem exec_of_effect {i : Instr} {opc : Nat} {h : Hdr} {f : Form} {g : Group} {s t : State}
    {eff : Iss → Group → State → Option State} (hv : view i = some (opc, h, f)) (hne : opc ≠ 0xd1)
    (hop : opOf opc h f s = groupIssue opc h f eff s) (hi : Issues opc h f g s)
    (he : eff (issueOf opc h f g s) g (s.begun g) = some t) : exec i s = .next (issued g h s t) := by
  rw [exec_of_view s hv hne, hop, groupIssue_of_issues eff hi, he]

/-! The operations of these opcodes. -/

theorem opOf_bar (h : Hdr) (f : Form) (s : State) : opOf 0x28 h f s = opBar h f s := rfl
theorem opOf_mon (h : Hdr) (f : Form) (s : State) : opOf 0x2a h f s = opMon h f s := rfl
theorem opOf_mwait (h : Hdr) (f : Form) (s : State) : opOf 0x2b h f s = opMwait h f s := rfl

/-- An effect that leaves another state beside the issuing group. -/
theorem issued_setGroup_of (g G : Group) (h : Hdr) (s t : State) :
    issued g h s (t.setGroup s.cur.key G) =
      t.setGroup s.cur.key (G.settle t.cur (g.bundle s.cur.lanes) h.stall.toNat) := by
  rw [issued, complete, updGroup_of _ _ _ (group_setGroup t _ G), setGroup_setGroup]
  rfl

/-- An effect that changes the issuing group. -/
theorem updGroup_begun (g : Group) (s : State) (F : Group → Group) :
    (s.begun g).updGroup s.cur.key F = s.setGroup s.cur.key (F (g.begun s)) := by
  rw [updGroup_of _ _ _ (begun_group g s), State.begun, setGroup_setGroup]

/-- A group's number names its core and its slot. -/
theorem gkey_split (k : Nat) : gkey (k / 128) (k % 128) = k := Nat.div_add_mod k 128

/-- The core and the slot of the group that issues. -/
theorem key_div {s : State} (h : Rules.slotOk s) : s.cur.key / 128 = s.cur.unit := by
  rw [Rules.slotOk] at h
  rw [Cursor.key, gkey]
  omega

theorem key_mod {s : State} (h : Rules.slotOk s) : s.cur.key % 128 = s.cur.sub := by
  rw [Rules.slotOk] at h
  rw [Cursor.key, gkey]
  omega

/-- A marker enters the store queue of a resident group, under the next number. -/
theorem enqueueMark_setGroup (s : State) (k : Nat) (G : Group) (scope : Scope) (m : Mark) :
    enqueueMark (k / 128) (k % 128) scope m (s.setGroup k G) =
      ({ s with nextId := s.nextId + 1 } : State).setGroup k { G with
        storeQ := G.storeQ ++
          [{ id := s.nextId, slot := k % 128, tenant := G.tenant, rel := some scope, mark := some m, fate := true }] } := by
  have hg : ((s.setGroup k G).fresh.2).group k = some G := group_setGroup s k G
  rw [enqueueMark, gkey_split]
  exact (updGroup_of _ _ _ hg).trans (setGroup_setGroup { s with nextId := s.nextId + 1 } k G _)

/-- Notes that an issue leaves are kept. -/
theorem notesKept_refl (dests : List (RFile × Nat)) (now : Nat) (g : Group) :
    Rules.notesKept dests now g g.pend g.score g.badRegs :=
  ⟨fun _ h => .inr h, fun _ h => .inr (.inr (.inr h)), fun _ _ _ => Iff.rfl, fun _ h => h, fun _ h => .inr h⟩

/-- The end of an issue leaves the lanes as they are. -/
theorem settle_lanes (G : Group) (c : Cursor) (b : Bundle) (n : Nat) : (G.settle c b n).lanes = G.lanes := rfl

/-- Parking changes lanes and bundles alone. -/
theorem park_shape (g : Group) (m : W64) (why : Nat → Park) (pc : Nat → W64) :
    ∃ ls bs, g.park m why pc = { g with lanes := ls, bundles := bs } := ⟨_, _, rfl⟩

/-- A group whose lanes of a mask have parked in an issue, with its store queue and the limit of its `mwait`. -/
def parkedIn (g : Group) (s : State) (m : W64) (why : Park) (q : List Store) (till : Option Nat) : Group :=
  { (g.begun s).park m (fun _ => why) (fun _ => nextPc s.cur) with storeQ := q, mwaitTill := till }

section
variable {g : Group} {s : State} {m : W64} {why : Park} {q : List Store} {till : Option Nat} {c : Cursor} {b₀ : Bundle} {n : Nat}

/-- What parking changes of the group that issues, besides its queue and its limit: lanes, bundles and the clock of the last issue. -/
theorem parkedIn_settle_shape : ∃ ls bs t, (parkedIn g s m why q till).settle c b₀ n =
    { g with lanes := ls, bundles := bs, lastIssue := t, storeQ := q, mwaitTill := till } := by
  obtain ⟨_, _, t, hbegun⟩ := begun_shape g s
  obtain ⟨ls, _, hpark⟩ := park_shape (g.begun s) m (fun _ => why) fun _ => nextPc s.cur
  obtain ⟨bs, hsettle⟩ := settle_shape (parkedIn g s m why q till) c b₀ n
  exact ⟨ls, bs, t, by rw [hsettle, parkedIn, hpark, hbegun]⟩

/-- Lanes that park stand at the following instruction; the bundle's others stand there too. -/
theorem lanesBecome_parkedIn : Rules.lanesBecome ((parkedIn g s m why q till).settle c b₀ n) g s m fun _ x =>
    { x with pc := nextPc s.cur, park := some why } := by
  intro l hlt
  have hlane : (parkedIn g s m why q till).lane l = ((g.begun s).park m (fun _ => why) fun _ => nextPc s.cur).lane l := rfl
  rw [settle_lane, hlane, lane_park _ _ _ _ ((length_begun g s).symm ▸ hlt), begun_lane g s l hlt]
  by_cases hb : s.cur.lanes.getLsbD l = true
  · rw [if_pos hb]
  · rw [if_neg hb]

/-- Lanes that park stand in no bundle. -/
theorem parkedIn_apart (hlen : g.lanes.length = 64) :
    ∀ b ∈ ((parkedIn g s m why q till).settle c b₀ n).bundles, b.mask &&& m = 0 :=
  settle_park_apart ((length_begun g s).trans hlen) rfl rfl

theorem notesKept_parkedIn : Rules.notesKept [] s.cur.clock g ((parkedIn g s m why q till).settle c b₀ n).pend
    ((parkedIn g s m why q till).settle c b₀ n).score ((parkedIn g s m why q till).settle c b₀ n).badRegs := by
  obtain ⟨ls, bs, t, e⟩ := @parkedIn_settle_shape g s m why q till c b₀ n
  rw [e]
  exact notesKept_refl [] s.cur.clock g

theorem storeQ_parkedIn : ((parkedIn g s m why q till).settle c b₀ n).storeQ = q := by
  obtain ⟨ls, bs, t, e⟩ := @parkedIn_settle_shape g s m why q till c b₀ n
  rw [e]

theorem mwaitTill_parkedIn : ((parkedIn g s m why q till).settle c b₀ n).mwaitTill = till := by
  obtain ⟨ls, bs, t, e⟩ := @parkedIn_settle_shape g s m why q till c b₀ n
  rw [e]

theorem sameButIssue_parkedIn_marked :
    Rules.sameButIssue { (parkedIn g s m why q g.mwaitTill).settle c b₀ n with storeQ := g.storeQ } g := by
  obtain ⟨ls, bs, t, e⟩ := @parkedIn_settle_shape g s m why q g.mwaitTill c b₀ n
  rw [e]
  rfl

theorem sameButIssue_parkedIn_limited :
    Rules.sameButIssue { (parkedIn g s m why g.storeQ till).settle c b₀ n with mwaitTill := g.mwaitTill } g := by
  obtain ⟨ls, bs, t, e⟩ := @parkedIn_settle_shape g s m why g.storeQ till c b₀ n
  rw [e]
  rfl

end

/-- The limit of a group's `mwait` of n clocks (R189): the earlier of those of its lanes; none for n = 0. -/
def mwaitLimit (g : Group) (s : State) (n : Nat) : Option Nat :=
  if n = 0 then g.mwaitTill else some (match g.mwaitTill with | some t => min t (s.cur.clock + n) | none => s.cur.clock + n)

theorem mwaitLimit_zero (g : Group) (s : State) : mwaitLimit g s 0 = g.mwaitTill := if_pos rfl

theorem mwaitLimit_bound (g : Group) (s : State) {n : Nat} (hn : n ≠ 0) :
    ∃ t, mwaitLimit g s n = some t ∧ t ≤ s.cur.clock + n ∧ (g.mwaitTill = none → t = s.cur.clock + n) := by
  refine ⟨_, if_neg hn, ?_⟩
  cases g.mwaitTill with
  | none => exact ⟨Nat.le_refl _, fun _ => rfl⟩
  | some t => exact ⟨Nat.min_le_right _ _, fun h => by cases h⟩

section
variable {i : Instr} {h : Hdr} {f : Form} {g : Group} {s : State}

/-- `bar` parks its lanes, and the marker of their arrival enters the store queue. -/
theorem exec_bar (hv : view i = some (0x28, h, f)) (hi : Issues 0x28 h f g s) (hslot : Rules.slotOk s) :
    exec i s = .next (({ s with nextId := s.nextId + 1 } : State).setGroup s.cur.key
      ((parkedIn g s (activeOf g h s) (.barrier (operands g 0x28 f).a)
        (g.storeQ ++ [Rules.marker s.nextId g s 2 (.barrier (operands g 0x28 f).a (activeOf g h s))]) g.mwaitTill).settle
        s.cur (g.bundle s.cur.lanes) h.stall.toNat)) := by
  rw [exec_of_effect hv (by decide) (opOf_bar h f s) hi rfl]
  dsimp only [issueOf]
  rw [updGroup_begun, enqueueMark_setGroup, issued_setGroup_of, key_mod hslot]
  rfl

/-- No `mon` of the group is still being translated. -/
theorem no_mon_open (hslot : Rules.slotOk s) (hm : ∀ a ∈ accsOf s s.cur.unit s.cur.sub, a.kind = .mon → a.parked = true) :
    ((accsOf (s.begun g) (s.cur.key / 128) (s.cur.key % 128)).any fun a => a.kind = .mon && !a.parked) = false := by
  rw [key_div hslot, key_mod hslot, List.any_eq_false]
  intro a ha hopen
  rw [Bool.and_eq_true, decide_eq_true_eq, Bool.not_eq_true'] at hopen
  exact absurd (hm a ha hopen.1) (by rw [hopen.2]; exact Bool.false_ne_true)

/-- `mwait` on an armed monitor parks its lanes, with the limit that it gives. -/
theorem exec_mwait_armed (hv : view i = some (0x2b, h, f)) (hi : Issues 0x2b h f g s) (hslot : Rules.slotOk s)
    (hm : ∀ a ∈ accsOf s s.cur.unit s.cur.sub, a.kind = .mon → a.parked = true) {x : Nat} (ha : g.monitor = .armed x) {n : Nat}
    (hn : (if (operands g 0x2b f).sl then (operands g 0x2b f).lit.toNat
      else (g.readS s.cur.clock (operands g 0x2b f).a).toNat) = n) :
    exec i s = .next (s.setGroup s.cur.key
      ((parkedIn g s (activeOf g h s) .monitor g.storeQ (mwaitLimit g s n)).settle
        s.cur (g.bundle s.cur.lanes) h.stall.toNat)) := by
  subst hn
  have hparks : ¬(!(match g.monitor with | .armed _ => true | _ => false)) = true := by rw [ha]; exact Bool.false_ne_true
  rw [exec_of_effect hv (by decide) (opOf_mwait h f s) hi ((if_neg (Bool.eq_false_iff.mp (no_mon_open hslot hm))).trans
    ((if_neg hparks).trans (congrArg some (updGroup_begun g s _)))), issued_setGroup_of]
  rfl

/-- `mwait` with no monitor armed moves on. -/
theorem exec_mwait_disarmed (hv : view i = some (0x2b, h, f)) (hi : Issues 0x2b h f g s) (hslot : Rules.slotOk s)
    (hm : ∀ a ∈ accsOf s s.cur.unit s.cur.sub, a.kind = .mon → a.parked = true) (hd : ∀ x, g.monitor ≠ .armed x) :
    exec i s = .next (s.setGroup s.cur.key (Rules.ended g h s { g.begun s with monitor := .disarmed })) := by
  have hparks : (!(match g.monitor with | .armed _ => true | _ => false)) = true := by
    split
    next x ha => exact absurd ha (hd x)
    next => rfl
  rw [exec_of_effect hv (by decide) (opOf_mwait h f s) hi ((if_neg (Bool.eq_false_iff.mp (no_mon_open hslot hm))).trans
    ((if_pos hparks).trans (congrArg some (updGroup_begun g s _)))), issued_setGroup_of]
  rfl

/-- An access of a group that nothing holds and whose operands are no ports is the instruction's own effect. -/
theorem memEff_of_free {body : Iss → Group → State → Option State} {opc : Nat} (t : State)
    (hfree : Rules.memoryFree opc h f g s) :
    memEff body (issueOf opc h f g s) g t = body (issueOf opc h f g s) g t := by
  obtain ⟨hhold, hbound⟩ := hfree
  rw [memEff, hhold, hbound]
  rfl

/-- The access that an effect makes first has the next number and the core and slot that issue. -/
theorem newAccess_begun (hslot : Rules.slotOk s) {opc : Nat} (kind : AccKind) (m : W64) :
    newAccess (issueOf opc h f g s) g (s.begun g).fresh.1 kind m (s.begun g).fresh.2 = Rules.accessOf opc f g kind m s := by
  rw [newAccess, Rules.accessOf, ← key_div hslot, ← key_mod hslot]
  rfl

/-- `mon` of a place of this node makes an access of the lowest active lane. -/
theorem exec_mon (hv : view i = some (0x2a, h, f)) (hi : Issues 0x2a h f g s) (hslot : Rules.slotOk s)
    (hfree : Rules.memoryFree 0x2a h f g s) (hwalk : Rules.walksTaken g s) {c va : Nat}
    (hplace : placeElem ((issueOf 0x2a h f g s).brec g) (((g.readS s.cur.clock (operands g 0x2a f).a).toNat +
      (bWhole (operands g 0x2a f) (bScalar g s.cur.clock (operands g 0x2a f))).toNat) % 2 ^ 64) 1 true false = .here c va)
    (hnode : nodeOf va = s.regs.nodeId) :
    exec i s = .next (issued g h s (Rules.startAccess
      { Rules.accessOf 0x2a f g .mon (activeOf g h s) s with scalar := true }
      [{ lane := Rules.leadLane g h s, pos := 0, va, size := 1, dst := 0 }] (Rules.begunId g s))) := by
  let x := issueOf 0x2a h f g s
  have hwalks : ¬walkHeld (s.begun g) (s.cur.key / 128) [va] = true := by
    rw [key_div hslot, walkHeld, hwalk]
    exact Bool.false_ne_true
  refine exec_of_effect hv (by decide) (opOf_mon h f s) hi ((memEff_of_free _ hfree).trans ?_)
  dsimp only
  have hplace' : placeElem (x.brec g) (((g.readS x.now x.o.a).toNat + (issB x g).toNat) % 2 ^ 64) 1 true false = .here c va := hplace
  rw [hplace']
  dsimp only
  refine (if_neg (not_not_intro hnode)).trans ((if_neg hwalks).trans ?_)
  rw [newAccess_begun hslot]
  rfl

end

/-- Settles O16: `bar` and `mwait` park their lanes, `mon` starts its access. -/
theorem waiting : Obligations.Waiting := by
  unfold Obligations.Waiting
  intro i opc h f g s hv hi hslot
  dsimp only
  refine ⟨?bar, ?mwait, ?mon⟩
  case bar =>
    rintro rfl hlen -
    exact ⟨_, exec_bar hv hi hslot, lanesBecome_parkedIn, storeQ_parkedIn, notesKept_parkedIn, parkedIn_apart hlen,
      sameButIssue_parkedIn_marked⟩
  case mwait =>
    rintro rfl hm
    refine ⟨fun x ha hlen => ⟨_, exec_mwait_armed hv hi hslot hm ha rfl, lanesBecome_parkedIn, ?zero, ?limit,
      notesKept_parkedIn, parkedIn_apart hlen, sameButIssue_parkedIn_limited⟩, exec_mwait_disarmed hv hi hslot hm⟩
    case zero =>
      intro hn
      rw [mwaitTill_parkedIn, hn, mwaitLimit_zero]
    case limit =>
      intro hn
      rw [mwaitTill_parkedIn]
      exact mwaitLimit_bound g s hn
  case mon =>
    rintro rfl hfree hwalk c va hplace hnode
    exact exec_mon hv hi hslot hfree hwalk hplace hnode

end Sys2Proof.Laws
end

section
/-!
SUPPORT. Rejoin masks and the end of lanes (R26 to R28, R36, R37, R185, R187): what `rset`, `rjoin` and `exit` answer.
-/

namespace Sys2Proof.Laws

open Sys2Proof.Machine

/-! ## Notes of readiness -/

theorem mem_of_mem_trimPend {now : Nat} {ps : List Pend} {e : Pend} (h : e ∈ trimPend now ps) : e ∈ ps :=
  List.mem_reverse.mp ((List.dropWhile_sublist _).mem (List.mem_reverse.mp h))

/-- What is trimmed was ready. -/
theorem ready_or_mem_trimPend {now : Nat} {ps : List Pend} {e : Pend} (h : e ∈ ps) : e.ready ≤ now ∨ e ∈ trimPend now ps := by
  have hsplit := List.takeWhile_append_dropWhile (p := fun e : Pend => decide (e.ready ≤ now)) (l := ps.reverse)
  rw [← List.mem_reverse, ← hsplit, List.mem_append] at h
  refine h.imp (fun ht => ?_) List.mem_reverse.mpr
  simpa using List.mem_takeWhile_imp ht

/-- Changing the entries that a test picks, and dropping some, leaves the other entries, where a changed entry is picked too. -/
theorem mem_filter_map_unpicked {α : Type} {p q : α → Bool} {f : α → α} (hf : ∀ x, p x = true → p (f x) = true) {l : List α} {e : α}
    (he : p e = false) : e ∈ (l.map fun x => if p x then f x else x).filter q ↔ e ∈ l ∧ q e = true := by
  rw [List.mem_filter, List.mem_map]
  refine and_congr_left fun _ => ⟨?_, fun h => ⟨e, h, by rw [he]; rfl⟩⟩
  rintro ⟨x, hx, rfl⟩
  split at he
  next hp => rw [hf x hp] at he; cases he
  next hp => rwa [if_neg hp]

/-- An entry of another register stays. -/
theorem mem_unpend {f : RFile} {r : Nat} {m : W64} {ps : List Pend} {e : Pend} (hne : (e.file, e.reg) ≠ (f, r)) :
    e ∈ unpend f r m ps ↔ e ∈ ps ∧ e.lanes ≠ 0 := by
  have he : (decide (e.file = f) && decide (e.reg = r)) = false := by simpa [Prod.ext_iff] using hne
  refine (mem_filter_map_unpicked (p := fun e : Pend => e.file = f && e.reg = r) ?keeps he).trans (by rw [decide_eq_true_eq])
  case keeps => exact fun _ h => h

/-- A mark of another register stays. -/
theorem mem_unscore {f : RFile} {r : Nat} {m : W64} {es : List Score} {e : Score} (hne : (e.file, e.reg) ≠ (f, r)) :
    e ∈ unscore f r m es ↔ e ∈ es ∧ e.lanes ≠ 0 := by
  have he : (decide (e.file = f) && decide (e.reg = r)) = false := by simpa [Prod.ext_iff] using hne
  refine (mem_filter_map_unpicked (p := fun e : Score => e.file = f && e.reg = r) ?keeps he).trans (by rw [decide_eq_true_eq])
  case keeps => exact fun _ h => h

/-- An error of another register stays. -/
theorem mem_healed {f : RFile} {r : Nat} {m : W64} {bad : List (RFile × Nat × Nat)} {b : RFile × Nat × Nat}
    (hne : (b.1, b.2.1) ≠ (f, r)) (hb : b ∈ bad) : b ∈ healed f r m bad := by
  have hno : (decide (b.1 = f) && decide (b.2.1 = r)) = false := by simpa [Prod.ext_iff] using hne
  exact List.mem_filter.mpr ⟨hb, by rw [hno]; rfl⟩

/-- A write that is ready at once keeps the notes of every other register (R155, R157). -/
theorem notesKept_write {f : RFile} {r now : Nat} {m : W64} {g : Group} :
    Rules.notesKept [(f, r)] now g (unpend f r m (trimPend now g.pend)) (unscore f r m g.score) (healed f r m g.badRegs) := by
  refine ⟨fun e he => ?_, fun e he => ?_, fun e hl hd => ?_, fun b hb => (List.mem_filter.mp hb).1, fun b hb => ?_⟩
  · by_cases hr : (e.file, e.reg) = (f, r)
    · exact .inl (List.mem_singleton.mpr hr)
    · exact .inr (mem_of_mem_trimPend ((mem_unpend hr).mp he).1)
  · by_cases hr : (e.file, e.reg) = (f, r)
    · exact .inl (List.mem_singleton.mpr hr)
    · rcases ready_or_mem_trimPend he with h | h
      · exact .inr (.inl h)
      · by_cases hl : e.lanes = 0
        · exact .inr (.inr (.inl hl))
        · exact .inr (.inr (.inr ((mem_unpend hr).mpr ⟨h, hl⟩)))
  · rw [mem_unscore fun h => hd (List.mem_singleton.mpr h), and_iff_left hl]
  · by_cases hr : (b.1, b.2.1) = (f, r)
    · exact .inl (List.mem_singleton.mpr hr)
    · exact .inr (mem_healed hr hb)

/-- A write of a rejoin register that is ready at once. -/
theorem writeJ_now (g : Group) (now r : Nat) (x : W64) :
    g.writeJ now r x now = { g with
      jexp := setZ g.jexp r x
      pend := unpend .j r (BitVec.allOnes 64) (trimPend now g.pend)
      score := unscore .j r (BitVec.allOnes 64) g.score
      badRegs := healed .j r (BitVec.allOnes 64) g.badRegs } := by
  rw [Group.writeJ, Group.notePend, if_neg (Nat.lt_irrefl now)]

/-! ## The release of R27 -/

/-- Releasing lanes changes lanes and the arrived masks alone. -/
theorem rejoinWith_shape (g : Group) (e : W64) (j : Nat) : ∃ ls m, g.rejoinWith e j = { g with lanes := ls, jarr := m } := by
  unfold Group.rejoinWith
  dsimp only
  split
  · exact ⟨_, _, rfl⟩
  · exact ⟨_, _, rfl⟩

section
variable {g : Group} {e : W64} {j : Nat}

/-- Every expected lane that has not exited has arrived (R27). -/
abbrev allArrived (g : Group) (e : W64) (j : Nat) : Prop := e &&& ~~~g.exited &&& ~~~getZ g.jarr j = 0

/-- Where not every lane has arrived nothing is released. -/
theorem rejoinWith_of_missing (h : ¬allArrived g e j) : g.rejoinWith e j = g := by
  refine if_neg fun hc => h ?_
  exact of_decide_eq_true (Bool.and_eq_true_iff.mp hc).1

/-- Where every lane has arrived, the parked ones are released and the arrived mask is cleared, or there was none of either. -/
theorem rejoinWith_of_arrived (h : allArrived g e j) :
    g.rejoinWith e j = { g.unpark (g.parkedOn fun c => c = .rejoin j) with jarr := setZ g.jarr j 0 } ∨
    (g.rejoinWith e j = g ∧ (g.parkedOn fun c => c = .rejoin j) = 0 ∧ getZ g.jarr j = 0) := by
  by_cases hz : (g.parkedOn fun c => c = .rejoin j) = 0 ∧ getZ g.jarr j = 0
  · refine .inr ⟨if_neg fun hc => ?_, hz⟩
    simp [hz.1, hz.2] at hc
  · refine .inl (if_pos ?_)
    rw [Bool.and_eq_true, Bool.or_eq_true]
    simp only [decide_eq_true_eq]
    exact ⟨h, by tauto⟩

/-- The arrived mask after the test. -/
theorem jarr_rejoinWith :
    getZ (g.rejoinWith e j).jarr j = if allArrived g e j then 0 else getZ g.jarr j := by
  split
  next h =>
    rcases rejoinWith_of_arrived h with hr | ⟨hr, -, hz⟩
    · rw [hr, getZ_setZ_same]
    · rw [hr, hz]
  next h => rw [rejoinWith_of_missing h]

theorem jarr_rejoinWith_ne {r : Nat} (hne : r ≠ j) : getZ (g.rejoinWith e j).jarr r = getZ g.jarr r := by
  by_cases h : allArrived g e j
  · rcases rejoinWith_of_arrived h with hr | ⟨hr, -, -⟩
    · rw [hr]
      exact getZ_setZ_ne g.jarr j r 0 hne.symm
    · rw [hr]
  · rw [rejoinWith_of_missing h]

/-- A lane after the test: a lane parked there is released where every expected lane has arrived. -/
theorem lane_rejoinWith {l : Nat} (hlen : g.lanes.length = 64) (hl : l < 64) :
    (g.rejoinWith e j).lane l =
      if allArrived g e j ∧ (g.lane l).park = some (.rejoin j) then { g.lane l with park := none } else g.lane l := by
  have hbit : (g.parkedOn fun c => c = .rejoin j).getLsbD l = true ↔ (g.lane l).park = some (.rejoin j) := by
    rw [getLsbD_parkedOn]
    simp [hl]
  by_cases h : allArrived g e j
  · rcases rejoinWith_of_arrived h with hr | ⟨hr, hp, -⟩
    · have hlane : (g.rejoinWith e j).lane l = (g.unpark (g.parkedOn fun c => c = .rejoin j)).lane l := lane_congr (by rw [hr]) l
      rw [hlane, Group.unpark, lane_updLanes _ _ _ _ (hlen ▸ hl)]
      simp only [hbit, and_iff_right h]
    · rw [hp] at hbit
      have hno : (g.lane l).park ≠ some (.rejoin j) := fun hq => by simpa using hbit.mpr hq
      rw [hr, if_neg fun hc => hno hc.2]
  · rw [rejoinWith_of_missing h, if_neg fun hc => h hc.1]

end

/-! ## `rset` and `rjoin` -/

theorem opOf_rset (h : Hdr) (f : Form) (s : State) : opOf 0x26 h f s = opRset h f s := rfl
theorem opOf_rjoin (h : Hdr) (f : Form) (s : State) : opOf 0x27 h f s = opRjoin h f s := rfl
theorem opOf_exit (h : Hdr) (f : Form) (s : State) : opOf 0x29 h f s = opExit h f s := rfl

/-- A group of which lanes have arrived at a rejoin mask in an issue, before the release test. -/
def arrivedIn (g : Group) (s : State) (m : W64) (j : Nat) : Group :=
  let G := (g.begun s).park m (fun _ => .rejoin j) fun _ => nextPc s.cur
  { G with jarr := setZ G.jarr j (getZ G.jarr j ||| m) }

section
variable {i : Instr} {h : Hdr} {f : Form} {g : Group} {s : State}

/-- `rset` writes the expected mask and clears the arrived one (R26). -/
theorem exec_rset (hv : view i = some (0x26, h, f)) (hi : Issues 0x26 h f g s) :
    ∃ g', exec i s = .next (s.setGroup s.cur.key g') ∧ Rules.leaves g h s [(.j, (operands g 0x26 f).d)]
      (fun b => { b with
        jexp := setZ g.jexp (operands g 0x26 f).d (activeOf g h s), jarr := setZ g.jarr (operands g 0x26 f).d 0 }) g' := by
  obtain ⟨ls, bs, t, e⟩ := begun_shape g s
  rw [exec_of_effect hv (by decide) (opOf_rset h f s) hi (congrArg some (updGroup_begun g s _)), issued_setGroup_of, e]
  refine ⟨_, rfl, unpend .j (operands g 0x26 f).d (BitVec.allOnes 64) (trimPend s.cur.clock g.pend),
    unscore .j (operands g 0x26 f).d (BitVec.allOnes 64) g.score, healed .j (operands g 0x26 f).d (BitVec.allOnes 64) g.badRegs,
    ?_, notesKept_write⟩
  dsimp only [issueOf]
  rw [writeJ_now, Rules.ended, e]

/-- `rjoin` parks the lanes that arrive, and releases those parked there when the last has arrived (R27). -/
theorem exec_rjoin (hv : view i = some (0x27, h, f)) (hi : Issues 0x27 h f g s) {j : Nat} (hj : (operands g 0x27 f).d = j) {e m : W64}
    (he : g.readJ s.cur.clock j = e) (hm : activeOf g h s &&& e &&& ~~~g.exited = m) :
    exec i s = .next ((Rules.awayWith s (s.cur.away ||| m)).setGroup s.cur.key
      (((arrivedIn g s m j).rejoinWith e j).settle (Rules.awayWith s (s.cur.away ||| m)).cur (g.bundle s.cur.lanes) h.stall.toNat)) := by
  subst hm he hj
  let away (t : State) : Option State := some (Rules.awayWith t
    (t.cur.away ||| activeOf g h s &&& g.readJ s.cur.clock (operands g 0x27 f).d &&& ~~~g.exited))
  have haway : ∀ G m, Rules.awayWith (s.setGroup s.cur.key G) m = (Rules.awayWith s m).setGroup s.cur.key G := fun _ _ => rfl
  rw [exec_of_effect hv (by decide) (opOf_rjoin h f s) hi (congrArg away (updGroup_begun g s _)), haway, issued_setGroup_of]
  rfl

end

section
variable {g : Group} {s : State} {m e : W64} {j : Nat} {c : Cursor} {b₀ : Bundle} {n : Nat}

/-- What an arrival changes of the group that issues. -/
theorem arrivedIn_shape : ∃ ls bs t, (arrivedIn g s m j).rejoinWith e j =
    { g with lanes := ls, bundles := bs, lastIssue := t, jarr := ((arrivedIn g s m j).rejoinWith e j).jarr } := by
  obtain ⟨_, _, t, hbegun⟩ := begun_shape g s
  obtain ⟨_, bs, hpark⟩ := park_shape (g.begun s) m (fun _ => .rejoin j) fun _ => nextPc s.cur
  obtain ⟨ls, x, hrejoin⟩ := rejoinWith_shape (arrivedIn g s m j) e j
  exact ⟨ls, bs, t, by rw [hrejoin, arrivedIn, hpark, hbegun]⟩

/-- The arrived mask in an arrival. -/
theorem jarr_arrivedIn : (arrivedIn g s m j).jarr = setZ g.jarr j (getZ g.jarr j ||| m) := by
  obtain ⟨_, _, _, hbegun⟩ := begun_shape g s
  obtain ⟨_, _, hpark⟩ := park_shape (g.begun s) m (fun _ => .rejoin j) fun _ => nextPc s.cur
  rw [arrivedIn, hpark, hbegun]

theorem exited_arrivedIn : (arrivedIn g s m j).exited = g.exited := by
  obtain ⟨_, _, _, hbegun⟩ := begun_shape g s
  obtain ⟨_, _, hpark⟩ := park_shape (g.begun s) m (fun _ => .rejoin j) fun _ => nextPc s.cur
  rw [arrivedIn, hpark, hbegun]

/-- Whether every lane has arrived, in terms of the group that issues. -/
theorem allArrived_arrivedIn : allArrived (arrivedIn g s m j) e j ↔ e &&& ~~~g.exited &&& ~~~(getZ g.jarr j ||| m) = 0 := by
  rw [allArrived, exited_arrivedIn, jarr_arrivedIn, getZ_setZ_same]

/-- The arrived masks after an arrival. -/
theorem jarr_arrived : getZ ((arrivedIn g s m j).rejoinWith e j).jarr j =
    if e &&& ~~~g.exited &&& ~~~(getZ g.jarr j ||| m) = 0 then 0 else getZ g.jarr j ||| m := by
  simp only [jarr_rejoinWith, allArrived_arrivedIn, jarr_arrivedIn, getZ_setZ_same]

theorem jarr_arrived_ne {r : Nat} (hne : r ≠ j) : getZ ((arrivedIn g s m j).rejoinWith e j).jarr r = getZ g.jarr r := by
  rw [jarr_rejoinWith_ne hne, jarr_arrivedIn]
  exact getZ_setZ_ne g.jarr j r _ hne.symm

/-- A lane of the group in an arrival. -/
theorem lane_arrivedIn {l : Nat} (hlen : g.lanes.length = 64) (hl : l < 64) : (arrivedIn g s m j).lane l =
    if m.getLsbD l then { (g.begun s).lane l with park := some (.rejoin j), pc := nextPc s.cur } else (g.begun s).lane l :=
  lane_park (g.begun s) m (fun _ => .rejoin j) (fun _ => nextPc s.cur) (by rw [length_begun, hlen]; exact hl)

theorem length_arrivedIn : (arrivedIn g s m j).lanes.length = g.lanes.length := by
  rw [← length_begun g s]
  exact length_updLanes (g.begun s) m fun _ x => { x with park := some (.rejoin j), pc := nextPc s.cur }

/-- A lane after an arrival: one that arrives waits there unless it is the last; those that waited there go with the last. -/
theorem lane_arrived {l : Nat} (hlen : g.lanes.length = 64) (hl : l < 64) {x : Lane} (hx : (g.begun s).lane l = x) {all : Prop} [Decidable all]
    (hall : allArrived (arrivedIn g s m j) e j ↔ all) :
    ((arrivedIn g s m j).rejoinWith e j).lane l =
      if m.getLsbD l then { x with pc := nextPc s.cur, park := if all then none else some (.rejoin j) }
      else if all ∧ x.park = some (.rejoin j) then { x with park := none } else x := by
  rw [lane_rejoinWith (length_arrivedIn.trans hlen) hl, lane_arrivedIn hlen hl, hx]
  simp only [hall]
  by_cases hm : m.getLsbD l = true
  · rw [if_pos hm, if_pos hm]
    by_cases ha : all
    · rw [if_pos ⟨ha, rfl⟩, if_pos ha]
    · rw [if_neg fun hc => ha hc.1, if_neg ha]
  · rw [if_neg hm, if_neg hm]

/-! The same at the end of the issue. -/

theorem jarr_settle (G : Group) : (G.settle c b₀ n).jarr = G.jarr := by
  obtain ⟨bs, e⟩ := settle_shape G c b₀ n
  rw [e]

theorem notesKept_arrived : Rules.notesKept [] s.cur.clock g (((arrivedIn g s m j).rejoinWith e j).settle c b₀ n).pend
    (((arrivedIn g s m j).rejoinWith e j).settle c b₀ n).score (((arrivedIn g s m j).rejoinWith e j).settle c b₀ n).badRegs := by
  obtain ⟨_, _, _, harrived⟩ := @arrivedIn_shape g s m e j
  obtain ⟨_, hsettle⟩ := settle_shape ((arrivedIn g s m j).rejoinWith e j) c b₀ n
  rw [hsettle, harrived]
  exact notesKept_refl [] s.cur.clock g

theorem sameButIssue_arrived :
    Rules.sameButIssue { ((arrivedIn g s m j).rejoinWith e j).settle c b₀ n with jarr := g.jarr } g := by
  obtain ⟨_, _, _, harrived⟩ := @arrivedIn_shape g s m e j
  obtain ⟨_, hsettle⟩ := settle_shape ((arrivedIn g s m j).rejoinWith e j) c b₀ n
  rw [hsettle, harrived]
  rfl

/-- Lanes that arrive stand in no bundle at the end of the issue. -/
theorem arrived_apart :
    ∀ b ∈ (((arrivedIn g s m j).rejoinWith e j).settle { c with away := c.away ||| m } b₀ n).bundles, b.mask &&& m = 0 := by
  obtain ⟨ls, x, hrejoin⟩ := rejoinWith_shape (arrivedIn g s m j) e j
  rw [hrejoin]
  refine settle_apart (unbundle_apart _ m) fun l hm => ?_
  rw [BitVec.getLsbD_or, BitVec.getLsbD_or, hm, Bool.or_true, Bool.true_or]

end

/-! ## `exit` -/

/-- Applying steps that keep a fact, one for each member of a list. -/
theorem foldl_keeps {α β : Type} {P : β → Prop} {F : β → α → β} (hF : ∀ b a, P b → P (F b a)) :
    ∀ (l : List α) {b : β}, P b → P (l.foldl F b)
  | [], _, hb => hb
  | a :: l, b, hb => foldl_keeps hF l (hF b a hb)

/-- A group is resident and these lanes of it have exited. -/
def hasExited (k : Nat) (x : W64) (s : State) : Prop := ∃ g, s.group k = some g ∧ g.exited = x

section
variable {k : Nat} {x : W64} {s : State}

theorem hasExited_updGroup {j : Nat} {F : Group → Group} (hF : ∀ g, (F g).exited = g.exited) (hs : hasExited k x s) :
    hasExited k x (s.updGroup j F) := by
  obtain ⟨g, hg, rfl⟩ := hs
  by_cases hj : j = k
  · subst hj
    exact ⟨F g, by rw [group_updGroup, hg, Option.map_some], hF g⟩
  · exact ⟨g, by rw [group_updGroup_ne _ _ _ _ hj, hg], rfl⟩

theorem hasExited_updBlock {j : Nat} {F : Block → Block} (hs : hasExited k x s) : hasExited k x (s.updBlock j F) := by
  unfold State.updBlock
  split
  · exact hs
  · exact hs

theorem hasExited_acquireAt {core : Nat} {scope : Scope} (hs : hasExited k x s) : hasExited k x (acquireAt core scope s) := by
  unfold acquireAt
  split
  · exact hs
  · exact hs

/-- The test of a barrier lets no lane exit. -/
theorem hasExited_barrierTest {blk j : Nat} (hs : hasExited k x s) : hasExited k x (barrierTest blk j s) := by
  unfold barrierTest
  split
  · exact hs
  · dsimp only
    split
    · refine hasExited_updBlock (foldl_keeps (fun _ _ ht => hasExited_acquireAt (hasExited_updGroup ?_ ht)) _ hs)
      exact fun _ => rfl
    · exact hs

theorem hasExited_barrierAll {blk : Nat} (hs : hasExited k x s) : hasExited k x (barrierAll blk s) := by
  rw [barrierAll]
  exact foldl_keeps (P := hasExited k x) (fun _ _ ht => hasExited_barrierTest ht) (List.range 16) hs

end

/-- The release tests let no lane exit. -/
theorem exited_rejoinAll (g : Group) : g.rejoinAll.exited = g.exited := by
  have hstep : ∀ (b : Group) (j : Nat), b.exited = g.exited → (b.rejoinTest j).exited = g.exited := by
    intro b j hb
    obtain ⟨ls, m, e⟩ := rejoinWith_shape b (getZ b.jexp j) j
    rw [Group.rejoinTest, e]
    exact hb
  rw [Group.rejoinAll]
  exact foldl_keeps (P := fun x : Group => x.exited = g.exited) hstep (List.range 16) rfl

/-- The lanes that exit are added to those that have. -/
theorem hasExited_exitLanes {k : Nat} {m : W64} {g : Group} {s : State} (hg : s.group k = some g) :
    hasExited k (g.exited ||| m) (exitLanes k m s) := by
  rw [exitLanes, hg]
  exact hasExited_barrierAll (hasExited_updBlock ⟨_, group_setGroup _ _ _, exited_rejoinAll _⟩)

/-- What `exit` does before its group retires: a persistent group waits for its end, no element of a port may be left in part, and the
active lanes exit. -/
def exitEffect (x : Iss) (g : Group) (s : State) : Option State :=
  if g.persist && !g.endSeen && !(g.lane ((lowest x.act).getD 0)).trap then some (illegal x x.act 0x0e s)
  else match exitStream s g x.act with
    | some b => some (precise x.k (sameFault x.act 0x0a 0x06 0 (w64 (b.q + 2 ^ 16 * b.reg))) s)
    | none => some (exitLanes x.k x.act s)

section
variable {i : Instr} {h : Hdr} {f : Form} {g : Group} {s t : State}

theorem opExit_eq (hseq : s.cur.seq = .group) : opExit h f s = retireGroup s.cur.key (groupIssue 0x29 h f exitEffect s) := by
  rw [opExit, if_pos hseq]
  rfl

/-- `exit` is its effect, the end of the issue, and the retirement of a group that has nothing left to do. -/
theorem exec_exit (hv : view i = some (0x29, h, f)) (hi : Issues 0x29 h f g s)
    (he : exitEffect (issueOf 0x29 h f g s) g (s.begun g) = some t) :
    exec i s = .next (retireGroup s.cur.key (issued g h s t)) := by
  rw [exec_of_view s hv (by decide), opOf_exit, opExit_eq hi.seq, groupIssue_of_issues _ hi, he]

variable {x : Iss}

/-- A persistent group that has not seen its end may not exit, but in trap mode (R36). -/
theorem exitEffect_persist (hp : g.persist = true) (he : g.endSeen = false)
    (ht : (g.lane ((lowest x.act).getD 0)).trap = false) : exitEffect x g s = some (illegal x x.act 0x0e s) :=
  if_pos (by rw [hp, he, ht]; rfl)

section
variable (hp : g.persist = true → g.endSeen = true ∨ (g.lane ((lowest x.act).getD 0)).trap = true)
include hp

/-- An exit that passes the test of R36. -/
theorem exit_allowed : ¬(g.persist && !g.endSeen && !(g.lane ((lowest x.act).getD 0)).trap) = true := by
  intro hc
  simp only [Bool.and_eq_true, Bool.not_eq_true'] at hc
  obtain ⟨⟨hper, hend⟩, htrap⟩ := hc
  rcases hp hper with h | h
  · exact absurd h (by rw [hend]; exact Bool.false_ne_true)
  · exact absurd h (by rw [htrap]; exact Bool.false_ne_true)

/-- An exit that would leave an element of a port in part (R398). -/
theorem exitEffect_stream {b : Bind} (hx : exitStream s g x.act = some b) : exitEffect x g s =
    some (precise x.k (sameFault x.act 0x0a 0x06 0 (w64 (b.q + 2 ^ 16 * b.reg))) s) := by
  rw [exitEffect, if_neg (exit_allowed hp), hx]

/-- An exit with nothing against it. -/
theorem exitEffect_ends (hx : exitStream s g x.act = none) : exitEffect x g s = some (exitLanes x.k x.act s) := by
  rw [exitEffect, if_neg (exit_allowed hp), hx]

end

end

/-- Settles O8: `rset` writes its masks, `rjoin` parks or releases, `exit` ends its lanes. -/
theorem laneGrouping : Obligations.LaneGrouping := by
  unfold Obligations.LaneGrouping
  intro i opc h f g s hv hi
  dsimp only
  refine ⟨?rset, ?rjoin, ?exits, ?persists, ?streams⟩
  case rset =>
    rintro rfl
    exact exec_rset hv hi
  case rjoin =>
    rintro rfl hlen
    refine ⟨_, exec_rjoin hv hi rfl rfl rfl, ?_⟩
    generalize g.readJ s.cur.clock (operands g 0x27 f).d = e
    generalize (operands g 0x27 f).d = j
    generalize activeOf g h s &&& e &&& ~~~g.exited = m
    refine ⟨?jarr, ?others, ?lanes, arrived_apart, notesKept_arrived, sameButIssue_arrived⟩
    case jarr =>
      rw [jarr_settle, jarr_arrived]
    case others =>
      intro r hr
      rw [jarr_settle, jarr_arrived_ne hr]
    case lanes =>
      intro l hl
      rw [settle_lane]
      exact lane_arrived hlen hl (begun_lane g s l (hlen ▸ hl)) allArrived_arrivedIn
  case exits =>
    rintro rfl hp hx
    refine ⟨exec_exit hv hi (exitEffect_ends hp hx), ?_⟩
    obtain ⟨_, _, _, hbegun⟩ := begun_shape g s
    have hexited : (g.begun s).exited = g.exited := by rw [hbegun]
    exact hexited ▸ hasExited_exitLanes (begun_group g s)
  case persists =>
    rintro rfl hp he ht
    exact exec_exit hv hi (exitEffect_persist hp he ht)
  case streams =>
    rintro rfl hp b hx
    exact exec_exit hv hi (exitEffect_stream (x := issueOf 0x29 h f g s) hp hx)

end Sys2Proof.Laws
end

section
/-!
SUPPORT. The heads of the command queues: what an event does that finds its packet at the head (R40 to R44).
-/

namespace Sys2Proof.Laws

open Sys2Proof.Machine

/-- A queue whose turn it is serves the packet at its head, where the event picks it (R41). -/
theorem serveHead_of_picked {q : Nat} {pick : Pkt → Bool} {act : Pkt → State → State} {p : Pkt} {s t : State}
    (hturn : onTurn s q = true) (hhead : readHead q s = (some p, t)) (hpick : pick p = true) :
    serveHead q pick act s = passTurn q (act p t) := by
  unfold serveHead
  rw [hturn, hhead]
  dsimp only
  rw [hpick, Bool.not_true, if_neg Bool.false_ne_true, if_pos rfl]

/-- An event of a queue that ends in a state and passes the turn. -/
theorem turns_of_eq {i : Instr} {s t u : State} (he : exec i s = .next u) (hu : u = passTurn s.input.unit t) : Rules.turns i s t :=
  he.trans (congrArg _ hu)

section

variable {k : Nat} {again : Bool} {p : Pkt} {s t : State}

/-- A packet that is not a FENCE and whose header passes goes on to the rules of its kind. -/
theorem meetHead_of_meets (h : Rules.Meets k again p s t) (hk : k ≠ 5) : meetHead p t = startKind p t := by
  have hord : orderedOk p t = true := h.order.resolve_left hk
  unfold meetHead
  rw [h.stamp, h.kind, hord, if_neg hk]
  rfl

/-- A FENCE whose header passes fixes its set. -/
theorem meetHead_of_meets_fence (h : Rules.Meets 5 again p s t) : meetHead p t = startFence p t := by
  unfold meetHead
  rw [h.stamp, h.kind]
  rfl

/-- The event of a kind meets its packet for the first time. -/
theorem kindEvent_of_meets (h : Rules.Meets k false p s t) (hk : k ≠ 8) :
    kindEvent k 0 s.input.unit s = passTurn s.input.unit (meetHead p t) := by
  unfold kindEvent
  rw [h.held, if_neg Bool.false_ne_true]
  exact serveHead_of_picked h.turn h.head (by simp [h.kind, h.well, hk])

/-- The packet of an event of its kind that is met for the first time starts as its kind's rules say. -/
theorem turns_of_meets {i : Instr} {u : State} (he : exec i s = .next (kindEvent k 0 s.input.unit s))
    (h : Rules.Meets k false p s t) (hk5 : k ≠ 5) (hk8 : k ≠ 8) (hu : startKind p t = u) : Rules.turns i s u := by
  refine turns_of_eq he ?_
  rw [kindEvent_of_meets h hk8, meetHead_of_meets h hk5, hu]

end

theorem startDone_eq (p : Pkt) (t : State) : startDone p t = Rules.started p true t := rfl

theorem holdHead_eq (p : Pkt) (t : State) : holdHead p.q t = Rules.held p t := rfl

end Sys2Proof.Laws
end

section
/-!
SUPPORT. NOP, LAUNCH, GANG, COPY and KCQ_CFG packets that pass their checks (R48 to R50, R85, R275).
-/

namespace Sys2Proof.Laws

open Sys2Proof.Machine

/-! ## The rules of each kind -/

section

variable {p : Pkt} (t : State)

theorem startKind_nop (h : pkind p.v = 0) : startKind p t = startDone p t := by simp only [startKind, h]
theorem startKind_launch (h : pkind p.v = 1) : startKind p t = startLaunch p t := by simp only [startKind, h]
theorem startKind_gang (h : pkind p.v = 2) : startKind p t = startGang p t := by simp only [startKind, h]
theorem startKind_wait (h : pkind p.v = 3) : startKind p t = startWait p t := by simp only [startKind, h]
theorem startKind_signal (h : pkind p.v = 4) : startKind p t = startSignal p t := by simp only [startKind, h]
theorem startKind_copy (h : pkind p.v = 6) : startKind p t = startCopy p t := by simp only [startKind, h]
theorem startKind_kcqCfg (h : pkind p.v = 10) : startKind p t = startKcq p t := by simp only [startKind, h]

end

/-! ## LAUNCH and GANG -/

/-- A launch that passes the checks of R50 and fits its tenant's clusters starts. -/
theorem startRoles_of_ok {p : Pkt} {rs : List Role} {t : State} (hok : launchOk (packetLaunch p t rs 0) = true)
    (hfits : everFits t (packetLaunch p t rs 0) = true) : startRoles p rs t = Rules.launched p rs t := by
  unfold startRoles
  dsimp only
  rw [hok, hfits]
  rfl

theorem startLaunch_eq (p : Pkt) (t : State) : startLaunch p t = startRoles p [Rules.soleRole p] t := rfl

/-- Entries of a role table that are all well formed are the roles that they give. -/
theorem filterMap_id_map_some {α : Type} (rs : List α) : (rs.map some).filterMap id = rs := by
  simp [List.filterMap_map]

/-- A GANG whose role table is here, read and well formed launches its roles (R49). -/
theorem startGang_of_table {p : Pkt} {rs : List Role} {bs : List Byte} {t u : State} (hal : pfld p.v 128 64 % 16 = 0)
    (hhere : packetHere t (pfld p.v 128 64) = true)
    (hread : readSpan p.tenant (pfld p.v 128 64) (16 * (pfld p.v 80 2 + 1)) t = (.ok bs, u))
    (hroles : (wordsOf 16 (pfld p.v 80 2 + 1) bs).map roleEntry = rs.map some) : startGang p t = startRoles p rs u := by
  have hsome : (rs.map some).any Option.isNone = false := by simp
  unfold startGang
  dsimp only
  rw [hal, hhere, hread]
  dsimp only
  rw [hroles, hsome, filterMap_id_map_some]
  rfl

/-! ## COPY -/

/-- A walk reads memory, its errors, the walkers' caches and the registers, and nothing else. -/
theorem walkFrom_congr {s t : State} (hmem : t.mem = s.mem) (hecc : t.ecc = s.ecc) (tenant va fuel level table : Nat) :
    walkFrom t tenant va fuel level table = walkFrom s tenant va fuel level table := by
  induction fuel generalizing level table with
  | zero => rfl
  | succ fuel ih =>
    unfold walkFrom
    rw [hmem, hecc]
    simp only [ih]

theorem walk_congr {s t : State} (hmem : t.mem = s.mem) (hecc : t.ecc = s.ecc) (hdies : t.dies = s.dies) (hregs : t.regs = s.regs)
    (d tenant va : Nat) : walk t d tenant va = walk s d tenant va := by
  have hroot : rootOf t tenant = rootOf s tenant := by rw [rootOf, rootOf, hregs]
  have hgood : rootGood t tenant = rootGood s tenant := by rw [rootGood, rootGood, hroot, hregs]
  have hdie : t.die d = s.die d := by rw [State.die, State.die, hdies]
  have hbegin : walkBegin t d tenant va false = walkBegin s d tenant va false := by
    rw [walkBegin, walkBegin, walkStart, walkStart, hroot, hdie]
  rw [walk, walk, hgood, hbegin]
  simp only [walkFrom_congr hmem hecc]

theorem unitBeside_congr {s t : State} (hmem : t.mem = s.mem) (hecc : t.ecc = s.ecc) (hdies : t.dies = s.dies) (hregs : t.regs = s.regs)
    (d tenant va other : Nat) : unitBeside t d tenant va other = unitBeside s d tenant va other := by
  rw [unitBeside, unitBeside, walk_congr hmem hecc hdies hregs]

/-- The copy unit beside a near source byte, with the slice's die first (R83). -/
theorem unitBeside_eq (s : State) (d tenant va other : Nat) :
    unitBeside s d tenant va other = match walk s d tenant va with
      | .found x => if x.tier = 0 ∧ nearPA (x.addr va) then sliceAt (x.addr va) / 16 * 8 + sliceAt (x.addr va) % 16 / 2 else other
      | _ => other := by
  unfold unitBeside
  cases walk s d tenant va with
  | found x => simp [Nat.mul_comm 8]
  | fault c => rfl
  | wait l v => rfl

/-- The die of a COPY's destination, 0 where it is not found (R85). -/
def copyDie (p : Pkt) (t : State) : Nat :=
  match walk t 0 p.tenant (pfld p.v 192 64) with | .found x => if x.tier < 2 then homeDie x.tier (x.addr (pfld p.v 192 64)) else 0 | _ => 0

/-- Bytes from a side's first address to the last byte of a COPY, of a stride (R85). -/
def copyLast (p : Pkt) (stride : Nat) : Nat := pfld p.v 32 16 * stride + pfld p.v 64 32 - 1

/-- A COPY whose rows and addresses pass the checks starts a copy of the unit of R83. -/
theorem startCopy_of_ok {p : Pkt} {t : State} (hrow : 1 ≤ pfld p.v 64 32) (hmax : pfld p.v 64 32 ≤ 2 ^ 24)
    (hsrc : packetHere t (pfld p.v 128 64) = true) (hdst : packetHere t (pfld p.v 192 64) = true)
    (hsrcEnd : packetHere t (pfld p.v 128 64 + copyLast p (pfld p.v 256 64)) = true)
    (hdstEnd : packetHere t (pfld p.v 192 64 + copyLast p (pfld p.v 320 64)) = true) :
    startCopy p t =
      { Rules.started p false t with
        nextId := t.nextId + 2
        ops := putN t.ops (t.nextId + 1)
          { id := t.nextId + 1, core := 128, slot := p.q, tenant := p.tenant, pc := w64 p.addr, ready := true,
            kind := .copy (Rules.packetCopy p
              (unitBeside t 0 p.tenant (pfld p.v 128 64) (8 * copyDie p t + p.q % 8)) t.nextId) } } := by
  have hunit (other : Nat) : unitBeside { Rules.started p false t with nextId := t.nextId + 2 } 0 p.tenant (pfld p.v 128 64) other =
      unitBeside t 0 p.tenant (pfld p.v 128 64) other := unitBeside_congr rfl rfl rfl rfl _ _ _ _
  rw [copyLast] at hsrcEnd hdstEnd
  rw [← hunit]
  unfold startCopy
  dsimp only
  rw [hsrc, hdst, hsrcEnd, hdstEnd, if_neg (by simp; omega)]
  rfl

/-! ## KCQ_CFG -/

/-- The actions of KCQ_CFG on the queue itself, one after the other (R275). -/
def kcqActions (p : Pkt) (x : Kcq) : Kcq :=
  let f := pfld p.v
  let x := if f 24 1 = 1 then
      { x with sets := [], entry := 0, disp := 0, bypass := 0, ringHead := 0, ringTail := 0, folds := 0, seals := 0, spills := 0 }
    else x
  let x := if f 25 1 = 1 then { x with hold := f 32 16 } else x
  if f 26 1 = 1 then { x with ringBase := f 64 64, ringLog := f 128 8, ringHead := 0, ringTail := 0 } else x

/-- Each field of the queue is what the last action that sets it gives. -/
theorem kcqActions_eq (p : Pkt) : kcqActions p = Rules.configured p := by
  funext x
  unfold kcqActions Rules.configured
  by_cases hreset : pfld p.v 24 1 = 1 <;> by_cases hhold : pfld p.v 25 1 = 1 <;> by_cases hring : pfld p.v 26 1 = 1 <;>
    simp [hreset, hhold, hring]

theorem clearErrs_eq (f : Spot → Bool) (s : State) : clearErrs f s = { s with errs := s.errs.filter fun x => !f x } := by
  unfold clearErrs
  split
  next h => rw [List.isEmpty_iff.mp h, List.filter_nil, ← List.isEmpty_iff.mp h]
  · rfl

/-- The error is that of a record of the queue. -/
def inQueue (q : Nat) (x : Spot) : Bool := match x with | .krec n _ _ => n = q | _ => false

/-- A KCQ_CFG that passes its checks acts on its queue, then on the errors of the queue's records, then on the home map (R275). -/
theorem startKcq_of_ok {p : Pkt} {t : State} (hok : kcqBad t p.tenant p.v = false) :
    startKcq p t =
      let u := t.updKcq (pfld p.v 16 5) (kcqActions p)
      let v := if pfld p.v 24 1 = 1 then clearErrs (inQueue (pfld p.v 16 5)) u else u
      startDone p (if pfld p.v 27 1 = 1 then { v with homeMaps := putN v.homeMaps p.tenant (mapOf p.v) } else v) := by
  unfold startKcq
  rw [hok]
  rfl

/-- The same with what each part of the state becomes. -/
theorem startKcq_fields {p : Pkt} {t : State} (hok : kcqBad t p.tenant p.v = false) :
    startKcq p t = Rules.started p true { t.updKcq (pfld p.v 16 5) (Rules.configured p) with
      errs := if pfld p.v 24 1 = 1 then t.errs.filter fun x => !inQueue (pfld p.v 16 5) x else t.errs
      homeMaps := if pfld p.v 27 1 = 1 then putN t.homeMaps p.tenant (mapOf p.v) else t.homeMaps } := by
  rw [startKcq_of_ok hok, kcqActions_eq]
  dsimp only
  rw [clearErrs_eq, startDone_eq]
  by_cases hreset : pfld p.v 24 1 = 1 <;> by_cases hmap : pfld p.v 27 1 = 1 <;> simp only [hreset, hmap, if_true, if_false] <;> rfl

/-! ## The obligation -/

/-- Settles O30: each packet is met by its event, and starts by the rule of its kind. -/
theorem packetStarts : Obligations.PacketStarts := by
  unfold Obligations.PacketStarts
  intro p s t
  refine ⟨?nop, ?launch, ?gang, ?copy, ?kcqCfg⟩
  case nop =>
    intro h
    have hkind : startKind p t = startDone p t := startKind_nop t h.kind
    exact turns_of_meets rfl h (by decide) (by decide) (hkind.trans (startDone_eq p t))
  case launch =>
    intro h hok hfits
    have hkind : startKind p t = startLaunch p t := startKind_launch t h.kind
    exact turns_of_meets rfl h (by decide) (by decide) (hkind.trans ((startLaunch_eq p t).trans (startRoles_of_ok hok hfits)))
  case gang =>
    intro h bs u rs n hal hhere hread hroles hok hfits
    have hkind : startKind p t = startGang p t := startKind_gang t h.kind
    have hgang : startGang p t = startRoles p rs u := startGang_of_table hal hhere hread hroles
    exact turns_of_meets rfl h (by decide) (by decide) (hkind.trans (hgang.trans (startRoles_of_ok hok hfits)))
  case copy =>
    intro h src dst die unit last hrow hmax hsrc hdst hsrcEnd hdstEnd u
    have hkind : startKind p t = startCopy p t := startKind_copy t h.kind
    have hunit : unit = unitBeside t 0 p.tenant src (8 * die + p.q % 8) := (unitBeside_eq t 0 p.tenant src _).symm
    rw [hunit]
    exact turns_of_meets rfl h (by decide) (by decide) (hkind.trans (startCopy_of_ok hrow hmax hsrc hdst hsrcEnd hdstEnd))
  case kcqCfg =>
    intro h hok u kept
    have hkind : startKind p t = startKcq p t := startKind_kcqCfg t h.kind
    have hkept : kept = fun x => !inQueue (pfld p.v 16 5) x := by
      funext x
      cases x <;> simp [kept, inQueue]
    rw [hkept]
    exact turns_of_meets rfl h (by decide) (by decide) (hkind.trans (startKcq_fields hok))

end Sys2Proof.Laws
end

section
/-!
SUPPORT. WAIT, SIGNAL and FENCE, packets that are met again, and completion (R42 to R47).
-/

namespace Sys2Proof.Laws

open Sys2Proof.Machine

/-! ## Held packets are met again (R44, R45) -/

section

variable {k : Nat} {p : Pkt} {s t : State}

/-- A held WAIT is met again at a recheck. -/
theorem recheckEvent_of_meets (h : Rules.Meets 3 true p s t) :
    recheckEvent s.input.unit s = passTurn s.input.unit (startKind p t) := by
  rw [recheckEvent, h.held, ← meetHead_of_meets h (by decide)]
  exact serveHead_of_picked h.turn h.head (by simp [h.kind, h.well])

/-- A held packet whose queue has no FENCE at its head is met again. -/
theorem deferredEvent_of_meets (h : Rules.Meets k true p s t) (hk : k ≠ 5) (hfence : (s.queue s.input.unit).fence = none) :
    deferredEvent s.input.unit s = passTurn s.input.unit (startKind p t) := by
  rw [deferredEvent, h.held, hfence, ← meetHead_of_meets h hk]
  exact serveHead_of_picked h.turn h.head h.well

end

/-! ## WAIT (R45) -/

/-- A WAIT's condition is that of the rule. -/
theorem waitHolds_eq (p : Pkt) (x : Nat) : waitHolds p.v x = Rules.condition p x := rfl

/-- A WAIT that passes its checks completes where its condition holds, and is held where it does not. -/
theorem startWait_of_word {p : Pkt} {t u : State} {x : Nat} (hcond : pfld p.v 16 3 < 4) (hal : pfld p.v 64 64 % 8 = 0)
    (hword : Rules.waitWord p t x u) :
    startWait p t = if Rules.condition p x = true then Rules.started p true u else Rules.held p u := by
  unfold Rules.waitWord at hword
  unfold startWait
  dsimp only at hword ⊢
  by_cases hhost : pfld p.v 19 1 = 1
  · rw [if_pos hhost] at hword
    obtain ⟨hx, rfl⟩ := hword
    rw [if_neg (by simp [hal, hhost]; omega), if_pos (by simpa using hhost), ← hx, waitHolds_eq, startDone_eq, holdHead_eq]
  · rw [if_neg hhost] at hword
    obtain ⟨hhere, bs, hread, hx⟩ := hword
    rw [if_neg (by simp [hal, hhere]; omega), if_neg (by simpa using hhost), hread]
    dsimp only
    rw [← hx, waitHolds_eq, startDone_eq, holdHead_eq]

/-! ## SIGNAL (R46) -/

section

variable {p : Pkt} {t : State} (hal : pfld p.v 64 64 % 8 = 0)
include hal

/-- A SIGNAL of host memory writes its word. -/
theorem startSignal_of_host (hop : pfld p.v 16 2 = 0) (hhost : pfld p.v 18 1 = 1) :
    startSignal p t =
      Rules.started p true (performBytes (hostAt (pfld p.v 64 64)) (toBytes 8 (pfld p.v 128 64)) none true t) := by
  unfold startSignal
  dsimp only
  rw [if_neg (by simp [hal, hop, hhost]), if_pos (by simpa using hhost)]
  rfl

/-- A SIGNAL that sets writes its word in its tenant's memory. -/
theorem startSignal_of_set {u : State} (hop : pfld p.v 16 2 = 0) (hhost : pfld p.v 18 1 = 0)
    (hhere : packetHere t (pfld p.v 64 64) = true)
    (hwrite : writeSpan p.tenant (pfld p.v 64 64) (toBytes 8 (pfld p.v 128 64 % 2 ^ 64)) t = (.ok (), u)) :
    startSignal p t = Rules.started p true u := by
  have hold : ofBytes (toBytes 8 0) = 0 := rfl
  unfold startSignal
  dsimp only
  rw [if_neg (by simp [hal, hop, hhere]), if_neg (by simp [hhost]), if_neg (by simp [hop])]
  dsimp only
  rw [hold, Nat.zero_add, hwrite]
  rfl

/-- A SIGNAL that adds reads its word and writes the sum. -/
theorem startSignal_of_add {bs : List Byte} {u v : State} (hop : pfld p.v 16 2 = 1) (hhost : pfld p.v 18 1 = 0)
    (hhere : packetHere t (pfld p.v 64 64) = true) (hread : readSpan p.tenant (pfld p.v 64 64) 8 t = (.ok bs, u))
    (hwrite : writeSpan p.tenant (pfld p.v 64 64) (toBytes 8 ((ofBytes bs + pfld p.v 128 64) % 2 ^ 64)) u = (.ok (), v)) :
    startSignal p t = Rules.started p true v := by
  unfold startSignal
  dsimp only
  rw [if_neg (by simp [hal, hop, hhere, hhost]), if_neg (by simp [hhost]), if_pos hop, hread]
  dsimp only
  rw [hwrite]
  rfl

end

/-! ## FENCE (R47) -/

/-- A FENCE at the head fixes its set once. -/
theorem startFence_eq (p : Pkt) (t : State) :
    startFence p t = t.updQueue p.q fun x => { x with waiting := true, fence := some (x.fence.getD (fenceSet p t)) } := by
  rw [startFence]
  congr 1
  funext x
  cases x.fence <;> rfl

/-- A FENCE whose set has completed starts and completes. -/
theorem endFence_of_done {p : Pkt} {f : List (Nat × Nat)} {t : State} (hf : (t.queue p.q).fence = some f) (hord : orderedOk p t = true)
    (hdone : ∀ x ∈ f, x ∉ openRuns t x.1) : endFence p t = Rules.started p true t := by
  have hall : (f.all fun (q, id) => !(openRuns t q).contains (q, id)) = true := by
    rw [List.all_eq_true]
    rintro ⟨q, id⟩ hx
    simpa using hdone _ hx
  unfold endFence
  rw [hf]
  dsimp only
  rw [hord, hall]
  rfl

/-- A fenced queue whose FENCE is at the head tries to end it. -/
theorem fenceEvent_of_head {p : Pkt} {s t : State} (hfence : (s.queue s.input.unit).fence ≠ none) (hturn : onTurn s s.input.unit = true)
    (hhead : readHead s.input.unit s = (some p, t)) (hkind : pkind p.v = 5) :
    fenceEvent s.input.unit s = passTurn s.input.unit (endFence p t) := by
  rw [fenceEvent, if_neg (by simpa using hfence)]
  exact serveHead_of_picked hturn hhead (by simp [hkind])

/-! ## The ILLEGAL fate and completion (R43, R44) -/

/-- HALT of a queue leaves its tenant. -/
theorem fld_tenant_halt (w : W64) : fld (w ||| 2) 19 16 = fld w 19 16 := by
  have hbit : (2 : W64).toNat >>> 16 = 0 := by decide
  rw [fld, fld, bitsOf, bitsOf, BitVec.toNat_or, Nat.shiftRight_or_distrib, hbit, Nat.or_zero]

/-- The ILLEGAL fate of a packet: its queue halts, with one record and its vector (R44). -/
theorem packetBad_eq (p : Pkt) (t : State) :
    packetBad p t =
      let u := t.updQueue p.q fun x => { x with ctl := x.ctl ||| 2, waiting := false, fence := none }
      let v := postRec { cause := 0x01, src := 3, unit := p.q, pc := w64 p.addr, addr := 0, tenant := (t.queue p.q).tenant } u
      { v with msix := v.msix ++ [p.q] } := by
  unfold packetBad haltQueue
  dsimp only
  rw [queue_updQueue, Queue.tenant, fld_tenant_halt]
  rfl

/-- A head with a reserved KIND or a reserved field takes the ILLEGAL fate. -/
theorem illegalEvent_of_head {p : Pkt} {s t : State} (hturn : onTurn s s.input.unit = true)
    (hhead : readHead s.input.unit s = (some p, t)) (hbad : wellKind p.v = false) :
    illegalEvent s.input.unit s = passTurn s.input.unit (packetBad p t) :=
  serveHead_of_picked hturn hhead (by simp [hbad])

section

variable {q n : Nat} {r : Run} {s : State} (hrun : (s.queue q).runs[n]? = some r)
include hrun

/-- A run that is done is stamped, and any other completes if its kind's rules let it. -/
theorem packetComplete_of_run : packetComplete q n s = if r.done then stampRun q r s else tryComplete q r s := by
  rw [packetComplete, hrun]

/-- A run that is done and has no stamp leaves. -/
theorem packetComplete_of_unstamped (hdone : r.done = true) (hstamp : r.stamp = none) : packetComplete q n s = Rules.left q r.id s := by
  rw [packetComplete_of_run hrun, if_pos hdone, stampRun, hstamp]
  rfl

/-- A run that is done leaves when its stamp has been written. -/
theorem packetComplete_of_stamped {va : Nat} {t : State} (hdone : r.done = true) (hstamp : r.stamp = some va)
    (hwrite : writeSpan (s.queue q).tenant va (toBytes 8 (r.pos + 1)) s = (.ok (), t)) :
    packetComplete q n s = Rules.left q r.id t := by
  rw [packetComplete_of_run hrun, if_pos hdone, stampRun, hstamp]
  dsimp only
  rw [hwrite]
  rfl

variable (hopen : r.done = false)
include hopen

theorem packetComplete_of_open : packetComplete q n s = tryComplete q r s := by
  rw [packetComplete_of_run hrun, hopen, if_neg Bool.false_ne_true]

/-- A LAUNCH or GANG completes when its launch has ended. -/
theorem packetComplete_of_launch {k : Nat} (hkind : r.kind = 1 ∨ r.kind = 2) (hk : launchEnded q r.id s = some k) :
    packetComplete q n s = Rules.finished q r.id { s with launches := delN s.launches k } := by
  rw [packetComplete_of_open hrun hopen]
  rcases hkind with hkind | hkind
  all_goals
    simp only [tryComplete, hkind, hk]
    rfl

/-- A COLL completes when its record has been written. -/
theorem packetComplete_of_coll {k seq : Nat} {t : State} (hkind : r.kind = 7) (hcoll : collOf q r.id s = some (k, seq))
    (hend : endColl k seq s = (true, t)) : packetComplete q n s = Rules.finished q r.id t := by
  rw [packetComplete_of_open hrun hopen]
  simp only [tryComplete, hkind, hcoll, hend]
  rfl

/-- A DESTROY completes when its communicator has no COLL left. -/
theorem packetComplete_of_destroy {k : Nat} (hkind : r.kind = 8) (hk : destroyed q r.id s = some k) :
    packetComplete q n s = Rules.finished q r.id (deleteComm k s) := by
  rw [packetComplete_of_open hrun hopen]
  simp only [tryComplete, hkind, hk]
  rfl

end

/-! ## The obligation -/

theorem packetWaits : Rules.PacketWaits := by
  unfold Rules.PacketWaits
  intro p s t va
  refine ⟨?wait, ?signal, ?fence, ?fenceStart, ?again⟩
  case wait =>
    intro x u hcond hal hword v
    have hstart : startWait p t = v := startWait_of_word hcond hal hword
    constructor
    · intro h
      exact turns_of_meets rfl h (by decide) (by decide) ((startKind_wait t h.kind).trans hstart)
    · intro h
      have hevent : recheckEvent s.input.unit s = passTurn s.input.unit v := by
        rw [recheckEvent_of_meets h, startKind_wait t h.kind, hstart]
      exact turns_of_eq rfl hevent
  case signal =>
    intro h hal op host x
    have hturns {u : State} (hu : startSignal p t = u) : Rules.turns .signal s u :=
      turns_of_meets rfl h (by decide) (by decide) ((startKind_signal t h.kind).trans hu)
    refine ⟨?host, ?set, ?add⟩
    case host =>
      intro hop hhost
      exact hturns (startSignal_of_host hal hop hhost)
    case set =>
      intro hop hhost hhere u hwrite
      exact hturns (startSignal_of_set hal hop hhost hhere hwrite)
    case add =>
      intro hop hhost hhere bs u v hread hwrite
      exact hturns (startSignal_of_add hal hop hhost hhere hread hwrite)
  case fence =>
    intro h
    have hevent : kindEvent 5 0 s.input.unit s = passTurn s.input.unit (startFence p t) := by
      rw [kindEvent_of_meets h (by decide), meetHead_of_meets_fence h]
    rw [← startFence_eq]
    exact turns_of_eq rfl hevent
  case fenceStart =>
    intro f hfence hturn hhead hkind hf hord hdone
    have hevent : fenceEvent s.input.unit s = passTurn s.input.unit (Rules.started p true t) := by
      rw [fenceEvent_of_head hfence hturn hhead hkind, endFence_of_done hf hord hdone]
    exact turns_of_eq rfl hevent
  case again =>
    intro k hk h hfence
    exact turns_of_eq rfl (deferredEvent_of_meets h hk hfence)

theorem packetEnds : Rules.PacketEnds := by
  unfold Rules.PacketEnds
  constructor
  · intro p s t hturn hhead hbad u v
    have hevent : illegalEvent s.input.unit s = passTurn s.input.unit { v with msix := v.msix ++ [p.q] } := by
      rw [illegalEvent_of_head hturn hhead hbad, packetBad_eq]
    exact turns_of_eq rfl hevent
  · intro r s q hrun goes
    refine ⟨?plain, ?stamped, ?launch, ?coll, ?destroy⟩
    case plain =>
      intro hdone hstamp
      exact congrArg _ (packetComplete_of_unstamped hrun hdone hstamp)
    case stamped =>
      intro hdone va t hstamp hwrite
      exact congrArg _ (packetComplete_of_stamped hrun hdone hstamp hwrite)
    case launch =>
      intro hopen hkind k hk
      exact congrArg _ (packetComplete_of_launch hrun hopen hkind hk)
    case coll =>
      intro hopen hkind k seq t hcoll hend
      exact congrArg _ (packetComplete_of_coll hrun hopen hkind hcoll hend)
    case destroy =>
      intro hopen hkind k hk
      exact congrArg _ (packetComplete_of_destroy hrun hopen hkind hk)

/-- Settles O31: each event of a queue's head or of a started packet is the rule of its kind. -/
theorem packetLives : Obligations.PacketLives := by
  unfold Obligations.PacketLives
  exact ⟨packetWaits, packetEnds⟩

end Sys2Proof.Laws
end

section
/-!
SUPPORT. What the host writes, and what it is asked: doorbells, QCTL, FQCTL, BAR 0, refusals of demands, held records (R39, R40, R362,
R363, R385, R387, R416, R417).
-/

namespace Sys2Proof.Laws

open Sys2Proof.Machine

/-! ## Doorbells and QCTL (R39, R40, R363) -/

section

variable {q : Nat} {s : State} (hq : q < 64)
include hq

/-- A doorbell that moves WRITE forwards sets it; past the end of the ring it halts the queue as well. -/
theorem doorbell_of_forward {v : Nat} (hon : (s.queue q).enabled = true)
    (hfwd : (v % 2 ^ 32 + 2 ^ 32 - (s.queue q).write) % 2 ^ 32 ≤ 2 ^ 31) :
    doorbell q v s =
      let u := s.updQueue q fun x => { x with write := v % 2 ^ 32 }
      if (v % 2 ^ 32 + 2 ^ 32 - (s.queue q).read % 2 ^ 32) % 2 ^ 32 ≤ (s.queue q).size then u else haltQueue q 0x01 0 0 u := by
  unfold doorbell
  dsimp only
  rw [hon, if_neg (by simpa using hq), if_neg (Nat.not_lt.mpr hfwd)]
  by_cases hroom : (v % 2 ^ 32 + 2 ^ 32 - (s.queue q).read % 2 ^ 32) % 2 ^ 32 ≤ (s.queue q).size
  · rw [if_pos hroom, if_neg (Nat.not_lt.mpr hroom)]
  · rw [if_neg hroom, if_pos (Nat.not_le.mp hroom)]
    rfl

/-- A doorbell that would move WRITE backwards leaves it and halts the queue. -/
theorem doorbell_of_backward {v : Nat} (hon : (s.queue q).enabled = true)
    (hback : 2 ^ 31 < (v % 2 ^ 32 + 2 ^ 32 - (s.queue q).write) % 2 ^ 32) : doorbell q v s = haltQueue q 0x01 0 0 s := by
  unfold doorbell
  dsimp only
  rw [hon, if_neg (by simpa using hq), if_pos hback]
  rfl

/-- QCTL sets EN of an idle queue: its counts start at 0, and a ring that is too small halts it. -/
theorem queueControl_of_enable {v : W64} (hv : v.getLsbD 0 = true) (hlive : s.regs.live = true) (hoff : (s.queue q).enabled = false) :
    queueControl q v s =
      let u := s.updQueue q fun x => { x with ctl := (v &&& 0xf00f0) ||| 1, write := 0, read := 0, waiting := false, fence := none }
      if fld v 7 4 < 4 then haltQueue q 0x01 0 0 u else u := by
  unfold queueControl
  dsimp only
  rw [if_neg (Nat.not_le.mpr hq), hv, hlive, hoff]
  rfl

/-- QCTL clears EN: a head that waits is forgotten, and HALT stays. -/
theorem queueControl_of_disable {v : W64} (hv : v.getLsbD 0 = false) :
    queueControl q v s = s.updQueue q fun x => { x with ctl := (v &&& 0xf00f0) ||| (x.ctl &&& 2), waiting := false, fence := none } := by
  unfold queueControl
  dsimp only
  rw [if_neg (Nat.not_le.mpr hq), hv]
  simp

/-- QCTL with EN set leaves an enabled queue where it was, and HALT stays. -/
theorem queueControl_of_enabled {v : W64} (hv : v.getLsbD 0 = true) (hlive : s.regs.live = true) (hon : (s.queue q).enabled = true) :
    queueControl q v s = s.updQueue q fun x => { x with ctl := ((v &&& 0xf00f0) ||| 1) ||| (x.ctl &&& 2) } := by
  unfold queueControl
  dsimp only
  rw [if_neg (Nat.not_le.mpr hq), hv, hlive, hon]
  simp

end

/-- EN bits may be set once the boot ROM has verified every image (R366). -/
theorem live_of_booted {h : HostRegs} (hboot : h.booted = true) (hstat : h.bootStat = 0) : h.live = true := by
  simp [HostRegs.live, hboot, hstat]

/-! ## The host fault queue (R385, R387) -/

/-- FQCTL as a write leaves it: EN stays 0 before boot has verified every image. -/
def faultRegs (v : W64) (h : HostRegs) : HostRegs :=
  { h with fqCtl := v &&& (if h.booted = true ∧ h.bootStat = 0 then 0x3f00f1 else 0x3f00f0) }

/-- A write of FQCTL zeroes the counts of the fault queue where it sets EN. -/
theorem faultControl_eq (v : W64) (s : State) :
    faultControl v s =
      if (faultRegs v s.regs).fqCtl.getLsbD 0 = true ∧ s.regs.fqCtl.getLsbD 0 = false then
        { s with regs := { faultRegs v s.regs with fqWrite := 0, fqRead := 0, fqSeq := 0 } }
      else { s with regs := faultRegs v s.regs } := by
  have hmask : (if s.regs.live = true then (0x3f00f1 : W64) else 0x3f00f0) =
      if s.regs.booted = true ∧ s.regs.bootStat = 0 then 0x3f00f1 else 0x3f00f0 := by simp [HostRegs.live]
  unfold faultControl faultRegs
  dsimp only
  rw [hmask]
  generalize v &&& (if s.regs.booted = true ∧ s.regs.bootStat = 0 then (0x3f00f1 : W64) else 0x3f00f0) = ctl
  cases ctl.getLsbD 0 <;> cases s.regs.fqCtl.getLsbD 0 <;> rfl

/-- The oldest held record is written once a position is free. -/
theorem postHeld_of_free {r : FaultRec} {rs : List FaultRec} {s : State} (hheld : s.demandHeld = r :: rs)
    (hfree : s.regs.fqBlocked = false) :
    postHeld s = writeRec r { s with demandHeld := rs } := by
  rw [postHeld, hheld]
  dsimp only
  rw [hfree, if_neg Bool.false_ne_true]

/-! ## BAR 0 (R362) -/

section

variable {s : State} {x : Input} (hunit : x.unit ≠ 1) (hdead : s.regs.dead = false) (hfull : x.flag = false)
include hunit hdead hfull

/-- A whole aligned write reaches the register of its offset. -/
theorem registerWrite_of_aligned (hal : x.idx % 8 = 0) (hoff : x.idx ≠ 0x3010) :
    registerWrite x s = writeReg x.idx x.word s := by
  have hother : x.idx / 8 * 8 ≠ 0x3010 := by omega
  rw [registerWrite, if_neg hunit, hdead, hfull, if_neg (by simp [hal]), if_neg hother]
  rfl

/-- A whole write of THERMSTAT resumes the device if it is cool enough. -/
theorem registerWrite_of_thermstat (hoff : x.idx = 0x3010) :
    registerWrite x s = thermalResume x.word (x.aux = 1) s := by
  rw [registerWrite, if_neg hunit, hdead, hfull, hoff]
  rfl

end

/-- The restore that has been asked for begins by the rule. -/
theorem beginRestore_eq (s : State) : beginRestore s = Rules.restoreBegins s := by
  unfold beginRestore Rules.restoreBegins
  cases s.job with
  | none => rfl
  | some j =>
    dsimp only
    cases j.restore <;> rfl

/-- The device resumes below its trip temperature: a restore that was asked for meanwhile begins (R369). -/
theorem thermalResume_of_cool {v : W64} {s : State} (hv : v.getLsbD 0 = false) :
    thermalResume v true s = Rules.restoreBegins { s with regs := { s.regs with thermStat := 0 } } := by
  rw [thermalResume, hv, ← beginRestore_eq]
  rfl

/-- The node's number is written where no station is enabled. -/
theorem writeReg_nodeId {v : W64} {s : State} (hoff : ∀ d y, (d, y) ∈ s.stations → y.enabled = false) :
    writeReg 0x2000 v s = { s with regs := { s.regs with nodeId := fld v 9 0 } } := by
  have hany : (s.stations.any fun (_, x) => x.enabled) = false := by
    rw [List.any_eq_false]
    rintro ⟨d, y⟩ hy
    exact Bool.not_eq_true _ ▸ hoff d y hy
  show (if (s.stations.any fun (_, x) => x.enabled) then s else _) = _
  rw [hany, if_neg Bool.false_ne_true]

/-! ## Refusing a demand (R416, R417) -/

/-- A write of DREFCTL where no refusal is in progress: with GO, every die has the refusal before it. -/
theorem refuse_of_idle {v : W64} {s : State} (hidle : refusing s = false) :
    refuse v s =
      let u : State := { s with regs := { s.regs with drefCtl := v &&& 0xff0f } }
      let c := fld v 15 8
      let cause := if c = 0x05 ∨ c = 0x0d then c else 0x07
      if v.getLsbD 16 = true then (List.range 4).foldl (fun t d => t.updDie d fun x => { x with refusal := some cause }) u else u := by
  have hcause (c : Nat) : (if (decide (c = cPERM) || decide (c = cECC)) = true then c else cTRANSLATE) =
      if c = 0x05 ∨ c = 0x0d then c else 0x07 := by
    simp only [Bool.or_eq_true, decide_eq_true_eq]
    rfl
  unfold refuse
  dsimp only
  rw [hidle, if_neg Bool.false_ne_true, hcause]
  by_cases hgo : v.getLsbD 16 = true
  · rw [if_neg (by simp [hgo]), if_pos hgo]
  · rw [if_pos (by simpa using hgo), if_neg hgo]

/-- A refusal of a page that is not this node's, or of the upper half of addresses, is taken and nothing more. -/
theorem dieRefuses_of_elsewhere {d cause : Nat} {s : State} (hcause : (s.die d).refusal = some cause)
    (hfar : nodeOf (fld s.regs.drefAddr 63 16 * 65536) ≠ s.regs.nodeId ∨ bitAt (fld s.regs.drefAddr 63 16 * 65536) 63 = true) :
    dieRefuses d s = s.updDie d fun x => { x with refusal := none } := by
  unfold dieRefuses
  rw [hcause]
  dsimp only
  rw [if_pos (by rw [Bool.or_eq_true, decide_eq_true_eq]; exact hfar)]

/-! ## The obligation -/

/-- Settles O33: each write and each event of the host's registers is the rule of its function. -/
theorem hostRegisters : Obligations.HostRegisters := by
  unfold Obligations.HostRegisters
  intro s q v x h goes
  refine ⟨?forward, ?backward, ?enable, ?disable, ?enabled, ?fault, ?register, ?pages, ?refuse, ?takes, ?post⟩
  case forward =>
    intro new u hq hon hfwd
    have hbell : doorbell q v.toNat s = if (new + 2 ^ 32 - x.read % 2 ^ 32) % 2 ^ 32 ≤ x.size then u else haltQueue q 0x01 0 0 u :=
      doorbell_of_forward hq hon hfwd
    split_ifs with hroom
    · exact congrArg _ (hbell.trans (if_pos hroom))
    · exact congrArg _ (hbell.trans (if_neg hroom))
  case backward =>
    intro hq hon hback
    exact congrArg _ (doorbell_of_backward hq hon hback)
  case enable =>
    intro hq hv hboot hstat hoff u
    have hctl : queueControl q v s = if fld v 7 4 < 4 then haltQueue q 0x01 0 0 u else u :=
      queueControl_of_enable hq hv (live_of_booted hboot hstat) hoff
    split_ifs with hsmall
    · exact congrArg _ (hctl.trans (if_pos hsmall))
    · exact congrArg _ (hctl.trans (if_neg hsmall))
  case disable =>
    intro hq hv
    exact congrArg _ (queueControl_of_disable hq hv)
  case enabled =>
    intro hq hv hboot hstat hon
    exact congrArg _ (queueControl_of_enabled hq hv (live_of_booted hboot hstat) hon)
  case fault =>
    intro h'
    have hctl := faultControl_eq v s
    split_ifs with hen
    · exact congrArg _ (hctl.trans (if_pos hen))
    · exact congrArg _ (hctl.trans (if_neg hen))
  case register =>
    intro hunit hdead hfull
    have hreg {off : Nat} {t : State} (hal : off % 8 = 0) (hoff : off ≠ 0x3010) (ht : writeReg off v s = t)
        (hidx : s.input.idx = off) : goes .registerWrite t := by
      subst hidx
      exact congrArg _ ((registerWrite_of_aligned hunit hdead hfull hal hoff).trans ht)
    refine ⟨?thermstat, ?nodeId, hreg (by decide) (by decide) rfl, hreg (by decide) (by decide) rfl, hreg (by decide) (by decide) rfl,
      hreg (by decide) (by decide) rfl, hreg (by decide) (by decide) rfl, hreg (by decide) (by decide) rfl, ?others⟩
    case thermstat =>
      intro hidx hv haux
      have hresume : thermalResume v (s.input.aux = 1) s = Rules.restoreBegins { s with regs := { h with thermStat := 0 } } := by
        rw [haux]
        exact thermalResume_of_cool hv
      exact congrArg _ ((registerWrite_of_thermstat hunit hdead hfull hidx).trans hresume)
    case nodeId =>
      intro hidx hoff
      exact hreg (by decide) (by decide) (writeReg_nodeId hoff) hidx
    case others =>
      intro hal hoff
      exact hreg hal hoff rfl rfl
  case pages =>
    intro hunit n
    have hwrite : registerWrite s.input s = admitPri { s with regs := { h with priAlloc := v.toNat % 2 ^ 32 } } := by
      rw [registerWrite, if_pos hunit]
    exact congrArg _ hwrite
  case refuse =>
    intro hidle u c cause
    have hrefuse := refuse_of_idle (v := v) hidle
    split_ifs with hgo
    · exact congrArg _ (hrefuse.trans (if_pos hgo))
    · exact congrArg _ (hrefuse.trans (if_neg hgo))
  case takes =>
    intro cause hcause t va page u bad there
    constructor
    · intro hfar
      exact congrArg _ (dieRefuses_of_elsewhere hcause hfar)
    · intro hnode hlow mine late asked w entry w'
      have hrefuse : dieRefuses q s = admitPri ((((u.die q).walks.filter there).flatMap (·.agents) ++ late.map Prod.snd).foldl
          (refuseAgent cause) (admitWalks q (refuseOpen cause bad entry (refuseSaved cause bad (refuseParked cause bad w'))))) := by
        unfold dieRefuses
        rw [hcause]
        dsimp only
        rw [if_neg (by simpa only [Bool.or_eq_true, decide_eq_true_eq, not_or, not_not, Bool.not_eq_true] using ⟨hnode, hlow⟩)]
        rfl
      exact congrArg _ hrefuse
  case post =>
    intro r rs hheld hfree place
    have hpost := (postHeld_of_free hheld hfree)
    have hplace : place = 2 ^ 64 + (fld h.fqBase 63 12 * 4096 + 64 * (h.fqSeq % 2 ^ fld h.fqCtl 7 4)) := Nat.add_assoc _ _ _
    rw [hplace]
    exact congrArg _ hpost

end Sys2Proof.Laws
end

section
/-!
SUPPORT. The state after reset (R40, R78, R110, R178, R267, R308, R327, R347, R348, R364, R365, R368, R385, R416).
-/

namespace Sys2Proof.Laws

open Sys2Proof.Machine

/-- Settles O59: each unit that nothing has touched reads its reset value. -/
theorem resetState : Obligations.ResetState := by
  unfold Obligations.ResetState
  refine ⟨rfl, fun _ => rfl, fun _ => rfl, fun _ => ⟨rfl, rfl, rfl⟩, fun _ => ⟨rfl, rfl, rfl, rfl⟩, ?homes, ?stations,
    fun _ => ⟨rfl, rfl, rfl⟩, ?registers, rfl⟩
  case homes =>
    intro t i hi
    show ([].getD i i) % 32 = i
    rw [List.getD_nil, Nat.mod_eq_of_lt hi]
  case stations =>
    intro d
    have hfresh : State.reset.station d = {} := rfl
    rw [hfresh]
    decide
  case registers => decide

end Sys2Proof.Laws
end

section
/-!
SUPPORT. Saving and restoring tenants: what each request and each event answers (R61 to R66, R364, R401).
-/

namespace Sys2Proof.Laws

open Sys2Proof.Machine

/-! ## Requests of a save (R61, R364) -/

/-- PREEMPT as it reads while a save or a restore that a word asked for goes on (R364). -/
def preemptAsked (w : W64) : W64 := ((w &&& 0xffffffffffff005f) &&& ~~~32) ||| 32

/-- A save that nothing stands before begins. -/
theorem askSave_of_idle {w : W64} {s : State} (hjob : s.job = none) :
    askSave w s = { s with
      job := some { restore := false, tenants := preemptTenants w, area := fld w 63 16 * 65536 }
      regs := { s.regs with preempt := preemptAsked w } } := by
  rw [askSave, hjob]
  rfl

/-- A save asked for during a save is merged into it. -/
theorem askSave_of_saving {w : W64} {j : Preempt} {s : State} (hjob : s.job = some j) (hsave : j.restore = false) :
    askSave w s = { s with job := some { j with tenants := sortNat (j.tenants ++ preemptTenants w) } } := by
  rw [askSave, hjob]
  dsimp only
  rw [hsave, if_neg Bool.false_ne_true]

/-- The first save asked for during a restore is to start when the restore ends. -/
theorem askSave_of_restoring {w : W64} {j : Preempt} {s : State} (hjob : s.job = some j) (hrestore : j.restore = true)
    (hnext : j.next = none) :
    askSave w s = { s with job := some { j with next := some (preemptTenants w, fld w 63 16 * 65536, w) } } := by
  rw [askSave, hjob]
  dsimp only
  rw [hrestore, if_pos rfl, hnext]

/-! ## The parts of a save (R62) -/

section

variable {x : Input} {s : State}

/-- The event takes the request of its word. -/
theorem preemptSave_of_request (haux : x.aux = 0) (hw : x.word.getLsbD 6 = false) : preemptSave x s = askSave x.word s := by
  unfold preemptSave
  rw [haux, hw]
  rfl

/-- A block of a tenant that is saved, and that is quiet, is sealed. -/
theorem preemptSave_of_block {j : Preempt} {b : Block} (haux : x.aux = 1) (hjob : s.job = some j) (hb : getN s.blocks x.idx = some b)
    (hsave : j.restore = false) (hten : b.tenant ∈ j.tenants) (himg : b.image = none) (hseal : canSeal s x.idx b = true) :
    preemptSave x s = sealBlock x.idx b j s := by
  unfold preemptSave
  rw [haux, hjob, hb]
  dsimp only
  rw [hsave, himg, hseal, List.contains_iff_mem.mpr hten]
  rfl

theorem preemptSave_of_end {j : Preempt} (haux : 2 ≤ x.aux) (hjob : s.job = some j) (hsave : j.restore = false) :
    preemptSave x s = endSave j s := by
  obtain ⟨n, hn⟩ := Nat.exists_eq_add_of_le' haux
  unfold preemptSave
  rw [hn, hjob]
  dsimp only
  rw [hsave]
  rfl

end

/-- Changes of keyed queues leave every other part of the state. -/
theorem foldl_updKcq {f : Kcq → Kcq} {qs : List Nat} {s : State} :
    ∃ m, qs.foldl (fun s q => s.updKcq q f) s = { s with kcqs := m } := by
  induction qs generalizing s with
  | nil => exact ⟨s.kcqs, rfl⟩
  | cons q qs ih => exact ih (s := s.updKcq q f)

/-- A save with every block sealed and every command at rest ends: its clusters' queues are saved with it (R62, R65). -/
theorem endSave_of_quiet {j : Preempt} {s : State} (hblocks : ∀ k b, (k, b) ∈ s.blocks → b.tenant ∈ j.tenants → b.image.isSome = true)
    (hops : ∀ k o, (k, o) ∈ s.ops → o.tenant ∈ j.tenants → opQuiet s o = true) :
    endSave j s = { (savedClusters s j).foldl (fun s q => s.updKcq q fun x => { x with saved := true }) s with
      job := none
      saved := sortNat (s.saved ++ j.tenants)
      regs := { s.regs with preempt := s.regs.preempt &&& ~~~32 } } := by
  have hsealed : (s.blocks.any fun (_, b) => j.tenants.contains b.tenant && b.image.isNone) = false := by
    rw [List.any_eq_false]
    rintro ⟨k, b⟩ hb hopen
    rw [Bool.and_eq_true, List.contains_iff_mem, Option.isNone_iff_eq_none] at hopen
    obtain ⟨hten, hnone⟩ := hopen
    have himg := hblocks k b hb hten
    rw [hnone] at himg
    exact Bool.false_ne_true himg
  have hrest : (s.ops.any fun (_, o) => j.tenants.contains o.tenant && !opQuiet s o) = false := by
    rw [List.any_eq_false]
    rintro ⟨k, o⟩ ho hopen
    rw [Bool.and_eq_true, List.contains_iff_mem, Bool.not_eq_true'] at hopen
    obtain ⟨hten, hbusy⟩ := hopen
    have hquiet := hops k o ho hten
    rw [hbusy] at hquiet
    exact Bool.false_ne_true hquiet
  have hzero (r : W64) : r ||| 0 = r := BitVec.or_zero
  unfold endSave
  rw [hsealed, hrest, if_neg (by decide)]
  obtain ⟨m, hm⟩ := foldl_updKcq (f := fun x => { x with saved := true }) (qs := savedClusters s j) (s := s)
  dsimp only
  rw [hm, preemptBusy]
  dsimp only
  rw [if_neg Bool.false_ne_true, hzero]

/-! ## Restoring (R66, R401) -/

/-- A restore that nothing stands before is taken; a stopped device begins it when it resumes (R369). -/
theorem preemptRestore_of_idle {w : W64} {s : State} (hw : w.getLsbD 6 = true) (hjob : s.job = none) :
    preemptRestore w s =
      let u : State := { s with
        job := some { restore := true, tenants := preemptTenants w, area := fld w 63 16 * 65536 }
        regs := { s.regs with preempt := preemptAsked w } }
      if s.regs.thermStat.getLsbD 0 = true then u else Rules.restoreBegins u := by
  unfold preemptRestore
  rw [hw, hjob]
  dsimp only
  rw [beginRestore_eq]
  rfl

section

variable {x : Input} {s : State} {b : Block} {img : NMap Group} (hb : getN s.blocks x.idx = some b) (himg : b.image = some img)
  (hload : restoring s b = true)
include hb himg hload

/-- A block of the area whose image is sound is placed where what it held is free. -/
theorem restorePlace_of_sound (hsound : imageError s b = none) (hfree : placesFree s b img = true) :
    restorePlace x s = restoreBlock x.idx b img s := by
  unfold restorePlace
  rw [hb]
  dsimp only
  rw [himg]
  dsimp only
  rw [hload, hsound, hfree]
  rfl

/-- A block whose image is in error is lost. -/
theorem restorePlace_of_error {a : Nat} (herr : imageError s b = some a) : restorePlace x s = loseBlock x.idx b (w64 a) s := by
  unfold restorePlace
  rw [hb]
  dsimp only
  rw [himg]
  dsimp only
  rw [hload, herr]
  rfl

end

/-- Settles O37: each request and each event is the rule of what stands before it. -/
theorem preemption : Obligations.Preemption := by
  unfold Obligations.Preemption
  intro s w x h goes busy names
  refine ⟨?save, ?during, ?slice, ?block, ?ends, ?restore, ?place⟩
  case save =>
    intro hw haux hjob
    exact congrArg _ ((preemptSave_of_request haux hw).trans (askSave_of_idle hjob))
  case during =>
    intro hw haux j hjob
    constructor
    · intro hsave
      exact congrArg _ ((preemptSave_of_request haux hw).trans (askSave_of_saving hjob hsave))
    · intro hrestore hnext
      exact congrArg _ ((preemptSave_of_request haux hw).trans (askSave_of_restoring hjob hrestore hnext))
  case slice =>
    intro hten hjob v
    have hslice : timeSlice x.unit w s = askSave v s := by rw [timeSlice, if_neg (Nat.not_le.mpr hten)]
    exact congrArg _ (hslice.trans (askSave_of_idle hjob))
  case block =>
    intro haux j b hjob hb hsave hten himg hseal
    exact congrArg _ (preemptSave_of_block haux hjob hb hsave hten himg hseal)
  case ends =>
    intro haux j hjob hsave hblocks hops t
    exact congrArg _ ((preemptSave_of_end haux hjob hsave).trans (endSave_of_quiet hblocks hops))
  case restore =>
    intro hw hjob j u
    exact congrArg _ (preemptRestore_of_idle hw hjob)
  case place =>
    intro b img hb himg hload
    constructor
    · intro hsound hfree
      exact congrArg _ (restorePlace_of_sound hb himg hload hsound hfree)
    · intro a herr t
      exact congrArg _ (restorePlace_of_error hb himg hload herr)

end Sys2Proof.Laws
end

section
/-!
SUPPORT. Keyed queues and posts of packets: what each event answers (R40, R257, R267 to R274, R280, R404).
-/

namespace Sys2Proof.Laws

open Sys2Proof.Machine

/-! ## Arrivals at a keyed queue (R267 to R269, R280) -/

section

variable {id q : Nat} {o : Op} {s : State} (ho : getN s.ops id = some o)
include ho

section

variable {r : KRec} {w : W32} (hkind : o.kind = .push q r w) (hready : o.ready = true) (hfirst : queuedBefore s o q = false)
include hkind hready hfirst

/-- A push whose release is done, and before which no other of its group stands, arrives: it waits for the ring's line, or enters, or
is refused. -/
theorem pushArrives_of_push :
    pushArrives id s = match pushWaits q o.tenant r s with
      | some t => t
      | none => match kqPush q o.tenant r s with
        | some t => endQueued o t
        | none => failQueued o w 0x0b 0 (w64 q) (parentAdd r.parent (· - 1) s) := by
  unfold pushArrives
  rw [ho]
  dsimp only
  rw [hkind]
  dsimp only
  rw [hready, hfirst]
  rfl

theorem pushArrives_of_waits {t : State} (ht : pushWaits q o.tenant r s = some t) : pushArrives id s = t := by
  rw [pushArrives_of_push ho hkind hready hfirst, ht]

theorem pushArrives_of_entered {t : State} (hgo : pushWaits q o.tenant r s = none) (ht : kqPush q o.tenant r s = some t) :
    pushArrives id s = endQueued o t := by
  rw [pushArrives_of_push ho hkind hready hfirst, hgo, ht]

theorem pushArrives_of_refused (hgo : pushWaits q o.tenant r s = none) (ht : kqPush q o.tenant r s = none) :
    pushArrives id s = failQueued o w 0x0b 0 (w64 q) (parentAdd r.parent (· - 1) s) := by
  rw [pushArrives_of_push ho hkind hready hfirst, hgo, ht]

end

section

variable {un : Bool} {w : W32} (hkind : o.kind = .khold q un w) (hready : o.ready = true) (hfirst : queuedBefore s o q = false)
include hkind hready hfirst

/-- A hold change whose turn has come changes the count, or is refused where the count cannot change. -/
theorem pushArrives_of_hold :
    pushArrives id s =
      if (un && decide ((s.kcq q).hold = 0)) || (!un && decide ((s.kcq q).hold = 65535)) then failQueued o w 0x01 0x14 0 s
      else endQueued o (s.updKcq q fun k => { k with hold := if un then k.hold - 1 else k.hold + 1 }) := by
  unfold pushArrives
  rw [ho]
  dsimp only
  rw [hkind]
  dsimp only
  rw [hready, hfirst]
  rfl

theorem pushArrives_of_unhold (hun : un = true) (hn : (s.kcq q).hold ≠ 0) :
    pushArrives id s = endQueued o (s.updKcq q fun k => { k with hold := k.hold - 1 }) := by
  rw [pushArrives_of_hold ho hkind hready hfirst, hun, if_neg (by simpa using hn)]
  rfl

theorem pushArrives_of_holdMore (hun : un = false) (hn : (s.kcq q).hold ≠ 65535) :
    pushArrives id s = endQueued o (s.updKcq q fun k => { k with hold := k.hold + 1 }) := by
  rw [pushArrives_of_hold ho hkind hready hfirst, hun, if_neg (by simpa using hn)]
  rfl

theorem pushArrives_of_badHold (hn : un = true ∧ (s.kcq q).hold = 0 ∨ un = false ∧ (s.kcq q).hold = 65535) :
    pushArrives id s = failQueued o w 0x01 0x14 0 s := by
  rw [pushArrives_of_hold ho hkind hready hfirst, if_pos (by simpa using hn)]

end

end

/-! ## Claims of waiting `kpop`s (R270, R271, R274, R404) -/

section

variable {q k : Nat} {w : KWait} {ws : List (Nat × KWait)} {g : Group} {s : State} (hw : popWaiters s q = (k, w) :: ws)
  (hg : s.group k = some g) (hsaved : (s.kcq q).saved = false) (hroom : (s.kcq q).tickets.length < 4096)
include hw hg hsaved hroom

/-- The `kpop` that has waited longest takes what a claim for its tenant finds. -/
theorem dispatchClaim_of_waiter :
    dispatchClaim q s = match claim q g.tenant s with
      | .nothing => s
      | .wait s => s
      | .bad r s =>
        let s := s.updGroup k fun g =>
          { (g.unpark (w.lanes &&& g.parkedOn fun c => c = .kpop)).dropScore w.id (BitVec.allOnes 64) with
            kwaits := g.kwaits.filter fun y => y.id ≠ w.id }
        takeTrap k (deferCtx s (k / 128) w.pc false) (sameFault w.lanes 0x0d 0 0 r.key) s
      | .record r s =>
        match takeTicket q g.block s with
        | none => s
        | some (t, s) =>
          let s := wakePop k w (popWords q (s.kcq q).disp t r) s
          match w.acq with | some sc => acquireAt (k / 128) sc s | none => s := by
  unfold dispatchClaim
  rw [hw]
  dsimp only
  rw [hg]
  dsimp only
  rw [hsaved, if_neg (by simpa using hroom)]
  cases claim q g.tenant s with
  | nothing => rfl
  | wait t => rfl
  | bad r t => rfl
  | record r t =>
    cases ht : takeTicket q g.block t with
    | none => simp only [ht]
    | some x => simp only [ht] <;> rfl

end

/-- A queue that has ended gives every `kpop` that waits its end record. -/
theorem endToken_of_ended {q : Nat} {s : State} (hend : kqEnded s q = true) (hsaved : (s.kcq q).saved = false) :
    endToken q s = (popWaiters s q).foldl (fun s y =>
      (wakePop y.1 y.2 (endWords q (s.kcq q).disp) s).updGroup y.1 fun g => { g with endSeen := true }) s := by
  unfold endToken
  rw [hend, hsaved, if_pos (by decide)]

/-! ## `qpost` (R40, R257) -/

/-- A queue whose EN is set and whose HALT is not runs. -/
theorem running_of_ctl {x : Queue} (hon : x.ctl.getLsbD 0 = true) (hgo : x.ctl.getLsbD 1 = false) : (!x.enabled || x.halted) = false := by
  rw [Queue.enabled, Queue.halted, hon, hgo]
  rfl

/-- The event performs a post whose release is done. -/
theorem l2Write_of_post {x : Input} {o : Op} {q d : Nat} {ws : List W64} {s : State} (hflag : x.flag = true)
    (ho : getN s.ops x.idx = some o) (hkind : o.kind = .post q ws d) (hready : o.ready = true) : l2Write x s = doPost o q ws d s := by
  rw [l2Write, if_pos hflag, runOp, ho]
  dsimp only
  rw [hready, if_neg (by decide), hkind]

section

variable {o : Op} {q d : Nat} {ws : List W64} {s : State} (hactive : opActive s o = true)
include hactive

/-- A post to a queue that is disabled or halted gives that status. -/
theorem doPost_of_off (hoff : (s.queue q).ctl.getLsbD 0 = false ∨ (s.queue q).ctl.getLsbD 1 = true) :
    doPost o q ws d s = postStatus o d (w64 (2 ^ 63 + 2)) s := by
  unfold doPost
  dsimp only
  rw [hactive, if_neg (by decide), if_pos (by simpa [Queue.enabled, Queue.halted] using hoff)]

variable (hon : (s.queue q).ctl.getLsbD 0 = true) (hgo : (s.queue q).ctl.getLsbD 1 = false)
include hon hgo

/-- A post to a full queue gives that status. -/
theorem doPost_of_full (hfull : (s.queue q).count = (s.queue q).size) : doPost o q ws d s = postStatus o d (w64 (2 ^ 63 + 1)) s := by
  unfold doPost
  dsimp only
  rw [hactive, if_neg (by decide), running_of_ctl hon hgo, if_neg Bool.false_ne_true, if_pos hfull]

variable (hroom : (s.queue q).count ≠ (s.queue q).size)
include hroom

/-- A post writes its packet to a ring in host memory and moves the write index. -/
theorem doPost_of_host (hhost : (s.queue q).base.getLsbD 0 = true) :
    doPost o q ws d s = postStatus o d (w64 (s.queue q).write)
      ((performBytes (hostAt ((s.queue q).at (s.queue q).write)) (ws.flatMap fun w => toBytes 8 w.toNat) none true s).updQueue q
        fun x => { x with write := (x.write + 1) % 2 ^ 32 }) := by
  unfold doPost
  dsimp only
  rw [hactive, if_neg (by decide), running_of_ctl hon hgo, if_neg Bool.false_ne_true, if_neg hroom, if_pos hhost]

/-- A post writes its packet to a ring in its tenant's memory and moves the write index. -/
theorem doPost_of_device {pa : Nat} {hc : Bool} {t : State} (hdev : (s.queue q).base.getLsbD 0 = false)
    (hdst : engineDst o.tenant none ((s.queue q).at (s.queue q).write) s = (.ok (pa, hc), t)) (hfree : l2Free t (pa / 128) = true) :
    doPost o q ws d s = postStatus o d (w64 (s.queue q).write)
      ((touchL2 (pa / 128) (performBytes pa (ws.flatMap fun w => toBytes 8 w.toNat) none hc t)).updQueue q
        fun x => { x with write := (x.write + 1) % 2 ^ 32 }) := by
  unfold doPost
  dsimp only
  rw [hactive, if_neg (by decide), running_of_ctl hon hgo, if_neg Bool.false_ne_true, if_neg hroom,
    if_neg (by rw [hdev]; exact Bool.false_ne_true), hdst]
  dsimp only
  rw [if_pos hfree]

end

/-- Settles O42: each event is the rule of what stands at its queue. -/
theorem queueEvents : Obligations.QueueEvents := by
  unfold Obligations.QueueEvents
  intro s x goes
  refine ⟨?push, ?hold, ?claims, ?ends, ?post⟩
  case push =>
    intro o q r w ho hkind hready hfirst
    refine ⟨?waits, ?enters, ?refused⟩
    case waits =>
      intro t ht
      exact congrArg _ (pushArrives_of_waits ho hkind hready hfirst ht)
    case enters =>
      intro t hgo ht
      exact congrArg _ (pushArrives_of_entered ho hkind hready hfirst hgo ht)
    case refused =>
      intro hgo ht
      exact congrArg _ (pushArrives_of_refused ho hkind hready hfirst hgo ht)
  case hold =>
    intro o q un w ho hkind hready hfirst n
    refine ⟨?less, ?more, ?bad⟩
    case less =>
      intro hun hn
      exact congrArg _ (pushArrives_of_unhold ho hkind hready hfirst hun hn)
    case more =>
      intro hun hn
      exact congrArg _ (pushArrives_of_holdMore ho hkind hready hfirst hun hn)
    case bad =>
      intro hn
      exact congrArg _ (pushArrives_of_badHold ho hkind hready hfirst hn)
  case claims =>
    intro k w ws g hw hg hsaved hroom
    have hclaim := dispatchClaim_of_waiter hw hg hsaved hroom
    refine ⟨?nothing, ?waits, ?bad, ?record⟩
    case nothing =>
      intro hc
      rw [hc] at hclaim
      exact congrArg _ hclaim
    case waits =>
      intro t hc
      rw [hc] at hclaim
      exact congrArg _ hclaim
    case bad =>
      intro r t hc u
      rw [hc] at hclaim
      exact congrArg _ hclaim
    case record =>
      intro r t n u hc ht v
      rw [hc] at hclaim
      dsimp only at hclaim
      rw [ht] at hclaim
      exact congrArg _ hclaim
  case ends =>
    intro hend hsaved
    exact congrArg _ (endToken_of_ended hend hsaved)
  case post =>
    intro o q ws d hflag ho hkind hready hactive y gives moved bytes a
    have hgoes {t : State} (ht : doPost o q ws d s = t) : goes .l2Write t :=
      congrArg _ ((l2Write_of_post hflag ho hkind hready).trans ht)
    constructor
    · intro hoff
      exact hgoes (doPost_of_off hactive hoff)
    · intro hon hrun
      refine ⟨?full, ?host, ?device⟩
      case full =>
        intro hfull
        exact hgoes (doPost_of_full hactive hon hrun hfull)
      case host =>
        intro hroom hhost
        exact hgoes (doPost_of_host hactive hon hrun hroom hhost)
      case device =>
        intro hroom hdev pa hc t hdst hfree _
        exact hgoes (doPost_of_device hactive hon hrun hroom hdev hdst hfree)

end Sys2Proof.Laws
end

section
/-!
SUPPORT. The engines: copies, fills, passes and tile-port operations (R60, R83 to R86, R284, R298, R353, R390, R413, R445).
-/

namespace Sys2Proof.Laws

open Sys2Proof.Machine

/-! ## A copy pushes its next slice, or ends (R83, R84, R353) -/

/-- A slice is handed to its port by the tenant's number and the operation's alone: the operation may be replaced before. -/
theorem sendSlice_putOp (o p : Op) (c : Copy) (y : Slice4K) (s : State) : sendSlice o c y (putOp p s) = putOp p (sendSlice o c y s) := by
  unfold sendSlice
  cases y.port <;> rfl

/-- Nothing holds back a copy that may act. -/
theorem unheld_of_acts {o : Op} {c : Copy} {s : State} (hacts : Rules.copyActs o c s) :
    ¬(!o.ready || !opActive s o || saving s o.tenant || !(match c.bar with | some b => barLive s b | none => true) || c.stopped) = true := by
  obtain ⟨-, hready, hactive, hsave, hstop, hlive⟩ := hacts
  rw [hready, hactive, hsave, hstop]
  cases hbar : c.bar with
  | none => simp
  | some b => simp [hlive b hbar]

/-- A `crel` drains a slice's port. -/
def portDraining (s : State) (p : Option Nat) : Bool := match p with | some n => (portOf s n).draining | none => false

theorem portDraining_of_undrained {s : State} {p : Option Nat} (h : Rules.undrained s p) : portDraining s p = false := by
  cases p with
  | none => rfl
  | some n => exact h n rfl

/-- No slice of a copy is to be sent again. -/
theorem find_lost_eq_none {ys : List Slice4K} (h : ∀ y ∈ ys, y.flying = true) : ys.find? (fun y => !y.flying) = none := by
  rw [List.find?_eq_none]
  intro y hy
  rw [h y hy]
  decide

/-- The slice of a copy that comes next, with its lines (R83, R353). -/
def nextSlice (c : Copy) (ps : List Piece) (t : State) : Slice4K :=
  { idx := c.next, len := min c.total (4096 * c.next + 4096) - 4096 * c.next, pieces := ps, va := c.base + c.dstAt (4096 * c.next),
    port := slicePort t c c.next }

/-- A copy that may act prepares its next slice, and pushes it, waits, or stops (R83, R84, R411). -/
def pushSlice (o : Op) (c : Copy) (s : State) : State :=
  match prepSlice o c (c.cut (min c.total (4096 * c.next + 4096)) 4096 (4096 * c.next)) [] s with
  | (.ok ps, t) =>
    sendSlice o c (nextSlice c ps t)
      (putOp { o with kind := .copy { c with next := c.next + 1, out := c.out ++ [nextSlice c ps t] } } t)
  | (.wait va write, t) => agentWait o.die o.tenant va (o.demand va write) t
  | (.bad cause va write, t) => stopCopy o c cause va write t

section

variable {id : Nat} {o : Op} {c : Copy} {s : State} (ho : getN s.ops id = some o) (hacts : Rules.copyActs o c s)
include ho hacts

/-- A copy that may act sends a lost slice again, or ends, or goes on to its next slice. -/
theorem copyPush_of_acts :
    copyPush id s = match c.out.find? fun y => !y.flying with
      | some y =>
        if portDraining s y.port then s
        else putOp { o with kind := .copy { c with out := c.out.map fun z => if z.idx = y.idx then { z with flying := true } else z } }
          (sendSlice o c y s)
      | none =>
        if c.slices ≤ c.next then (if c.out.isEmpty then stampCopy o c s else s)
        else if !permitFree s o c || portDraining s (slicePort s c c.next) then s
        else pushSlice o c s := by
  have hheld := unheld_of_acts hacts
  obtain ⟨hkind, -⟩ := hacts
  unfold copyPush
  rw [ho]
  dsimp only
  rw [hkind]
  dsimp only
  rw [if_neg (by exact hheld)]
  rfl

/-- A slice that lost its port is sent again before any other. -/
theorem copyPush_of_lost {y : Slice4K} (hy : c.out.find? (fun y => !y.flying) = some y) (hport : Rules.undrained s y.port) :
    copyPush id s = sendSlice o c y
      (putOp { o with kind := .copy { c with out := c.out.map fun z => if z.idx = y.idx then { z with flying := true } else z } } s) := by
  rw [copyPush_of_acts ho hacts, hy, sendSlice_putOp]
  dsimp only
  rw [portDraining_of_undrained hport, if_neg Bool.false_ne_true]

/-- With no slice left the copy writes its stamp. -/
theorem copyPush_of_over (hout : c.out = []) (hnext : c.slices ≤ c.next) : copyPush id s = stampCopy o c s := by
  rw [copyPush_of_acts ho hacts, hout, List.find?_nil]
  dsimp only
  rw [if_pos hnext, List.isEmpty_nil, if_pos rfl]

/-- The next slice of a copy that has a permit is prepared. -/
theorem copyPush_of_more (hflying : ∀ y ∈ c.out, y.flying = true) (hmore : c.next < c.slices) (hpermit : permitFree s o c = true)
    (hport : Rules.undrained s (slicePort s c c.next)) : copyPush id s = pushSlice o c s := by
  rw [copyPush_of_acts ho hacts, find_lost_eq_none hflying]
  dsimp only
  rw [if_neg (Nat.not_le.mpr hmore), hpermit, portDraining_of_undrained hport, if_neg (by decide)]

end

/-! ## A line of a slice is written (R83, R84, R390, R411) -/

/-- What remains of a copy of whose slice `y` the line `k` has been written. -/
def afterPiece (o : Op) (c : Copy) (y : Slice4K) (n k : Nat) (t : State) : State :=
  let rest := { y with pieces := y.pieces.eraseIdx k }
  if rest.pieces = [] then sliceDone o c rest t
  else putOp { o with kind := .copy { c with out := c.out.map fun z => if z.idx = n then rest else z } } t

/-- A copy stops where a slice would write part of a granule in error; a destination in the scratchpad has no address. -/
def stopsAt (o : Op) (c : Copy) (n : Nat) (p : Piece) (place : Nat) (s : State) : State :=
  stopCopy o { c with out := c.out.filter fun z => z.idx ≠ n } 0x0d p.va true (errorAt place s)

/-- The place that a line is to be written takes it now. -/
def pieceOpen (o : Op) (c : Copy) (p : Piece) (s : State) : Bool :=
  match c.dst with | .sp core _ => shareOpen s o.blk core | .gl _ => l2Free s (p.place / 128) | .peer _ => false

/-- A line of a slice written at its place. -/
def pieceWritten (o : Op) (c : Copy) (p : Piece) (s : State) : State :=
  match c.dst with
  | .sp core _ => writeScratch o.blk core p.place p.bytes s
  | _ => touchL2 (p.place / 128) (performWrite p.place p.bytes none p.hc s) c.nt

/-- The address at which an error of a line is counted, 0 in a scratchpad. -/
def errorPlace (c : Copy) (p : Piece) : Nat := match c.dst with | .gl _ => p.place | _ => 0

/-- A line whose place takes it is written, or stops the copy. -/
theorem copyWritten_of_open {id n k : Nat} {o : Op} {c : Copy} {y : Slice4K} {p : Piece} {s : State} (ho : getN s.ops id = some o)
    (hkind : o.kind = .copy c) (hy : c.out.find? (fun z => z.idx = n) = some y) (hp : y.pieces[k]? = some p)
    (hopen : pieceOpen o c p s = true) :
    copyWritten id n k s =
      if pieceBad s o c p = true then stopsAt o c n p (errorPlace c p) s else afterPiece o c y n k (pieceWritten o c p s) := by
  unfold copyWritten
  rw [ho]
  dsimp only
  rw [hkind]
  dsimp only
  rw [hy]
  dsimp only
  rw [hp]
  dsimp only
  rw [if_neg (by rw [Bool.not_eq_true', Bool.not_eq_false]; exact hopen)]
  by_cases hbad : pieceBad s o c p = true
  · rw [if_pos hbad, if_pos hbad]
    rfl
  · rw [if_neg hbad, if_neg hbad]
    simp only [afterPiece, List.isEmpty_iff]
    rfl

/-! ## A slice is answered, and a barrier copy has waited too long (R353, R445) -/

/-- A slice over a barrier is answered once it is on its way. -/
theorem sliceAck_of_flying {x : Input} {o : Op} {c : Copy} {y : Slice4K} {va : Nat} {s : State} (ho : getN s.ops x.idx = some o)
    (hkind : o.kind = .copy c) (hdst : c.dst = .peer va) (hy : c.out.find? (fun z => z.idx = x.aux) = some y) (hfly : y.flying = true) :
    sliceAck x s = if x.flag = true then sliceRefused o c y x.word.toNat s else sliceDone o c y s := by
  unfold sliceAck
  rw [ho]
  dsimp only
  rw [hkind]
  dsimp only
  rw [hdst, hy]
  dsimp only
  rw [hfly, if_neg (by decide)]

/-- The first slice of a copy that has not been answered. -/
def firstSlice (c : Copy) : Nat := match c.out with | y :: _ => y.idx | [] => c.next

/-- The slices that a copy still waits for when it gives up what is with its peer. -/
def slicesKept (c : Copy) : List Slice4K := match c.dst with | .peer _ => [] | _ => c.out

/-- A copy over a barrier that has not been live for 4 ms stops, and what is with its peer is given up. -/
theorem copyTimeout_of_dead {id b : Nat} {o : Op} {c : Copy} {s : State} (ho : getN s.ops id = some o) (hkind : o.kind = .copy c)
    (hbar : c.bar = some b) (hready : o.ready = true) (hactive : opActive s o = true) (hstop : c.stopped = false)
    (hdead : barLive s b = false) (hlong : c.since + 4000000 ≤ s.fabric.clock) :
    copyTimeout id s = stopCopy o { c with out := slicesKept c } 0x34 (c.base + c.dstAt (4096 * firstSlice c)) true s := by
  have hpeer : (if (match c.dst with | .peer _ => true | _ => false) = true then [] else c.out) = slicesKept c := by
    unfold slicesKept
    cases c.dst <;> rfl
  have hdue : decide (s.fabric.clock < c.since + fourMs) = false := decide_eq_false (Nat.not_lt.mpr hlong)
  unfold copyTimeout
  rw [ho]
  dsimp only
  rw [hkind]
  dsimp only
  rw [hbar]
  dsimp only
  rw [hready, hactive, hstop, hdead, hdue, if_neg (by decide), ← hpeer]
  rfl

/-! ## A fill is delivered (R86, R87, R413) -/

/-- The addresses of a fill's lines (R86). -/
def fillAddrs (f : Fill) : List Nat := (List.range (f.len / 128)).map fun n => f.va + 128 * n

/-- The report of the first line in error of a fill, if there is one (R413). -/
def reportLines (o : Op) (f : Fill) (ls : List (Option (List Byte))) (t : State) : State :=
  match ls.findIdx? Option.isNone with | some n => postRec (fillRec o 0x0d (f.va + 128 * n)) t | none => t

/-- A fill whose lines are all sound reports none. -/
theorem reportLines_of_sound {o : Op} {f : Fill} {ls : List (Option (List Byte))} (t : State) (h : ∀ l ∈ ls, l.isSome = true) :
    reportLines o f ls t = t := by
  have hnone : ls.findIdx? Option.isNone = none := by
    rw [List.findIdx?_eq_none_iff]
    intro l hl
    rw [Option.isNone_eq_false_iff]
    exact h l hl
  rw [reportLines, hnone]

section

variable {id core : Nat} {o : Op} {f : Fill} {s : State} (ho : getN s.ops id = some o) (hkind : o.kind = .fill f)
  (hready : o.ready = true) (hcore : core ∈ f.cores) (hopen : ∀ b ∈ launchBlocks s f.launch core, shareOpen s b core = true)
include ho hkind hready hcore hopen

/-- The next core of a fill takes its lines, which the first one reads. -/
theorem fillDelivery_of_open :
    fillDelivery id core s = match f.lines with
      | some ls => fillCore o f ls core s
      | none => match fillLines o (fillAddrs f) [] s with
        | (.ok ls, t) => fillCore o f ls core (reportLines o f ls t)
        | (.error (.bad c va _), t) => dropOp id (postRec (fillRec o c va) t)
        | (.error (.wait va _), t) => agentWait o.die o.tenant va (o.demand va false) t
        | (.error (.ok _), t) => t := by
  have hne : f.cores.isEmpty = false := by rw [List.isEmpty_eq_false_iff]; exact List.ne_nil_of_mem hcore
  have hall : (launchBlocks s f.launch core).all (fun b => shareOpen s b core) = true := List.all_eq_true.mpr hopen
  unfold fillDelivery
  rw [ho]
  dsimp only
  rw [hkind]
  dsimp only
  rw [hready, hne, List.contains_iff_mem.mpr hcore, hall, if_neg (by decide), if_neg (by decide), if_neg (by decide),
    fillAddrs]
  generalize fillLines o ((List.range (f.len / 128)).map fun n => f.va + 128 * n) [] s = read
  obtain ⟨e, t⟩ := read
  cases f.lines with
  | some ls => rfl
  | none =>
    cases e with
    | ok ls => rfl
    | error p => cases p <;> rfl

/-- A core of a fill whose lines have been read takes them. -/
theorem fillDelivery_of_read {ls : List (Option (List Byte))} (hlines : f.lines = some ls) :
    fillDelivery id core s = fillCore o f ls core s := by
  rw [fillDelivery_of_open ho hkind hready hcore hopen, hlines]

/-- The first core of a fill takes the lines that it reads, and those in error are reported. -/
theorem fillDelivery_of_lines {ls : List (Option (List Byte))} {t : State} (hlines : f.lines = none)
    (hread : fillLines o (fillAddrs f) [] s = (.ok ls, t)) : fillDelivery id core s = fillCore o f ls core (reportLines o f ls t) := by
  rw [fillDelivery_of_open ho hkind hready hcore hopen, hlines, hread]

/-- A fill whose source meets a fault ends. -/
theorem fillDelivery_of_fault {c va : Nat} {w : Bool} {t : State} (hlines : f.lines = none)
    (hread : fillLines o (fillAddrs f) [] s = (.error (.bad c va w), t)) :
    fillDelivery id core s = dropOp id (postRec (fillRec o c va) t) := by
  rw [fillDelivery_of_open ho hkind hready hcore hopen, hlines, hread]

end

/-! ## The matrix engine and the tile port (R60, R284, R298) -/

/-- A pass that has run its clocks takes its effect, and the engine goes on. -/
theorem passEnd_of_due {cl id till : Nat} {o : Op} {ts : List Nat} {m : Mma} {s : State} (hpass : (s.mat cl).pass = some (id, till))
    (ho : getN s.ops id = some o) (hkind : o.kind = .mat ts (.mma m)) (hdue : till ≤ (s.core o.core).cycle) :
    passEnd cl s =
      let t := runPass o ts m (s.updMat cl fun m => { m with pass := none })
      pumpMatrix cl (if m.passes ≤ m.ran + 1 then matDone o t
        else putOp { o with kind := .mat ts (.mma { m with ran := m.ran + 1 }) } t) := by
  unfold passEnd
  rw [hpass]
  dsimp only
  rw [ho]
  dsimp only
  rw [hkind]
  dsimp only
  rw [if_neg (Nat.not_lt.mpr hdue)]

/-- A tile-port operation that has run its clocks takes its effect, and the engine goes on. -/
theorem portDone_of_due {cl id till : Nat} {o : Op} {ts : List Nat} {c : MatCmd} {s : State} (hport : (s.mat cl).port = some (id, till))
    (ho : getN s.ops id = some o) (hkind : o.kind = .mat ts c) (hdue : till ≤ (s.core o.core).cycle) :
    portDone cl s = pumpMatrix cl (matDone o (portEffect o ts c (s.updMat cl fun m => { m with port := none }))) := by
  unfold portDone
  rw [hport]
  dsimp only
  rw [ho]
  dsimp only
  rw [hkind]
  dsimp only
  rw [if_neg (Nat.not_lt.mpr hdue)]

/-! ## The obligation -/

/-- Settles O41: each event of an engine is the rule of the command that it finds. -/
theorem engineEvents : Obligations.EngineEvents := by
  unfold Obligations.EngineEvents
  intro s x goes
  refine ⟨?push, ?written, ?fill, ?ack, ?timeout, ?pass, ?port⟩
  case push =>
    intro o c ho hacts
    refine ⟨?lost, ?ended, ?next⟩
    case lost =>
      intro y hy hport out
      exact congrArg _ (copyPush_of_lost ho hacts hy hport)
    case ended =>
      intro hout hnext
      exact congrArg _ (copyPush_of_over ho hacts hout hnext)
    case next =>
      intro hflying hmore hpermit hport n stop
      have hpush : copyPush x.idx s = pushSlice o c s := copyPush_of_more ho hacts hflying hmore hpermit hport
      constructor
      · intro ps t hprep y
        have hslice : pushSlice o c s =
            sendSlice o c y (putOp { o with kind := .copy { c with next := c.next + 1, out := c.out ++ [y] } } t) := by
          rw [pushSlice, hprep]
          rfl
        exact congrArg _ (hpush.trans hslice)
      · intro cause va w t hprep
        have hslice : pushSlice o c s = stopCopy o c cause va w t := by
          rw [pushSlice, hprep]
        exact congrArg _ (hpush.trans hslice)
  case written =>
    intro o c y p ho hkind hy hp rest after stops
    constructor
    · intro core off hdst hopen
      have hwritten : copyWritten x.idx x.aux x.word.toNat s =
          if pieceBad s o c p = true then stops 0 else after (writeScratch o.blk core p.place p.bytes s) := by
        rw [copyWritten_of_open ho hkind hy hp (by rw [pieceOpen, hdst]; exact hopen), errorPlace, pieceWritten, hdst]
        rfl
      split_ifs with hbad
      · exact congrArg _ (hwritten.trans (if_pos hbad))
      · exact congrArg _ (hwritten.trans (if_neg hbad))
    · intro va hdst hfree
      have hwritten : copyWritten x.idx x.aux x.word.toNat s =
          if pieceBad s o c p = true then stops p.place
          else after (touchL2 (p.place / 128) (performWrite p.place p.bytes none p.hc s) c.nt) := by
        rw [copyWritten_of_open ho hkind hy hp (by rw [pieceOpen, hdst]; exact hfree), errorPlace, pieceWritten, hdst]
        rfl
      split_ifs with hbad
      · exact congrArg _ (hwritten.trans (if_pos hbad))
      · exact congrArg _ (hwritten.trans (if_neg hbad))
  case fill =>
    intro o f ho hkind hready hcore hopen
    refine ⟨?read, ?lines, ?fault⟩
    case read =>
      intro ls hlines
      exact congrArg _ (fillDelivery_of_read ho hkind hready hcore hopen hlines)
    case lines =>
      intro ls t hlines hread
      have hlands := fillDelivery_of_lines ho hkind hready hcore hopen hlines hread
      constructor
      · intro hsound
        rw [reportLines_of_sound t hsound] at hlands
        exact congrArg _ hlands
      · intro n hbad
        rw [reportLines, hbad] at hlands
        exact congrArg _ hlands
    case fault =>
      intro c va w t hlines hread
      exact congrArg _ (fillDelivery_of_fault ho hkind hready hcore hopen hlines hread)
  case ack =>
    intro o c y va ho hkind hdst hy hfly
    exact congrArg _ (sliceAck_of_flying ho hkind hdst hy hfly)
  case timeout =>
    intro o c b ho hkind hbar hready hactive hstop hdead hlong first out
    exact congrArg _ (copyTimeout_of_dead ho hkind hbar hready hactive hstop hdead hlong)
  case pass =>
    intro id till o ts m hpass ho hkind hdue t
    exact congrArg _ (passEnd_of_due hpass ho hkind hdue)
  case port =>
    intro id till o ts c hport ho hkind hdue
    exact congrArg _ (portDone_of_due hport ho hkind hdue)

end Sys2Proof.Laws
end

section
/-!
SUPPORT. The stream ports of O50: a bundle that stands first in a ring's line does pop.
-/

namespace Sys2Proof.Laws

open Sys2Proof.Machine

/-- A block of whose ring 0 one element stands ready on core 0 (TAIL 1, HEAD 0), and where lane 0 of group 0 is first in line to pop it. -/
def firstInLine : Block :=
  { launch := 0, index := 0, tenant := 0, cluster := 0, n := 1, live := [0], shares := [{ core := 0, low := 0, slots := [0] }],
    qcws := [(0, BitVec.ofNat 128 (2 ^ 112 + 2 ^ 48))], popQ := [(0, [{ key := 0, lanes := 1, reg := 0 }])] }

/-- That bundle, issued again: register 0 is a pop port of ring 0. -/
def secondTry : Gather :=
  { g := { binds := [{ reg := 0, q := 0, push := false }] }, blk := some firstInLine, key := 0, lanes := 1 }

/-- The line at the ring is not empty, yet the bundle does not wait: it is the one that the line waits for. -/
theorem secondTry_pops : firstInLine.pops 0 ≠ [] ∧ (gatherReg 0 secondTry 0).wait = none := by decide +kernel

/-- Refutes O50: it says that a bundle waits whenever the ring's line is not empty. By R82 a bundle waits for those before it alone, and
the bundle that parked first, issued again when its element is there, pops it; the line is not empty, for it stands in it. -/
theorem not_streamPorts : ¬ Obligations.StreamPorts := by
  unfold Obligations.StreamPorts
  rintro ⟨-, hpop, -⟩
  obtain ⟨hline, hpops⟩ := secondTry_pops
  have hwaits : gatherReg 0 secondTry 0 = { secondTry with wait := some 0 } :=
    (hpop 0 0 secondTry { reg := 0, q := 0, push := false } firstInLine { core := 0, low := 0, slots := [0] }
      rfl rfl rfl rfl (by decide +kernel)).2 (Or.inr hline)
  rw [hwaits] at hpops
  cases hpops

end Sys2Proof.Laws
end

section
/-!
SUPPORT. Bytes of memory after a write (R69): the ones written, and the ones beside it.
-/

namespace Sys2Proof.Laws

open Sys2Proof.Machine

/-- Bytes past the end of a write stay. -/
theorem getZ_writeBytes_above (m : ZMap 8) (a x : Nat) (bs : List Byte) (h : a + bs.length ≤ x) :
    getZ (writeBytes m a bs) x = getZ m x := by
  induction bs generalizing m a with
  | nil => rfl
  | cons b bs ih =>
    rw [List.length_cons] at h
    rw [writeBytes, ih _ _ (by omega), getZ_setZ_ne _ _ _ _ (by omega)]

/-- Bytes past the end of a masked write stay. -/
theorem getZ_writeMasked_above (m : ZMap 8) (a x : Nat) (bs : List (Option Byte)) (h : a + bs.length ≤ x) :
    getZ (writeMasked m a bs) x = getZ m x := by
  induction bs generalizing m a with
  | nil => rfl
  | cons b bs ih =>
    rw [List.length_cons] at h
    cases b with
    | none => rw [writeMasked, ih _ _ (by omega)]
    | some b => rw [writeMasked, ih _ _ (by omega), getZ_setZ_ne _ _ _ _ (by omega)]

/-- What was written is read back. -/
theorem readBytes_writeBytes (m : ZMap 8) (a : Nat) (bs : List Byte) : readBytes (writeBytes m a bs) a bs.length = bs := by
  induction bs generalizing m a with
  | nil => rfl
  | cons b bs ih =>
    rw [writeBytes, List.length_cons, readBytes, ih, getZ_writeBytes_below _ _ _ _ (by omega), getZ_setZ_same]

/-- Where a byte is present the masked write puts it; where none is, the old byte stays. -/
theorem getZ_writeMasked_at (m : ZMap 8) (a n : Nat) (bs : List (Option Byte)) (h : n < bs.length) :
    getZ (writeMasked m a bs) (a + n) = (bs.getD n none).getD (getZ m (a + n)) := by
  induction bs generalizing m a n with
  | nil => cases h
  | cons b bs ih =>
    cases n with
    | zero =>
      cases b with
      | none => rw [writeMasked, getZ_writeMasked_below _ _ _ _ (by omega)]; rfl
      | some b => rw [writeMasked, getZ_writeMasked_below _ _ _ _ (by omega), Nat.add_zero, getZ_setZ_same]; rfl
    | succ n =>
      have hn : n < bs.length := Nat.lt_of_succ_lt_succ h
      have hplace : a + (n + 1) = a + 1 + n := by omega
      rw [hplace, List.getD_cons_succ]
      cases b with
      | none => rw [writeMasked, ih _ _ _ hn]
      | some b => rw [writeMasked, ih _ _ _ hn, getZ_setZ_ne _ _ _ _ (by omega)]

/-- Settles O51, by induction on the bytes written. -/
theorem bytesOfMemory : Obligations.BytesOfMemory := by
  unfold Obligations.BytesOfMemory
  intro m a _
  refine ⟨fun bs => ⟨readBytes_writeBytes m a bs, ?_⟩, fun bs => ⟨fun n hn => getZ_writeMasked_at m a n bs hn, ?_⟩⟩
  · rintro x (hbelow | habove)
    · exact getZ_writeBytes_below m a x bs hbelow
    · exact getZ_writeBytes_above m a x bs habove
  · rintro x (hbelow | habove)
    · exact getZ_writeMasked_below m a x bs hbelow
    · exact getZ_writeMasked_above m a x bs habove

end Sys2Proof.Laws
end

section
/-!
SUPPORT. Who answers a next state (R425): every instruction and event, and every clock of a unit that exists.
-/

namespace Sys2Proof.Laws

open Sys2Proof.Machine

/-- The machine goes on. -/
def Answers (o : Host.Outcome State Fault Refusal) : Prop := ∃ t, o = .next t

theorem answers_next (t : State) : Answers (.next t) := ⟨t, rfl⟩

theorem answers_of_eq {o p : Host.Outcome State Fault Refusal} (h : Answers o) (e : o = p) : Answers p := e ▸ h

theorem not_answers_fault {f : Fault} : ¬ Answers (.fault f) := by
  rintro ⟨t, ht⟩
  cases ht

theorem not_answers_refused {r : Refusal} : ¬ Answers (.refused r) := by
  rintro ⟨t, ht⟩
  cases ht

/-- Each arm of `exec` is one operation on the state. -/
theorem answers_exec (i : Instr) (s : State) : Answers (exec i s) := by
  cases i <;> exact answers_next _

theorem answers_runWords (ws : List W32) (s : State) : Answers (runWords ws s) := by
  unfold runWords
  split
  · exact answers_exec _ _
  · exact answers_next _

/-- A partition tries its bundles: by induction on the bundles left to try. -/
theorem answers_issueFirst (core : Nat) (bs : List (Nat × W64)) (s : State) : Answers (issueFirst core bs s) := by
  induction bs generalizing s with
  | nil => exact answers_next _
  | cons b rest ih =>
    obtain ⟨slot, m⟩ := b
    unfold issueFirst
    split
    case h_1 =>
      dsimp only
      split
      · exact ih _
      · exact ih _
      · exact answers_next _
      · have hrun := answers_runWords
        split
        · split
          · exact ih _
          · exact answers_next _
        · exact absurd (answers_of_eq (hrun _ _) ‹_›) not_answers_fault
        · exact absurd (answers_of_eq (hrun _ _) ‹_›) not_answers_refused
    case h_2 => exact ih _

/-- A sequencer without lanes tries its contexts: by induction on the contexts left to try. -/
theorem answers_issueProc (seq : Seq) (unit clock : Nat) (won : Nat → State → State) (ks : List Nat) (s : State) :
    Answers (issueProc seq unit clock won ks s) := by
  induction ks generalizing s with
  | nil => exact answers_next _
  | cons k rest ih =>
    unfold issueProc
    dsimp only
    split
    · exact ih _
    split
    · exact answers_next _
    split
    · exact answers_next _
    have hrun := answers_runWords
    split
    · split
      · exact ih _
      · exact answers_next _
    · exact absurd (answers_of_eq (hrun _ _) ‹_›) not_answers_fault
    · exact absurd (answers_of_eq (hrun _ _) ‹_›) not_answers_refused

theorem answers_coreTurn (core : Nat) (s : State) : Answers (coreTurn core s) := by
  obtain ⟨t, ht⟩ := answers_issueFirst core (candidates (withheld (regroupAt core (s.core core).phase s)).2 core (s.core core).phase)
    (withheld (regroupAt core (s.core core).phase s)).2
  unfold coreTurn
  dsimp only
  rw [ht]
  split <;> exact answers_next _

theorem answers_folbelTurn (n : Nat) (s : State) : Answers (folbelTurn n s) := by
  unfold folbelTurn
  obtain ⟨t, ht⟩ := answers_issueProc .folbel n (s.slice n).clock (fun k s => s.updSlice n fun y => { y with next := (k + 1) % 4 })
    (rounds (s.slice n).next) s
  dsimp only
  rw [ht]
  exact answers_next _

theorem answers_fabricTurn (s : State) : Answers (fabricTurn s) := by
  unfold fabricTurn
  obtain ⟨t, ht⟩ := answers_issueProc .fabric 0 s.fabric.clock (fun k s => { s with fabric := { s.fabric with next := (k + 1) % 4 } })
    (rounds s.fabric.next) s
  dsimp only
  rw [ht]
  exact answers_next _

/-- Whose turn it is exists (R1, R9, R302, R355). -/
def UnitExists : Turn → Prop
  | .core c => c < 128
  | .folbel n => n < 64
  | .fabric => True
  | .station d => d < 4

theorem answers_turnStep {a : Turn} (s : State) (he : UnitExists a) : Answers (turnStep a s) := by
  unfold turnStep
  split
  · exact answers_next _
  cases a with
  | core c => exact answers_of_eq (answers_coreTurn c s) (if_pos he).symm
  | folbel n => exact answers_of_eq (answers_folbelTurn n s) (if_pos he).symm
  | fabric => exact answers_fabricTurn s
  | station d => exact answers_of_eq (answers_next _) (if_pos he).symm

theorem turnStep_missing {a : Turn} {s : State} (cool : s.stoppedHot = false) (he : ¬UnitExists a) :
    turnStep a s = .fault .noSuchUnit := by
  unfold turnStep
  rw [cool, if_neg Bool.false_ne_true]
  cases a with
  | core c => exact if_neg he
  | folbel n => exact if_neg he
  | fabric => exact absurd trivial he
  | station d => exact if_neg he

theorem turnStep_cases (a : Turn) (s : State) : Answers (turnStep a s) ∨ turnStep a s = .fault .noSuchUnit := by
  by_cases he : UnitExists a
  · exact .inl (answers_turnStep s he)
  cases hhot : s.stoppedHot with
  | true => exact .inl ⟨s, by unfold turnStep; exact if_pos hhot⟩
  | false => exact .inr (turnStep_missing hhot he)

theorem answers_eventStep (i : Instr) (x : Input) (s : State) : Answers (eventStep i x s) := by
  unfold eventStep
  split
  · exact answers_next _
  split
  · exact answers_next _
  · exact answers_exec _ _

theorem act_cases (s : State) : Answers (act s) ∨ act s = .fault .noSuchUnit := by
  unfold act
  split
  · exact turnStep_cases _ _
  · exact turnStep_cases _ _
  · exact .inl (answers_eventStep _ _ _)
  · exact .inl (answers_next _)

/-- The end of a step: a state that has reached a missing address stops the machine, any other stands. -/
theorem checkHole_cases (t : State) : (checkHole (.next t) = .next t ∧ t.hole = false) ∨ checkHole (.next t) = .fault .noSuchAddress := by
  cases hh : t.hole with
  | false => exact .inl ⟨checkHole_next hh, rfl⟩
  | true => exact .inr (if_pos hh)

/-- Settles O57: an instruction or an event is one operation on the state, and a clock stops only for a unit that does not exist. -/
theorem stepAnswers : Obligations.StepAnswers := by
  unfold Obligations.StepAnswers
  refine ⟨answers_exec, fun s => ?_, fun s hs he => ?_⟩
  · unfold step
    obtain ⟨t, ht⟩ | hunit := act_cases s
    · rw [ht]
      obtain ⟨hstands, hole⟩ | hmissing := checkHole_cases t
      · exact .inl ⟨t, hstands, hole⟩
      · exact .inr (.inl hmissing)
    · exact .inr (.inr (congrArg checkHole hunit))
  · have hexists : UnitExists s.turn := by
      cases hturn : s.turn <;> rw [hturn] at he <;> exact he
    obtain ⟨t, ht⟩ := answers_turnStep s hexists
    rw [step_of_turn hs, ht]
    obtain ⟨hstands, -⟩ | hmissing := checkHole_cases t
    · rw [hstands]; exact nofun
    · rw [hmissing]; exact nofun

end Sys2Proof.Laws
end

section
/-!
SUPPORT. Arrival counters (R78, R250, R251): one issue of `ctrset` and of `ctrwait`.
-/

namespace Sys2Proof.Laws

open Sys2Proof.Machine

theorem opOf_ctrset (h : Hdr) (f : Form) (s : State) : opOf 0x8e h f s = opCtrset h f s := rfl
theorem opOf_ctrwait (h : Hdr) (f : Form) (s : State) : opOf 0x8f h f s = opCtrwait h f s := rfl

section
variable {i : Instr} {h : Hdr} {f : Form} {g : Group} {s : State} {core : Nat}

/-- `ctrset` on a counter that exists posts its operation behind a release, and its bundle waits for it. -/
theorem exec_ctrset (hv : view i = some (0x8e, h, f)) (hi : Issues 0x8e h f g s) (hslot : Rules.slotOk s)
    (hfree : Rules.memoryFree 0x8e h f g s) (hcounter : counterOf (s.begun g) (issueOf 0x8e h f g s) g = .ok core) :
    let x := issueOf 0x8e h f g s
    exec i s = .next (issued g h s (Rules.holding (enqueueMark s.cur.unit s.cur.sub 2 (.fork s.nextId)
      { Rules.begunId g s with
        ops := putN s.ops s.nextId (Rules.opBy 0x8e h g s (.ctr core x.o.d x.o.opt (g.readS s.cur.clock x.o.a) (w64 (memOffset x g)))) })
      (.op s.nextId))) := by
  refine exec_of_effect hv (by decide) (opOf_ctrset h f s) hi ((memEff_of_free _ hfree).trans ?_)
  dsimp only
  rw [hcounter, ← key_div hslot, ← key_mod hslot, Rules.opBy, ← key_div hslot, ← key_mod hslot]
  rfl

/-- `ctrwait` on a counter that exists and that no `ctrset` of its group is about to change: an answer, or the wait. -/
theorem exec_ctrwait (hv : view i = some (0x8f, h, f)) (hi : Issues 0x8f h f g s) (hslot : Rules.slotOk s)
    (hfree : Rules.memoryFree 0x8f h f g s) (hcounter : counterOf (s.begun g) (issueOf 0x8f h f g s) g = .ok core)
    (hquiet : ctrPending (s.begun g) (issueOf 0x8f h f g s) core (issueOf 0x8f h f g s).o.d = false) :
    let x := issueOf 0x8f h f g s
    let met := counterMet (s.begun g) g.block core x.o.d
    let t := if met then acquireAt s.cur.unit 6 (s.begun g) else s.begun g
    exec i s = .next (issued g h s
      (if x.o.opt = 1 then scalarResult x x.o.a (if met then 1 else 0) t
       else if met then t
       else t.updGroup s.cur.key fun g => g.park x.act (fun _ => .counter (256 * core + x.o.d)) fun _ => nextPc s.cur)) := by
  refine exec_of_effect hv (by decide) (opOf_ctrwait h f s) hi ((memEff_of_free _ hfree).trans ?_)
  dsimp only
  rw [hcounter, ← key_div hslot]
  dsimp only
  rw [hquiet, if_neg Bool.false_ne_true]
  split_ifs <;> rfl

end

/-- Settles O17: each is one issue whose effect the counter's state decides. -/
theorem counterResult : Obligations.CounterResult := by
  unfold Obligations.CounterResult
  intro i opc h f g s core hv hi hslot hfree
  dsimp only
  intro _ hcounter
  constructor
  · rintro rfl
    exact exec_ctrset hv hi hslot hfree hcounter
  · rintro rfl hquiet
    exact exec_ctrwait hv hi hslot hfree hcounter hquiet

end Sys2Proof.Laws
end

section
/-!
SUPPORT. Results that are written at once, and the notes that they leave (R155, R157).
-/

namespace Sys2Proof.Laws

open Sys2Proof.Machine

/-- The operands of an opcode name it. -/
@[simp] theorem operands_opc (g : Group) (opc : Nat) (f : Form) : (operands g opc f).opc = opc := by
  have hform : (opndOf opc f).opc = opc := by
    cases f with
    | single => rfl
    | multi m => cases m <;> rfl
  rw [operands, fixQuad]
  split_ifs <;> exact hform

/-- A write of a scalar register that is ready at once. -/
theorem writeS_now (g : Group) (now r : Nat) (x : W64) :
    g.writeS now r x now = { g with
      sregs := setZ g.sregs r x
      pend := unpend .s r (BitVec.allOnes 64) (trimPend now g.pend)
      score := unscore .s r (BitVec.allOnes 64) g.score
      badRegs := healed .s r (BitVec.allOnes 64) g.badRegs } := by
  rw [Group.writeS, Group.notePend, if_neg (Nat.lt_irrefl now)]

/-- Two writes, one after the other, keep the notes of the registers that neither writes. -/
theorem notesKept_trans {d e : List (RFile × Nat)} {now : Nat} {g : Group} {p p' : List Pend} {sc sc' : List Score}
    {bad bad' : List (RFile × Nat × Nat)} (h : Rules.notesKept d now g p sc bad)
    (h' : Rules.notesKept e now { g with pend := p, score := sc, badRegs := bad } p' sc' bad') :
    Rules.notesKept (d ++ e) now g p' sc' bad' := by
  obtain ⟨hpend, hready, hscore, hbad, hhealed⟩ := h
  obtain ⟨hpend', hready', hscore', hbad', hhealed'⟩ := h'
  refine ⟨fun x hx => ?pend, fun x hx => ?ready, fun x hl hd => ?score, fun b hb => hbad b (hbad' b hb), fun b hb => ?healed⟩
  case pend =>
    rw [List.mem_append, or_assoc]
    rcases hpend' x hx with hin | hx
    · exact .inr (.inl hin)
    · exact (hpend x hx).imp_right .inr
  case ready =>
    rw [List.mem_append]
    rcases hready x hx with hin | hdue | hnone | hx
    · exact .inl (.inl hin)
    · exact .inr (.inl hdue)
    · exact .inr (.inr (.inl hnone))
    · exact (hready' x hx).imp_left .inr
  case score =>
    rw [List.mem_append, not_or] at hd
    exact (hscore' x hl hd.2).trans (hscore x hl hd.1)
  case healed =>
    rw [List.mem_append]
    rcases hhealed b hb with hin | hb
    · exact .inl (.inl hin)
    · exact (hhealed' b hb).imp_left .inr

section
variable {opc : Nat} {h : Hdr} {f : Form} {g G : Group} {s : State}

/-- A scoreboarded scalar result is written at once. -/
theorem scalarResult_now (hlat : latency opc (operands g opc f).typ = none) (t : State) (d : Nat) (x : W64) :
    scalarResult (issueOf opc h f g s) d x (t.setGroup s.cur.key G) =
      t.setGroup s.cur.key (G.writeS s.cur.clock d x s.cur.clock) := by
  have hop : (issueOf opc h f g s).o.opc = opc := operands_opc g opc f
  rw [scalarResult, hop]
  have htyp : latency opc (issueOf opc h f g s).o.typ = none := hlat
  rw [htyp]
  exact (updGroup_of _ _ _ (group_setGroup t _ G)).trans (setGroup_setGroup t _ G _)

/-- The issuing group with D written at once, at the end of the issue. -/
theorem writesScalar_now (d : Nat) (x : W64) :
    Rules.writesScalar g h s d x (Rules.ended g h s ((g.begun s).writeS s.cur.clock d x s.cur.clock)) :=
  ⟨_, _, _, congrArg _ (writeS_now _ _ _ _), notesKept_write⟩

/-- The same with two registers. -/
theorem leaves_two_scalars (a b : Nat) (x y : W64) :
    Rules.leaves g h s [(.s, a), (.s, b)] (fun z => { z with sregs := setZ (setZ g.sregs a x) b y })
      (Rules.ended g h s (((g.begun s).writeS s.cur.clock a x s.cur.clock).writeS s.cur.clock b y s.cur.clock)) := by
  refine ⟨_, _, _, ?_, notesKept_trans (notesKept_write (f := .s) (r := a) (m := BitVec.allOnes 64))
    (notesKept_write (f := .s) (r := b) (m := BitVec.allOnes 64))⟩
  rw [writeS_now, writeS_now]
  rfl

end

end Sys2Proof.Laws
end

section
/-!
SUPPORT. Buffer records, ports and queue control words (R81, R252, R253, R258): one issue of each.
-/

namespace Sys2Proof.Laws

open Sys2Proof.Machine

theorem opOf_mset (h : Hdr) (f : Form) (s : State) : opOf 0x97 h f s = opMset h f s := rfl
theorem opOf_sbind (h : Hdr) (f : Form) (s : State) : opOf 0x91 h f s = opSbind h f s := rfl
theorem opOf_sunbind (h : Hdr) (f : Form) (s : State) : opOf 0x92 h f s = opSunbind h f s := rfl
theorem opOf_qcw (h : Hdr) (f : Form) (s : State) : opOf 0x90 h f s = opQcw h f s := rfl

/-- A sum of four terms. -/
theorem foldl_four (w : Nat → Nat) : (List.range 4).foldl (fun x j => x + w j) 0 = w 0 + w 1 + w 2 + w 3 := by
  rw [show List.range 4 = [0, 1, 2, 3] from rfl]
  simp only [List.foldl_cons, List.foldl_nil, Nat.zero_add]

/-- Four words side by side, the first lowest. -/
theorem foldl_four_words (word : Nat → Nat) : (List.range 4).foldl (fun x j => x + word j * 2 ^ (32 * j)) 0 =
    word 0 + word 1 * 2 ^ 32 + word 2 * 2 ^ 64 + word 3 * 2 ^ 96 := by
  rw [foldl_four, Nat.mul_zero, Nat.pow_zero, Nat.mul_one]

/-- The record of `mset`, word by word. -/
theorem msetRec_eq (x : Iss) (g : Group) :
    let word (j : Nat) : Nat := (g.readS x.now (x.o.a + j)).toNat % 2 ^ 32
    msetRec x g = word 0 + word 1 * 2 ^ 32 + word 2 * 2 ^ 64 + word 3 * 2 ^ 96 :=
  foldl_four_words fun j => (g.readS x.now (x.o.a + j)).toNat % 2 ^ 32

/-- A record whose checks pass. -/
theorem recRefused_of_ok {r : Nat} (hsize : recEsize r < 5) (hmode : bitsOf r 119 116 < 8) (htop : bitsOf r 127 124 = 0)
    (hbit : bitAt r 63 = false) : recRefused r = false := by
  simp [recRefused, htop, hbit, hsize, hmode]

/-- Setting a queue control word of a block that exists. -/
theorem setRing_of_block {s : State} {k q : Nat} {w : W128} {b : Block} (hb : getN s.blocks k = some b) :
    setRing k q w s = { s with
      groups := s.groups.map fun (j, x) => (j, { x with storeQ := x.storeQ.map (Store.forgetPush k q) })
      cores := s.cores.map fun (j, x) => (j, { x with commitQ := x.commitQ.map (Store.forgetPush k q) })
      blocks := putN s.blocks k { b with
        qcws := setZ b.qcws q w
        popped := delN b.popped q
        pushed := delN b.pushed q
        unreleased := delN b.unreleased q } } := by
  rw [setRing, State.updBlock]
  dsimp only
  rw [hb]

section
variable {i : Instr} {h : Hdr} {f : Form} {g : Group} {s : State}

/-- An effect that changes the issuing group alone is that change at the end of the issue. -/
theorem exec_of_change {opc : Nat} {eff : Iss → Group → State → Option State} {F : Group → Group}
    (hv : view i = some (opc, h, f)) (hne : opc ≠ 0xd1) (hop : opOf opc h f s = groupIssue opc h f eff s) (hi : Issues opc h f g s)
    (he : eff (issueOf opc h f g s) g (s.begun g) = some ((s.begun g).updGroup s.cur.key F)) :
    exec i s = .next (s.setGroup s.cur.key (Rules.ended g h s (F (g.begun s)))) := by
  rw [exec_of_effect hv hne hop hi he, issued_updGroup]
  rfl

theorem exec_mset (hv : view i = some (0x97, h, f)) (hi : Issues 0x97 h f g s) {r : Nat}
    (hr : msetRec (issueOf 0x97 h f g s) g = r) (hok : recRefused r = false) :
    exec i s = .next (s.setGroup s.cur.key (Rules.ended g h s
      { g.begun s with mrecs := setZ (g.begun s).mrecs (operands g 0x97 f).d (BitVec.ofNat 128 r) })) := by
  refine exec_of_change (F := fun b => { b with mrecs := setZ b.mrecs (operands g 0x97 f).d (BitVec.ofNat 128 r) })
    hv (by decide) (opOf_mset h f s) hi ?_
  dsimp only
  rw [hr, hok]
  rfl

theorem exec_sbind (hv : view i = some (0x91, h, f)) (hi : Issues 0x91 h f g s)
    (hfree : ∀ b ∈ g.binds, b.reg ≠ (operands g 0x91 f).d) (hroom : g.binds.length < 16) :
    exec i s = .next (s.setGroup s.cur.key (Rules.ended g h s { g.begun s with
      binds := (g.begun s).binds ++ [{ reg := (operands g 0x91 f).d, q := (operands g 0x91 f).a, push := (operands g 0x91 f).opt = 1 }] })) := by
  have hnone : (g.binds.any fun b => b.reg = (issueOf 0x91 h f g s).o.d) = false :=
    List.any_eq_false.mpr fun b hb => by rw [decide_eq_true_eq]; exact hfree b hb
  refine exec_of_change
    (F := fun b => { b with binds := b.binds ++ [{ reg := (operands g 0x91 f).d, q := (operands g 0x91 f).a, push := (operands g 0x91 f).opt = 1 }] })
    hv (by decide) (opOf_sbind h f s) hi ?_
  dsimp only
  rw [hnone, if_neg Bool.false_ne_true, if_neg (Nat.not_le.mpr hroom)]
  rfl

/-- No element of a port's ring is half moved by its group, so `sunbind` ends the binding. -/
theorem exec_sunbind (hv : view i = some (0x92, h, f)) (hi : Issues 0x92 h f g s) {b : Bind}
    (hb : g.binds.find? (fun b => b.reg = (operands g 0x92 f).d) = some b)
    (hwhole : ∀ x, blockOf s g = some x → partStream x b = false) :
    exec i s = .next (s.setGroup s.cur.key (Rules.ended g h s
      { g.begun s with binds := (g.begun s).binds.filter fun b => b.reg ≠ (operands g 0x92 f).d })) := by
  have hpart : ((blockOf (s.begun g) g).map (partStream · b)).getD false = false := by
    have hsame : blockOf (s.begun g) g = blockOf s g := rfl
    rw [hsame]
    cases hx : blockOf s g with
    | none => rfl
    | some x => exact hwhole x hx
  have hport : g.binds.find? (fun b => b.reg = (issueOf 0x92 h f g s).o.d) = some b := hb
  refine exec_of_change (F := fun y => { y with binds := y.binds.filter fun b => b.reg ≠ (operands g 0x92 f).d })
    hv (by decide) (opOf_sunbind h f s) hi ?_
  dsimp only
  rw [hport]
  dsimp only
  rw [hpart]
  rfl

/-- `qcw` reads its word into two registers. -/
theorem exec_qcw_read (hv : view i = some (0x90, h, f)) (hi : Issues 0x90 h f g s) {b : Block} (hb : blockOf s g = some b)
    (hopt : (operands g 0x90 f).opt = 1) :
    let o := operands g 0x90 f
    let old := (getZ b.qcws o.d).toNat
    exec i s = .next (s.setGroup s.cur.key (Rules.ended g h s (((g.begun s).writeS s.cur.clock o.a (w64 old) s.cur.clock).writeS
      s.cur.clock (o.a + 1) (w64 (old / 2 ^ 64)) s.cur.clock))) := by
  dsimp only
  have hblock : blockOf (s.begun g) g = some b := hb
  have hread : (issueOf 0x90 h f g s).o.opt = 1 := hopt
  have hlat : latency 0x90 (operands g 0x90 f).typ = none := rfl
  refine (exec_of_effect (t := (s.begun g).setGroup s.cur.key _) hv (by decide) (opOf_qcw h f s) hi ?_).trans
    (congrArg _ (issued_setGroup g _ h s))
  dsimp only
  rw [hblock]
  dsimp only
  rw [if_pos hread, State.begun, scalarResult_now hlat, scalarResult_now hlat, setGroup_setGroup]
  rfl

/-- No group of the block has bound the ring. -/
theorem ring_unbound {b : Block} {q : Nat} {t : State}
    (hnone : ∀ k ∈ b.live, ∀ x, t.group k = some x → ∀ y ∈ x.binds, y.q ≠ q) :
    (b.live.any fun k => match t.group k with | some g => g.binds.any fun x => x.q = q | none => false) = false := by
  rw [List.any_eq_false]
  intro k hk
  cases hx : t.group k with
  | none => exact Bool.false_ne_true
  | some x => simpa using hnone k hk x hx

/-- `qcw` writes a word that R81 admits. -/
theorem exec_qcw_write (hv : view i = some (0x90, h, f)) (hi : Issues 0x90 h f g s) {b : Block} (hb : blockOf s g = some b)
    (hopt : (operands g 0x90 f).opt ≠ 1) {w : W128}
    (hw : BitVec.ofNat 128 ((g.readS s.cur.clock (operands g 0x90 f).a).toNat +
      2 ^ 64 * (g.readS s.cur.clock ((operands g 0x90 f).a + 1)).toNat) = w)
    (hnone : ∀ k ∈ b.live, ∀ x, (s.begun g).group k = some x → ∀ y ∈ x.binds, y.q ≠ (operands g 0x90 f).d)
    (hcount : (ringOf w).count ≤ (ringOf w).depth) (hgood : ringBad (s.begun g) b w = false) :
    exec i s = .next (issued g h s (wakeStreams g.block (setRing g.block (operands g 0x90 f).d w (s.begun g)))) := by
  refine exec_of_effect hv (by decide) (opOf_qcw h f s) hi ?_
  have hblock : blockOf (s.begun g) g = some b := hb
  have hwrite : (issueOf 0x90 h f g s).o.opt ≠ 1 := hopt
  have hword : BitVec.ofNat 128 ((g.readS (issueOf 0x90 h f g s).now (issueOf 0x90 h f g s).o.a).toNat +
      2 ^ 64 * (g.readS (issueOf 0x90 h f g s).now ((issueOf 0x90 h f g s).o.a + 1)).toNat) = w := hw
  have hfree := ring_unbound (q := (issueOf 0x90 h f g s).o.d) hnone
  dsimp only
  rw [hblock]
  dsimp only
  rw [if_neg hwrite, hword]
  refine (if_neg (Bool.eq_false_iff.mp hfree)).trans ?_
  rw [if_neg (Nat.not_lt.mpr hcount), hgood]
  rfl

end

/-- Settles O14: `mset`, `sbind` and `sunbind` change the issuing group, `qcw` two registers or its block. -/
theorem recordsAndStreams : Obligations.RecordsAndStreams := by
  unfold Obligations.RecordsAndStreams
  intro i opc h f g s hv hi
  dsimp only
  refine ⟨?mset, ?sbind, ?sunbind, ?qcw⟩
  case mset =>
    rintro rfl hsize hmode htop hbit
    exact exec_mset hv hi (msetRec_eq _ g) (recRefused_of_ok hsize hmode htop hbit)
  case sbind =>
    rintro rfl hfree hroom
    exact exec_sbind hv hi hfree hroom
  case sunbind =>
    rintro rfl b hb hwhole
    exact exec_sunbind hv hi hb hwhole
  case qcw =>
    rintro rfl b hb
    refine ⟨fun hopt => ⟨_, exec_qcw_read hv hi hb hopt, leaves_two_scalars _ _ _ _⟩, fun hopt hnone hcount hgood => ?_⟩
    rw [exec_qcw_write hv hi hb hopt rfl hnone hcount hgood, setRing_of_block (s := s.begun g) hb]
    rfl

end Sys2Proof.Laws
end

section
/-!
SUPPORT. Accesses of an issue (R116, R174): who makes them, and what the request queue takes.
-/

namespace Sys2Proof.Laws

open Sys2Proof.Machine

section
variable {opc : Nat} {h : Hdr} {f : Form} {g : Group} {s : State}

/-- An access that an effect makes is the issuing group's; of the state it takes the program counter. -/
theorem newAccess_of_pc (hslot : Rules.slotOk s) (id : Nat) (kind : AccKind) (m : W64) {t : State} (hpc : t.cur.pc = s.cur.pc) :
    newAccess (issueOf opc h f g s) g id kind m t = { Rules.accessOf opc f g kind m s with id := id, owner := id } := by
  rw [newAccess, hpc, Rules.accessOf, ← key_div hslot, ← key_mod hslot]
  rfl

/-- A request queue that takes requests holds no access back. -/
theorem walkHeld_of_taken (hslot : Rules.slotOk s) (hwalk : Rules.walksTaken g s) (vas : List Nat) :
    walkHeld (s.begun g) (s.cur.key / 128) vas = false := by
  have hfull : walksFull (s.begun g) s.cur.unit = false := hwalk
  rw [key_div hslot, walkHeld, hfull, Bool.false_and]

end

/-- Counts of a core stand beside its groups. -/
theorem countOob_setGroup (c n k : Nat) (G : Group) (s : State) :
    countOob c n (s.setGroup k G) = (countOob c n s).setGroup k G := rfl

theorem withCore_oob (s : State) :
    countOob s.cur.unit 1 s = Rules.withCore s fun c => { c with oob := c.oob + 1 } := rfl

end Sys2Proof.Laws
end

section
/-!
SUPPORT. Scalar accesses of a group (R174 to R176): one issue of `sld`, `sst` and `satom`.
-/

namespace Sys2Proof.Laws

open Sys2Proof.Machine

/-- What `sst` does on a group (R175). -/
def scalarStore (x : Iss) (g : Group) (s : State) : Option State :=
  if storeFull g then none
  else match placeScalar x g (issB x g).toNat false true with
    | .bad c sub info => some (scalarFault x c sub info s)
    | .out => some (countOob (x.k / 128) 1 s)
    | .here _ va =>
      if walkHeld s (x.k / 128) [va] then none
      else some (enqueueStore { newAccess x g s.nextId .store x.act s.fresh.2 with scalar := true, nt := bitAt (x.brec g) 123 }
        [scalarReq x va (g.readS x.now x.o.d) 0] s.fresh.2)

section
variable {i : Instr} {opc : Nat} {h : Hdr} {f : Form} {g : Group} {s : State}

theorem opOf_sld (hseq : s.cur.seq = .group) : opOf 0x18 h f s =
    groupIssue 0x18 h f (memEff (scalarLoad (fun _ => .load) true false issB (fun _ _ => 0) fun _ _ => 0)) s := by
  have hop : opOf 0x18 h f s = opSld h f s := rfl
  rw [hop, opSld, hseq]

theorem opOf_sst (hseq : s.cur.seq = .group) : opOf 0x19 h f s = groupIssue 0x19 h f (memEff scalarStore) s := by
  have hop : opOf 0x19 h f s = opSst h f s := rfl
  rw [hop, opSst, hseq]
  rfl

theorem opOf_satom (hseq : s.cur.seq = .group) : opOf 0x1d h f s =
    groupIssue 0x1d h f (memEff (scalarLoad (fun x => if x.o.opt = 7 then .cas else .atom x.o.opt) true true (fun _ _ => 0) issB
      fun x g => w64 ((g.readS x.now x.o.d).toNat % 2 ^ widthOf x.o.typ))) s := by
  have hop : opOf 0x1d h f s = opSatom h f s := rfl
  rw [hop, opSatom, hseq]

/-- The access of a scalar load or atomic starts behind the mark on D. -/
theorem startScalar_begun (hslot : Rules.slotOk s) (kind : AccKind) (va : Nat) (val cmp : W64) :
    let x := issueOf opc h f g s
    startScalar x g kind va val cmp (s.begun g) =
      Rules.startAccess { Rules.accessOf opc f g kind (activeOf g h s) s with scalar := true, nt := bitAt (x.brec g) 123 }
        [scalarReq x va val cmp]
        ((Rules.begunId g s).updGroup s.cur.key fun g => g.mark s.nextId .s x.o.d (BitVec.allOnes 64)) := by
  dsimp only
  have hpc : ((Rules.begunId g s).updGroup s.cur.key fun y =>
      y.mark s.nextId .s (issueOf opc h f g s).o.d (BitVec.allOnes 64)).cur.pc = s.cur.pc := by rw [updGroup_cur]; rfl
  have hacc := newAccess_of_pc (opc := opc) (h := h) (f := f) (g := g) hslot s.nextId kind (activeOf g h s) hpc
  rw [Rules.startAccess]
  exact congrArg (fun a : Access => Rules.startAccess { a with scalar := true, nt := bitAt ((issueOf opc h f g s).brec g) 123 }
    [scalarReq (issueOf opc h f g s) va val cmp] _) hacc

section
variable {kind : Iss → AccKind} {reads writes : Bool} {off val cmp : Iss → Group → W64}

/-- A scalar load or atomic whose element is in bounds starts its access. -/
theorem scalarLoad_here (hslot : Rules.slotOk s) (hwalk : Rules.walksTaken g s) {c va : Nat}
    (hplace : placeScalar (issueOf opc h f g s) g (off (issueOf opc h f g s) g).toNat reads writes = .here c va) :
    scalarLoad kind reads writes off val cmp (issueOf opc h f g s) g (s.begun g) =
      some (startScalar (issueOf opc h f g s) g (kind (issueOf opc h f g s)) va (val (issueOf opc h f g s) g)
        (cmp (issueOf opc h f g s) g) (s.begun g)) := by
  rw [scalarLoad, hplace]
  exact if_neg (Bool.eq_false_iff.mp (walkHeld_of_taken hslot hwalk [va]))

/-- One whose element is suppressed reads 0 and is counted. -/
theorem scalarLoad_out (hslot : Rules.slotOk s) (hlat : latency opc (operands g opc f).typ = none)
    (hplace : placeScalar (issueOf opc h f g s) g (off (issueOf opc h f g s) g).toNat reads writes = .out) :
    scalarLoad kind reads writes off val cmp (issueOf opc h f g s) g (s.begun g) =
      some ((Rules.withCore s fun c => { c with oob := c.oob + 1 }).setGroup s.cur.key
        ((g.begun s).writeS s.cur.clock (operands g opc f).d 0 s.cur.clock)) := by
  have hkey : (issueOf opc h f g s).k / 128 = s.cur.unit := key_div hslot
  rw [scalarLoad, hplace]
  dsimp only
  rw [hkey, State.begun, countOob_setGroup, withCore_oob, scalarResult_now hlat]
  rfl

end

/-- The end of an issue that has changed its core beside the issuing group. -/
theorem issued_withCore (F : Core → Core) (G : Group) :
    issued g h s ((Rules.withCore s F).setGroup s.cur.key G) = (Rules.withCore s F).setGroup s.cur.key (Rules.ended g h s G) :=
  issued_setGroup_of g G h s (Rules.withCore s F)

/-- A store whose element is in bounds enters the store queue. -/
theorem scalarStore_here (hslot : Rules.slotOk s) (hwalk : Rules.walksTaken g s) (hroom : g.storeQ.length < 32) {c va : Nat}
    (hplace : placeScalar (issueOf opc h f g s) g (issB (issueOf opc h f g s) g).toNat false true = .here c va) :
    let x := issueOf opc h f g s
    scalarStore x g (s.begun g) = some (enqueueStore
      { Rules.accessOf opc f g .store (activeOf g h s) s with scalar := true, nt := bitAt (x.brec g) 123 }
      [scalarReq x va (g.readS s.cur.clock x.o.d) 0] (Rules.begunId g s)) := by
  have hnotfull : storeFull g = false := decide_eq_false (Nat.not_le.mpr hroom)
  have hheld := walkHeld_of_taken hslot hwalk [va]
  have hacc := newAccess_begun (opc := opc) (h := h) (f := f) (g := g) hslot .store (activeOf g h s)
  dsimp only
  rw [scalarStore, hnotfull, if_neg Bool.false_ne_true, hplace]
  refine (if_neg (Bool.eq_false_iff.mp hheld)).trans (congrArg some ?_)
  exact congrArg (fun a : Access => enqueueStore { a with scalar := true, nt := bitAt ((issueOf opc h f g s).brec g) 123 } _ _) hacc

/-- One whose element is suppressed writes nothing and is counted. -/
theorem scalarStore_out (hslot : Rules.slotOk s) (hroom : g.storeQ.length < 32)
    (hplace : placeScalar (issueOf opc h f g s) g (issB (issueOf opc h f g s) g).toNat false true = .out) :
    scalarStore (issueOf opc h f g s) g (s.begun g) =
      some ((Rules.withCore s fun c => { c with oob := c.oob + 1 }).setGroup s.cur.key (g.begun s)) := by
  have hnotfull : storeFull g = false := decide_eq_false (Nat.not_le.mpr hroom)
  have hkey : (issueOf opc h f g s).k / 128 = s.cur.unit := key_div hslot
  rw [scalarStore, hnotfull, if_neg Bool.false_ne_true, hplace]
  dsimp only
  rw [hkey, State.begun, countOob_setGroup, withCore_oob]

end

/-- Settles O19: `sld` and `satom` are one load with other operands, `sst` one store. -/
theorem scalarAccess : Obligations.ScalarAccess := by
  unfold Obligations.ScalarAccess
  intro i opc h f g s hv hopc hi hslot hfree
  dsimp only
  intro hroom
  have effect {eff : Iss → Group → State → Option State} {t : State} (hop : opOf opc h f s = groupIssue opc h f (memEff eff) s)
      (he : eff (issueOf opc h f g s) g (s.begun g) = some t) : exec i s = .next (issued g h s t) :=
    exec_of_effect hv (by rcases hopc with rfl | rfl | rfl <;> decide) hop hi ((memEff_of_free _ hfree).trans he)
  rcases hopc with rfl | rfl | rfl
  case inl =>
    constructor
    · intro c va hplace hwalk
      rw [effect (opOf_sld hi.seq) (scalarLoad_here hslot hwalk hplace), startScalar_begun hslot]
      rfl
    · intro hplace
      refine ⟨_, (effect (opOf_sld hi.seq) (scalarLoad_out hslot rfl hplace)).trans (congrArg _ (issued_withCore _ _)), ?_⟩
      exact writesScalar_now _ 0
  case inr.inl =>
    constructor
    · intro c va hplace hwalk
      rw [effect (opOf_sst hi.seq) (scalarStore_here hslot hwalk (hroom rfl) hplace)]
      rfl
    · intro hplace
      exact ⟨_, (effect (opOf_sst hi.seq) (scalarStore_out hslot (hroom rfl) hplace)).trans (congrArg _ (issued_withCore _ _)), rfl⟩
  case inr.inr =>
    constructor
    · intro c va hplace hwalk
      rw [effect (opOf_satom hi.seq) (scalarLoad_here hslot hwalk hplace), startScalar_begun hslot]
      rfl
    · intro hplace
      refine ⟨_, (effect (opOf_satom hi.seq) (scalarLoad_out hslot rfl hplace)).trans (congrArg _ (issued_withCore _ _)), ?_⟩
      exact writesScalar_now _ 0

end Sys2Proof.Laws
end

section
/-!
SUPPORT. The cursor names who issues: a trap taken, a barrier tested, a write-back pushed and a window changed in the middle of an issue
leave it.
-/

namespace Sys2Proof.Laws

open Sys2Proof.Machine

/-- What each of many steps leaves, all of them leave. -/
theorem foldl_cur {α : Type} {f : State → α → State} (hf : ∀ t x, (f t x).cur = t.cur) (l : List α) (s : State) :
    (l.foldl f s).cur = s.cur := by
  induction l generalizing s with
  | nil => rfl
  | cons x xs ih => rw [List.foldl_cons, ih, hf]

@[simp] theorem postRec_cur (r : FaultRec) (s : State) : (postRec r s).cur = s.cur := by
  unfold postRec
  split
  · split <;> rfl
  · rfl

@[simp] theorem acquireAt_cur (core : Nat) (scope : Scope) (s : State) : (acquireAt core scope s).cur = s.cur := by
  unfold acquireAt
  split <;> rfl

@[simp] theorem barrierTest_cur (blk j : Nat) (s : State) : (barrierTest blk j s).cur = s.cur := by
  unfold barrierTest
  split
  · rfl
  split
  · exact (updBlock_cur _ _ _).trans (foldl_cur (fun t k => by rw [acquireAt_cur, updGroup_cur]) _ s)
  · rfl

@[simp] theorem exitLanes_cur (k : Nat) (m : W64) (s : State) : (exitLanes k m s).cur = s.cur := by
  unfold exitLanes
  split
  · rfl
  · exact (foldl_cur (fun t j => barrierTest_cur _ j t) _ _).trans (updBlock_cur _ _ _)

@[simp] theorem retireGroup_cur (k : Nat) (s : State) : (retireGroup k s).cur = s.cur := by
  unfold retireGroup
  split
  · rfl
  split
  · rfl
  split
  · split <;> rfl
  · dsimp only
    split <;> exact updBlock_cur _ _ _

@[simp] theorem takeTrap_cur (k : Nat) (c : TrapCtx) (fs : List LaneFault) (s : State) : (takeTrap k c fs s).cur = s.cur := by
  have posted (f : List LaneFault → FaultRec) (l : List (List LaneFault)) (t : State) :
      (l.foldl (fun s fs => postRec (f fs) s) t).cur = t.cur := foldl_cur (fun t fs => postRec_cur (f fs) t) l t
  have entered (p : List LaneFault → Bool) (f : List LaneFault → FaultRec) (l : List (List LaneFault)) (t : State) :
      (l.foldl (fun s fs => if p fs then s else postRec (f fs) s) t).cur = t.cur := by
    refine foldl_cur (fun t fs => ?_) l t
    split
    · rfl
    · exact postRec_cur _ t
  unfold takeTrap
  split
  · rfl
  dsimp only
  split
  · rw [posted, entered, setGroup_cur]
  · rw [retireGroup_cur, exitLanes_cur, posted, posted, entered, setGroup_cur]

@[simp] theorem precise_cur (k : Nat) (fs : List LaneFault) (s : State) : (precise k fs s).cur = s.cur := by
  unfold precise
  split
  · rfl
  · exact takeTrap_cur k _ fs s

@[simp] theorem countError_cur (cause : Nat) (s : State) : (countError cause s).cur = s.cur := by
  unfold countError
  split <;> rfl

@[simp] theorem updEntry_cur (blk core win e : Nat) (f : StashEntry → StashEntry) (s : State) :
    (updEntry blk core win e f s).cur = s.cur := updBlock_cur _ _ _

@[simp] theorem wbFault_cur (core : Nat) (w : Who) (va : Nat) (s : State) : (wbFault core w va s).cur = s.cur := by
  unfold wbFault
  dsimp only
  split
  · rw [postRec_cur, countError_cur]
  · rw [takeTrap_cur, countError_cur]

theorem pushWriteBack_cur (core : Nat) (w : Who) (pline va : Nat) (bs : List (Option Byte)) (bad : Nat → Bool)
    {drop : State → State} (hdrop : ∀ t, (drop t).cur = t.cur) (s : State) :
    (pushWriteBack core w pline va bs bad drop s).cur = s.cur := by
  unfold pushWriteBack
  split
  · rfl
  dsimp only
  rw [updCore_cur]
  split
  · rw [wbFault_cur, hdrop]
  · rfl

@[simp] theorem flushStash_cur (core : Nat) (w : Who) (p : Nat → Nat → Nat → Bool) (s : State) :
    (flushStash core w p s).cur = s.cur :=
  foldl_cur (fun t _ => (pushWriteBack_cur _ _ _ _ _ _ (fun u => updEntry_cur _ _ _ _ _ u) _).trans (updEntry_cur _ _ _ _ _ t)) _ s

@[simp] theorem setWindow_cur (blk core w : Nat) (x : Option Window) (s : State) : (setWindow blk core w x s).cur = s.cur :=
  updBlock_cur _ _ _

@[simp] theorem stashEffect_cur (x : Iss) (g : Group) (m : Option (Nat × Nat × Nat)) (s : State) :
    (stashEffect x g m s).cur = s.cur := by
  unfold stashEffect
  dsimp only
  split
  · split
    · exact setWindow_cur _ _ _ _ s
    · rfl
  · rfl
  · split
    · exact setWindow_cur _ _ _ _ s
    · rfl
  · exact setWindow_cur _ _ _ _ s

end Sys2Proof.Laws
end

section
/-!
SUPPORT. Fences, prefetches and stash windows (R97, R241 to R243): one issue of each.
-/

namespace Sys2Proof.Laws

open Sys2Proof.Machine

theorem opOf_fence (h : Hdr) (f : Form) (s : State) : opOf 0x87 h f s = opFence h f s := rfl
theorem opOf_stash (h : Hdr) (f : Form) (s : State) : opOf 0x88 h f s = opStash h f s := rfl
theorem opOf_pref (h : Hdr) (f : Form) (s : State) : opOf 0x89 h f s = opPref h f s := rfl

/-- The lines of the elements that a place function admits, one by one. -/
theorem lines_of_places (place : Nat → Nat → Place) (ks ls : List Nat) :
    ((ks.flatMap fun k => ls.filterMap fun l =>
      match place k l with | .here _ va => some (k, l, va) | _ => none).map fun x : Nat × Nat × Nat => x.2.2 / 128) =
    ks.flatMap fun k => ls.filterMap fun l => match place k l with | .here _ va => some (va / 128) | _ => none := by
  rw [List.map_flatMap]
  congr 1
  funext k
  rw [List.map_filterMap]
  congr 1
  funext l
  cases place k l <;> rfl

section
variable {i : Instr} {h : Hdr} {f : Form} {g : Group} {s : State}

/-- `fence` makes its access, behind its marker where it releases, and holds the group's memory instructions. -/
theorem exec_fence (hv : view i = some (0x87, h, f)) (hi : Issues 0x87 h f g s) (hslot : Rules.slotOk s)
    (hfree : Rules.memoryFree 0x87 h f g s) :
    let x := issueOf 0x87 h f g s
    let t := match x.rel with
      | some sc => enqueueMark s.cur.unit s.cur.sub sc (.access s.nextId) (Rules.begunId g s)
      | none => Rules.begunId g s
    exec i s = .next (issued g h s (pumpFences s.cur.unit s.cur.sub (putAcc
      { Rules.accessOf 0x87 f g .fence (activeOf g h s) s with acq := x.acq, rel := x.rel, released := x.rel.isNone }
      (t.updGroup s.cur.key fun g => { g with memHold := g.memHold ++ [s.nextId] })))) := by
  have hacc := newAccess_begun (opc := 0x87) (h := h) (f := f) (g := g) hslot .fence (activeOf g h s)
  refine exec_of_effect hv (by decide) (opOf_fence h f s) hi ((memEff_of_free _ hfree).trans ?_)
  dsimp only
  have hact : (issueOf 0x87 h f g s).act = activeOf g h s := rfl
  rw [hact, hacc]
  rfl

/-- `pref` starts one access of the distinct lines that it names. -/
theorem exec_pref (hv : view i = some (0x89, h, f)) (hi : Issues 0x89 h f g s) (hslot : Rules.slotOk s)
    (hfree : Rules.memoryFree 0x89 h f g s) (hwalk : Rules.walksTaken g s)
    (hfits : typeFits ((issueOf 0x89 h f g s).brec g) (issueOf 0x89 h f g s).o.typ = true) :
    let x := issueOf 0x89 h f g s
    let r := x.brec g
    let lines := sortNat ((List.range x.o.n).flatMap fun k => (lanesOf x.act).filterMap fun l =>
      match placeGlobal x g r true false k l with | .here _ va => some (va / 128) | _ => none)
    exec i s = .next (issued g h s (Rules.startAccess
      { Rules.accessOf 0x89 f g (.pref (x.o.opt = 1)) 0 s with nt := bitAt r 123, slot := 128 }
      (lines.map fun l => { lane := 0, pos := 0, va := 128 * l, size := 128, dst := 0 }) (Rules.begunId g s))) := by
  let x := issueOf 0x89 h f g s
  have hacc := newAccess_begun (opc := 0x89) (h := h) (f := f) (g := g) hslot (.pref (x.o.opt = 1)) 0
  have hlines := lines_of_places (placeGlobal x g (x.brec g) true false) (List.range x.o.n) (lanesOf x.act)
  refine exec_of_effect hv (by decide) (opOf_pref h f s) hi ((memEff_of_free _ hfree).trans ?_)
  dsimp only
  rw [hfits]
  refine (if_neg Bool.false_ne_true).trans ((if_neg (Bool.eq_false_iff.mp (walkHeld_of_taken hslot hwalk _))).trans ?_)
  rw [hacc]
  exact congrArg (fun ls => some (Rules.startAccess
      { Rules.accessOf 0x89 f g (.pref (x.o.opt = 1)) 0 s with nt := bitAt (x.brec g) 123, slot := 128 }
      ((sortNat ls).map fun l => { lane := 0, pos := 0, va := 128 * l, size := 128, dst := 0 }) (Rules.begunId g s))) hlines

/-- The stores before a `stash` have left the store queue. -/
theorem no_store_before (hempty : ∀ e ∈ g.storeQ, e.mark ≠ none) : (g.storeQ.any fun e => e.mark.isNone) = false := by
  rw [List.any_eq_false]
  intro e he hnone
  exact hempty e he (Option.isNone_iff_eq_none.mp hnone)

/-- The access of a `stash` and the marker behind its write-backs: everything after the change of its window. -/
def stashed (f : Form) (g : Group) (h : Hdr) (s t : State) : State :=
  let n := t.nextId
  let u := { t with nextId := n + 1 }.updGroup s.cur.key fun g => { g with memHold := g.memHold ++ [n] }
  putAcc { Rules.accessOf 0x88 f g .fence (activeOf g h s) s with id := n, owner := n, released := false }
    (u.updCore s.cur.unit fun c => { c with commitQ := c.commitQ ++ [Rules.marker n g s 0 (.access n)] })

/-- `stash` writes its window back, changes it, and holds the group's memory instructions. -/
theorem exec_stash (hv : view i = some (0x88, h, f)) (hi : Issues 0x88 h f g s) (hslot : Rules.slotOk s)
    (hfree : Rules.memoryFree 0x88 h f g s) {m : Option (Nat × Nat × Nat)}
    (hmap : (if (issueOf 0x88 h f g s).o.opt = 0 then stashMap (s.begun g) (issueOf 0x88 h f g s) g else none) = m)
    (hok : (issueOf 0x88 h f g s).o.opt = 0 → m ≠ none)
    (hidle : windowBusy (s.begun g) g.block s.cur.unit (issueOf 0x88 h f g s).o.d = false)
    (hempty : ∀ e ∈ g.storeQ, e.mark ≠ none) :
    let x := issueOf 0x88 h f g s
    exec i s = .next (issued g h s (stashed f g h s (stashEffect x g m (flushStash s.cur.unit
      { slot := s.cur.sub, tenant := g.tenant, lanes := activeOf g h s, pc := s.cur.pc }
      (fun b w _ => b = g.block && w = x.o.d) (s.begun g))))) := by
  let x := issueOf 0x88 h f g s
  have hmapped : (x.o.opt = 0 && m.isNone) = false := by
    rw [Bool.and_eq_false_iff, decide_eq_false_iff_not]
    by_cases hopt : x.o.opt = 0
    · right
      cases m with
      | none => exact absurd rfl (hok hopt)
      | some _ => rfl
    · exact .inl hopt
  have hready : (windowBusy (s.begun g) g.block (s.cur.key / 128) x.o.d || g.storeQ.any fun e => e.mark.isNone) = false := by
    rw [key_div hslot, hidle, no_store_before hempty]
    rfl
  refine exec_of_effect hv (by decide) (opOf_stash h f s) hi ((memEff_of_free _ hfree).trans ?_)
  dsimp only
  rw [hmap]
  refine (if_neg (Bool.eq_false_iff.mp hmapped)).trans ((if_neg (Bool.eq_false_iff.mp hready)).trans ?_)
  have hunit : (issueOf 0x88 h f g s).k / 128 = s.cur.unit := key_div hslot
  have hsub : (issueOf 0x88 h f g s).k % 128 = s.cur.sub := key_mod hslot
  rw [hunit, hsub]
  generalize ht : stashEffect (issueOf 0x88 h f g s) g m (flushStash s.cur.unit
    { slot := s.cur.sub, tenant := g.tenant, lanes := (issueOf 0x88 h f g s).act, pc := (s.begun g).cur.pc }
    (fun b w _ => b = g.block && w = (issueOf 0x88 h f g s).o.d) (s.begun g)) = t
  have hpc : t.fresh.2.cur.pc = s.cur.pc := by rw [← ht, fresh_cur, stashEffect_cur, flushStash_cur]; rfl
  have hacc := newAccess_of_pc (opc := 0x88) (h := h) (f := f) (g := g) hslot t.fresh.1 .fence (issueOf 0x88 h f g s).act hpc
  rw [hacc]
  refine congrArg some ?_
  rw [← ht]
  rfl

end

/-- Settles O21: each is one issue; what a `stash` flushes and changes leaves the issuing cursor. -/
theorem fencesAndHints : Obligations.FencesAndHints := by
  unfold Obligations.FencesAndHints
  intro i opc h f g s hv hi hslot hfree
  dsimp only
  refine ⟨?fence, ?pref, ?stash⟩
  case fence =>
    rintro rfl
    exact exec_fence hv hi hslot hfree
  case pref =>
    rintro rfl hwalk hfits
    exact exec_pref hv hi hslot hfree hwalk hfits
  case stash =>
    rintro rfl hok hidle hempty
    exact exec_stash hv hi hslot hfree rfl hok hidle hempty

end Sys2Proof.Laws
end

section
/-!
SUPPORT. Lines of the L2 slices (R71, R303 to R305): how one is installed, and what a posted event leaves.
-/

namespace Sys2Proof.Laws

open Sys2Proof.Machine

/-- Posting an event changes its slice alone. -/
@[simp] theorem postEvent_l2 (n : Nat) (e : SliceEvent) (s : State) : (postEvent n e s).2.l2 = s.l2 := by
  unfold postEvent
  dsimp only
  split
  · split <;> rfl
  split
  · rfl
  split <;> rfl

theorem l2_of_postEvent {n : Nat} {e : SliceEvent} {s u : State} {p : Posted} (h : postEvent n e s = (p, u)) : u.l2 = s.l2 := by
  rw [← postEvent_l2 n e s, h]

/-- A line that is there is changed in its place. -/
theorem updL2_of_line {s : State} {pline : Nat} {l : L2Line} (h : getN s.l2 pline = some l) (f : L2Line → L2Line) :
    s.updL2 pline f = { s with l2 := putN s.l2 pline (f l) } := by
  rw [State.updL2, h]

/-- A line enters where there is room, or where room has been made: as the newest, or without an age. -/
theorem installL2_eq (pline : Nat) (tag : Option (Nat × Nat)) (filling nt : Bool) (s : State) :
    let u := l2Room pline s
    installL2 pline tag filling nt s = { u with
      l2 := putN u.l2 pline { filling, tag, used := if nt then 0 else u.l2Tick + 1 }
      l2Tick := if nt then u.l2Tick else u.l2Tick + 1 } := by
  dsimp only
  rw [installL2, useL2]
  cases nt with
  | true => rfl
  | false =>
    dsimp only
    rw [if_neg Bool.false_ne_true, getN_putN_same]
    dsimp only
    rw [putN_putN]
    rfl

/-- A miss of a line that its slice can take. -/
theorem startFill_of_room {pline : Nat} {tag : Option (Nat × Nat)} {v : Option Nat} {nt : Bool} {s : State}
    (habsent : getN s.l2 pline = none) (hroom : l2Shut (evictChoice v pline s) pline = false) :
    startFill pline tag v s nt = match tag with
      | none => installL2 pline tag true nt (evictChoice v pline s)
      | some (t, line) => (postEvent (sliceOfLine pline) { kind := 0, tenant := t, line, pline }
          (installL2 pline tag true nt (evictChoice v pline s))).2 := by
  rw [startFill, habsent]
  dsimp only
  rw [hroom]
  rfl

section
variable {s : State} {pline : Nat} {l : L2Line}

/-- The line of a fill whose data have arrived, and whether a handler holds it. -/
def filled (pline : Nat) (l : L2Line) (held : Bool) (s : State) : State :=
  { s with l2 := putN s.l2 pline { l with filling := false, held := held || l.held } }

theorem fillArrives_untagged (hl : getN s.l2 pline = some l) (hfilling : l.filling = true) (htag : l.tag = none) :
    fillArrives pline s = filled pline l false s := by
  rw [fillArrives, hl]
  dsimp only
  rw [hfilling, htag]
  exact updL2_of_line hl _

/-- The end of a fill of a tagged line, by what became of its FILL event. -/
def filledAs (pline : Nat) (l : L2Line) (t line : Nat) (p : Posted) (u : State) : State :=
  match p with
  | .taken => filled pline l true u
  | .unmatched => filled pline l false u
  | .full => (filled pline l true u).updSlice (sliceOfLine pline) fun y => { y with
      lateFills := y.lateFills ++ [{ kind := 1, tenant := t, line, pline, loading := (u.handler t).busy }] }

/-- A tagged line: its FILL event decides whether a handler holds it. -/
theorem fillArrives_tagged (hl : getN s.l2 pline = some l) (hfilling : l.filling = true) {t line : Nat} (htag : l.tag = some (t, line))
    {p : Posted} {u : State} (hpost : postEvent (sliceOfLine pline) { kind := 1, tenant := t, line, pline } s = (p, u)) :
    fillArrives pline s = filledAs pline l t line p u := by
  have hlu : getN u.l2 pline = some l := by rw [l2_of_postEvent hpost, hl]
  rw [fillArrives, hl]
  dsimp only
  rw [hfilling, htag]
  dsimp only
  rw [hpost]
  cases p with
  | taken => exact updL2_of_line hlu _
  | unmatched => exact updL2_of_line hlu _
  | full =>
    dsimp only
    rw [updL2_of_line hlu]
    rfl

end

end Sys2Proof.Laws
end

section
/-!
SUPPORT. Walks that end, misses, prefetches and combining-buffer lines (R88, R113 to R117, R122): one event of each.
-/

namespace Sys2Proof.Laws

open Sys2Proof.Machine

/-- A walk whose lines no handler holds ends with what it found. -/
theorem walkDone_of_open {d k : Nat} {w : WalkReq} {s : State} (hw : (s.die d).walks[k]? = some w) (hwait : w.wait = none)
    (hopen : walkOpen s d w.tenant (w.vpage * 2 ^ 16) w.top = true) :
    let t := noteWalk d w.tenant (w.vpage * 2 ^ 16) s w.top
    walkDone d k s = match walk s d w.tenant (w.vpage * 2 ^ 16) w.top with
      | .fault c => walkFaults d w c t
      | .wait pline v0 => walkWaits d k w pline v0 t
      | .found y => walkFinds d w y t := by
  dsimp only
  rw [walkDone, hw]
  dsimp only
  rw [hwait, hopen]
  rfl

/-- The miss that an event names starts a fill. -/
theorem l2Miss_of_miss {s : State} {pline : Nat} {tag : Option (Nat × Nat)} {nt : Bool}
    (hmiss : missOf s s.input = some (pline, tag, nt)) : l2Miss s = startFill pline tag s.input.victim s nt := by
  rw [l2Miss, hmiss]

/-- A prefetch of this node's memory, for a core and a tenant that exist. -/
theorem hardwarePrefetch_here {core tenant va : Nat} {s : State} (hnode : nodeOf va = s.regs.nodeId) (hcore : core < 128)
    (htenant : tenant < 16) :
    let a : Access := { id := s.nextId, owner := s.nextId, core, slot := 128, tenant, kind := .pref true, pc := 0, lanes := 0, typ := 0,
                        reqs := [] }
    let r := trReqs a [{ lane := 0, pos := 0, va := 128 * (va / 128), size := 128, dst := 0 }] s.fresh.2
    hardwarePrefetch core tenant va s = settleAccess s.nextId (putAcc { a with reqs := r.1 } r.2) := by
  have hexists : (nodeOf va ≠ s.regs.nodeId || decide (128 ≤ core) || decide (16 ≤ tenant)) = false := by
    simp [hnode, Nat.not_le.mpr hcore, Nat.not_le.mpr htenant]
  exact if_neg (Bool.eq_false_iff.mp hexists)

/-- A combining-buffer line of age 256 clocks leaves. -/
theorem combineTimeout_due {d k : Nat} {l : CombLine} {s : State} (hl : (s.station d).comb[k]? = some l)
    (hdue : l.since + 256 ≤ (s.core l.core).cycle) :
    combineTimeout d k s = flushComb d (fun m => m.core = l.core && m.line = l.line && m.tenant = l.tenant) s := by
  rw [combineTimeout, hl]
  exact if_neg (Nat.not_lt.mpr hdue)

/-- Settles O39: each event is the one operation that its state admits. -/
theorem linesAndWalks : Obligations.LinesAndWalks := by
  unfold Obligations.LinesAndWalks
  intro s
  dsimp only
  refine ⟨?walk, ?miss, ?fill, ?prefetch, ?combine⟩
  case walk =>
    intro w hw hwait hopen
    have hdone := walkDone_of_open hw hwait hopen
    refine ⟨fun c hc => congrArg Host.Outcome.next (hdone.trans ?_), fun l v0 hl => congrArg Host.Outcome.next (hdone.trans ?_),
      fun y hy => congrArg Host.Outcome.next (hdone.trans ?_)⟩
    · rw [hc]
    · rw [hl]
    · rw [hy]
  case miss =>
    intro pline tag nt hmiss habsent hroom
    have hfill := (l2Miss_of_miss hmiss).trans (startFill_of_room habsent hroom)
    rw [installL2_eq] at hfill
    constructor
    · rintro rfl
      exact congrArg Host.Outcome.next hfill
    · rintro t line rfl
      exact congrArg Host.Outcome.next hfill
  case fill =>
    intro l hl hfilling
    refine ⟨fun htag => congrArg Host.Outcome.next (fillArrives_untagged hl hfilling htag), fun t line htag => ⟨?_, ?_, ?_⟩⟩
    · exact fun u hpost => congrArg Host.Outcome.next (fillArrives_tagged hl hfilling htag hpost)
    · exact fun u hpost => congrArg Host.Outcome.next (fillArrives_tagged hl hfilling htag hpost)
    · exact fun u hpost => congrArg Host.Outcome.next (fillArrives_tagged hl hfilling htag hpost)
  case prefetch =>
    intro hnode hcore htenant
    exact congrArg Host.Outcome.next (hardwarePrefetch_here hnode hcore htenant)
  case combine =>
    intro l hl hdue
    exact congrArg Host.Outcome.next (combineTimeout_due hl hdue)

end Sys2Proof.Laws
end

section
/-!
SUPPORT. Commits (R74, R92, R101): when the head of a store queue leaves it, and how.
-/

namespace Sys2Proof.Laws

open Sys2Proof.Machine

section
variable {core slot : Nat} {g : Group} {e : Store} {s : State}

/-- What a commit waits for, as the machine tests it. -/
theorem mayCommit_of_commits (hc : Rules.Commits core slot g e s) : mayCommit s core slot g e = true := by
  obtain ⟨hfate, hforks, hturn, holder, hwatched, hbehind, -, -⟩ := hc
  have hgone : (e.forks.any fun o => (getN s.ops o).isSome) = false :=
    List.any_eq_false.mpr fun o ho => by rw [hforks o ho]; exact Bool.false_ne_true
  rw [mayCommit, hfate, hgone, decide_eq_true hturn, holder, hwatched]
  dsimp only [Bool.and_true, Bool.true_and, Bool.not_false, List.isEmpty_nil]
  split
  next l hl => rw [hbehind l hl]; rfl
  next => rfl

/-- Where no lane meets an error, none is dropped. -/
theorem dropBadLanes_of_sound {id : Nat} (hg : s.group (gkey core slot) = some g)
    (hsound : badStoreLanes s core g.block (g.storeQ.filter fun f => f.id = id && f.mark.isNone) = []) :
    dropBadLanes core slot id s = s := by
  rw [dropBadLanes, hg]
  dsimp only
  rw [hsound]
  rfl

/-- A head that may leave makes room in a full combining buffer, or enters the commit order. -/
theorem storeCommit_of_commits {rest : List Store} {v : Option Nat} (hg : s.group (gkey core slot) = some g)
    (hq : g.storeQ = e :: rest) (hc : Rules.Commits core slot g e s) :
    let k := gkey core slot
    let u := (s.setGroup k { g with storeQ := rest }).updCore core fun c => { c with lastCommit := some c.cycle }
    storeCommit core slot v s = if combShut s core g.block e then retireGroup k (wakeSpills k (combYield g.block e s))
      else retireGroup k (wakeSpills k (commitEntry core g.block e (evictL1 core v u))) := by
  have hmay := mayCommit_of_commits hc
  have hwhole : (if e.mark.isNone then dropBadLanes core slot e.id s else s) = s := by
    split
    next hm => exact dropBadLanes_of_sound hg (hc.sound (Option.isNone_iff_eq_none.mp hm))
    next => rfl
  dsimp only
  rw [storeCommit, hg]
  dsimp only
  rw [hq]
  dsimp only
  rw [hmay, hc.kept, hwhole, hg, Option.bind_some, hq, List.head?_cons, Option.map_some]
  dsimp only
  rw [hmay, Bool.not_true, Bool.or_false, decide_eq_false (not_not_intro rfl), hq]
  rfl

end

end Sys2Proof.Laws
end

section
/-!
SUPPORT. The commit order at L2 (R75, R95, R97, R101, R390): what performing an entry does, by what it is.
-/

namespace Sys2Proof.Laws

open Sys2Proof.Machine

/-- Bytes of a line, some of them present, are performed. -/
theorem performWrite_line {bs : List (Option Byte)} (hsome : ∃ b ∈ bs, b.isSome = true) (pline core : Nat) (hc : Bool) (s : State) :
    performWrite (128 * pline) bs (some core) hc s = Rules.written pline bs core hc s := by
  obtain ⟨b, hb, hpresent⟩ := hsome
  have hbytes : ¬(bs.all Option.isNone) = true := fun hall => by
    have hnone := List.all_eq_true.mp hall b hb
    rw [Option.isNone_iff_eq_none.mp hnone] at hpresent
    cases hpresent
  have hline : 128 * pline / 128 = pline := Nat.mul_div_cancel_left pline (by decide)
  rw [performWrite, if_neg hbytes, hline]
  rfl

section
variable {core : Nat} {e : Store} {s : State}

/-- Where no granule in error is covered in part every byte is good. -/
theorem goodBytes_of_sound (h : badGranules s e.pline e.bytes = []) : e.goodBytes core s = (e.bytes, s) := by
  rw [Store.goodBytes, h]

/-- Granules in error that an entry covers in part keep their bytes; the entry's lanes have the report. -/
theorem goodBytes_of_bad {n : Nat} {ns : List Nat} (h : badGranules s e.pline e.bytes = n :: ns) (hstore : e.writeBack = false) :
    let va := (e.parts.headD { lane := 0, pos := 0, va := 0, bytes := [] }).va
    e.goodBytes core s = (withoutGranules e.bytes fun m => (badGranules s e.pline e.bytes).contains (16 * e.pline + m),
      wbFault core { slot := e.slot, tenant := e.tenant, lanes := e.lanes, pc := e.pc } (va - va % 128 + 8 * (n % 16)) s) := by
  dsimp only
  rw [Store.goodBytes, h]
  dsimp only
  rw [hstore]
  rfl

/-- A store to a page with a leaf writes its good bytes. -/
theorem performEntry_found {line : Nat} {y : Xlat} {bs : List (Option Byte)} {t : State} (hm : e.mark = none) (hd : e.dest = .virt line)
    (ht : e.tr = .found y) (hgood : e.goodBytes core s = (bs, t)) (hsome : ∃ b ∈ bs, b.isSome = true) :
    performEntry core e s = Rules.written e.pline bs core (y.mode = 0) (useL2 e.pline e.nt t) := by
  rw [performEntry, hm]
  dsimp only
  rw [hd, ht]
  dsimp only
  rw [hgood]
  exact performWrite_line hsome _ _ _ _

/-- A write-back has a physical line alone. -/
theorem performEntry_line (hm : e.mark = none) (hd : e.dest = .none) (hgood : badGranules s e.pline e.bytes = [])
    (hsome : ∃ b ∈ e.bytes, b.isSome = true) :
    performEntry core e s = touchL2 e.pline (Rules.written e.pline e.bytes core false s) := by
  rw [performEntry, hm]
  dsimp only
  rw [hd]
  dsimp only
  rw [goodBytes_of_sound hgood]
  exact congrArg (fun t => touchL2 e.pline t) (performWrite_line hsome _ _ _ _)

theorem performEntry_scratch {c line : Nat} (hm : e.mark = none) (hd : e.dest = .scratch c line) :
    performEntry core e s = writeScratch e.blk c (128 * line) e.bytes s := by
  rw [performEntry, hm]
  dsimp only
  rw [hd]

theorem performEntry_remote {line : Nat} (hm : e.mark = none) (hd : e.dest = .virt line) (ht : e.tr = .remote) :
    performEntry core e s = sendStore core line e s := by
  rw [performEntry, hm]
  dsimp only
  rw [hd, ht]

theorem performEntry_mark {m : Mark} (hm : e.mark = some m) : performEntry core e s = markDone core e m s := by
  rw [performEntry, hm]

end

/-- A ready operation that acts on its own does so; what it does takes its kind alone. -/
theorem runOp_of_ready {id : Nat} {o : Op} {s : State} (ho : getN s.ops id = some o) (hready : o.ready = true) :
    runOp id s = match o.kind with
      | .ctr core idx opt val tgt => releaseHold (gkey o.core o.slot) id (applyCtr o.blk core idx opt val tgt (dropOp id s))
      | .post q words d => doPost o q words d s
      | .kdone q t word => applyDone q t word (dropOp id s)
      | _ => s := by
  rw [runOp, ho]
  dsimp only
  rw [hready]
  rfl

/-- The operation whose fork has been performed, ready. -/
def readied (id : Nat) (o : Op) (s : State) : State := { s with ops := putN s.ops id { o with ready := true } }

/-- What an operation of a kind does when its fork has been performed: a spawn's parent counts from here, the matrix engine looks at its
queue, and an operation that acts on its own does so (R101, R250, R284). -/
def onFork (kind : OpKind) (id : Nat) (o : Op) (s : State) : State :=
  match kind with
  | .push _ r _ => readied id o (parentAdd r.parent (· + 1) s)
  | .mat _ _ => pumpMatrix (clusterOf o.core) (readied id o s)
  | .ctr core idx opt val tgt =>
    releaseHold (gkey o.core o.slot) id (applyCtr o.blk core idx opt val tgt (dropOp id (readied id o s)))
  | .post q words d => doPost { o with ready := true } q words d (readied id o s)
  | .kdone q t word => applyDone q t word (dropOp id (readied id o s))
  | _ => readied id o s

theorem opReady_eq {id : Nat} {o : Op} {s : State} (ho : getN s.ops id = some o) (hid : o.id = id) :
    opReady id s = onFork o.kind id o s := by
  have hrun (t : State) := runOp_of_ready (s := readied id o t) (o := { o with ready := true }) (getN_putN_same t.ops id _) rfl
  obtain ⟨n, core, slot, lane, tenant, blk, pc, lanes, ready, trap, kind⟩ := o
  obtain rfl : n = id := hid
  rw [opReady, ho]
  cases kind with
  | mat => rfl
  | push _ r => exact hrun (parentAdd r.parent (· + 1) s)
  | _ => exact hrun s

/-- What a marker stands for is done as the spec says it (R97, R101, R186, R193). -/
theorem marked_markDone (core : Nat) (e : Store) (m : Mark) (u : State) : Rules.marked core e m u (markDone core e m u) := by
  cases m with
  | access id =>
    intro a ha
    rw [markDone, ha]
    rfl
  | fork id =>
    intro o ho hid
    have hready {k : OpKind} (hkind : o.kind = k) : markDone core e (.fork id) u = onFork k id o u := hkind ▸ opReady_eq ho hid
    refine ⟨fun q r w hkind => hready hkind, fun ts c hkind => hready hkind, fun c i opt val w hkind => hready hkind, fun hkind => ?_⟩
    obtain ⟨_, hk⟩ | ⟨_, hk⟩ | ⟨_, hk⟩ | ⟨_, _, _, hk⟩ | ⟨_, _, _, hk⟩ := hkind <;> exact hready hk
  | barrier b lanes =>
    intro g hg
    rw [markDone, hg]
  | icinv lo hi scope op => rfl
  | drained l =>
    intro y hy
    rw [markDone, hy]
  | pushed b q elem => rfl

section
variable {x : Input} {s : State}

/-- An entry that R97 admits leaves the commit order and is performed. -/
theorem l2Write_of_entry {e : Store} (hflag : x.flag = false) (he : (s.core x.unit).commitQ[x.idx]? = some e)
    (hmay : mayPerform s x.unit ((s.core x.unit).commitQ.take x.idx) e = true) :
    l2Write x s = performEntry x.unit e (s.updCore x.unit fun c => { c with commitQ := c.commitQ.eraseIdx x.idx }) := by
  rw [l2Write, hflag]
  dsimp only
  rw [if_neg Bool.false_ne_true, he]
  dsimp only
  rw [hmay]
  rfl

/-- An operation that waited to act does. -/
theorem l2Write_of_op (hflag : x.flag = true) : l2Write x s = runOp x.idx s := if_pos hflag

/-- A store to a peer joins its station's queue, with the fate that it meets there (R75, R335). -/
theorem sendStore_eq (core line : Nat) (e : Store) (s : State) :
    let d := stationOf (128 * line)
    sendStore core line e s = ({ s with nextId := s.nextId + 1 } : State).updStation d fun y => { y with pkts := y.pkts ++ [{
      id := s.nextId, node := nodeOf (128 * line), tc := 1, count := maskCount e.bytes, podasid := podasid s e.tenant,
      tenant := e.tenant, kind := some (.write (w64 (128 * line)) e.bytes), cargo := .store core e,
      seq := if e.seq = 0 then s.nextId else e.seq, doom := refusedAt s d (nodeOf (128 * line)) }] } := rfl

end

end Sys2Proof.Laws
end

section
/-!
SUPPORT. Loads that return and atomics (R74, R92, R96, R235, R238, R255): one event of each, on a scratchpad and on a global line.
-/

namespace Sys2Proof.Laws

open Sys2Proof.Machine

/-- The kinds of access that return by LOAD_RETURN. -/
def returns : AccKind → Bool
  | .load => true
  | .pref _ => true
  | .stampw _ _ _ => true
  | _ => false

/-- The kinds of access that ATOMIC_PERFORM performs. -/
def atomic : AccKind → Bool
  | .atom _ => true
  | .cas => true
  | _ => false

section
variable {id key : Nat} {a : Access} {r : Req} {rs : List Req} {s t : State}

/-- The return of a line's requests, by where the first of them found it. -/
def returnAt (a : Access) (key : Nat) (v : Option Nat) (r : Req) (rs : List Req) (t : State) : State :=
  match r.tr with
  | .scratch => returnScratch a (r :: rs) r.core (r.va / 128) t
  | .found y => returnGlobal a (r :: rs) y (y.pa (128 * key) / 128) v t
  | _ => t

/-- A load that nothing of R74 and R255 holds returns at its line. -/
theorem loadReturn_of_performs (hp : Rules.Performs id key a (r :: rs) s t) (hkind : returns a.kind = true) (v : Option Nat) :
    loadReturn id key v s = returnAt a key v r rs t := by
  obtain ⟨hsettled, hhere, hawake, hreleased, hwatched, hready⟩ := hp
  have hopen : (a.parked || !returns a.kind || !a.released || stampwOpen t a.core a.slot a.tenant a.id) = false := by
    rw [hawake, hkind, hreleased, hwatched]
    rfl
  rw [loadReturn, hsettled, hhere]
  dsimp only
  refine (if_neg (Bool.eq_false_iff.mp hopen)).trans ?_
  rw [hready]
  rfl

/-- A scratchpad line in its turn: the lanes read its bytes, but for those that meet an error. -/
theorem returnScratch_of_free {c line : Nat} (hfree : orderFree t a (scratchLoc t (accBlock t a) c line) = true)
    (hbusy : scratchBusy t a.core (accBlock t a) c line = false)
    (hcommit : commitBusy t a.core (scratchLoc t (accBlock t a) c line) = false) :
    returnScratch a rs c line t = finishIfDone a.id (failLanes a (Rules.sound t a rs).1
      (noteAhead a (scratchLoc t (accBlock t a) c line)
        (gotReqs a.id (Rules.sound t a rs).2 (fun q => partOf (scratchSeen t a c line) q.va q.size) t))) := by
  rw [returnScratch, hfree, hbusy, hcommit]
  rfl

/-- The state in which a load reads a global line: room made in L1, the use of the L2 line noted where L1 has none. -/
def lineRead (a : Access) (pline : Nat) (v : Option Nat) (t : State) : State :=
  let u := evictL1 a.core (if v = some pline then none else v) t
  if ((u.core a.core).line pline).isSome then u else useL2 pline a.nt u

section
variable {y : Xlat} {pline : Nat} {v : Option Nat}

/-- A global line may be read: no store or older load stands before it, and it is in L1 or in its slice. -/
theorem line_open (hfree : loadFree t a pline = true) (hready : Rules.lineReady t a pline) :
    (!loadFree t a pline || !((((t.core a.core).line pline).isSome && !a.kind.atSlice) || l2Ready t pline)) = false := by
  have hline : ((((t.core a.core).line pline).isSome && !a.kind.atSlice) || l2Ready t pline) = true := by
    rw [Bool.or_eq_true, Bool.and_eq_true, Bool.not_eq_true']
    exact hready
  rw [hfree, hline]
  rfl

theorem returnGlobal_load (hfree : loadFree t a pline = true) (hready : Rules.lineReady t a pline) (hkind : a.kind = .load) :
    let u := lineRead a pline v t
    returnGlobal a rs y pline v t = finishIfDone a.id (failLanes a (Rules.sound u a rs).1 (noteAhead a pline (allocL1 a y pline
      (gotReqs a.id (Rules.sound u a rs).2 (fun q => partOf (lineSeen u a pline) q.va q.size) u)))) := by
  dsimp only
  rw [returnGlobal, line_open hfree hready]
  dsimp only
  rw [hkind]
  rfl

theorem returnGlobal_pref (hfree : loadFree t a pline = true) (hready : Rules.lineReady t a pline) {l1 : Bool}
    (hkind : a.kind = .pref l1) : returnGlobal a rs y pline v t = prefReturn a rs l1 y pline (lineRead a pline v t) := by
  rw [returnGlobal, line_open hfree hready]
  dsimp only
  rw [hkind]
  rfl

/-- A prefetched line without errors. -/
theorem prefReturn_sound {l1 : Bool} (hsound : ∀ g ∈ t.ecc, g / 16 ≠ pline) :
    prefReturn a rs l1 y pline t = finishIfDone a.id (removeReqs a.id rs (if l1 then allocL1 a y pline t else t)) := by
  have hnone : (t.ecc.any fun g => g / 16 = pline) = false :=
    List.any_eq_false.mpr fun g hg => by rw [decide_eq_true_eq]; exact hsound g hg
  rw [prefReturn, hnone]
  rfl

/-- One in error is dropped and counted. -/
theorem prefReturn_bad {l1 : Bool} {g : Nat} (hg : g ∈ t.ecc) (hline : g / 16 = pline) :
    prefReturn a rs l1 y pline t = finishIfDone a.id (removeReqs a.id rs (countError cECC t)) := by
  have hbad : (t.ecc.any fun g => g / 16 = pline) = true := List.any_eq_true.mpr ⟨g, hg, decide_eq_true hline⟩
  rw [prefReturn, hbad]
  rfl

/-- `stampw` looks at its element, and ends where the value is reached. -/
theorem returnGlobal_stampw (hfree : loadFree t a pline = true) (hready : Rules.lineReady t a pline) {want val : W64} {b : Bool}
    (hkind : a.kind = .stampw want val b) (hsound : (Rules.sound (lineRead a pline v t) a (r :: rs)).1 = []) :
    let u := lineRead a pline v t
    let l2 := applyBytes (applyBytes (readBytes u.mem (128 * pline) 128) (stashDirty u a.core pline)) (l1Dirty u a.core pline)
    let old := partOf l2 r.va r.size
    returnGlobal a (r :: rs) y pline v t =
      if old < want.toNat then u else finishIfDone a.id (removeReqs a.id [r] (deliver a r old u)) := by
  dsimp only
  rw [returnGlobal, line_open hfree hready]
  dsimp only
  rw [if_neg Bool.false_ne_true, hkind]
  have hempty : (!(Rules.sound (lineRead a pline v t) a (r :: rs)).1.isEmpty) = false := by rw [hsound]; rfl
  exact if_neg (Bool.eq_false_iff.mp hempty)

/-- Where it meets an error its lanes fail. -/
theorem returnGlobal_stampw_bad (hfree : loadFree t a pline = true) (hready : Rules.lineReady t a pline) {want val : W64} {b : Bool}
    (hkind : a.kind = .stampw want val b) (hbad : (Rules.sound (lineRead a pline v t) a rs).1 ≠ []) :
    let u := lineRead a pline v t
    returnGlobal a rs y pline v t = finishIfDone a.id (failLanes a (Rules.sound u a rs).1 u) := by
  dsimp only
  rw [returnGlobal, line_open hfree hready]
  dsimp only
  rw [if_neg Bool.false_ne_true, hkind]
  exact if_pos (by rw [Bool.not_eq_true', List.isEmpty_eq_false_iff]; exact hbad)

end

section
variable {r1 : Req} {rs1 : List Req}

/-- The elements of an atomic that do their work: those of lanes that meet no error. -/
def goodElems (t : State) (a : Access) (rs : List Req) : List Req :=
  rs.filter fun q => !((badLanes t a rs).any fun b => b.lane = q.lane)

section
variable (hp : Rules.Performs id key a rs s t) (horder : inLaneOrder a rs = r1 :: rs1) (hkind : atomic a.kind = true)
  (hown : ownStores t a = []) (holder : olderLoads t a.core a.slot a.id = [])
include hp horder hkind hown holder

/-- An atomic that nothing of R92 and R255 holds acts on the elements whose turn it is. -/
theorem atomic_open : settleAccess id s = t ∧ getN t.accs id = some a ∧ inLaneOrder a (readyReqs a key) = r1 :: rs1 ∧
    (a.parked || !atomic a.kind || !a.released || !(ownStores t a).isEmpty || !(olderLoads t a.core a.slot a.id).isEmpty ||
      stampwOpen t a.core a.slot a.tenant a.id) = false := by
  obtain ⟨hsettled, hhere, hawake, hreleased, hwatched, hready⟩ := hp
  refine ⟨hsettled, hhere, by rw [hready, horder], ?_⟩
  rw [hawake, hkind, hreleased, hwatched, hown, holder]
  rfl

/-- On scratchpad elements. -/
theorem atomicPerform_scratch (htr : r1.tr = .scratch)
    (hbusy : scratchBusy t a.core (accBlock t a) r1.core (r1.va / 128) = false)
    (hcommit : commitBusy t a.core (scratchLoc t (accBlock t a) r1.core (r1.va / 128)) = false)
    (hahead : aheadAt t a.core (scratchLoc t (accBlock t a) r1.core (r1.va / 128)) = false)
    (hroom : combShut t a.core (accBlock t a) { id, tenant := a.tenant, dest := .scratch r1.core (r1.va / 128) } = false) :
    atomicPerform id key s = finishIfDone id (failLanes a (badLanes t a (r1 :: rs1))
      ((goodElems t a (r1 :: rs1)).foldl (atomScratch a (accBlock t a)) t)) := by
  obtain ⟨hsettled, hhere, hreqs, hopen⟩ := atomic_open hp horder hkind hown holder
  rw [atomicPerform, hsettled, hhere]
  dsimp only
  refine (if_neg (Bool.eq_false_iff.mp hopen)).trans ?_
  rw [hreqs]
  dsimp only
  rw [htr]
  dsimp only
  rw [hbusy, hcommit, hahead, hroom]
  rfl

/-- On elements of a global line, once the core's dirty bytes of it have been performed. -/
theorem atomicPerform_found {y : Xlat} (htr : r1.tr = .found y) (hcommit : commitBusy t a.core (y.pa (128 * key) / 128) = false)
    (hahead : aheadAt t a.core (y.pa (128 * key) / 128) = false) (hline : l2Ready t (y.pa (128 * key) / 128) = true) :
    let pline := y.pa (128 * key) / 128
    atomicPerform id key s = finishIfDone id (failLanes a (badLanes t a (r1 :: rs1)) ((goodElems t a (r1 :: rs1)).foldl (atomGlobal a y)
      (useL2 pline a.nt (flushLine a.core a.tenant pline (128 * key) t)))) := by
  obtain ⟨hsettled, hhere, hreqs, hopen⟩ := atomic_open hp horder hkind hown holder
  dsimp only
  rw [atomicPerform, hsettled, hhere]
  dsimp only
  refine (if_neg (Bool.eq_false_iff.mp hopen)).trans ?_
  rw [hreqs]
  dsimp only
  rw [htr]
  dsimp only
  rw [hcommit, hahead, hline]
  rfl

end

end

end

/-- Settles O38: each event is the one operation that its state admits. -/
theorem storesAndLoads : Obligations.StoresAndLoads := by
  unfold Obligations.StoresAndLoads
  intro s
  dsimp only
  refine ⟨?commit, ?entry, ?op, ?reads⟩
  case commit =>
    intro g e rest hg hq hc
    have hcommit := storeCommit_of_commits (v := s.input.victim) hg hq hc
    split
    next hshut => exact congrArg Host.Outcome.next (hcommit.trans (if_pos hshut))
    next hopen => exact congrArg Host.Outcome.next (hcommit.trans (if_neg hopen))
  case entry =>
    intro e hflag he hmay
    have goes {t : State} (ht : performEntry s.input.unit e
        (s.updCore s.input.unit fun c => { c with commitQ := c.commitQ.eraseIdx s.input.idx }) = t) : exec .l2Write s = .next t :=
      congrArg Host.Outcome.next ((l2Write_of_entry hflag he hmay).trans ht)
    refine ⟨?mark, ?scratch, ?remote, ?found, ?line, ?part⟩
    case mark => exact fun m hm => ⟨_, goes (performEntry_mark hm), marked_markDone _ e m _⟩
    case scratch => exact fun c line hm hd => goes (performEntry_scratch hm hd)
    case remote => exact fun line hm hd ht => goes ((performEntry_remote hm hd ht).trans (sendStore_eq _ line e _))
    case found => exact fun line y hm hd ht hgood hsome => goes (performEntry_found hm hd ht (goodBytes_of_sound hgood) hsome)
    case line => exact fun hm hd hgood hsome => goes (performEntry_line hm hd hgood hsome)
    case part => exact fun line y hm hd ht hstore g gs hbad hsome => goes (performEntry_found hm hd ht (goodBytes_of_bad hbad hstore) hsome)
  case op =>
    intro o hflag ho hready
    have hrun := (l2Write_of_op (s := s) hflag).trans (runOp_of_ready ho hready)
    constructor
    · intro c i opt v w hkind
      rw [hkind] at hrun
      exact congrArg Host.Outcome.next hrun
    · intro q n w hkind
      rw [hkind] at hrun
      exact congrArg Host.Outcome.next hrun
  case reads =>
    intro a r rs t hp
    refine ⟨?scratch, ?found, ?atomics⟩
    case scratch =>
      intro htr hkind hfree hbusy hcommit
      have hreturns : returns a.kind = true := by
        obtain hk | ⟨_, hk⟩ | ⟨_, _, _, hk⟩ := hkind <;> rw [hk] <;> rfl
      have hload := loadReturn_of_performs hp hreturns s.input.victim
      rw [returnAt, htr] at hload
      exact congrArg Host.Outcome.next (hload.trans (returnScratch_of_free hfree hbusy hcommit))
    case found =>
      intro y htr hfree hline
      have goes {u : State} (hk : returns a.kind = true)
          (hu : returnGlobal a (r :: rs) y (y.pa (128 * s.input.aux) / 128) s.input.victim t = u) : exec .loadReturn s = .next u := by
        have hload := loadReturn_of_performs hp hk s.input.victim
        rw [returnAt, htr] at hload
        exact congrArg Host.Outcome.next (hload.trans hu)
      refine ⟨?load, ?pref, ?prefbad, ?stampw, ?stampwbad⟩
      case load => exact fun hk => goes (by rw [hk]; rfl) (returnGlobal_load hfree hline hk)
      case pref =>
        exact fun l1 hk hsound => goes (by rw [hk]; rfl) ((returnGlobal_pref hfree hline hk).trans (prefReturn_sound hsound))
      case prefbad =>
        exact fun l1 g hk hg hbad => goes (by rw [hk]; rfl) ((returnGlobal_pref hfree hline hk).trans (prefReturn_bad hg hbad))
      case stampw => exact fun want v b hk hsound => goes (by rw [hk]; rfl) (returnGlobal_stampw hfree hline hk hsound)
      case stampwbad => exact fun want v b hk hbad => goes (by rw [hk]; rfl) (returnGlobal_stampw_bad hfree hline hk hbad)
    case atomics =>
      intro r1 rs1 horder hkind hown holder
      have hatomic : atomic a.kind = true := by
        obtain hk | ⟨_, hk⟩ := hkind <;> rw [hk] <;> rfl
      constructor
      · intro htr hbusy hcommit hahead hroom
        exact congrArg Host.Outcome.next (atomicPerform_scratch hp horder hatomic hown holder htr hbusy hcommit hahead hroom)
      · intro y htr hcommit hahead hline
        exact congrArg Host.Outcome.next (atomicPerform_found hp horder hatomic hown holder htr hcommit hahead hline)

end Sys2Proof.Laws
end

section
/-!
SUPPORT. The plan of a vector access (R72, R407): the first fault of each lane, and the elements of the lanes that have none.
-/

namespace Sys2Proof.Laws

open Sys2Proof.Machine

/-- A place that faults. -/
def Faulty (p : Place) : Prop := ∃ c sub info, p = .bad c sub info

/-- A lane has no fault where no place of it faults. -/
theorem laneFault_eq_none {l : Nat} {ps : List (Nat × Place)} : laneFault l ps = none ↔ ∀ p ∈ ps, ¬Faulty p.2 := by
  induction ps with
  | nil => simp [laneFault]
  | cons p ps ih =>
    obtain ⟨k, place⟩ := p
    rw [List.forall_mem_cons, ← ih]
    cases place with
    | bad c sub info => exact iff_of_false nofun fun h => h.1 ⟨c, sub, info, rfl⟩
    | here c va => exact ⟨fun h => ⟨nofun, h⟩, fun h => h.2⟩
    | out => exact ⟨fun h => ⟨nofun, h⟩, fun h => h.2⟩

/-- A lane's fault names the lane. -/
theorem lane_of_laneFault {l : Nat} {ps : List (Nat × Place)} {e : LaneFault} (h : laneFault l ps = some e) : e.lane = l := by
  induction ps with
  | nil => cases h
  | cons p ps ih =>
    obtain ⟨k, place⟩ := p
    cases place with
    | bad c sub info => cases h; rfl
    | here c va => exact ih h
    | out => exact ih h

/-- The places of a lane, by position. -/
def placesOf (n : Nat) (place : Nat → Nat → Place) (l : Nat) : List (Nat × Place) := (List.range n).map fun k => (k, place k l)

/-- The first fault of a lane over its positions. -/
def firstFault (n : Nat) (place : Nat → Nat → Place) (l : Nat) : Option LaneFault := laneFault l (placesOf n place l)

section
variable {act : W64} {n k l : Nat} {place : Nat → Nat → Place}

theorem firstFault_eq_none : firstFault n place l = none ↔ ∀ k, k < n → ¬Faulty (place k l) := by
  simp [firstFault, placesOf, laneFault_eq_none]

/-- The first fault over positions from one on. -/
theorem laneFault_range' {c sub : Nat} {info : W64} (m j : Nat) (hj : j ≤ k) (hk : k < j + m) (hbad : place k l = .bad c sub info)
    (hfirst : ∀ i, i < k → ¬Faulty (place i l)) :
    laneFault l ((List.range' j m).map fun k => (k, place k l)) = some { lane := l, cause := c, sub, pos := k, info } := by
  induction m generalizing j with
  | zero => omega
  | succ m ih =>
    rw [List.range'_succ, List.map_cons]
    by_cases hjk : j = k
    · subst hjk
      rw [hbad]
      rfl
    · have hsound := hfirst j (by omega)
      have hrest := ih (j + 1) (by omega) (by omega)
      cases hp : place j l with
      | bad c sub info => exact absurd ⟨c, sub, info, hp⟩ hsound
      | here c va => exact hrest
      | out => exact hrest

theorem firstFault_of_bad {c sub : Nat} {info : W64} (hk : k < n) (hbad : place k l = .bad c sub info)
    (hfirst : ∀ j, j < k → ¬Faulty (place j l)) : firstFault n place l = some { lane := l, cause := c, sub, pos := k, info } := by
  rw [firstFault, placesOf, List.range_eq_range']
  exact laneFault_range' n 0 (Nat.zero_le k) (by omega) hbad hfirst

/-- The lanes of a bundle that have no fault. -/
def soundLanes (act : W64) (n : Nat) (place : Nat → Nat → Place) : List Nat :=
  (lanesOf act).filter fun l => (firstFault n place l).isNone

theorem mem_soundLanes : l ∈ soundLanes act n place ↔ act.getLsbD l = true ∧ firstFault n place l = none := by
  rw [soundLanes, List.mem_filter, mem_lanesOf, Option.isNone_iff_eq_none]

/-- What a position of a lane accesses. -/
def accessAt (place : Nat → Nat → Place) (k l : Nat) : Option (Nat × Nat × Nat × Nat) :=
  match place k l with | .here c va => some (k, l, c, va) | _ => none

/-- A position of a lane that is suppressed. -/
def suppressedAt (place : Nat → Nat → Place) (k l : Nat) : Option (Nat × Nat) :=
  match place k l with | .out => some (k, l) | _ => none

theorem accessAt_eq_some {y : Nat × Nat × Nat × Nat} :
    accessAt place k l = some y ↔ ∃ c va, place k l = .here c va ∧ (k, l, c, va) = y := by
  unfold accessAt
  cases place k l <;> simp

theorem suppressedAt_eq_some {z : Nat × Nat} : suppressedAt place k l = some z ↔ place k l = .out ∧ (k, l) = z := by
  unfold suppressedAt
  cases place k l <;> simp

/-- Each sound lane with its places, as the plan builds them. -/
theorem filter_places (act : W64) (n : Nat) (place : Nat → Nat → Place) :
    ((lanesOf act).map fun l => (l, placesOf n place l)).filter (fun x => (laneFault x.1 x.2).isNone) =
      (soundLanes act n place).map fun l => (l, placesOf n place l) := List.filter_map

/-- The place at a position. -/
theorem placesOf_getElem? (hk : k < n) : (placesOf n place l)[k]? = some (k, place k l) := by
  rw [placesOf, List.getElem?_map, List.getElem?_range hk]
  rfl

/-- The plan, lane by lane and position by position. -/
theorem planLanes_eq (act : W64) (n : Nat) (place : Nat → Nat → Place) : planLanes act n place =
    { faults := (lanesOf act).filterMap (firstFault n place)
      go := (List.range n).flatMap fun k => (soundLanes act n place).filterMap (accessAt place k)
      zeros := (List.range n).flatMap fun k => (soundLanes act n place).filterMap (suppressedAt place k)
      good := maskOf (soundLanes act n place) } := by
  have hok := filter_places act n place
  rw [planLanes]
  dsimp only
  rw [Plan.mk.injEq]
  refine ⟨?first, ?accessed, ?suppressed, ?sound⟩
  case first => rw [List.filterMap_map]; rfl
  case sound =>
    refine (congrArg (fun ok => maskOf (ok.map Prod.fst)) hok).trans ?_
    rw [List.map_map]
    exact congrArg maskOf (List.map_id _)
  case accessed =>
    refine List.flatMap_congr fun k hk => (congrArg (List.filterMap _) hok).trans ?_
    rw [List.filterMap_map]
    refine congrArg (List.filterMap · _) (funext fun l => ?_)
    rw [Function.comp_apply, placesOf_getElem? (List.mem_range.mp hk), accessAt]
    dsimp only
    cases place k l <;> rfl
  case suppressed =>
    refine List.flatMap_congr fun k hk => (congrArg (List.filterMap _) hok).trans ?_
    rw [List.filterMap_map]
    refine congrArg (List.filterMap · _) (funext fun l => ?_)
    rw [Function.comp_apply, placesOf_getElem? (List.mem_range.mp hk), suppressedAt]
    dsimp only
    cases place k l <;> rfl

theorem mem_plan_go {y : Nat × Nat × Nat × Nat} : y ∈ (planLanes act n place).go ↔
    ∃ k l c va, k < n ∧ l ∈ soundLanes act n place ∧ place k l = .here c va ∧ (k, l, c, va) = y := by
  simp only [planLanes_eq, List.mem_flatMap, List.mem_filterMap, List.mem_range, accessAt_eq_some]
  constructor
  · rintro ⟨k, hk, l, hl, c, va, hplace, hy⟩
    exact ⟨k, l, c, va, hk, hl, hplace, hy⟩
  · rintro ⟨k, l, c, va, hk, hl, hplace, hy⟩
    exact ⟨k, hk, l, hl, c, va, hplace, hy⟩

theorem mem_plan_zeros {z : Nat × Nat} : z ∈ (planLanes act n place).zeros ↔
    ∃ k l, k < n ∧ l ∈ soundLanes act n place ∧ place k l = .out ∧ (k, l) = z := by
  simp only [planLanes_eq, List.mem_flatMap, List.mem_filterMap, List.mem_range, suppressedAt_eq_some]
  constructor
  · rintro ⟨k, hk, l, hl, hplace, hz⟩
    exact ⟨k, l, hk, hl, hplace, hz⟩
  · rintro ⟨k, l, hk, hl, hplace, hz⟩
    exact ⟨k, hk, l, hl, hplace, hz⟩

theorem mem_plan_faults {e : LaneFault} : e ∈ (planLanes act n place).faults ↔
    ∃ l, act.getLsbD l = true ∧ firstFault n place l = some e := by
  simp only [planLanes_eq, List.mem_filterMap, mem_lanesOf]

/-- The lane of a fault has no other: it is its first. -/
theorem firstFault_of_mem {e : LaneFault} (h : e ∈ (planLanes act n place).faults) :
    act.getLsbD e.lane = true ∧ firstFault n place e.lane = some e := by
  obtain ⟨l, hl, he⟩ := mem_plan_faults.mp h
  obtain rfl : e.lane = l := lane_of_laneFault he
  exact ⟨hl, he⟩

theorem plan_good : (planLanes act n place).good.getLsbD l = decide (l < 64 ∧ l ∈ soundLanes act n place) := by
  rw [planLanes_eq, getLsbD_maskOf]

/-- The lanes of a mask, ascending. -/
theorem lanesOf_ascending (m : W64) : (lanesOf m).Pairwise (· < ·) := List.pairwise_lt_range.filter _

/-- The elements stand by position and then by lane. -/
theorem plan_go_ordered :
    (planLanes act n place).go.Pairwise fun x y => x.1 < y.1 ∨ (x.1 = y.1 ∧ x.2.1 < y.2.1) := by
  rw [planLanes_eq, List.pairwise_flatMap]
  constructor
  · intro k _
    rw [List.pairwise_filterMap]
    refine ((lanesOf_ascending act).filter _).imp fun {l m} hlm x hx y hy => ?_
    obtain ⟨_, _, -, rfl⟩ := accessAt_eq_some.mp hx
    obtain ⟨_, _, -, rfl⟩ := accessAt_eq_some.mp hy
    exact .inr ⟨rfl, hlm⟩
  · refine List.pairwise_lt_range.imp fun {j k} hjk x hx y hy => ?_
    obtain ⟨_, -, hx⟩ := List.mem_filterMap.mp hx
    obtain ⟨_, -, hy⟩ := List.mem_filterMap.mp hy
    obtain ⟨_, _, -, rfl⟩ := accessAt_eq_some.mp hx
    obtain ⟨_, _, -, rfl⟩ := accessAt_eq_some.mp hy
    exact .inl hjk

/-- The plan is what R72 and R407 say. -/
theorem planned_planLanes (act : W64) (n : Nat) (place : Nat → Nat → Place) :
    Rules.planned act n place (planLanes act n place) := by
  refine ⟨fun l hlt hact hsound => ?sound, fun l k c sub info hlt hact hk hbad hfirst => ?bad, fun e he => (firstFault_of_mem he).1,
    fun y hy => ?accessed, fun z hz => ?suppressed, plan_go_ordered⟩
  case sound =>
    have hnone : firstFault n place l = none := firstFault_eq_none.mpr hsound
    have hl : l ∈ soundLanes act n place := mem_soundLanes.mpr ⟨hact, hnone⟩
    refine ⟨by rw [plan_good, decide_eq_true ⟨hlt, hl⟩], fun e he hel => ?_, fun k hk => ⟨fun c va hplace => ?_, fun hplace => ?_⟩⟩
    · have hsome := (firstFault_of_mem he).2
      rw [hel, hnone] at hsome
      cases hsome
    · exact mem_plan_go.mpr ⟨k, l, c, va, hk, hl, hplace, rfl⟩
    · exact mem_plan_zeros.mpr ⟨k, l, hk, hl, hplace, rfl⟩
  case bad =>
    have hfault := firstFault_of_bad hk hbad hfirst
    have hout : l ∉ soundLanes act n place := fun hl => by
      have hnone := (mem_soundLanes.mp hl).2
      rw [hfault] at hnone
      cases hnone
    refine ⟨mem_plan_faults.mpr ⟨l, hact, hfault⟩, by rw [plan_good, decide_eq_false fun h => hout h.2], fun y hy hyl => ?_,
      fun z hz hzl => ?_⟩
    · obtain ⟨_, m, _, _, -, hm, -, rfl⟩ := mem_plan_go.mp hy
      exact hout (hyl ▸ hm)
    · obtain ⟨_, m, -, hm, -, rfl⟩ := mem_plan_zeros.mp hz
      exact hout (hzl ▸ hm)
  case accessed =>
    obtain ⟨_, l, _, _, -, hl, -, rfl⟩ := mem_plan_go.mp hy
    exact (mem_soundLanes.mp hl).1
  case suppressed =>
    obtain ⟨_, l, -, hl, -, rfl⟩ := mem_plan_zeros.mp hz
    exact (mem_soundLanes.mp hl).1

end

end Sys2Proof.Laws
end

section
/-!
SUPPORT. Vector loads, stores and atomics (R233 to R240): one issue of each, from the rules of the plan and of the access that it starts.
-/

namespace Sys2Proof.Laws

open Sys2Proof.Machine

/-- The requests of a plan, one for each element in bounds. -/
def planReqs (p : Plan) (scratch : Bool) (size : Nat) (dst : Nat → Nat) (val cmp : Nat → Nat → Nat) : List Req :=
  p.go.map fun y => { lane := y.2.1, pos := y.1, va := y.2.2.2, size, dst := dst y.1, val := BitVec.ofNat 128 (val y.1 y.2.1)
                      cmp := BitVec.ofNat 128 (cmp y.1 y.2.1), core := y.2.2.1, tr := if scratch then .scratch else .todo }

/-- An access of a plan, as a vector instruction asks for it. -/
def planAccess (x : Iss) (g : Group) (p : Plan) (scratch : Bool) (a : Access) : Access :=
  { a with rel := x.rel, nt := !scratch && bitAt (x.brec g) 123, oob := p.zeros.map Prod.snd }

/-- The start of a vector load or atomic in a state in which its faults are taken and its destinations marked: its release and its hold,
and then its requests. -/
def startFrom (x : Iss) (g : Group) (p : Plan) (scratch : Bool) (size : Nat) (val cmp : Nat → Nat → Nat) (a : Access) (v : State) :
    State :=
  let w := if bitAt x.o.c 8 then enqueueMark a.core a.slot (bitsOf x.o.c 6 4) (.access a.id) v else v
  Rules.startAccess { planAccess x g p scratch a with acq := x.acq, released := !bitAt x.o.c 8, zeros := zeroElems x p.zeros }
    (planReqs p scratch size (x.o.regAt .d) val cmp)
    (w.updGroup x.k fun g => { g with memHold := g.memHold ++ if bitAt x.o.c 7 then [a.id] else [] })

theorem startLoad_eq (x : Iss) (g : Group) (kind : AccKind) (p : Plan) (scratch : Bool) (size : Nat) (val cmp : Nat → Nat → Nat)
    (t : State) :
    let v := precise x.k p.faults (t.fresh.2.updGroup x.k (markDest x t.fresh.1 p.good))
    startLoad x g kind p scratch size val cmp t = startFrom x g p scratch size val cmp (newAccess x g t.fresh.1 kind p.good v) v := by
  dsimp only
  rw [startLoad, startFrom, planAccess, Iss.rel, Iss.acq]
  cases bitAt x.o.c 7 <;> cases bitAt x.o.c 8 <;> rfl

section
variable {i : Instr} {opc : Nat} {h : Hdr} {f : Form} {g : Group} {s : State}

/-- A vector load or atomic of the issuing group, started. -/
def loadStarted (opc : Nat) (h : Hdr) (f : Form) (g : Group) (s : State) (kind : AccKind) (p : Plan) (scratch : Bool) (size : Nat)
    (val cmp : Nat → Nat → Nat) : State :=
  let x := issueOf opc h f g s
  startFrom x g p scratch size val cmp (Rules.accessOf opc f g kind p.good s)
    (precise s.cur.key p.faults ((Rules.begunId g s).updGroup s.cur.key (markDest x s.nextId p.good)))

theorem startLoad_begun (hslot : Rules.slotOk s) (kind : AccKind) (p : Plan) (scratch : Bool) (size : Nat) (val cmp : Nat → Nat → Nat) :
    startLoad (issueOf opc h f g s) g kind p scratch size val cmp (s.begun g) =
      loadStarted opc h f g s kind p scratch size val cmp := by
  have hpc : (precise s.cur.key p.faults ((Rules.begunId g s).updGroup s.cur.key
      (markDest (issueOf opc h f g s) s.nextId p.good))).cur.pc = s.cur.pc := by
    rw [precise_cur, updGroup_cur]
    rfl
  have hacc := newAccess_of_pc (opc := opc) (h := h) (f := f) (g := g) hslot s.nextId kind p.good hpc
  exact (startLoad_eq _ g kind p scratch size val cmp _).trans
    (congrArg (fun a => startFrom (issueOf opc h f g s) g p scratch size val cmp a _) hacc)

/-- The suppressed elements of lanes that have no element in bounds. -/
def bareZeros (p : Plan) : List (Nat × Nat) := p.zeros.filter fun z => !(p.go.any fun y => y.2.1 = z.2)

/-- A store of a group's access enters that group's queue, line by line. -/
theorem enqueueStore_of_slot {a : Access} (hslot : a.slot ≠ 128) (rs : List Req) (v : State) :
    enqueueStore a rs v = decideStore a.core a.slot a.id ((trReqs a rs v).2.updGroup (gkey a.core a.slot) fun g =>
      { g with storeQ := g.storeQ ++ Rules.entriesOf a (trReqs a rs v).1 }) := by
  have hgroup (F : Group → Group) (u : State) : updAccGroup a F u = u.updGroup (gkey a.core a.slot) F := if_pos hslot
  rw [enqueueStore]
  dsimp only
  rw [hgroup]
  rfl

/-- A vector store of the issuing group, started: its bare lanes counted, its faults taken, its elements in the queue. -/
def storeStarted (opc : Nat) (h : Hdr) (f : Form) (g : Group) (s : State) (p : Plan) (scratch : Bool) (size : Nat) : State :=
  let x := issueOf opc h f g s
  let a := planAccess x g p scratch (Rules.accessOf opc f g .store p.good s)
  let v := precise s.cur.key p.faults (countOob s.cur.unit (bareZeros p).length (Rules.begunId g s))
  let t := trReqs a (planReqs p scratch size (fun _ => 0) (elemData x g .d size) fun _ _ => 0) v
  if p.go = [] then v
  else decideStore s.cur.unit s.cur.sub s.nextId (t.2.updGroup s.cur.key fun g => { g with storeQ := g.storeQ ++ Rules.entriesOf a t.1 })

theorem startStore_begun (hslot : Rules.slotOk s) (p : Plan) (scratch : Bool) (size : Nat) :
    startStore (issueOf opc h f g s) g p scratch size (s.begun g) = storeStarted opc h f g s p scratch size := by
  let x := issueOf opc h f g s
  let u := countOob (s.cur.key / 128) (bareZeros p).length (Rules.begunId g s)
  let rs := planReqs p scratch size (fun _ => 0) (elemData x g .d size) fun _ _ => 0
  have hacc := newAccess_of_pc (opc := opc) (h := h) (f := f) (g := g) (t := u) hslot s.nextId .store p.good rfl
  have hresident : s.cur.sub ≠ 128 := Nat.ne_of_lt hslot
  have hstart : startStore x g p scratch size (s.begun g) = if rs.isEmpty then precise s.cur.key p.faults u
      else enqueueStore (planAccess x g p scratch (newAccess x g s.nextId .store p.good u)) rs (precise s.cur.key p.faults u) := rfl
  have hnone : rs.isEmpty = true ↔ p.go = [] := by rw [List.isEmpty_iff]; exact List.map_eq_nil_iff
  rw [hstart, hacc, enqueueStore_of_slot hresident]
  simp only [u, hnone, key_div hslot]
  rfl

/-- The request queue takes the requests of a plan. -/
theorem noWalkRoom_of_taken (hslot : Rules.slotOk s) (hwalk : Rules.walksTaken g s) (p : Plan) :
    noWalkRoom (issueOf opc h f g s) (s.begun g) p = false := walkHeld_of_taken hslot hwalk _

theorem opOf_ld (h : Hdr) (f : Form) (s : State) : opOf 0x80 h f s = opLd h f s := rfl
theorem opOf_st (h : Hdr) (f : Form) (s : State) : opOf 0x81 h f s = opSt h f s := rfl
theorem opOf_lds (h : Hdr) (f : Form) (s : State) : opOf 0x82 h f s = opLds h f s := rfl
theorem opOf_sts (h : Hdr) (f : Form) (s : State) : opOf 0x83 h f s = opSts h f s := rfl
theorem opOf_atom (h : Hdr) (f : Form) (s : State) : opOf 0x84 h f s = opAtom h f s := rfl
theorem opOf_acas (h : Hdr) (f : Form) (s : State) : opOf 0x85 h f s = opAcas h f s := rfl
theorem opOf_atoms (h : Hdr) (f : Form) (s : State) : opOf 0x86 h f s = opAtoms h f s := rfl

section
variable (hv : view i = some (opc, h, f)) (hi : Issues opc h f g s) (hslot : Rules.slotOk s) (hfree : Rules.memoryFree opc h f g s)
  (hwalk : Rules.walksTaken g s)
include hv hi hslot hfree hwalk

/-- A vector instruction whose body, past its own checks, starts a load of a plan where the request queue takes it. -/
theorem exec_load {body : Iss → Group → State → Option State} {kind : AccKind} {p : Plan} {scratch : Bool} {size : Nat}
    {val cmp : Nat → Nat → Nat} (hne : opc ≠ 0xd1) (hop : opOf opc h f s = groupIssue opc h f (memEff body) s)
    (hbody : body (issueOf opc h f g s) g (s.begun g) = if noWalkRoom (issueOf opc h f g s) (s.begun g) p then none
      else some (startLoad (issueOf opc h f g s) g kind p scratch size val cmp (s.begun g))) :
    exec i s = .next (issued g h s (loadStarted opc h f g s kind p scratch size val cmp)) := by
  refine exec_of_effect hv hne hop hi ((memEff_of_free _ hfree).trans (hbody.trans ?_))
  rw [noWalkRoom_of_taken hslot hwalk, if_neg Bool.false_ne_true, startLoad_begun hslot]

/-- The same for a store, where the store queue has room. -/
theorem exec_store {body : Iss → Group → State → Option State} {p : Plan} {scratch : Bool} {size : Nat}
    (hne : opc ≠ 0xd1) (hop : opOf opc h f s = groupIssue opc h f (memEff body) s)
    (hbody : body (issueOf opc h f g s) g (s.begun g) = if noWalkRoom (issueOf opc h f g s) (s.begun g) p then none
      else some (startStore (issueOf opc h f g s) g p scratch size (s.begun g))) :
    exec i s = .next (issued g h s (storeStarted opc h f g s p scratch size)) := by
  refine exec_of_effect hv hne hop hi ((memEff_of_free _ hfree).trans (hbody.trans ?_))
  rw [noWalkRoom_of_taken hslot hwalk, if_neg Bool.false_ne_true, startStore_begun hslot]

end

end

/-- A record that does not fit is refused; one that fits is not. -/
theorem if_unfit {b : Bool} (hfits : b = true) (u v : Option State) : (if !b then u else v) = v := by rw [hfits]; rfl

/-- Settles O18: each vector access is one plan of its elements, and one start of its kind. -/
theorem vectorMemory : Obligations.VectorMemory := by
  unfold Obligations.VectorMemory
  intro i opc h f g s hv hi hslot hfree hwalk x o r scratch size place p kind hfits hcas key sc acq rel a reqs
  refine ⟨planned_planLanes _ _ _, ?load, ?store⟩
  case load =>
    intro hopc b v w w'
    simp only [List.mem_cons, List.not_mem_nil, or_false] at hopc
    rcases hopc with rfl | rfl | rfl | rfl | rfl
    · exact exec_load hv hi hslot hfree hwalk (by decide) (opOf_ld h f s) (if_unfit (hfits (by decide)) _ _)
    · exact exec_load hv hi hslot hfree hwalk (by decide) (opOf_lds h f s) rfl
    · exact exec_load hv hi hslot hfree hwalk (by decide) (opOf_atom h f s) (if_unfit (hfits (by decide)) _ _)
    · exact exec_load hv hi hslot hfree hwalk (by decide) (opOf_acas h f s) (if_unfit (by simpa using hcas rfl) _ _)
    · exact exec_load hv hi hslot hfree hwalk (by decide) (opOf_atoms h f s) rfl
  case store =>
    intro hopc hroom bare c v t
    have hqueue : storeFull g = false := decide_eq_false (Nat.not_le.mpr hroom)
    rcases hopc with rfl | rfl
    · have hst : exec i s = .next (issued g h s (storeStarted 0x81 h f g s p false size)) := by
        refine exec_store hv hi hslot hfree hwalk (by decide) (opOf_st h f s) ((if_unfit (hfits (by decide)) _ _).trans ?_)
        exact if_neg (Bool.eq_false_iff.mp hqueue)
      exact hst
    · have hsts : exec i s = .next (issued g h s (storeStarted 0x83 h f g s p true size)) := by
        refine exec_store hv hi hslot hfree hwalk (by decide) (opOf_sts h f s) ?_
        exact congrArg (fun b : Bool => if b then none else some (startStore x g p true size (s.begun g)))
          (congrArg (· || noWalkRoom x (s.begun g) p) hqueue)
      exact hsts

end Sys2Proof.Laws
end

section
/-!
SUPPORT. Engine commands (R101, R244 to R249, R256, R257): one issue of each, which posts its operation behind a release.
-/

namespace Sys2Proof.Laws

open Sys2Proof.Machine

theorem opOf_cpy (h : Hdr) (f : Form) (s : State) : opOf 0x8a h f s = opCpy h f s := rfl
theorem opOf_mfill (h : Hdr) (f : Form) (s : State) : opOf 0x8b h f s = opMfill h f s := rfl
theorem opOf_xpush (h : Hdr) (f : Form) (s : State) : opOf 0x8c h f s = opXpush h f s := rfl
theorem opOf_xpull (h : Hdr) (f : Form) (s : State) : opOf 0x8d h f s = opXpull h f s := rfl
theorem opOf_msend (h : Hdr) (f : Form) (s : State) : opOf 0x95 h f s = opMsend h f s := rfl
theorem opOf_qpost (h : Hdr) (f : Form) (s : State) : opOf 0x96 h f s = opQpost h f s := rfl

/-- Marking a register of an operation in flight changes the notes of that register alone. -/
theorem notesKept_mark {f : RFile} {r now owner : Nat} {m : W64} {till : Option Nat} {g : Group} :
    Rules.notesKept [(f, r)] now g g.pend (g.mark owner f r m till).score g.badRegs := by
  obtain ⟨hpend, hready, -, hbad, hhealed⟩ := notesKept_refl [(f, r)] now g
  refine ⟨hpend, hready, fun e hl hd => ?score, hbad, hhealed⟩
  have hne : (e.file, e.reg) ≠ (f, r) := fun h => hd (List.mem_singleton.mpr h)
  have hnew : e ≠ { owner, file := f, reg := r, lanes := m, till } := fun h => hne (by rw [h])
  rw [Group.mark, List.mem_append, mem_unscore hne, List.mem_singleton, or_iff_left hnew, and_iff_left hl]

section
variable {i : Instr} {opc : Nat} {h : Hdr} {f : Form} {g : Group} {s : State}

/-- An operation is posted: it is in flight, and its group notes it behind a release. -/
theorem postOp_begun (hslot : Rules.slotOk s) (scope : Scope) (kind : OpKind) :
    postOp (issueOf opc h f g s) g scope kind (s.begun g) =
      (Rules.postState h g s kind).setGroup s.cur.key (Rules.postGroup g s scope (g.begun s)) := by
  have hkey : (issueOf opc h f g s).k = s.cur.key := rfl
  have hforks := updGroup_of (s.begun g).fresh.2 s.cur.key (fun y => { y with forks := y.forks ++ [s.nextId] }) (begun_group g s)
  have hstate : (s.begun g).fresh.2.setGroup s.cur.key { g.begun s with forks := (g.begun s).forks ++ [s.nextId] } =
      s.fresh.2.setGroup s.cur.key { g.begun s with forks := (g.begun s).forks ++ [s.nextId] } := setGroup_setGroup s.fresh.2 _ _ _
  rw [postOp]
  dsimp only
  rw [hkey]
  erw [hforks, hstate, enqueueMark_setGroup (putOp _ s.fresh.2)]
  rw [key_div hslot, key_mod hslot]
  rfl

section
variable (hv : view i = some (opc, h, f)) (hi : Issues opc h f g s) (hslot : Rules.slotOk s) (hfree : Rules.memoryFree opc h f g s)
include hv hi hslot hfree

/-- An instruction whose body posts an operation, and nothing else. -/
theorem exec_posts {body : Iss → Group → State → Option State} {scope : Scope} {kind : OpKind} (hne : opc ≠ 0xd1)
    (hop : opOf opc h f s = groupIssue opc h f (memEff body) s)
    (hbody : body (issueOf opc h f g s) g (s.begun g) = some (postOp (issueOf opc h f g s) g scope kind (s.begun g))) :
    exec i s = .next (Rules.posts h g s scope kind) := by
  rw [exec_of_effect hv hne hop hi ((memEff_of_free _ hfree).trans hbody), postOp_begun hslot, issued_setGroup_of]
  rfl

/-- A command that its engines have room for is posted. -/
theorem exec_command {body : Iss → Group → State → Option State} {scope : Scope} {kind : OpKind} {es : List Nat} (hne : opc ≠ 0xd1)
    (hop : opOf opc h f s = groupIssue opc h f (memEff body) s) (hroom : engineFull (s.begun g) s.cur.unit es = false)
    (hbody : body (issueOf opc h f g s) g (s.begun g) =
      if engineFull (s.begun g) ((issueOf opc h f g s).k / 128) es then none
      else some (postOp (issueOf opc h f g s) g scope kind (s.begun g))) :
    exec i s = .next (Rules.posts h g s scope kind) := by
  have hunit : (issueOf opc h f g s).k / 128 = s.cur.unit := key_div hslot
  exact exec_posts hv hi hslot hfree hne hop (hbody.trans (if_neg (by rw [hunit, hroom]; exact Bool.false_ne_true)))

end

/-- `msend` to an element of this node is posted. -/
theorem exec_msend (hv : view i = some (0x95, h, f)) (hi : Issues 0x95 h f g s) (hslot : Rules.slotOk s)
    (hfree : Rules.memoryFree 0x95 h f g s) {va : Nat}
    (helem : elemOf (issueOf 0x95 h f g s) g (memOffset (issueOf 0x95 h f g s) g) false true false = .ok (some va))
    (hnode : nodeOf va = s.regs.nodeId) :
    let x := issueOf 0x95 h f g s
    let low := match (blockOf s g).bind (·.share s.cur.unit) with | some sh => sh.low | none => s.cur.sub
    exec i s = .next (Rules.posts h g s 4 (.msg va (g.readS s.cur.clock x.o.d, g.readS s.cur.clock (x.o.d + 1)) low)) := by
  have hpeer : peerBad (s.begun g) va = none := if_neg (not_not_intro hnode)
  refine exec_posts hv hi hslot hfree (by decide) (opOf_msend h f s) ?_
  dsimp only
  rw [helem]
  dsimp only
  rw [hpeer, ← key_div hslot, ← key_mod hslot]
  rfl

/-- `qpost` to a queue of its tenant is posted, and D is out of use until its status arrives. -/
theorem exec_qpost (hv : view i = some (0x96, h, f)) (hi : Issues 0x96 h f g s) (hslot : Rules.slotOk s)
    (hfree : Rules.memoryFree 0x96 h f g s) (hqueue : memOffset (issueOf 0x96 h f g s) g < 64)
    (hours : (s.queue (memOffset (issueOf 0x96 h f g s) g)).tenant = g.tenant) :
    let x := issueOf 0x96 h f g s
    exec i s = .next ((Rules.postState h g s
        (.post (memOffset x g) ((List.range 8).map fun j => g.readS s.cur.clock (x.o.a + j)) x.o.d)).setGroup s.cur.key
      (Rules.ended g h s ((Rules.postGroup g s 6 (g.begun s)).mark s.nextId .s x.o.d (BitVec.allOnes 64)))) := by
  rw [exec_of_effect hv (by decide) (opOf_qpost h f s) hi ((memEff_of_free _ hfree).trans
    ((if_neg (Nat.not_le.mpr hqueue)).trans (if_neg (not_not_intro hours))))]
  dsimp only
  rw [postOp_begun hslot]
  erw [updGroup_of _ _ _ (group_setGroup _ _ _), setGroup_setGroup, issued_setGroup_of]
  rfl

end

/-- Settles O22: each command is one post, which its checks and the room of its engines let through. -/
theorem engineCommand : Obligations.EngineCommand := by
  unfold Obligations.EngineCommand
  intro i opc h f g s hv hi hslot hfree
  dsimp only
  refine ⟨?cpy, ?mfill, ?xpush, ?xpull, ?msend, ?qpost⟩
  case cpy =>
    rintro rfl c hcmd hroom
    exact exec_command hv hi hslot hfree (by decide) (opOf_cpy h f s) hroom (by rw [hcmd])
  case mfill =>
    rintro rfl c hcmd hroom
    exact exec_command hv hi hslot hfree (by decide) (opOf_mfill h f s) hroom (by rw [hcmd])
  case xpush =>
    rintro rfl c hcmd hroom
    exact exec_command hv hi hslot hfree (by decide) (opOf_xpush h f s) hroom (by rw [hcmd])
  case xpull =>
    rintro rfl c hcmd hroom
    exact exec_command hv hi hslot hfree (by decide) (opOf_xpull h f s) hroom (by rw [hcmd])
  case msend =>
    rintro rfl va helem hnode
    exact exec_msend hv hi hslot hfree helem hnode
  case qpost =>
    rintro rfl hqueue hours
    exact ⟨_, exec_qpost hv hi hslot hfree hqueue hours, _, _, _, rfl, notesKept_mark⟩

end Sys2Proof.Laws
end

section
/-!
SUPPORT. Accesses of the host through its window, and what it is asked of its pages (R306, R361, R365, R418).
-/

namespace Sys2Proof.Laws

open Sys2Proof.Machine

/-! ## The window onto near memory (R306, R361) -/

/-- Bytes of two ranges, one after the other. -/
theorem readBytes_add (m : ZMap 8) (a k n : Nat) : readBytes m a (k + n) = readBytes m a k ++ readBytes m (a + k) n := by
  induction k generalizing a with
  | zero => rw [Nat.zero_add]; rfl
  | succ k ih => rw [Nat.succ_add, readBytes, ih (a + 1), readBytes, Nat.add_assoc a 1 k, Nat.add_comm 1 k]; rfl

/-- A span within lines that nobody holds is read whole, line by line. -/
theorem windowRead_of_free {s : State} {fuel pa n : Nat} (hfuel : n = 0 ∨ pa % 128 + n ≤ 128 * fuel)
    (hfree : ∀ i, pa / 128 ≤ i → i ≤ (pa + n - 1) / 128 → l2Free s i = true) :
    windowRead fuel pa n s = some (readBytes s.mem pa n) := by
  induction fuel generalizing pa n with
  | zero =>
    obtain rfl : n = 0 := by omega
    rfl
  | succ fuel ih =>
    rw [windowRead]
    by_cases hn : n = 0
    · rw [if_pos hn, hn]; rfl
    · have hline : l2Free s (pa / 128) = true := hfree _ (Nat.le_refl _) (by omega)
      have hrest := ih (pa := pa + min n (128 - pa % 128)) (n := n - min n (128 - pa % 128)) (by omega)
        fun i hlo hhi => hfree i (by omega) (by omega)
      have hsplit : min n (128 - pa % 128) + (n - min n (128 - pa % 128)) = n := Nat.add_sub_cancel' (Nat.min_le_left _ _)
      rw [if_neg hn]
      dsimp only
      rw [hline, hrest, Bool.not_true, if_neg Bool.false_ne_true, Option.map_some, ← readBytes_add, hsplit]

section
variable {off n : Nat} {s : State} (hlive : s.regs.dead = false) (hspan : off + n ≤ 2 ^ 28) (hsome : n ≠ 0)
  (hfirst : nearPA (s.regs.winBase + off) = true) (hlast : nearPA (s.regs.winBase + off + n - 1) = true)
include hlive hspan hsome

/-- A span of the window of a device that lives is no empty access and none beyond the window. -/
theorem window_open : ¬(s.regs.dead || decide (2 ^ 28 < off + n) || decide (n = 0)) = true := by
  rw [hlive, Bool.false_or, Bool.or_eq_true, decide_eq_true_eq, decide_eq_true_eq]
  omega

include hfirst hlast

/-- A span of near memory whose lines are free is served: a read gives its bytes, a write is made line by line. -/
theorem windowServe_of_free
    (hfree : ∀ i, (s.regs.winBase + off) / 128 ≤ i → i ≤ (s.regs.winBase + off + n - 1) / 128 → l2Free s i = true) :
    windowServe (.read off n) s = some { s with net := s.net ++ [.hostData (readBytes s.mem (s.regs.winBase + off) n)] } ∧
    ∀ bs : List Byte, bs.length = n →
      windowServe (.write off bs) s = some (windowWrite (n / 128 + 2) (s.regs.winBase + off) bs s) := by
  have hread : windowRead (n / 128 + 2) (s.regs.winBase + off) n s = some (readBytes s.mem (s.regs.winBase + off) n) :=
    windowRead_of_free (by omega) hfree
  have hnear : ¬(!nearPA (s.regs.winBase + off) || !nearPA (s.regs.winBase + off + n - 1)) = true := by simp [hfirst, hlast]
  constructor
  · rw [windowServe]
    dsimp only
    rw [if_neg (window_open hlive hspan hsome), if_neg hnear, hread]
    rfl
  · rintro bs rfl
    rw [windowServe]
    dsimp only
    rw [if_neg (window_open hlive hspan hsome), if_neg hnear, hread]
    rfl

end

section
variable {r : HostAccess} {s t : State}

/-- An access that arrives alone and is served leaves what serving it leaves. -/
theorem windowAccess_of_served (hwait : s.hostWait = []) (hserve : windowServe r s = some t) : windowAccess false r s = t := by
  rw [windowAccess, hwait, hserve]; rfl

/-- One that cannot be served waits. -/
theorem windowAccess_of_held (hwait : s.hostWait = []) (hserve : windowServe r s = none) :
    windowAccess false r s = { s with hostWait := [r] } := by
  rw [windowAccess, hwait, hserve]; rfl

/-- One that arrives behind others waits behind them. -/
theorem windowAccess_behind (hwait : s.hostWait ≠ []) : windowAccess false r s = { s with hostWait := s.hostWait ++ [r] } := by
  rw [windowAccess, if_neg Bool.false_ne_true, if_pos (by simpa using hwait)]

/-- The oldest that waits is tried again. -/
theorem windowAccess_again {x : HostAccess} {xs : List HostAccess} (hwait : s.hostWait = x :: xs)
    (hserve : windowServe x { s with hostWait := xs } = some t) : windowAccess true r s = t := by
  rw [windowAccess, if_pos rfl, hwait]
  exact congrArg (Option.getD · s) hserve

end

/-! ## Translation services of the host (R365, R418) -/

section
variable {page : Nat} {s : State}

/-- A translation completes: the requests that wait for it take its outcome, and what stands behind them is settled. -/
theorem atsComplete_of_asked (hask : page ∈ s.atsAsk) (r : AtsResult) :
    let u : State := { s with atsAsk := s.atsAsk.filter (· ≠ page) }
    atsComplete page r s = (List.range 4).foldl (fun s d => settleDie d s) (match r with
      | .found p => answerAts page (fun x => .found { x with hostPage := some p })
        { u with ats := ((page, p) :: s.ats.filter fun e => e.1 ≠ page).take 1024 }
      | .denied => answerAts page (fun _ => .pri page) (admitPri { u with priLate := s.priLate ++ [page] })) := by
  rw [atsComplete, List.contains_iff_mem.mpr hask]
  cases r <;> rfl

section
variable (hpri : page ∈ s.pri)
include hpri

/-- A page request that the host grants: its accesses replay, and requests on their way are translated again. -/
theorem priResponse_of_granted :
    let on (_ : Access) (r : Req) : Bool := r.tr = .pri page
    priResponse page true s = askOpen (fun t => t = .pri page)
      (((s.accs.map Prod.snd).filter fun a => a.parked && a.reqs.any (on a)).foldl (fun s a => replay a.id s)
        (admitPri { s with pri := s.pri.filter (· ≠ page), priWait := s.priWait.filter fun w => w.1 ≠ page })) := by
  rw [priResponse, List.contains_iff_mem.mpr hpri]
  rfl

/-- One that it refuses: whoever waits for the page takes TRANSLATE. -/
theorem priResponse_of_refused :
    let on (_ : Access) (r : Req) : Bool := r.tr = .pri page
    priResponse page false s = ((s.priWait.filter fun w => w.1 = page).map Prod.snd).foldl (refuseAgent cTRANSLATE)
      (refuseOpen cTRANSLATE on (fun _ _ e => e.tr = .pri page) (refuseSaved cTRANSLATE on (refuseParked cTRANSLATE on
        (admitPri { s with pri := s.pri.filter (· ≠ page), priWait := s.priWait.filter fun w => w.1 ≠ page })))) := by
  rw [priResponse, List.contains_iff_mem.mpr hpri]
  rfl

end

/-- An invalidation enters its queue with the translation that stood, if one did. -/
theorem atsInvalidate_of_room (hroom : s.atsInv.length < 32) :
    atsInvalidate page false s = { s with
      ats := s.ats.filter fun e => e.1 ≠ page
      atsInv := s.atsInv ++ [(s.ats.find? fun e => e.1 = page).getD (page, 2 ^ 64)] } := by
  rw [atsInvalidate, Bool.not_false, if_pos rfl, if_neg (Nat.not_le.mpr hroom)]
  cases s.ats.find? fun e => e.1 = page <;> rfl

/-- It is acknowledged once no access uses the old translation. -/
theorem atsInvalidate_of_unused {e : Nat × Nat} (hfind : s.atsInv.find? (fun e => e.1 = page) = some e)
    (hunused : hostPageUsed s e.2 = false) :
    atsInvalidate page true s = { s with atsInv := s.atsInv.erase e, net := s.net ++ [.atsDone page] } := by
  rw [atsInvalidate, if_neg (by decide), hfind]
  exact if_neg (Bool.eq_false_iff.mp hunused)

end

/-- Settles O35: an access is served over free lines or waits in line, and each answer of the host is one case of its event. -/
theorem hostMemory : Obligations.HostMemory := by
  unfold Obligations.HostMemory
  intro s page goes
  have access {b : Bool} {r : HostAccess} {t : State} (hflag : s.input.flag = b) (hhost : s.input.host = r)
      (h : windowAccess b r s = t) : goes .hostBar4Access t := by subst hflag hhost h; rfl
  have ats {r : AtsResult} {t : State} (hr : s.input.ats = r) (h : atsComplete page r s = t) : goes .atsCompletion t := by
    subst hr h; rfl
  have pri {b : Bool} {t : State} (hflag : s.input.flag = b) (h : priResponse page b s = t) : goes .priResponse t := by
    subst hflag h; rfl
  have inv {b : Bool} {t : State} (hflag : s.input.flag = b) (h : atsInvalidate page b s = t) : goes .atsInvalidation t := by
    subst hflag h; rfl
  refine ⟨?read, ?write, ?behind, ?held, ?again, ?completion, ?response, ?invalidate, ?acknowledge⟩
  case read =>
    intro off n hhost hflag hwait hlive hspan hsome pa hfirst hlast hfree
    exact access hflag hhost (windowAccess_of_served hwait (windowServe_of_free hlive hspan hsome hfirst hlast hfree).1)
  case write =>
    intro off bs hhost hflag hwait hlive hspan hsome pa hfirst hlast hfree
    exact access hflag hhost (windowAccess_of_served hwait ((windowServe_of_free hlive hspan
      (mt List.length_eq_zero_iff.mp hsome) hfirst hlast hfree).2 bs rfl))
  case behind => exact fun hflag hwait => access hflag rfl (windowAccess_behind hwait)
  case held => exact fun hflag hwait hserve => access hflag rfl (windowAccess_of_held hwait hserve)
  case again => exact fun x xs t hflag hwait hserve => access hflag rfl (windowAccess_again hwait hserve)
  case completion =>
    exact fun hask => ⟨fun p hr => ats hr (atsComplete_of_asked hask _), fun hr => ats hr (atsComplete_of_asked hask _)⟩
  case response =>
    exact fun hpri => ⟨fun hflag => pri hflag (priResponse_of_granted hpri), fun hflag => pri hflag (priResponse_of_refused hpri)⟩
  case invalidate => exact fun hflag hroom => inv hflag (atsInvalidate_of_room hroom)
  case acknowledge => exact fun hflag e hfind hunused => inv hflag (atsInvalidate_of_unused hfind hunused)

end Sys2Proof.Laws
end

section
/-!
SUPPORT. Device memory in an issue (R69, R95): which changes of the state leave every byte of memory, and what a fault record, which goes
to host memory, leaves of it.
-/

namespace Sys2Proof.Laws

open Sys2Proof.Machine

/-- The bytes of device memory: host memory stands at 2^64 and above (R360). -/
def deviceBytes (m : ZMap 8) (a : Nat) : Byte := if a < 2 ^ 64 then getZ m a else 0

theorem getZ_of_deviceBytes {m m' : ZMap 8} (h : deviceBytes m' = deviceBytes m) {a : Nat} (ha : a < 2 ^ 64) : getZ m' a = getZ m a := by
  have hbyte := congrFun h a
  rwa [deviceBytes, deviceBytes, if_pos ha, if_pos ha] at hbyte

/-- Bytes written to host memory leave device memory. -/
@[simp] theorem deviceBytes_writeBytes_host (m : ZMap 8) (a : Nat) (bs : List Byte) :
    deviceBytes (writeBytes m (2 ^ 64 + a) bs) = deviceBytes m := by
  funext x
  rw [deviceBytes, deviceBytes]
  split
  next hx => exact getZ_writeBytes_below _ _ _ _ (by omega)
  next => rfl

/-- What each of many steps leaves of memory, all of them leave. -/
theorem foldl_mem {α β : Type} (φ : ZMap 8 → β) {f : State → α → State} (hf : ∀ t x, φ (f t x).mem = φ t.mem) (l : List α)
    (s : State) : φ (l.foldl f s).mem = φ s.mem :=
  foldl_keeps (P := fun t => φ t.mem = φ s.mem) (fun t x ht => (hf t x).trans ht) l rfl

/-! ## What leaves memory as it was -/

@[simp] theorem acquireAt_mem (core : Nat) (scope : Scope) (s : State) : (acquireAt core scope s).mem = s.mem := by
  unfold acquireAt
  split <;> rfl

@[simp] theorem barrierTest_mem (blk j : Nat) (s : State) : (barrierTest blk j s).mem = s.mem := by
  unfold barrierTest
  split
  · rfl
  split
  · exact (updBlock_mem _ _ _).trans (foldl_mem id (fun t k => by rw [acquireAt_mem, updGroup_mem]) _ s)
  · rfl

@[simp] theorem exitLanes_mem (k : Nat) (m : W64) (s : State) : (exitLanes k m s).mem = s.mem := by
  unfold exitLanes
  split
  · rfl
  · exact (foldl_mem id (fun t j => barrierTest_mem _ j t) _ _).trans (updBlock_mem _ _ _)

@[simp] theorem retireGroup_mem (k : Nat) (s : State) : (retireGroup k s).mem = s.mem := by
  unfold retireGroup
  split
  · rfl
  split
  · rfl
  split
  · split <;> rfl
  · dsimp only
    split <;> exact updBlock_mem _ _ _

@[simp] theorem countError_mem (cause : Nat) (s : State) : (countError cause s).mem = s.mem := by
  unfold countError
  split <;> rfl

@[simp] theorem holdDatapath_mem (n : Nat) (s : State) : (holdDatapath n s).mem = s.mem := rfl

@[simp] theorem occupy_mem (opc : Nat) (o : Opnd) (s : State) : (occupy opc o s).mem = s.mem := by
  unfold occupy
  split <;> rfl

@[simp] theorem endHandler_mem (n k : Nat) (s : State) : (endHandler n k s).mem = s.mem := by
  unfold endHandler
  dsimp only
  split
  · exact updL2_mem _ _ _
  · rfl

@[simp] theorem complete_mem (k : Nat) (b : Bundle) (h : Hdr) (s : State) : (complete k b h s).mem = s.mem := updGroup_mem _ _ _

@[simp] theorem scalarResult_mem (x : Iss) (d : Nat) (v : W64) (s : State) : (scalarResult x d v s).mem = s.mem := updGroup_mem _ _ _

@[simp] theorem sendLanes_mem (x : Iss) (m : W64) (pc : Nat → W64) (s : State) : (sendLanes x m pc s).mem = s.mem := updGroup_mem _ _ _

@[simp] theorem markGroup_mem (k : Nat) (scope : Scope) (m : Mark) (s : State) : (markGroup k scope m s).mem = s.mem :=
  updGroup_mem _ _ _

@[simp] theorem procRetire_mem (p : Proc) (h : Hdr) (s : State) : (procRetire p h s).mem = s.mem := by
  unfold procRetire
  dsimp only
  split <;> rfl

/-! ## Rings (R81, R82) -/

theorem ringMove_mem {blk q : Nat} {s t : State} (h : ringMove blk q s = some t) : t.mem = s.mem := by
  revert h
  unfold ringMove
  split
  · exact nofun
  extract_lets
  split
  · split
    · extract_lets
      split
      · exact nofun
      · rintro ⟨⟩
        exact updGroup_mem _ _ _
    · rintro ⟨⟩
      rw [updGroup_mem]
      split
      · exact acquireAt_mem _ _ _
      · rfl
  split
  · exact nofun
  split
  · exact nofun
  · rintro ⟨⟩
    rw [updGroup_mem]
    split
    · exact markGroup_mem _ _ _ _
    · rfl

@[simp] theorem ringMoves_mem (blk q n : Nat) (s : State) : (ringMoves blk q n s).mem = s.mem := by
  induction n generalizing s with
  | zero => rfl
  | succ n ih =>
    rw [ringMoves]
    split
    next h => rw [ih, ringMove_mem h]
    next => rfl

@[simp] theorem wakeStreams_mem (blk : Nat) (s : State) : (wakeStreams blk s).mem = s.mem := by
  refine foldl_mem id (fun t q => ?_) _ s
  split
  · rfl
  · exact ringMoves_mem _ _ _ t

@[simp] theorem ungather_mem (x : Iss) (a : Gather) (s : State) : (ungather x a s).mem = s.mem := by
  have acquired (b : Bool) (t : State) : (if b then acquireAt (x.k / 128) 2 t else t).mem = t.mem := by
    split
    · exact acquireAt_mem _ _ t
    · rfl
  have marked (l : List (Nat × Nat)) (t : State) :
      (l.foldl (fun s y => markGroup x.k 2 (.pushed a.g.block y.1 y.2) s) t).mem = t.mem :=
    foldl_mem id (fun t y => markGroup_mem _ _ _ t) l t
  unfold ungather
  dsimp only
  split
  · rfl
  split
  · rfl
  rw [wakeStreams_mem]
  split
  · rw [marked, acquired, setGroup_mem]
  · dsimp only
    rw [updGroup_mem, marked, acquired, setGroup_mem]

@[simp] theorem parkStream_mem (x : Iss) (q : Nat) (regs : List Nat) (a : Gather) (s : State) : (parkStream x q regs a s).mem = s.mem := by
  rw [parkStream, occupy_mem, ungather_mem]

/-! ## What posts fault records (R378, R386, R425) -/

@[simp] theorem deviceBytes_postRec (r : FaultRec) (s : State) : deviceBytes (postRec r s).mem = deviceBytes s.mem := by
  unfold postRec
  split
  · split <;> rfl
  · exact deviceBytes_writeBytes_host _ _ _

@[simp] theorem deviceBytes_takeTrap (k : Nat) (c : TrapCtx) (fs : List LaneFault) (s : State) :
    deviceBytes (takeTrap k c fs s).mem = deviceBytes s.mem := by
  have posted (f : List LaneFault → FaultRec) (l : List (List LaneFault)) (t : State) :
      deviceBytes (l.foldl (fun s fs => postRec (f fs) s) t).mem = deviceBytes t.mem :=
    foldl_mem deviceBytes (fun t fs => deviceBytes_postRec (f fs) t) l t
  have entered (p : List LaneFault → Bool) (f : List LaneFault → FaultRec) (l : List (List LaneFault)) (t : State) :
      deviceBytes (l.foldl (fun s fs => if p fs then s else postRec (f fs) s) t).mem = deviceBytes t.mem := by
    refine foldl_mem deviceBytes (fun t fs => ?_) l t
    split
    · rfl
    · exact deviceBytes_postRec _ t
  unfold takeTrap
  split
  · rfl
  dsimp only
  split
  · rw [posted, entered, setGroup_mem]
  · rw [retireGroup_mem, exitLanes_mem, posted, posted, entered, setGroup_mem]

@[simp] theorem deviceBytes_precise (k : Nat) (fs : List LaneFault) (s : State) :
    deviceBytes (precise k fs s).mem = deviceBytes s.mem := by
  unfold precise
  split
  · rfl
  · exact deviceBytes_takeTrap k _ fs s

@[simp] theorem deviceBytes_illegal (x : Iss) (m : W64) (sub : Nat) (s : State) :
    deviceBytes (illegal x m sub s).mem = deviceBytes s.mem := deviceBytes_precise _ _ s

@[simp] theorem deviceBytes_procFault (cause sub : Nat) (a : W64) (s : State) :
    deviceBytes (procFault cause sub a s).mem = deviceBytes s.mem := by
  unfold procFault
  split
  · rw [handlerFault, endHandler_mem, deviceBytes_postRec, countError_mem]
  · rw [scriptFault, updScript_mem, deviceBytes_postRec, countError_mem]

/-! ## One issue (R419) -/

/-- An effect that answers a state leaves device memory as in this one. -/
def KeepsDevice (s : State) (o : Option State) : Prop := ∀ t, o = some t → deviceBytes t.mem = deviceBytes s.mem

@[simp] theorem keepsDevice_some {s t : State} : KeepsDevice s (some t) ↔ deviceBytes t.mem = deviceBytes s.mem :=
  ⟨fun h => h t rfl, fun h u e => by rw [← Option.some.inj e, h]⟩

@[simp] theorem keepsDevice_none {s : State} : KeepsDevice s none := fun _ e => absurd e.symm (Option.some_ne_none _)

section
variable {opc : Nat} {h : Hdr} {f : Form} {s : State}

/-- An issue of a group leaves device memory where its effect does: what goes before posts fault records at most. -/
theorem deviceBytes_groupIssue {eff : Iss → Group → State → Option State} (heff : ∀ x g t, KeepsDevice t (eff x g t)) :
    deviceBytes (groupIssue opc h f eff s).mem = deviceBytes s.mem := by
  unfold groupIssue
  split
  · split
    · exact deviceBytes_procFault _ _ _ s
    · rfl
  dsimp only
  split
  · rfl
  split
  · split
    · rfl
    split
    · rw [complete_mem, deviceBytes_precise, countError_mem, occupy_mem, setGroup_mem]
    · rw [complete_mem, occupy_mem, setGroup_mem]
  split
  · rw [complete_mem, deviceBytes_precise, setGroup_mem]
  split
  · rfl
  split
  · rw [complete_mem, deviceBytes_precise, occupy_mem, setGroup_mem]
  split
  · rw [complete_mem, deviceBytes_precise, countError_mem, occupy_mem, updBlock_mem, setGroup_mem]
  split
  · rfl
  next he => rw [complete_mem, heff _ _ _ _ he, setGroup_mem]

/-- The same for an issue of a context. -/
theorem deviceBytes_procIssue {eff : Opnd → Proc → State → PRes} (heff : ∀ o p t, KeepsDevice t (leftBy (eff o p t))) :
    deviceBytes (procIssue opc h f eff s).mem = deviceBytes s.mem := by
  unfold procIssue
  split
  · exact deviceBytes_groupIssue fun x g t => keepsDevice_some.mpr rfl
  split
  · rfl
  dsimp only
  split
  · exact deviceBytes_procFault _ _ _ s
  split
  · exact deviceBytes_procFault _ _ _ s
  have hleft := heff (opndOf opc f) { curProc s with pc := (nextPc s.cur).toNat } s
  split
  next he => rw [he] at hleft; rw [procRetire_mem, hleft _ rfl]
  next he => rw [he] at hleft; rw [setHeld_mem, hleft _ rfl]
  next => exact deviceBytes_procFault _ _ _ s
  next he => rw [he] at hleft; exact hleft _ rfl

end

end Sys2Proof.Laws
end

section
/-!
SUPPORT. Instructions on registers, lanes and stream ports (R95, R168, R206): the effect of each leaves device memory as it was.
-/

namespace Sys2Proof.Laws

open Sys2Proof.Machine

/-! ## Vector instructions (R206) -/

section
variable (x : Iss) (g : Group) (s : State)

theorem vectorEff_keeps (asInt : Bool) (fn : Iss → Group → Srcs → VRes) : KeepsDevice s (vectorEff asInt fn x g s) := by
  unfold vectorEff
  dsimp only
  split <;> simp

theorem compareEff_keeps (rel : Opnd → Nat → Nat → Bool) : KeepsDevice s (compareEff rel x g s) := by
  unfold compareEff
  dsimp only
  split <;> simp

theorem quantEff_keeps : KeepsDevice s (quantEff x g s) := by
  unfold quantEff
  dsimp only
  split
  · simp
  · split <;> simp

theorem dequantEff_keeps : KeepsDevice s (dequantEff x g s) := by
  unfold dequantEff
  dsimp only
  split <;> simp

theorem ballotEff_keeps : KeepsDevice s (ballotEff x g s) := by
  unfold ballotEff
  dsimp only
  split <;> simp

theorem sysWrite_keeps (trap : Bool) (code : Nat) (v : W64) : KeepsDevice s (sysWrite s x trap code v) := by
  unfold sysWrite
  split
  case h_6 => split <;> simp
  all_goals simp

end

section
variable {h : Hdr} {f : Form} {s : State}

/-! ## Issues of one shared form -/

@[simp] theorem deviceBytes_vectorIssue (asInt : Bool) (fn : Iss → Group → Srcs → VRes) (opc : Nat) :
    deviceBytes (groupIssue opc h f (vectorEff asInt fn) s).mem = deviceBytes s.mem :=
  deviceBytes_groupIssue fun x g t => vectorEff_keeps x g t asInt fn

@[simp] theorem deviceBytes_compareIssue (rel : Opnd → Nat → Nat → Bool) (opc : Nat) :
    deviceBytes (groupIssue opc h f (compareEff rel) s).mem = deviceBytes s.mem :=
  deviceBytes_groupIssue fun x g t => compareEff_keeps x g t rel

@[simp] theorem deviceBytes_scalarOp (fn : Opnd → W64 → W64 → W64 → W64) (opc : Nat) :
    deviceBytes (scalarOp fn opc h f s).mem = deviceBytes s.mem := by
  unfold scalarOp
  split
  · exact deviceBytes_groupIssue fun x g t => by simp
  · exact deviceBytes_procIssue fun o p t => by simp [leftBy]

@[simp] theorem deviceBytes_opVquant : deviceBytes (opVquant h f s).mem = deviceBytes s.mem := deviceBytes_groupIssue quantEff_keeps
@[simp] theorem deviceBytes_opVdequant : deviceBytes (opVdequant h f s).mem = deviceBytes s.mem :=
  deviceBytes_groupIssue dequantEff_keeps
@[simp] theorem deviceBytes_opVballot : deviceBytes (opVballot h f s).mem = deviceBytes s.mem :=
  deviceBytes_groupIssue ballotEff_keeps

/-! ## Scalars and predicates (R169 to R179, R195 to R198) -/

@[simp] theorem deviceBytes_opNop : deviceBytes (opNop h f s).mem = deviceBytes s.mem := by
  unfold opNop
  split
  · exact deviceBytes_groupIssue fun x g t => by simp
  · exact deviceBytes_procIssue fun o p t => by simp [leftBy]

@[simp] theorem deviceBytes_opSfromv : deviceBytes (opSfromv h f s).mem = deviceBytes s.mem := by
  unfold opSfromv
  split
  · refine deviceBytes_groupIssue fun x g t => ?_
    dsimp only
    split <;> simp
  · exact deviceBytes_procIssue fun o p t => by simp [leftBy]

@[simp] theorem deviceBytes_opSread : deviceBytes (opSread h f s).mem = deviceBytes s.mem := by
  unfold opSread
  split
  · refine deviceBytes_groupIssue fun x g t => ?_
    split <;> simp
  · refine deviceBytes_procIssue fun o p t => ?_
    split <;> simp [leftBy]

@[simp] theorem deviceBytes_opSwrite : deviceBytes (opSwrite h f s).mem = deviceBytes s.mem := by
  unfold opSwrite
  split
  · refine deviceBytes_groupIssue fun x g t => ?_
    dsimp only
    split
    next hw => exact keepsDevice_some.mpr (sysWrite_keeps x t _ _ _ _ hw)
    next => simp
  · exact deviceBytes_procIssue fun o p t => by simp [leftBy]

@[simp] theorem deviceBytes_opElect : deviceBytes (opElect h f s).mem = deviceBytes s.mem :=
  deviceBytes_groupIssue fun x g t => by simp

@[simp] theorem deviceBytes_opJmov : deviceBytes (opJmov h f s).mem = deviceBytes s.mem := by
  refine deviceBytes_groupIssue fun x g t => ?_
  dsimp only
  split <;> simp

@[simp] theorem deviceBytes_opPlog : deviceBytes (opPlog h f s).mem = deviceBytes s.mem :=
  deviceBytes_groupIssue fun x g t => by simp

@[simp] theorem deviceBytes_opPmov : deviceBytes (opPmov h f s).mem = deviceBytes s.mem := by
  refine deviceBytes_groupIssue fun x g t => ?_
  dsimp only
  split <;> simp

/-! ## Control (R180 to R182, R185, R191, R192, R194) -/

@[simp] theorem deviceBytes_opBra : deviceBytes (opBra h f s).mem = deviceBytes s.mem := by
  unfold opBra
  split
  · refine deviceBytes_groupIssue fun x g t => ?_
    split <;> simp
  · refine deviceBytes_procIssue fun o p t => ?_
    split <;> simp [leftBy]

@[simp] theorem deviceBytes_opSbra : deviceBytes (opSbra h f s).mem = deviceBytes s.mem := by
  unfold opSbra
  split
  · refine deviceBytes_groupIssue fun x g t => ?_
    split_ifs <;> simp
  · refine deviceBytes_procIssue fun o p t => ?_
    split_ifs <;> simp [leftBy]

@[simp] theorem deviceBytes_opBrx : deviceBytes (opBrx h f s).mem = deviceBytes s.mem := by
  unfold opBrx
  split
  · exact deviceBytes_groupIssue fun x g t => by simp
  · refine deviceBytes_procIssue fun o p t => ?_
    dsimp only
    split <;> simp [leftBy]

@[simp] theorem deviceBytes_opRset : deviceBytes (opRset h f s).mem = deviceBytes s.mem :=
  deviceBytes_groupIssue fun x g t => by simp

@[simp] theorem deviceBytes_opRjoin : deviceBytes (opRjoin h f s).mem = deviceBytes s.mem :=
  deviceBytes_groupIssue fun x g t => by simp

@[simp] theorem deviceBytes_opTrap : deviceBytes (opTrap h f s).mem = deviceBytes s.mem := by
  refine deviceBytes_groupIssue fun x g t => ?_
  dsimp only
  split <;> simp

@[simp] theorem deviceBytes_opYield : deviceBytes (opYield h f s).mem = deviceBytes s.mem := by
  refine deviceBytes_groupIssue fun x g t => ?_
  split <;> simp

@[simp] theorem deviceBytes_opIfence : deviceBytes (opIfence h f s).mem = deviceBytes s.mem :=
  deviceBytes_groupIssue fun x g t => by simp

/-- The scalar and control opcodes that reach beyond registers: scalar accesses, calls, barriers, `exit`, monitors and `icinv`. -/
def beyondRegisters : List Nat := [0x18, 0x19, 0x1d, 0x23, 0x24, 0x25, 0x28, 0x29, 0x2a, 0x2b, 0x2f]

theorem registerOnly_bounds : ∀ opc ∈ Rules.registerOnly, opc < 0x80 ∧ opc ∉ beyondRegisters := by decide

/-- The operation of an opcode on registers is one of those above; the ones named here are an issue of a shared form. -/
theorem deviceBytes_opOf {opc : Nat} (hopc : opc ∈ Rules.registerOnly) : deviceBytes (opOf opc h f s).mem = deviceBytes s.mem := by
  have hbounds := registerOnly_bounds opc hopc
  clear hopc
  revert hbounds
  fun_cases opOf opc h f s <;> simp [beyondRegisters,
    -- scalars
    opSli, opSmov, opSadd, opSsub, opSmul, opSmulh, opSdiv, opSrem, opSand, opSor, opSxor, opSandn, opSshl, opSshr, opSsra, opSmin,
    opSmax, opScmp, opSsel, opSclz, opSpopc, opSbfx, opSbfi,
    -- element-wise integers and moves
    vecInt, opVadd, opVsub, opVmul, opVmulh, opVmad, opVabs, opVneg, opVmin, opVmax, opVand, opVor, opVxor, opVandn, opVshl, opVshr,
    opVsra, opVclz, opVpopc, opVbfx, opVbfi, opVsel, opVaddsat, opVsubsat, opVmov, opVli, opVfroms, opVlane,
    -- element-wise floating point
    vecFp, opVfadd, opVfsub, opVfmul, opVfma, opVfmin, opVfmax, opVfabs, opVfneg, opVfdiv, opVfsqrt, opVrcpa, opVrsqa, opVfexp2a,
    opVflog2a, opVfclass, opVfround, opVfldexp,
    -- comparisons, conversion and lanes
    opVcmp, opVfcmp, opVcvt, opVshfl, opVrot, opVbcast, opVred, opVscan, opVcompact]

end

/-- Settles O53: the operation of each opcode leaves device memory, whatever its checks answer. -/
theorem registerInstructionsLeaveMemory : Obligations.RegisterInstructionsLeaveMemory := by
  unfold Obligations.RegisterInstructionsLeaveMemory
  intro i opc h f s t hv hopc ht a ha
  have hd : opc ≠ 0xd1 := by rintro rfl; exact absurd hopc (by decide)
  obtain rfl : opOf opc h f s = t := Host.Outcome.next.inj ((exec_of_view s hv hd).symm.trans ht)
  exact getZ_of_deviceBytes (deviceBytes_opOf hopc) ha

end Sys2Proof.Laws
end

section
/-!
SUPPORT. Invalidation and page modes (R77, R118, R193, R201, R202): one issue of `tlbinv`, of `icinv` and of `pgmode`.
-/

namespace Sys2Proof.Laws

open Sys2Proof.Machine

theorem opOf_tlbinv (h : Hdr) (f : Form) (s : State) : opOf 0xe2 h f s = opTlbinv h f s := rfl
theorem opOf_icinv (h : Hdr) (f : Form) (s : State) : opOf 0x2f h f s = opIcinv h f s := rfl
theorem opOf_pgmode (h : Hdr) (f : Form) (s : State) : opOf 0xe1 h f s = opPgmode h f s := rfl

/-! ## `tlbinv` (R118, R202) -/

/-- The translations of an address, or with OPT 2 of the tenant, are gone: from every die's TLBs and walker, or with OPT 0 from those
of one die. -/
def withoutTarget (opt tenant va die : Nat) (s : State) : State :=
  let hit (x : Xlat) : Bool := if opt = 2 then x.tenant = tenant else x.covers tenant va
  let there (d : Nat) : Bool := opt ≠ 0 || d = die
  let way (c : Nat × Nat × Nat × Nat) : Bool := c.1 = tenant && (opt = 2 || c.2.2.1 = walkPrefix c.2.1 va)
  { s with
    cores := s.cores.map fun (c, x) => (c, if there (dieOf c) then { x with tlb := x.tlb.filter fun x => !hit x } else x)
    dies := s.dies.map fun (d, x) => (d,
      if there d then { x with tlb := x.tlb.filter (fun x => !hit x), cache := x.cache.filter fun c => !way c } else x) }

section
variable {i : Instr} {h : Hdr} {f : Form} {g : Group} {s : State}

/-- `tlbinv` drops the translations of its target, and its result is there at once. -/
theorem exec_tlbinv (hv : view i = some (0xe2, h, f)) (hi : Issues 0xe2 h f g s) (hslot : Rules.slotOk s) :
    let o := operands g 0xe2 f
    exec i s = .next
      ((withoutTarget o.opt g.tenant (g.readS s.cur.clock o.a).toNat (dieOf s.cur.unit) s).setGroup s.cur.key
        (Rules.ended g h s ((g.begun s).writeS s.cur.clock o.d 0 s.cur.clock))) := by
  let x := issueOf 0xe2 h f g s
  have hlat : latency 0xe2 (operands g 0xe2 f).typ = none := rfl
  have heffect : exec i s = .next (issued g h s (scalarResult x x.o.d 0
      ((withoutTarget x.o.opt g.tenant (g.readS s.cur.clock x.o.a).toNat (dieOf (s.cur.key / 128)) s).setGroup s.cur.key (g.begun s)))) :=
    exec_of_effect hv (by decide) (opOf_tlbinv h f s) hi rfl
  rw [heffect, key_div hslot, scalarResult_now hlat, issued_setGroup_of]
  rfl

end

/-! ## `icinv` (R193) -/

section
variable {g : Group} {s : State} {q : List Store} {c : Cursor} {b₀ : Bundle} {n : Nat}

/-- A group whose store queue alone an issue changes, at the end of the issue: the lanes of the bundle go on. -/
theorem lanesGo_queued :
    Rules.lanesGo ({ g.begun s with storeQ := q }.settle c b₀ n) g s fun _ => nextPc s.cur :=
  fun l hl => begun_lane g s l hl

theorem othersStay_queued : Rules.othersStay ({ g.begun s with storeQ := q }.settle c b₀ n) g s :=
  ⟨notesKept_refl [] s.cur.clock g, fun _ hb => List.mem_append_left _ hb⟩

/-- Every bundle that an issue makes is held as the cursor says. -/
theorem newBundles_queued : Rules.newBundles ({ g.begun s with storeQ := q }.settle c b₀ n) g s fun x => x.hold = c.hold := by
  intro b hb
  refine (List.mem_append.mp hb).imp_right fun hnew => ?_
  obtain ⟨x, -, rfl⟩ := List.mem_map.mp hnew
  rfl

theorem sameButIssue_queued : Rules.sameButIssue { { g.begun s with storeQ := q }.settle c b₀ n with storeQ := g.storeQ } g := rfl

end

section
variable {i : Instr} {h : Hdr} {f : Form} {g : Group} {s : State}

/-- The bundle's hold is the cursor's, beside the issuing group. -/
theorem holding_setGroup (s : State) (k : Nat) (G : Group) (x : Hold) :
    Rules.holding (s.setGroup k G) x = (Rules.holding s x).setGroup k G := rfl

/-- `icinv` of a range within the address space holds its bundle, and its marker enters the store queue behind a release. -/
theorem exec_icinv (hv : view i = some (0x2f, h, f)) (hi : Issues 0x2f h f g s) (hslot : Rules.slotOk s) :
    let o := operands g 0x2f f
    let first := (g.readS s.cur.clock o.a).toNat
    let last := first + (bWhole o (bScalar g s.cur.clock o)).toNat
    last ≤ 2 ^ 64 →
    exec i s = .next ({ Rules.holding s (.op s.nextId) with nextId := s.nextId + 2 }.setGroup s.cur.key
      ({ g.begun s with storeQ := g.storeQ ++ [Rules.marker (s.nextId + 1) g s o.opt (.icinv first last o.opt s.nextId)] }.settle
        (Rules.holding s (.op s.nextId)).cur (g.bundle s.cur.lanes) h.stall.toNat)) := by
  intro o first last hrange
  have heffect : exec i s = .next (issued g h s (Rules.holding (enqueueMark (s.cur.key / 128) (s.cur.key % 128) o.opt
      (.icinv first last o.opt s.nextId) ({ s with nextId := s.nextId + 1 }.setGroup s.cur.key (g.begun s))) (.op s.nextId))) :=
    exec_of_effect hv (by decide) (opOf_icinv h f s) hi (if_neg (Nat.not_lt.mpr hrange))
  rw [heffect, enqueueMark_setGroup, key_mod hslot, holding_setGroup, issued_setGroup_of]
  rfl

end

/-! ## `pgmode` (R77, R201) -/

/-- A mask that is not empty has a lowest lane. -/
theorem lowest_of_ne_zero {m : W64} (h : m ≠ 0) : ∃ l, lowest m = some l := by
  refine Option.isSome_iff_exists.mp (List.isSome_head?.mpr fun hnil => h (BitVec.eq_of_getLsbD_eq fun l _ => ?_))
  refine (Bool.eq_false_iff.mpr fun hl => ?_).trans BitVec.getLsbD_zero.symm
  exact List.ne_nil_of_mem (mem_lanesOf.mpr hl) hnil

section
variable {i : Instr} {opc : Nat} {h : Hdr} {f : Form} {g : Group} {s : State}

/-- The trap mode of the active lanes is that of the lane that acts for its bundle. -/
theorem trappedIn_active (hi : Issues opc h f g s) : g.trappedIn (activeOf g h s) = (g.lane (Rules.leadLane g h s)).trap := by
  obtain ⟨l, hl⟩ := lowest_of_ne_zero hi.lanes
  rw [Group.trappedIn, Rules.leadLane, hl]
  rfl

/-- Posting a `pgmode`: the operation is in flight, and D is out of use until it ends. -/
theorem postPgmode_begun (hi : Issues 0xe1 h f g s) (hslot : Rules.slotOk s) (va : Nat) (large : Bool) (leaf : W64) :
    let x := issueOf 0xe1 h f g s
    postPgmode x g va large leaf (s.begun g) =
      { s with
        nextId := s.nextId + 1
        ops := putN s.ops s.nextId (Rules.opBy 0xe1 h g s (.pgmode x.o.opt va large leaf x.o.d)) }.setGroup s.cur.key
        ((g.begun s).mark s.nextId .s x.o.d (BitVec.allOnes 64)) := by
  intro x
  have hmark : (s.begun g).fresh.2.updGroup x.k (fun y => y.mark (s.begun g).fresh.1 .s x.o.d (BitVec.allOnes 64)) =
      s.fresh.2.setGroup s.cur.key ((g.begun s).mark s.nextId .s x.o.d (BitVec.allOnes 64)) :=
    (updGroup_of (s.begun g).fresh.2 _ _ (begun_group g s)).trans (setGroup_setGroup s.fresh.2 _ _ _)
  have hcore : x.k / 128 = s.cur.unit := key_div hslot
  have hsub : x.k % 128 = s.cur.sub := key_mod hslot
  have htrap : g.trappedIn x.act = (g.lane (Rules.leadLane g h s)).trap := trappedIn_active hi
  rw [postPgmode]
  dsimp only
  rw [hmark, hcore, hsub, htrap]
  rfl

/-- A walk reads nothing that the start of an issue changes. -/
theorem walkOpen_begun (g : Group) (s : State) (d tenant va : Nat) (top : Bool) :
    walkOpen (s.begun g) d tenant va top = walkOpen s d tenant va top := rfl

theorem leafError_begun (g : Group) (s : State) (d tenant va : Nat) : leafError (s.begun g) d tenant va = leafError s d tenant va := rfl

theorem leafAt_begun (g : Group) (s : State) (tenant va : Nat) : leafAt (s.begun g) tenant va = leafAt s tenant va := rfl

/-- `pgmode` posts its operation with what it has read of the leaf: nothing where an entry is in error. -/
theorem exec_pgmode (hv : view i = some (0xe1, h, f)) (hi : Issues 0xe1 h f g s) (hslot : Rules.slotOk s) {large : Bool} {p : W64} :
    let va := (g.readS s.cur.clock (operands g 0xe1 f).a).toNat
    walkOpen s (dieOf s.cur.unit) g.tenant va true = true →
    (if leafError s (dieOf s.cur.unit) g.tenant va then large = false ∧ p = 0
      else leafAt s g.tenant va = some (large, p) ∧ p.getLsbD 9 = true) →
    exec i s = .next (issued g h s (postPgmode (issueOf 0xe1 h f g s) g va large p (s.begun g))) := by
  intro va hopen hleaf
  have hcore : (issueOf 0xe1 h f g s).k / 128 = s.cur.unit := key_div hslot
  have hva : (g.readS (issueOf 0xe1 h f g s).now (issueOf 0xe1 h f g s).o.a).toNat = va := rfl
  refine exec_of_effect hv (by decide) (opOf_pgmode h f s) hi ?_
  dsimp only
  rw [hcore, hva, walkOpen_begun, leafError_begun, leafAt_begun, hopen]
  split at hleaf
  next herror =>
    obtain ⟨rfl, rfl⟩ := hleaf
    rw [herror]
    rfl
  next hsound =>
    obtain ⟨hfound, hmig⟩ := hleaf
    rw [if_neg hsound, hfound]
    dsimp only
    rw [hmig]
    rfl

end

/-- Settles O15: each is one issue; `tlbinv` acts at once, `icinv` and `pgmode` leave a marker or an operation that acts later. -/
theorem invalidationResult : Obligations.InvalidationResult := by
  unfold Obligations.InvalidationResult
  intro i opc h f g s hv hi hslot
  dsimp only
  refine ⟨?tlbinv, ?icinv, ?pgmode⟩
  case tlbinv =>
    rintro rfl
    exact ⟨_, exec_tlbinv hv hi hslot, writesScalar_now _ 0⟩
  case icinv =>
    rintro rfl hrange
    exact ⟨_, exec_icinv hv hi hslot hrange, rfl, lanesGo_queued, othersStay_queued, newBundles_queued, sameButIssue_queued⟩
  case pgmode =>
    rintro rfl hopen large p hleaf
    rw [exec_pgmode hv hi hslot hopen hleaf, postPgmode_begun hi hslot, issued_setGroup_of]
    exact ⟨_, rfl, _, _, _, rfl, notesKept_mark⟩

end Sys2Proof.Laws
end

section
/-!
SUPPORT. Instruction words (R143 to R147, R419): a field is read back from the words it was written to, and an opcode and a form name one
constructor.
-/

namespace Sys2Proof.Laws

open Sys2Proof.Machine

/-! ## Word 0 (R144, R146) -/

section
variable (hi : BitVec 14) (h : Hdr) (opc len : Nat)

/-- LEN of word 0. -/
theorem word0_len : (word0 hi h opc len).extractLsb' 0 2 = BitVec.ofNat 2 len := BitVec.extractLsb'_append_eq_right

/-- OPC of word 0. -/
theorem word0_opc : (word0 hi h opc len).extractLsb' 2 8 = BitVec.ofNat 8 opc := by
  rw [word0, BitVec.extractLsb'_append_eq_of_le (by decide)]
  exact BitVec.extractLsb'_append_eq_right

/-- STALL of word 0. -/
theorem word0_stall : (word0 hi h opc len).extractLsb' 10 3 = h.stall := by
  rw [word0, BitVec.extractLsb'_append_eq_of_le (by decide), BitVec.extractLsb'_append_eq_of_le (by decide)]
  exact BitVec.extractLsb'_append_eq_right

/-- What lies above STALL in word 0. -/
theorem word0_above_stall {start n : Nat} (hs : 13 ≤ start) :
    (word0 hi h opc len).extractLsb' start n = (hi ++ BitVec.ofBool h.pneg ++ h.psel).extractLsb' (start - 13) n := by
  rw [word0, BitVec.extractLsb'_append_eq_of_le (by omega), BitVec.extractLsb'_append_eq_of_le (by omega),
    BitVec.extractLsb'_append_eq_of_le (by omega), Nat.sub_sub, Nat.sub_sub]

/-- PSEL of word 0. -/
theorem word0_psel : (word0 hi h opc len).extractLsb' 13 4 = h.psel := by
  rw [word0_above_stall hi h opc len (Nat.le_refl 13)]
  exact BitVec.extractLsb'_append_eq_right

/-- PNEG of word 0. -/
theorem word0_pneg : (word0 hi h opc len).getLsbD 17 = h.pneg := by
  have hbit : (word0 hi h opc len).extractLsb' 17 1 = BitVec.ofBool h.pneg := by
    rw [word0_above_stall hi h opc len (by decide), BitVec.extractLsb'_append_eq_of_le (by decide)]
    exact BitVec.extractLsb'_append_eq_right
  rw [BitVec.getLsbD_eq_extractLsb', hbit]
  cases h.pneg <;> rfl

/-- What lies above PNEG in word 0: the operand fields of its form. -/
theorem word0_operands {start n : Nat} (hs : 18 ≤ start) :
    (word0 hi h opc len).extractLsb' start n = hi.extractLsb' (start - 18) n := by
  rw [word0_above_stall hi h opc len (by omega), BitVec.extractLsb'_append_eq_of_le (by omega),
    BitVec.extractLsb'_append_eq_of_le (by omega), Nat.sub_sub, Nat.sub_sub]

/-- The header is read back from word 0. -/
theorem hdrOf_word0 : hdrOf (word0 hi h opc len) = h := by
  rw [hdrOf, word0_pneg, word0_psel, word0_stall]

/-- The opcode is read back from word 0. -/
theorem opcOf_word0 {opc : Nat} (hopc : opc < 256) : opcOf (word0 hi h opc len) = opc := by
  rw [opcOf, word0_opc, BitVec.toNat_ofNat, Nat.mod_eq_of_lt hopc]

end

/-- Field D of a single form, or of one with a literal. -/
theorem word0_d (d a : BitVec 7) (h : Hdr) (opc len : Nat) : (word0 (a ++ d) h opc len).extractLsb' 18 7 = d := by
  rw [word0_operands _ h opc len (Nat.le_refl 18)]
  exact BitVec.extractLsb'_append_eq_right

/-- Field A of a single form, or of one with a literal. -/
theorem word0_a (d a : BitVec 7) (h : Hdr) (opc len : Nat) : (word0 (a ++ d) h opc len).extractLsb' 25 7 = a := by
  rw [word0_operands _ h opc len (by decide)]
  exact BitVec.extractLsb'_append_eq_left

/-! ## The words of an extended form (R147) -/

/-- Word 0 of an extended form. -/
def extWord0 (opc : Nat) (h : Hdr) (x : Ext) (len : Nat) : W32 := word0 ((0 : BitVec 3) ++ x.type2 ++ x.pitch) h opc len
/-- Word 1 of an extended form. -/
def extWord1 (x : Ext) : W32 := x.bm ++ x.b ++ x.a ++ x.d
/-- Word 2 of an extended form. -/
def extWord2 (x : Ext) : W32 := (0 : BitVec 3) ++ x.cols ++ x.rows ++ x.mod ++ x.typ ++ x.c

theorem extWords_eq (opc : Nat) (h : Hdr) (x : Ext) (len : Nat) :
    extWords opc h x len = [extWord0 opc h x len, extWord1 x, extWord2 x] := rfl

section
variable (opc : Nat) (h : Hdr) (x : Ext) (len : Nat)

theorem extWord0_pitch : (extWord0 opc h x len).extractLsb' 18 6 = x.pitch := by
  rw [extWord0, word0_operands _ h opc len (Nat.le_refl 18)]
  exact BitVec.extractLsb'_append_eq_right

/-- What lies above PITCHM1 in word 0 of an extended form. -/
theorem extWord0_above_pitch {start n : Nat} (hs : 24 ≤ start) :
    (extWord0 opc h x len).extractLsb' start n = ((0 : BitVec 3) ++ x.type2).extractLsb' (start - 24) n := by
  rw [extWord0, word0_operands _ h opc len (by omega), BitVec.extractLsb'_append_eq_of_le (by omega), Nat.sub_sub]

theorem extWord0_type2 : (extWord0 opc h x len).extractLsb' 24 5 = x.type2 := by
  rw [extWord0_above_pitch opc h x len (Nat.le_refl 24)]
  exact BitVec.extractLsb'_append_eq_right

theorem extWord0_reserved : (extWord0 opc h x len).extractLsb' 29 3 = 0 := by
  rw [extWord0_above_pitch opc h x len (by decide)]
  exact BitVec.extractLsb'_append_eq_left

theorem extWord1_d : (extWord1 x).extractLsb' 0 10 = x.d := BitVec.extractLsb'_append_eq_right

theorem extWord1_a : (extWord1 x).extractLsb' 10 10 = x.a := by
  rw [extWord1, BitVec.extractLsb'_append_eq_of_le (by decide)]
  exact BitVec.extractLsb'_append_eq_right

theorem extWord1_b : (extWord1 x).extractLsb' 20 10 = x.b := by
  rw [extWord1, BitVec.extractLsb'_append_eq_of_le (by decide), BitVec.extractLsb'_append_eq_of_le (by decide)]
  exact BitVec.extractLsb'_append_eq_right

theorem extWord1_bm : (extWord1 x).extractLsb' 30 2 = x.bm := by
  rw [extWord1, BitVec.extractLsb'_append_eq_of_le (by decide), BitVec.extractLsb'_append_eq_of_le (by decide)]
  exact BitVec.extractLsb'_append_eq_left

theorem extWord2_c : (extWord2 x).extractLsb' 0 10 = x.c := BitVec.extractLsb'_append_eq_right

theorem extWord2_typ : (extWord2 x).extractLsb' 10 5 = x.typ := by
  rw [extWord2, BitVec.extractLsb'_append_eq_of_le (by decide)]
  exact BitVec.extractLsb'_append_eq_right

theorem extWord2_mod : (extWord2 x).extractLsb' 15 8 = x.mod := by
  rw [extWord2, BitVec.extractLsb'_append_eq_of_le (by decide), BitVec.extractLsb'_append_eq_of_le (by decide)]
  exact BitVec.extractLsb'_append_eq_right

/-- What lies above MOD in word 2 of an extended form. -/
theorem extWord2_above_mod {start n : Nat} (hs : 23 ≤ start) :
    (extWord2 x).extractLsb' start n = ((0 : BitVec 3) ++ x.cols ++ x.rows).extractLsb' (start - 23) n := by
  rw [extWord2, BitVec.extractLsb'_append_eq_of_le (by omega), BitVec.extractLsb'_append_eq_of_le (by omega),
    BitVec.extractLsb'_append_eq_of_le (by omega), Nat.sub_sub, Nat.sub_sub]

theorem extWord2_rows : (extWord2 x).extractLsb' 23 3 = x.rows := by
  rw [extWord2_above_mod x (Nat.le_refl 23)]
  exact BitVec.extractLsb'_append_eq_right

theorem extWord2_cols : (extWord2 x).extractLsb' 26 3 = x.cols := by
  rw [extWord2_above_mod x (by decide), BitVec.extractLsb'_append_eq_of_le (by decide)]
  exact BitVec.extractLsb'_append_eq_right

theorem extWord2_reserved : (extWord2 x).extractLsb' 29 3 = 0 := by
  rw [extWord2_above_mod x (by decide), BitVec.extractLsb'_append_eq_of_le (by decide)]
  exact BitVec.extractLsb'_append_eq_left

/-- The fields of an extended form are read back from its words. -/
theorem extOf_extWords : extOf (extWord0 opc h x len) (extWord1 x) (extWord2 x) = x := by
  rw [extOf, extWord0_type2, extWord0_pitch, extWord1_bm, extWord1_b, extWord1_a, extWord1_d, extWord2_cols, extWord2_rows, extWord2_mod,
    extWord2_typ, extWord2_c]

/-- An encoder leaves the reserved bits 0. -/
theorem reservedBits_extWords : reservedBits (extWord0 opc h x len) (extWord2 x) = false := by
  rw [reservedBits, extWord0_reserved, extWord2_reserved]
  rfl

end

/-! ## The words of a form (R143) -/

/-- A literal is read back from its two words. -/
theorem litWords_append (v : W64) : v.extractLsb' 32 32 ++ v.extractLsb' 0 32 = v :=
  BitVec.extractLsb'_append_extractLsb'

/-- The form and its fields are read back from the words of a form, and no reserved bit is set. -/
theorem formOf_encodeForm (opc : Nat) (h : Hdr) (f : Form) : formOf (encodeForm opc h f) = some (f, false) := by
  match f with
  | .single d a => rw [encodeForm, formOf, word0_d, word0_a]
  | .multi (.lit d a v) =>
    rw [encodeForm, litWords, formOf, word0_len, word0_d, word0_a, litWords_append]
    rfl
  | .multi (.ext x) =>
    have hlen : (extWord0 opc h x 1).extractLsb' 0 2 = 1 := word0_len ..
    rw [encodeForm, extWords_eq, formOf, hlen, extOf_extWords, reservedBits_extWords]
    rfl
  | .multi (.extLit x v) =>
    rw [encodeForm, extWords_eq, litWords, List.cons_append, List.cons_append, List.cons_append, List.nil_append, formOf, extOf_extWords,
      reservedBits_extWords, litWords_append]

/-- LEN counts the words of a form. -/
theorem encodeForm_eq_cons (opc : Nat) (h : Hdr) (f : Form) :
    ∃ hi len ws, encodeForm opc h f = word0 hi h opc len :: ws ∧ wordCount (word0 hi h opc len) = ws.length + 1 := by
  match f with
  | .single d a => exact ⟨_, _, _, rfl, by rw [wordCount, word0_len]; rfl⟩
  | .multi (.lit d a v) => exact ⟨_, _, _, rfl, by rw [wordCount, word0_len]; rfl⟩
  | .multi (.ext x) => exact ⟨_, _, _, rfl, by rw [wordCount, word0_len]; rfl⟩
  | .multi (.extLit x v) => exact ⟨_, _, _, rfl, by rw [wordCount, word0_len]; rfl⟩

/-! ## Opcodes and constructors (R159) -/

/-- The opcode of an instruction row is one that the map defines. -/
theorem opcDefined_of_view {i : Instr} {opc : Nat} {h : Hdr} {f : Form} (hv : view i = some (opc, h, f)) : opcDefined opc = true := by
  cases i <;> cases hv <;> rfl

/-- A defined opcode fits in OPC. -/
theorem lt_of_opcDefined {opc : Nat} (hd : opcDefined opc = true) : opc < 256 := by
  simp only [opcDefined, Bool.or_eq_true, Bool.and_eq_true, decide_eq_true_eq] at hd
  omega

/-- An offset is read back from fields D and A (R146). -/
theorem offOf_extractLsb' (off : BitVec 14) : offOf (off.extractLsb' 0 7) (off.extractLsb' 7 7) = off :=
  BitVec.extractLsb'_append_extractLsb'

/-- Without OPT 2 the constructor of 0xD1 is `cawait` (R357). -/
theorem buildMulti_cawait (h : Hdr) (m : Multi) (hm : buildMulti.cawaitIsMem m = false) : buildMulti 0xd1 h m = some (.cawait h m) :=
  if_neg (Bool.eq_false_iff.mp hm)

/-- The parts of an instruction name its constructor; OPT tells the rows of 0xD1 apart (R357). -/
theorem build_of_view {i : Instr} {opc : Nat} {h : Hdr} {f : Form} (hv : view i = some (opc, h, f)) (hrow : cawaitRow i = true) :
    build opc h f = some i := by
  cases i <;> cases hv
  case bra off => exact congrArg (fun o => some (Instr.bra h o)) (offOf_extractLsb' off)
  case call off => exact congrArg (fun o => some (Instr.call h o)) (offOf_extractLsb' off)
  case trap off => exact congrArg (fun o => some (Instr.trap h o)) (offOf_extractLsb' off)
  case cawait m => exact buildMulti_cawait h m ((Bool.not_eq_true' _).mp hrow)
  case cawaitMem m => exact if_pos hrow
  all_goals rfl

/-! ## Decoding (R419) -/

/-- A well-formed instruction has an opcode, a header and a form that pass the checks of steps 5 to 9. -/
theorem view_of_wellFormed {i : Instr} (hw : wellFormed i = true) :
    ∃ opc h f, view i = some (opc, h, f) ∧ staticSub opc f = none ∧ cawaitRow i = true := by
  unfold wellFormed at hw
  split at hw
  next => cases hw
  next opc h f hv =>
    rw [Bool.and_eq_true, Option.isNone_iff_eq_none] at hw
    exact ⟨opc, h, f, hv, hw⟩

/-- Parts that pass every check are not rejected. -/
theorem rejectOf_eq_none {opc : Nat} {f : Form} (hd : opcDefined opc = true) (hs : staticSub opc f = none) :
    rejectOf opc f false = none := by
  simp [rejectOf, hd, hs]

/-- Words that LEN counts decode by their form, whatever follows them. -/
theorem decode_append {w0 : W32} {ws : List W32} {f : Form} {i : Instr} (hcount : wordCount w0 = ws.length + 1)
    (hform : formOf (w0 :: ws) = some (f, false)) (hpass : rejectOf (opcOf w0) f false = none)
    (hbuild : build (opcOf w0) (hdrOf w0) f = some i) (rest : List W32) :
    decode (w0 :: ws ++ rest) = .ok (i, (w0 :: ws).length) := by
  have htake : (ws ++ rest).take (wordCount w0 - 1) = ws := by rw [hcount, Nat.add_sub_cancel, List.take_left]
  rw [List.cons_append, decode, htake, hform]
  simp only [hpass, hbuild, hcount, List.length_cons]

/-- Settles O54: the words give back the form, the form's checks pass again, and its parts name the instruction. -/
theorem encodeDecode : Obligations.EncodeDecode := by
  unfold Obligations.EncodeDecode
  intro i hw rest
  obtain ⟨opc, h, f, hv, hstatic, hrow⟩ := view_of_wellFormed hw
  have hdef : opcDefined opc = true := opcDefined_of_view hv
  obtain ⟨hi, len, ws, hwords, hcount⟩ := encodeForm_eq_cons opc h f
  have hopc : opcOf (word0 hi h opc len) = opc := opcOf_word0 hi h len (lt_of_opcDefined hdef)
  have hencode : encode i = word0 hi h opc len :: ws := by rw [encode, hv, ← hwords]
  rw [hencode]
  refine decode_append hcount (f := f) ?_ ?_ ?_ rest
  · rw [← hwords, formOf_encodeForm]
  · rw [hopc, rejectOf_eq_none hdef hstatic]
  · rw [hopc, hdrOf_word0, build_of_view hv hrow]

/-- Refutes O55: word 0 alone, with LEN 01 and no word behind it, decodes as the single form, and decoding claims three words. -/
theorem not_decodeEncode : ¬Obligations.DecodeEncode := by
  unfold Obligations.DecodeEncode
  intro hall
  have hdecode : decode [0x00000001] = .ok (.nop Rules.plainHdr, 3) := rfl
  obtain ⟨-, -, hle, -⟩ := hall _ _ _ hdecode
  exact absurd hle (by decide)

/-- Settles O60, word by word. -/
theorem decodedWords : Obligations.DecodedWords := by
  unfold Obligations.DecodedWords
  exact ⟨rfl, rfl, rfl, rfl, rfl, rfl, rfl, rfl, rfl, rfl, rfl, fun _ _ _ _ => rfl, fun _ => rfl⟩

end Sys2Proof.Laws
end

section
/-!
SUPPORT. Results of fixed latency (R151, R155): a register written with a latency, and the notes that the write leaves.
-/

namespace Sys2Proof.Laws

open Sys2Proof.Machine

/-- The operands of a form name their opcode. -/
@[simp] theorem opndOf_opc (opc : Nat) (f : Form) : (opndOf opc f).opc = opc := by
  cases f with
  | single => rfl
  | multi m => cases m <;> rfl

/-- The operands of an instruction that moves no 16-byte elements are those of its form. -/
theorem operands_eq {g : Group} {opc : Nat} {f : Form} (hquad : opc ≠ 0x80 ∧ opc ≠ 0x81 ∧ opc ≠ 0x85) :
    operands g opc f = opndOf opc f := by
  obtain ⟨h80, h81, h85⟩ := hquad
  rw [operands, fixQuad]
  simp only [opndOf_opc, h80, h81, h85, decide_false, Bool.or_self, Bool.false_and, Bool.false_eq_true, if_false]

/-- A noted write keeps the notes of every other register, whenever its value is ready. -/
theorem notesKept_notePend {f : RFile} {r now ready : Nat} {m : W64} {olds : List W64} {soft : Bool} {g : Group} :
    Rules.notesKept [(f, r)] now g (g.notePend now f r m olds ready soft).pend (g.notePend now f r m olds ready soft).score
      (g.notePend now f r m olds ready soft).badRegs := by
  have hnow := notesKept_write (f := f) (r := r) (now := now) (m := m) (g := g)
  by_cases hlate : now < ready
  · obtain ⟨-, -, hrest⟩ := hnow
    rw [Group.notePend, if_pos hlate]
    refine ⟨fun e he => ?_, fun e he => ?_, hrest⟩
    · rcases List.mem_cons.mp he with rfl | he
      · exact .inl (List.mem_singleton.mpr rfl)
      · exact .inr (mem_of_mem_trimPend he)
    · rcases ready_or_mem_trimPend he with hdue | hkept
      · exact .inr (.inl hdue)
      · exact .inr (.inr (.inr (List.mem_cons_of_mem _ hkept)))
  · rw [Group.notePend, if_neg hlate]
    exact hnow

section
variable {i : Instr} {opc : Nat} {h : Hdr} {f : Form} {g : Group} {s : State} {d ready : Nat} {x : W64}

/-- The issuing group with D written, at the end of the issue. -/
theorem writesScalar_ended :
    Rules.writesScalar g h s d x (Rules.ended g h s ((g.begun s).writeS s.cur.clock d x ready)) :=
  ⟨_, _, _, rfl, notesKept_notePend (g := g)⟩

/-- The issuing group with the active lanes' bits of D written, at the end of the issue; p0 ignores the write (R19). -/
theorem writesPred_ended :
    Rules.writesPred g h s d x (Rules.ended g h s ((g.begun s).writeP s.cur.clock d (activeOf g h s) x ready)) := by
  by_cases hd : d = 0
  · simp only [Rules.writesPred, Rules.predFile, Group.writeP, if_pos hd]
    exact ⟨_, _, _, rfl, notesKept_refl [(.p, d)] s.cur.clock g⟩
  · simp only [Rules.writesPred, Rules.predFile, Group.writeP, if_neg hd]
    exact ⟨_, _, _, rfl, notesKept_notePend (g := g)⟩

variable {eff : Iss → Group → State → Option State}

/-- An issue that writes one scalar register. -/
theorem exec_of_writeS (hv : view i = some (opc, h, f)) (hne : opc ≠ 0xd1) (hop : opOf opc h f s = groupIssue opc h f eff s)
    (hi : Issues opc h f g s) (he : eff (issueOf opc h f g s) g (s.begun g) =
      some ((s.begun g).updGroup s.cur.key fun b => b.writeS s.cur.clock d x ready)) :
    ∃ g', exec i s = .next (s.setGroup s.cur.key g') ∧ Rules.writesScalar g h s d x g' :=
  ⟨_, exec_of_change hv hne hop hi he, writesScalar_ended⟩

/-- An issue that writes the active lanes' bits of one predicate register. -/
theorem exec_of_writeP (hv : view i = some (opc, h, f)) (hne : opc ≠ 0xd1) (hop : opOf opc h f s = groupIssue opc h f eff s)
    (hi : Issues opc h f g s) (he : eff (issueOf opc h f g s) g (s.begun g) =
      some ((s.begun g).updGroup s.cur.key fun b => b.writeP s.cur.clock d (activeOf g h s) x ready)) :
    exec i s = .next (s.setGroup s.cur.key
      (Rules.ended g h s ((g.begun s).writeP s.cur.clock d (activeOf g h s) x ready))) :=
  exec_of_change hv hne hop hi he

end

end Sys2Proof.Laws
end

section
/-!
SUPPORT. Scalar instructions (R168 to R173): one operation for each opcode, on a group and on a context.
-/

namespace Sys2Proof.Laws

open Sys2Proof.Machine

section
variable {i : Instr} {opc : Nat} {h : Hdr} {f : Form} {g : Group} {s : State}

/-- The scalar instructions differ in the value that they compute alone. -/
theorem opOf_scalar (hlo : 1 ≤ opc) (hhi : opc ≤ 0x17) : opOf opc h f s = scalarOp (Rules.scalar opc) opc h f s := by
  interval_cases opc <;> rfl

/-- What a scalar instruction does on a group: D from A, B and C. -/
def scalarEffect (fn : Opnd → W64 → W64 → W64 → W64) (x : Iss) (g : Group) (s : State) : Option State :=
  some (scalarResult x x.o.d (fn x.o (g.readS x.now x.o.a) (bWhole x.o (bScalar g x.now x.o)) (g.readS x.now x.o.c)) s)

/-- What a scalar instruction does on a context. -/
def contextScalarEffect (fn : Opnd → W64 → W64 → W64 → W64) (o : Opnd) (p : Proc) (s : State) : PRes :=
  .done (p.put o.d (fn o (p.get o.a) (bWhole o (p.get o.b)) (p.get o.c))) s

variable {fn : Opnd → W64 → W64 → W64 → W64}

theorem scalarOp_group (hseq : s.cur.seq = .group) : scalarOp fn opc h f s = groupIssue opc h f (scalarEffect fn) s := by
  rw [scalarOp, hseq]
  rfl

theorem scalarOp_context (hseq : s.cur.seq ≠ .group) : scalarOp fn opc h f s = procIssue opc h f (contextScalarEffect fn) s := by
  unfold scalarOp
  split
  · contradiction
  · rfl

end

end Sys2Proof.Laws

namespace Sys2Proof.Laws.Settled

open Sys2Proof.Machine

/-- Settles O1: the opcodes differ in the value that they compute, and each is one issue that writes D. -/
theorem scalarResult : Obligations.ScalarResult := by
  unfold Obligations.ScalarResult
  intro i opc h f g s hv hlo hhi hi
  have hne : opc ≠ 0xd1 := by omega
  exact exec_of_writeS hv hne ((opOf_scalar hlo hhi).trans (scalarOp_group hi.seq)) hi rfl

end Sys2Proof.Laws.Settled
end

section
/-!
SUPPORT. Instructions of Folbel cores and of the fabric processor (R314, R315, R355, R359): one issue of a context, which retires or
faults.
-/

namespace Sys2Proof.Laws

open Sys2Proof.Machine

section
variable {i : Instr} {opc : Nat} {h : Hdr} {f : Form} {s : State} {eff : Opnd → Proc → State → PRes}

/-- An instruction of a context that passes its checks and retires. -/
theorem exec_of_done {p : Proc} {t : State} (hv : view i = some (opc, h, f)) (hne : opc ≠ 0xd1)
    (hop : opOf opc h f s = procIssue opc h f eff s) (hr : Runs opc h f s) (he : eff (opndOf opc f) (begunProc s) s = .done p t) :
    exec i s = .next (procRetire p h t) := by
  rw [exec_of_view s hv hne, hop, procIssue_of_runs eff hr, he]

/-- An instruction of a context that passes the checks of every instruction and faults. -/
theorem exec_of_fault {cause sub : Nat} {addr : W64} (hv : view i = some (opc, h, f)) (hne : opc ≠ 0xd1)
    (hop : opOf opc h f s = procIssue opc h f eff s) (hr : Runs opc h f s)
    (he : eff (opndOf opc f) (begunProc s) s = .fault cause sub addr) : exec i s = .next (procFault cause sub addr s) := by
  rw [exec_of_view s hv hne, hop, procIssue_of_runs eff hr, he]

end

/-! ## System registers (R314, R355) -/

/-- What `sread` does on a context. -/
def contextSread (o : Opnd) (p : Proc) (s : State) : PRes :=
  match procSysRead s o.a with
  | some x => .done (p.put o.d x) s
  | none => .fault cILLEGAL 0x11 0

section
variable {i : Instr} {opc : Nat} {h : Hdr} {f : Form} {s : State}

theorem opSread_context (hseq : s.cur.seq ≠ .group) : opSread h f s = procIssue 0x1a h f contextSread s := by
  unfold opSread
  split
  · contradiction
  · rfl

/-- `sread` of a register that the context has writes it to D. -/
theorem exec_sread_context {x : W64} (hv : view i = some (0x1a, h, f)) (hr : Runs 0x1a h f s)
    (hx : procSysRead s (opndOf 0x1a f).a = some x) :
    exec i s = .next (procRetire ((begunProc s).put (opndOf 0x1a f).d x) h s) :=
  exec_of_done hv (by decide) (opSread_context hr.seq) hr (by rw [contextSread, hx])

end

/-! ## Branches (R180 to R184) -/

/-- What `bra` does on a context. -/
def contextBra (f : Form) (o : Opnd) (p : Proc) (s : State) : PRes :=
  if dispBad o then .fault cILLEGAL 0x0b 0 else .done { p with pc := procTarget s (branchDisp o f) } s

/-- What `sbra` does on a context. -/
def contextSbra (o : Opnd) (p : Proc) (s : State) : PRes :=
  if dispBad o then .fault cILLEGAL 0x0b 0
  else if sbraTaken o (p.get o.a) then .done { p with pc := procTarget s o.lit } s else .done p s

/-- What `brx` does on a context. -/
def contextBrx (o : Opnd) (p : Proc) (s : State) : PRes :=
  if (p.get o.a).toNat % 4 ≠ 0 then .fault cALIGN 0 (p.get o.a) else .done { p with pc := (p.get o.a).toNat } s

/-- What `call` does on a context. -/
def contextCall (f : Form) (o : Opnd) (p : Proc) (s : State) : PRes :=
  if dispBad o then .fault cILLEGAL 0x0b 0 else procCall p (procTarget s (branchDisp o f)) s

/-- What `ret` does on a context. -/
def contextRet (_ : Opnd) (p : Proc) (s : State) : PRes :=
  match p.stack with
  | [] => .fault cILLEGAL 0x0c 0
  | t :: st => .done { p with stack := st, pc := t.toNat } s

section
variable {i : Instr} {h : Hdr} {f : Form} {s : State} (hseq : s.cur.seq ≠ .group)
include hseq

theorem opBra_context : opBra h f s = procIssue 0x20 h f (contextBra f) s := by
  unfold opBra
  split
  · contradiction
  · rfl

theorem opSbra_context : opSbra h f s = procIssue 0x21 h f contextSbra s := by
  unfold opSbra
  split
  · contradiction
  · rfl

theorem opBrx_context : opBrx h f s = procIssue 0x22 h f contextBrx s := by
  unfold opBrx
  split
  · contradiction
  · rfl

theorem opCall_context : opCall h f s = procIssue 0x23 h f (contextCall f) s := by
  unfold opCall
  split
  · contradiction
  · rfl

theorem opRet_context : opRet h f s = procIssue 0x25 h f contextRet s := by
  unfold opRet
  split
  · contradiction
  · rfl

end

/-- A direct branch of a context goes where that of a group does. -/
theorem procTarget_branchDisp (o : Opnd) (f : Form) (s : State) :
    procTarget s (branchDisp o f) = (Rules.branchTarget o f s).toNat := by
  cases f <;> rfl

/-- `sbra` is taken where the sense agrees with the test of A. -/
theorem sbraTaken_iff (o : Opnd) (a : W64) : sbraTaken o a = true ↔ (o.d % 2 = 0) = (a ≠ 0) := by
  rw [sbraTaken]
  split_ifs with hd <;> simp [hd]

section
variable {i : Instr} {h : Hdr} {f : Form} {s : State}

theorem exec_bra_context (hv : view i = some (0x20, h, f)) (hr : Runs 0x20 h f s) (hwhole : dispBad (opndOf 0x20 f) = false) :
    exec i s = .next (procRetire { curProc s with pc := (Rules.branchTarget (opndOf 0x20 f) f s).toNat } h s) := by
  refine exec_of_done hv (by decide) (opBra_context hr.seq) hr ?_
  rw [contextBra, hwhole, if_neg Bool.false_ne_true, procTarget_branchDisp]
  rfl

theorem exec_sbra_context (hv : view i = some (0x21, h, f)) (hr : Runs 0x21 h f s) (hwhole : dispBad (opndOf 0x21 f) = false) :
    let o := opndOf 0x21 f
    exec i s = .next (procRetire { curProc s with
      pc := if (o.d % 2 = 0) = ((curProc s).get o.a ≠ 0) then (s.cur.pc + o.lit).toNat else (nextPc s.cur).toNat } h s) := by
  refine exec_of_done hv (by decide) (opSbra_context hr.seq) hr ?_
  have hread : (begunProc s).get (opndOf 0x21 f).a = (curProc s).get (opndOf 0x21 f).a := rfl
  rw [contextSbra, hwhole, if_neg Bool.false_ne_true, hread]
  simp only [sbraTaken_iff]
  split_ifs <;> rfl

theorem exec_brx_context (hv : view i = some (0x22, h, f)) (hr : Runs 0x22 h f s)
    (hwhole : ((curProc s).get (opndOf 0x22 f).a).toNat % 4 = 0) :
    exec i s = .next (procRetire { curProc s with pc := ((curProc s).get (opndOf 0x22 f).a).toNat } h s) :=
  exec_of_done hv (by decide) (opBrx_context hr.seq) hr (if_neg (not_not_intro hwhole))

theorem exec_call_context (hv : view i = some (0x23, h, f)) (hr : Runs 0x23 h f s) (hwhole : dispBad (opndOf 0x23 f) = false)
    (hroom : (curProc s).stack.length < 8) :
    exec i s = .next (procRetire { curProc s with
      stack := w64 (nextPc s.cur).toNat :: (curProc s).stack
      pc := (Rules.branchTarget (opndOf 0x23 f) f s).toNat } h s) := by
  refine exec_of_done hv (by decide) (opCall_context hr.seq) hr ?_
  rw [contextCall, hwhole, if_neg Bool.false_ne_true, procTarget_branchDisp]
  exact if_neg (Nat.not_le.mpr hroom)

theorem exec_ret_context (hv : view i = some (0x25, h, f)) (hr : Runs 0x25 h f s) {t : W64} {st : List W64}
    (hstack : (curProc s).stack = t :: st) :
    exec i s = .next (procRetire { curProc s with stack := st, pc := t.toNat } h s) := by
  refine exec_of_done hv (by decide) (opRet_context hr.seq) hr ?_
  have hbegun : (begunProc s).stack = t :: st := hstack
  rw [contextRet, hbegun]
  rfl

end

/-- A scalar instruction of a context writes D. -/
theorem contextScalarResult : Rules.ContextScalarResult := by
  unfold Rules.ContextScalarResult
  intro i opc h f s hv hlo hhi hr
  have hne : opc ≠ 0xd1 := by omega
  exact exec_of_done hv hne ((opOf_scalar hlo hhi).trans (scalarOp_context hr.seq)) hr rfl

/-- `sread` of a context writes D with the register that its code names. -/
theorem contextSystemRead : Rules.ContextSystemRead := by
  unfold Rules.ContextSystemRead
  intro i h f s x hv hr o hx
  exact exec_sread_context hv hr hx

/-- Branches of a context go to their targets. -/
theorem contextBranchResult : Rules.ContextBranchResult := by
  unfold Rules.ContextBranchResult
  intro i opc h f s hv hr
  dsimp only
  refine ⟨?bra, ?sbra, ?brx, ?call, ?ret⟩
  case bra =>
    rintro rfl hwhole
    exact exec_bra_context hv hr hwhole
  case sbra =>
    rintro rfl hwhole
    exact exec_sbra_context hv hr hwhole
  case brx =>
    rintro rfl hwhole
    exact exec_brx_context hv hr hwhole
  case call =>
    rintro rfl hwhole hroom
    exact exec_call_context hv hr hwhole hroom
  case ret =>
    rintro rfl t st hstack
    exact exec_ret_context hv hr hstack

/-- Settles O13: scalar instructions, `sread` and branches of a context, each one issue that retires. -/
theorem contextRegisters : Obligations.ContextRegisters :=
  ⟨contextScalarResult, contextSystemRead, contextBranchResult⟩

end Sys2Proof.Laws
end

section
/-!
SUPPORT. Accesses of a context to its own region (R175, R176, R313, R355, R432): what the checks let through, and one issue of `sld`,
`sst` and `satom`.
-/

namespace Sys2Proof.Laws

open Sys2Proof.Machine

/-! ## The checks of an access -/

section
variable {o : Opnd} {off : W64} {s : State} {full : Bool} {go : Nat → PRes}

/-- The offset lies outside a Folbel context's region. -/
abbrev outsideRegion (off : W64) (s : State) : Prop := s.cur.seq = .folbel ∧ (procRegion s).2 ≤ off.toNat

theorem procMem_outside (hout : outsideRegion off s) : procMem o off s full go = .fault cACCESS 0 off := by
  exact if_pos (Bool.and_eq_true_iff.mpr (hout.imp decide_eq_true decide_eq_true))

/-- An offset that is not outside goes on to the check of its alignment. -/
theorem procMem_inside (hin : ¬outsideRegion off s) : procMem o off s full go =
    if off.toNat % (widthOf o.typ / 8) ≠ 0 then .fault cALIGN 0 off
    else if (procRegion s).2 < off.toNat + widthOf o.typ / 8 then .fault cBOUNDS 0 off
    else if !full && procBad s ((procRegion s).1 + off.toNat) (widthOf o.typ / 8) then .fault cECC 0 (storeInfo off)
    else go ((procRegion s).1 + off.toNat) := by
  exact if_neg fun hc => hin ((Bool.and_eq_true_iff.mp hc).imp of_decide_eq_true of_decide_eq_true)

theorem procMem_misaligned (hin : ¬outsideRegion off s) (hmis : off.toNat % (widthOf o.typ / 8) ≠ 0) :
    procMem o off s full go = .fault cALIGN 0 off := by
  rw [procMem_inside hin, if_pos hmis]

section
variable (hin : ¬outsideRegion off s) (hal : off.toNat % (widthOf o.typ / 8) = 0)
include hin hal

theorem procMem_past (hpast : (procRegion s).2 < off.toNat + widthOf o.typ / 8) :
    procMem o off s full go = .fault cBOUNDS 0 off := by
  rw [procMem_inside hin, if_neg (not_not_intro hal), if_pos hpast]

variable (hfits : off.toNat + widthOf o.typ / 8 ≤ (procRegion s).2)
include hfits

theorem procMem_error (hbad : procBad s ((procRegion s).1 + off.toNat) (widthOf o.typ / 8) = true) (hpart : full = false) :
    procMem o off s full go = .fault cECC 0 (storeInfo off) := by
  rw [procMem_inside hin, if_neg (not_not_intro hal), if_neg (Nat.not_lt.mpr hfits), hbad, hpart]
  rfl

theorem procMem_here (hok : procBad s ((procRegion s).1 + off.toNat) (widthOf o.typ / 8) = false ∨ full = true) :
    procMem o off s full go = go ((procRegion s).1 + off.toNat) := by
  rw [procMem_inside hin, if_neg (not_not_intro hal), if_neg (Nat.not_lt.mpr hfits)]
  refine if_neg fun hc => ?_
  rw [Bool.and_eq_true, Bool.not_eq_true'] at hc
  rcases hok with hsound | hfull
  · rw [hsound] at hc
    exact absurd hc.2 Bool.false_ne_true
  · rw [hfull] at hc
    exact absurd hc.1.symm Bool.false_ne_true

end

/-- An element that ends within the region does not begin outside it. -/
theorem inside_of_fits {w : Nat} (hw : 0 < w) (hfits : off.toNat + w ≤ (procRegion s).2) : ¬outsideRegion off s := by
  rintro ⟨-, hsize⟩
  omega

end

/-! ## The three accesses -/

/-- The value that an atomic leaves in place of `old` (R176, R238). -/
def atomicValue (o : Opnd) (p : Proc) (old : Nat) : Nat :=
  let v := (bWhole o (p.get o.b)).toNat % 2 ^ widthOf o.typ
  if o.opt = 7 then (if extW o.typ old = extW o.typ (p.get o.d).toNat then v else old) else atomInt o.opt o.typ old v

/-- What `sld`, `sst` and `satom` do with an element that their checks let through. -/
def accessed (opc : Nat) (o : Opnd) (p : Proc) (s : State) (a : Nat) : PRes :=
  let w := widthOf o.typ / 8
  let old := readNat (procStore s) a w
  match opc with
  | 0x18 => .done (p.put o.d (extW o.typ old)) s
  | 0x19 => .done p (procClear a w (setProcStore (writeBytes (procStore s) a (toBytes w (p.get o.d).toNat)) s))
  | _ => .done (p.put o.d (extW o.typ old)) (setProcStore (writeBytes (procStore s) a (toBytes w (atomicValue o p old))) s)

/-- What `sld`, `sst` and `satom` do on a context; an `sst` of 64 bits writes its granule whole. -/
def contextAccess (opc : Nat) (o : Opnd) (p : Proc) (s : State) : PRes :=
  procMem o (if opc = 0x1d then p.get o.a else p.get o.a + procB o p) s (opc = 0x19 && widthOf o.typ = 64) (accessed opc o p s)

section
variable {opc : Nat} {h : Hdr} {f : Form} {s : State}

theorem opSld_context (hseq : s.cur.seq ≠ .group) : opSld h f s = procIssue 0x18 h f (contextAccess 0x18) s := by
  unfold opSld
  split
  · contradiction
  · rfl

theorem opSst_context (hseq : s.cur.seq ≠ .group) : opSst h f s = procIssue 0x19 h f (contextAccess 0x19) s := by
  unfold opSst
  split
  · contradiction
  · rfl

theorem opSatom_context (hseq : s.cur.seq ≠ .group) : opSatom h f s = procIssue 0x1d h f (contextAccess 0x1d) s := by
  unfold opSatom
  split
  · contradiction
  · rfl

/-- The three accesses are one operation. -/
theorem opOf_access_context (hopc : opc = 0x18 ∨ opc = 0x19 ∨ opc = 0x1d) (hseq : s.cur.seq ≠ .group) :
    opOf opc h f s = procIssue opc h f (contextAccess opc) s := by
  rcases hopc with rfl | rfl | rfl
  · exact opSld_context hseq
  · exact opSst_context hseq
  · exact opSatom_context hseq

end

/-- B of a scalar instruction of a context is whole. -/
theorem procB_scalar {o : Opnd} (p : Proc) (hclass : classOf o.opc = .scalar) : procB o p = bWhole o (p.get o.b) := by
  rw [procB, hclass]

/-- Of the widths of elements 64 bits alone are 8 bytes. -/
theorem widthOf_eq_64_iff (t : Nat) : widthOf t = 64 ↔ widthOf t / 8 = 8 := by
  rw [widthOf]
  split_ifs <;> decide

/-- The offset of an access, from the registers of its context. -/
theorem accessOffset_eq {opc : Nat} {f : Form} {s : State} (hopc : opc = 0x18 ∨ opc = 0x19 ∨ opc = 0x1d) :
    let o := opndOf opc f
    let p := curProc s
    (if opc = 0x1d then (begunProc s).get o.a else (begunProc s).get o.a + procB o (begunProc s)) =
      if opc = 0x1d then p.get o.a else p.get o.a + bWhole o (p.get o.b) := by
  have hclass : classOf (opndOf opc f).opc = .scalar := by
    rw [opndOf_opc]
    rcases hopc with rfl | rfl | rfl <;> rfl
  dsimp only
  rw [procB_scalar _ hclass]
  rfl

/-- Settles O20: the three accesses are one issue with the checks of one place; what passes them loads, stores or both. -/
theorem contextMemory : Obligations.ContextMemory := by
  unfold Obligations.ContextMemory
  intro i opc h f s hv hopc hr
  dsimp only
  have hne : opc ≠ 0xd1 := by omega
  have hop := opOf_access_context (h := h) (f := f) hopc hr.seq
  rw [← apply_ite BitVec.toNat, w64, BitVec.ofNat_toNat, BitVec.setWidth_eq]
  have hacc : contextAccess opc (opndOf opc f) (begunProc s) s = procMem (opndOf opc f) _ s _ _ :=
    congrArg (procMem _ · s _ _) (accessOffset_eq hopc)
  generalize (if opc = 0x1d then (curProc s).get (opndOf opc f).a
    else (curProc s).get (opndOf opc f).a + bWhole (opndOf opc f) ((curProc s).get (opndOf opc f).b)) = off at hacc ⊢
  have hwhole : (decide (opc = 0x19) && decide (widthOf (opndOf opc f).typ = 64)) = true ↔
      opc = 0x19 ∧ widthOf (opndOf opc f).typ / 8 = 8 := by
    rw [Bool.and_eq_true, decide_eq_true_eq, decide_eq_true_eq, widthOf_eq_64_iff]
  refine ⟨?here, ?outside, ?misaligned, ?past, ?error⟩
  case here =>
    intro hw hal hfits hok
    have hgo := hacc.trans (procMem_here (inside_of_fits hw hfits) hal hfits (hok.imp_right hwhole.mpr))
    refine ⟨?load, ?store, ?atomic⟩
    case load =>
      rintro rfl
      exact exec_of_done hv hne hop hr hgo
    case store =>
      rintro rfl
      exact exec_of_done hv hne hop hr hgo
    case atomic =>
      rintro rfl
      exact exec_of_done hv hne hop hr hgo
  case outside =>
    intro hout
    exact exec_of_fault hv hne hop hr (hacc.trans (procMem_outside hout))
  case misaligned =>
    intro hin hmis
    exact exec_of_fault hv hne hop hr (hacc.trans (procMem_misaligned hin hmis))
  case past =>
    intro hin hal hpast
    exact exec_of_fault hv hne hop hr (hacc.trans (procMem_past hin hal hpast))
  case error =>
    intro hal hfits hin hbad hpart
    exact exec_of_fault hv hne hop hr (hacc.trans (procMem_error hin hal hfits hbad (Bool.eq_false_iff.mpr (mt hwhole.mp hpart))))

end Sys2Proof.Laws
end

section
/-!
SUPPORT. Predicates (R19, R21, R195, R197, R198): one issue of `elect`, `plog` and `pmov`, and the forms that their checks permit.
-/

namespace Sys2Proof.Laws

open Sys2Proof.Machine

/-! ## The predicate file -/

section
variable {m : ZMap 64} {d r l : Nat} {lanes x : W64}

/-- A lane's bit of a predicate register that was written. -/
theorem getLsbD_predFile (hd : d ≠ 0) : (getZ (Rules.predFile m d lanes x) d).getLsbD l =
    if lanes.getLsbD l then x.getLsbD l else (getZ m d).getLsbD l := by
  rw [Rules.predFile, if_neg hd, getZ_setZ_same, BitVec.getLsbD_or, BitVec.getLsbD_and, BitVec.getLsbD_and, BitVec.getLsbD_not]
  cases hl : lanes.getLsbD l with
  | true => simp
  | false =>
    by_cases h64 : l < 64
    · simp [h64]
    · simp [BitVec.getLsbD_of_ge _ l (Nat.not_lt.mp h64)]

/-- The other predicate registers stay, and p0 ignores writes. -/
theorem getZ_predFile_ne (h : r ≠ d ∨ d = 0) : getZ (Rules.predFile m d lanes x) r = getZ m r := by
  rw [Rules.predFile]
  split
  next => rfl
  next hd => exact getZ_setZ_ne _ _ _ _ (h.resolve_right hd).symm

end

section
variable {i : Instr} {opc : Nat} {h : Hdr} {f : Form} {g : Group} {s : State} {d ready : Nat} {x : W64}

/-- The predicate file at the end of an issue that writes a predicate register. -/
theorem pregs_ended : (Rules.ended g h s ((g.begun s).writeP s.cur.clock d (activeOf g h s) x ready)).pregs =
    Rules.predFile g.pregs d (activeOf g h s) x := by
  have hfile : ((g.begun s).writeP s.cur.clock d (activeOf g h s) x ready).pregs = Rules.predFile g.pregs d (activeOf g h s) x := by
    unfold Group.writeP Rules.predFile
    split <;> rfl
  exact hfile

end

/-! ## `elect` (R195) -/

/-- The bit of the lowest lane of a mask. -/
def lowestBit (m : W64) : W64 := match lowest m with | some l => laneBit l | none => 0

/-- The lowest lane of a mask is the one below which there is none. -/
theorem lowest_eq_some_iff {m : W64} {l : Nat} : lowest m = some l ↔ m.getLsbD l = true ∧ ∀ k, k < l → m.getLsbD k = false := by
  rw [lowest, lanesOf, lanesBelow, List.head?_filter, List.find?_range_eq_some]
  simp only [List.mem_range, Bool.not_eq_true']
  exact ⟨fun ⟨hl, _, hlow⟩ => ⟨hl, hlow⟩, fun ⟨hl, hlow⟩ => ⟨hl, BitVec.lt_of_getLsbD hl, hlow⟩⟩

/-- A lane of a mask is the lowest where there is none below it. -/
theorem getLsbD_lowestBit {m : W64} {l : Nat} (hl : m.getLsbD l = true) :
    (lowestBit m).getLsbD l = decide (∀ k, k < l → m.getLsbD k = false) := by
  have hne : m ≠ 0 := by
    rintro rfl
    exact Bool.false_ne_true (BitVec.getLsbD_zero.symm.trans hl)
  obtain ⟨j, hj⟩ := lowest_of_ne_zero hne
  rw [lowestBit, hj]
  dsimp only
  rw [getLsbD_laneBit, decide_eq_decide, and_iff_right (BitVec.lt_of_getLsbD hl)]
  constructor
  · rintro rfl
    exact (lowest_eq_some_iff.mp hj).2
  · intro hlow
    have hlowest : lowest m = some l := lowest_eq_some_iff.mpr ⟨hl, hlow⟩
    exact Option.some.inj (hj.symm.trans hlowest)

theorem opOf_elect (h : Hdr) (f : Form) (s : State) : opOf 0x30 h f s = opElect h f s := rfl
theorem opOf_plog (h : Hdr) (f : Form) (s : State) : opOf 0x32 h f s = opPlog h f s := rfl
theorem opOf_pmov (h : Hdr) (f : Form) (s : State) : opOf 0x33 h f s = opPmov h f s := rfl

section
variable {i : Instr} {h : Hdr} {f : Form} {g : Group} {s : State}

theorem exec_elect (hv : view i = some (0x30, h, f)) (hi : Issues 0x30 h f g s) :
    exec i s = .next (s.setGroup s.cur.key (Rules.ended g h s ((g.begun s).writeP s.cur.clock (operands g 0x30 f).d (activeOf g h s)
      (lowestBit (activeOf g h s)) (readyClock s.cur.clock 2 1 0)))) :=
  exec_of_writeP hv (by decide) (opOf_elect h f s) hi rfl

/-! ## `plog` and `pmov` (R197, R198) -/

theorem exec_plog (hv : view i = some (0x32, h, f)) (hi : Issues 0x32 h f g s) :
    let o := operands g 0x32 f
    exec i s = .next (s.setGroup s.cur.key (Rules.ended g h s ((g.begun s).writeP s.cur.clock o.d (activeOf g h s)
      (plogVal o.opt (g.readP s.cur.clock o.a) (g.readP s.cur.clock o.b)) (readyClock s.cur.clock 2 1 0)))) :=
  exec_of_writeP hv (by decide) (opOf_plog h f s) hi rfl

theorem exec_pmov_predicate (hv : view i = some (0x33, h, f)) (hi : Issues 0x33 h f g s) (hopt : (operands g 0x33 f).opt = 0) :
    let o := operands g 0x33 f
    exec i s = .next (s.setGroup s.cur.key (Rules.ended g h s ((g.begun s).writeP s.cur.clock o.d (activeOf g h s)
      (g.readS s.cur.clock o.a) (readyClock s.cur.clock 2 1 0)))) :=
  exec_of_writeP hv (by decide) (opOf_pmov h f s) hi (if_pos hopt)

theorem exec_pmov_scalar (hv : view i = some (0x33, h, f)) (hi : Issues 0x33 h f g s) (hopt : (operands g 0x33 f).opt ≠ 0) :
    let o := operands g 0x33 f
    exec i s = .next (s.setGroup s.cur.key (Rules.ended g h s ((g.begun s).writeS s.cur.clock o.d (g.readP s.cur.clock o.a)
      (readyClock s.cur.clock 2 1 0)))) :=
  exec_of_change (F := fun b => b.writeS s.cur.clock (operands g 0x33 f).d (g.readP s.cur.clock (operands g 0x33 f).a)
    (readyClock s.cur.clock 2 1 0)) hv (by decide) (opOf_pmov h f s) hi (if_neg hopt)

end

/-! ## The forms that the checks permit (R419) -/

/-- Words that pass steps 5 to 9 have a permitted form, no bits in unused fields, and OPT and BM values that the opcode has. -/
theorem passes_of_staticSub {opc : Nat} {f : Form} (h : staticSub opc f = none) :
    formOk opc f = true ∧ zeroBad (opndOf opc f) f = false ∧ optBad (opndOf opc f) = false ∧ bmBad (opndOf opc f) f = false := by
  unfold staticSub at h
  dsimp only at h
  split_ifs at h with hform hzero htyp htyp2 hrm hopt hbm
  exact ⟨by simpa using hform, by simpa using hzero, by simpa using hopt, by simpa using hbm⟩

/-- An instruction that passes steps 3 to 10 passes the checks of its words and of its registers. -/
theorem passes_of_staticCheck {g : Group} {trap : Bool} {opc : Nat} {h : Hdr} {f : Form} (hc : staticCheck g trap opc h f = none) :
    staticSub opc f = none ∧ step10 g (operands g opc f) = none := by
  unfold staticCheck at hc
  split_ifs at hc
  cases hsub : staticSub opc f with
  | some n => rw [hsub] at hc; cases hc
  | none =>
    rw [hsub] at hc
    exact ⟨rfl, Option.map_eq_none_iff.mp hc⟩

/-- A value of OPT is one that the opcode has. -/
theorem opt_mem_of_optBad {o : Opnd} (h : optBad o = false) : o.opt ∈ (opSpec o.opc).opts := by
  rw [optBad, Bool.or_eq_false_iff, Bool.or_eq_false_iff] at h
  simpa using h.1.1

/-- The B mode of an extended form is one that the opcode has. -/
theorem code_mem_of_bmBad {o : Opnd} {x : Ext} (h : bmBad o (.multi (.ext x)) = false) : o.bm.code ∈ (opSpec o.opc).bms := by
  rw [bmBad, Bool.or_eq_false_iff] at h
  simpa using h.1

/-- The B mode of an extended form is its field BM (R147). -/
theorem code_bm (opc : Nat) (x : Ext) : (opndOf opc (.multi (.ext x))).bm.code = x.bm.toNat := by
  have hlt : x.bm.toNat < 4 := x.bm.isLt
  rw [opndOf, opndOf.extOpnd]
  generalize x.bm.toNat = n at hlt ⊢
  interval_cases n <;> rfl

/-- NOT and MOV of `plog` have no B. -/
theorem plog_noB {o : Opnd} {x : Ext} (hopc : o.opc = 0x32) (hopt : o.opt = 4 ∨ o.opt = 5)
    (h : zeroBad o (.multi (.ext x)) = false) : o.b = 0 := by
  unfold zeroBad at h
  simp only [Bool.or_eq_false_iff] at h
  obtain ⟨⟨⟨⟨-, hb⟩, -⟩, -⟩, -⟩ := h
  by_contra hne
  have hopts : ¬o.opt = 4 ∧ ¬o.opt = 5 := by simpa [hopc, hne] using hb
  exact not_or.mpr hopts hopt

/-- `elect` has one form: D and nothing else. -/
theorem elect_form {f : Form} (h : staticSub 0x30 f = none) : ∃ d : BitVec 7, f = .single d 0 := by
  obtain ⟨hform, hzero, -, -⟩ := passes_of_staticSub h
  match f with
  | .single d a =>
    have ha : zeroBad (opndOf 0x30 (.single d a)) (.single d a) = decide (a ≠ 0) := rfl
    rw [ha, decide_eq_false_iff_not, not_not] at hzero
    exact ⟨d, congrArg _ hzero⟩
  | .multi (.lit _ _ _) => cases hform
  | .multi (.ext _) => cases hform
  | .multi (.extLit _ _) => cases hform

/-- D of `elect` names a predicate register. -/
theorem elect_register {g : Group} {d : BitVec 7} (h : step10 g (operands g 0x30 (.single d 0)) = none) : d.toNat < 16 := by
  rw [operands_eq (by decide), step10] at h
  split_ifs at h with hreg
  simp only [Bool.not_eq_true', Bool.and_eq_false_iff, not_or, Bool.not_eq_false] at hreg
  exact of_decide_eq_true hreg.1.1.1.1

/-- Settles O47: the checks leave the form S, and the lowest active lane alone has no active lane below it. -/
theorem electResult : Obligations.ElectResult := by
  unfold Obligations.ElectResult
  constructor
  · intro g trap h f hc
    obtain ⟨hsub, hreg⟩ := passes_of_staticCheck hc
    obtain ⟨d, rfl⟩ := elect_form hsub
    exact ⟨d, rfl, elect_register hreg⟩
  · intro i h d g s hv hi
    have hd : (operands g 0x30 (.single d 0)).d = d.toNat := by rw [operands_eq (by decide)]; rfl
    have hexec := exec_elect hv hi
    have hleaves := writesPred_ended (g := g) (h := h) (s := s) (d := d.toNat) (x := lowestBit (activeOf g h s))
      (ready := readyClock s.cur.clock 2 1 0)
    rw [hd] at hexec
    refine ⟨_, hexec, ?bit, ?others, ?frame⟩
    case bit =>
      intro hne l _
      have hd0 : d.toNat ≠ 0 := fun h0 => hne (BitVec.eq_of_toNat_eq h0)
      rw [pregs_ended, getLsbD_predFile hd0]
      split
      next hl => rw [getLsbD_lowestBit hl]
      next => rfl
    case others =>
      intro r hr
      rw [pregs_ended]
      exact getZ_predFile_ne (hr.imp_right (congrArg BitVec.toNat))
    case frame =>
      rw [pregs_ended]
      exact hleaves

/-- `plog` has the single form, and the extended one with a register B and one of six operations; NOT and MOV have no B. -/
theorem plog_form {f : Form} (h : staticSub 0x32 f = none) : (∃ d a, f = .single d a) ∨
    ∃ x, f = .multi (.ext x) ∧ x.bm = 0 ∧ (opndOf 0x32 f).opt < 6 ∧ (4 ≤ (opndOf 0x32 f).opt → x.b = 0) := by
  obtain ⟨hform, hzero, hopt, hbm⟩ := passes_of_staticSub h
  match f with
  | .single d a => exact .inl ⟨d, a, rfl⟩
  | .multi (.lit _ _ _) => cases hform
  | .multi (.extLit _ _) => cases hform
  | .multi (.ext x) =>
    have hmem : (opndOf 0x32 (.multi (.ext x))).opt ∈ [0, 1, 2, 3, 4, 5] := opt_mem_of_optBad hopt
    have hlt : (opndOf 0x32 (.multi (.ext x))).opt < 6 := by
      simp only [List.mem_cons, List.not_mem_nil, or_false] at hmem
      omega
    have hcode : x.bm.toNat ∈ [0] := code_bm 0x32 x ▸ code_mem_of_bmBad hbm
    have hb : 4 ≤ (opndOf 0x32 (.multi (.ext x))).opt → x.b.toNat = 0 := fun h4 =>
      plog_noB (o := opndOf 0x32 (.multi (.ext x))) rfl (by omega) hzero
    exact .inr ⟨x, rfl, BitVec.eq_of_toNat_eq (List.mem_singleton.mp hcode), hlt, fun h4 => BitVec.eq_of_toNat_eq (hb h4)⟩

/-- `pmov` has the single form, and the extended one that copies either way. -/
theorem pmov_form {f : Form} (h : staticSub 0x33 f = none) : (∃ d a, f = .single d a ∧ (opndOf 0x33 f).opt = 0) ∨
    ∃ x, f = .multi (.ext x) ∧ (opndOf 0x33 f).opt < 2 := by
  obtain ⟨hform, -, hopt, -⟩ := passes_of_staticSub h
  match f with
  | .single d a => exact .inl ⟨d, a, rfl, rfl⟩
  | .multi (.lit _ _ _) => cases hform
  | .multi (.extLit _ _) => cases hform
  | .multi (.ext x) =>
    have hmem : (opndOf 0x33 (.multi (.ext x))).opt ∈ [0, 1] := opt_mem_of_optBad hopt
    simp only [List.mem_cons, List.not_mem_nil, or_false] at hmem
    exact .inr ⟨x, rfl, by omega⟩

/-- An issue that writes predicate bits, its predicate file and its frame. -/
theorem writesPred_of_exec {i : Instr} {h : Hdr} {g : Group} {s : State} {d ready : Nat} {x y : W64}
    (he : exec i s = .next (s.setGroup s.cur.key (Rules.ended g h s ((g.begun s).writeP s.cur.clock d (activeOf g h s) y ready))))
    (hy : y = x) : ∃ g', exec i s = .next (s.setGroup s.cur.key g') ∧ g'.pregs = Rules.predFile g.pregs d (activeOf g h s) x ∧
      Rules.writesPred g h s d x g' := by
  subst hy
  exact ⟨_, he, pregs_ended, writesPred_ended⟩

/-- Settles O48: the checks leave the forms of each row, and each OPT is one operation on the predicates that the form names. -/
theorem predicateRules : Obligations.PredicateRules := by
  unfold Obligations.PredicateRules
  refine ⟨fun f => plog_form, fun f => pmov_form, ?_⟩
  intro i opc h f g s hv hi
  dsimp only
  refine ⟨?and, ?plog, ?toPredicate, ?toScalar⟩
  case and =>
    rintro rfl hand
    refine writesPred_of_exec (exec_plog hv hi) ?_
    match f with
    | .single d a =>
      rw [operands_eq (by decide)]
      exact BitVec.and_comm _ _
    | .multi m =>
      have hopt : (operands g 0x32 (.multi m)).opt = 0 := hand.resolve_left (by rintro ⟨_, _, hf⟩; cases hf)
      rw [hopt]
      rfl
  case plog =>
    rintro rfl ⟨m, rfl⟩
    refine ⟨?_, ?_, ?_, ?_, ?_⟩ <;>
    · intro hopt
      refine writesPred_of_exec (exec_plog hv hi) ?_
      rw [hopt]
      rfl
  case toPredicate =>
    rintro rfl hopt
    exact writesPred_of_exec (exec_pmov_predicate hv hi hopt) rfl
  case toScalar =>
    rintro rfl hopt
    match f with
    | .single d a =>
      rw [operands_eq (by decide)] at hopt
      cases hopt
    | .multi m => exact ⟨_, exec_pmov_scalar hv hi (by rw [hopt]; decide), rfl, writesScalar_ended⟩

end Sys2Proof.Laws
end

section
/-!
SUPPORT. Comparisons, `vballot`, `sfromv` and `jmov` (R179, R196, R212, R216, R228): predicates, masks and scalars of each other.
-/

namespace Sys2Proof.Laws

open Sys2Proof.Machine

/-! ## Comparisons and `vballot` -/

/-- What a comparison finds of two elements (R212, R216). -/
def relation (opc : Nat) (o : Opnd) (a b : Nat) : Bool :=
  if opc = 0x60 then fCmp o.typ o.opt a b else cmpInt o.opt (intOf o.typ a) (intOf o.typ b)

section
variable {i : Instr} {opc : Nat} {h : Hdr} {f : Form} {g : Group} {s : State}

/-- The two comparisons differ in the relation alone. -/
theorem opOf_compare (hopc : opc = 0x4c ∨ opc = 0x60) : opOf opc h f s = groupIssue opc h f (compareEff (relation opc)) s := by
  rcases hopc with rfl | rfl
  · exact rfl
  · exact rfl

theorem opOf_vballot : opOf 0x78 h f s = groupIssue 0x78 h f ballotEff s := rfl

/-- The relation in a lane is that of the first positions of A and B. -/
theorem compares_eq (l : Nat) :
    let o := operands g opc f
    relation opc o ((plainFirst o .a g s.cur.clock).getD l 0)
      (match o.file .b with
        | .v => (plainFirst o .b g s.cur.clock).getD l 0
        | _ => bElem o false (bScalar g s.cur.clock o)) = Rules.compares o g s.cur.clock l := by
  dsimp only
  rw [relation, Rules.compares, operands_opc]
  rfl

/-- A comparison of a group without ports writes D and holds the datapath. -/
theorem exec_compare (hv : view i = some (opc, h, f)) (hopc : opc = 0x4c ∨ opc = 0x60) (hi : Issues opc h f g s)
    (hports : g.binds = []) :
    let o := operands g opc f
    ∃ ready, exec i s = .next ((holdDatapath (Rules.occupancy o) s).setGroup s.cur.key (Rules.ended g h s
      ((g.begun s).writeP s.cur.clock o.d (activeOf g h s)
        (maskOf ((lanesOf (activeOf g h s)).filter (Rules.compares o g s.cur.clock))) ready))) := by
  have hne : opc ≠ 0xd1 := by omega
  have heff := compareEff_plain (relation opc) (issueOf opc h f g s) g (g.begun s) (s.begun g) (begun_group g s) hports rfl
  have hrel : (fun l => relation opc (operands g opc f) ((plainFirst (operands g opc f) .a g s.cur.clock).getD l 0)
      (match (operands g opc f).file .b with
        | .v => (plainFirst (operands g opc f) .b g s.cur.clock).getD l 0
        | _ => bElem (operands g opc f) false (bScalar g s.cur.clock (operands g opc f)))) =
      Rules.compares (operands g opc f) g s.cur.clock := funext compares_eq
  dsimp only
  rw [← hrel]
  exact ⟨_, (exec_of_effect hv hne (opOf_compare hopc) hi heff).trans (congrArg _ (issued_hold g _ h s _))⟩

/-- `vballot` of a group without ports writes the mask of the lanes that are not 0, and holds the datapath. -/
theorem exec_vballot (hv : view i = some (0x78, h, f)) (hi : Issues 0x78 h f g s) (hports : g.binds = []) :
    let o := operands g 0x78 f
    exec i s = .next ((holdDatapath (Rules.occupancy o) s).setGroup s.cur.key (Rules.ended g h s
      ((g.begun s).writeS s.cur.clock o.d
        (maskOf ((lanesOf (activeOf g h s)).filter fun l => (Rules.firstPos o .a g s.cur.clock).getD l 0 ≠ 0))
        (readyClock s.cur.clock 6 1 0)))) :=
  (exec_of_effect hv (by decide) opOf_vballot hi
    (ballotEff_plain (issueOf 0x78 h f g s) g (g.begun s) (s.begun g) (begun_group g s) hports rfl)).trans
    (congrArg _ (issued_hold g _ h s _))

end

/-! ## `sfromv` -/

/-- What `sfromv` does on a group. -/
def sfromvEffect (x : Iss) (g : Group) (s : State) : Option State :=
  let a := gather x.now (gatherFor x g s) (readRegs x.o .a)
  match a.wait with
  | some q => some (parkStream x q (readRegs x.o .a) a s)
  | none =>
    let vals := (laneVals x.o .a a.imgs.reverse).headD []
    let v := vals.getD ((bWhole x.o (bScalar g x.now x.o)).toNat % 64) 0
    some (ungather x { a with g := a.g.writeS x.now x.o.d (extW x.o.typ v) (readyClock x.now 6 1 0) } s)

/-- The effect of `sfromv` of a group without ports. -/
theorem sfromvEffect_plain (x : Iss) (g g1 : Group) (s : State) (hg : s.group x.k = some g1) (hb : g1.binds = [])
    (hr : g1.readVReg x.now = g.readVReg x.now) :
    sfromvEffect x g s = some (s.setGroup x.k (g1.writeS x.now x.o.d (extW x.o.typ ((plainFirst x.o .a g x.now).getD
      ((bWhole x.o (bScalar g x.now x.o)).toNat % 64) 0)) (readyClock x.now 6 1 0))) := by
  unfold sfromvEffect plainFirst
  simp only [gatherFor, hg, Option.getD_some, gather_plain, hb, hr, List.append_nil, List.reverse_reverse]
  rw [ungather_plain _ _ _ (by exact hb)]

section
variable {i : Instr} {h : Hdr} {f : Form} {g : Group} {s : State}

theorem opOf_sfromv (hseq : s.cur.seq = .group) : opOf 0x1c h f s = groupIssue 0x1c h f sfromvEffect s := by
  have hop : opOf 0x1c h f s = opSfromv h f s := rfl
  rw [hop, opSfromv, hseq]
  rfl

/-- `sfromv` of a group without ports writes the element of one lane. -/
theorem exec_sfromv (hv : view i = some (0x1c, h, f)) (hi : Issues 0x1c h f g s) (hports : g.binds = []) :
    let o := operands g 0x1c f
    exec i s = .next (s.setGroup s.cur.key (Rules.ended g h s ((g.begun s).writeS s.cur.clock o.d
      (extW o.typ ((Rules.firstPos o .a g s.cur.clock).getD ((bWhole o (bScalar g s.cur.clock o)).toNat % 64) 0))
      (readyClock s.cur.clock 6 1 0)))) :=
  (exec_of_effect hv (by decide) (opOf_sfromv hi.seq) hi
    (sfromvEffect_plain (issueOf 0x1c h f g s) g (g.begun s) (s.begun g) (begun_group g s) hports rfl)).trans
    (congrArg _ (issued_setGroup g _ h s))

/-! ## `jmov` -/

theorem opOf_jmov (h : Hdr) (f : Form) (s : State) : opOf 0x31 h f s = opJmov h f s := rfl

/-- `jmov` from a rejoin register writes its expected mask, or with OPT 1 its arrived mask. -/
theorem exec_jmov_scalar (hv : view i = some (0x31, h, f)) (hi : Issues 0x31 h f g s) :
    let o := operands g 0x31 f
    o.opt < 2 → ∃ g', exec i s = .next (s.setGroup s.cur.key g') ∧ Rules.writesScalar g h s o.d
      (if o.opt = 0 then g.readJ s.cur.clock o.a else getZ g.jarr o.a) g' := by
  intro o hopt
  refine exec_of_writeS (ready := readyClock s.cur.clock 2 1 0) hv (by decide) (opOf_jmov h f s) hi ?_
  have hcases : (issueOf 0x31 h f g s).o.opt = 0 ∨ (issueOf 0x31 h f g s).o.opt = 1 := Nat.le_one_iff_eq_zero_or_eq_one.mp (Nat.le_of_lt_succ hopt)
  rcases hcases with h0 | h1
  · have ho : o.opt = 0 := h0
    dsimp only
    rw [h0, if_pos ho]
    rfl
  · have ho : ¬o.opt = 0 := fun h0 => absurd (h1.symm.trans h0) (by decide)
    dsimp only
    rw [h1, if_neg ho]
    rfl

/-- A group with other notes on its registers. -/
def withNotes (G : Group) (p : List Pend) (sc : List Score) (bad : List (RFile × Nat × Nat)) : Group :=
  { G with pend := p, score := sc, badRegs := bad }

/-- The release test reads no notes and changes none. -/
theorem rejoinTest_withNotes (G : Group) (p : List Pend) (sc : List Score) (bad : List (RFile × Nat × Nat)) (j : Nat) :
    (withNotes G p sc bad).rejoinTest j = withNotes (G.rejoinTest j) p sc bad := by
  have hcases : ∀ x : Group, x.rejoinTest j = if getZ x.jexp j &&& ~~~x.exited &&& ~~~getZ x.jarr j = 0 &&
      ((x.parkedOn fun c => c = .rejoin j) ≠ 0 || getZ x.jarr j ≠ 0)
    then { x.unpark (x.parkedOn fun c => c = .rejoin j) with jarr := setZ x.jarr j 0 } else x := fun _ => rfl
  rw [hcases, hcases, apply_ite (withNotes · p sc bad)]
  rfl

/-- `jmov` to a rejoin register writes its expected mask and applies the release test (R27). -/
theorem exec_jmov_mask (hv : view i = some (0x31, h, f)) (hi : Issues 0x31 h f g s) :
    let o := operands g 0x31 f
    2 ≤ o.opt → ∃ g', exec i s = .next (s.setGroup s.cur.key g') ∧ Rules.leaves g h s [(.j, o.d)]
      (fun b => Group.rejoinTest { b with jexp := setZ g.jexp o.d (g.readS s.cur.clock o.a) } o.d) g' := by
  intro o hopt
  refine ⟨_, exec_of_change (F := fun b => (b.writeJ s.cur.clock o.d (g.readS s.cur.clock o.a)
    (readyClock s.cur.clock 2 1 0)).rejoinTest o.d) hv (by decide) (opOf_jmov h f s) hi ?effect, ?leaves⟩
  case effect =>
    have h2 : 2 ≤ (issueOf 0x31 h f g s).o.opt := hopt
    dsimp only
    split
    next h0 => omega
    next h1 => omega
    next => rfl
  case leaves =>
    exact ⟨_, _, _, congrArg _ (rejoinTest_withNotes { g.begun s with jexp := setZ g.jexp o.d (g.readS s.cur.clock o.a) } _ _ _ o.d),
      notesKept_notePend (g := g)⟩

end

/-- Settles O5: each is one issue that writes one register, and a comparison or `vballot` holds the datapath. -/
theorem maskResults : Obligations.MaskResults := by
  unfold Obligations.MaskResults
  intro i opc h f g s hv hi
  dsimp only
  refine ⟨?compare, ?sfromv, ?vballot, ?jmovScalar, ?jmovMask⟩
  case compare =>
    intro hopc hports
    obtain ⟨ready, hexec⟩ := exec_compare hv hopc hi hports
    exact ⟨_, hexec, writesPred_ended⟩
  case sfromv =>
    rintro rfl hports
    exact ⟨_, exec_sfromv hv hi hports, writesScalar_ended⟩
  case vballot =>
    rintro rfl hports
    exact ⟨_, exec_vballot hv hi hports, writesScalar_ended⟩
  case jmovScalar =>
    rintro rfl
    exact exec_jmov_scalar hv hi
  case jmovMask =>
    rintro rfl
    exact exec_jmov_mask hv hi

end Sys2Proof.Laws
end

section
/-!
SUPPORT. `nop`, `yield`, `ifence` and `sleep` (R169, R192, R194, R203, R204): one issue of each, after which the lanes of the bundle go on.
-/

namespace Sys2Proof.Laws

open Sys2Proof.Machine

theorem opOf_yield (h : Hdr) (f : Form) (s : State) : opOf 0x2d h f s = opYield h f s := rfl
theorem opOf_ifence (h : Hdr) (f : Form) (s : State) : opOf 0x2e h f s = opIfence h f s := rfl
theorem opOf_sleep (h : Hdr) (f : Form) (s : State) : opOf 0xe3 h f s = opSleep h f s := rfl

/-- A group whose bundle moves on in an issue, with the clock until which the group stands back and its sleeps cut short. -/
def restedIn (g : Group) (s : State) (till : Nat) (naps : List (W64 × Nat)) : Group :=
  { g.begun s with yieldUntil := till, naps := naps }

section
variable {g : Group} {s : State} {till : Nat} {naps : List (W64 × Nat)} {c : Cursor} {b₀ : Bundle} {n : Nat}

/-- The lanes of the bundle stand at the following instruction, and other bundles and the notes stay. -/
theorem goes_rested :
    (Rules.lanesGo ((restedIn g s till naps).settle c b₀ n) g s fun _ => nextPc s.cur) ∧
      Rules.othersStay ((restedIn g s till naps).settle c b₀ n) g s :=
  ⟨fun l hl => begun_lane g s l hl, notesKept_refl [] s.cur.clock g, fun _ hb => List.mem_append_left _ hb⟩

/-- The bundles that an issue makes are held, and keep their lines or not, as the cursor says. -/
theorem newBundles_rested : Rules.newBundles ((restedIn g s till naps).settle c b₀ n) g s fun x =>
    x.hold = c.hold ∧ (c.dropLine = true → x.line = none ∧ x.line2 = none) := by
  intro b hb
  refine (List.mem_append.mp hb).imp_right fun hnew => ?_
  obtain ⟨x, -, rfl⟩ := List.mem_map.mp hnew
  exact ⟨rfl, fun hdrop => ⟨if_pos hdrop, if_pos hdrop⟩⟩

/-- What an issue that moves its bundle on changes of its group. -/
theorem restedIn_settle_shape : ∃ ls bs t, (restedIn g s till naps).settle c b₀ n =
    { g with lanes := ls, bundles := bs, lastIssue := t, yieldUntil := till, naps := naps } := by
  obtain ⟨ls, _, t, hbegun⟩ := begun_shape g s
  obtain ⟨bs, hsettle⟩ := settle_shape (restedIn g s till naps) c b₀ n
  exact ⟨ls, bs, t, by rw [hsettle, restedIn, hbegun]⟩

theorem sameButIssue_rested : Rules.sameButIssue ((restedIn g s g.yieldUntil g.naps).settle c b₀ n) g := by
  obtain ⟨ls, bs, t, e⟩ := @restedIn_settle_shape g s g.yieldUntil g.naps c b₀ n
  rw [e]
  rfl

theorem sameButIssue_rested_till :
    Rules.sameButIssue { (restedIn g s till g.naps).settle c b₀ n with yieldUntil := g.yieldUntil } g := by
  obtain ⟨ls, bs, t, e⟩ := @restedIn_settle_shape g s till g.naps c b₀ n
  rw [e]
  rfl

theorem sameButIssue_rested_naps :
    Rules.sameButIssue { (restedIn g s g.yieldUntil naps).settle c b₀ n with naps := g.naps } g := by
  obtain ⟨ls, bs, t, e⟩ := @restedIn_settle_shape g s g.yieldUntil naps c b₀ n
  rw [e]
  rfl

/-- What held of new bundles holds of weaker properties of them. -/
theorem newBundles_imp {g' : Group} {p q : Bundle → Prop} (h : Rules.newBundles g' g s p) (hpq : ∀ x, p x → q x) :
    Rules.newBundles g' g s q := fun b hb => (h b hb).imp_right (hpq b)

end

/-- A sleep that a save has cut short, of a lane of the bundle (R204). -/
abbrev napCut (s : State) (x : W64 × Nat) : Bool := x.1 &&& s.cur.lanes ≠ 0

/-- The clocks that a `sleep` of b sleeps: what was left of one cut short, or b. -/
abbrev napLeft (g : Group) (s : State) (b : Nat) : Nat := match g.naps.find? (napCut s) with | some x => x.2 | none => b

/-- What `sleep` does: it takes up a sleep that was cut short, and holds the bundle. -/
def sleepEffect (x : Iss) (g : Group) (s : State) : Option State :=
  let n := napLeft g s (bWhole x.o (bScalar g x.now x.o)).toNat
  let t := if (g.naps.find? (napCut s)).isSome then
    s.updGroup x.k fun g => { g with naps := g.naps.filter fun x => x.1 &&& s.cur.lanes = 0 } else s
  if n = 0 then some t else some (Rules.holding t (.sleep (x.now + n + 1) t.cur.pc))

section
variable {i : Instr} {h : Hdr} {f : Form} {g : Group} {s : State}

theorem opOf_nop (hseq : s.cur.seq = .group) : opOf 0x00 h f s = groupIssue 0x00 h f (fun _ _ t => some t) s := by
  have hop : opOf 0x00 h f s = opNop h f s := rfl
  rw [hop, opNop, hseq]

theorem exec_nop (hv : view i = some (0x00, h, f)) (hi : Issues 0x00 h f g s) :
    exec i s = .next (s.setGroup s.cur.key
      ((restedIn g s g.yieldUntil g.naps).settle s.cur (g.bundle s.cur.lanes) h.stall.toNat)) := by
  rw [exec_of_effect hv (by decide) (opOf_nop hi.seq) hi rfl, issued_begun]
  rfl

/-- `yield` outside trap mode notes the clock until which its group stands back. -/
theorem exec_yield (hv : view i = some (0x2d, h, f)) (hi : Issues 0x2d h f g s) :
    exec i s = .next (s.setGroup s.cur.key
      ((restedIn g s (if Rules.leadInTrap g h s then g.yieldUntil else s.cur.clock + 2) g.naps).settle s.cur
        (g.bundle s.cur.lanes) h.stall.toNat)) := by
  by_cases htrap : Rules.leadInTrap g h s = true
  · rw [exec_of_effect hv (by decide) (opOf_yield h f s) hi (if_pos htrap), issued_begun, if_pos htrap]
    rfl
  · rw [exec_of_effect hv (by decide) (opOf_yield h f s) hi ((if_neg htrap).trans (congrArg some (updGroup_begun g s _))),
      issued_setGroup_of, if_neg htrap]
    rfl

/-- `ifence` makes the bundle give up its line. -/
theorem exec_ifence (hv : view i = some (0x2e, h, f)) (hi : Issues 0x2e h f g s) :
    let t : State := { s with cur := { s.cur with dropLine := true } }
    exec i s = .next (t.setGroup s.cur.key
      ((restedIn g s g.yieldUntil g.naps).settle t.cur (g.bundle s.cur.lanes) h.stall.toNat)) := by
  intro t
  have heffect : exec i s = .next (issued g h s (t.setGroup s.cur.key (g.begun s))) :=
    exec_of_effect hv (by decide) (opOf_ifence h f s) hi rfl
  rw [heffect, issued_setGroup_of]
  rfl

/-- A `sleep` leaves the sleeps cut short of other lanes. -/
theorem napsTaken (g : Group) (s : State) :
    (if (g.naps.find? (napCut s)).isSome then
      (s.begun g).updGroup s.cur.key fun g => { g with naps := g.naps.filter fun x => x.1 &&& s.cur.lanes = 0 } else s.begun g) =
      s.setGroup s.cur.key (restedIn g s g.yieldUntil (g.naps.filter fun x => !napCut s x)) := by
  have huncut : (fun x : W64 × Nat => decide (x.1 &&& s.cur.lanes = 0)) = fun x => !napCut s x := by
    funext x
    simp [napCut]
  rw [huncut]
  cases hcut : g.naps.find? (napCut s) with
  | some x => exact (if_pos rfl).trans (updGroup_begun g s _)
  | none =>
    have hall : (g.naps.filter fun x => !napCut s x) = g.naps :=
      List.filter_eq_self.mpr fun x hx => by rw [Bool.not_eq_true']; exact Bool.eq_false_iff.mpr (List.find?_eq_none.mp hcut x hx)
    rw [hall]
    rfl

/-- `sleep` of no clocks moves on. -/
theorem exec_sleep_none (hv : view i = some (0xe3, h, f)) (hi : Issues 0xe3 h f g s) :
    let o := operands g 0xe3 f
    napLeft g s (bWhole o (bScalar g s.cur.clock o)).toNat = 0 →
    exec i s = .next (s.setGroup s.cur.key
      ((restedIn g s g.yieldUntil (g.naps.filter fun x => !napCut s x)).settle s.cur (g.bundle s.cur.lanes) h.stall.toNat)) := by
  intro o hn
  have heffect : sleepEffect (issueOf 0xe3 h f g s) g (s.begun g) =
      some (s.setGroup s.cur.key (restedIn g s g.yieldUntil (g.naps.filter fun x => !napCut s x))) :=
    (if_pos hn).trans (congrArg some (napsTaken g s))
  rw [exec_of_effect hv (by decide) (opOf_sleep h f s) hi heffect, issued_setGroup_of]

/-- `sleep` of some clocks holds the bundle. -/
theorem exec_sleep_some (hv : view i = some (0xe3, h, f)) (hi : Issues 0xe3 h f g s) :
    let o := operands g 0xe3 f
    let n := napLeft g s (bWhole o (bScalar g s.cur.clock o)).toNat
    let t := Rules.holding s (.sleep (s.cur.clock + n + 1) s.cur.pc)
    n ≠ 0 → exec i s = .next (t.setGroup s.cur.key
      ((restedIn g s g.yieldUntil (g.naps.filter fun x => !napCut s x)).settle t.cur (g.bundle s.cur.lanes) h.stall.toNat)) := by
  intro o n t hn
  have heffect : sleepEffect (issueOf 0xe3 h f g s) g (s.begun g) =
      some (t.setGroup s.cur.key (restedIn g s g.yieldUntil (g.naps.filter fun x => !napCut s x))) :=
    (if_neg hn).trans (congrArg (fun u : State => some (Rules.holding u (.sleep (s.cur.clock + n + 1) u.cur.pc))) (napsTaken g s))
  rw [exec_of_effect hv (by decide) (opOf_sleep h f s) hi heffect, issued_setGroup_of]

end

/-- Settles O6: each is one issue after which the lanes of the bundle go on. -/
theorem movesOn : Obligations.MovesOn := by
  unfold Obligations.MovesOn
  intro i opc h f g s hv hi
  dsimp only
  refine ⟨?nop, ?yield, ?ifence, ?sleep⟩
  case nop =>
    rintro rfl
    exact ⟨_, exec_nop hv hi, goes_rested, sameButIssue_rested⟩
  case yield =>
    rintro rfl
    exact ⟨_, exec_yield hv hi, goes_rested, rfl, sameButIssue_rested_till⟩
  case ifence =>
    rintro rfl
    exact ⟨_, exec_ifence hv hi, goes_rested, newBundles_imp newBundles_rested fun x hx => hx.2 rfl, sameButIssue_rested⟩
  case sleep =>
    rintro rfl
    refine ⟨fun hn => ⟨_, exec_sleep_none hv hi hn, goes_rested, rfl, sameButIssue_rested_naps⟩, fun hn => ?_⟩
    exact ⟨_, exec_sleep_some hv hi hn, goes_rested, newBundles_imp newBundles_rested fun x hx => hx.1, rfl,
      sameButIssue_rested_naps⟩

end Sys2Proof.Laws
end

section
/-!
SUPPORT. `trap` and `rtrap` (R191, R200, R378 to R382): one issue of each.
-/

namespace Sys2Proof.Laws

open Sys2Proof.Machine

theorem opOf_trap (h : Hdr) (f : Form) (s : State) : opOf 0x2c h f s = opTrap h f s := rfl
theorem opOf_rtrap (h : Hdr) (f : Form) (s : State) : opOf 0xe0 h f s = opRtrap h f s := rfl

/-- A fault on some lane is taken. -/
theorem precise_sameFault {m : W64} (hm : m ≠ 0) (k cause sub pos : Nat) (info : W64) (s : State) :
    precise k (sameFault m cause sub pos info) s = takeTrap k (preciseCtx s) (sameFault m cause sub pos info) s := by
  obtain ⟨l, hl⟩ := lowest_of_ne_zero hm
  have hmem : l ∈ lanesOf m := List.mem_of_mem_head? hl
  refine if_neg fun hempty => ?_
  rw [List.isEmpty_iff, sameFault, List.map_eq_nil_iff] at hempty
  exact absurd (hempty ▸ hmem) List.not_mem_nil

/-- A group whose lanes of a mask return from trap mode in an issue. -/
def returnedIn (g : Group) (s : State) (m : W64) : Group :=
  ((g.begun s).updLanes m fun _ x => { x with trap := false, pc := x.trapPc }).unbundle m

section
variable {g : Group} {s : State} {m : W64} {c : Cursor} {b₀ : Bundle} {n : Nat}

/-- Lanes that return stand at their TRAPPC; the bundle's others stand at the following instruction. -/
theorem lanesBecome_returnedIn : Rules.lanesBecome ((returnedIn g s m).settle c b₀ n) g s m fun _ x =>
    { x with trap := false, pc := x.trapPc } := by
  intro l hlt
  have hlane : (returnedIn g s m).lane l = ((g.begun s).updLanes m fun _ x => { x with trap := false, pc := x.trapPc }).lane l := rfl
  rw [settle_lane, hlane, lane_updLanes _ _ _ _ ((length_begun g s).symm ▸ hlt), begun_lane g s l hlt]
  by_cases hb : s.cur.lanes.getLsbD l = true
  · rw [if_pos hb]
  · rw [if_neg hb]

/-- Lanes that return stand in no bundle at the end of the issue. -/
theorem returnedIn_apart :
    ∀ b ∈ ((returnedIn g s m).settle (Rules.awayWith s m).cur b₀ n).bundles, b.mask &&& m = 0 :=
  settle_apart (unbundle_apart _ m) fun l hl => by
    have haway : (Rules.awayWith s m).cur.away.getLsbD l = true := hl
    rw [BitVec.getLsbD_or, haway, Bool.true_or]

/-- What a return changes of the group that issues. -/
theorem returnedIn_settle_shape :
    ∃ ls bs t, (returnedIn g s m).settle c b₀ n = { g with lanes := ls, bundles := bs, lastIssue := t } := by
  obtain ⟨_, _, t, hbegun⟩ := begun_shape g s
  have hreturned : ∃ ls bs, returnedIn g s m = { g.begun s with lanes := ls, bundles := bs } := ⟨_, _, rfl⟩
  obtain ⟨ls, _, hreturned⟩ := hreturned
  obtain ⟨bs, hsettle⟩ := settle_shape (returnedIn g s m) c b₀ n
  exact ⟨ls, bs, t, by rw [hsettle, hreturned, hbegun]⟩

theorem sameButIssue_returnedIn : Rules.sameButIssue ((returnedIn g s m).settle c b₀ n) g := by
  obtain ⟨ls, bs, t, e⟩ := @returnedIn_settle_shape g s m c b₀ n
  rw [e]
  rfl

theorem notesKept_returnedIn : Rules.notesKept [] s.cur.clock g ((returnedIn g s m).settle c b₀ n).pend
    ((returnedIn g s m).settle c b₀ n).score ((returnedIn g s m).settle c b₀ n).badRegs := by
  obtain ⟨ls, bs, t, e⟩ := @returnedIn_settle_shape g s m c b₀ n
  rw [e]
  exact notesKept_refl [] s.cur.clock g

end

section
variable {i : Instr} {h : Hdr} {f : Form} {g : Group} {s : State}

/-- `trap` takes SWTRAP, with the following address as TRAPPC. -/
theorem exec_trap {d a : BitVec 7} (hv : view i = some (0x2c, h, .single d a)) (hi : Issues 0x2c h (.single d a) g s)
    (htrap : Rules.leadInTrap g h s = false) :
    exec i s = .next (issued g h s (takeTrap s.cur.key { pc := nextPc s.cur, readyAt := s.cur.clock + 1 }
      (sameFault (activeOf g h s) 0x0e 0 0 (w64 (a ++ d).toNat)) (s.begun g))) :=
  exec_of_effect hv (by decide) (opOf_trap h _ s) hi (if_neg (Bool.eq_false_iff.mp htrap))

/-- `trap` in trap mode is refused. -/
theorem exec_trap_refused (hv : view i = some (0x2c, h, f)) (hi : Issues 0x2c h f g s) (htrap : Rules.leadInTrap g h s = true) :
    exec i s = .next (issued g h s (illegal (issueOf 0x2c h f g s) (activeOf g h s) 0x0f (s.begun g))) :=
  exec_of_effect hv (by decide) (opOf_trap h _ s) hi (if_pos htrap)

/-- `rtrap` takes its lanes out of trap mode. -/
theorem exec_rtrap (hv : view i = some (0xe0, h, f)) (hi : Issues 0xe0 h f g s) (htrap : Rules.leadInTrap g h s = true) :
    let t := Rules.awayWith s (activeOf g h s)
    exec i s = .next (t.setGroup s.cur.key
      ((returnedIn g s (activeOf g h s)).settle t.cur (g.bundle s.cur.lanes) h.stall.toNat)) := by
  intro t
  have heffect : exec i s = .next (issued g h s (t.setGroup s.cur.key (returnedIn g s (activeOf g h s)))) :=
    exec_of_effect hv (by decide) (opOf_rtrap h f s) hi ((if_pos htrap).trans
      (congrArg (fun u : State => some { u with cur := t.cur }) (updGroup_begun g s _)))
  rw [heffect, issued_setGroup_of]

/-- `rtrap` outside trap mode takes PRIV. -/
theorem exec_rtrap_refused (hv : view i = some (0xe0, h, f)) (hi : Issues 0xe0 h f g s) (htrap : Rules.leadInTrap g h s = false) :
    exec i s = .next (issued g h s (precise s.cur.key (sameFault (activeOf g h s) 0x02 0 0 0) (s.begun g))) :=
  exec_of_effect hv (by decide) (opOf_rtrap h f s) hi (if_neg (Bool.eq_false_iff.mp htrap))

end

/-- Settles O9: `trap` takes its trap or is refused, `rtrap` returns its lanes or is refused. -/
theorem softwareTraps : Obligations.SoftwareTraps := by
  unfold Obligations.SoftwareTraps
  constructor
  · intro i h d a g s hv hi
    refine ⟨exec_trap hv hi, fun htrap => ?_⟩
    rw [exec_trap_refused hv hi htrap, illegal, precise_sameFault hi.lanes]
    rfl
  · intro i h f g s hv hi
    dsimp only
    refine ⟨fun htrap => ⟨_, exec_rtrap hv hi htrap, sameButIssue_returnedIn, notesKept_returnedIn, returnedIn_apart,
      lanesBecome_returnedIn⟩, fun htrap => ?_⟩
    rw [exec_rtrap_refused hv hi htrap, precise_sameFault hi.lanes]
    rfl

end Sys2Proof.Laws
end

section
/-!
SUPPORT. System registers of a group (R129, R131, R177, R178): one issue of `sread` and of `swrite`.
-/

namespace Sys2Proof.Laws

open Sys2Proof.Machine

/-! ## `sread` -/

/-- What `sread` does on a group. -/
def sreadEffect (x : Iss) (g : Group) (s : State) : Option State :=
  match sysRead s x.k g ((lowest x.act).getD 0) x.o.a with
  | some v => some (scalarResult x x.o.d v s)
  | none => some (illegal x x.act 0x11 s)

/-- What `swrite` does on a group. -/
def swriteEffect (x : Iss) (g : Group) (s : State) : Option State :=
  match sysWrite s x (g.lane ((lowest x.act).getD 0)).trap x.o.d (g.readS x.now x.o.a) with
  | some s => some s
  | none => some (illegal x x.act 0x11 s)

/-- The cluster of a core from the bits of its number (R9). -/
theorem clusterOf_eq (c : Nat) : clusterOf c = 8 * (c / 32) + 4 * (c / 16 % 2) + c % 8 / 2 := by
  rw [clusterOf, dieOf, rowOf, colOf]
  omega

section
variable {i : Instr} {h : Hdr} {f : Form} {g : Group} {s : State}

theorem opOf_sread (hseq : s.cur.seq = .group) : opOf 0x1a h f s = groupIssue 0x1a h f sreadEffect s := by
  have hop : opOf 0x1a h f s = opSread h f s := rfl
  rw [hop, opSread, hseq]
  rfl

theorem opOf_swrite (hseq : s.cur.seq = .group) : opOf 0x1b h f s = groupIssue 0x1b h f swriteEffect s := by
  have hop : opOf 0x1b h f s = opSwrite h f s := rfl
  rw [hop, opSwrite, hseq]
  rfl

/-- The register of a code, as the issuing group reads it in a lane (R177, R178). -/
theorem sysRead_begun (hslot : Rules.slotOk s) (l code : Nat) :
    sysRead (s.begun g) s.cur.key g l code = Rules.systemRegister s g (g.lane l) l code := by
  unfold sysRead
  rw [key_div hslot]
  dsimp only
  rw [clusterOf_eq]
  rfl

theorem exec_sread (hv : view i = some (0x1a, h, f)) (hi : Issues 0x1a h f g s) (hslot : Rules.slotOk s) {x : W64}
    (hx : Rules.systemRegister s g (g.lane (Rules.leadLane g h s)) (Rules.leadLane g h s) (operands g 0x1a f).a = some x) :
    ∃ g', exec i s = .next (s.setGroup s.cur.key g') ∧ Rules.writesScalar g h s (operands g 0x1a f).d x g' := by
  have hread : sysRead (s.begun g) (issueOf 0x1a h f g s).k g ((lowest (issueOf 0x1a h f g s).act).getD 0)
      (issueOf 0x1a h f g s).o.a = some x := (sysRead_begun hslot _ _).trans hx
  have heffect : sreadEffect (issueOf 0x1a h f g s) g (s.begun g) =
      some (scalarResult (issueOf 0x1a h f g s) (operands g 0x1a f).d x (s.begun g)) := by
    rw [sreadEffect, hread]
    rfl
  exact exec_of_writeS hv (by decide) (opOf_sread hi.seq) hi heffect

theorem exec_sread_refused (hv : view i = some (0x1a, h, f)) (hi : Issues 0x1a h f g s) (hslot : Rules.slotOk s)
    (hx : Rules.systemRegister s g (g.lane (Rules.leadLane g h s)) (Rules.leadLane g h s) (operands g 0x1a f).a = none) :
    exec i s = .next (issued g h s (illegal (issueOf 0x1a h f g s) (activeOf g h s) 0x11 (s.begun g))) := by
  have hread : sysRead (s.begun g) (issueOf 0x1a h f g s).k g ((lowest (issueOf 0x1a h f g s).act).getD 0)
      (issueOf 0x1a h f g s).o.a = none := (sysRead_begun hslot _ _).trans hx
  refine exec_of_effect hv (by decide) (opOf_sread hi.seq) hi ?_
  rw [sreadEffect, hread]
  rfl

/-! ## `swrite` -/

/-- `swrite` of a register that its code names. -/
theorem exec_swrite {t : State} (hv : view i = some (0x1b, h, f)) (hi : Issues 0x1b h f g s)
    (ht : sysWrite (s.begun g) (issueOf 0x1b h f g s) (Rules.leadInTrap g h s) (operands g 0x1b f).d
      (g.readS s.cur.clock (operands g 0x1b f).a) = some t) : exec i s = .next (issued g h s t) := by
  refine exec_of_effect hv (by decide) (opOf_swrite hi.seq) hi ?_
  have ht' : sysWrite (s.begun g) (issueOf 0x1b h f g s) (g.lane ((lowest (issueOf 0x1b h f g s).act).getD 0)).trap
      (issueOf 0x1b h f g s).o.d (g.readS (issueOf 0x1b h f g s).now (issueOf 0x1b h f g s).o.a) = some t := ht
  rw [swriteEffect, ht']

/-- `swrite` of a code that names no register that it may write. -/
theorem exec_swrite_refused (hv : view i = some (0x1b, h, f)) (hi : Issues 0x1b h f g s)
    (ht : sysWrite (s.begun g) (issueOf 0x1b h f g s) (Rules.leadInTrap g h s) (operands g 0x1b f).d
      (g.readS s.cur.clock (operands g 0x1b f).a) = none) :
    exec i s = .next (issued g h s (illegal (issueOf 0x1b h f g s) (activeOf g h s) 0x11 (s.begun g))) := by
  refine exec_of_effect hv (by decide) (opOf_swrite hi.seq) hi ?_
  have ht' : sysWrite (s.begun g) (issueOf 0x1b h f g s) (g.lane ((lowest (issueOf 0x1b h f g s).act).getD 0)).trap
      (issueOf 0x1b h f g s).o.d (g.readS (issueOf 0x1b h f g s).now (issueOf 0x1b h f g s).o.a) = none := ht
  rw [swriteEffect, ht']
  rfl

/-- `swrite` of a register of the group. -/
theorem exec_swrite_group {F : Group → Group} (hv : view i = some (0x1b, h, f)) (hi : Issues 0x1b h f g s)
    (ht : sysWrite (s.begun g) (issueOf 0x1b h f g s) (Rules.leadInTrap g h s) (operands g 0x1b f).d
      (g.readS s.cur.clock (operands g 0x1b f).a) = some ((s.begun g).updGroup s.cur.key F)) :
    exec i s = .next (s.setGroup s.cur.key (Rules.ended g h s (F (g.begun s)))) := by
  rw [exec_swrite hv hi ht, issued_updGroup]
  rfl

/-- `swrite` of a counter of the core. -/
theorem exec_swrite_core {F : Core → Core} (hv : view i = some (0x1b, h, f)) (hi : Issues 0x1b h f g s) (hslot : Rules.slotOk s)
    (ht : sysWrite (s.begun g) (issueOf 0x1b h f g s) (Rules.leadInTrap g h s) (operands g 0x1b f).d
      (g.readS s.cur.clock (operands g 0x1b f).a) = some ((s.begun g).updCore (s.cur.key / 128) F)) :
    exec i s = .next ((Rules.withCore s F).setGroup s.cur.key (Rules.ended g h s (g.begun s))) := by
  rw [key_div hslot] at ht
  rw [exec_swrite hv hi ht]
  exact congrArg _ (issued_withCore F (g.begun s))

/-- No code but six names a register that `swrite` may write. -/
theorem sysWrite_other {s : State} {x : Iss} {trap : Bool} {code : Nat} {v : W64}
    (h : code ∉ [0x10, 0x11, 0x12, 0x14, 0x15, 0x18]) : sysWrite s x trap code v = none := by
  simp only [List.mem_cons, List.not_mem_nil, or_false, not_or] at h
  unfold sysWrite
  split
  case h_7 => rfl
  all_goals omega

end

/-- Settles O12: the code decides which register `sread` reads and which `swrite` writes. -/
theorem systemRegisters : Obligations.SystemRegisters := by
  unfold Obligations.SystemRegisters
  constructor
  · intro i h f g s hv hi hslot
    exact ⟨fun x hx => exec_sread hv hi hslot hx, fun hx => exec_sread_refused hv hi hslot hx⟩
  · intro i h f g s hv hi hslot
    dsimp only
    refine ⟨?fpstat, ?fpctl, ?mode, ?oob, ?dropped, ?trapPc, ?refused⟩
    case fpstat =>
      intro hd
      exact exec_swrite_group hv hi (by rw [hd]; rfl)
    case fpctl =>
      intro hd
      rw [exec_swrite_group hv hi (by rw [hd]; rfl)]
      split_ifs <;> rfl
    case mode =>
      intro hd
      exact exec_swrite_group hv hi (by rw [hd]; rfl)
    case oob =>
      intro hd
      exact exec_swrite_core hv hi hslot (by rw [hd]; rfl)
    case dropped =>
      intro hd
      exact exec_swrite_core hv hi hslot (by rw [hd]; rfl)
    case trapPc =>
      intro hd htrap
      exact exec_swrite_group hv hi (by rw [hd, htrap]; rfl)
    case refused =>
      rintro (⟨hd, htrap⟩ | hother)
      · exact exec_swrite_refused hv hi (by rw [hd, htrap]; rfl)
      · exact exec_swrite_refused hv hi (sysWrite_other hother)

end Sys2Proof.Laws
end

section
/-!
SUPPORT. Writes of vector registers (R21, R151, R155): what they make of the vector file, and the notes that they leave.
-/

namespace Sys2Proof.Laws

open Sys2Proof.Machine

/-! ## Notes of readiness -/

/-- Notes kept outside some registers are kept outside more of them. -/
theorem notesKept_mono {d e : List (RFile × Nat)} {now : Nat} {g : Group} {p : List Pend} {sc : List Score}
    {bad : List (RFile × Nat × Nat)} (hde : d ⊆ e) (h : Rules.notesKept d now g p sc bad) : Rules.notesKept e now g p sc bad := by
  obtain ⟨hpend, hready, hscore, hbad, hhealed⟩ := h
  exact ⟨fun x hx => (hpend x hx).imp_left (@hde _), fun x hx => (hready x hx).imp_left (@hde _),
    fun x hl hx => hscore x hl fun hd => hx (hde hd), hbad, fun b hb => (hhealed b hb).imp_left (@hde _)⟩

/-- A result pending on another register is not superseded. -/
theorem mem_supersede_pend {g : Group} {now r : Nat} {m : W64} {e : Pend} (hne : (e.file, e.reg) ≠ (.v, r)) :
    e ∈ (g.supersede now r m).pend ↔ e ∈ g.pend ∧ e.lanes ≠ 0 := by
  have he : (e.soft && decide (now < e.ready) && decide (e.file = .v) && decide (e.reg = r)) = false := by
    rw [Bool.and_assoc, show (decide (e.file = .v) && decide (e.reg = r)) = false by simpa [Prod.ext_iff] using hne, Bool.and_false]
  refine (mem_filter_map_unpicked (p := fun e : Pend => e.soft && decide (now < e.ready) && e.file = .v && e.reg = r) ?keeps he).trans
    (by rw [decide_eq_true_eq])
  case keeps => exact fun _ h => h

/-- Superseding what is pending on a register keeps the notes of every other register (R155). -/
theorem notesKept_supersede {g : Group} {now r : Nat} {m : W64} :
    Rules.notesKept [(.v, r)] now g (g.supersede now r m).pend g.score g.badRegs := by
  obtain ⟨-, -, hrest⟩ := notesKept_refl [(.v, r)] now g
  refine ⟨fun e he => ?pend, fun e he => ?ready, hrest⟩
  case pend =>
    by_cases hr : (e.file, e.reg) = (.v, r)
    · exact .inl (List.mem_singleton.mpr hr)
    · exact .inr ((mem_supersede_pend hr).mp he).1
  case ready =>
    by_cases hr : (e.file, e.reg) = (.v, r)
    · exact .inl (List.mem_singleton.mpr hr)
    · by_cases hl : e.lanes = 0
      · exact .inr (.inr (.inl hl))
      · exact .inr (.inr (.inr ((mem_supersede_pend hr).mpr ⟨he, hl⟩)))

/-! ## Writes on a group -/

/-- Writes have made the vector file of a group `m`, and changed nothing else of it but notes on the registers `dests`. -/
def VectorsWritten (dests : List (RFile × Nat)) (now : Nat) (m : ZMap 32) (g G : Group) : Prop :=
  ∃ p sc bad, G = { g with vregs := m, pend := p, score := sc, badRegs := bad } ∧ Rules.notesKept dests now g p sc bad

section
variable {dests : List (RFile × Nat)} {now : Nat} {m m' : ZMap 32} {g G G' : Group}

/-- A group is its own after no write. -/
theorem vectorsWritten_refl : VectorsWritten dests now g.vregs g g := ⟨_, _, _, rfl, notesKept_refl dests now g⟩

/-- Writes one after the other are writes. -/
theorem vectorsWritten_trans (h : VectorsWritten dests now m g G) (h' : VectorsWritten dests now m' G G') :
    VectorsWritten dests now m' g G' := by
  obtain ⟨p, sc, bad, rfl, hkept⟩ := h
  obtain ⟨p', sc', bad', rfl, hkept'⟩ := h'
  exact ⟨p', sc', bad', rfl, notesKept_mono (by simp) (notesKept_trans hkept hkept')⟩

theorem vectorsWritten_vregs (h : VectorsWritten dests now m g G) : G.vregs = m := by
  obtain ⟨p, sc, bad, rfl, -⟩ := h
  rfl

theorem vectorsWritten_binds (h : VectorsWritten dests now m g G) : G.binds = g.binds := by
  obtain ⟨p, sc, bad, rfl, -⟩ := h
  rfl

/-- A write of one register. -/
theorem vectorsWritten_writeV {r : Nat} (hr : (.v, r) ∈ dests) (g : Group) (ls : List (Nat × Nat)) (ready : Nat) (soft : Bool) :
    VectorsWritten dests now (putLanes g.vregs r ls) g (g.writeV now r ls ready soft) :=
  ⟨_, _, _, rfl, notesKept_mono (by simpa using hr) (notesKept_trans notesKept_supersede
    (notesKept_notePend (g := g.supersede now r (maskOf (ls.map Prod.fst)))))⟩

/-- Marks on registers of a result that comes later (R155). -/
theorem vectorsWritten_marks {rs : List Nat} (hrs : ∀ r ∈ rs, (.v, r) ∈ dests) (g : Group) (lanes : W64) (till : Option Nat) :
    VectorsWritten dests now g.vregs g (rs.foldl (fun g r => g.mark 0 .v r lanes till) g) := by
  induction rs generalizing g with
  | nil => exact vectorsWritten_refl
  | cons r rs ih =>
    have hmark : VectorsWritten dests now g.vregs g (g.mark 0 .v r lanes till) :=
      ⟨_, _, _, rfl, notesKept_mono (by simpa using hrs r List.mem_cons_self) notesKept_mark⟩
    exact vectorsWritten_trans hmark (ih (fun x hx => hrs x (List.mem_cons_of_mem _ hx)) _)

end

/-! ## Writes through `putReg`, of a group without ports -/

/-- Writes have changed the vector file of the group that issues, and nothing else of what an instruction gathers. -/
def Puts (dests : List (RFile × Nat)) (now : Nat) (m : ZMap 32) (a b : Gather) : Prop :=
  ∃ G, b = { a with g := G } ∧ VectorsWritten dests now m a.g G

section
variable {dests : List (RFile × Nat)} {now : Nat} {m m' : ZMap 32} {a b c : Gather}

theorem puts_trans (h : Puts dests now m a b) (h' : Puts dests now m' b c) : Puts dests now m' a c := by
  obtain ⟨G, rfl, hG⟩ := h
  obtain ⟨G', rfl, hG'⟩ := h'
  exact ⟨G', rfl, vectorsWritten_trans hG hG'⟩

theorem puts_vregs (h : Puts dests now m a b) : b.g.vregs = m := by
  obtain ⟨G, rfl, hG⟩ := h
  exact vectorsWritten_vregs hG

theorem puts_binds (h : Puts dests now m a b) : b.g.binds = a.g.binds := by
  obtain ⟨G, rfl, hG⟩ := h
  exact vectorsWritten_binds hG

/-- A register that no port has taken is written in the file. -/
theorem puts_putReg {r : Nat} (hr : (.v, r) ∈ dests) (ls : List (Nat × Nat)) (ready : Nat) (soft : Bool) (a : Gather)
    (hports : a.g.binds = []) : Puts dests now (putLanes a.g.vregs r ls) a (putReg now r ls ready soft a) :=
  ⟨_, putReg_plain now r ls ready soft a hports, vectorsWritten_writeV hr a.g ls ready soft⟩

/-- Writes one after the other, by induction on the list that they go through. -/
theorem puts_foldl {β : Type} {put : Gather → β → Gather} {M : ZMap 32 → β → ZMap 32} {xs : List β}
    (hput : ∀ x ∈ xs, ∀ a : Gather, a.g.binds = [] → Puts dests now (M a.g.vregs x) a (put a x)) (a : Gather)
    (hports : a.g.binds = []) : Puts dests now (xs.foldl M a.g.vregs) a (xs.foldl put a) := by
  induction xs generalizing a with
  | nil => exact ⟨a.g, rfl, vectorsWritten_refl⟩
  | cons x xs ih =>
    have hx := hput x List.mem_cons_self a hports
    have hrest := ih (fun y hy => hput y (List.mem_cons_of_mem _ hy)) (put a x) ((puts_binds hx).trans hports)
    rw [puts_vregs hx] at hrest
    exact puts_trans hx hrest

end

/-! ## Blocks -/

/-- A register of a position of a block is one of the block's (R150). -/
theorem regAt_mem_blockDests {o : Opnd} {k j : Nat} (hk : k < o.n) (hj : j < o.span .d) :
    (RFile.v, o.regAt .d k + j) ∈ Rules.blockDests o :=
  List.mem_map.mpr ⟨(k, o.regAt .d k + j), List.mem_flatMap.mpr ⟨k, List.mem_range.mpr hk,
    List.mem_map.mpr ⟨j, List.mem_range.mpr hj, rfl⟩⟩, rfl⟩

/-- A position has as many registers as its operand spans. -/
theorem lt_of_mem_splitRegs {n : Nat} {ls : List (Nat × Nat)} {x : List (Nat × Nat) × Nat} (hx : x ∈ (splitRegs n ls).zipIdx) :
    x.2 < n := by
  have hlt := List.snd_lt_of_mem_zipIdx hx
  rwa [splitRegs, List.length_map, List.length_range] at hlt

/-- The registers of a block as an instruction marks them. -/
theorem mem_blockDests_of_reg {o : Opnd} {r : Nat} (hr : r ∈ (o.regs .d).map Prod.snd) : (RFile.v, r) ∈ Rules.blockDests o := by
  obtain ⟨x, hx, rfl⟩ := List.mem_map.mp hr
  exact List.mem_map.mpr ⟨x, hx, rfl⟩

/-- The clock at which a scoreboarded result is there (R155). -/
def lateClock (i : Iss) : Nat := i.now + max i.o.clocks (if i.o.typ = 11 then 24 else 12) + 1

/-- The clock at which a position of a result is ready (R151, R155). -/
def positionReady (i : Iss) (k : Nat) : Nat :=
  match latency i.o.opc i.o.typ with
  | some l => readyClock i.now l (max (i.o.span .d) (max (i.o.span .a) 1)) k
  | none => lateClock i

/-- The positions of a result are written, as a vector instruction does it. -/
def putBlock (i : Iss) (res : List (List (Nat × Nat))) (a : Gather) : Gather :=
  (List.range i.o.n).foldl (fun a k => ((splitRegs (i.o.span .d) (res.getD k [])).zipIdx).foldl
    (fun a x => putReg i.now (i.o.regAt .d k + x.2) x.1 (positionReady i k) (latency i.o.opc i.o.typ).isNone a) a) a

/-- The registers of a scoreboarded result are marked (R155). -/
def markLate (i : Iss) (g : Group) : Group :=
  if (latency i.o.opc i.o.typ).isNone then
    ((i.o.regs .d).map Prod.snd).foldl (fun g r => g.mark 0 .v r i.act (some (lateClock i))) g
  else g

/-- The positions of a result are written in ascending order (R150). -/
theorem puts_putBlock (i : Iss) (res : List (List (Nat × Nat))) (a : Gather) (hports : a.g.binds = []) :
    Puts (Rules.blockDests i.o) i.now (Rules.writeBlock i.o res a.g.vregs) a (putBlock i res a) := by
  rw [Rules.writeBlock, putBlock]
  refine puts_foldl (fun k hk b hb => ?_) a hports
  refine puts_foldl (fun x hx c hc => ?_) b hb
  exact puts_putReg (regAt_mem_blockDests (List.mem_range.mp hk) (lt_of_mem_splitRegs hx)) _ _ _ c hc

/-- A result is written and, where it comes later, marked. -/
def putResult (i : Iss) (res : List (List (Nat × Nat))) (a : Gather) : Gather :=
  { putBlock i res a with g := markLate i (putBlock i res a).g }

/-- Marks leave the vector file, and the notes of other registers. -/
theorem vectorsWritten_markLate (i : Iss) (g : Group) :
    VectorsWritten (Rules.blockDests i.o) i.now g.vregs g (markLate i g) := by
  unfold markLate
  split
  · exact vectorsWritten_marks (fun r => mem_blockDests_of_reg) g _ _
  · exact vectorsWritten_refl

/-- A result changes its block, and notes of the block's registers. -/
theorem puts_putResult (i : Iss) (res : List (List (Nat × Nat))) (a : Gather) (hports : a.g.binds = []) :
    Puts (Rules.blockDests i.o) i.now (Rules.writeBlock i.o res a.g.vregs) a (putResult i res a) := by
  have hput := puts_putBlock i res a hports
  have hmark := vectorsWritten_markLate i (putBlock i res a).g
  rw [puts_vregs hput] at hmark
  exact puts_trans hput ⟨_, rfl, hmark⟩

/-! ## Effects of a group without ports -/

section
variable {i : Iss} {g g1 : Group} {s : State}

/-- Three lists are cut out of their concatenation by their lengths. -/
theorem take_drop_append {α : Type} (A B C : List α) : (A ++ B ++ C).take A.length = A ∧
    ((A ++ B ++ C).drop A.length).take B.length = B ∧ (A ++ B ++ C).drop (A.length + B.length) = C := by
  rw [List.append_assoc, List.drop_left, ← List.drop_drop, List.drop_left]
  exact ⟨List.take_left, List.take_left, List.drop_left⟩

/-- What a group without ports gathers from its registers: their images. -/
def gathered (i : Iss) (g g1 : Group) (s : State) (regs : List Nat) : Gather :=
  { gatherFor i g s with g := g1, imgs := (regs.map (g.readVReg i.now)).reverse }

theorem gathered_imgs (regs : List Nat) : (gathered i g g1 s regs).imgs.reverse = regs.map (g.readVReg i.now) :=
  List.reverse_reverse _

/-- What a group without ports has gathered and written is put back as its writes alone. -/
theorem ungather_of_puts {dests : List (RFile × Nat)} {regs : List Nat} {m : ZMap 32} {a : Gather} (hports : g1.binds = [])
    (ha : Puts dests i.now m (gathered i g g1 s regs) a) (fl : Nat) :
    ungather i { a with g := a.g.orFlags fl } s = s.setGroup i.k (a.g.orFlags fl) ∧ VectorsWritten dests i.now m g1 a.g := by
  have hbinds : a.g.binds = [] := (puts_binds ha).trans hports
  obtain ⟨G, rfl, hG⟩ := ha
  exact ⟨ungather_plain i _ s hbinds, hG⟩

variable (hg : s.group i.k = some g1) (hports : g1.binds = []) (hr : g1.readVReg i.now = g.readVReg i.now)
include hg hports hr

/-- No register of a group without ports makes it wait. -/
theorem gather_eq_gathered (regs : List Nat) : gather i.now (gatherFor i g s) regs = gathered i g g1 s regs := by
  rw [gathered, gatherFor, hg]
  refine (gather_plain i.now regs _ hports rfl).trans ?_
  rw [Option.getD_some, hr, List.append_nil]

/-- THE EFFECT OF A VECTOR INSTRUCTION without ports: its block is written, its flags are raised, and it holds the datapath. -/
theorem vectorEff_eq (asInt : Bool) (fn : Iss → Group → Srcs → VRes) :
    let res := fn i g (Rules.blockSources i.o asInt g i.now)
    let a := putResult i res.1 (gathered i g g1 s (readRegs i.o .a ++ readRegs i.o .b ++ readRegs i.o .c))
    vectorEff asInt fn i g s = some (holdDatapath i.o.clocks (ungather i { a with g := a.g.orFlags res.2 } s)) := by
  obtain ⟨ha, hb, hc⟩ := take_drop_append (Rules.images i.o .a g i.now) (Rules.images i.o .b g i.now) (Rules.images i.o .c g i.now)
  simp only [Rules.images, List.length_map, ← List.map_append] at ha hb hc
  unfold vectorEff
  dsimp only
  rw [gather_eq_gathered hg hports hr, gathered_imgs, ha, hb, hc]
  rfl

end

end Sys2Proof.Laws
end

section
/-!
SUPPORT. Vector instructions (R206, R209 to R220, R225 to R228): one issue of each, which writes a block and holds the datapath.
-/

namespace Sys2Proof.Laws

open Sys2Proof.Machine

section
variable {i : Instr} {opc : Nat} {h : Hdr} {f : Form} {g : Group} {s : State}

/-- An issue reads vector registers as the group stood before it. -/
theorem readVReg_begun {now : Nat} : (g.begun s).readVReg now = g.readVReg now := rfl

/-- An issue of a group without ports that writes vector registers, raises flags and holds the datapath. -/
theorem exec_of_puts {eff : Iss → Group → State → Option State} {dests : List (RFile × Nat)} {regs : List Nat} {m : ZMap 32} {a : Gather}
    {fl n : Nat} (hv : view i = some (opc, h, f)) (hne : opc ≠ 0xd1) (hop : opOf opc h f s = groupIssue opc h f eff s)
    (hi : Issues opc h f g s) (hports : g.binds = [])
    (he : eff (issueOf opc h f g s) g (s.begun g) =
      some (holdDatapath n (ungather (issueOf opc h f g s) { a with g := a.g.orFlags fl } (s.begun g))))
    (ha : Puts dests s.cur.clock m (gathered (issueOf opc h f g s) g (g.begun s) (s.begun g) regs) a) :
    ∃ g', exec i s = .next ((holdDatapath n s).setGroup s.cur.key g') ∧
      Rules.leaves g h s dests (fun b => { b with vregs := m, fpstat := g.fpstat ||| w64 (fl % 32) }) g' := by
  obtain ⟨hplain, p, sc, bad, hwritten, hkept⟩ := ungather_of_puts (i := issueOf opc h f g s) (g := g) (g1 := g.begun s) hports ha fl
  rw [hplain, hwritten] at he
  exact ⟨_, (exec_of_effect hv hne hop hi he).trans (congrArg _ (issued_hold g _ h s n)), p, sc, bad, rfl, hkept⟩

/-- A vector instruction of a group without ports writes its block. -/
theorem exec_of_vectorEff {asInt : Bool} {fn : Iss → Group → Srcs → VRes} (hv : view i = some (opc, h, f)) (hne : opc ≠ 0xd1)
    (hop : opOf opc h f s = groupIssue opc h f (vectorEff asInt fn) s) (hi : Issues opc h f g s) (hports : g.binds = []) :
    let o := operands g opc f
    ∃ g', exec i s = .next ((holdDatapath (Rules.occupancy o) s).setGroup s.cur.key g') ∧
      Rules.leaves g h s (Rules.blockDests o) (Rules.blockWritten asInt fn opc h f g s) g' := by
  have heff := vectorEff_eq (i := issueOf opc h f g s) (begun_group g s) hports readVReg_begun asInt fn
  exact exec_of_puts hv hne hop hi hports heff (puts_putResult (issueOf opc h f g s) _ _ hports)

/-- The element-wise integer and move instructions differ in what they compute of an element alone. -/
theorem opOf_intElementwise (hopc : opc ∈ Rules.intElementwise) : opOf opc h f s = groupIssue opc h f
    (vectorEff false (elementwise fun x g k l j a b c => (Rules.intElement opc x.o g x.now k l j a b c, 0))) s := by
  fin_cases hopc <;> rfl

/-- The element-wise floating-point instructions differ in what they compute of an element, and `vfldexp` reads B as an integer. -/
theorem opOf_floatElementwise (hopc : opc ∈ Rules.floatElementwise) : opOf opc h f s = groupIssue opc h f
    (vectorEff (opc = 0x69) (elementwise fun x g _ _ _ a b c =>
      Rules.floatElement opc x.o.typ (rmOf x.o.rm g.fpctl) (x.o.opt % 2 = 1) a b c)) s := by
  fin_cases hopc <;> rfl

/-- The lane instructions that write a block differ in what they compute of it, and three read B as an integer. -/
theorem opOf_laneResult (hopc : opc ∈ [0x70, 0x73, 0x74, 0x75, 0x76, 0x77, 0x79]) : opOf opc h f s = groupIssue opc h f
    (vectorEff (opc = 0x73 || opc = 0x74 || opc = 0x75) (Rules.laneResult opc)) s := by
  fin_cases hopc <;> rfl

end

/-- Settles O2: the opcodes differ in the element that they compute, and each is one issue that writes its block. -/
theorem vectorIntegerResult : Obligations.VectorIntegerResult := by
  unfold Obligations.VectorIntegerResult
  intro i opc h f g s hv hopc hports hi
  have hne : opc ≠ 0xd1 := by rintro rfl; exact absurd hopc (by decide)
  exact exec_of_vectorEff hv hne (opOf_intElementwise hopc) hi hports

/-- Settles O3: the opcodes differ in the element and the flags that they compute, and each is one issue that writes its block. -/
theorem vectorFloatResult : Obligations.VectorFloatResult := by
  unfold Obligations.VectorFloatResult
  intro i opc h f g s hv hopc hports hi
  have hne : opc ≠ 0xd1 := by rintro rfl; exact absurd hopc (by decide)
  exact exec_of_vectorEff hv hne (opOf_floatElementwise hopc) hi hports

/-- Settles O4: each conversion or lane instruction is one issue that writes its block. -/
theorem laneResult : Obligations.LaneResult := by
  unfold Obligations.LaneResult
  intro i opc h f g s hv hopc hports hi
  have hne : opc ≠ 0xd1 := by rintro rfl; exact absurd hopc (by decide)
  exact exec_of_vectorEff hv hne (opOf_laneResult hopc) hi hports

end Sys2Proof.Laws
end

section
/-!
SUPPORT. `vquant` and `vdequant` (R131, R223, R224): one issue of each, which writes several vector registers.
-/

namespace Sys2Proof.Laws

open Sys2Proof.Machine

/-! ## `vquant` -/

/-- What a block of 32 elements becomes: its scale element, and its elements with their flags (R223). -/
def quantBlock (o : Opnd) (imgs : List (List Nat)) (b : Nat) : Nat × List ElRes :=
  quantise o.typ o.inf ((List.range 32).map fun e => ieeeVal o.typ2 (spanEl o.typ2 imgs (32 * b + e)))

/-- The blocks of eight lanes that hold an active lane. -/
def activeBlocks (act : W64) : List Nat := (List.range 8).filter fun b => (List.range 8).any fun l => act.getLsbD (8 * b + l)

/-- The lanes of D that `vquant` writes. -/
def quantData (o : Opnd) (act : W64) (imgs : List (List Nat)) : List (Nat × Nat) :=
  (activeBlocks act).flatMap fun b => (List.range 8).map fun l =>
    (8 * b + l, joinEls 8 ((List.range 4).map fun e => ((quantBlock o imgs b).2.getD (4 * l + e) (0, 0)).1))

/-- The scale elements of C that `vquant` writes. -/
def quantScales (o : Opnd) (act : W64) (imgs : List (List Nat)) : List (Nat × Nat) :=
  (activeBlocks act).map fun b => (8 * (o.opt % 8) + b, (quantBlock o imgs b).1)

/-- The flags that `vquant` raises: those of the blocks whose first lane is active (R131). -/
def quantFlags (o : Opnd) (act : W64) (imgs : List (List Nat)) : Nat :=
  (activeBlocks act).foldl (fun f b => if act.getLsbD (8 * b) then (quantBlock o imgs b).2.foldl (fun f r => f ||| r.2) f else f) 0

/-- The writes of `vquant`: D, then C. -/
def putQuant (i : Iss) (imgs : List (List Nat)) (a : Gather) : Gather :=
  let ready := readyClock i.now 6 (i.o.span .a) 0
  putReg i.now i.o.c (quantScales i.o i.act imgs) ready false (putReg i.now i.o.d (quantData i.o i.act imgs) ready false a)

/-- `vquant` changes D and C, and their notes. -/
theorem puts_putQuant (i : Iss) (imgs : List (List Nat)) (a : Gather) (hports : a.g.binds = []) :
    Puts [(.v, i.o.d), (.v, i.o.c)] i.now
      (putLanes (putLanes a.g.vregs i.o.d (quantData i.o i.act imgs)) i.o.c (quantScales i.o i.act imgs)) a (putQuant i imgs a) := by
  have hd : (RFile.v, i.o.d) ∈ [(RFile.v, i.o.d), (.v, i.o.c)] := List.mem_cons_self
  have hc : (RFile.v, i.o.c) ∈ [(RFile.v, i.o.d), (.v, i.o.c)] := List.mem_cons_of_mem _ List.mem_cons_self
  have hdata := puts_putReg (now := i.now) hd (quantData i.o i.act imgs) (readyClock i.now 6 (i.o.span .a) 0) false a hports
  have hscales := puts_putReg (now := i.now) hc (quantScales i.o i.act imgs) (readyClock i.now 6 (i.o.span .a) 0) false _
    ((puts_binds hdata).trans hports)
  rw [puts_vregs hdata] at hscales
  exact puts_trans hdata hscales

/-! ## `vdequant` -/

/-- The element of a lane of a destination register, with its flags (R224): operands, rounding mode, A, C. -/
def dequantElement (o : Opnd) (mode : Nat) (src scl : List Nat) (r l j : Nat) : ElRes :=
  let e := r * elemsIn o.typ + l * perLane o.typ + j
  dequantEl o.typ o.typ2 o.inf mode (elemAt 8 src e) (scl.getD (8 * (o.opt % 8) + e / 32) 0)

/-- The elements of a lane of a destination register. -/
def dequantLane (o : Opnd) (mode : Nat) (src scl : List Nat) (r l : Nat) : List ElRes :=
  (List.range (perLane o.typ)).map (dequantElement o mode src scl r l)

/-- The active lanes of a destination register. -/
def dequantData (i : Iss) (mode : Nat) (src scl : List Nat) (r : Nat) : List (Nat × Nat) :=
  (lanesOf i.act).map fun l => (l, joinEls (widthOf i.o.typ) ((dequantLane i.o mode src scl r l).map Prod.fst))

/-- The flags of every element. -/
def dequantFlags (i : Iss) (mode : Nat) (src scl : List Nat) : Nat :=
  (List.range (i.o.span .d)).foldl (fun f r => (lanesOf i.act).foldl (fun f l =>
    f ||| (dequantLane i.o mode src scl r l).foldl (fun f x => f ||| x.2) 0) f) 0

/-- The writes of `vdequant`: its destination registers in ascending order. -/
def putDequant (i : Iss) (mode : Nat) (src scl : List Nat) (a : Gather) : Gather :=
  (List.range (i.o.span .d)).foldl (fun a r =>
    putReg i.now (i.o.d + r) (dequantData i mode src scl r) (readyClock i.now 6 (i.o.span .d) 0) false a) a

/-- The result as the model keeps it: for each destination register its lanes, each with its word and its flags. -/
def dequantResult (i : Iss) (mode : Nat) (src scl : List Nat) : List (Nat × List (Nat × (Nat × Nat))) :=
  (List.range (i.o.span .d)).map fun r => (i.o.d + r, (lanesOf i.act).map fun l =>
    (l, joinEls (widthOf i.o.typ) ((dequantLane i.o mode src scl r l).map Prod.fst),
      (dequantLane i.o mode src scl r l).foldl (fun f x => f ||| x.2) 0))

/-- Writing that result register by register is the writes of `vdequant`. -/
theorem foldl_put_dequantResult (i : Iss) (mode : Nat) (src scl : List Nat) (a : Gather) :
    (dequantResult i mode src scl).foldl (fun a x =>
      putReg i.now x.1 (x.2.map fun x => (x.1, x.2.1)) (readyClock i.now 6 (i.o.span .d) 0) false a) a = putDequant i mode src scl a := by
  simp only [dequantResult, List.foldl_map, List.map_map]
  rfl

/-- The flags of that result are those of its elements. -/
theorem foldl_flags_dequantResult (i : Iss) (mode : Nat) (src scl : List Nat) :
    (dequantResult i mode src scl).foldl (fun f x => x.2.foldl (fun f x => f ||| x.2.2) f) 0 = dequantFlags i mode src scl := by
  simp only [dequantResult, List.foldl_map]
  rfl

/-- The registers that `vdequant` writes. -/
def dequantDests (o : Opnd) : List (RFile × Nat) := (List.range (o.span .d)).map fun r => (.v, o.d + r)

/-- `vdequant` changes its destination registers, and their notes. -/
theorem puts_putDequant (i : Iss) (mode : Nat) (src scl : List Nat) (a : Gather) (hports : a.g.binds = []) :
    Puts (dequantDests i.o) i.now
      ((List.range (i.o.span .d)).foldl (fun m r => putLanes m (i.o.d + r) (dequantData i mode src scl r)) a.g.vregs) a
      (putDequant i mode src scl a) := by
  rw [putDequant]
  refine puts_foldl (fun r hr b hb => ?_) a hports
  have hmem : (RFile.v, i.o.d + r) ∈ dequantDests i.o := List.mem_map.mpr ⟨r, hr, rfl⟩
  exact puts_putReg hmem _ _ _ b hb

/-- The registers of a block of 1 by 1, numbered. -/
theorem zipIdx_regs_of_single {o : Opnd} (hrows : o.rows = 1) (hcols : o.cols = 1) :
    ((o.regs .d).map Prod.snd).zipIdx = (List.range (o.span .d)).map fun r => (o.d + r, r) := by
  have hn : o.n = 1 := by rw [Opnd.n, hrows, hcols]
  have hat : o.regAt .d 0 = o.d := by rw [Opnd.regAt, hcols]; simp [Opnd.num]
  have hregs : (o.regs .d).map Prod.snd = (List.range (o.span .d)).map (o.d + ·) := by
    rw [Opnd.regs, hn, List.range_one, List.flatMap_singleton, List.map_map, hat]
    rfl
  rw [hregs]
  exact List.ext_getElem (by simp) fun n _ _ => by simp

/-! ## The effects, of a group without ports -/

section
variable {i : Iss} {g g1 : Group} {s : State} (hg : s.group i.k = some g1) (hports : g1.binds = [])
  (hr : g1.readVReg i.now = g.readVReg i.now)
include hg hports hr

/-- The effect of `vquant`: D and C are written, flags are raised, and it holds the datapath. -/
theorem quantEff_eq (hne : i.o.d ≠ i.o.c) :
    let regs := (i.o.regs .a).map Prod.snd
    let imgs := regs.map (g.readVReg i.now)
    let a := putQuant i imgs (gathered i g g1 s regs)
    quantEff i g s = some (holdDatapath i.o.clocks (ungather i { a with g := a.g.orFlags (quantFlags i.o i.act imgs) } s)) := by
  unfold quantEff
  dsimp only
  rw [if_neg hne, gather_eq_gathered hg hports hr, gathered_imgs, List.flatMap_map, List.map_map, List.foldl_map]
  rfl

/-- The effect of `vdequant` on a block of 1 by 1: its registers are written, flags are raised, and it holds the datapath. -/
theorem dequantEff_eq (hrows : i.o.rows = 1) (hcols : i.o.cols = 1) :
    let mode := rmOf i.o.rm g.fpctl
    let src := g.readVReg i.now i.o.a
    let scl := g.readVReg i.now i.o.c
    let a := putDequant i mode src scl (gathered i g g1 s [i.o.a, i.o.c])
    dequantEff i g s = some (holdDatapath i.o.clocks (ungather i { a with g := a.g.orFlags (dequantFlags i mode src scl) } s)) := by
  dsimp only
  rw [← foldl_put_dequantResult, ← foldl_flags_dequantResult]
  unfold dequantEff
  dsimp only
  rw [gather_eq_gathered hg hports hr, gathered_imgs, zipIdx_regs_of_single hrows hcols, List.map_map]
  rfl

end

/-! ## The obligation -/

section
variable {h : Hdr} {f : Form} {g : Group} {s : State}

theorem opOf_vquant : opOf 0x71 h f s = groupIssue 0x71 h f quantEff s := rfl
theorem opOf_vdequant : opOf 0x72 h f s = groupIssue 0x72 h f dequantEff s := rfl

/-- `vquant` reads every register of A. -/
theorem readRegs_vquant {o : Opnd} (hopc : o.opc = 0x71) : readRegs o .a = (o.regs .a).map Prod.snd := by
  have hfile : o.file .a = .v := by
    rw [Opnd.file, hopc]
    exact if_neg (by rw [Bool.and_eq_true]; exact fun hb => absurd hb.2 (by decide))
  rw [readRegs, hfile]
  simp

/-- `vdequant` is a block of 1 by 1, whatever its words say (assumption 12). -/
theorem vdequant_single : (operands g 0x72 f).rows = 1 ∧ (operands g 0x72 f).cols = 1 := by
  rw [operands_eq (by decide)]
  cases f with
  | single => exact ⟨rfl, rfl⟩
  | multi m => cases m <;> exact ⟨rfl, rfl⟩

end

/-- Settles O29: each is one issue; `vquant` writes D and C, `vdequant` the registers of its one position. -/
theorem quantisedBlocks : Obligations.QuantisedBlocks := by
  unfold Obligations.QuantisedBlocks
  refine ⟨?vquant, ?vdequant⟩
  case vquant =>
    intro i h f g s hv hports hi
    dsimp only
    intro hne
    rw [Rules.images, readRegs_vquant (operands_opc g 0x71 f)]
    have heff := quantEff_eq (i := issueOf 0x71 h f g s) (begun_group g s) hports readVReg_begun hne
    exact exec_of_puts hv (by decide) opOf_vquant hi hports heff (puts_putQuant (issueOf 0x71 h f g s) _ _ hports)
  case vdequant =>
    intro i h f g s hv hports hi
    obtain ⟨hrows, hcols⟩ := vdequant_single (g := g) (f := f)
    have heff := dequantEff_eq (i := issueOf 0x72 h f g s) (begun_group g s) hports readVReg_begun hrows hcols
    exact exec_of_puts hv (by decide) opOf_vdequant hi hports heff (puts_putDequant (issueOf 0x72 h f g s) _ _ _ _ hports)

end Sys2Proof.Laws
end

section
/-!
SUPPORT. `stamp` and `stampw` (R101, R254, R255): one issue of each, a store with release and a watch on an element.
-/

namespace Sys2Proof.Laws

open Sys2Proof.Machine

theorem opOf_stamp (h : Hdr) (f : Form) (s : State) : opOf 0x93 h f s = opStamp h f s := rfl
theorem opOf_stampw (h : Hdr) (f : Form) (s : State) : opOf 0x94 h f s = opStampw h f s := rfl

section
variable {i : Instr} {h : Hdr} {f : Form} {g : Group} {s : State} {va : Nat}

/-- The one element of a `stamp` or `stampw`, which the lowest active lane accesses. -/
def stampReq (g : Group) (h : Hdr) (s : State) (va dst : Nat) (val : W128) : Req :=
  { lane := Rules.leadLane g h s, pos := 0, va, size := 8, dst, val }

/-- `stamp` of an element in bounds enters the store queue where there is room, behind the group's forks where `.all` is given. -/
theorem exec_stamp (hv : view i = some (0x93, h, f)) (hi : Issues 0x93 h f g s) (hslot : Rules.slotOk s)
    (hfree : Rules.memoryFree 0x93 h f g s) (hwalk : Rules.walksTaken g s)
    (helem : elemOf (issueOf 0x93 h f g s) g (memOffset (issueOf 0x93 h f g s) g) false true true = .ok (some va))
    (hroom : g.storeQ.length < 32) :
    let x := issueOf 0x93 h f g s
    let a : Access := { Rules.accessOf 0x93 f g .store (issuing x) s with
      rel := x.rel, forks := if x.o.opt = 1 then openForks (s.begun g) g else [] }
    let t := enqueueStore a [stampReq g h s va 0 ((g.readS s.cur.clock x.o.d).setWidth 128)] (Rules.begunId g s)
    exec i s = .next (issued g h s (t.updGroup s.cur.key fun y => { y with forks := openForks t y })) := by
  intro x
  have hnotfull : storeFull g = false := decide_eq_false (Nat.not_le.mpr hroom)
  have hheld : walkHeld (s.begun g) (x.k / 128) [va] = false := walkHeld_of_taken hslot hwalk [va]
  have hacc := newAccess_begun (opc := 0x93) (h := h) (f := f) (g := g) hslot .store (issuing x)
  refine exec_of_effect hv (by decide) (opOf_stamp h f s) hi ((memEff_of_free _ hfree).trans ?_)
  dsimp only
  rw [helem]
  dsimp only
  rw [hnotfull, hheld, Bool.or_false, if_neg Bool.false_ne_true, hacc]
  rfl

/-- `stampw` of an element of this node marks D and starts its access, an acquire of scope sys. -/
theorem exec_stampw (hv : view i = some (0x94, h, f)) (hi : Issues 0x94 h f g s) (hslot : Rules.slotOk s)
    (hfree : Rules.memoryFree 0x94 h f g s) (hwalk : Rules.walksTaken g s)
    (helem : elemOf (issueOf 0x94 h f g s) g 0 true false true = .ok (some va)) (hnode : nodeOf va = s.regs.nodeId) :
    let x := issueOf 0x94 h f g s
    exec i s = .next (issued g h s (Rules.startAccess
      { Rules.accessOf 0x94 f g (.stampw (w64 (memOffset x g)) (activeOf g h s) (g.lane (Rules.leadLane g h s)).trap) (issuing x) s with
        scalar := true, acq := some 6, typ := 7 }
      [stampReq g h s va x.o.d 0]
      ((Rules.begunId g s).updGroup s.cur.key fun g => g.mark s.nextId .s x.o.d (BitVec.allOnes 64)))) := by
  intro x
  let marked := (Rules.begunId g s).updGroup s.cur.key fun y => y.mark s.nextId .s x.o.d (BitVec.allOnes 64)
  let kind : AccKind := .stampw (w64 (memOffset x g)) (activeOf g h s) (g.lane (Rules.leadLane g h s)).trap
  have hpeer : peerBad (s.begun g) va = none := if_neg (not_not_intro hnode)
  have hheld : walkHeld (s.begun g) (x.k / 128) [va] = false := walkHeld_of_taken hslot hwalk [va]
  have htrap : g.trappedIn x.act = (g.lane (Rules.leadLane g h s)).trap := trappedIn_active hi
  have hpc : marked.cur.pc = s.cur.pc := by rw [updGroup_cur]; rfl
  have hacc : newAccess x g s.nextId kind (issuing x) marked = Rules.accessOf 0x94 f g kind (issuing x) s :=
    newAccess_of_pc hslot s.nextId kind (issuing x) hpc
  refine exec_of_effect hv (by decide) (opOf_stampw h f s) hi ((memEff_of_free _ hfree).trans ?_)
  dsimp only
  rw [helem]
  dsimp only
  rw [hpeer]
  dsimp only
  rw [hheld, if_neg Bool.false_ne_true, htrap]
  exact congrArg (fun a : Access => some (Rules.startAccess { a with scalar := true, acq := some 6, typ := 7 }
    [stampReq g h s va x.o.d 0] marked)) hacc

end

/-- Settles O23: `stamp` is one store with release, `stampw` one access that watches its element. -/
theorem stampResult : Obligations.StampResult := by
  unfold Obligations.StampResult
  intro i opc h f g s va hv hi hslot hfree hwalk
  dsimp only
  refine ⟨?stamp, ?stampw⟩
  case stamp =>
    rintro rfl helem hroom
    exact exec_stamp hv hi hslot hfree hwalk helem hroom
  case stampw =>
    rintro rfl helem hnode
    exact exec_stampw hv hi hslot hfree hwalk helem hnode

end Sys2Proof.Laws
end

section
/-!
SUPPORT. What a station takes: the requests of an access and the packets of a transfer (R92, R93, R96, R101, R248, R249, R328, R335).
-/

namespace Sys2Proof.Laws

open Sys2Proof.Machine

/-! ## Requests of an access -/

/-- The station of an address is that of its line (R328). -/
theorem stationOf_of_line {v w : Nat} (h : v / 128 = w / 128) : stationOf v = stationOf w := by
  have hbits (hi lo : Nat) : bitsOf v hi (lo + 7) = bitsOf w hi (lo + 7) := by
    rw [bitsOf, bitsOf, Nat.add_comm lo, Nat.shiftRight_add, Nat.shiftRight_add, Nat.shiftRight_eq_div_pow v, Nat.shiftRight_eq_div_pow w]
    rw [show 2 ^ 7 = 128 from rfl, h]
  rw [stationOf, stationOf, nodeOf, nodeOf, hbits 9 1, hbits 62 46]

@[simp] theorem sendLine_accs (core tenant line : Nat) (bs : List (Option Byte)) (s : State) :
    (sendLine core tenant line bs s).accs = s.accs := rfl

/-- Combining-buffer lines that leave are no accesses. -/
@[simp] theorem flushComb_accs (d : Nat) (p : CombLine → Bool) (s : State) : (flushComb d p s).accs = s.accs :=
  List.foldlRecOn (motive := fun t : State => t.accs = s.accs) _ _ rfl fun t ht l _ => (sendLine_accs l.core l.tenant l.line l.bytes t).trans ht

@[simp] theorem noteAhead_accs (a : Access) (loc : Nat) (s : State) : (noteAhead a loc s).accs = s.accs := by
  unfold noteAhead updAccGroup
  split
  · rfl
  split
  · exact updGroup_accs _ _ _
  · rfl

/-- Requests of an access to the line of an address have become a packet of its station; `t` is the state whose tables name its tenant. -/
def handedOver (a : Access) (va : Nat) (t : State) (sel : List Req) (k : RemoteKind) (fwd : Req → List (Option Byte)) (u : State) : State :=
  let p : Packet := { id := u.nextId, seq := u.nextId, doom := refusedAt u (stationOf va) (nodeOf va), node := nodeOf va, tc := 1,
                      count := kindCount k, podasid := podasid t a.tenant, tenant := a.tenant, kind := some k,
                      cargo := .piece a.id (sel.map fun q => (q.lane, q.pos)) va }
  { { u with nextId := u.nextId + 1 }.updStation (stationOf va) (fun y => { y with pkts := y.pkts ++ [p] }) with
    accs := putN u.accs a.id { a with reqs := a.reqs.map fun q => if sel.contains q then { q with sent := true, fwd := fwd q } else q } }

theorem markSent_enqueuePkt {id : Nat} {a : Access} {u : State} (ha : getN u.accs id = some a) (va : Nat) (t : State) (sel : List Req)
    (k : RemoteKind) (fwd : Req → List (Option Byte)) :
    markSent id sel fwd (enqueuePkt (stationOf va) (piecePkt t a sel va k) u) = handedOver a va t sel k fwd u := by
  have hsame : getN (enqueuePkt (stationOf va) (piecePkt t a sel va k) u).accs id = some a := ha
  rw [markSent, hsame]
  rfl

section
variable {id key : Nat} {a : Access} {r : Req} {rest : List Req} {s t : State} (hp : Rules.PieceReady id key a r rest s t)
include hp

/-- An access that is ready hands over a piece of a load, or one atomic that nothing of its group stands before. -/
theorem handPiece_of_ready :
    let line := r.va / 128
    let e := stationOf r.va
    let rs := r :: rest
    handPiece id key s = match atomicKind a r with
      | some k =>
        if !(ownStores t a).isEmpty || !(olderLoads t a.core a.slot a.id).isEmpty || aheadAt t a.core (remoteLoc line) then t
        else handedOver a r.va t [r] k (fun _ => []) (flushComb e (fun l => l.line = line) t)
      | none =>
        if a.kind = .refill then
          handedOver a r.va t rs (readKind rs) (fun _ => [])
            (flushComb e (fun l => l.core = a.core && l.line = line) (noteAhead a (remoteLoc line) t))
        else handedOver a r.va t rs (readKind rs) (fun q => ((ownRemote t a line).drop (q.va % 128)).take q.size)
          (noteAhead a (remoteLoc line) t) := by
  obtain ⟨hsettled, hhere, hawake, hreleased, hready, hone, horder, hwatched, hbehind⟩ := hp
  dsimp only
  rw [handPiece, hsettled]
  dsimp only
  rw [hhere]
  dsimp only
  generalize (readyReqs a key).filter (fun q => q.tr = .remote && !q.sent) = rs at hready hone
  cases rs with
  | nil => cases hready
  | cons q qs =>
    have hline : q.va / 128 = r.va / 128 := hone q List.mem_cons_self
    dsimp only
    rw [hline, stationOf_of_line hline, hawake, hreleased, horder, hwatched, hbehind, hready]
    have handed {u : State} (hu : u.accs = t.accs) := markSent_enqueuePkt (id := id) (a := a) (u := u) (hu ▸ hhere) r.va t
    rw [if_neg (by decide)]
    dsimp only
    cases atomicKind a r with
    | some k =>
      dsimp only
      rw [handed (flushComb_accs _ _ _)]
    | none =>
      dsimp only
      rw [handed ((flushComb_accs _ _ _).trans (noteAhead_accs _ _ _)), handed (noteAhead_accs _ _ _)]

/-- A piece of a load, with the bytes that its core still holds. -/
theorem handPiece_load (hload : atomicKind a r = none) (hkind : a.kind ≠ .refill) :
    handPiece id key s = handedOver a r.va t (r :: rest) (readKind (r :: rest))
      (fun q => ((ownRemote t a (r.va / 128)).drop (q.va % 128)).take q.size) (noteAhead a (remoteLoc (r.va / 128)) t) := by
  rw [handPiece_of_ready hp, hload]
  exact if_neg hkind

/-- A refill of the return stack, behind the combining-buffer line of its core. -/
theorem handPiece_refill (hload : atomicKind a r = none) (hkind : a.kind = .refill) :
    handPiece id key s = handedOver a r.va t (r :: rest) (readKind (r :: rest)) (fun _ => [])
      (flushComb (stationOf r.va) (fun l => l.core = a.core && l.line = r.va / 128) (noteAhead a (remoteLoc (r.va / 128)) t)) := by
  rw [handPiece_of_ready hp, hload]
  exact if_pos hkind

/-- One atomic, behind the combining-buffer lines of its line. -/
theorem handPiece_atomic {k : RemoteKind} (hatom : atomicKind a r = some k) (hstores : ownStores t a = [])
    (hloads : olderLoads t a.core a.slot a.id = []) (hahead : aheadAt t a.core (remoteLoc (r.va / 128)) = false) :
    handPiece id key s = handedOver a r.va t [r] k (fun _ => []) (flushComb (stationOf r.va) (fun l => l.line = r.va / 128) t) := by
  rw [handPiece_of_ready hp, hatom, hstores, hloads, hahead]
  rfl

end

/-! ## Packets of a transfer -/

/-- A transfer has gone on to an offset at a station. -/
def xferAt (o : Op) (y : Xfer) (d n : Nat) (u : State) : State :=
  { u with ops := putN u.ops o.id { o with kind := .xfer { y with next := setAt y.next d n } } }

/-- A packet of a transfer has joined its station's queue. -/
def partQueued (id : Nat) (o : Op) (y : Xfer) (d off n : Nat) (k : RemoteKind) (u : State) : State :=
  let p : Packet := { id := u.nextId, seq := u.nextId, doom := refusedAt u d y.node, node := y.node, tc := y.tc, count := kindCount k,
                      podasid := podasid u o.tenant, tenant := o.tenant, kind := some k, cargo := .part id off n }
  { xferAt o y d (off + n) u with nextId := u.nextId + 1 }.updStation d fun z => { z with pkts := z.pkts ++ [p] }

/-- A station takes the part of a transfer at an offset: a request to read, or the bytes to write, which may stop it or wait (R248,
R249, R411). -/
def takePart (id : Nat) (o : Op) (y : Xfer) (d off n : Nat) (s : State) : State :=
  let push (bs : List Byte) : RemoteKind := .push y.dcore y.dslot (y.doff + off) y.dctr bs
  if y.pull then partQueued id o y d off n (.read (w64 (y.va + off)) n) s
  else match y.core with
    | some c =>
      if scratchBad s o.blk c (y.off + off) n then stopXfer o y d 0x0d 0 (y.off + off) false (countError 0x0d s)
      else partQueued id o y d off n (push (scratchBytes s o.blk c (y.off + off) n)) s
    | none =>
      match readSource o 4 (y.va + off) n [] s with
      | (.ok bs, t) => partQueued id o y d off n (push bs) t
      | (.error (.bad c va _), t) => stopXfer o y d c 0 va false t
      | (.error (.wait va _), t) => agentWait o.die o.tenant va (o.demand va false) t
      | (.error _, t) => t

/-- A packet of a transfer waits in a station's queue. -/
def partWaits (s : State) (d id : Nat) : Bool :=
  (s.station d).pkts.any fun p => p.st = .queued && (match p.cargo with | .part i _ _ => i = id | _ => false)

section
variable {d id : Nat} {o : Op} {y : Xfer} {s : State} (ho : getN s.ops id = some o) (hkind : o.kind = .xfer y) (hready : o.ready = true)
  (hactive : opActive s o = true) (hsave : saving s o.tenant = false) (hgoes : y.stopped = false) (hnone : partWaits s d id = false)
include ho hkind hready hactive hsave hgoes hnone

/-- A station that holds no packet of a transfer takes its next one, or has none left. -/
theorem handXfer_of_ready :
    handXfer d id s = match y.seek d 5 (y.next.getD d 0) with
      | none => xferAt o y d y.len s
      | some (off, n) => takePart id o y d off n s := by
  have hheld : ¬(!o.ready || !opActive s o || saving s o.tenant || y.stopped || partWaits s d id) = true := by
    rw [hready, hactive, hsave, hgoes, hnone]
    decide
  rw [handXfer, ho]
  dsimp only
  rw [hkind]
  dsimp only
  rw [if_neg (by exact hheld)]
  rfl

theorem handXfer_of_none (hseek : y.seek d 5 (y.next.getD d 0) = none) : handXfer d id s = xferAt o y d y.len s := by
  rw [handXfer_of_ready ho hkind hready hactive hsave hgoes hnone, hseek]

theorem handXfer_of_part {off n : Nat} (hseek : y.seek d 5 (y.next.getD d 0) = some (off, n)) :
    handXfer d id s = takePart id o y d off n s := by
  rw [handXfer_of_ready ho hkind hready hactive hsave hgoes hnone, hseek]

end

section
variable {id d off n : Nat} {o : Op} {y : Xfer} {s : State}

/-- A pull asks its peer for the bytes. -/
theorem takePart_pull (hpull : y.pull = true) : takePart id o y d off n s = partQueued id o y d off n (.read (w64 (y.va + off)) n) s :=
  if_pos hpull

/-- A push out of a scratchpad. -/
theorem takePart_scratch {c : Nat} (hpush : y.pull = false) (hcore : y.core = some c) :
    takePart id o y d off n s =
      if scratchBad s o.blk c (y.off + off) n then stopXfer o y d 0x0d 0 (y.off + off) false (countError 0x0d s)
      else partQueued id o y d off n (.push y.dcore y.dslot (y.doff + off) y.dctr (scratchBytes s o.blk c (y.off + off) n)) s := by
  rw [takePart, hpush, if_neg Bool.false_ne_true, hcore]

/-- A push out of memory that can be read. -/
theorem takePart_memory {bs : List Byte} {t : State} (hpush : y.pull = false) (hcore : y.core = none)
    (hread : readSource o 4 (y.va + off) n [] s = (.ok bs, t)) :
    takePart id o y d off n s = partQueued id o y d off n (.push y.dcore y.dslot (y.doff + off) y.dctr bs) t := by
  rw [takePart, hpush, if_neg Bool.false_ne_true, hcore, hread]

end

end Sys2Proof.Laws
end

section
/-!
SUPPORT. What a station sends, what is answered to it, and its control register (R327, R329 to R333, R434 to R437).
-/

namespace Sys2Proof.Laws

open Sys2Proof.Machine

/-! ## Sending (R330 to R333) -/

/-- Where no request of a station is to end, none does. -/
theorem endDoomed_of_none {d : Nat} {s : State} (h : ∀ p, p ∈ (s.station d).pkts → p.doom = none) : endDoomed d s = s := by
  have hnil : ((s.station d).pkts.filter fun p => p.doom.isSome) = [] :=
    List.filter_eq_nil_iff.mpr fun p hp => by rw [h p hp]; exact Bool.false_ne_true
  rw [endDoomed, hnil, List.foldl_nil]

/-- One request that is to end does. -/
theorem endDoomed_of_one {d : Nat} {p : Packet} {s : State} (h : ((s.station d).pkts.filter fun p => p.doom.isSome) = [p]) :
    endDoomed d s = endRequest d p 9 (p.doom.getD 0x30) s := by
  rw [endDoomed, h]
  rfl

/-- The packet that R330 picks has left over the link, where the link is up. -/
def sendPicked (d : Nat) (s : State) : State :=
  let st := s.station d
  if !st.enabled || !st.up then s
  else match st.head 0 with
    | some p => launchPkt d p s
    | none => match st.pick 64 st.deficit st.drr with
      | some (p, ds, c) => launchPkt d p (s.updStation d fun y => { y with deficit := ds, drr := c })
      | none => s

section
variable {x : Input} {s : State} (hd : x.unit < 4)
include hd

theorem stationSend_piece (hword : x.word.toNat = 1) : stationSend x s = handPiece x.idx x.aux s := by
  rw [stationSend, if_neg (Nat.not_le.mpr hd), hword]
  rfl

theorem stationSend_xfer (hword : x.word.toNat = 2) : stationSend x s = handXfer x.unit x.idx s := by
  rw [stationSend, if_neg (Nat.not_le.mpr hd), hword]
  rfl

theorem stationSend_picked (hword : x.word.toNat = 0) : stationSend x s = sendPicked x.unit (endDoomed x.unit s) := by
  rw [stationSend, if_neg (Nat.not_le.mpr hd), hword]
  rfl

end

section
variable {d : Nat} {s : State}

/-- A station that is off, or whose link is down, sends nothing. -/
theorem sendPicked_shut (h : (s.station d).enabled = false ∨ (s.station d).up = false) : sendPicked d s = s := by
  refine if_pos ?_
  rw [Bool.or_eq_true, Bool.not_eq_true', Bool.not_eq_true']
  exact h

section
variable (hon : (s.station d).enabled = true) (hup : (s.station d).up = true)
include hon hup

/-- Over a link that is up TC0 goes first. -/
theorem sendPicked_head {p : Packet} (hp : (s.station d).head 0 = some p) : sendPicked d s = launchPkt d p s := by
  rw [sendPicked, hon, hup, hp]
  rfl

/-- Then the class whose turn it is. -/
theorem sendPicked_turn {p : Packet} {ds : List Nat} {c : Nat} (hnone : (s.station d).head 0 = none)
    (hp : (s.station d).pick 64 (s.station d).deficit (s.station d).drr = some (p, ds, c)) :
    sendPicked d s = launchPkt d p (s.updStation d fun y => { y with deficit := ds, drr := c }) := by
  rw [sendPicked, hon, hup, hnone, hp]
  rfl

end

end

/-! ## Custody (R329, R342) -/

section
variable {x : Input} {s : State}

/-- A hoist that its receiver has taken over a circuit. -/
theorem linkAck_circuit {y : HCopy} (hflag : x.flag = true) (hy : flightOf s (commKey x.unit x.idx) x.aux = some y) :
    linkAck x s = landFlight (commKey x.unit x.idx) x.aux s := by
  rw [linkAck, if_pos hflag, hy]
  rfl

/-- A packet that was sent is in custody; a response ends with it. -/
theorem linkAck_sent {p : Packet} (hflag : x.flag = false) (hp : pktOf s x.unit x.idx = some p) (hst : p.st = .replay) :
    linkAck x s = if p.reply then dropPkt x.unit p.id s
      else inCustody p (updPkt x.unit p.id (fun p => { p with st := .custody }) s) := by
  rw [linkAck, hflag, if_neg Bool.false_ne_true, hp]
  exact if_neg (not_not_intro hst)

/-! ## Responses and notices (R332, R434 to R436) -/

theorem remoteResponse_late (hp : pktOf s x.unit x.idx = none) : remoteResponse x s = heardFrom x.aux s := by
  rw [remoteResponse, hp]

/-- A response of the right length ends its request. -/
theorem remoteResponse_due {p : Packet} (hp : pktOf s x.unit x.idx = some p) (hst : p.st ≠ .queued) (hreply : p.reply = false)
    (hlen : x.data.length = ((p.kind.map answerSpan).getD (0, 0)).2) (hopen : answerOpen s p = true) :
    let u := heardFrom p.node s
    let v := if p.st = .replay then inCustody p u else u
    remoteResponse x s = answered p x.data (dropPkt x.unit p.id (moveWindow x.unit p v)) := by
  rw [remoteResponse, hp]
  refine if_neg ?_
  simp [hst, hreply, hlen, hopen]

theorem errorNotice_circuit {y : HCopy} (hflag : x.flag = true) (hy : flightOf s (commKey x.unit x.idx) x.word.toNat = some y) :
    errorNotice x s =
      hoistNotice x.unit x.idx y.h.seq y.step true (noticeCode x.aux) 0x30 (landFlight (commKey x.unit x.idx) y.id s) := by
  rw [errorNotice, if_pos hflag]
  dsimp only
  rw [hy]
  rfl

theorem errorNotice_late (hflag : x.flag = false) (hp : pktOf s x.unit x.idx = none) :
    errorNotice x s = if noticeCode x.aux = 9 then s else heardFrom x.word.toNat s := by
  rw [errorNotice, hflag, if_neg Bool.false_ne_true, hp]

/-- A notice ends its request. -/
theorem errorNotice_due {p : Packet} (hflag : x.flag = false) (hp : pktOf s x.unit x.idx = some p) (hst : p.st ≠ .queued)
    (hreply : p.reply = false) :
    let u := if noticeCode x.aux = 9 then s else heardFrom p.node s
    errorNotice x s = endRequest x.unit p x.aux 0x30 (if p.st = .replay then inCustody p u else u) := by
  rw [errorNotice, hflag, if_neg Bool.false_ne_true, hp]
  refine if_neg ?_
  rw [hreply, Bool.or_false, decide_eq_true_eq]
  exact hst

end

/-! ## STNCTL (R327, R332, R436) -/

section
variable {d : Nat} {v : W64} {s : State} (hd : d < 4)
include hd

/-- EN written with 0: the link goes down. -/
theorem stationWrite_off (hv : v.getLsbD 0 = false) :
    stationWrite d v s = s.updStation d fun y => { y with ctl := w64 (max 100 (fld v 31 16) * 2 ^ 16), up := false } := by
  rw [stationWrite, if_neg (Nat.not_le.mpr hd), hv]
  simp

section
variable (hv : v.getLsbD 0 = true) (hbooted : s.regs.booted = true) (hstat : s.regs.bootStat = 0)
include hv hbooted hstat

/-- EN written with 1 again: only RTTTGT changes. -/
theorem stationWrite_again (hon : (s.station d).enabled = true) :
    stationWrite d v s = s.updStation d fun y => { y with ctl := w64 (1 + max 100 (fld v 31 16) * 2 ^ 16) } := by
  rw [stationWrite, if_neg (Nat.not_le.mpr hd), hv, hbooted, hstat, hon]
  simp

/-- EN written from 0 to 1: windows and marks are fresh, and the last station of the four to be written so clears the lost nodes. -/
theorem stationWrite_rise (hoff : (s.station d).enabled = false) :
    let u := s.updStation d fun y =>
      { y with ctl := w64 (1 + max 100 (fld v 31 16) * 2 ^ 16), wins := [], renewed := true, downAt := none, dead := false }
    stationWrite d v s = if (List.range 4).all (fun e => (u.station e).renewed) = true then
        { u with lost := [], stations := u.stations.map fun y => (y.1, { y.2 with renewed := false }) }
      else u := by
  rw [stationWrite, if_neg (Nat.not_le.mpr hd), hv, hbooted, hstat, hoff]
  rfl

end

end

end Sys2Proof.Laws
end

section
/-!
SUPPORT. Requests of peers: how a station takes them into custody, and answers them (R7, R120, R326, R329, R335, R346, R353).
-/

namespace Sys2Proof.Laws

open Sys2Proof.Machine

/-- What may come by a station: anything but a slice, of 1 to 256 bytes. -/
theorem comesBy_station {r : RemoteRequest} (s : State) (d : Nat) (hkind : ∀ ps, r.kind ≠ .slice ps) :
    comesBy s none d r = (decide (d < 4) && decide (kindSize r.kind ≠ 0) && decide (kindSize r.kind ≤ 256)) := by
  obtain ⟨podasid, src, tag, kind, tc⟩ := r
  cases kind with
  | slice ps => exact absurd rfl (hkind ps)
  | _ => rfl

/-- What may come over a port: a slice of the port's peer, of up to 4 KiB, while the port is LIVE. -/
theorem comesBy_port {r : RemoteRequest} {ps : List (W64 × List (Option Byte))} (s : State) (p d : Nat) (hkind : r.kind = .slice ps) :
    comesBy s (some p) d r = (decide (p < 32) && decide ((portOf s p).st = 3) && decide ((portOf s p).peerNode = r.src) && !ps.isEmpty &&
      ps.all (fun q => !q.2.isEmpty) && decide (kindSize (.slice ps) ≤ 4096)) := by
  obtain ⟨podasid, src, tag, kind, tc⟩ := r
  obtain rfl : kind = .slice ps := hkind
  rfl

section
variable {x : Input} {r : RemoteRequest} {s : State} (hr : x.req = some r)
include hr

/-- A request that may come this way is taken by the station `d`, or refused where its tenant is not here. -/
theorem requestReceive_of_comes {port : Option Nat} {d : Nat} (hport : (if x.flag then some x.unit else none) = port)
    (hstation : (if x.flag then x.unit / 8 else x.unit) = d) (hcomes : comesBy s port x.unit r = true) :
    let u := heardFrom r.src s
    requestReceive x s = match tenantOf u r.podasid with
      | none => answerPeer d port r (.error 5) u
      | some t => u.updStation d fun y => { y with incoming := y.incoming ++ [{ req := r, tenant := t, port }] } := by
  rw [requestReceive, hr]
  dsimp only
  rw [hport, hstation, hcomes]
  rfl

/-- Every request but a slice comes by a station, of 1 to 256 bytes. -/
theorem requestReceive_station (hflag : x.flag = false) (hd : x.unit < 4) (hkind : ∀ ps, r.kind ≠ .slice ps)
    (hsome : 1 ≤ kindSize r.kind) (hsize : kindSize r.kind ≤ 256) :
    let u := heardFrom r.src s
    requestReceive x s = match tenantOf u r.podasid with
      | none => notify x.unit r.src r.tc r.tag 5 u
      | some t => u.updStation x.unit fun y => { y with incoming := y.incoming ++ [{ req := r, tenant := t, port := none }] } := by
  have hcomes : comesBy s none x.unit r = true := by
    rw [comesBy_station s x.unit hkind]
    simp [hd, hsize, Nat.one_le_iff_ne_zero.mp hsome]
  rw [requestReceive_of_comes hr (if_neg (Bool.eq_false_iff.mp hflag)) (if_neg (Bool.eq_false_iff.mp hflag)) hcomes]
  rfl

/-- A slice comes over a LIVE port from the port's peer, of up to 4 KiB. -/
theorem requestReceive_circuit {ps : List (W64 × List (Option Byte))} (hflag : x.flag = true) (hp : x.unit < 32) (hkind : r.kind = .slice ps)
    (hlive : (portOf s x.unit).st = 3) (hpeer : (portOf s x.unit).peerNode = r.src) (hsome : ps ≠ []) (hfull : ∀ p ∈ ps, p.2 ≠ [])
    (hsize : ps.foldl (fun n p => n + p.2.length) 0 ≤ 4096) :
    let u := heardFrom r.src s
    requestReceive x s = match tenantOf u r.podasid with
      | none => { u with net := u.net ++ [.notice r.src r.tag 5] }
      | some t => u.updStation (x.unit / 8) fun y =>
        { y with incoming := y.incoming ++ [{ req := r, tenant := t, port := some x.unit }] } := by
  have hcomes : comesBy s (some x.unit) x.unit r = true := by
    have hpieces : (ps.all fun q => !q.2.isEmpty) = true := List.all_eq_true.mpr fun q hq => by simp [hfull q hq]
    have hbytes : kindSize (.slice ps) ≤ 4096 := hsize
    rw [comesBy_port s x.unit x.unit hkind]
    simp [hp, hlive, hpeer, hsome, hpieces, hbytes]
  rw [requestReceive_of_comes hr (if_pos hflag) (if_pos hflag) hcomes]
  rfl

end

section
variable {x : Input} {r : Incoming} {s : State} (hreq : x.req = none) (hr : (s.station x.unit).incoming[x.idx]? = some r)
  (hfirst : ∀ q ∈ (s.station x.unit).incoming.take x.idx, r.meets q = false)
include hreq hr hfirst

/-- A request in custody that no earlier one of its peer stands before is served. -/
theorem requestReceive_of_first :
    let gone (t : State) : State := t.updStation x.unit fun y => { y with incoming := y.incoming.eraseIdx x.idx }
    requestReceive x s = match serve r s with
      | .answer bs t => answerPeer x.unit r.port r.req (.ok bs) (gone t)
      | .refuse n t => answerPeer x.unit r.port r.req (.error n) (gone t)
      | .wait (some (va, w)) _ => agentWait x.unit r.tenant va (servedDemand x.unit r va w) s
      | .wait none _ => s := by
  have hfree : (((s.station x.unit).incoming.take x.idx).any r.meets) = false :=
    List.any_eq_false.mpr fun q hq => Bool.eq_false_iff.mp (hfirst q hq)
  rw [requestReceive, hreq]
  dsimp only
  rw [hr]
  dsimp only
  rw [hfree]
  rfl

end

section
variable {d : Nat} {port : Option Nat} {r : RemoteRequest} {s : State}

/-- A request that came by a station is answered, or refused, by the station. -/
theorem answerPeer_station (hport : port = none) (x : Except Nat (List Byte)) :
    answerPeer d port r x s = match x with
      | .ok bs => respond d r.src r.tc r.tag bs s
      | .error n => notify d r.src r.tc r.tag n s := by
  obtain rfl := hport
  cases x <;> rfl

/-- One that came over a circuit is answered over its reverse direction (R346). -/
theorem answerPeer_circuit (hport : port ≠ none) (x : Except Nat (List Byte)) :
    answerPeer d port r x s = { s with net := s.net ++ [match x with
      | .ok bs => .response r.src r.tag bs
      | .error n => .notice r.src r.tag n] } := by
  obtain ⟨p, rfl⟩ := Option.ne_none_iff_exists'.mp hport
  cases x <;> rfl

end

end Sys2Proof.Laws
end

section
/-!
SUPPORT. Lost peers, windows that stay shut, and the link of a station (R436 to R438); the events of a station, clause by clause.
-/

namespace Sys2Proof.Laws

open Sys2Proof.Machine

/-! ## Lost peers and links (R436 to R438) -/

section
variable {d id : Nat} {s : State}

/-- A request that has had no answer for 2 ms loses its peer: a record, the end of every request to it, and fresh windows. -/
theorem peerLost_due {p : Packet} (hp : pktOf s d id = some p) (hst : p.st ≠ .queued) (hreply : p.reply = false)
    (hdue : p.sentAt + 2000000 ≤ (s.station d).clock) (hnew : p.node ∉ s.lost) :
    let t := postRec { cause := 0x35, src := 4, unit := d, addr := w64 p.node, devWide := true }
      { s with lost := insertNat p.node s.lost }
    let u := (List.range 4).foldl (fun s e => endAll e (fun q => q.node = p.node && !q.reply) 0x35 s) t
    peerLost d id s = { u with stations := u.stations.map fun y =>
      (y.1, { y.2 with wins := putN y.2.wins p.node { y.2.win p.node with w := 65536, acked := 0 }, renewed := false }) } := by
  rw [peerLost, hp]
  refine if_neg ?_
  simp [hst, hreply, hdue, hnew]

/-- A window that has been shut for 1 ms is reported once. -/
theorem windowStall_due {node : Nat} {p : Packet} (hp : p ∈ (s.station d).pkts) (hnode : p.node = node) (hdue : 1000000 ≤ p.waited)
    (hnew : ((s.station d).win node).posted = false) :
    windowStall d node s = postRec { cause := 0x31, src := 4, unit := d, addr := w64 node, devWide := true }
      (s.updStation d fun y => { y with wins := putN y.wins node { y.win node with posted := true } }) := by
  have hstuck : ((s.station d).pkts.any fun p => p.node = node && decide (1000000 ≤ p.waited)) = true :=
    List.any_eq_true.mpr ⟨p, hp, by simp [hnode, hdue]⟩
  rw [windowStall]
  dsimp only
  rw [hstuck, hnew]
  rfl

theorem linkDown_up (hup : (s.station d).up = true) :
    linkDown d s = s.updStation d fun y => { y with up := false, downAt := some y.clock } := if_pos hup

theorem linkTrained_down (hon : (s.station d).enabled = true) (hdown : (s.station d).up = false) :
    linkTrained d s = s.updStation d fun y => { y with up := true, downAt := none, dead := false } := by
  rw [linkTrained, hon, hdown]
  rfl

/-- A link that has not trained again for 1 ms is dead: a record, and the end of what it carried and of the requests that wait. -/
theorem retrainTimeout_due {t : Nat} (hat : (s.station d).downAt = some t) (hdown : (s.station d).up = false)
    (hlive : (s.station d).dead = false) (hdue : t + 1000000 ≤ (s.station d).clock) :
    retrainTimeout d s = endAll d (fun p => p.st = .replay || (p.st = .queued && !p.reply)) 0x30
      (postRec { cause := 0x35, src := 4, unit := d, addr := w64 (2 ^ 63 + d), devWide := true }
        (s.updStation d fun y => { y with dead := true })) := by
  rw [retrainTimeout, hat]
  dsimp only
  rw [hdown, hlive, decide_eq_false (Nat.not_lt.mpr hdue)]
  rfl

end

/-- A link's events: each is the rule of what stands before it. -/
theorem linkEvents : Rules.LinkEvents := by
  unfold Rules.LinkEvents
  intro s
  dsimp only
  refine ⟨?lost, ?stall, ?down, ?trained, ?timeout⟩
  case lost =>
    intro p hp hst hreply hdue hnew
    exact congrArg Host.Outcome.next (peerLost_due hp hst hreply hdue hnew)
  case stall =>
    intro p hp hnode hdue hnew
    exact congrArg Host.Outcome.next (windowStall_due hp hnode hdue hnew)
  case down => exact fun hup => congrArg Host.Outcome.next (linkDown_up hup)
  case trained => exact fun hon hdown => congrArg Host.Outcome.next (linkTrained_down hon hdown)
  case timeout =>
    intro t hat hdown hlive hdue
    exact congrArg Host.Outcome.next (retrainTimeout_due hat hdown hlive hdue)

/-! ## The events of a station -/

/-- A station's events: each is the rule of what the station holds and of what comes to it. -/
theorem stationEvents : Rules.StationEvents := by
  unfold Rules.StationEvents
  intro s
  dsimp only
  refine ⟨?piece, ?xfer, ?send, ?doomed, ?ackReply, ?ackRequest, ?ackCircuit, ?receive, ?serve, ?response, ?late, ?noticeCircuit,
    ?noticeLate, ?notice, ?off, ?again, ?rise⟩
  case piece =>
    intro a r rest t hd hword hp
    have hsend := stationSend_piece (s := s) hd hword
    refine ⟨fun hload hkind => ?_, fun hload hkind => ?_, fun k hatom hstores hloads hahead => ?_⟩
    · exact congrArg Host.Outcome.next (hsend.trans (handPiece_load hp hload hkind))
    · exact congrArg Host.Outcome.next (hsend.trans (handPiece_refill hp hload hkind))
    · exact congrArg Host.Outcome.next (hsend.trans (handPiece_atomic hp hatom hstores hloads hahead))
  case xfer =>
    intro o y hd hword ho hkind hready hactive hsave hgoes hnone
    have hsend := stationSend_xfer (s := s) hd hword
    refine ⟨fun hseek => ?none, fun off n hseek => ?part⟩
    case none =>
      exact congrArg Host.Outcome.next (hsend.trans (handXfer_of_none ho hkind hready hactive hsave hgoes hnone hseek))
    case part =>
      have htake := hsend.trans (handXfer_of_part ho hkind hready hactive hsave hgoes hnone hseek)
      refine ⟨fun hpull => ?_, fun c hpush hcore => ⟨fun hgood => ?_, fun hbad => ?_⟩, fun bs t hpush hcore hread => ?_⟩
      · exact congrArg Host.Outcome.next (htake.trans (takePart_pull hpull))
      · exact congrArg Host.Outcome.next (htake.trans ((takePart_scratch hpush hcore).trans (if_neg (Bool.eq_false_iff.mp hgood))))
      · exact congrArg Host.Outcome.next (htake.trans ((takePart_scratch hpush hcore).trans (if_pos hbad)))
      · exact congrArg Host.Outcome.next (htake.trans (takePart_memory hpush hcore hread))
  case send =>
    intro hd hword hsound hon hup
    have hsend : stationSend s.input s = sendPicked s.input.unit s :=
      (stationSend_picked hd hword).trans (congrArg _ (endDoomed_of_none hsound))
    exact ⟨fun p hp => congrArg Host.Outcome.next (hsend.trans (sendPicked_head hon hup hp)),
      fun p ds c hnone hpick => congrArg Host.Outcome.next (hsend.trans (sendPicked_turn hon hup hnone hpick))⟩
  case doomed =>
    intro p hd hword hone hshut
    have hsend : stationSend s.input s = sendPicked s.input.unit (endRequest s.input.unit p 9 (p.doom.getD 0x30) s) :=
      (stationSend_picked hd hword).trans (congrArg _ (endDoomed_of_one hone))
    exact congrArg Host.Outcome.next (hsend.trans (sendPicked_shut hshut))
  case ackReply =>
    intro p hflag hp hst hreply
    exact congrArg Host.Outcome.next ((linkAck_sent hflag hp hst).trans (if_pos hreply))
  case ackRequest =>
    intro p hflag hp hst hreply
    exact congrArg Host.Outcome.next ((linkAck_sent hflag hp hst).trans (if_neg (Bool.eq_false_iff.mp hreply)))
  case ackCircuit =>
    intro y hflag hy
    exact congrArg Host.Outcome.next (linkAck_circuit hflag hy)
  case receive =>
    intro r hr
    refine ⟨fun hflag hd hkind hsome hsize => ?_, fun ps hflag hd hkind hlive hpeer hsome hfull hsize => ?_⟩
    · have hcome := requestReceive_station (s := s) hr hflag hd hkind hsome hsize
      exact ⟨fun htenant => congrArg Host.Outcome.next (hcome.trans (by rw [htenant])),
        fun t htenant => congrArg Host.Outcome.next (hcome.trans (by rw [htenant]))⟩
    · have hcome := requestReceive_circuit (s := s) hr hflag hd hkind hlive hpeer hsome hfull hsize
      exact ⟨fun htenant => congrArg Host.Outcome.next (hcome.trans (by rw [htenant])),
        fun t htenant => congrArg Host.Outcome.next (hcome.trans (by rw [htenant]))⟩
  case serve =>
    intro r hreq hr hfirst
    have hserved := requestReceive_of_first hreq hr hfirst
    refine ⟨fun bs t hs => ?_, fun n t hs => ?_, fun va w t hs => ?_⟩
    all_goals rw [hs] at hserved
    · exact ⟨fun hport => congrArg Host.Outcome.next (hserved.trans (answerPeer_station hport (.ok bs))),
        fun hport => congrArg Host.Outcome.next (hserved.trans (answerPeer_circuit hport (.ok bs)))⟩
    · exact ⟨fun hport => congrArg Host.Outcome.next (hserved.trans (answerPeer_station hport (.error n))),
        fun hport => congrArg Host.Outcome.next (hserved.trans (answerPeer_circuit hport (.error n)))⟩
    · exact congrArg Host.Outcome.next hserved
  case response =>
    intro p hp hst hreply hlen hopen
    exact congrArg Host.Outcome.next (remoteResponse_due hp hst hreply hlen hopen)
  case late => exact fun hp => congrArg Host.Outcome.next (remoteResponse_late hp)
  case noticeCircuit =>
    intro y hflag hy
    exact congrArg Host.Outcome.next (errorNotice_circuit hflag hy)
  case noticeLate => exact fun hflag hp => congrArg Host.Outcome.next (errorNotice_late hflag hp)
  case notice =>
    intro p hflag hp hst hreply
    exact congrArg Host.Outcome.next (errorNotice_due hflag hp hst hreply)
  case off => exact fun hd hv => congrArg Host.Outcome.next (stationWrite_off hd hv)
  case again => exact fun hd hv hbooted hstat hon => congrArg Host.Outcome.next (stationWrite_again hd hv hbooted hstat hon)
  case rise => exact fun hd hv hbooted hstat hoff => congrArg Host.Outcome.next (stationWrite_rise hd hv hbooted hstat hoff)

/-- Settles O44: each event of a station and of its link is the rule of what stands there. -/
theorem stations : Obligations.Stations := ⟨stationEvents, linkEvents⟩

end Sys2Proof.Laws
end

section
/-!
SUPPORT. A group without its 64 lanes (R16), whose blocking `kpop` parks none.
-/

namespace Sys2Proof.Laws

open Sys2Proof.Machine

/-- A blocking `kpop` into s8 to s15. -/
def kpopWait : Instr := .kpop Rules.plainHdr (.ext (Rules.plainExt 8 0 0 0))

/-- The form of that `kpop`. -/
def kpopWaitForm : Form := .multi (.ext (Rules.plainExt 8 0 0 0))

/-- A group that lists no lanes, with a bundle of lane 0. -/
def lanelessGroup : Group := { lanes := [], bundles := [{ mask := 1 }] }

/-- That group's bundle issues, and a hold keeps its cluster's queue from ending (R274). -/
def lanelessState : State := { groups := [(0, lanelessGroup)], kcqs := [(0, { hold := 1 })], cur := { lanes := 1 } }

theorem issues_laneless : Issues 0xb2 Rules.plainHdr kpopWaitForm lanelessGroup lanelessState where
  seq := rfl
  here := rfl
  lanes := by decide
  words := by decide
  ready := by decide
  free := by decide
  early := rfl
  sound := by decide

theorem slotOk_laneless : Rules.slotOk lanelessState := by
  unfold Rules.slotOk
  decide

theorem memoryFree_laneless : Rules.memoryFree 0xb2 Rules.plainHdr kpopWaitForm lanelessGroup lanelessState := ⟨rfl, rfl⟩

/-- Parking changes lanes that the group lists alone (`Group.updLanes`), here none: lane 0 is a bundle again after its `kpop`. -/
theorem exec_kpopWait_bundles :
    ∃ t g, exec kpopWait lanelessState = .next t ∧ t.group 0 = some g ∧
      ∃ b ∈ g.bundles, b.mask &&& activeOf lanelessGroup Rules.plainHdr lanelessState ≠ 0 := by
  refine ⟨_, _, rfl, rfl, ?_⟩
  decide

/-- Refutes O24 at its fifth clause, a `kpop` that waits: the clause says that the lanes that park stand in no bundle, but not that the
group lists its 64 lanes, as `Obligations.Waiting` does for `bar` and `mwait`. A lane that the group does not list is not parked. -/
theorem not_keyedQueues : ¬ Obligations.KeyedQueues := by
  unfold Obligations.KeyedQueues
  intro h
  obtain ⟨-, -, -, -, hwait, -⟩ := h kpopWait 0xb2 Rules.plainHdr kpopWaitForm lanelessGroup lanelessState rfl issues_laneless
    slotOk_laneless fun _ => memoryFree_laneless
  obtain ⟨g', hexec, -, -, -, hapart, -⟩ := hwait rfl (by decide) (by decide)
  obtain ⟨t, g, hnext, hg, b, hb, hmask⟩ := exec_kpopWait_bundles
  obtain rfl := Host.Outcome.next.inj (hnext.symm.trans hexec)
  obtain rfl := Option.some.inj (hg.symm.trans (group_setGroup _ _ g'))
  exact hmask (hapart b hb)

end Sys2Proof.Laws
end

section
/-!
SUPPORT. COLL, COMM_CREATE, DESTROY and CIRC packets (R44, R337, R339, R342, R356, R439).
-/

namespace Sys2Proof.Laws

open Sys2Proof.Machine

/-! ## The rules of each kind -/

section

variable {p : Pkt} (t : State)

theorem startKind_coll (h : pkind p.v = 7) : startKind p t = startColl p t := by simp only [startKind, h]
theorem startKind_circ (h : pkind p.v = 9) : startKind p t = startCirc p t := by simp only [startKind, h]
theorem startKind_commCreate (h : pkind p.v = 8) (hd : pfld p.v 16 1 = 0) : startKind p t = startComm p t := by
  simp only [startKind, h, hd]
  rfl
theorem startKind_commDestroy (h : pkind p.v = 8) (hd : pfld p.v 16 1 = 1) : startKind p t = startDestroy p t := by
  simp only [startKind, h, hd]
  rfl

end

/-- A packet of KIND 8 is met by the event of its DESTROY bit, and starts as its kind's rules say. -/
theorem turns_of_meets_comm {i : Instr} {d : Nat} {p : Pkt} {s t u : State} (he : exec i s = .next (kindEvent 8 d s.input.unit s))
    (h : Rules.Meets 8 false p s t) (hd : pfld p.v 16 1 = d) (hu : startKind p t = u) : Rules.turns i s u := by
  refine turns_of_eq he ?_
  rw [kindEvent, h.held, if_neg Bool.false_ne_true, serveHead_of_picked h.turn h.head (by simp [h.kind, h.well, hd]),
    meetHead_of_meets h (by decide), hu]

/-- A communicator that exists is changed in its place. -/
theorem updComm_of {s : State} {k : Nat} {c : Comm} (f : Comm → Comm) (h : getN s.comms k = some c) :
    s.updComm k f = { s with comms := putN s.comms k (f c) } := by
  rw [State.updComm, h]

theorem startRun_eq (p : Pkt) (done : Bool) (t : State) : startRun p done t = (t.nextId, Rules.started p done t) := rfl

/-! ## COLL (R339, R342, R439) -/

/-- A COLL of a communicator that does not exist takes the ILLEGAL fate. -/
theorem startColl_of_unknown {p : Pkt} {t : State} (hk : getN t.comms (commKey p.tenant (pfld p.v 32 16)) = none) :
    startColl p t = packetBad p t := by
  unfold startColl
  dsimp only
  rw [hk]

/-- What a COLL notes of itself in its communicator (R339). -/
def collNoted (p : Pkt) (t : State) (c : Comm) : Coll :=
  let f := pfld p.v
  { seq := c.seq, queue := p.q, pos := t.nextId, addr := p.addr, orig := f 16 1 = 1, rop := f 24 4, wtype := f 48 5,
    nvisit := f 56 4, count := f 64 22, stype := f 120 5, src := f 128 64, dst := f 192 64, recAddr := f 256 64,
    digest := digestOf (f 64 22) (f 24 4) (f 48 5), first := ¬f 16 1 = 1 }

/-- The hoist that the origin of a COLL is to build (R340, R342). -/
def hoistToBuild (p : Pkt) (t : State) (c : Comm) : Hoist :=
  let q := collNoted p t c
  { tenant := p.tenant, satcnt := 0, count := q.count, digest := q.digest, seq := q.seq, comm := c.id, tc := pfld p.v 17 2,
    wtype := BitVec.ofNat 5 q.wtype, origin := t.regs.nodeId, pens := [], payload := [] }

/-- A COLL that passes its checks joins its communicator; at the origin of a step that has not failed a hoist is to be built. -/
theorem startColl_of_ok {p : Pkt} {t : State} {c : Comm} (hk : getN t.comms (commKey p.tenant (pfld p.v 32 16)) = some c)
    (hok : collBad t p.v = false) :
    startColl p t =
      let builds := pfld p.v 16 1 = 1 ∧ c.failed = false
      { Rules.started p false t with
        nextId := t.nextId + (if builds then 2 else 1)
        comms := putN t.comms (commKey p.tenant (pfld p.v 32 16)) { c with
          seq := (c.seq + 1) % 2 ^ 32
          colls := c.colls ++ [collNoted p t c]
          copies := if builds then c.copies ++ [{ id := t.nextId + 1, orig := true, x := [], st := .origin (pfld p.v 96 24),
                                                  h := hoistToBuild p t c, step := (p.q, p.addr) }]
            else c.copies } } := by
  have hk' : getN (Rules.started p false t).comms (commKey p.tenant (pfld p.v 32 16)) = some c := hk
  unfold startColl
  dsimp only
  rw [hk, hok]
  dsimp only
  rw [if_neg Bool.false_ne_true, startRun_eq, updComm_of _ hk']
  by_cases hbuilds : pfld p.v 16 1 = 1 ∧ c.failed = false
  · rw [if_pos (by simpa using hbuilds), addCopy]
    dsimp only [State.fresh]
    rw [updComm_of _ (getN_putN_same _ _ _)]
    simp only [putN_putN, if_pos hbuilds, ← decide_not]
    rfl
  · rw [if_neg (by simpa using hbuilds)]
    simp only [if_neg hbuilds, ← decide_not]
    rfl

/-! ## COMM_CREATE and DESTROY (R337) -/

/-- The communicator that a COMM_CREATE makes (R337). -/
def commCreated (p : Pkt) : Comm :=
  let f := pfld p.v
  { tenant := p.tenant, id := f 32 16, nroute := f 48 5, stage := f 64 64, rt := f 128 64, rtlen := f 192 24 }

/-- A COMM_CREATE whose fields are good and whose pages are mapped makes its communicator. -/
theorem startComm_of_ok {p : Pkt} {t u v : State} (hmin : 1 ≤ pfld p.v 48 5) (hmax : pfld p.v 48 5 ≤ 16)
    (hstage : pfld p.v 64 64 % 65536 = 0) (hrt : pfld p.v 128 64 % 64 = 0) (hlen : pfld p.v 192 24 ≠ 0) (hroom : t.comms.length < 256)
    (hnew : getN t.comms (commKey p.tenant (pfld p.v 32 16)) = none) (hstageHere : packetHere t (pfld p.v 64 64) = true)
    (hrtHere : packetHere t (pfld p.v 128 64) = true)
    (hstaging : pagesBad p.tenant .write true (pagesOf (pfld p.v 64 64) (pfld p.v 48 5 * 131072)) t = (none, u))
    (hroutes : pagesBad p.tenant .read false (pagesOf (pfld p.v 128 64) (64 * pfld p.v 192 24)) u = (none, v)) :
    startComm p t =
      Rules.started p true { v with comms := putN v.comms (commKey p.tenant (pfld p.v 32 16)) (commCreated p) } := by
  unfold startComm
  dsimp only
  rw [hnew, hstageHere, hrtHere, if_neg (by simp; omega), hstaging]
  dsimp only
  rw [hroutes]
  rfl

/-- A DESTROY of a communicator that has none fails it, and waits for its COLLs. -/
theorem startDestroy_of_live {p : Pkt} {t : State} {c : Comm} (hk : getN t.comms (commKey p.tenant (pfld p.v 32 16)) = some c)
    (hd : c.destroy = none) :
    startDestroy p t = (failComm (commKey p.tenant (pfld p.v 32 16)) (Rules.started p false t)).updComm
      (commKey p.tenant (pfld p.v 32 16)) fun c => { c with destroy := some (p.q, t.nextId) } := by
  unfold startDestroy
  dsimp only
  rw [hk]
  dsimp only
  rw [hd, startRun_eq]
  rfl

/-! ## CIRC (R356) -/

/-- The error is that of a granule of a script's memory. -/
def inScript (c : Nat) (x : Spot) : Bool := match x with | .script g => g / 8192 = c | _ => false

/-- The context in which a CIRC starts its script (R356). -/
def scriptBegun (p : Pkt) (c run clock : Nat) : ScriptCtx :=
  let f := pfld p.v
  { busy := true
    proc := { pc := f 128 32, sregs := setZ (setZ (setZ (setZ [] 0 (w64 c)) 1 (w64 (f 192 64))) 2 (w64 (f 256 64))) 3 (w64 (f 320 64)),
              readyAt := clock }
    tenant := p.tenant, queue := p.q, pos := run }

/-- A script starts: its context, its memory and the errors of that memory change. -/
theorem beginScript_eq (p : Pkt) (c run : Nat) (bs : List Byte) (t : State) :
    beginScript p c run bs t = { t with
      fabric := { t.fabric with
        mem := writeBytes (t.fabric.mem.filter fun x => x.1 / 65536 ≠ c) (65536 * c) bs
        ctxs := setAt t.fabric.ctxs c (scriptBegun p c run t.fabric.clock) }
      errs := t.errs.filter fun y => !inScript c y } := by
  rw [beginScript, clearErrs_eq]
  rfl

/-- A CIRC whose image is here and read starts its script in the first free context. -/
theorem startCirc_of_free {p : Pkt} {t u : State} {c : Nat} {bs : List Byte} (hal : pfld p.v 32 32 % 4 = 0)
    (hmax : pfld p.v 32 32 ≤ 65536) (himage : pfld p.v 64 64 % 128 = 0) (hpc : pfld p.v 128 32 % 4 = 0)
    (hin : pfld p.v 128 32 < pfld p.v 32 32) (hhere : packetHere t (pfld p.v 64 64) = true)
    (hfree : t.fabric.ctxs.findIdx? (fun c => !c.busy) = some c)
    (hread : readSpan p.tenant (pfld p.v 64 64) (pfld p.v 32 32) t = (.ok bs, u)) :
    startCirc p t = beginScript p c u.nextId bs (Rules.started p false u) := by
  unfold startCirc
  dsimp only
  rw [hhere, if_neg (by simp; omega), hfree]
  dsimp only
  rw [hread]
  rfl

/-! ## The obligations -/

/-- Settles O49: the COLL is met by its event, names no communicator and takes the ILLEGAL fate. -/
theorem unknownCommunicator : Obligations.UnknownCommunicator := by
  unfold Obligations.UnknownCommunicator
  intro p s t h hk
  have hkind : startKind p t = startColl p t := startKind_coll t h.kind
  exact turns_of_meets rfl h (by decide) (by decide) (hkind.trans ((startColl_of_unknown hk).trans (packetBad_eq p t)))

/-- Settles O32: each packet is met by its event, and starts by the rule of its kind. -/
theorem collectivePackets : Obligations.CollectivePackets := by
  unfold Obligations.CollectivePackets
  intro p s t f k
  refine ⟨?coll, ?create, ?destroy, ?circ⟩
  case coll =>
    intro h c hk hok u orig q hoist builds
    have hkind : startKind p t = startColl p t := startKind_coll t h.kind
    exact turns_of_meets rfl h (by decide) (by decide) (hkind.trans (startColl_of_ok hk hok))
  case create =>
    intro h hd hmin hmax hstage hrt hlen hroom hnew hstageHere hrtHere u v hstaging hroutes c
    have hkind : startKind p t = startComm p t := startKind_commCreate t h.kind hd
    exact turns_of_meets_comm rfl h hd (hkind.trans
      (startComm_of_ok hmin hmax hstage hrt hlen hroom hnew hstageHere hrtHere hstaging hroutes))
  case destroy =>
    intro h hd c hk hlive
    have hkind : startKind p t = startDestroy p t := startKind_commDestroy t h.kind hd
    exact turns_of_meets_comm rfl h hd (hkind.trans (startDestroy_of_live hk hlive))
  case circ =>
    intro h n hal _ hmax himage hpc hin hhere c bs u hfree hread regs x mem
    have hkind : startKind p t = startCirc p t := startKind_circ t h.kind
    have hstart := startCirc_of_free hal hmax himage hpc hin hhere hfree hread
    rw [beginScript_eq] at hstart
    exact turns_of_meets rfl h (by decide) (by decide) (hkind.trans hstart)

end Sys2Proof.Laws
end

section
/-!
SUPPORT. The states of a circuit port, messages of other nodes and limits of scripts (R329, R350, R351, R357, R442, R443): what each event
answers.
-/

namespace Sys2Proof.Laws

open Sys2Proof.Machine

/-! ## Messages of the OCS (R350, R351) -/

section
variable {w : W64} {s : State}

/-- CIRCUIT_MADE for a port that has asked for this circuit: it locks. -/
theorem circuitMade_of_asked (hdark : (portOf s (fld w 32 28)).st = 0) (hpend : (portOf s (fld w 32 28)).pend = true)
    (hkind : fld w 7 0 = 2) (hnode : fld w 27 18 = s.regs.nodeId) (hhandle : fld w 63 48 = (portOf s (fld w 32 28)).handle)
    (hpeer : fld w 47 38 = (portOf s (fld w 32 28)).peerNode) (hport : fld w 37 33 = (portOf s (fld w 32 28)).peerPort) :
    circuitMade w s =
      (heardFrom s.regs.ocsNode s).updPort (fld w 32 28) fun y => { y with st := 1, pend := false, since := s.fabric.clock } := by
  have hsame : portOf (heardFrom s.regs.ocsNode s) (fld w 32 28) = portOf s (fld w 32 28) := rfl
  have hself : (heardFrom s.regs.ocsNode s).regs.nodeId = s.regs.nodeId := rfl
  unfold circuitMade
  dsimp only
  rw [hsame, hself, if_pos (by simp [hdark, hpend, hkind, hnode, hhandle, hpeer, hport])]
  rfl

/-- CIRCUIT_BROKEN for a port that is not DARK: it fails. -/
theorem circuitBroken_of_lit (hlit : (portOf s (fld w 32 28)).st ≠ 0) (hkind : fld w 7 0 = 3) (hnode : fld w 27 18 = s.regs.nodeId) :
    circuitBroken w s = failPort (fld w 32 28) 2 0x34 false (heardFrom s.regs.ocsNode s) := by
  have hsame : portOf (heardFrom s.regs.ocsNode s) (fld w 32 28) = portOf s (fld w 32 28) := rfl
  have hself : (heardFrom s.regs.ocsNode s).regs.nodeId = s.regs.nodeId := rfl
  unfold circuitBroken
  dsimp only
  rw [hsame, hself, if_neg (by simp [hlit, hkind, hnode])]

end

/-! ## States of a port (R350, R357, R442, R443) -/

section
variable {n : Nat} {s : State}

theorem portTrained_of_timely (hst : (portOf s n).st = 1) (htime : s.fabric.clock ≤ (portOf s n).since + 40000) :
    portTrained n s = s.updPort n fun y => { y with st := 2, since := s.fabric.clock } :=
  if_pos (by simp [hst, htime])

theorem lockTimeout_of_late (hst : (portOf s n).st = 1) (htime : (portOf s n).since + 40000 < s.fabric.clock) :
    lockTimeout n s = failPort n 1 0x33 true s :=
  if_pos (by simp [hst, htime])

/-- The handshake decides a port that has trained: LIVE where its peer is the one expected. -/
theorem handshake_of_trained (hst : (portOf s n).st = 2) (node port : Nat) :
    handshake n node port s = if (portOf s n).peerNode = node ∧ (portOf s n).peerPort = port then
        s.updPort n fun y => { y with st := 3, since := s.fabric.clock }
      else failPort n 3 0x34 true s := by
  unfold handshake
  dsimp only
  rw [if_neg (not_not_intro hst)]
  simp only [Bool.and_eq_true, decide_eq_true_eq]

theorem lossOfLock_of_locked (hst : (portOf s n).st = 2 ∨ (portOf s n).st = 3) : lossOfLock n s = failPort n 2 0x34 true s :=
  if_pos (by simpa using hst)

/-- A drain is done when the port carries nothing: RELEASE, and DARK. -/
theorem drainDone_of_empty (hst : (portOf s n).st = 3) (hdrain : (portOf s n).draining = true) (hempty : portCarries s n = false) :
    drainDone n s = tellOcs 1 n (fld (portOf s n).optown 3 0) (darken n 0 s) :=
  if_pos (by simp [hst, hdrain, hempty])

end

/-! ## Messages of other nodes (R329, R357) -/

section
variable {x : Input} {m : Emsg} {s : State}

/-- A message in custody is refused where its tenant is not here. -/
theorem emsgTake_of_stranger (ht : tenantOf s x.aux = none) :
    emsgTake x m s = some (notify x.unit m.src 0 x.idx 5 (heardFrom m.src s)) := by
  rw [emsgTake, ht]

/-- A message in custody enters a queue that has room. -/
theorem emsgTake_of_room {t : Nat} (ht : tenantOf s x.aux = some t) (hroom : s.fabric.recvq.length < 64) :
    emsgTake x m s =
      let v := respond x.unit m.src 0 x.idx [] (heardFrom m.src s)
      some { v with fabric := { v.fabric with recvq := v.fabric.recvq ++ [(t, m)] } } := by
  rw [emsgTake, ht]
  exact if_neg (Nat.not_le.mpr hroom)

/-- A message in custody waits while the queue is full. -/
theorem emsgTake_of_full {t : Nat} (ht : tenantOf s x.aux = some t) (hfull : 64 ≤ s.fabric.recvq.length) : emsgTake x m s = none := by
  rw [emsgTake, ht]
  exact if_pos hfull

variable (hm : x.msg = some m)
include hm

/-- A message that is the first of those in custody is performed, or held. -/
theorem emsgReceive_of_first (hfirst : s.custody.any (fun y => y.msg.isSome) = false) :
    emsgReceive x s = (emsgTake x m s).getD { heardFrom m.src s with custody := s.custody ++ [x] } := by
  rw [emsgReceive, hm]
  dsimp only
  rw [hfirst]
  rfl

/-- A message behind another in custody is held. -/
theorem emsgReceive_of_behind (hbehind : s.custody.any (fun y => y.msg.isSome) ≠ false) :
    emsgReceive x s = { heardFrom m.src s with custody := s.custody ++ [x] } := by
  rw [emsgReceive, hm]
  exact if_pos ((Bool.not_eq_false _).mp hbehind)

end

/-- The limit of a script's wait passes (R357). -/
theorem scriptTimeout_of_late {k t limit : Nat} {b : Bool} {s : State} (hwait : (s.script k).waitSince = some (t, limit, b))
    (hlimit : limit ≠ 0) (hlate : t + limit ≤ s.fabric.clock) :
    scriptTimeout k s = s.updScript k fun c => { c with timedOut := true } := by
  rw [scriptTimeout, hwait]
  exact if_neg (by simp [hlimit, hlate])

/-- Settles O46: each event of a port, of a message and of a script's wait is the rule of what stands there. -/
theorem circuitEvents : Obligations.CircuitEvents := by
  unfold Obligations.CircuitEvents
  intro s x goes now
  refine ⟨⟨?made, ?broken⟩, ⟨?trained, ?late, ?live, ?stranger, ?loss, ?drain⟩, ?message, ?limit⟩
  case made =>
    intro hdark hpend hkind hnode hhandle hpeer hport
    exact congrArg _ (circuitMade_of_asked hdark hpend hkind hnode hhandle hpeer hport)
  case broken =>
    intro hlit hkind hnode
    exact congrArg _ (circuitBroken_of_lit hlit hkind hnode)
  case trained =>
    intro hst htime
    exact congrArg _ (portTrained_of_timely hst htime)
  case late =>
    intro hst htime
    exact congrArg _ (lockTimeout_of_late hst htime)
  case live =>
    intro hst hnode hport
    exact congrArg _ ((handshake_of_trained hst _ _).trans (if_pos ⟨hnode, hport⟩))
  case stranger =>
    intro hst hother
    exact congrArg _ ((handshake_of_trained hst _ _).trans (if_neg hother))
  case loss =>
    intro hst
    exact congrArg _ (lossOfLock_of_locked hst)
  case drain =>
    intro hst hdrain hempty
    exact congrArg _ (drainDone_of_empty hst hdrain hempty)
  case message =>
    intro m hm u first
    refine ⟨fun hfirst ht => ?_, fun hfirst t ht hroom => ?_, fun hfirst t ht hfull => ?_, fun hbehind => ?_⟩
    · exact congrArg _ ((emsgReceive_of_first hm hfirst).trans (by rw [emsgTake_of_stranger ht]; rfl))
    · exact congrArg _ ((emsgReceive_of_first hm hfirst).trans (by rw [emsgTake_of_room ht hroom]; rfl))
    · exact congrArg _ ((emsgReceive_of_first hm hfirst).trans (by rw [emsgTake_of_full ht hfull]; rfl))
    · exact congrArg _ (emsgReceive_of_behind hm hbehind)
  case limit =>
    intro t limit b hwait hlimit hlate
    exact congrArg _ (scriptTimeout_of_late hwait hlimit hlate)

end Sys2Proof.Laws
end

section
/-!
SUPPORT. Who acts: lines that come and go, walks and writes at L2 leave the cursor and the contexts of the handlers (R71, R115, R117,
R303 to R305).
-/

namespace Sys2Proof.Laws

open Sys2Proof.Machine

/-- The same context of the same sequencer acts, and the contexts of the handlers are as they were. -/
structure SameActors (t s : State) : Prop where
  cur : t.cur = s.cur
  ctxs : ∀ n, (t.slice n).ctxs = (s.slice n).ctxs

theorem SameActors.refl (s : State) : SameActors s s := ⟨rfl, fun _ => rfl⟩

theorem SameActors.trans {u t s : State} (hut : SameActors u t) (hts : SameActors t s) : SameActors u s :=
  ⟨hut.cur.trans hts.cur, fun n => (hut.ctxs n).trans (hts.ctxs n)⟩

theorem SameActors.of_eq {t s : State} (hcur : t.cur = s.cur) (hslices : t.slices = s.slices) : SameActors t s :=
  ⟨hcur, fun n => by rw [State.slice, State.slice, hslices]⟩

/-- A change of other parts of the state. -/
theorem SameActors.then_eq {u t s : State} (h : SameActors t s) (hcur : u.cur = t.cur) (hslices : u.slices = t.slices) :
    SameActors u s :=
  (SameActors.of_eq hcur hslices).trans h

theorem SameActors.foldl {α : Type} {f : State → α → State} (hf : ∀ t x, SameActors (f t x) t) (l : List α) (s : State) :
    SameActors (l.foldl f s) s := by
  induction l generalizing s with
  | nil => exact .refl s
  | cons x xs ih => exact (ih _).trans (hf s x)

/-- The invocation that acts is as it was. -/
theorem SameActors.curCtx {t s : State} (h : SameActors t s) : curCtx t = curCtx s := by
  rw [Machine.curCtx, Machine.curCtx, Slice.ctx, Slice.ctx, h.cur, h.ctxs]

/-- A slice changes in other things than its contexts. -/
theorem sameActors_updSlice {n : Nat} {f : Slice → Slice} {s : State} (hf : ∀ x, (f x).ctxs = x.ctxs) :
    SameActors (s.updSlice n f) s := by
  refine ⟨rfl, fun m => ?_⟩
  by_cases hm : n = m
  · subst hm
    simp [State.updSlice, State.slice, hf]
  · simp [State.updSlice, State.slice, getN_putN_ne _ _ _ _ hm]

theorem sameActors_postEvent (n : Nat) (e : SliceEvent) (s : State) : SameActors (postEvent n e s).2 s := by
  unfold postEvent
  dsimp only
  split
  · split
    · show SameActors (s.updSlice n fun x => { x with holdBuf := x.holdBuf ++ [e] }) s
      exact sameActors_updSlice fun _ => rfl
    · exact .refl s
  split
  · exact .refl s
  split
  · show SameActors (s.updSlice n fun x => { x with queue := x.queue ++ [e] }) s
    exact sameActors_updSlice fun _ => rfl
  · exact .refl s

theorem sameActors_evictL2 (pline : Nat) (s : State) : SameActors (evictL2 pline s) s := by
  unfold evictL2
  split
  · exact .refl s
  split
  · exact .refl s
  dsimp only
  split
  · exact .of_eq rfl rfl
  · exact (sameActors_postEvent _ _ _).trans (.of_eq rfl rfl)

theorem sameActors_useL2 (pline : Nat) (nt : Bool) (s : State) : SameActors (useL2 pline nt s) s := by
  unfold useL2
  split
  · exact .refl s
  split
  · exact .of_eq rfl rfl
  · exact .refl s

theorem sameActors_installL2 (pline : Nat) (tag : Option (Nat × Nat)) (filling nt : Bool) (s : State) :
    SameActors (installL2 pline tag filling nt s) s := by
  have hroom : SameActors (l2Room pline s) s := by
    unfold l2Room
    split
    · split
      · exact sameActors_evictL2 _ s
      · exact .refl s
    · exact .refl s
  unfold installL2
  exact (sameActors_useL2 _ _ _).trans (hroom.then_eq rfl rfl)

theorem sameActors_touchL2 (pline : Nat) (s : State) (nt : Bool := false) : SameActors (touchL2 pline s nt) s := by
  unfold touchL2
  split
  · exact sameActors_useL2 _ _ s
  split
  · exact .refl s
  · exact sameActors_installL2 _ _ _ _ s

theorem sameActors_performBytes (pa : Nat) (bs : List Byte) (core : Option Nat) (hc : Bool) (s : State) :
    SameActors (performBytes pa bs core hc s) s := by
  unfold performBytes performWrite
  split
  · exact .refl s
  cases hc <;> exact .of_eq rfl rfl

theorem sameActors_countError (cause : Nat) (s : State) : SameActors (countError cause s) s := by
  unfold countError
  split
  · exact .of_eq rfl rfl
  · exact .refl s

theorem sameActors_noteWalk (d tenant va : Nat) (s : State) : SameActors (noteWalk d tenant va s) s := by
  unfold noteWalk
  exact (SameActors.foldl (fun t p => sameActors_touchL2 p t) _ s).then_eq rfl rfl

theorem sameActors_setAD (x : Xlat) (write : Bool) (s : State) : SameActors (setAD x write s).2 s := by
  unfold setAD
  extract_lets p
  split
  · exact .refl s
  · exact (sameActors_touchL2 _ _).trans (sameActors_performBytes _ _ _ _ s)

/-- A walk leaves who acts, whatever it answers. -/
theorem sameActors_walkNow (s : State) (tenant va : Nat) (core : Option Nat) (want : Want) :
    SameActors (walkNow s tenant va core want).2 s := by
  have hnote (d : Nat) : SameActors (noteWalk d tenant va s) s := sameActors_noteWalk d tenant va s
  unfold walkNow
  extract_lets d
  split
  · exact .refl s
  split
  · exact .refl s
  split
  · exact (sameActors_countError _ _).trans (hnote _)
  · exact hnote _
  split
  · exact hnote _
  split
  · exact (sameActors_setAD _ _ _).trans (hnote _)
  · exact (hnote _).then_eq rfl rfl
  · exact (hnote _).then_eq rfl rfl
  · exact hnote _

/-- What a handler's walk leaves behind is no other invocation (R312). -/
theorem sameActors_handlerWalked (n tenant va : Nat) (s : State) : SameActors (handlerWalked n tenant va s) s := by
  have hnote : SameActors (noteWalk (n / 16) tenant va s) s := sameActors_noteWalk _ tenant va s
  unfold handlerWalked
  split
  · exact .refl s
  dsimp only
  split
  · split
    · exact hnote.then_eq rfl rfl
    · exact hnote
  · exact hnote

/-- An element of a script leaves who acts, whatever becomes of it (R359). -/
theorem sameActors_scriptElem (s : State) (va : W64) (want : Want) : SameActors (scriptElem s va want).2 s := by
  have hwalk := sameActors_walkNow s (curTenant s) va.toNat none want
  unfold scriptElem
  dsimp only
  split
  · exact .refl s
  split
  · exact .refl s
  split
  · exact .refl s
  generalize walkNow s (curTenant s) va.toNat none want = r at hwalk ⊢
  obtain ⟨tr, t⟩ := r
  cases tr with
  | found x =>
    dsimp only
    split <;> exact hwalk
  | bad c => cases c <;> exact hwalk
  | _ => exact hwalk

end Sys2Proof.Laws
end

section
/-!
SUPPORT. Instructions of fabric scripts (R347, R348, R357, R359): one issue of each.
-/

namespace Sys2Proof.Laws

open Sys2Proof.Machine

theorem opOf_creq (h : Hdr) (f : Form) (s : State) : opOf 0xd0 h f s = opCreq h f s := rfl
theorem opOf_cbar (h : Hdr) (f : Form) (s : State) : opOf 0xd2 h f s = opCbar h f s := rfl
theorem opOf_crel (h : Hdr) (f : Form) (s : State) : opOf 0xd3 h f s = opCrel h f s := rfl
theorem opOf_cstat (h : Hdr) (f : Form) (s : State) : opOf 0xd4 h f s = opCstat h f s := rfl
theorem opOf_emsg (h : Hdr) (f : Form) (s : State) : opOf 0xd5 h f s = opEmsg h f s := rfl
theorem opOf_erecv (h : Hdr) (f : Form) (s : State) : opOf 0xd6 h f s = opErecv h f s := rfl
theorem opOf_ctime (h : Hdr) (f : Form) (s : State) : opOf 0xd7 h f s = opCtime h f s := rfl
theorem opOf_cstamp (h : Hdr) (f : Form) (s : State) : opOf 0xd8 h f s = opCstamp h f s := rfl

/-! ## Effects of a context -/

/-- The offset b of the slice and circuit classes (R315, R357). -/
theorem procB_eq_contextB {o : Opnd} {p : Proc} (hclass : classOf o.opc = .slice ∨ classOf o.opc = .circuit) :
    procB o p = Rules.contextB o p := by
  unfold procB Rules.contextB
  rcases hclass with hclass | hclass <;> rw [hclass] <;> cases o.bm <;> rfl

section
variable {i : Instr} {opc : Nat} {h : Hdr} {f : Form} {s : State} {eff : Opnd → Proc → State → PRes}

/-- An instruction of a context that passes its checks and writes D. -/
theorem exec_answers {d : Nat} {x : W64} {t : State} (hv : view i = some (opc, h, f)) (hne : opc ≠ 0xd1)
    (hop : opOf opc h f s = procIssue opc h f eff s) (hr : Runs opc h f s)
    (he : eff (opndOf opc f) (begunProc s) s = .done ((begunProc s).put d x) t) :
    exec i s = .next (procRetire (Rules.wrote s d x) h t) :=
  exec_of_done hv hne hop hr he

/-- An instruction of a context after which the context is no more. -/
theorem exec_of_over {t : State} (hv : view i = some (opc, h, f)) (hne : opc ≠ 0xd1)
    (hop : opOf opc h f s = procIssue opc h f eff s) (hr : Runs opc h f s) (he : eff (opndOf opc f) (begunProc s) s = .over t) :
    exec i s = .next t := by
  rw [exec_of_view s hv hne, hop, procIssue_of_runs eff hr, he]

/-- An issue of a context that retires. -/
theorem procIssue_of_done {p : Proc} {t : State} (hr : Runs opc h f s) (he : eff (opndOf opc f) (begunProc s) s = .done p t) :
    procIssue opc h f eff s = procRetire p h t := by
  rw [procIssue_of_runs eff hr, he]

end

/-! ## Ports and barriers -/

section
variable {i : Instr} {h : Hdr} {f : Form} {s : State}

/-- `creq` asks for the circuit of a port that is idle and the tenant's, and answers 3 for any other. -/
theorem exec_creq (hv : view i = some (0xd0, h, f)) (hr : Runs 0xd0 h f s) :
    let o := opndOf 0xd0 f
    let w := (curProc s).get o.a
    let n := fld w 32 28
    let asked := tellOcs 0 n (curTenant s) (s.updPort n fun x => { x with
      pend := true, handle := fld w 63 48, peerNode := fld w 47 38, peerPort := fld w 37 33, ctx := s.cur.sub })
    fld w 27 0 = 0 →
      exec i s = .next (if (portOf s n).idle = true ∧ (portOf s n).owner = some (curTenant s) then
          procRetire (Rules.wrote s o.d 0) h asked
        else procRetire (Rules.wrote s o.d 3) h s) := by
  intro o w n asked hzero
  have hw : (begunProc s).get (opndOf 0xd0 f).a = w := rfl
  split_ifs with hmine
  all_goals
    refine exec_answers hv (by decide) (opOf_creq h f s) hr ?_
    dsimp only
    rw [hw, if_neg (not_not_intro hzero)]
  · exact if_pos (by simpa using hmine)
  · exact if_neg (by simpa using hmine)

/-- `cbar` binds a barrier of the tenant, or a free one, that no copy uses; with no port it frees it. -/
theorem exec_cbar (hv : view i = some (0xd2, h, f)) (hr : Runs 0xd2 h f s) :
    let o := opndOf 0xd2 f
    let w := (curProc s).get o.a
    let m := ((curProc s).get (o.a + 1)).toNat % 2 ^ 32
    let b := fld w 5 0
    let bars := if m = 0 then delN s.fabric.bars b
      else putN s.fabric.bars b { tenant := curTenant s, peerNode := fld w 25 16, mask := m }
    foreign s m = false → ((barrierOf s b).mask = 0 ∨ (barrierOf s b).tenant = curTenant s) → barBusy s b = false →
      exec i s = .next (procRetire (Rules.wrote s o.d 0) h { s with fabric := { s.fabric with bars } }) := by
  intro o w m b bars hours hfree hidle
  have hw : (begunProc s).get (opndOf 0xd2 f).a = w := rfl
  have hm : ((begunProc s).get ((opndOf 0xd2 f).a + 1)).toNat % 2 ^ 32 = m := rfl
  refine exec_answers hv (by decide) (opOf_cbar h f s) hr ?_
  dsimp only
  rw [hw, hm, hours, hidle, if_neg (by simpa [or_iff_not_imp_left] using hfree)]

/-- `crel` of ports of the tenant releases each. -/
theorem exec_crel (hv : view i = some (0xd3, h, f)) (hr : Runs 0xd3 h f s) :
    let o := opndOf 0xd3 f
    let m := ((curProc s).get o.a).toNat % 2 ^ 32
    foreign s m = false → exec i s = .next (procRetire (Rules.wrote s o.d 0) h ((portsOf m).foldl crelPort s)) := by
  intro o m hours
  exact exec_answers hv (by decide) (opOf_crel h f s) hr (if_neg (Bool.eq_false_iff.mp hours))

/-! ## Messages -/

/-- `emsg` to another node queues a packet at the node's station. -/
theorem exec_emsg (hv : view i = some (0xd5, h, f)) (hr : Runs 0xd5 h f s) :
    let o := opndOf 0xd5 f
    let p := curProc s
    let w := p.get o.a
    let node := fld w 9 0
    let pkt : Packet :=
      { id := 0, node, tc := 0, count := 64, podasid := podasid s (curTenant s), tenant := curTenant s,
        cargo := .emsg s.cur.sub { src := s.regs.nodeId, tag := fld w 31 16, p0 := p.get o.c, p1 := p.get (o.c + 1) } }
    node ≠ s.regs.nodeId → exec i s = .next (procRetire (Rules.wrote s o.d 0) h (enqueuePkt (node % 4) pkt s)) := by
  intro o p w node pkt hother
  exact exec_answers hv (by decide) (opOf_emsg h f s) hr (if_neg hother)

/-- `erecv` takes the tenant's first message, where it is sound and no context of the tenant has waited longer. -/
theorem exec_erecv (hv : view i = some (0xd6, h, f)) (hr : Runs 0xd6 h f s) {k : Nat} {x : Emsg}
    (hfind : s.fabric.recvq.findIdx? (fun m => m.1 = curTenant s) = some k) (hmsg : s.fabric.recvq[k]? = some (curTenant s, x))
    (hfirst : recvBehind s = false) (hsound : k ∉ s.fabric.recvBad) :
    let o := opndOf 0xd6 f
    let bad := (s.fabric.recvBad.filter (· ≠ k)).map fun j => if k < j then j - 1 else j
    exec i s = .next (procRetire { Rules.movedOn s with
        sregs := setZ (setZ (setZ (curProc s).sregs o.d x.p0) (o.d + 1) x.p1) (o.d + 2) (w64 (x.src + 2 ^ 16 * x.tag)) } h
      { s with fabric := { s.fabric with recvq := s.fabric.recvq.eraseIdx k, recvBad := bad } }) := by
  refine exec_of_done hv (by decide) (opOf_erecv h f s) hr ?_
  have hx (d : Nat × Emsg) : s.fabric.recvq.getD k d = (curTenant s, x) := by rw [List.getD_eq_getElem?_getD, hmsg]; rfl
  dsimp only
  rw [hfind]
  dsimp only
  rw [hfirst, hx, if_neg Bool.false_ne_true, if_neg (by simpa using hsound)]
  rfl

/-! ## Elements of memory -/

/-- `cstamp` of an element that its script may write: the 8 bytes are in place. -/
def stamped (s : State) (o : Opnd) (pa : Nat) (hc : Bool) (t : State) : State :=
  touchL2 (pa / 128) (performBytes pa (toBytes 8 ((curProc s).get o.d).toNat) none hc t)

/-- `cstamp` writes its 8 bytes, and with `.end` ends its script. -/
theorem exec_cstamp (hv : view i = some (0xd8, h, f)) (hr : Runs 0xd8 h f s) {pa : Nat} {hc : Bool} {t : State}
    (helem : scriptElem s ((curProc s).get (opndOf 0xd8 f).a + Rules.contextB (opndOf 0xd8 f) (curProc s)) .write = (.ok (pa, hc), t)) :
    let u := stamped s (opndOf 0xd8 f) pa hc t
    exec i s = .next (if (opndOf 0xd8 f).opt = 1 then endScript s.cur.sub u else procRetire (Rules.movedOn s) h u) := by
  have hclass : classOf (opndOf 0xd8 f).opc = .slice ∨ classOf (opndOf 0xd8 f).opc = .circuit := .inr (by rw [opndOf_opc]; rfl)
  have hva : (begunProc s).get (opndOf 0xd8 f).a + procB (opndOf 0xd8 f) (begunProc s) =
      (curProc s).get (opndOf 0xd8 f).a + Rules.contextB (opndOf 0xd8 f) (curProc s) := by rw [procB_eq_contextB hclass]; rfl
  have hcur : (stamped s (opndOf 0xd8 f) pa hc t).cur = s.cur := by
    have hwalk := sameActors_scriptElem s ((curProc s).get (opndOf 0xd8 f).a + Rules.contextB (opndOf 0xd8 f) (curProc s)) .write
    rw [helem] at hwalk
    exact (((sameActors_touchL2 _ _).trans (sameActors_performBytes _ _ _ _ t)).trans hwalk).cur
  split_ifs with hend
  · refine exec_of_over hv (by decide) (opOf_cstamp h f s) hr ?_
    dsimp only
    rw [hva, helem]
    dsimp only
    rw [if_pos hend, ← hcur]
    rfl
  · refine exec_of_done hv (by decide) (opOf_cstamp h f s) hr ?_
    dsimp only
    rw [hva, helem]
    dsimp only
    rw [if_neg hend]
    rfl

/-- `cawait.live` and `.dark` of ports that are all so end at once. -/
theorem exec_cawait {m : Multi} (hr : Runs 0xd1 h (.multi m) s) :
    let o := opndOf 0xd1 (.multi m)
    let ports := ((curProc s).get o.a).toNat % 2 ^ 32
    foreign s ports = false → portsWhere s ports (fun x => x.st ≠ if o.opt = 0 then 3 else 0) = 0 →
      exec (.cawait h m) s = .next (procRetire (Rules.wrote s o.d 0) h s) := by
  intro o ports hours hmet
  exact congrArg _ (procIssue_of_done hr ((if_neg (Bool.eq_false_iff.mp hours)).trans (if_pos hmet)))

/-- `cawait.mem` ends when the element has reached the value. -/
theorem exec_cawaitMem {m : Multi} {pa : Nat} {hc : Bool} {t : State} (hr : Runs 0xd1 h (.multi m) s) :
    let o := opndOf 0xd1 (.multi m)
    let p := curProc s
    o.a < 31 → scriptElem s (p.get o.a) .read = (.ok (pa, hc), t) → eccIn t pa 8 = false →
      (p.get (o.a + 1)).toNat ≤ readNat t.mem pa 8 →
      exec (.cawaitMem h m) s = .next (procRetire (Rules.wrote s o.d 0) h (touchL2 (pa / 128) t)) := by
  intro o p hreg helem hsound hreached
  refine congrArg _ (procIssue_of_done hr ?_)
  have ha : (begunProc s).get (opndOf 0xd1 (.multi m)).a = p.get o.a := rfl
  dsimp only
  rw [if_neg (Nat.not_le.mpr hreg), ha, helem]
  dsimp only
  rw [hsound, if_neg Bool.false_ne_true]
  exact if_pos hreached

end

/-- Settles O28: each is one issue, which its checks let through. -/
theorem circuitInstructions : Obligations.CircuitInstructions := by
  unfold Obligations.CircuitInstructions
  refine ⟨fun i opc h f s hv hr => ?_, fun h m s hr => exec_cawait hr, fun h m s t pa hc hr => exec_cawaitMem hr⟩
  dsimp only
  refine ⟨?request, ?refuse, ?bind, ?release, ?status, ?send, ?receive, ?clock, ?stamp⟩
  case request =>
    rintro rfl hzero hidle howner
    exact (exec_creq hv hr hzero).trans (congrArg _ (if_pos ⟨hidle, howner⟩))
  case refuse =>
    rintro rfl hzero hother
    exact (exec_creq hv hr hzero).trans (congrArg _ (if_neg hother))
  case bind =>
    rintro rfl hours hfree hidle
    exact exec_cbar hv hr hours hfree hidle
  case release =>
    rintro rfl hours
    exact exec_crel hv hr hours
  case status =>
    rintro rfl
    exact exec_answers hv (by decide) (opOf_cstat h f s) hr rfl
  case send =>
    rintro rfl hother
    exact exec_emsg hv hr hother
  case receive =>
    rintro rfl k x hfind hmsg hfirst hsound
    exact exec_erecv hv hr hfind hmsg hfirst hsound
  case clock =>
    rintro rfl
    exact exec_answers hv (by decide) (opOf_ctime h f s) hr rfl
  case stamp =>
    rintro rfl t pa hc helem
    exact ⟨fun hgo => (exec_cstamp hv hr helem).trans (congrArg _ (if_neg hgo)),
      fun hend => (exec_cstamp hv hr helem).trans (congrArg _ (if_pos hend))⟩

end Sys2Proof.Laws
end

section
/-!
SUPPORT. Instructions of slice handlers (R311, R312, R315 to R322, R432): one issue of each.
-/

namespace Sys2Proof.Laws

open Sys2Proof.Machine

theorem opOf_hlrd (h : Hdr) (f : Form) (s : State) : opOf 0xc0 h f s = opHlrd h f s := rfl
theorem opOf_hlwr (h : Hdr) (f : Form) (s : State) : opOf 0xc1 h f s = opHlwr h f s := rfl
theorem opOf_hpref (h : Hdr) (f : Form) (s : State) : opOf 0xc2 h f s = opHpref h f s := rfl
theorem opOf_hresp (h : Hdr) (f : Form) (s : State) : opOf 0xc3 h f s = opHresp h f s := rfl
theorem opOf_hmsg (h : Hdr) (f : Form) (s : State) : opOf 0xc4 h f s = opHmsg h f s := rfl
theorem opOf_hkpush (h : Hdr) (f : Form) (s : State) : opOf 0xc5 h f s = opHkpush h f s := rfl
theorem opOf_hend (h : Hdr) (f : Form) (s : State) : opOf 0xc6 h f s = opHend h f s := rfl
theorem opOf_hbudget (h : Hdr) (f : Form) (s : State) : opOf 0xc7 h f s = opHbudget h f s := rfl

/-! ## Addresses -/

/-- The address of an instruction of the slice class (R315). -/
def handlerVa (o : Opnd) (p : Proc) : Nat := (p.get o.a + Rules.contextB o p).toNat

/-- The state once an address has been looked up: a line of its own needs no walk (R312). -/
def lookedUp (va : Nat) (s : State) : State :=
  if va / 128 = (curCtx s).line then s else handlerWalked s.cur.unit (curCtx s).tenant va s

theorem sameActors_lookedUp (va : Nat) (s : State) : SameActors (lookedUp va s) s := by
  unfold lookedUp
  split
  · exact .refl s
  · exact sameActors_handlerWalked _ _ va s

/-- The address as the effect of an instruction of the slice class computes it. -/
theorem begun_va {opc : Nat} {f : Form} {s : State} (hclass : classOf opc = .slice) :
    ((begunProc s).get (opndOf opc f).a + procB (opndOf opc f) (begunProc s)).toNat = handlerVa (opndOf opc f) (curProc s) := by
  rw [procB_eq_contextB (.inl (by rw [opndOf_opc]; exact hclass))]
  rfl

/-- The snapshot is of the invocation's own line. -/
theorem own_of_snap {s : State} {va off : Nat} {write : Bool} (h : handlerPlace s va write = .snap off) : va / 128 = (curCtx s).line := by
  by_contra hother
  unfold handlerPlace at h
  dsimp only at h
  rw [if_neg hother] at h
  split at h
  · cases h
  split at h
  · cases h
  split at h
  · cases h
  split at h
  · cases h
  split at h <;> cases h

section
variable {o : Opnd} {p : Proc} {write : Bool} {s : State} {go : HPlace → Nat → State → PRes}

/-- An aligned access to memory goes on where its line has been looked up. -/
theorem handlerAccess_of_mem {pa : Nat} {hc : Bool} (hal : (p.get o.a + procB o p).toNat % (widthOf o.typ / 8) = 0)
    (hplace : handlerPlace s (p.get o.a + procB o p).toNat write = .mem pa hc) :
    handlerAccess o p write s go = go (.mem pa hc) (p.get o.a + procB o p).toNat (lookedUp (p.get o.a + procB o p).toNat s) := by
  unfold handlerAccess
  dsimp only
  rw [if_neg (not_not_intro hal), hplace]
  rfl

/-- An aligned access to a snapshot reads it as it is. -/
theorem handlerAccess_of_snap {off : Nat} (hal : (p.get o.a + procB o p).toNat % (widthOf o.typ / 8) = 0)
    (hplace : handlerPlace s (p.get o.a + procB o p).toNat write = .snap off) :
    handlerAccess o p write s go = go (.snap off) (p.get o.a + procB o p).toNat s := by
  unfold handlerAccess
  dsimp only
  rw [if_neg (not_not_intro hal), hplace]
  dsimp only
  rw [if_pos (own_of_snap hplace)]

end

section
variable {i : Instr} {h : Hdr} {f : Form} {s : State}

/-! ## `hlrd` and `hlwr` (R316, R432) -/

/-- `hlrd` of memory. -/
theorem exec_hlrd_mem {pa : Nat} {hc : Bool} (hv : view i = some (0xc0, h, f)) (hr : Runs 0xc0 h f s) :
    let o := opndOf 0xc0 f
    let va := handlerVa o (curProc s)
    let n := widthOf o.typ / 8
    let t := lookedUp va s
    va % n = 0 → handlerPlace s va false = .mem pa hc → eccIn t pa n = false →
      exec i s = .next (procRetire (Rules.wrote s o.d (extW o.typ (readNat t.mem pa n))) h (touchL2 (pa / 128) t)) := by
  intro o va n t hal hplace hsound
  have hva : ((begunProc s).get o.a + procB o (begunProc s)).toNat = va := begun_va rfl
  refine exec_answers hv (by decide) (opOf_hlrd h f s) hr ?_
  dsimp only
  rw [handlerAccess_of_mem (by rw [hva]; exact hal) (by rw [hva]; exact hplace), hva]
  exact if_neg (Bool.eq_false_iff.mp hsound)

/-- `hlrd` of a snapshot. -/
theorem exec_hlrd_snap {off : Nat} (hv : view i = some (0xc0, h, f)) (hr : Runs 0xc0 h f s) :
    let o := opndOf 0xc0 f
    let va := handlerVa o (curProc s)
    let n := widthOf o.typ / 8
    let c := curCtx s
    va % n = 0 → handlerPlace s va false = .snap off →
      exec i s = .next (if off / 8 ∈ c.snapBad then procFault cECC 0 (w64 va) s
        else procRetire (Rules.wrote s o.d (extW o.typ (ofBytes ((c.snap.drop off).take n)))) h s) := by
  intro o va n c hal hplace
  have hva : ((begunProc s).get o.a + procB o (begunProc s)).toNat = va := begun_va rfl
  have hgo (go : HPlace → Nat → State → PRes) : handlerAccess o (begunProc s) false s go = go (.snap off) va s := by
    rw [handlerAccess_of_snap (by rw [hva]; exact hal) (by rw [hva]; exact hplace), hva]
  split_ifs with hbad
  · exact exec_of_fault hv (by decide) (opOf_hlrd h f s) hr ((hgo _).trans (if_pos (by simpa using hbad)))
  · exact exec_answers hv (by decide) (opOf_hlrd h f s) hr ((hgo _).trans (if_neg (by simpa using hbad)))

/-- `hlwr` performs its store at the slice. -/
theorem exec_hlwr {pa : Nat} {hc : Bool} (hv : view i = some (0xc1, h, f)) (hr : Runs 0xc1 h f s) :
    let o := opndOf 0xc1 f
    let va := handlerVa o (curProc s)
    let n := widthOf o.typ / 8
    let t := lookedUp va s
    va % n = 0 → handlerPlace s va true = .mem pa hc → (n < 8 → eccIn t pa n = false) →
      exec i s = .next (procRetire (Rules.movedOn s) h
        (touchL2 (pa / 128) (performBytes pa (toBytes n ((curProc s).get o.d).toNat) none hc t))) := by
  intro o va n t hal hplace hsound
  have hva : ((begunProc s).get o.a + procB o (begunProc s)).toNat = va := begun_va rfl
  refine exec_of_done hv (by decide) (opOf_hlwr h f s) hr ?_
  dsimp only
  rw [handlerAccess_of_mem (by rw [hva]; exact hal) (by rw [hva]; exact hplace), hva]
  refine if_neg fun hbad => ?_
  rw [Bool.and_eq_true, decide_eq_true_eq] at hbad
  exact Bool.false_ne_true ((hsound hbad.1).symm.trans hbad.2)

/-! ## `hpref` (R311, R317) -/

/-- A ninth `hpref` is dropped. -/
theorem exec_hpref_dropped (hv : view i = some (0xc2, h, f)) (hr : Runs 0xc2 h f s) (hmany : 8 ≤ (curCtx s).hprefs) :
    exec i s = .next (procRetire (Rules.movedOn s) h s) :=
  exec_of_done hv (by decide) (opOf_hpref h f s) hr (if_pos hmany)

/-- What one of the first eight does once it is counted, for an invocation `c` at a slice `n` (R317). -/
def hprefGoes (n : Nat) (c : FolbelCtx) (va : Nat) (p : Proc) (t : State) : PRes :=
  if va / 128 = c.line || !handlerWalks t n c.tenant va then .done p t
  else if walkBad t n c.tenant va then .done p (countError cECC t)
  else match handlerLeaf t n c.tenant va false with
    | some x =>
      let u := handlerWalked n c.tenant va t
      if x.there va then .done p (startFill (x.addr va / 128) none none u) else .done p { u with hole := true }
    | none => .done p t

theorem exec_hpref_counted (hv : view i = some (0xc2, h, f)) (hr : Runs 0xc2 h f s) (hfew : (curCtx s).hprefs < 8) {u : State}
    (hgoes : hprefGoes s.cur.unit (curCtx s) (handlerVa (opndOf 0xc2 f) (curProc s)) (begunProc s)
      (s.updCtx s.cur.unit s.cur.sub fun c => { c with hprefs := c.hprefs + 1 }) = .done (begunProc s) u) :
    exec i s = .next (procRetire (Rules.movedOn s) h u) := by
  refine exec_of_done hv (by decide) (opOf_hpref h f s) hr ?_
  have hva := begun_va (opc := 0xc2) (f := f) (s := s) rfl
  dsimp only
  rw [if_neg (Nat.not_le.mpr hfew), hva]
  exact hgoes

section
variable {n va : Nat} {c : FolbelCtx} {p : Proc} {t : State}

theorem hprefGoes_dropped (hdrop : va / 128 = c.line ∨ handlerWalks t n c.tenant va = false) : hprefGoes n c va p t = .done p t :=
  if_pos (by simpa using hdrop)

variable (hother : va / 128 ≠ c.line) (hwalks : handlerWalks t n c.tenant va = true)
include hother hwalks

theorem hprefGoes_bad (hbad : walkBad t n c.tenant va = true) : hprefGoes n c va p t = .done p (countError cECC t) :=
  (if_neg (by simp [hother, hwalks])).trans (if_pos hbad)

theorem hprefGoes_refused (hsound : walkBad t n c.tenant va = false) (hleaf : handlerLeaf t n c.tenant va false = none) :
    hprefGoes n c va p t = .done p t := by
  unfold hprefGoes
  rw [if_neg (by simp [hother, hwalks]), hsound, hleaf]
  rfl

theorem hprefGoes_fill {x : Xlat} (hsound : walkBad t n c.tenant va = false) (hleaf : handlerLeaf t n c.tenant va false = some x)
    (hthere : x.there va = true) :
    hprefGoes n c va p t = .done p (startFill (x.addr va / 128) none none (handlerWalked n c.tenant va t)) := by
  unfold hprefGoes
  rw [if_neg (by simp [hother, hwalks]), hsound, hleaf]
  exact if_pos hthere

end

/-! ## Messages (R311, R318 to R320) -/

/-- An invocation has sent one message more. -/
def sentOne (s : State) : State := s.updCtx s.cur.unit s.cur.sub fun c => { c with msgs := c.msgs + 1 }

/-- A fifth message answers 2. -/
theorem messaging_of_spent {d : Nat} {p : Proc} {go : State → Nat × State} (hspent : 4 ≤ (curCtx s).msgs) :
    messaging d p s go = .done (p.put d 2) s :=
  if_pos hspent

/-- One of the first four messages acts and answers. -/
theorem messaging_of_few {d n : Nat} {p : Proc} {t : State} {go : State → Nat × State} (hfew : (curCtx s).msgs < 4)
    (hgo : go (sentOne s) = (n, t)) : messaging d p s go = .done (p.put d (w64 n)) t := by
  unfold messaging
  rw [if_neg (Nat.not_le.mpr hfew)]
  show (match go (sentOne s) with | (st, s) => PRes.done (p.put d (w64 st)) s) = _
  rw [hgo]

/-- A fifth message of any of the three kinds does nothing. -/
theorem exec_message_spent {opc : Nat} (hv : view i = some (opc, h, f)) (hr : Runs opc h f s)
    (hopc : (opc = 0xc3 ∧ (curCtx s).kind = 3) ∨ opc = 0xc4 ∨ opc = 0xc5) (hspent : 4 ≤ (curCtx s).msgs) :
    exec i s = .next (procRetire (Rules.wrote s (opndOf opc f).d 2) h s) := by
  have hfull : ¬(curCtx s).msgs < 4 := Nat.not_lt.mpr hspent
  rcases hopc with ⟨rfl, hmsg⟩ | rfl | rfl
  · exact exec_answers hv (by decide) (opOf_hresp h f s) hr ((if_neg (not_not_intro hmsg)).trans (messaging_of_spent hspent))
  · refine exec_answers hv (by decide) (opOf_hmsg h f s) hr ?_
    simp only [hfull, decide_false, Bool.and_false, Bool.false_and, Bool.false_eq_true, if_false]
    exact messaging_of_spent hspent
  · refine exec_answers hv (by decide) (opOf_hkpush h f s) hr ?_
    simp only [hfull, decide_false, Bool.false_and, Bool.false_eq_true, if_false]
    exact messaging_of_spent hspent

/-- `hresp` adds to a counter of the origin's block. -/
theorem exec_hresp (hv : view i = some (0xc3, h, f)) (hr : Runs 0xc3 h f s) (hmsg : (curCtx s).kind = 3) (hfew : (curCtx s).msgs < 4)
    {core slot b : Nat} {blk : Block} (horigin : (curCtx (sentOne s)).origin = some (core, slot))
    (hparent : parentBlock (sentOne s) core slot = some b) (hblk : getN (sentOne s).blocks b = some blk) :
    let o := opndOf 0xc3 f
    let p := curProc s
    (p.get o.b).toNat % 256 < (layoutOf (sentOne s) blk).nctr →
      exec i s = .next (procRetire (Rules.wrote s o.d 0) h
        (changeCounter b core ((p.get o.b).toNat % 256) (· + p.get o.a) id (sentOne s))) := by
  intro o p hctr
  refine exec_answers hv (by decide) (opOf_hresp h f s) hr ((if_neg (not_not_intro hmsg)).trans (messaging_of_few hfew ?_))
  dsimp only
  rw [horigin]
  dsimp only [Option.bind]
  rw [hparent]
  dsimp only [Option.map]
  rw [hblk]
  exact if_neg (Nat.not_le.mpr hctr)

/-- `hkpush` pushes a record where its queue takes it. -/
theorem exec_hkpush (hv : view i = some (0xc5, h, f)) (hr : Runs 0xc5 h f s) (hfew : (curCtx s).msgs < 4) {u : State} :
    let o := opndOf 0xc5 f
    let p := curProc s
    let r : KRec :=
      { key := p.get o.a
        pay := (p.get (o.a + 1)).setWidth 128 + ((p.get (o.a + 2)).setWidth 128 <<< 64)
        homed := true
        ptype := bitsOf o.c 7 5
        op := o.c % 32 }
    let q := pushTo s (curCtx s).tenant (32 * (s.cur.unit / 16)) (bitsOf o.c 9 8) r.key
    r.key ≠ BitVec.allOnes 64 → pushWaits q (curCtx s).tenant r s = none → kqPush q (curCtx s).tenant r (sentOne s) = some u →
      exec i s = .next (procRetire (Rules.wrote s o.d 0) h u) := by
  intro o p r q hkey hgoes hpush
  refine exec_answers hv (by decide) (opOf_hkpush h f s) hr ?_
  have hreg (n : Nat) : (begunProc s).get n = p.get n := rfl
  have hend : endKey = BitVec.allOnes 64 := rfl
  dsimp only
  simp only [hreg]
  rw [if_pos (by simpa [hfew, hend] using hkey), hgoes]
  refine messaging_of_few hfew ((if_neg hkey).trans ?_)
  rw [hpush]

/-- The line to which `hmsg` sends, if its address is good and the line exists (R319). -/
def hmsgPlace (n : Nat) (c : FolbelCtx) (va : Nat) (s : State) : Option (Option Nat) :=
  if va / 128 = c.line then some (some c.pline)
  else (handlerLeaf s n c.tenant va true).map fun x => if x.there va then some (x.addr va / 128) else none

/-- The event that `hmsg` sends to a line. -/
def hmsgEvent (o : Opnd) (c : FolbelCtx) (va pline : Nat) (p : Proc) : SliceEvent :=
  { kind := 3, tenant := c.tenant, line := va / 128, pline, pay := (p.get o.c, p.get (o.c + 1)) }

/-- What `hmsg` answers and does, once its line has been looked up (R319). -/
def hmsgGoes (o : Opnd) (c : FolbelCtx) (va : Nat) (p : Proc) (s : State) : Nat × State :=
  match hmsgPlace s.cur.unit c va s with
  | none => (5, s)
  | some none => (5, { s with hole := true })
  | some (some pline) =>
    match postMsg (hmsgEvent o c va pline p) s with
    | (.full, s) => (1, s)
    | (_, s) => (0, s)

/-- One issue of `hmsg` by an invocation `c`: its line is looked up, and the message is sent. -/
def hmsgRuns (o : Opnd) (c : FolbelCtx) (va : Nat) (p : Proc) (s : State) : PRes :=
  let walks := !(va / 128 = c.line) && decide (c.msgs < 4)
  if walks && !handlerWalks s s.cur.unit c.tenant va then
    .wait (handlerWait (walkLimited s (s.cur.unit / 16) c.tenant va) va s)
  else if walks && walkBad s s.cur.unit c.tenant va then .fault cECC 0 (w64 va)
  else messaging o.d p (if walks then handlerWalked s.cur.unit c.tenant va s else s) (hmsgGoes o c va p)

section
variable {o : Opnd} {c : FolbelCtx} {va pline : Nat} {p : Proc} {t u : State}

theorem hmsgGoes_taken (hplace : hmsgPlace t.cur.unit c va t = some (some pline))
    (hpost : postMsg (hmsgEvent o c va pline p) t = (.taken, u)) : hmsgGoes o c va p t = (0, u) := by
  rw [hmsgGoes, hplace]
  dsimp only
  rw [hpost]

theorem hmsgGoes_full (hplace : hmsgPlace t.cur.unit c va t = some (some pline))
    (hpost : postMsg (hmsgEvent o c va pline p) t = (.full, u)) : hmsgGoes o c va p t = (1, u) := by
  rw [hmsgGoes, hplace]
  dsimp only
  rw [hpost]

theorem hmsgGoes_refused (hplace : hmsgPlace t.cur.unit c va t = none) : hmsgGoes o c va p t = (5, t) := by
  rw [hmsgGoes, hplace]

end

/-- `hmsg` of a line that is its own or that the walker finds sends its event. -/
theorem exec_hmsg (hv : view i = some (0xc4, h, f)) (hr : Runs 0xc4 h f s) (hfew : (curCtx s).msgs < 4) {n : Nat} {u : State} :
    let o := opndOf 0xc4 f
    let c := curCtx s
    let va := handlerVa o (curProc s)
    va / 128 = c.line ∨ (handlerWalks s s.cur.unit c.tenant va = true ∧ walkBad s s.cur.unit c.tenant va = false) →
      hmsgGoes o c va (curProc s) (sentOne (lookedUp va s)) = (n, u) →
      exec i s = .next (procRetire (Rules.wrote s o.d (w64 n)) h u) := by
  intro o c va hfound hgoes
  have hva : ((begunProc s).get o.a + procB o (begunProc s)).toNat = va := begun_va rfl
  have hstill : (curCtx (lookedUp va s)).msgs < 4 := by rw [(sameActors_lookedUp va s).curCtx]; exact hfew
  have hsends : messaging o.d (begunProc s) (lookedUp va s) (hmsgGoes o c va (begunProc s)) =
      .done ((begunProc s).put o.d (w64 n)) u := messaging_of_few hstill hgoes
  refine exec_answers hv (by decide) (opOf_hmsg h f s) hr ?_
  dsimp only
  rw [hva]
  show hmsgRuns o c va (begunProc s) s = _
  unfold hmsgRuns
  by_cases hown : va / 128 = c.line
  · rw [show lookedUp va s = s from if_pos hown] at hsends
    simpa only [c, hown, decide_true, Bool.not_true, Bool.false_and, Bool.false_eq_true, if_false] using hsends
  · obtain ⟨hwalks, hsound⟩ := hfound.resolve_left hown
    rw [show lookedUp va s = handlerWalked s.cur.unit c.tenant va s from if_neg hown] at hsends
    simpa only [c, hown, hfew, hwalks, hsound, decide_false, decide_true, Bool.not_false, Bool.not_true, Bool.true_and, Bool.and_false,
      Bool.false_eq_true, if_false, if_true] using hsends

end

/-- Settles O27: each is one issue, which its checks let through. -/
theorem handlerInstructions : Obligations.HandlerInstructions := by
  unfold Obligations.HandlerInstructions
  intro i opc h f s hv hr o p c unit sub va n own walked sent answers
  refine ⟨?read, ?readBad, ?readSnap, ?write, ?prefetch, ?spent, ?respond, ?message, ?push, ?ends, ?budget, ?lower⟩
  case read =>
    rintro rfl hal pa hc hplace hsound
    exact exec_hlrd_mem hv hr hal hplace hsound
  case readBad =>
    rintro rfl hal off hplace hbad
    exact (exec_hlrd_snap hv hr hal hplace).trans (congrArg _ (if_pos hbad))
  case readSnap =>
    rintro rfl hal off hplace hsound
    exact (exec_hlrd_snap hv hr hal hplace).trans (congrArg _ (if_neg hsound))
  case write =>
    rintro rfl hal pa hc hplace hsound
    exact exec_hlwr hv hr hal hplace hsound
  case prefetch =>
    rintro rfl t goes
    exact ⟨exec_hpref_dropped hv hr, fun hfew hdrop => exec_hpref_counted hv hr hfew (hprefGoes_dropped hdrop),
      fun hfew hother hwalks hbad => exec_hpref_counted hv hr hfew (hprefGoes_bad hother hwalks hbad),
      fun hfew hother hwalks hsound hleaf => exec_hpref_counted hv hr hfew (hprefGoes_refused hother hwalks hsound hleaf),
      fun hfew hother hwalks hsound x hleaf hthere =>
        exec_hpref_counted hv hr hfew (hprefGoes_fill hother hwalks hsound hleaf hthere)⟩
  case spent =>
    intro hopc hspent
    exact exec_message_spent hv hr hopc hspent
  case respond =>
    rintro rfl hkind hfew core slot b blk horigin hparent hblk hctr
    exact exec_hresp hv hr hkind hfew horigin hparent hblk hctr
  case message =>
    rintro rfl hfew hfound sent
    have hcur : sent.cur = s.cur := (sameActors_lookedUp va s).cur
    have hsent : sentOne (lookedUp va s) = sent := by
      rw [sentOne, (sameActors_lookedUp va s).cur]
      rfl
    have hgoes {m : Nat} {u : State} (hm : hmsgGoes o c va p sent = (m, u)) : answers (w64 m) u :=
      exec_hmsg hv hr hfew hfound ((congrArg (hmsgGoes o c va p) hsent).trans hm)
    have hunit : sent.cur.unit = unit := congrArg Cursor.unit hcur
    constructor
    · intro pline u hline e
      have hplace : hmsgPlace sent.cur.unit c va sent = some (some pline) := by
        rw [hunit]
        rcases hline with ⟨hown, rfl⟩ | ⟨hother, x, hleaf, hthere, rfl⟩
        · exact if_pos hown
        · rw [hmsgPlace, if_neg hother, hleaf]
          exact congrArg some (if_pos hthere)
      exact ⟨fun hpost => hgoes (hmsgGoes_taken hplace hpost), fun hpost => hgoes (hmsgGoes_full hplace hpost)⟩
    · intro hother hleaf
      refine hgoes (hmsgGoes_refused ?_)
      rw [hunit, hmsgPlace, if_neg hother, hleaf]
      rfl
  case push =>
    rintro rfl hfew r q hkey hgoes u hpush
    exact exec_hkpush hv hr hfew hkey hgoes hpush
  case ends =>
    rintro rfl
    refine exec_of_over hv (by decide) (opOf_hend h f s) hr (congrArg PRes.over ?_)
    unfold endHandler
    simp only [Bool.or_eq_true, decide_eq_true_eq]
    rfl
  case budget =>
    rintro rfl hopt
    exact exec_answers hv (by decide) (opOf_hbudget h f s) hr (if_pos hopt)
  case lower =>
    rintro rfl hopt
    exact exec_of_done hv (by decide) (opOf_hbudget h f s) hr (if_neg hopt)

end Sys2Proof.Laws
end

section
/-!
SUPPORT. The fields of a fault record as they lie in the ring (R385 to R387): numbers as bytes, and the part of a list of bytes that a
field takes. Then the ring's obligation.
-/

namespace Sys2Proof.Laws

open Sys2Proof.Machine

@[simp] theorem length_toBytes (n x : Nat) : (toBytes n x).length = n := by
  induction n generalizing x with
  | zero => rfl
  | succ n ih => rw [toBytes, List.length_cons, ih]

/-- The bytes of a number give it back, modulo their width (R2). -/
theorem ofBytes_toBytes (n x : Nat) : ofBytes (toBytes n x) = x % 256 ^ n := by
  induction n generalizing x with
  | zero => rw [toBytes, ofBytes, Nat.pow_zero, Nat.mod_one]
  | succ n ih => rw [toBytes, ofBytes, ih, BitVec.toNat_ofNat, pow_succ' 256 n, Nat.mod_mul]

/-- A part of the bytes read is what the same read gives at the part's place. -/
theorem readBytes_part {m : ZMap 8} {a : Nat} {before field after : List Byte}
    (hread : readBytes m a (before ++ field ++ after).length = before ++ field ++ after) :
    readBytes m (a + before.length) field.length = field := by
  have hlen (b n : Nat) : (readBytes m b n).length = n := by
    induction n generalizing b with
    | zero => rfl
    | succ n ih => rw [readBytes, List.length_cons, ih]
  rw [List.length_append, List.length_append, readBytes_add, readBytes_add, List.append_assoc, List.append_assoc] at hread
  have hrest := (List.append_inj hread (hlen _ _)).2
  exact (List.append_inj hrest (hlen _ _)).1

/-- A field of `n` bytes within what was written reads as its number, modulo its width. -/
theorem readNat_field (m : ZMap 8) (a n x : Nat) (before after : List Byte) :
    readNat (writeBytes m a (before ++ toBytes n x ++ after)) (a + before.length) n = x % 256 ^ n := by
  have hfield := readBytes_part (readBytes_writeBytes m a (before ++ toBytes n x ++ after))
  rw [length_toBytes] at hfield
  rw [readNat, hfield, ofBytes_toBytes]

/-- The bytes of consecutive fields, each of a width and a value. -/
def fieldBytes (fs : List (Nat × Nat)) : List Byte := fs.flatMap fun x => toBytes x.1 x.2

/-- Where field `j` begins. -/
def fieldAt (fs : List (Nat × Nat)) (j : Nat) : Nat := ((fs.take j).map Prod.fst).sum

theorem length_fieldBytes (fs : List (Nat × Nat)) : (fieldBytes fs).length = (fs.map Prod.fst).sum := by
  rw [fieldBytes, List.length_flatMap]
  simp only [length_toBytes]

/-- Each of the fields that were written reads as its value, modulo its width. -/
theorem readNat_fieldBytes (m : ZMap 8) (a j : Nat) (fs : List (Nat × Nat)) (hj : j < fs.length) :
    readNat (writeBytes m a (fieldBytes fs)) (a + fieldAt fs j) fs[j].1 = fs[j].2 % 256 ^ fs[j].1 := by
  have hsplit : fieldBytes fs = fieldBytes (fs.take j) ++ toBytes fs[j].1 fs[j].2 ++ fieldBytes (fs.drop (j + 1)) := by
    conv_lhs => rw [← List.take_append_drop j fs, List.drop_eq_getElem_cons hj]
    rw [fieldBytes, List.flatMap_append, List.flatMap_cons, ← List.append_assoc]
    rfl
  rw [hsplit, fieldAt, ← length_fieldBytes]
  exact readNat_field _ _ _ _ _ _

/-- The flags of a record: DEMAND, TRAPPED, WRITE, NESTED and DEFER (R386). -/
def recordFlags (r : FaultRec) : Nat :=
  (if r.demand then 1 else 0) + (if r.trapped then 2 else 0) + (if r.write then 4 else 0) + (if r.nested then 8 else 0) +
    (if r.defer then 16 else 0)

/-- The flags fit in their byte. -/
theorem recordFlags_lt (r : FaultRec) : recordFlags r < 256 := by
  unfold recordFlags
  split <;> split <;> split <;> split <;> split <;> omega

/-- The byte that names the tenant, or the device (R386). -/
def recordOwner (r : FaultRec) : Nat := if r.devWide then 128 else r.tenant % 16

theorem recordOwner_lt (r : FaultRec) : recordOwner r < 256 := by
  unfold recordOwner
  split <;> omega

/-- The fields of a record in the order of R386. -/
def recordFields (r : FaultRec) (node seq : Nat) : List (Nat × Nat) :=
  [(2, r.cause), (1, recordFlags r), (1, r.src), (2, node), (2, r.unit), (8, r.laneMask.toNat), (8, r.pc.toNat), (8, r.addr.toNat),
    (8, r.info1.toNat), (8, 0), (1, recordOwner r), (7, 0), (8, seq)]

theorem bytes_eq_fieldBytes (r : FaultRec) (node seq : Nat) : r.bytes node seq = fieldBytes (recordFields r node seq) := by
  have howner : (if r.devWide then 0 else r.tenant % 16) + (if r.devWide then 2 ^ 7 else 0) = recordOwner r := by
    unfold recordOwner
    cases r.devWide <;> rfl
  simp only [FaultRec.bytes, howner, fieldBytes, recordFields, List.flatMap_cons, List.flatMap_nil, List.append_nil, List.append_assoc]
  rfl

theorem fqBlocked_false_iff (h : HostRegs) :
    h.fqBlocked = false ↔ h.fqCtl.getLsbD 0 = true ∧
      (h.fqWrite.toNat + 2 ^ 32 - h.fqRead.toNat % 2 ^ 32) % 2 ^ 32 ≠ 2 ^ fld h.fqCtl 7 4 := by
  simp only [HostRegs.fqBlocked, Bool.or_eq_false_iff, Bool.not_eq_false', decide_eq_false_iff_not, ne_eq]

theorem postRec_of_room {r : FaultRec} {s : State} (hroom : s.regs.fqBlocked = false) : postRec r s = writeRec r s := by
  rw [postRec, hroom, if_neg Bool.false_ne_true]

theorem postRec_of_blocked {r : FaultRec} {s : State} (hfull : s.regs.fqBlocked = true) :
    postRec r s = if r.demand = true then { s with demandHeld := s.demandHeld ++ [r] }
      else { s with regs := { s.regs with fqDrop := s.regs.fqDrop + 1 } } := by
  rw [postRec, hfull, if_pos rfl]

/-- Settles O52: every field is a part of the bytes that a record writes. -/
theorem faultRecords : Obligations.FaultRecords := by
  unfold Obligations.FaultRecords
  intro r s _ h t p flag room
  refine ⟨fun hroom => ?_, fun hfull => ?_⟩
  · have ht : t = writeRec r s := postRec_of_room ((fqBlocked_false_iff h).2 hroom)
    have hmem : t.mem = writeBytes s.mem p (fieldBytes (recordFields r h.nodeId (h.fqSeq + 1))) := by
      rw [ht, writeRec, bytes_eq_fieldBytes, ← Nat.add_assoc]
    clear_value p
    have hfield (j : Nat) (hj : j < 13) := readNat_fieldBytes s.mem p j (recordFields r h.nodeId (h.fqSeq + 1)) hj
    rw [← hmem] at hfield
    refine ⟨hfield 0 (by decide), (hfield 1 (by decide)).trans (Nat.mod_eq_of_lt (recordFlags_lt r)),
      hfield 2 (by decide), hfield 3 (by decide), hfield 4 (by decide),
      (hfield 5 (by decide)).trans (Nat.mod_eq_of_lt r.laneMask.isLt),
      (hfield 6 (by decide)).trans (Nat.mod_eq_of_lt r.pc.isLt),
      (hfield 7 (by decide)).trans (Nat.mod_eq_of_lt r.addr.isLt),
      (hfield 8 (by decide)).trans (Nat.mod_eq_of_lt r.info1.isLt),
      hfield 9 (by decide), (hfield 10 (by decide)).trans (Nat.mod_eq_of_lt (recordOwner_lt r)), hfield 11 (by decide),
      hfield 12 (by decide), ?_, ?_⟩
    · rintro a (hbelow | habove)
      · rw [hmem, getZ_writeBytes_below _ _ _ _ hbelow]
      · rw [hmem, getZ_writeBytes_above _ _ _ _ (le_trans (by rw [length_fieldBytes]; rfl) habove)]
    · rw [ht]
      rfl
  · have hblocked : h.fqBlocked = true := by
      by_contra hopen
      exact hfull ((fqBlocked_false_iff h).1 (Bool.eq_false_iff.2 hopen))
    exact postRec_of_blocked hblocked

end Sys2Proof.Laws
end

section
/-!
SUPPORT. Power, boot and the thermal limits (R366 to R369): one rule per event.
-/

namespace Sys2Proof.Laws

open Sys2Proof.Machine

/-- What the boot ROM finds in a flash of three images: the first that fails ends it (R366). -/
theorem bootOf_images (a b c : FlashImage) :
    bootOf [a, b, c] =
      if imageGood a && imageGood b && imageGood c then .verified [a.digest, b.digest, c.digest]
      else .failed (if !imageGood a then 1 else if !imageGood b then 2 else 3) := by
  show (if !imageGood a then BootResult.failed 1 else if !imageGood b then .failed 2 else if !imageGood c then .failed 3
    else .verified [a.digest, b.digest, c.digest]) = _
  cases imageGood a
  · rfl
  cases imageGood b
  · rfl
  cases imageGood c <;> rfl

/-- An image verifies by its key, its body's digest, its version and its signature (R366). -/
theorem imageGood_eq (x : FlashImage) :
    imageGood x = (sha256 x.key = Config.keyHash && sha256 x.body = x.digest && decide (Config.rollback ≤ x.version) &&
      pssVerify (ofBig (x.key.take 384)) (ofBig (x.key.drop 384)) (x.digest ++ toBytes 8 x.version.toNat) x.signature) := by
  rw [imageGood, decide_eq_decide.2 (eq_comm (a := x.digest) (b := sha256 x.body))]

/-- Memory is written: no register of the host's, and no free value. -/
theorem performBytes_regs (pa : Nat) (bs : List Byte) (core : Option Nat) (hc : Bool) (s : State) :
    (performBytes pa bs core hc s).regs = s.regs ∧ (performBytes pa bs core hc s).freeCtr = s.freeCtr := by
  unfold performBytes performWrite
  split
  · exact ⟨rfl, rfl⟩
  cases hc <;> exact ⟨rfl, rfl⟩

/-- The attestation unit starts on a report, unless one is under way or boot has failed (R367). -/
theorem attestGo_of_idle {v : W64} {s : State} (hgo : v.getLsbD 0 = true) (hidle : s.regs.repBusy = false) (hlive : s.regs.dead = false) :
    attestGo v s = { s with regs := { s.regs with repBusy := true, repDone := false } } := by
  rw [attestGo, hgo, hidle, hlive]
  rfl

/-- The report and its signature are written, and the unit is done (R367). -/
theorem attestDone_of_busy {s : State} (hbusy : s.regs.repBusy = true) :
    let body := reportBody s.regs
    let salt := (List.range 32).map fun i => Config.salt s.freeCtr i
    let t := performBytes (hostAt s.regs.repAddr.toNat)
      (body ++ pssSign Config.deviceModulus Config.deviceExponent body salt) none true s
    attestDone s = { t with freeCtr := s.freeCtr + 1, regs := { s.regs with repBusy := false, repDone := true } } := by
  intro body salt t
  rw [attestDone, hbusy, if_neg (by decide)]
  dsimp only
  rw [(performBytes_regs _ _ _ _ _).1, (performBytes_regs _ _ _ _ _).2]

/-- The throttle of a power window: it deepens where a limit is passed, and else does not (R369). -/
theorem windowEnd_eq (watts depth : Nat) (hot : Bool) (s : State) :
    windowEnd watts depth hot s = { s with regs := { s.regs with
      pwrStat := pwrWord watts (if s.regs.pwrCap < watts ∨ hot = true then max 1 (min 15 depth) else min s.regs.depth depth) } } := by
  simp only [windowEnd, Bool.or_eq_true, decide_eq_true_eq]

/-- Settles O34: one rule per event. -/
theorem powerAndBoot : Obligations.PowerAndBoot := by
  unfold Obligations.PowerAndBoot
  intro s v h goes fresh verifies
  have event {i : Instr} {t u : State} (hexec : exec i s = .next u) (hu : u = t) : goes i t := hexec.trans (congrArg _ hu)
  refine ⟨?reset, ?attest, ?report, ?window, rfl, rfl, ?resume⟩
  case reset =>
    intro a b c hboot
    have hgood (x : FlashImage) : imageGood x = verifies x := imageGood_eq x
    refine event (u := powerOn s.input.boot s) rfl ?_
    simp only [powerOn, hboot, bootOf_images, hgood, fresh]
    cases verifies a && verifies b && verifies c <;> rfl
  case attest => exact fun hgo hidle hlive => event (u := attestGo v s) rfl (attestGo_of_idle hgo hidle hlive)
  case report => exact fun hbusy => event (u := attestDone s) rfl (attestDone_of_busy hbusy)
  case window => exact event (u := windowEnd s.input.aux s.input.idx s.input.flag s) rfl (windowEnd_eq _ _ _ s)
  case resume =>
    intro hv hcool
    refine event (u := thermalResume v s.input.flag s) rfl ?_
    rw [hcool, thermalResume_of_cool hv]

end Sys2Proof.Laws
end

section
/-!
SUPPORT. A `trd` of a tile that an operation owns into a register whose last result is not ready (R155, R294).
-/

namespace Sys2Proof.Laws

open Sys2Proof.Machine

/-- The form of a `trd` of one register, v4, from row 0 of tile name 7, TYPE F32. -/
def trdForm : Multi := .ext { Rules.plainExt 4 7 0 10 with bm := 2 }

/-- The group whose name 7 is tile 0, and to whose v4 a scoreboarded result comes at clock 200 in lane 0. -/
def pendingGroup : Group :=
  { nt := 8, bundles := [{ mask := 1 }], tiles := [(7, [0], 10)],
    pend := [{ file := .v, reg := 4, lanes := 1, olds := [0], ready := 200, soft := true }] }

/-- The bundle of lane 0 issues at clock 100; operation 3, a `tclr`, owns tile 0. -/
def pendingState : State :=
  { groups := [(0, pendingGroup)], cur := { lanes := 1, clock := 100 }, nextId := 10,
    ops := [(3, { id := 3, core := 0, slot := 0, tenant := 0, ready := true, kind := .mat [0] .clear })] }

theorem issues_pending : Issues 0xa2 Rules.plainHdr (.multi trdForm) pendingGroup pendingState where
  seq := rfl
  here := rfl
  lanes := by decide
  words := by decide
  ready := by decide
  free := by decide
  early := rfl
  sound := by decide

theorem slotOk_pending : Rules.slotOk pendingState := by
  unfold Rules.slotOk
  decide

/-- Whether a result is still to come to a register of group 0. -/
def stillPending (t : State) : Bool := ((t.group 0).map fun g => g.pend.any fun e => e.reg = 4).getD false

/-- The read supersedes the result that is to come: it is never written (R155). -/
theorem exec_trd_supersedes :
    ∃ t, exec (.trd Rules.plainHdr trdForm) pendingState = .next t ∧ stillPending t = false := by
  refine ⟨_, rfl, ?_⟩
  decide +kernel

/-- Refutes O26 at its first clause, a `trd` of a tile that is owned: the clause marks the destinations as being written by the read, and
leaves the results that are still to come to them. By R155 a later-issued write of a register supersedes those (`Group.markV`). -/
theorem not_tilesAndRows : ¬ Obligations.TilesAndRows := by
  unfold Obligations.TilesAndRows
  intro h
  obtain ⟨hread, -⟩ := h (.trd Rules.plainHdr trdForm) 0xa2 Rules.plainHdr (.multi trdForm) pendingGroup pendingState rfl issues_pending
    slotOk_pending
  obtain ⟨-, -, hposted⟩ := hread rfl (by decide +kernel) [0] rfl
  obtain ⟨t, hnext, hgone⟩ := exec_trd_supersedes
  have hstate := Host.Outcome.next.inj (hnext.symm.trans (hposted (by decide +kernel) (by decide +kernel)))
  rw [hstate] at hgone
  exact absurd hgone (by decide +kernel)

end Sys2Proof.Laws
end

section
/-!
SUPPORT. The dispatch of an EVICT event whose snapshot has a granule in error (R305, R390, R432).
-/

namespace Sys2Proof.Laws

open Sys2Proof.Machine

/-- An EVICT event of line 0: granule 3 of its snapshot was in error, its record in the queue is sound. -/
def spoiltEvict : SliceEvent := { kind := 2, tenant := 0, line := 0, pline := 0, snap := List.replicate 128 0, snapBad := [3] }

/-- A range of one line, whose events enter at the handler's first word. -/
def evictRange : HRange := { vbase := 0, vlen := 128, ents := [0, 0, 0, 0], budget := 128 }

/-- That event stands in the queue of slice 0, whose contexts are free; tenant 0 handles its line. -/
def evictState : State :=
  { slices := [(0, { queue := [spoiltEvict] })], handlers := [(0, { ranges := [evictRange], size := 4 })] }

/-- The granules in error that context 0 of slice 0 knows of. -/
def granulesInError (t : State) : List Nat := ((t.slice 0).ctx 0).snapBad

/-- The invocation knows the granules of its snapshot that are in error. -/
theorem exec_dispatch_snapBad : ∃ t, exec .handlerDispatch evictState = .next t ∧ granulesInError t = [3] := by
  refine ⟨_, rfl, ?_⟩
  decide +kernel

/-- Refutes O43 at its second clause, the dispatch of an event that matches a range: the context that the clause describes knows no granule
of its snapshot as being in error, where an EVICT event brings those of its line (R432), at which `hlrd` takes ECC (R390). -/
theorem not_handlerEvents : ¬ Obligations.HandlerEvents := by
  unfold Obligations.HandlerEvents
  intro h
  obtain ⟨hdispatch, -⟩ := h evictState
  obtain ⟨-, hstarts⟩ := hdispatch 0 0 spoiltEvict (by decide +kernel) (by decide +kernel)
  obtain ⟨hsound, -⟩ := hstarts 0 evictRange 0 (by decide +kernel)
  obtain ⟨t, hnext, hknows⟩ := exec_dispatch_snapBad
  have hstate := Host.Outcome.next.inj (hnext.symm.trans (hsound rfl))
  rw [hstate] at hknows
  exact absurd hknows (by decide +kernel)

end Sys2Proof.Laws
end

section
/-!
SUPPORT. Matrix commands (R286, R288, R292, R293, R295): what each posts once its checks let it through, and one issue of each.
-/

namespace Sys2Proof.Laws

open Sys2Proof.Machine

/-- `mma` once its parameters are known: on fresh tiles that read +0, or on those of its name (R292). -/
def mmaPosts (i : Iss) (g : Group) (s : State) (m : Mma) : Option State :=
  let cl := clusterOf (i.k / 128)
  let typ := if m.atype = 11 then 11 else 10
  if i.o.opt = 1 then
    if tableFull s cl then none
    else (bindTiles i i.o.d typ s).map fun (ts, s) => postOp i g 2 (.mat ts (.mma m)) (zeroTiles cl ts s)
  else match g.tile i.o.d with
    | some (ts, t) =>
      if t ≠ typ then matIllegal i 0x15 s else if tableFull s cl then none else some (postOp i g 2 (.mat ts (.mma m)) s)
    | none => matIllegal i 0x15 s

theorem opOf_mma (h : Hdr) (f : Form) (s : State) : opOf 0xa0 h f s = opMma h f s := rfl
theorem opOf_tclr (h : Hdr) (f : Form) (s : State) : opOf 0xa1 h f s = opTclr h f s := rfl
theorem opOf_tst (h : Hdr) (f : Form) (s : State) : opOf 0xa4 h f s = opTst h f s := rfl
theorem opOf_tld (h : Hdr) (f : Form) (s : State) : opOf 0xa5 h f s = opTld h f s := rfl
theorem opOf_qdual (h : Hdr) (f : Form) (s : State) : opOf 0xa7 h f s = opQdual h f s := rfl

section
variable {x : Iss} {g : Group} {b : State}

theorem mmaPosts_fresh {m : Mma} {ts : List Nat} {t : State} (hopt : x.o.opt = 1) (hroom : tableFull b (clusterOf (x.k / 128)) = false)
    (hbind : bindTiles x x.o.d (if m.atype = 11 then 11 else 10) b = some (ts, t)) :
    mmaPosts x g b m = some (postOp x g 2 (.mat ts (.mma m)) (zeroTiles (clusterOf (x.k / 128)) ts t)) := by
  rw [mmaPosts]
  dsimp only
  rw [if_pos hopt, hroom, if_neg Bool.false_ne_true, hbind]
  rfl

theorem mmaPosts_held {m : Mma} {ts : List Nat} (hopt : x.o.opt ≠ 1) (hroom : tableFull b (clusterOf (x.k / 128)) = false)
    (htile : g.tile x.o.d = some (ts, if m.atype = 11 then 11 else 10)) :
    mmaPosts x g b m = some (postOp x g 2 (.mat ts (.mma m)) b) := by
  rw [mmaPosts]
  dsimp only
  rw [if_neg hopt, htile]
  dsimp only
  rw [if_neg (not_not_intro rfl), hroom, if_neg Bool.false_ne_true]

end

section
variable {i : Instr} {h : Hdr} {f : Form} {g : Group} {s : State}

/-- An `mma` whose parameter block lies at rest in its scratchpad, and holds a command, goes on to its tiles. -/
theorem exec_mma (hv : view i = some (0xa0, h, f)) (hi : Issues 0xa0 h f g s) (hslot : Rules.slotOk s)
    (hfree : Rules.memoryFree 0xa0 h f g s) {core off : Nat} {bs : List Byte} {m : Mma} {t : State} :
    let x := issueOf 0xa0 h f g s
    let b := s.begun g
    let word := (g.readS s.cur.clock x.o.a).toNat
    word % 64 = 0 → areaOf b g s.cur.unit word 64 = .ok (core, off) → (staleEntry b g.block (blockReq x core off)).isNone →
      scratchBad b g.block core off 64 = false → paramBlock x g b core off = some bs → mmaCmd x g b bs = .ok m →
      mmaPosts x g b m = some t → exec i s = .next (issued g h s t) := by
  intro x b word hal harea hrest hsound hparam hcmd hposts
  rw [← key_div hslot] at harea
  have hstale : (staleEntry b g.block (blockReq x core off)).isSome = false := by rw [Option.isNone_iff_eq_none.1 hrest]; rfl
  refine exec_of_effect hv (by decide) (opOf_mma h f s) hi ((memEff_of_free _ hfree).trans ((if_neg (not_not_intro hal)).trans ?_))
  erw [harea]
  dsimp only
  rw [if_neg (by rw [hstale]; decide), hparam]
  dsimp only
  rw [if_neg (by rw [hsound]; decide), hcmd]
  exact hposts

/-- `tld` of an area of its scratchpad takes fresh tiles. -/
theorem exec_tld (hv : view i = some (0xa5, h, f)) (hi : Issues 0xa5 h f g s) (hfree : Rules.memoryFree 0xa5 h f g s)
    {core off pitch : Nat} {ts : List Nat} {t : State} :
    let x := issueOf 0xa5 h f g s
    tileArea x g (s.begun g) = .ok (core, off, pitch) →
      bindTiles x x.o.d (if x.o.typ = 11 then 11 else 10) (s.begun g) = some (ts, t) →
      exec i s = .next (issued g h s (postOp x g 2 (.mat ts (.load core off pitch x.o.typ)) t)) := by
  intro x harea hbind
  refine exec_of_effect hv (by decide) (opOf_tld h f s) hi ((memEff_of_free _ hfree).trans ?_)
  dsimp only
  rw [harea]
  exact congrArg (Option.map _) hbind

/-- `tst` of a tile to an area of its scratchpad. -/
theorem exec_tst (hv : view i = some (0xa4, h, f)) (hi : Issues 0xa4 h f g s) (hslot : Rules.slotOk s)
    (hfree : Rules.memoryFree 0xa4 h f g s) {core off pitch fmt : Nat} {ts : List Nat} {ctr : Option Nat} :
    let x := issueOf 0xa4 h f g s
    g.tile x.o.d = some (ts, fmt) → storeType fmt x.o.typ = true → tileArea x g (s.begun g) = .ok (core, off, pitch) →
      tileCtr (s.begun g) g (g.readS s.cur.clock (x.o.a + 1)).toNat = .ok ctr →
      exec i s = .next (Rules.posts h g s 2 (.mat ts (.store core off pitch x.o.typ (rmOf x.o.rm g.fpctl) ctr))) := by
  intro x htile htype harea hctr
  refine exec_posts hv hi hslot hfree (by decide) (opOf_tst h f s) ?_
  rw [htile]
  dsimp only
  rw [htype, harea]
  dsimp only
  erw [hctr]
  rfl

/-- `qdual` of a tile to its aligned areas. -/
theorem exec_qdual (hv : view i = some (0xa7, h, f)) (hi : Issues 0xa7 h f g s) (hslot : Rules.slotOk s)
    (hfree : Rules.memoryFree 0xa7 h f g s) {ts : List Nat} {row col : Option ((Nat × Nat) × Nat × Nat)} {ctr : Option Nat} :
    let x := issueOf 0xa7 h f g s
    let r := (g.readS s.cur.clock x.o.a).toNat
    let c := (g.readS s.cur.clock (x.o.a + 1)).toNat
    g.tile x.o.d = some (ts, 10) → x.o.opt ≠ 0 → r % 128 = 0 → r / 2 ^ 32 % 128 = 0 → c % 128 = 0 → c / 2 ^ 32 % 128 = 0 →
      quantArea x g (s.begun g) (bitAt x.o.opt 0) r = .ok row → quantArea x g (s.begun g) (bitAt x.o.opt 1) c = .ok col →
      tileCtr (s.begun g) g (g.readS s.cur.clock (x.o.a + 2)).toNat = .ok ctr →
      exec i s = .next (Rules.posts h g s 2 (.mat ts (.quant x.o.typ x.o.inf row col ctr))) := by
  intro x r c htile hopt hr hr' hc hc' hrow hcol hctr
  refine exec_posts hv hi hslot hfree (by decide) (opOf_qdual h f s) ?_
  dsimp only
  rw [htile]
  refine (if_neg ?_).trans ?_
  · rw [decide_eq_false hopt]
    erw [hr, hr', hc, hc']
    decide
  · erw [hrow, hcol, hctr]

end

/-- Settles O25: each command is one post, which its checks and its tiles let through. -/
theorem matrixCommand : Obligations.MatrixCommand := by
  unfold Obligations.MatrixCommand
  intro i opc h f g s hv hi hslot hfree x o b cl a
  refine ⟨?mma, ?tclr, ?tst, ?tld, ?qdual⟩
  case mma =>
    rintro rfl core off bs m hal harea hrest hsound hparam hcmd hroom typ
    have hfree := hfree (by decide)
    have hcl : clusterOf (x.k / 128) = cl := congrArg clusterOf (key_div hslot)
    refine ⟨fun hopt ts t hbind => ?_, fun hopt ts htile => ?_⟩
    · exact exec_mma hv hi hslot hfree hal harea hrest hsound hparam hcmd (hcl ▸ mmaPosts_fresh hopt (hcl ▸ hroom) hbind)
    · refine (exec_mma hv hi hslot hfree hal harea hrest hsound hparam hcmd (mmaPosts_held hopt (hcl ▸ hroom) htile)).trans ?_
      rw [postOp_begun hslot, issued_setGroup_of]
      rfl
  case tclr =>
    rintro rfl ts t hbind
    exact exec_of_effect hv (by decide) (opOf_tclr h f s) hi (congrArg (Option.map _) hbind)
  case tst =>
    rintro rfl ts fmt core off pitch ctr htile htype harea hctr
    exact exec_tst hv hi hslot (hfree (by decide)) htile htype harea hctr
  case tld =>
    rintro rfl core off pitch ts t harea hbind
    exact exec_tld hv hi (hfree (by decide)) harea hbind
  case qdual =>
    rintro rfl ts row col ctr htile hopt c hr hr' hc hc' hrow hcol hctr
    exact exec_qdual hv hi hslot (hfree (by decide)) htile hopt hr hr' hc hc' hrow hcol hctr

end Sys2Proof.Laws
end

section
/-!
SUPPORT. A trap whose lanes have one fault in common (R378 to R380, R386): how its list of faults is sorted, its record, and the lanes
that enter trap mode.
-/

namespace Sys2Proof.Laws

open Sys2Proof.Machine

/-! ## The faults, sorted -/

theorem maskOf_lanesOf (m : W64) : maskOf (lanesOf m) = m := by
  refine BitVec.eq_of_getLsbD_eq fun l hl => ?_
  rw [getLsbD_maskOf, Bool.eq_iff_iff, decide_eq_true_iff, mem_lanesOf]
  exact and_iff_right hl

theorem lanesOf_ne_nil {m : W64} (hm : m ≠ 0) : lanesOf m ≠ [] := fun hnil => hm (by rw [← maskOf_lanesOf m, hnil]; rfl)

/-- Lanes that differ have one fault each. -/
theorem firstFaults_of_nodup {fs : List LaneFault} (h : (fs.map LaneFault.lane).Nodup) : firstFaults fs = fs := by
  induction fs with
  | nil => rfl
  | cons f fs ih =>
    rw [List.map_cons, List.nodup_cons] at h
    rw [firstFaults, ih h.2, List.filter_eq_self.2 fun x hx => decide_eq_true fun (heq : x.lane = f.lane) => h.1 (heq ▸ List.mem_map_of_mem hx)]

/-- Faults of one cause are one list. -/
theorem byCause_of_same {fs : List LaneFault} {cause : Nat} (hne : fs ≠ []) (h : ∀ f ∈ fs, f.cause = cause) : byCause fs = [fs] := by
  induction fs with
  | nil => exact absurd rfl hne
  | cons f fs ih =>
    have hf : f.cause = cause := h f List.mem_cons_self
    cases fs with
    | nil => rfl
    | cons f' fs =>
      have hrest : byCause (f' :: fs) = [f' :: fs] := ih (List.cons_ne_nil _ _) fun x hx => h x (List.mem_cons_of_mem _ hx)
      have hsame : ((f' :: fs).any fun x => x.cause = f.cause) = true := by
        rw [List.any_cons, hf, h f' (List.mem_cons_of_mem _ List.mem_cons_self), decide_eq_true rfl, Bool.true_or]
      rw [byCause, hrest, List.find?_cons, hsame]
      exact congrArg (fun x => [x]) (if_pos hsame)

section
variable {m : W64} {cause sub pos : Nat} {info : W64}

theorem map_lane_sameFault : (sameFault m cause sub pos info).map LaneFault.lane = lanesOf m := by
  rw [sameFault, List.map_map]
  exact List.map_id _

/-- The lower of each two faults, from some fault on, is one of them. -/
theorem lowestFault_mem (fs : List LaneFault) (x : LaneFault) : fs.foldl (fun m f => if f.lane < m.lane then f else m) x ∈ x :: fs := by
  induction fs generalizing x with
  | nil => exact List.mem_singleton_self x
  | cons f fs ih =>
    have hkept : (if f.lane < x.lane then f else x) ∈ [x, f] := by split <;> simp
    rw [List.foldl_cons]
    have hlow := ih (if f.lane < x.lane then f else x)
    simp only [List.mem_cons, List.not_mem_nil, or_false] at hkept hlow ⊢
    grind

/-- The lowest lane of the same fault on every lane has that fault. -/
theorem lowestFault_sameFault (hm : m ≠ 0) :
    let fs := sameFault m cause sub pos info
    ∃ l, fs.foldl (fun m f => if f.lane < m.lane then f else m) (fs.headD { lane := 0, cause := 0 }) =
      { lane := l, cause, sub, pos, info } := by
  intro fs
  obtain ⟨f, rest, hfs⟩ : ∃ f rest, fs = f :: rest := List.exists_cons_of_ne_nil fun hnil => lanesOf_ne_nil hm (List.map_eq_nil_iff.1 hnil)
  have hmem : fs.foldl (fun m f => if f.lane < m.lane then f else m) f ∈ fs := by
    rcases List.mem_cons.1 (lowestFault_mem fs f) with heq | hin
    · rw [heq, hfs]
      exact List.mem_cons_self
    · exact hin
  obtain ⟨l, -, heq⟩ := List.mem_map.1 hmem
  exact ⟨l, by rw [heq, hfs]; rfl⟩

/-- The record of the same fault on every lane of a mask (R386). -/
theorem faultRecord_sameFault (hm : m ≠ 0) (k : Nat) (g : Group) (c : TrapCtx) :
    faultRecord k g c false (sameFault m cause sub pos info) =
      { cause, trapped := true, write := c.write, defer := c.defer, src := 0, unit := k % 128 * 128 + k / 128 % 128, laneMask := m,
        pc := c.pc, addr := info
        info1 := if c.defer then w64 (2 ^ 63 + c.pc.toNat % 2 ^ 63) else w64 (sub * 2 ^ 40 + pos * 2 ^ 32 + c.word0.toNat)
        tenant := g.tenant } := by
  obtain ⟨l, hl⟩ := @lowestFault_sameFault m cause sub pos info hm
  rw [faultRecord, hl, map_lane_sameFault, maskOf_lanesOf]
  rfl

/-! ## The lanes -/

theorem setAt_eq_set {α : Type} (xs : List α) (n : Nat) (y : α) : setAt xs n y = xs.set n y := by
  induction xs generalizing n with
  | nil => rfl
  | cons x xs ih =>
    cases n with
    | zero => rfl
    | succ n => rw [setAt, List.set_cons_succ, ih]

@[simp] theorem length_updLane (g : Group) (k : Nat) (F : Lane → Lane) : (g.updLane k F).lanes.length = g.lanes.length := by
  rw [Group.updLane, setAt_eq_set, List.length_set]

theorem lane_updLane (g : Group) (k : Nat) (F : Lane → Lane) (l : Nat) (hl : l < g.lanes.length) :
    (g.updLane k F).lane l = if l = k then F (g.lane l) else g.lane l := by
  rw [Group.updLane, setAt_eq_set, Group.lane, List.getD_eq_getElem _ _ (by rwa [List.length_set]), List.getElem_set]
  by_cases h : k = l
  · rw [if_pos h, if_pos h.symm, h]
  · rw [if_neg h, if_neg (Ne.symm h)]
    exact (List.getD_eq_getElem _ _ hl).symm

/-- A group whose lanes take their faults, one after the other (R378). -/
def entered (c : TrapCtx) (fault : Nat → LaneFault) (ls : List Nat) (g : Group) : Group :=
  (ls.map fault).foldl (fun g f => g.updLane f.lane (enterLane g c f)) g

section
variable {c : TrapCtx} {fault : Nat → LaneFault}

theorem entered_shape (ls : List Nat) (g : Group) :
    ∃ lanes, entered c fault ls g = { g with lanes } ∧ lanes.length = g.lanes.length := by
  induction ls generalizing g with
  | nil => exact ⟨_, rfl, rfl⟩
  | cons k ls ih =>
    obtain ⟨lanes, heq, hlen⟩ := ih (g.updLane (fault k).lane (enterLane g c (fault k)))
    exact ⟨lanes, heq, hlen.trans (length_updLane _ _ _)⟩

/-- Each lane of the list takes its fault, and no other lane changes. -/
theorem lane_entered {ls : List Nat} (hfault : ∀ l, (fault l).lane = l) (hls : ls.Nodup) {g : Group} {l : Nat}
    (hl : l < g.lanes.length) :
    (entered c fault ls g).lane l = if l ∈ ls then enterLane g c (fault l) (g.lane l) else g.lane l := by
  induction ls generalizing g with
  | nil => exact (if_neg List.not_mem_nil).symm
  | cons k ls ih =>
    obtain ⟨hk, hls⟩ := List.nodup_cons.1 hls
    have hrest := ih (g := g.updLane (fault k).lane (enterLane g c (fault k))) hls (by rwa [length_updLane])
    rw [lane_updLane _ _ _ _ hl] at hrest
    refine hrest.trans ?_
    by_cases h : l = k
    · subst h
      rw [if_neg hk, if_pos (hfault l).symm, if_pos List.mem_cons_self]
    · have hother : l ≠ (fault k).lane := fun heq => h (heq.trans (hfault k))
      rw [if_neg hother]
      exact if_congr ((List.mem_cons.trans (or_iff_right h)).symm) rfl rfl

end

/-! ## The trap -/

/-- The group as its lanes of a mask enter trap mode with one fault in common. -/
def trappedBy (g : Group) (c : TrapCtx) (m : W64) (cause sub pos : Nat) (info : W64) : Group :=
  let x := (entered c (fun l => { lane := l, cause, sub, pos, info }) (lanesOf m) g).unbundle m
  { x with bundles := x.bundles ++ [{ mask := m, readyAt := c.readyAt }] }

theorem enterTrap_sameFault (hm : m ≠ 0) (g : Group) (c : TrapCtx) :
    g.enterTrap c (sameFault m cause sub pos info) = trappedBy g c m cause sub pos info := by
  rw [Group.enterTrap, map_lane_sameFault, maskOf_lanesOf]
  exact if_neg hm

/-- Lanes outside trap mode that take one fault in common: they enter trap mode, and one record is posted, but for SWTRAP. -/
theorem takeTrap_sameFault (hm : m ≠ 0) {k : Nat} {c : TrapCtx} {g : Group} {s : State} (hg : s.group k = some g)
    (hlive : m &&& g.exited = 0) (hout : ∀ l, m.getLsbD l → (g.lane l).trap = false) :
    let fs := sameFault m cause sub pos info
    let t := s.setGroup k (trappedBy g c m cause sub pos info)
    takeTrap k c fs s = if cause = 0x0e then t else postRec (faultRecord k g c false fs) t := by
  intro fs t
  have hfirst : firstFaults fs = fs := firstFaults_of_nodup (by
    rw [map_lane_sameFault]
    exact (lanesOf_ascending m).imp Nat.ne_of_lt)
  have hlane : ∀ f ∈ fs, m.getLsbD f.lane = true ∧ f.cause = cause := by
    intro f hf
    obtain ⟨l, hl, rfl⟩ := List.mem_map.1 hf
    exact ⟨mem_lanesOf.1 hl, rfl⟩
  have hstays (f : LaneFault) (hf : f ∈ fs) : g.exited.getLsbD f.lane = false := by
    have hbit := congrArg (fun x => x.getLsbD f.lane) hlive
    rw [BitVec.getLsbD_and, (hlane f hf).1, Bool.true_and] at hbit
    exact hbit.trans BitVec.getLsbD_zero
  have hne : fs ≠ [] := fun hnil => lanesOf_ne_nil hm (List.map_eq_nil_iff.1 hnil)
  have hliveAll : fs.filter (fun f => !g.exited.getLsbD f.lane) = fs :=
    List.filter_eq_self.2 fun f hf => by rw [hstays f hf]; rfl
  have hgone : fs.filter (fun f => g.exited.getLsbD f.lane) = [] :=
    List.filter_eq_nil_iff.2 fun f hf => by rw [hstays f hf]; decide
  have hinTrap : fs.filter (fun f => (g.lane f.lane).trap) = [] :=
    List.filter_eq_nil_iff.2 fun f hf => by rw [hout _ (hlane f hf).1]; decide
  have hfresh : fs.filter (fun f => !(g.lane f.lane).trap) = fs :=
    List.filter_eq_self.2 fun f hf => by rw [hout _ (hlane f hf).1]; rfl
  have hsw : (fs.any fun f => f.cause = cSWTRAP) = decide (cause = 0x0e) := by
    obtain ⟨f, hf⟩ := List.exists_mem_of_ne_nil fs hne
    rw [Bool.eq_iff_iff, List.any_eq_true, decide_eq_true_iff]
    exact ⟨fun ⟨f, hf, h⟩ => (hlane f hf).2 ▸ of_decide_eq_true h, fun h => ⟨f, hf, decide_eq_true ((hlane f hf).2.trans h)⟩⟩
  rw [takeTrap, hg]
  dsimp only
  rw [hfirst, hliveAll, hgone, hinTrap, hfresh, byCause_of_same hne fun f hf => (hlane f hf).2, enterTrap_sameFault hm]
  rw [List.foldl_cons, List.foldl_nil, hsw]
  show (if decide (cause = 0x0e) = true then t else postRec (faultRecord k g c false fs) t) = _
  simp only [decide_eq_true_eq]

end

/-- Settles O10: the faults are of one cause, one on each lane. -/
theorem trapEntry : Obligations.TrapEntry := by
  unfold Obligations.TrapEntry
  intro k c cause sub pos info m g s hg hlen hm hlive hout info1 record
  obtain ⟨lanes, hshape, -⟩ := entered_shape (c := c) (fault := fun l => { lane := l, cause, sub, pos, info }) (lanesOf m) g
  have htrapped : trappedBy g c m cause sub pos info =
      { g with lanes, bundles := (g.unbundle m).bundles ++ [{ mask := m, readyAt := c.readyAt }] } := by
    rw [trappedBy, hshape]
    rfl
  refine ⟨trappedBy g c m cause sub pos info, ?taken, ?rest, ?pend, ?score, ?bad, ?own, ?apart, ?lane⟩
  case taken =>
    rw [takeTrap_sameFault hm hg hlive hout, faultRecord_sameFault hm]
  case own => exact List.mem_append_right _ (List.mem_singleton_self _)
  case apart =>
    intro b hb
    rcases List.mem_append.1 hb with hold | hnew
    · exact .inr (unbundle_apart _ m b hold)
    · exact .inl (List.mem_singleton.1 hnew)
  case lane =>
    intro l hl
    have hlane := lane_entered (c := c) (fault := fun l => { lane := l, cause, sub, pos, info }) (fun _ => rfl)
      ((lanesOf_ascending m).imp Nat.ne_of_lt) (hlen.symm ▸ hl : l < g.lanes.length)
    exact hlane.trans (if_congr mem_lanesOf rfl rfl)
  case rest => rw [htrapped]; rfl
  all_goals rw [htrapped]

end Sys2Proof.Laws
end

section
/-!
SUPPORT. Hoists (R329, R340 to R342, R354, R434, R440, R446): what becomes of a packet that arrives, and of an arrival or a copy that is
struck, sent or late: one rule per case.
-/

namespace Sys2Proof.Laws

open Sys2Proof.Machine

/-! ## Arrivals (R329, R340, R434) -/

/-- A packet of a hoist is in custody. -/
def heldHoist (x : Input) (s : State) : State := { heardFrom (fld x.word 15 0) s with custody := s.custody ++ [x] }

section
variable {x : Input} {g : Hoist} {s t : State}

theorem hoistArrival_behind (hg : x.hoist = some g) (hbehind : s.custody.any (sameHoist x) = true) : hoistArrival x s = heldHoist x s := by
  rw [hoistArrival, hg]
  exact if_pos hbehind

/-- A packet of a hoist that no other is held before is performed, or held. -/
theorem hoistArrival_first (hg : x.hoist = some g) (hfirst : s.custody.any (sameHoist x) = false) :
    hoistArrival x s = (hoistTake x g s).getD (heldHoist x s) := by
  rw [hoistArrival, hg]
  exact if_neg (Bool.eq_false_iff.1 hfirst)

theorem hoistArrival_taken (hg : x.hoist = some g) (hfirst : s.custody.any (sameHoist x) = false) (htake : hoistTake x g s = some t) :
    hoistArrival x s = t := by
  rw [hoistArrival_first hg hfirst, htake, Option.getD_some]

theorem hoistArrival_held (hg : x.hoist = some g) (hfirst : s.custody.any (sameHoist x) = false) (htake : hoistTake x g s = none) :
    hoistArrival x s = heldHoist x s := by
  rw [hoistArrival_first hg hfirst, htake, Option.getD_none]

/-- The refusal of a packet of a hoist: a notice over its circuit or its station (R434). -/
def refuseHoist (x : Input) (h : Hoist) (n : Nat) (s : State) : State :=
  let src := fld x.word 15 0
  let u := heardFrom src s
  if x.flag then { u with net := u.net ++ [.notice src x.idx n] } else notify (hoistStation s.regs.nodeId h.comm) src h.tc x.idx n u

/-- The slot or the size of a packet's hoist is none that the communicator can have. -/
def outside (x : Input) (h : Hoist) (c : Comm) : Bool :=
  c.nroute ≤ x.aux || h.pens.isEmpty || 6 < h.pens.length || arrivalBytes h = 0 || 65536 < arrivalBytes h

/-- What an arriving packet says of its hoist. -/
def arrivalOf (x : Input) (h : Hoist) (tenant : Nat) (s : State) : Arrival :=
  { id := s.nextId, slot := x.aux, src := fld x.word 15 0, circ := x.flag, tags := [x.idx], nseg := bitsOf x.unit 7 4 + 1,
    msgs := [bitsOf x.unit 3 0], h := { h with tenant, payload := [] } }

/-- An arrival is new at its communicator. -/
def addArrival (a : Arrival) (c : Comm) : Comm := { c with arrivals := c.arrivals ++ [a] }

/-- An arrival of a communicator is replaced. -/
def putArrival (a : Arrival) (c : Comm) : Comm := { c with arrivals := c.arrivals.map fun b => if b.id = a.id then a else b }

/-- A whole hoist that came over a circuit (R354). -/
def circuitTake (x : Input) (h : Hoist) (tenant : Nat) (c : Comm) (s : State) : Option State :=
  if h.payload.length ≠ arrivalBytes h then some (refuseHoist x h 7 s)
  else if c.holds x.aux h.seq then none
  else stagePart (commKey tenant h.comm) c x.aux 0 h
    (addArrival { arrivalOf x h tenant s with nseg := 1, msgs := [0], got := List.range (ceilDiv (arrivalBytes h) 256) })
    (heardFrom (fld x.word 15 0) s).fresh.2

/-- The message of a segment (R340). -/
def messageTake (x : Input) (h : Hoist) (tenant : Nat) (c : Comm) (s : State) : Option State :=
  let u := heardFrom (fld x.word 15 0) s
  match c.arrival (fld x.word 15 0) x.aux h.seq with
  | some a => some (u.updComm (commKey tenant h.comm)
      (putArrival { a with msgs := insertNat (bitsOf x.unit 3 0) a.msgs, tags := a.tags ++ [x.idx] }))
  | none => if c.holds x.aux h.seq then none else some (u.fresh.2.updComm (commKey tenant h.comm) (addArrival (arrivalOf x h tenant s)))

/-- A write packet of a segment (R340). -/
def partTake (x : Input) (h : Hoist) (tenant : Nat) (c : Comm) (s : State) : Option State :=
  let src := fld x.word 15 0
  let off := fld x.word 63 16
  if 256 < h.payload.length || off % 256 ≠ 0 || arrivalBytes h < off + h.payload.length then some (refuseHoist x h 7 s)
  else match c.arrival src x.aux h.seq with
    | some a =>
      if !a.msgs.contains (off / 4096) then none
      else (stagePart (commKey tenant h.comm) c x.aux off h (putArrival { a with got := insertNat (off / 256) a.got }) (heardFrom src s)).map
        (respond (hoistStation s.regs.nodeId h.comm) src h.tc x.idx [])
    | none => none

theorem hoistTake_noTenant (h : tenantOf (heardFrom (fld x.word 15 0) s) (hoistWire g).tenant = none) :
    hoistTake x g s = some (refuseHoist x (hoistWire g) 5 s) := by
  rw [hoistTake]
  dsimp only
  rw [h]
  rfl

section
variable {tenant : Nat} (htenant : tenantOf (heardFrom (fld x.word 15 0) s) (hoistWire g).tenant = some tenant)
include htenant

theorem hoistTake_noComm (hcomm : getN (heardFrom (fld x.word 15 0) s).comms (commKey tenant (hoistWire g).comm) = none) :
    hoistTake x g s = some (refuseHoist x (hoistWire g) 8 s) := by
  rw [hoistTake]
  dsimp only
  rw [htenant]
  dsimp only
  rw [hcomm]
  rfl

section
variable {c : Comm} (hcomm : getN (heardFrom (fld x.word 15 0) s).comms (commKey tenant (hoistWire g).comm) = some c)
include hcomm

theorem hoistTake_failed (hfailed : c.failed = true) : hoistTake x g s = some (refuseHoist x (hoistWire g) 8 s) := by
  rw [hoistTake]
  dsimp only
  rw [htenant]
  dsimp only
  rw [hcomm]
  exact if_pos hfailed

/-- A hoist of a slot or size that the communicator cannot have is refused (assumption 31). -/
theorem hoistTake_outside (hlive : c.failed = false) (hout : outside x (hoistWire g) c = true) :
    hoistTake x g s = some (refuseHoist x (hoistWire g) 7 s) := by
  rw [hoistTake]
  dsimp only
  rw [htenant]
  dsimp only
  rw [hcomm]
  exact (if_neg (Bool.eq_false_iff.1 hlive)).trans (if_pos hout)

/-- A packet for a communicator that has not failed: of a circuit, a message or a write packet. -/
theorem hoistTake_within (hlive : c.failed = false) (hin : outside x (hoistWire g) c = false) :
    hoistTake x g s =
      if x.flag then circuitTake x (hoistWire g) tenant c s
      else if (hoistWire g).payload.isEmpty then messageTake x (hoistWire g) tenant c s
      else partTake x (hoistWire g) tenant c s := by
  rw [hoistTake]
  dsimp only
  rw [htenant]
  dsimp only
  rw [hcomm]
  exact (if_neg (Bool.eq_false_iff.1 hlive)).trans (if_neg (Bool.eq_false_iff.1 hin))

end

end

end

section
variable {x : Input} {h : Hoist} {tenant : Nat} {c : Comm} {s v : State} {a : Arrival}

theorem outside_iff : outside x h c = true ↔
    c.nroute ≤ x.aux ∨ h.pens = [] ∨ 6 < h.pens.length ∨ arrivalBytes h = 0 ∨ 65536 < arrivalBytes h := by
  simp only [outside, Bool.or_eq_true, decide_eq_true_eq, List.isEmpty_iff, or_assoc]

theorem circuitTake_short (hlen : h.payload.length ≠ arrivalBytes h) : circuitTake x h tenant c s = some (refuseHoist x h 7 s) :=
  if_pos hlen

theorem circuitTake_full (hlen : h.payload.length = arrivalBytes h) (hholds : c.holds x.aux h.seq = true) :
    circuitTake x h tenant c s = none :=
  (if_neg (not_not_intro hlen)).trans (if_pos hholds)

theorem circuitTake_staged (hlen : h.payload.length = arrivalBytes h) (hfree : c.holds x.aux h.seq = false) {pa : Nat} {hc : Bool}
    (hstage : stagingAt c x.aux h.seq 0 (arrivalBytes h) (heardFrom (fld x.word 15 0) s).fresh.2 = (some (pa, hc), v)) :
    circuitTake x h tenant c s = some ((performBytes pa h.payload none hc v).updComm (commKey tenant h.comm)
      (addArrival { arrivalOf x h tenant s with nseg := 1, msgs := [0], got := List.range (ceilDiv (arrivalBytes h) 256) })) := by
  refine ((if_neg (not_not_intro hlen)).trans (if_neg (Bool.eq_false_iff.1 hfree))).trans ?_
  rw [stagePart, hlen, hstage]

theorem messageTake_full (hnew : c.arrival (fld x.word 15 0) x.aux h.seq = none) (hholds : c.holds x.aux h.seq = true) :
    messageTake x h tenant c s = none := by
  rw [messageTake, hnew]
  exact if_pos hholds

theorem messageTake_new (hnew : c.arrival (fld x.word 15 0) x.aux h.seq = none) (hfree : c.holds x.aux h.seq = false) :
    messageTake x h tenant c s =
      some ((heardFrom (fld x.word 15 0) s).fresh.2.updComm (commKey tenant h.comm) (addArrival (arrivalOf x h tenant s))) := by
  rw [messageTake, hnew]
  exact if_neg (Bool.eq_false_iff.1 hfree)

theorem messageTake_next (ha : c.arrival (fld x.word 15 0) x.aux h.seq = some a) :
    messageTake x h tenant c s = some ((heardFrom (fld x.word 15 0) s).updComm (commKey tenant h.comm)
      (putArrival { a with msgs := insertNat (bitsOf x.unit 3 0) a.msgs, tags := a.tags ++ [x.idx] })) := by
  rw [messageTake, ha]

/-- A write packet that no buffer of its hoist can have. -/
def partOutside (x : Input) (h : Hoist) : Bool :=
  256 < h.payload.length || fld x.word 63 16 % 256 ≠ 0 || arrivalBytes h < fld x.word 63 16 + h.payload.length

theorem partOutside_iff : partOutside x h = true ↔
    256 < h.payload.length ∨ fld x.word 63 16 % 256 ≠ 0 ∨ arrivalBytes h < fld x.word 63 16 + h.payload.length := by
  simp only [partOutside, Bool.or_eq_true, decide_eq_true_eq, or_assoc]

theorem partOutside_of_place (hlen : h.payload.length ≤ 256) (hal : fld x.word 63 16 % 256 = 0)
    (hin : fld x.word 63 16 + h.payload.length ≤ arrivalBytes h) : partOutside x h = false := by
  rw [← Bool.not_eq_true, partOutside_iff]
  omega

theorem partTake_outside (hout : partOutside x h = true) : partTake x h tenant c s = some (refuseHoist x h 7 s) := if_pos hout

/-- A write packet waits for its segment's message. -/
theorem partTake_early (hin : partOutside x h = false)
    (hearly : ∀ b, c.arrival (fld x.word 15 0) x.aux h.seq = some b → fld x.word 63 16 / 4096 ∉ b.msgs) : partTake x h tenant c s = none := by
  refine (if_neg (Bool.eq_false_iff.1 hin)).trans ?_
  cases ha : c.arrival (fld x.word 15 0) x.aux h.seq with
  | none => rfl
  | some b => exact if_pos (by simpa using hearly b ha)

theorem partTake_staged (hin : partOutside x h = false) (ha : c.arrival (fld x.word 15 0) x.aux h.seq = some a)
    (hmsg : fld x.word 63 16 / 4096 ∈ a.msgs) {pa : Nat} {hc : Bool}
    (hstage : stagingAt c x.aux h.seq (fld x.word 63 16) h.payload.length (heardFrom (fld x.word 15 0) s) = (some (pa, hc), v)) :
    partTake x h tenant c s = some (respond (hoistStation s.regs.nodeId h.comm) (fld x.word 15 0) h.tc x.idx []
      ((performBytes pa h.payload none hc v).updComm (commKey tenant h.comm)
        (putArrival { a with got := insertNat (fld x.word 63 16 / 256) a.got }))) := by
  refine (if_neg (Bool.eq_false_iff.1 hin)).trans ?_
  rw [ha]
  refine (if_neg (by simpa using hmsg)).trans ?_
  rw [stagePart, hstage]
  rfl

end

/-! ## Arrivals that are struck (R440) -/

section
variable {k : Nat} {c : Comm} {q : Coll} {a : Arrival} {s t : State}

/-- The comparison of an arrival with its COLL is one of the outcomes that the rule names. -/
theorem compared_strikeArrival : Rules.compared k c q a s (strikeArrival k c q a s) := by
  unfold Rules.compared
  refine ⟨fun hdiffers => if_pos hdiffers, fun hsame hnarrow pa hc t hstage => ?_⟩
  have hstruck : strikeArrival k c q a s = (match stagingAt c a.slot a.h.seq 0 (a.h.count * (widthOf (hoistType a.h) / 8)) s with
      | (none, s) => s
      | (some (pa, _), s) => _) := (if_neg (not_not_intro hsame)).trans (if_neg (by rw [hnarrow]; decide))
  rw [hstage] at hstruck
  refine ⟨fun hbad => hstruck.trans (if_pos hbad), fun hsound => hstruck.trans (if_neg (Bool.eq_false_iff.1 hsound))⟩

end

/-! ## Copies that are struck (R341, R342) -/

theorem updColl_regs (k seq : Nat) (f : Coll → Coll) (s : State) : (updColl k seq f s).regs = s.regs := updComm_regs s k _

section
variable {tenant act : Nat} {q : Coll} {x y : List Nat} {s t : State}

theorem actOn_of_acts (h : Rules.acts tenant q act x s y t) : actOn tenant q act x s = (.ok y, t) := by
  rw [actOn]
  rcases h with ⟨rfl, l, hlocal, rfl⟩ | ⟨rfl, l, u, hlocal, rfl, hwrite⟩ | ⟨rfl, rfl, hwrite⟩ | ⟨rfl | rfl, rfl, rfl⟩
  · simp [hlocal]
  · simp [hlocal, hwrite]
  · simp [hwrite]
  · rfl
  · rfl

end

section
variable {k : Nat} {c : Comm} {q : Coll} {y : HCopy} {s t u : State}

/-- A copy that can be sent waits for it, narrowed. -/
theorem toSend_of_sendable {node slot : Nat} {circ : Bool} (h : Rules.sendable y) :
    toSend k y node slot circ s = some (putCopy k (Rules.waits y node slot circ s.fabric.clock) s) := by
  obtain ⟨hpens, hnarrow⟩ := h
  refine if_neg ?_
  rw [hnarrow, Bool.not_true, Bool.or_false, List.isEmpty_iff]
  exact hpens

theorem toSend_of_not_sendable {node slot : Nat} {circ : Bool} (h : ¬Rules.sendable y) : toSend k y node slot circ s = none := by
  refine if_pos ?_
  rw [Bool.or_eq_true, List.isEmpty_iff, Bool.not_eq_true', ← Bool.not_eq_true]
  exact Classical.or_iff_not_imp_left.2 fun hpens hnarrow => h ⟨hpens, hnarrow⟩

/-- The origin's hoist, built, is sent or fails its step. -/
theorem buildOrigin_built {rt : Nat} {e : Route} {l : List Nat} (hroute : routeAt c rt s = (.ok e, u))
    (hlocal : localX c.tenant q u = (.ok l, t)) :
    buildOrigin k c q y rt s =
      (toSend k { y with x := l, h := { y.h with pens := e.pens } } e.first e.slot e.circ t).getD (failStep k q.seq 0x01 t) := by
  rw [buildOrigin, hroute]
  dsimp only
  rw [hlocal]
  dsimp only
  cases toSend k { y with x := l, h := { y.h with pens := e.pens } } e.first e.slot e.circ t <;> rfl

/-- A copy's COLL after a strike. -/
def visited (k : Nat) (y : HCopy) (s : State) : State :=
  updColl k y.h.seq (fun q => { q with visits := q.visits + 1, satcnt := y.h.satcnt }) s

/-- The fork that a strike on a node adds, with the pennants of a route entry (R341). -/
def forkOf (y : HCopy) (pen : W64) (pens : List W64) (x : List Nat) (e : Route) (node : Nat) : HCopy :=
  let satcnt := if penNext pen ≠ 0x3ff ∧ penNext pen ≠ node then satSent { y.h with pens } x else y.h.satcnt
  { y with x, h := { y.h with pens := e.pens, satcnt }, st := .strike, orig := false }

/-- The copy after its first pennant has been struck. -/
def leftOver (y : HCopy) (pens : List W64) (x : List Nat) : HCopy := { y with x, h := { y.h with pens } }

section
variable {pen : W64} {pens : List W64} (hpens : y.h.pens = pen :: pens)
include hpens

theorem strikeCopy_illegal (hact : 6 ≤ penAct pen) : strikeCopy k c q y s = failStep k y.h.seq 0x01 s := by
  rw [strikeCopy, hpens]
  exact if_pos hact

theorem strikeCopy_reroute {e : Route} (hact : penAct pen = 5) (hroute : routeAt c (penRt pen) s = (.ok e, t)) :
    strikeCopy k c q y s = putCopy k { y with h := { y.h with pens := e.pens } } (visited k y t) := by
  rw [strikeCopy, hpens]
  simp only [hact, hroute]
  rfl

/-- A strike whose action is done: the copy moves on, a fork added first, or its step fails. -/
theorem strikeCopy_acted {x : List Nat} {e : Route} (hact : penAct pen < 5)
    (hroute : (if penAct pen = 4 then routeAt c (penRt pen) s else (.ok ⟨[], 0, 0, false⟩, s)) = (.ok e, u))
    (hacts : Rules.acts c.tenant q (penAct pen) y.x u x t) :
    let w := if penAct pen = 4 then addCopy k (forkOf y pen pens x e t.regs.nodeId) (visited k y t) else visited k y t
    strikeCopy k c q y s = (moveOn k t.regs.nodeId (leftOver y pens x) pen w).getD (failStep k y.h.seq 0x01 (visited k y t)) := by
  intro w
  have hregs : (visited k y t).regs = t.regs := updColl_regs _ _ _ _
  have hlow : ¬ 6 ≤ penAct pen := by omega
  have hother : penAct pen ≠ 5 := by omega
  rw [strikeCopy, hpens]
  simp only [hlow, if_false, Bool.or_eq_true, decide_eq_true_eq, hother, or_false, hroute, actOn_of_acts hacts]
  show (moveOn k (visited k y t).regs.nodeId (leftOver y pens x) pen (if penAct pen = 4 then
      addCopy k (forkOf y pen pens x e (visited k y t).regs.nodeId) (visited k y t) else visited k y t)).getD _ = _
  rw [hregs]
  rfl

end

end

section
variable {k node : Nat} {y : HCopy} {pen : W64} {s : State}

theorem moveOn_ends (hend : penNext pen = 0x3ff) : moveOn k node y pen s = some (copyAway k y.id s) := if_pos hend

theorem moveOn_stays (hon : penNext pen ≠ 0x3ff) (hhere : penNext pen = node) (hpens : y.h.pens ≠ []) :
    moveOn k node y pen s = some (putCopy k y s) :=
  ((if_neg hon).trans (if_pos hhere)).trans (if_neg fun hempty => hpens (List.isEmpty_iff.1 hempty))

theorem moveOn_stuck (hon : penNext pen ≠ 0x3ff) (hhere : penNext pen = node) (hpens : y.h.pens = []) :
    moveOn k node y pen s = none :=
  ((if_neg hon).trans (if_pos hhere)).trans (if_pos (List.isEmpty_iff.2 hpens))

theorem moveOn_away (hon : penNext pen ≠ 0x3ff) (hthere : penNext pen ≠ node) :
    moveOn k node y pen s = toSend k y (penNext pen) (penSlot pen) (penCirc pen) s :=
  (if_neg hon).trans (if_neg hthere)

end

/-- The strike of a copy is one of the outcomes that the rule names. -/
theorem struck_strikeCopy {k : Nat} {c : Comm} {q : Coll} {y : HCopy} {s : State} :
    Rules.struck k c q y s (strikeCopy k c q y s) := by
  refine ⟨fun hpens => ?_, fun pen pens hpens => ⟨strikeCopy_illegal hpens, fun e t => strikeCopy_reroute hpens, ?_⟩⟩
  · rw [strikeCopy, hpens]
    rfl
  intro x u t hact hfork hstay hacts z away
  obtain ⟨e, hroute⟩ : ∃ e : Route, (if penAct pen = 4 then routeAt c (penRt pen) s else (.ok ⟨[], 0, 0, false⟩, s)) = (.ok e, u) := by
    by_cases h4 : penAct pen = 4
    · rw [if_pos h4]
      exact hfork h4
    · exact ⟨⟨[], 0, 0, false⟩, by rw [if_neg h4, hstay h4]⟩
  have hmoves := strikeCopy_acted (k := k) hpens hact hroute hacts
  refine ⟨if penAct pen = 4 then addCopy k (forkOf y pen pens x e t.regs.nodeId) (visited k y t) else visited k y t,
    fun h4 => if_neg h4, fun e' h4 hroute' => ?fork, fun hend => ?ends, fun hon hhere => ?stays, fun haway => ?leaves⟩
  case fork =>
    rw [if_pos h4, hroute'] at hroute
    obtain ⟨rfl⟩ : e' = e := by injection hroute with hgot; injection hgot
    rw [if_pos h4]
    simp only [forkOf, away, Bool.and_eq_true, decide_eq_true_eq]
    rfl
  case ends => exact hmoves.trans (by rw [moveOn_ends hend]; rfl)
  case stays =>
    have hnode : penNext pen = t.regs.nodeId := by simpa [away, hon] using hhere
    exact ⟨fun hleft => hmoves.trans (by rw [moveOn_stays hon hnode hleft]; rfl),
      fun hnone => hmoves.trans (by rw [moveOn_stuck hon hnode hnone]; rfl)⟩
  case leaves =>
    obtain ⟨hon, hthere⟩ : penNext pen ≠ 0x3ff ∧ penNext pen ≠ t.regs.nodeId := by simpa [away] using haway
    exact ⟨fun hsend => hmoves.trans (by rw [moveOn_away hon hthere, toSend_of_sendable (y := leftOver y pens x) hsend]; rfl),
      fun hstuck => hmoves.trans (by rw [moveOn_away hon hthere, toSend_of_not_sendable (y := leftOver y pens x) hstuck]; rfl)⟩

/-! ## The events -/

/-- What a copy whose turn it is does, by its state (R342). -/
def copyTurn (k : Nat) (c : Comm) (q : Coll) (y : HCopy) (s : State) : State :=
  match y.st with
  | .strike => strikeCopy k c q y s
  | .origin rt => buildOrigin k c q y rt s
  | _ => s

section
variable {x : Input} {c : Comm} {y : HCopy} {s t u : State} (hc : getN s.comms (commKey x.unit x.idx) = some c)
include hc

theorem hoistStrike_arrival (hlive : c.failed = false) {a : Arrival} {q : Coll} (hflag : x.flag = true)
    (ha : c.arrivals.find? (fun a => a.id = x.aux && !a.struck && a.full) = some a) (hq : c.coll a.h.seq = some q) :
    hoistStrike x s = strikeArrival (commKey x.unit x.idx) c q a s := by
  rw [hoistStrike, hc]
  refine ((if_neg (Bool.eq_false_iff.1 hlive)).trans (if_pos hflag)).trans ?_
  rw [ha]
  dsimp only
  rw [hq]

/-- A copy before which none of its arrival is to act does what its state says. -/
theorem hoistStrike_copy (hlive : c.failed = false) {q : Coll} (hflag : x.flag = false)
    (hy : c.copies.find? (fun y => y.id = x.aux) = some y) (hq : c.coll y.h.seq = some q)
    (hfirst : ∀ z ∈ c.copies, z.id < y.id → z.arr = y.arr → z.h.seq = y.h.seq → z.acting = false) :
    hoistStrike x s = copyTurn (commKey x.unit x.idx) c q y s := by
  have hturn : (c.copies.any fun z => decide (z.id < y.id) && z.arr = y.arr && z.h.seq = y.h.seq && z.acting) = false := by
    refine List.any_eq_false.2 fun z hz hacts => ?_
    simp only [Bool.and_eq_true, decide_eq_true_eq] at hacts
    obtain ⟨⟨⟨hid, harr⟩, hseq⟩, hacting⟩ := hacts
    exact absurd hacting (Bool.eq_false_iff.1 (hfirst z hz hid harr hseq))
  rw [hoistStrike, hc]
  refine ((if_neg (Bool.eq_false_iff.1 hlive)).trans (if_neg (Bool.eq_false_iff.1 hflag))).trans ?_
  rw [hy]
  refine (if_neg (Bool.eq_false_iff.1 hturn)).trans ?_
  rw [hq]
  rfl

section
variable {node slot since : Nat} {via : Bool} (hy : c.copies.find? (fun y => y.id = x.aux) = some y)
include hy

/-- A copy is sent in segments over its station (R340). -/
theorem hoistSend_station (hlive : c.failed = false) (hst : y.st = .send node slot false since) :
    hoistSend x s = (segments s c y node slot).foldl (fun s p => enqueuePkt (hoistStation node c.id) p s)
      (putCopy (commKey x.unit x.idx) { y with st := .sent ((segments s c y node slot).filterMap Packet.partNo) } s) := by
  rw [hoistSend, hc]
  dsimp only
  rw [hy]
  dsimp only
  rw [hst]
  exact (if_neg (Bool.eq_false_iff.1 hlive)).trans (if_neg Bool.false_ne_true)

/-- A copy is sent whole over a live circuit (R354). -/
theorem hoistSend_circuit (hlive : c.failed = false) (hst : y.st = .send node slot true since) {p : Nat}
    (hport : circuitPort s c.tenant node = some p) :
    hoistSend x s = putCopy (commKey x.unit x.idx) { y with st := .flying p node slot }
      { s with net := s.net ++ [.hoist p slot { hoistWire { y.h with tenant := podasid s c.tenant } with payload := y.bytes }] } := by
  rw [hoistSend, hc]
  dsimp only
  rw [hy]
  dsimp only
  rw [hst]
  refine ((if_neg (Bool.eq_false_iff.1 hlive)).trans (if_pos rfl)).trans ?_
  rw [hport]

/-- A copy that has waited 4 ms for a circuit fails its step (R446). -/
theorem hoistTimeout_late (hst : y.st = .send node slot true since) (hport : circuitPort s x.unit node = none)
    (hlate : since + 4000000 ≤ s.fabric.clock) : hoistTimeout x s = failStep (commKey x.unit x.idx) y.h.seq 0x34 s := by
  have hdue : ¬ s.fabric.clock < since + fourMs := Nat.not_lt.2 hlate
  rw [hoistTimeout, hc]
  dsimp only [Option.bind_some]
  rw [hy]
  dsimp only
  rw [hst]
  refine if_neg ?_
  rw [hport, decide_eq_false hdue]
  decide

end

end

/-- Settles O45: one rule per case of each event. -/
theorem hoistEvents : Obligations.HoistEvents := by
  unfold Obligations.HoistEvents
  intro s x goes
  have event {i : Instr} {t u : State} (hexec : exec i s = .next t) (ht : t = u) : goes i u := hexec.trans (congrArg _ ht)
  have arrives {u : State} (hu : hoistArrival x s = u) : goes .hoistArrival u := event rfl hu
  have strikes {u : State} (hu : hoistStrike x s = u) : goes .hoistStrike u := event rfl hu
  have sends {u : State} (hu : hoistSend x s = u) : goes .hoistSend u := event rfl hu
  have ends {u : State} (hu : hoistTimeout x s = u) : goes .hoistCircuitTimeout u := event rfl hu
  refine ⟨fun h hg hbehind => arrives (hoistArrival_behind hg hbehind), ?arrival, ?strike, ?send⟩
  case arrival =>
    intro g hg hfirst h src off u say
    have taken {v : State} (hv : hoistTake x g s = some v) : goes .hoistArrival v := arrives (hoistArrival_taken hg hfirst hv)
    refine ⟨fun htenant => taken (hoistTake_noTenant htenant), fun t htenant hnone => taken (hoistTake_noComm htenant hnone),
      fun t c htenant hc hfailed => taken (hoistTake_failed htenant hc hfailed),
      fun t c htenant hc hlive hout => taken (hoistTake_outside htenant hc hlive (outside_iff.2 hout)), ?_⟩
    intro t c htenant hc hlive hslot hpens hfew k n hsome hsize hold a fresh add become
    have hin : outside x h c = false := by
      rw [← Bool.not_eq_true, outside_iff]
      rintro (hbad | hbad | hbad | hbad | hbad)
      · exact absurd hslot (Nat.not_lt.2 hbad)
      · exact hpens hbad
      · exact absurd hfew (Nat.not_le.2 hbad)
      · exact hsome hbad
      · exact absurd hsize (Nat.not_le.2 hbad)
    have htake := hoistTake_within htenant hc hlive hin
    have held (hnone : hoistTake x g s = none) : goes .hoistArrival hold := arrives (hoistArrival_held hg hfirst hnone)
    have circuit (hflag : x.flag = true) : hoistTake x g s = circuitTake x h t c s := htake.trans (if_pos hflag)
    have message (hflag : x.flag = false) (hmsg : h.payload = []) : hoistTake x g s = messageTake x h t c s :=
      htake.trans ((if_neg (Bool.eq_false_iff.1 hflag)).trans (if_pos (List.isEmpty_iff.2 hmsg)))
    have part (hflag : x.flag = false) (hpart : h.payload ≠ []) : hoistTake x g s = partTake x h t c s :=
      htake.trans ((if_neg (Bool.eq_false_iff.1 hflag)).trans (if_neg fun hempty => hpart (List.isEmpty_iff.1 hempty)))
    refine ⟨fun hflag hlen => taken ((circuit hflag).trans (circuitTake_short hlen)),
      fun hflag hlen hholds => held ((circuit hflag).trans (circuitTake_full hlen hholds)),
      fun hflag hmsg hnew hholds => held ((message hflag hmsg).trans (messageTake_full hnew hholds)),
      fun hflag hpart hout => taken ((part hflag hpart).trans (partTake_outside (partOutside_iff.2 hout))),
      fun hflag hpart hlen hal hplace hearly =>
        held ((part hflag hpart).trans (partTake_early (partOutside_of_place hlen hal hplace) hearly)),
      fun hflag hlen hfree pa hc v hstage => taken ((circuit hflag).trans (circuitTake_staged hlen hfree hstage)),
      fun hflag hmsg hnew hfree => taken ((message hflag hmsg).trans (messageTake_new hnew hfree)),
      fun hflag hmsg b hb => taken ((message hflag hmsg).trans (messageTake_next hb)),
      fun hflag hpart b hb hlen hal hplace hmsg pa hc v hstage =>
        taken ((part hflag hpart).trans (partTake_staged (partOutside_of_place hlen hal hplace) hb hmsg hstage))⟩
  case strike =>
    intro c hc hlive k
    refine ⟨fun a q hflag ha hq => ⟨_, strikes (hoistStrike_arrival hc hlive hflag ha hq), compared_strikeArrival⟩, ?_⟩
    intro y q hflag hy hq hfirst
    have hstrike := hoistStrike_copy hc hlive hflag hy hq hfirst
    constructor
    · intro hst
      exact ⟨_, strikes (hstrike.trans (by rw [copyTurn, hst])), struck_strikeCopy⟩
    · intro rt e l u t hst hroute hlocal z
      rw [copyTurn, hst] at hstrike
      have hbuilt := hstrike.trans (buildOrigin_built hroute hlocal)
      exact ⟨fun hsend => strikes (hbuilt.trans (by rw [toSend_of_sendable (y := z) hsend]; rfl)),
        fun hstuck => strikes (hbuilt.trans (by rw [toSend_of_not_sendable (y := z) hstuck]; rfl))⟩
  case send =>
    intro c y node slot via t hc hlive hy hst k
    refine ⟨?_, ?_, ?_⟩
    · rintro rfl ps
      exact sends (hoistSend_station hc hy hlive hst)
    · rintro p rfl hport
      exact sends (hoistSend_circuit hc hy hlive hst hport)
    · rintro rfl hport hlate
      exact ends (hoistTimeout_late hc hy hst hport hlate)

end Sys2Proof.Laws
end
